-- ==== Sys2Proof/Word.lean ====
section
/-! DEFINITION. The word types of the D9 (spec/00_scope.md R7; 02 R41, R42). -/

namespace Sys2Proof

/-- One byte. -/
abbrev Byte := BitVec 8
/-- A 32-bit register (R41). -/
abbrev Word := BitVec 32
/-- A register pair, an address or an instruction word (R42, R95). -/
abbrev DWord := BitVec 64

/-- A register number of an instruction field (R41): 0 to 253 name registers, 254 the literal,
255 the register `z`. -/
abbrev Reg := BitVec 8

/-- A sparse table keyed by number, in ascending key order: what State uses for everything the
package holds many of. An unlisted key stands for the entry's reset value. -/
abbrev Tbl (α : Type) := List (Nat × α)

end Sys2Proof
end

