-- ==== Sys2Proof/Machine/Tbl.lean ====
section
/-! DEFINITION. Operations on the sparse tables of State and on memory held as a canonical list of
(address, byte) pairs. -/

namespace Sys2Proof

/-- The entry of `t` at `k`; an unlisted key reads as `d`. -/
def Tbl.get {α : Type} (d : α) : Tbl α → Nat → α
  | [], _ => d
  | (k, v) :: t, n => if k = n then v else Tbl.get d t n

/-- `t` with entry `n` at `v`, keys strictly rising. -/
def Tbl.set {α : Type} : Tbl α → Nat → α → Tbl α
  | [], n, v => [(n, v)]
  | (k, w) :: t, n, v =>
    if n < k then (n, v) :: (k, w) :: t
    else if n = k then (n, v) :: t
    else (k, w) :: Tbl.set t n v

/-- Apply `f` to entry `k`. -/
def Tbl.upd {α : Type} (d : α) (t : Tbl α) (k : Nat) (f : α → α) : Tbl α :=
  Tbl.set t k (f (Tbl.get d t k))

/-- Drop entry `k`, which then reads as the reset value. -/
def Tbl.del {α : Type} (t : Tbl α) (k : Nat) : Tbl α := t.filter (fun e => e.1 != k)

/-- Apply `f` to every listed entry. -/
def Tbl.mapVals {α β : Type} (f : Nat → α → β) (t : Tbl α) : Tbl β := t.map (fun e => (e.1, f e.1 e.2))

/-- Memory: bytes by address, addresses strictly rising, no byte 0 listed (log entry 13). -/
abbrev Mem := List Host.Cell

/-- What an address that is not listed reads as (log entry 13). -/
def Mem.unlisted : Byte := 0

/-- The byte at address `a`. -/
def Mem.read : Mem → Nat → Byte
  | [], _ => Mem.unlisted
  | (k, b) :: m, a => if k = a then b else if a < k then Mem.unlisted else Mem.read m a

/-- `m` with byte `b` at address `a`, in canonical form. -/
def Mem.write : Mem → Nat → Byte → Mem
  | [], a, b => if b = Mem.unlisted then [] else [(a, b)]
  | (k, c) :: m, a, b =>
    if a < k then (if b = Mem.unlisted then (k, c) :: m else (a, b) :: (k, c) :: m)
    else if a = k then (if b = Mem.unlisted then m else (a, b) :: m)
    else (k, c) :: Mem.write m a b

/-- Every address of `m` is above `lo`, addresses rise strictly, and no listed byte is the one an
unlisted address reads as. -/
def Mem.wfFrom : Nat → Mem → Bool
  | _, [] => true
  | lo, (k, b) :: m => decide (lo ≤ k) && decide (b ≠ Mem.unlisted) && Mem.wfFrom (k + 1) m

/-- The canonical form of a memory. -/
def Mem.wf (m : Mem) : Bool := Mem.wfFrom 0 m

/-- The `n` bytes from address `a` upwards. -/
def Mem.readN (m : Mem) : Nat → Nat → List Byte
  | _, 0 => []
  | a, n + 1 => Mem.read m a :: Mem.readN m (a + 1) n

/-- Write the bytes `bs` from address `a` upwards. -/
def Mem.writeN (m : Mem) : Nat → List Byte → Mem
  | _, [] => m
  | a, b :: bs => Mem.writeN (Mem.write m a b) (a + 1) bs

/-- The number whose little-endian bytes are `bs` (R7). -/
def leNat : List Byte → Nat
  | [] => 0
  | b :: bs => b.toNat + 256 * leNat bs

/-- The `n` little-endian bytes of `v` modulo 256^n (R7). -/
def leBytes : Nat → Nat → List Byte
  | 0, _ => []
  | n + 1, v => BitVec.ofNat 8 v :: leBytes n (v / 256)

/-- Field `len` bits from bit `lo` of a number. -/
def bitsAt (v lo len : Nat) : Nat := v / 2 ^ lo % 2 ^ len

/-- Insert into a list of numbers in ascending order, once. -/
def insertNat (n : Nat) : List Nat → List Nat
  | [] => [n]
  | k :: t => if n < k then n :: k :: t else if n = k then k :: t else k :: insertNat n t

/-- Insert `x` into a list in ascending order of `f`, behind its equals. -/
def insertBy {α : Type} (f : α → Nat) (x : α) : List α → List α
  | [] => [x]
  | y :: t => if f x < f y then x :: y :: t else y :: insertBy f x t

/-- Sort in ascending order of `f`, equals in their order. -/
def sortBy {α : Type} (f : α → Nat) (l : List α) : List α :=
  l.foldl (fun acc x => insertBy f x acc) []

/-- Replace element `i` of a list by `f` of it. -/
def updAt {α : Type} (f : α → α) : Nat → List α → List α
  | _, [] => []
  | 0, x :: t => f x :: t
  | i + 1, x :: t => x :: updAt f i t

/-- Drop element `i` of a list. -/
def dropAt {α : Type} : Nat → List α → List α
  | _, [] => []
  | 0, _ :: t => t
  | i + 1, x :: t => x :: dropAt i t

/-- Apply `f` to the first element that satisfies `p`. -/
def updFirst {α : Type} (p : α → Bool) (f : α → α) : List α → List α
  | [] => []
  | x :: t => if p x then f x :: t else x :: updFirst p f t

/-- The lowest number below `n` that is not in `used`. -/
def lowestFree (used : List Nat) (n : Nat) : Option Nat :=
  (List.range n).find? (fun i => !used.contains i)

end Sys2Proof
end

