-- ==== Sys2Proof/Syntax.lean ====
section
/-! DEFINITION. The instructions of the D9 and the steps of the package: one constructor of
`Instr` per row of spec/opcode_table.json (04 R102 to R111; 95). -/

namespace Sys2Proof

/-- The PRED field (R109): `neg` is bit 3, `num` bits 2:0. -/
structure Pred where
  neg : Bool
  num : BitVec 3
deriving DecidableEq, Repr

/-- The operand types of R110. -/
inductive Ty where
  | i32 | n32 | i64 | n64 | f32 | f64 | f16x2 | bf16x2 | i16x2 | n16x2 | i8x4 | n8x4
deriving DecidableEq, Repr

/-- The rounding codes of R77. -/
inductive Rnd where
  | rn | rz | ru | rd
deriving DecidableEq, Repr

/-- The scopes of R106. -/
inductive Scope where
  | team | group | cluster | package | system
deriving DecidableEq, Repr

/-- The ORD codes of R106. -/
inductive MemOrd where
  | plain | acq | rel | acqrel
deriving DecidableEq, Repr

/-- The fields of format F-3R below OPC and SUB (R103). `c` also holds a predicate code where an
entry says so (R160, R163, R164); a field an entry does not use is 0. -/
structure F3 where
  d   : Reg
  a   : Reg
  b   : Reg
  c   : Reg
  p   : Pred
  ty  : Ty
  rnd : Rnd
  sat : Bool
  imm : Byte
deriving DecidableEq, Repr

/-- The fields of format F-RI below OPC and SUB (R105). -/
structure FRI where
  d   : Reg
  a   : Reg
  p   : Pred
  imm : Word
deriving DecidableEq, Repr

/-- The fields of format F-BR below OPC (R107); `r` is LINK or SRC. -/
structure FBR where
  cond : Pred
  r    : Reg
  p    : Pred
  off  : Word
deriving DecidableEq, Repr

/-- The fields of format F-MEM below OPC and SUB (R106). -/
structure FMem where
  data  : Reg
  base  : Reg
  p     : Pred
  scope : Scope
  ord   : MemOrd
  few   : Bool
  fec   : Bool
  far   : Bool
  off   : BitVec 24
deriving DecidableEq, Repr

/-- Width and extension of a load or a store (R172). -/
inductive Width where
  | w8 | s8 | w16 | s16 | w32 | w64 | w128
deriving DecidableEq, Repr

/-- The conditions of `icmp` (R131). -/
inductive ICond where
  | eq | ne | lt | le | gt | ge | tst | ntst
deriving DecidableEq, Repr

/-- The conditions of `fcmp` (R132). -/
inductive FCond where
  | eq | ne | lt | le | gt | ge | ord | uno
deriving DecidableEq, Repr

/-- The variants of `cvt` (R154). -/
inductive CvtVar where
  | scalar | narrow | widen
deriving DecidableEq, Repr

/-- The modes of `xchg` (R160). -/
inductive XMode where
  | xor | up | down | idx
deriving DecidableEq, Repr

/-- The forms of `vote` (R161). -/
inductive VMode where
  | any | all | count | ballot
deriving DecidableEq, Repr

/-- The operators of `redux`, `prefix` and `segm` (R163). -/
inductive ROp where
  | add | min | max | and | or | xor
deriving DecidableEq, Repr

/-- The forms of `lid` (R165). -/
inductive LidMode where
  | id | rank | count
deriving DecidableEq, Repr

/-- The operations of `atom` and `red` (R181), in SUB order. -/
inductive AOp where
  | add32 | minS32 | maxS32 | minU32 | maxU32 | and32 | or32 | xor32 | xchg32
  | add64 | minS64 | maxS64 | and64 | or64 | xor64 | xchg64
deriving DecidableEq, Repr

/-- The paths of `pathf` (R194). -/
inductive PathSel where
  | const | tile | all
deriving DecidableEq, Repr

/-- A place kind as `decl` and `redecl` name it (R202). -/
inductive DKind where
  | lane | team | mem | bank
deriving DecidableEq, Repr

/-- The dataflows of `mloop` (R220). -/
inductive Dataflow where
  | ip | op | rw
deriving DecidableEq, Repr

/-- The operations of `nest` (R246), in SUB order. -/
inductive NestOp where
  | copy | add | sub | mul | min | max | mac | and | or | xor
deriving DecidableEq, Repr

/-- `mlds` (R229); `bar` is WBAR with its XREG and WPH fields. -/
structure MldsOps where
  qset  : BitVec 4
  breg  : BitVec 4
  fbb   : BitVec 16
  pitch : BitVec 16
deriving DecidableEq, Repr

/-- The barrier fields of `mlds.bar` (R229). -/
structure BarOps where
  xreg : BitVec 4
  wph  : Bool
deriving DecidableEq, Repr

/-- `mzero` (R228). -/
structure MzeroOps where
  qset : BitVec 4
  acc  : BitVec 3
  all  : Bool
deriving DecidableEq, Repr

/-- `mloop` (R230). -/
structure MloopOps where
  df     : Dataflow
  ovw    : Bool
  qset   : BitVec 4
  acc    : BitVec 3
  lclass : BitVec 4
  steps  : BitVec 12
  areg   : BitVec 4
  breg   : BitVec 4
  mreg   : BitVec 4
  sout   : Bool
  oreg   : BitVec 4
  fba    : BitVec 16
  fbb    : BitVec 16
  ainc   : BitVec 16
  binc   : BitVec 16
deriving DecidableEq, Repr

/-- How `mdrain` reads a tile (R231). -/
inductive IKind where
  | f32 | i32 | f64
deriving DecidableEq, Repr

/-- The output formats of `mdrain` (R231), in code order. -/
inductive OFmt where
  | f32 | bf16 | f16 | e4m3 | e5m2 | i32 | i8 | f64
deriving DecidableEq, Repr

/-- `mdrain` (R231). -/
structure MdrainOps where
  add   : Bool
  ikind : IKind
  qset  : BitVec 4
  acc   : BitVec 3
  ofmt  : OFmt
  rnd   : Rnd
  sat   : Bool
  dreg  : BitVec 4
  pitch : BitVec 16
deriving DecidableEq, Repr

/-- `mcomp` (R232). -/
structure McompOps where
  p48    : Bool
  qset   : BitVec 4
  rows   : BitVec 7
  len16  : BitVec 4
  sreg   : BitVec 4
  vreg   : BitVec 4
  mreg   : BitVec 4
  fb     : BitVec 16
  spitch : BitVec 16
  vpitch : BitVec 16
deriving DecidableEq, Repr

/-- `mread` (R233). -/
structure MreadOps where
  qset : BitVec 4
  acc  : BitVec 3
  col  : BitVec 5
  dst  : Reg
  w64  : Bool
deriving DecidableEq, Repr

/-- Format F-N below OPC, SUB and TYPE (R108): stride j stands in bits 8j + 7 : 8j of `strides`. -/
structure FN where
  depth   : BitVec 3
  rmask   : BitVec 5
  p       : Pred
  bd      : Reg
  ba      : Reg
  bb      : Reg
  shd     : BitVec 4
  sha     : BitVec 4
  shb     : BitVec 4
  x0      : BitVec 12
  x1      : BitVec 12
  x2      : BitVec 12
  x3      : BitVec 12
  x4      : BitVec 12
  strides : BitVec 120
deriving DecidableEq, Repr

/-- The target of `fork` (R237). -/
inductive ForkTgt where
  | matrix | lace (k : BitVec 2)
deriving DecidableEq, Repr

/-- `fork` (R237). -/
structure ForkOps where
  tgt   : ForkTgt
  qset  : BitVec 4
  ebase : Reg
  ecnt  : BitVec 5
  p     : Pred
  off   : Word
deriving DecidableEq, Repr

/-- `lace` (R241). -/
structure LaceOps where
  dims  : BitVec 2
  le    : BitVec 2
  src   : Reg
  dst   : Reg
  bar   : Reg
  p     : Pred
  rowb  : BitVec 24
  x1    : BitVec 12
  x2    : BitVec 12
  str   : Reg
  setfe : Bool
  inc   : Bool
  outc  : Bool
deriving DecidableEq, Repr

/-- `laceg` (R244). -/
structure LacegOps where
  le    : BitVec 2
  src   : Reg
  dst   : Reg
  bar   : Reg
  p     : Pred
  rowb  : BitVec 24
  xn    : BitVec 12
  idx   : Reg
  pitch : Reg
  setfe : Bool
  inc   : Bool
  outc  : Bool
deriving DecidableEq, Repr

/-- Who writes a system register (R301, R325): the Zesan firmware or the manager of a domain. -/
inductive Writer where
  | fw | dm (domain : Nat)
deriving DecidableEq, Repr

/-- An ownership register of a domain or of a core (R303, R304). -/
inductive OwnReg where
  /-- byte `unit` of core `core`'s ownership table -/
  | core (core unit : Nat)
  | slices | mscb | chan
deriving DecidableEq, Repr

/-- A calendar: a core's (R311) or a link direction's (R312). -/
inductive CalId where
  | core (c : Nat) | link (l : Nat)
deriving DecidableEq, Repr

/-- A token bucket of VD `v` (R310, R314): an issue bucket, a link bucket or a fill bucket. -/
inductive BktId where
  | core (c v : Nat) | link (l v : Nat) | l1 (v : Nat) | l2 (v : Nat) | msc (v : Nat)
deriving DecidableEq, Repr

/-- A register block of the D9's register space (R374). -/
inductive Blk where
  | tenancy | context | reliability | coolant | queue | peer
deriving DecidableEq, Repr

/-- The instructions and the steps of the package, one constructor per row of the opcode table. -/
inductive Instr where
  /-- ADD (R116). -/
  | add (o : F3)
  /-- SUB (R116). -/
  | sub (o : F3)
  /-- MUL (R116). -/
  | mul (o : F3)
  /-- MULH (R116). -/
  | mulh (o : F3)
  /-- MAD (R116). -/
  | mad (wide : Bool) (o : F3)
  /-- DIV (R116). -/
  | div (o : F3)
  /-- REM (R116). -/
  | rem (o : F3)
  /-- MIN (R116). -/
  | min (o : F3)
  /-- MAX (R116). -/
  | max (o : F3)
  /-- ADD64 (R117). -/
  | add64 (x32 : Bool) (o : F3)
  /-- SUB64 (R117). -/
  | sub64 (x32 : Bool) (o : F3)
  /-- MUL64 (R117). -/
  | mul64 (wide : Bool) (o : F3)
  /-- LEA (R118). -/
  | lea (o : F3)
  /-- DP4 (R119). -/
  | dp4 (su : Bool) (o : F3)
  /-- LI (R120). -/
  | li (o : FRI)
  /-- LI_SX (R120). -/
  | liSx (o : FRI)
  /-- LI_ZX (R120). -/
  | liZx (o : FRI)
  /-- AND (R123). -/
  | and (o : F3)
  /-- OR (R123). -/
  | or (o : F3)
  /-- XOR (R123). -/
  | xor (o : F3)
  /-- ANDN (R123). -/
  | andn (o : F3)
  /-- SHL (R124). -/
  | shl (clamp : Bool) (o : F3)
  /-- SHR (R124). -/
  | shr (clamp : Bool) (o : F3)
  /-- SAR (R124). -/
  | sar (clamp : Bool) (o : F3)
  /-- ROT (R124). -/
  | rot (o : F3)
  /-- POPC (R125). -/
  | popc (o : F3)
  /-- CLZ (R125). -/
  | clz (o : F3)
  /-- FFS (R125). -/
  | ffs (o : F3)
  /-- BREV (R125). -/
  | brev (o : F3)
  /-- BFE (R126). -/
  | bfe (o : F3)
  /-- BFI (R126). -/
  | bfi (o : F3)
  /-- CLMUL (R127). -/
  | clmul (o : F3)
  /-- SEL (R128). -/
  | sel (o : F3)
  /-- ICMP (R131). -/
  | icmp (c : ICond) (o : F3)
  /-- FCMP (R132). -/
  | fcmp (c : FCond) (o : F3)
  /-- PAND (R133). -/
  | pand (o : F3)
  /-- POR (R133). -/
  | por (o : F3)
  /-- PXOR (R133). -/
  | pxor (o : F3)
  /-- PNOT (R133). -/
  | pnot (o : F3)
  /-- PSET (R134). -/
  | pset (bit : Bool) (o : F3)
  /-- BR (R136). -/
  | br (o : FBR)
  /-- BRDIV (R137). -/
  | brdiv (o : FBR)
  /-- JOIN (R19). -/
  | join (o : FBR)
  /-- CALL (R139). -/
  | call (o : FBR)
  /-- RET (R139). -/
  | ret (o : FBR)
  /-- EXIT (R23). -/
  | exit (o : FBR)
  /-- BRX (R140). -/
  | brx (o : FBR)
  /-- WAIT (R142). -/
  | wait (o : FRI)
  /-- NOP (R143). -/
  | nop (o : F3)
  /-- TFENCE (R87). -/
  | tfence (o : F3)
  /-- GETF (R144). -/
  | getf (o : F3)
  /-- GETF_CLR (R144). -/
  | getfClr (o : F3)
  /-- CLRF (R144). -/
  | clrf (o : F3)
  /-- CLRF_FEN (R144). -/
  | clrfFen (o : F3)
  /-- CLRF_LOAD (R144). -/
  | clrfLoad (o : F3)
  /-- RDSR (R145). -/
  | rdsr (o : F3)
  /-- FADD (R148). -/
  | fadd (o : F3)
  /-- FSUB (R148). -/
  | fsub (o : F3)
  /-- FMUL (R148). -/
  | fmul (o : F3)
  /-- FFMA (R148). -/
  | ffma (o : F3)
  /-- FMIN (R80). -/
  | fmin (o : F3)
  /-- FMAX (R80). -/
  | fmax (o : F3)
  /-- FDIV (R148). -/
  | fdiv (o : F3)
  /-- FSCALE (R148). -/
  | fscale (o : F3)
  /-- FROUND (R150). -/
  | fround (exact : Bool) (o : F3)
  /-- FCLASS (R151). -/
  | fclass (o : F3)
  /-- FDOT2 (R149). -/
  | fdot2 (o : F3)
  /-- FRCP (R153). -/
  | frcp (o : F3)
  /-- FRSQ (R153). -/
  | frsq (o : F3)
  /-- FSQRT (R153). -/
  | fsqrt (o : F3)
  /-- FEXP2 (R153). -/
  | fexp2 (o : F3)
  /-- FLOG2 (R153). -/
  | flog2 (o : F3)
  /-- FSIN (R153). -/
  | fsin (o : F3)
  /-- FCOS (R153). -/
  | fcos (o : F3)
  /-- FTANH (R153). -/
  | ftanh (o : F3)
  /-- CVT (R154). -/
  | cvt (k : CvtVar) (o : F3)
  /-- PACK (R155). -/
  | pack (e5m2 : Bool) (o : F3)
  /-- PACK_OX4 (R156). -/
  | packOx4 (o : F3)
  /-- UNPACK (R157). -/
  | unpack (e5m2 : Bool) (o : F3)
  /-- UNPACK_OX4 (R157). -/
  | unpackOx4 (o : F3)
  /-- XCHG (R160). -/
  | xchg (m : XMode) (o : F3)
  /-- VOTE (R161). -/
  | vote (m : VMode) (o : F3)
  /-- MATCH (R162). -/
  | matchOp (all : Bool) (o : F3)
  /-- REDUX (R163). -/
  | redux (op : ROp) (o : F3)
  /-- PREFIX (R163). -/
  | prefixOp (op : ROp) (excl : Bool) (o : F3)
  /-- PICK (R164). -/
  | pick (o : F3)
  /-- LID (R165). -/
  | lid (m : LidMode) (o : F3)
  /-- SEGM (R163). -/
  | segm (op : ROp) (tot : Bool) (o : F3)
  /-- LD (R173). -/
  | ld (w : Width) (o : FMem)
  /-- ST (R173). -/
  | st (w : Width) (o : FMem)
  /-- LDU (R174). -/
  | ldu (w : Width) (o : FMem)
  /-- STU (R174). -/
  | stu (w : Width) (o : FMem)
  /-- LDS (R177). -/
  | lds (w : Width) (o : FMem)
  /-- STS (R177). -/
  | sts (w : Width) (o : FMem)
  /-- LDC (R175). -/
  | ldc (w : Width) (o : FMem)
  /-- STC (R175). -/
  | stc (w : Width) (o : FMem)
  /-- LDK (R176). -/
  | ldk (w : Width) (o : FMem)
  /-- SETFE (R178). -/
  | setfe (o : FMem)
  /-- CLRFE (R178). -/
  | clrfe (o : FMem)
  /-- ATOM (R181). -/
  | atom (op : AOp) (o : FMem)
  /-- ATOMCAS (R182). -/
  | atomcas (wide : Bool) (o : FMem)
  /-- RED (R181). -/
  | red (op : AOp) (o : FMem)
  /-- ATOMF (R183). -/
  | atomf (bf : Bool) (o : FMem)
  /-- REDF (R183). -/
  | redf (bf : Bool) (o : FMem)
  /-- TBEG (R186). -/
  | tbeg (o : FMem)
  /-- TEND (R189). -/
  | tend (o : FMem)
  /-- TRANSACTION_COMMIT (R189). -/
  | transactionCommit (ctx : Nat)
  /-- TABT (R190). -/
  | tabt (o : F3)
  /-- TSTAT (R191). -/
  | tstat (o : F3)
  /-- FENCE (R193). -/
  | fence (o : FMem)
  /-- PATHF (R194). -/
  | pathf (s : PathSel) (o : FMem)
  /-- PLACEF (R195). -/
  | placef (o : F3)
  /-- BARINIT (R197). -/
  | barinit (o : FMem)
  /-- ARRIVE (R198). -/
  | arrive (o : FMem)
  /-- ARRIVE_INB (R198). -/
  | arriveInb (o : FMem)
  /-- ARRIVE_OUTB (R198). -/
  | arriveOutb (o : FMem)
  /-- BARWAIT (R199). -/
  | barwait (ph1 : Bool) (o : FMem)
  /-- BWATCH (R200). -/
  | bwatch (slot : BitVec 3) (o : FMem)
  /-- DECL (R202). -/
  | decl (k : DKind) (o : FMem)
  /-- REDECL (R203). -/
  | redecl (k : DKind) (o : FMem)
  /-- UNDECL (R204). -/
  | undecl (o : F3)
  /-- PLACEQ (R205). -/
  | placeq (o : F3)
  /-- MLDS (R229). -/
  | mlds (o : MldsOps)
  /-- MLDS_BAR (R229). -/
  | mldsBar (o : MldsOps) (bar : BarOps)
  /-- MSWAP (R228). -/
  | mswap (qset : BitVec 4)
  /-- MLOOP (R230). -/
  | mloop (o : MloopOps)
  /-- MDRAIN (R231). -/
  | mdrain (o : MdrainOps)
  /-- MZERO (R228). -/
  | mzero (o : MzeroOps)
  /-- MCOMP (R232). -/
  | mcomp (o : McompOps)
  /-- MFUSE (R228). -/
  | mfuse (qset : BitVec 4)
  /-- MREAD (R233). -/
  | mread (o : MreadOps)
  /-- MSTAT (R234). -/
  | mstat (qset : BitVec 4) (dst : Reg)
  /-- QUADRANT_START (R213). -/
  | quadrantStart (g : Nat) (q : Nat)
  /-- MLOOP_STEP (R226); `bad` are the quadrants whose Stitch rows differ, with the first differing column of each. -/
  | mloopStep (g : Nat) (q : Nat) (bad : List (Nat × BitVec 5))
  /-- MATRIX_COMPLETE (R214). -/
  | matrixComplete (g : Nat) (q : Nat)
  /-- NEST (R247). -/
  | nest (op : NestOp) (ty : Ty) (n : FN)
  /-- RAGGED (R249). -/
  | ragged (pr : BitVec 3) (n : FN)
  /-- FORK (R237). -/
  | fork (o : ForkOps)
  /-- RDV (R239). -/
  | rdv (o : F3)
  /-- ENGINE_PROGRAM_END (R239). -/
  | engineProgramEnd (g : Nat) (e : Nat)
  /-- LACE (R241). -/
  | lace (o : LaceOps)
  /-- LACEG (R244). -/
  | laceg (o : LacegOps)
  /-- LACE_COPY_START (R243). -/
  | laceCopyStart (core : Nat) (k : Nat)
  /-- LACE_SOURCE_READ (R242). -/
  | laceSourceRead (core : Nat) (k : Nat) (granule : Nat)
  /-- LACE_GRANULE_LANDING (R242). -/
  | laceGranuleLanding (core : Nat) (k : Nat) (granule : Nat)
  /-- LACE_COPY_COMPLETE (R242). -/
  | laceCopyComplete (core : Nat) (k : Nat)
  /-- AWLMODE_ON (R250). -/
  | awlmodeOn (cls : BitVec 4) (o : FMem)
  /-- AWLMODE_OFF (R250). -/
  | awlmodeOff (o : FMem)
  /-- SESSION_DRAIN_DONE (R251). -/
  | sessionDrainDone (ch : Nat)
  /-- SESSION_DEADLINE (R251). -/
  | sessionDeadline (ch : Nat)
  /-- AWLBC (R253). -/
  | awlbc (all : Bool) (o : F3)
  /-- AWLMAC (R253). -/
  | awlmac (o : F3)
  /-- AWLRD (R253). -/
  | awlrd (o : F3)
  /-- TRAP (R256). -/
  | trap (o : FRI)
  /-- BRK (R256). -/
  | brk (o : FRI)
  /-- HCALL (R256). -/
  | hcall (o : FRI)
  /-- RFH (R256). -/
  | rfh (o : F3)
  /-- RFH_SKIP (R256). -/
  | rfhSkip (o : F3)
  /-- TMASK_OFF (R256). -/
  | tmaskOff (o : F3)
  /-- TMASK_ON (R256). -/
  | tmaskOn (o : F3)
  /-- HSET (R254). -/
  | hset (o : FBR)
  /-- CLAUSE_START (R97). -/
  | clauseStart
  /-- ISSUE_WINDOW_START (R36). -/
  | issueWindowStart (core : Nat)
  /-- ISSUE_WINDOW_END (R36). -/
  | issueWindowEnd (core : Nat)
  /-- WINDOW_RECLAIM (R316). -/
  | windowReclaim (core : Nat)
  /-- TEAM_STREAM_WAKE (R39). -/
  | teamStreamWake (core : Nat)
  /-- PLACEMENT_STEP (R383). -/
  | placementStep (vd : Nat) (cores : List Nat)
  /-- TEAM_END (R23). -/
  | teamEnd (ctx : Nat)
  /-- REQUEST_AT_TARGET (R63). -/
  | requestAtTarget (i : Nat)
  /-- COMPLETION_RECEIVE (R61). -/
  | completionReceive (i : Nat)
  /-- FAULT_HALT (R67). -/
  | faultHalt (ctx : Nat)
  /-- GENERATION_HOLD_EXPIRY (R64). -/
  | generationHoldExpiry (ctx : Nat)
  /-- FRAME_BOUNDARY (R313). -/
  | frameBoundary
  /-- CHANNEL_REQUEST_ISSUE (R321). -/
  | channelRequestIssue (ch : Nat)
  /-- LEAVE_GRANT (R365). -/
  | leaveGrant (zone : Nat)
  /-- PREEMPTION_REQUEST (R341). -/
  | preemptionRequest (gang : Nat) (forced : Bool)
  /-- SAVE_COMPLETE (R342). -/
  | saveComplete (gang : Nat)
  /-- TRACKER_PERIOD_END (R338). -/
  | trackerPeriodEnd (stack : Nat) (vd : Nat)
  /-- SCRUB_SECTOR (R355). -/
  | scrubSector (sector : Nat)
  /-- FLIT_RECEIVE (R358). -/
  | flitReceive (link : Nat) (erased : List Nat)
  /-- RAIL_FAILURE (R359). -/
  | railFailure (link : Nat) (rail : Nat)
  /-- LANE_CALIBRATION (R360). -/
  | laneCalibration (grp : Nat) (weak : Bool)
  /-- LINK_DOWN (R361). -/
  | linkDown (link : Nat)
  /-- ZONE_EVALUATION (R368). -/
  | zoneEvaluation (zone : Nat) (flow : Nat) (temp : Nat) (pres : Nat)
  /-- DRY_DECLARATION (R369). -/
  | dryDeclaration (zone : Nat)
  /-- EVACUATION_SAVE_TIMEOUT (R369). -/
  | evacuationSaveTimeout (zone : Nat)
  /-- EVACUATION_PURGE (R369). -/
  | evacuationPurge (zone : Nat)
  /-- EVACUATION_PULSE (R369). -/
  | evacuationPulse (zone : Nat)
  /-- EVACUATION_REPRIME (R369). -/
  | evacuationReprime (zone : Nat)
  /-- EVACUATION_VERIFY (R370). -/
  | evacuationVerify (zone : Nat) (flow : Nat)
  /-- SWITCH_START (R346). -/
  | switchStart (wr : Writer) (outVd : Nat) (inVd : Nat) (dies : BitVec 4)
  /-- SWITCH_DEADLINE_1 (R347). -/
  | switchDeadline1
  /-- SWITCH_DEADLINE_2 (R347). -/
  | switchDeadline2
  /-- SWITCH_FINISH (R346). -/
  | switchFinish
  /-- HOME_MAP_COMMIT (R327). -/
  | homeMapCommit (wr : Writer) (vd : Nat)
  /-- FAULT_QUEUE_RD_WRITE (R335). -/
  | faultQueueRdWrite (wr : Writer) (vd : Nat) (rd : BitVec 16)
  /-- FAULT_RESUME (R336). -/
  | faultResume (wr : Writer) (vd : Nat) (ctx : Nat)
  /-- FAULT_KILL (R336). -/
  | faultKill (wr : Writer) (vd : Nat) (ctx : Nat)
  /-- TLB_INVALIDATE (R333). -/
  | tlbInvalidate (wr : Writer) (va : BitVec 40) (asid : BitVec 10) (size : BitVec 2)
  /-- FRAME_RELEASE (R332). -/
  | frameRelease (wr : Writer) (frame : BitVec 32)
  /-- OWNERSHIP_WRITE (R305). -/
  | ownershipWrite (wr : Writer) (dom : Nat) (reg : OwnReg) (val : Nat)
  /-- DOMAIN_CONTROL_WRITE (R391). -/
  | domainControlWrite (wr : Writer) (dom : Nat) (val : Word)
  /-- MSC_SCRATCH_WRITE (R324). -/
  | mscScratchWrite (wr : Writer) (dom : Nat) (w : BitVec 4)
  /-- VD_CONTROL_WRITE (R309). -/
  | vdControlWrite (wr : Writer) (vd : Nat) (val : Word)
  /-- CALENDAR_SWAP (R311). -/
  | calendarSwap (wr : Writer) (cal : CalId)
  /-- CALENDAR_ENTRY_WRITE (R311). -/
  | calendarEntryWrite (wr : Writer) (cal : CalId) (entry : Nat) (val : Byte)
  /-- BUCKET_WRITE (R314). -/
  | bucketWrite (wr : Writer) (bkt : BktId) (rho : BitVec 10) (sigma : BitVec 12)
  /-- CONTRACT_WRITE (R322). -/
  | contractWrite (wr : Writer) (ch : Nat) (vd : Nat) (guar : BitVec 10) (rho : BitVec 10) (sigma : BitVec 12)
  /-- REPAIR_BYTE_WRITE (R356). -/
  | repairByteWrite (wr : Writer) (core : Nat) (q : Nat) (val : Byte)
  /-- COOLANT_ZONE_WRITE (R364). -/
  | coolantZoneWrite (wr : Writer) (zone : Nat) (off : Nat) (val : DWord)
  /-- FENCE_CLEAR (R371). -/
  | fenceClear (wr : Writer) (zone : Nat) (flow : Nat)
  /-- NOTIFY_WRITE (R377). -/
  | notifyWrite (wr : Writer) (q : Nat) (val : Word)
  /-- PACKET_TAKE (R378). -/
  | packetTake (q : Nat)
  /-- WAITVAL_POLL (R380). -/
  | waitvalPoll (q : Nat)
  /-- LAUNCH_COMPLETE (R384). -/
  | launchComplete (l : Nat)
  /-- PAUSE_CLEAR (R387). -/
  | pauseClear (wr : Writer) (vd : Nat)
  /-- HOST_SNOOP (R373). -/
  | hostSnoop (pa : Nat)
  /-- HOST_MEM_ACCESS (R373). -/
  | hostMemAccess (pa : Nat) (wr : Option (List Byte))
  /-- ATTESTATION (R390). -/
  | attestation (wr : Writer) (dom : Nat)
  /-- KEY_WRAP (R391). -/
  | keyWrap (wr : Writer) (dom : Nat)
  /-- JOURNAL_PERIOD (R395). -/
  | journalPeriod
  /-- JOURNAL_RD_WRITE (R396). -/
  | journalRdWrite (wr : Writer) (dom : Nat) (rd : BitVec 16)
  /-- COLD_RESET (R397). -/
  | coldReset
  /-- WARM_RESET (R397). -/
  | warmReset (retention : Bool)
  /-- REGISTER_WRITE (R301). -/
  | registerWrite (wr : Writer) (blk : Blk) (off : Nat) (val : BitVec 1024)
  /-- COMPLETION_ACKNOWLEDGEMENT (R62). -/
  | completionAcknowledgement (i : Nat)
  /-- LINK_UP (R361). -/
  | linkUp (link : Nat)
deriving DecidableEq, Repr

end Sys2Proof
end

