-- ==== Sys2Proof/Machine/TeamTypes.lean ====
section
/-! DEFINITION. The state of lanes, teams, places and requests in flight (01, 02, 07, 09 R254,
10 R273, 18 R340). Plain data. -/

namespace Sys2Proof.Machine

/-- A place instance (R52). -/
inductive PInst where
  | core | welt (t : Nat) | awl (ch : Nat)
deriving DecidableEq, Repr

/-- KIND of a place-map entry (R43). -/
inductive PKind where
  | none | lane | team | mem | bank
deriving DecidableEq, Repr

/-- An entry of the place map (R43) with the bound address of a MEM register (R45). -/
structure PlaceEnt where
  kind  : PKind
  pend  : Bool
  index : BitVec 10
  bound : DWord
deriving DecidableEq, Repr

/-- A uniform register or q predicate, shared by the children of a split (R17): the value, and
the writes made since the oldest split still open, newest first, with the context id of each
writer. -/
structure Cell where
  val : Word
  log : List (Nat × Word)
deriving DecidableEq, Repr

/-- STATUS of a lane's transaction (R191). -/
inductive TxSt where
  | none | active | committed | conflict | lane | capacity | fault | halted | unsupported | explicit
deriving DecidableEq, Repr

/-- A lane's transaction (R186 to R191): logged reads and buffered writes, one byte each, by
effective address, oldest first. -/
structure Tx where
  st   : TxSt
  code : Byte
  log  : List (Nat × Byte)
  buf  : List (Nat × Byte)
deriving DecidableEq, Repr

/-- A present lane: physical slot and virtual lane id (R13), LANE registers, p predicates (bit k is
pk, bit 0 reads 1), transaction, and the stamp of the synchronising instruction at which its
region opened at each place instance, with the instances whose region is untracked (R273, R275). -/
structure Lane where
  slot   : Nat
  vid    : Nat
  regs   : Tbl Word
  p      : BitVec 8
  tx     : Tx
  opened : List (PInst × Nat)
  blind  : List PInst
deriving DecidableEq, Repr

/-- KIND of a memory fault (R334). -/
inductive MemKind where
  | nohome | invalid | perm | aliased | mishome | table | noncanon | bound
deriving DecidableEq, Repr

/-- A memory fault as its record gives it (R334). -/
structure MFault where
  kind  : MemKind
  level : BitVec 3
  va    : DWord
  acc   : BitVec 2
deriving DecidableEq, Repr

/-- Causes of user traps (R255). -/
inductive Cause where
  | illegal | unwaited | undecl | place | placefull | align | mmx | arith | swtrap | brk | cpeer
  | shape | quad
deriving DecidableEq, Repr

/-- A user trap with the ADDR and CODE of its record (R255). -/
structure Trap where
  cause : Cause
  addr  : DWord
  code  : Word
deriving DecidableEq, Repr

/-- The counters of R57. -/
inductive Ctr where
  | ld | pl | st
deriving DecidableEq, Repr

/-- Operand formats of the array (R217). -/
inductive MFmt where
  | bf16 | f16 | e4m3 | e5m2 | ox4 | i8 | i4 | f32 | f64
deriving DecidableEq, Repr

/-- A format block read at issue (R217). -/
structure FmtBlk where
  fmt    : MFmt
  blk    : BitVec 2
  skind  : Bool
  sparse : BitVec 2
  scale  : DWord
  ext    : DWord
  meta_  : DWord
deriving DecidableEq, Repr

/-- A matrix instruction with what was read at issue (R212): register values and format blocks; the number of its issue and
the quadrants in whose queues it stands (R213, R228), its launched team, its place and its sequence number (R334). -/
structure MatOp where
  instr : Instr
  a     : DWord
  b     : DWord
  m     : DWord
  o     : DWord
  fa    : Option FmtBlk
  fb    : Option FmtBlk
  no    : Nat
  quads : List Nat
  fam   : Nat
  pc    : DWord
  word  : Nat
  seq   : BitVec 16
deriving DecidableEq, Repr

/-- A Lace copy with what was read at issue (R241, R244); `rows` gives each row's source and
destination address, one per row of the box, the first varying fastest; a `laceg` reads its index
list when it starts, from `idx`; `fam` its launched team; `pc`, `word`, `seq` its place and its sequence number (R334). -/
structure CopyOp where
  instr  : Instr
  src    : DWord
  dst    : DWord
  bar    : DWord
  rowb   : Nat
  x1     : Nat
  x2     : Nat
  sr     : DWord
  sp     : DWord
  dr     : DWord
  dp     : DWord
  idx    : DWord
  pitch  : Word
  setfe  : Bool
  inc    : Bool
  outc   : Bool
  fam    : Nat
  pc     : DWord
  word   : Nat
  seq    : BitVec 16
deriving DecidableEq, Repr

/-- A lane of a request: what it carries, and how it stands (R61 to R67). A uniform request has the
one lane 0. -/
structure PLane where
  vid   : Nat
  ops   : List DWord
  addr  : DWord
  done  : Bool
  fault : Option MFault
deriving DecidableEq, Repr

/-- Why a request stops its team other than for memory faults: a misaligned address formed at a
Welt unit (R168), a race (R274), or a link that went down with it (R361). -/
inductive StopKind where
  | align (addr : DWord) | cpeer (ord : Nat) | mmx | linkdown (va : Nat)
deriving DecidableEq, Repr

/-- A value to be fetched for operand `op` from the Welt unit that holds register `reg` (R50). -/
structure Fetch where
  op   : Nat
  reg  : Reg
  welt : Nat
  val  : Option Word
deriving DecidableEq, Repr

/-- A packet of the replay set (R65). Of a copy `progress` is its number, `landed` and `counted` its granules
landed and counted as read (R245); `region` the stamp at which it opened the regions of its lanes (R273), `checked` that its accesses have passed race
detection (R274); `flags` those of rows that an `mdrain` has written before a fault (R86, R216); `complete` marks a completion received and not acknowledged. A register instruction at the core
without a fetch stands here only where a save has cut its sweep: its lanes are those not swept (R69). -/
structure Packet where
  instr    : Instr
  pc       : DWord
  word     : Nat
  seq      : BitVec 16
  gen      : BitVec 8
  inst     : PInst
  ctr      : Ctr
  path     : List Nat
  slots    : Tbl Nat
  uniform  : Bool
  lanes    : List PLane
  fetches  : List Fetch
  progress : Nat
  landed   : List Nat
  counted  : List Nat
  region   : Option Nat
  checked  : Bool
  mat      : Option MatOp
  copy     : Option CopyOp
  flags    : BitVec 7
  complete : Bool
  stop     : Option StopKind
deriving DecidableEq, Repr

/-- A barrier object that a team awaits at a `barwait` or at a header (R199, R201): its offset, the phase, and,
once the wait has been released, whether the object was ABANDONED then. -/
structure BarWait where
  off : Nat
  ph1 : Bool
  met : Option Bool
deriving DecidableEq, Repr

/-- One path of a serial fallback (R21): its lanes, the fallbacks it lies in, innermost first, where
it stands, whether its instruction waits there, the barrier object and the FEW load it awaits, and whether it
has reached its `join`. -/
structure PathSt where
  vids   : List Nat
  trail  : List Nat
  pc     : DWord
  word   : Nat
  clause : List DWord
  loaded : Bool
  tested : Bool
  held   : Bool
  bar    : Option BarWait
  few    : Option (BitVec 16)
  done   : Bool
deriving DecidableEq, Repr

/-- An entry of the divergence stack (R16, R21). The number `id` tells a split record from every
other; the sibling is the team that holds it on the other side. Within a fallback no team splits, so
one entry holds its paths and those of every fallback inside it; the first runs, and its position is
the team's. -/
inductive DivEnt where
  | split (id : Nat) (taken : Bool)
  | fallback (paths : List PathSt)
deriving DecidableEq, Repr

/-- Handler state (R340). `pc`, `word` are the saved position; `spc`, `sword` the position past the
saved instruction, for `rfh.skip`; `tested` whether the header's waits were met (R97). -/
structure Handler where
  isSet : Bool
  addr  : DWord
  off   : Word
  mode  : Bool
  mask  : Bool
  nest  : Bool
  pc    : DWord
  word  : Nat
  spc   : DWord
  sword : Nat
  tested : Bool
  lanes : List Nat
  cause : Option Cause
  taddr : DWord
  code  : Word
  eng   : Bool
  kept  : Option Packet
deriving DecidableEq, Repr

/-- Why a team is parked (R37). A memory fault parks it from its halt to its resume; `hcall` parks
it the same way (R256). -/
inductive Parked where
  | no | record (id : Nat) | fault | hcall | halted | rdv | few | barwait
deriving DecidableEq, Repr

/-- On what a clause stalls (R36): a counter at 63 (R57), a full queue of the quadrants or a program that runs on them
(R213), or a full queue of a Lace engine (R243). -/
inductive Stall where
  | full (c : Ctr) | quads (qs : List Nat) | lace (k : Nat)
deriving DecidableEq, Repr

/-- An open transaction span (R186, R189). -/
structure Span where
  scope : Scope
  depth : Nat
deriving DecidableEq, Repr

/-- How a pre-emption saved or marked a team (R344): STATE of its image. -/
inductive ImgState where
  | running | faulted | hcall | resumed
deriving DecidableEq, Repr

/-- A team: launched, or a child of a split (R9, R16). `waiting` marks an instruction that waits where the team
stands (R37), `acq` the stamp of its last acquire (R269), `stall` that on which its clause stalls (R36), `bar` the barrier object that it awaits, `tend` a commit under way (R189), `last` the number of its
last issue (R36). -/
structure Team where
  ctx      : Nat
  fam      : Nat
  group    : Nat
  slot     : Nat
  index    : Nat
  lower    : List Nat
  pc       : DWord
  word     : Nat
  clause   : List DWord
  loaded   : Bool
  tested   : Bool
  lanes    : List Lane
  ld       : Nat
  pl       : Nat
  st       : Nat
  seq      : BitVec 16
  gen      : BitVec 8
  flags    : BitVec 7
  fen      : BitVec 7
  handler  : Handler
  div      : List DivEnt
  watch    : List (Option Nat)
  pend     : List (List Nat × Reg)
  pendP    : List (List Nat × Nat)
  replay   : List Packet
  span     : Option Span
  tend     : Bool
  parked   : Parked
  waiting  : Bool
  stall    : Option Stall
  acq      : Nat
  bar      : Option BarWait
  retired  : Nat
  last     : Nat
  sends    : List (BitVec 8 × Nat)
  hold     : Bool
  img      : ImgState
deriving DecidableEq, Repr

/-- The uniform state of a launched team, shared by every child of its splits (R17): place map,
TEAM and MEM registers, the team slot in which its lower TEAM instances run (R32), BANK registers with
their poisoned words as 256 · register + 16 · bank + word, q predicates (q0 aside), programs forked and not ended
(R239), with engine stops to be reported at `rdv` (R240), and the number of the launched team. -/
structure Family where
  ctx     : Nat
  group   : Nat
  slot    : Nat
  index   : Nat
  map     : Tbl PlaceEnt
  cells   : Tbl Cell
  banks   : Tbl (List (BitVec 256))
  bankBad : List Nat
  q       : Tbl Cell
  forks   : List Nat
  stops   : List (DWord × Nat)
  session : Option Nat
  abort   : Option Nat
  retired : Nat
  ended   : Bool
  killed  : Bool
deriving DecidableEq, Repr

/-- A target of requests (R62): an L2 slice, a scratchpad bank of a group, a Welt
unit, the awl units of a pseudo-channel, the memory side of a stack, the host agent of the CXL
port, a peer package, or the core itself, which finds NONCANON, BOUND and NOHOME (R167) and answers from its
caches (R260). -/
inductive Target where
  | l2 (slice : Nat) | spad (group bank : Nat) | welt (t : Nat) | awl (ch : Nat) | msc (stack : Nat)
  | host | peer (pkg : Nat) | core (c : Nat)
deriving DecidableEq, Repr

/-- What a request asks of its target. -/
inductive ReqOp where
  /-- the value of a register at a Welt unit, for operand `op` (R50) -/
  | fetch (op : Nat) (reg : Reg)
  /-- the value of a BASE pair at a Welt unit, from which the access is formed (R168) -/
  | base (reg : Reg)
  /-- an instruction executed at a Welt unit or at awl units (R48) -/
  | exec
  /-- a memory access of the instruction -/
  | access
deriving DecidableEq, Repr

/-- A request on its way (R61), with what it asks and for whom; `orphan` when its team was killed (R24). `rcvd` numbers
its reception at a scratchpad bank where it waits for full bits (R177); `route` are the links still to cross, on the
first of which it waits as flit `id` (R312). -/
structure Req where
  orphan : Bool
  instr  : Instr
  uniform : Bool
  fam    : Nat
  group  : Nat
  ctx    : Nat
  gen    : BitVec 8
  seq    : BitVec 16
  inst   : PInst
  target : Target
  op     : ReqOp
  lanes  : List PLane
  sent   : Nat
  rcvd   : Option Nat
  id     : Nat
  route  : List Nat
deriving DecidableEq, Repr

/-- The answer of a lane: the values that go to its DATA, or its fault. -/
structure AnsLane where
  vid   : Nat
  vals  : List DWord
  fault : Option MFault
deriving DecidableEq, Repr

/-- A completion on its way to the core (R61), with the flags it brings (R86), a poison mark
(R354), a stop found at the target (R168, R274), and its way (R312). -/
structure Answer where
  ctx    : Nat
  gen    : BitVec 8
  seq    : BitVec 16
  target : Target
  op     : ReqOp
  lanes  : List AnsLane
  flags  : BitVec 7
  poison : Option Nat
  stop   : Option StopKind
  id     : Nat
  route  : List Nat
deriving DecidableEq, Repr

/-- A record of a replay window (R62). -/
structure Record where
  ctx    : Nat
  seq    : BitVec 16
  target : Target
  op     : ReqOp
  lanes  : List AnsLane
  flags  : BitVec 7
deriving DecidableEq, Repr

/-- Where a race record is kept (R273). -/
inductive RacePlace where
  | spad (group : Nat) | l1 (core : Nat) | dir
deriving DecidableEq, Repr

/-- A race record (R273): the granule, the lanes of one team and place instance whose regions
opened at one stamp, by virtual id with the bytes that each has read and written, and the teams that splits have ordered
behind it (R269) or, its own among them, a `placef`. `behind` are the place instances at which its own team's
accesses from an instruction on are ordered behind it, `marks` the instructions that have fetched a value there since
and have not taken it (R276); `pub` is the first release that stands behind it. -/
structure RaceRec where
  place  : RacePlace
  gran   : Nat
  ctx    : Nat
  core   : Nat
  inst   : PInst
  opened : Nat
  masks  : Tbl (BitVec 16 × BitVec 16)
  kin    : List Nat
  behind : List (PInst × BitVec 16)
  marks  : List (BitVec 16)
  pub    : Option Nat
deriving DecidableEq, Repr

/-- A destination granule registered by a Lace copy (R273). -/
structure LaceReg where
  place : RacePlace
  gran  : Nat
  core  : Nat
  lace  : Nat
  copy  : Nat
deriving DecidableEq, Repr

end Sys2Proof.Machine
end

