-- ==== Sys2Proof/Machine/EngineTypes.lean ====
section
/-! DEFINITION. The state of quadrants, engine programs, Lace engines, all-bank sessions and caches
(08, 09, 10). Plain data. -/

namespace Sys2Proof.Machine

/-- Who issued an operation of a quadrant or of a Lace engine: a team, by its packet, or an engine
program of the group (R237), numbered 1 to 4 for Lace 0 to 3 and 8 + S for the matrix sequencers of
QSET S. -/
inductive Issuer where
  | team (ctx : Nat) (seq : BitVec 16) (gen : BitVec 8)
  | engine (group : Nat) (k : Nat)
deriving DecidableEq, Repr

/-- An accumulator tile (R207): words by 32·m + n, unlisted ones +0, and its poison mark (R227). -/
structure Tile where
  words  : Tbl Word
  poison : Bool
deriving DecidableEq, Repr

/-- One column or row of operands held by a plane: its elements, and the scale of each block. -/
structure PVec where
  elems  : List DWord
  scales : List Byte
  exts   : List Byte
  metas  : List Byte
deriving DecidableEq, Repr

/-- A B plane (R207, R221): format and this quadrant's columns; no format before the first load;
whether what it was loaded from was poisoned (R353). -/
structure Plane where
  fmt    : Option FmtBlk
  cols   : Tbl PVec
  poison : Bool
deriving DecidableEq, Repr

/-- A loop that a quadrant runs (R216, R220): steps done, whether it has begun, a mismatch seen in
sparse-output mode. `cells` are outer-product cell accumulators (two words for FP64) and merge
buffers, by 64·m + n, and `touched` the merge-buffer columns that received a
product (R223), or the rows that an `mdrain` has written (R216); `poison` that a stream of a sparse
output was poisoned (R353). -/
structure LoopSt where
  step     : Nat
  begun    : Bool
  cells    : Tbl DWord
  touched  : List Nat
  flags    : BitVec 7
  stitch   : Bool
  poison   : Bool
deriving DecidableEq, Repr

/-- An entry of a quadrant's queue (R212, R213). `qset` is the set it was issued to, `started` its
start, `asked` a leave request made (R225), `granted` leave given. -/
structure QEnt where
  id      : Nat
  issuer  : Issuer
  op      : MatOp
  qset    : Nat
  started : Bool
  asked   : Bool
  granted : Bool
  loop    : LoopSt
deriving DecidableEq, Repr

/-- A quadrant (R207, R226, R234) while its group holds it. `trackA`, `trackS` are the formats that
the planes will hold once everything issued has completed (R221); `queue` what has been issued to it and has not
completed, of which the first 16 stand in the sequencer's queue (R207): issue stalls while there are 16 (R213), so that only
instructions that are sent again stand behind them, and wait for room; `held` the loops that halts of their
teams, by context id and sequence number, have stopped (R216). -/
structure Quad where
  tiles   : Tbl Tile
  active  : Plane
  shadow  : Plane
  trackA  : Option FmtBlk
  trackS  : Option FmtBlk
  queue   : List QEnt
  held    : List (Nat × BitVec 16 × LoopSt)
  pass    : Nat
  mism    : BitVec 4
  srow    : BitVec 5
  scol    : BitVec 5
  lclass  : BitVec 4
  shape   : Nat
deriving DecidableEq, Repr

/-- An engine program of a group (R237 to R240): 1 to 4 for Lace 0 to 3, 8 + S for the matrix
sequencers of QSET S. `out` is the engine's outstanding count, `draining` the launched teams of programs that have
reached their `rdv` and wait for it behind another (R237, R239). -/
structure Engine where
  running : Bool
  stopped : Bool
  parked  : Bool
  fam     : Nat
  qset    : Nat
  pc      : DWord
  word    : Nat
  clause  : List DWord
  loaded  : Bool
  rdv     : Bool
  draining : List Nat
  out     : Nat
  regs    : Tbl Word
  q       : BitVec 4
  seq     : BitVec 16
deriving DecidableEq, Repr

/-- A copy in the queue of a Lace engine (R243, R245): rows fixed at its start, as source and destination
address; granules counted down OUTB, granules read with their bytes (none where they were poisoned),
granules landed. -/
structure CEnt where
  id      : Nat
  issuer  : Issuer
  op      : CopyOp
  started : Bool
  rows    : List (DWord × DWord)
  counted : List Nat
  read    : List Nat
  bytes   : Tbl (List Byte)
  landed  : List Nat
  fault   : Option (Nat × MFault)
deriving DecidableEq, Repr

/-- State of an all-bank session (R251). -/
inductive SessSt where
  | drain | leave | active | aborted
deriving DecidableEq, Repr

/-- An all-bank session of a pseudo-channel (R250, R251): the holder's launched team, the context id,
sequence number and generation of its `.on`, class, number of `awlmac`, and when a session deadline began to run. -/
structure Session where
  fam      : Nat
  ctx      : Nat
  seq      : BitVec 16
  gen      : BitVec 8
  st       : SessSt
  cls      : Nat
  macs     : Nat
  deadline : Option Nat
  granted  : Bool
  code     : Nat
deriving DecidableEq, Repr

/-- A sector of a cache (R259, R262): valid bytes and dirty bytes by offset, the scope recorded,
the VD whose request filled it, the way, the time of its fill and of its last use, and whether its page is known to
permit writes. Keyed by address space × 2^49 +
VA div 128. -/
structure Sector where
  clean : Tbl Byte
  dirty : Tbl Byte
  scope : Scope
  vd    : Nat
  way   : Nat
  time  : Nat
  used  : Nat
  write : Bool
deriving DecidableEq, Repr

end Sys2Proof.Machine
end

