-- ==== Sys2Proof/Machine/Flags.lean ====
section
/-! DEFINITION. The sticky flags (03 R84, R85) and the range tests that raise them (R83, R115). -/

namespace Sys2Proof.Machine

/-- Sticky flags at their places in `sr.flags` (R85). -/
abbrev Flags := BitVec 7

/-- No flag. -/
def fNone : Flags := 0
/-- Inexact, bit 0. -/
def fNX : Flags := 1
/-- Underflow, bit 1. -/
def fUF : Flags := 2
/-- Overflow, bit 2. -/
def fOF : Flags := 4
/-- Division by zero, bit 3. -/
def fDZ : Flags := 8
/-- Invalid, bit 4. -/
def fNV : Flags := 16
/-- Integer overflow, bit 5. -/
def fIOV : Flags := 32
/-- Race-detection capacity lost, bit 6. -/
def fRDLOST : Flags := 64

/-- A flag when a condition holds. -/
def Flags.when (c : Bool) (f : Flags) : Flags := if c then f else 0

/-- Least value of a `w`-bit integer type. -/
def intMin (w : Nat) (signed : Bool) : Int := if signed then -(2 ^ (w - 1) : Nat) else 0
/-- Greatest value of a `w`-bit integer type. -/
def intMax (w : Nat) (signed : Bool) : Int :=
  if signed then (2 ^ (w - 1) : Nat) - 1 else (2 ^ w : Nat) - 1

/-- Value of the low `w` bits of `n`, signed for i* and unsigned for n* (R116). -/
def valOf (w : Nat) (signed : Bool) (n : Nat) : Int :=
  let v := n % 2 ^ w
  if signed && decide (2 ^ (w - 1) ≤ v) then (v : Int) - (2 ^ w : Nat) else v

/-- The low `w` bits of an integer (R83: results wrap modulo 2^w). -/
def wrapTo (w : Nat) (x : Int) : Nat := (x % (2 ^ w : Nat)).toNat

/-- An exact integer result brought to a type: clamped with IOV under SAT, else wrapped (R83). -/
def fitInt (w : Nat) (signed sat : Bool) (x : Int) : Nat × Flags :=
  if sat && decide (x < intMin w signed) then (wrapTo w (intMin w signed), fIOV)
  else if sat && decide (intMax w signed < x) then (wrapTo w (intMax w signed), fIOV)
  else (wrapTo w x, 0)

end Sys2Proof.Machine
end

