-- ==== Sys2Proof/Machine/Num.lean ====
section
/-! DEFINITION. Floating-point formats and arithmetic (03 R70 to R82): values are exact dyadic
numbers, every operation is computed exactly and rounded once (R77). -/

namespace Sys2Proof.Machine

/-- A floating-point format (R70): exponent and mantissa bits; E4M3 differs by R72. -/
structure FFmt where
  ebits : Nat
  mbits : Nat
  e4m3  : Bool
deriving DecidableEq, Repr

def ffF64 : FFmt := ⟨11, 52, false⟩
def ffF32 : FFmt := ⟨8, 23, false⟩
def ffF16 : FFmt := ⟨5, 10, false⟩
def ffBF16 : FFmt := ⟨8, 7, false⟩
def ffE5M2 : FFmt := ⟨5, 2, false⟩
def ffE4M3 : FFmt := ⟨4, 3, true⟩

/-- A value: NaN, signalling or quiet; ±∞; or ±m·2^e. -/
inductive FVal where
  | nan (sig : Bool)
  | inf (neg : Bool)
  | fin (neg : Bool) (m : Nat) (e : Int)
deriving DecidableEq, Repr

/-- Width of a format in bits. -/
def FFmt.width (f : FFmt) : Nat := 1 + f.ebits + f.mbits
/-- Exponent bias (R70). -/
def FFmt.bias (f : FFmt) : Nat := 2 ^ (f.ebits - 1) - 1
/-- Exponent of the least normal value. -/
def FFmt.emin (f : FFmt) : Int := 1 - (f.bias : Int)
/-- Weight, as a power of two, of the last place of a subnormal. -/
def FFmt.qmin (f : FFmt) : Int := f.emin - f.mbits
/-- The bits of the largest finite value without its sign (R70, R72). -/
def FFmt.maxBits (f : FFmt) : Nat :=
  if f.e4m3 then 0x7E else (2 ^ f.ebits - 1) * 2 ^ f.mbits - 1
/-- The bits of +∞; E4M3 has none. -/
def FFmt.infBits (f : FFmt) : Nat := (2 ^ f.ebits - 1) * 2 ^ f.mbits
/-- The canonical NaN (R70). -/
def FFmt.nanBits (f : FFmt) : Nat :=
  if f.e4m3 then 0x7F else (2 ^ f.ebits - 1) * 2 ^ f.mbits + 2 ^ (f.mbits - 1)
/-- The sign bit in place. -/
def FFmt.signBits (f : FFmt) (neg : Bool) : Nat := if neg then 2 ^ (f.ebits + f.mbits) else 0

/-- The value of a bit pattern (R70, R72). -/
def FFmt.val (f : FFmt) (bits : Nat) : FVal :=
  let neg := bits / 2 ^ (f.ebits + f.mbits) % 2 == 1
  let ex := bits / 2 ^ f.mbits % 2 ^ f.ebits
  let m := bits % 2 ^ f.mbits
  if f.e4m3 then
    if ex == 15 && m == 7 then .nan false
    else if ex == 0 then .fin neg m f.qmin
    else .fin neg (m + 2 ^ f.mbits) (f.qmin + (ex - 1 : Nat))
  else if ex == 2 ^ f.ebits - 1 then
    if m == 0 then .inf neg else .nan (m / 2 ^ (f.mbits - 1) == 0)
  else if ex == 0 then .fin neg m f.qmin
  else .fin neg (m + 2 ^ f.mbits) (f.qmin + (ex - 1 : Nat))

/-- ±m·2^e rounded to a multiple of 2^q: the multiple, and whether it is inexact (R77). Two places above its
leading bit a number rounds as it does further up. -/
def roundAt (r : Rnd) (neg : Bool) (m : Nat) (e q : Int) : Nat × Bool :=
  if q ≤ e then (m * 2 ^ (e - q).toNat, false)
  else
    let sh := min (q - e).toNat (m.log2 + 2)
    let k := m / 2 ^ sh
    let rem := m % 2 ^ sh
    let half := 2 ^ (sh - 1)
    let up : Bool := match r with
      | .rn => decide (half < rem) || (rem == half && k % 2 == 1)
      | .rz => false
      | .ru => !neg && rem != 0
      | .rd => neg && rem != 0
    (if up then k + 1 else k, rem != 0)

/-- Exponent of the leading bit of a non-zero m·2^e. -/
def topExp (m : Nat) (e : Int) : Int := e + (m.log2 : Int)

/-- What an overflow gives (R81). -/
def FFmt.overflow (f : FFmt) (r : Rnd) (sat neg : Bool) : Nat × Flags :=
  let s := f.signBits neg
  if sat then (s + f.maxBits, fOF ||| fNX)
  else if f.e4m3 then (f.nanBits, fOF ||| fNX)
  else
    let toInf : Bool := match r with
      | .rn => true
      | .rz => false
      | .ru => !neg
      | .rd => neg
    (s + (if toInf then f.infBits else f.maxBits), fOF ||| fNX)

/-- m·2^e, m ≠ 0, is tiny in a format: rounded with the exponent unbounded it lies below the least normal
value (R78). -/
def FFmt.tiny (f : FFmt) (r : Rnd) (neg : Bool) (m : Nat) (e : Int) : Bool :=
  let place := topExp m e - f.mbits
  let k := (roundAt r neg m e place).1
  k == 0 || decide (topExp k place < f.emin)

/-- ±m·2^e with m ≠ 0 rounded to a format (R77, R78, R81): the bits and the flags. -/
def FFmt.roundFin (f : FFmt) (r : Rnd) (sat neg : Bool) (m : Nat) (e : Int) : Nat × Flags :=
  let top := topExp m e
  let q := max (top - f.mbits) f.qmin
  let (k, nx) := roundAt r neg m e q
  let bits := ((q - f.qmin).toNat) * 2 ^ f.mbits + k
  if f.maxBits < bits then f.overflow r sat neg
  else
    (f.signBits neg + bits, Flags.when nx fNX ||| Flags.when (nx && f.tiny r neg m e) fUF)

/-- A value brought to a format: R77 to R79, R81. -/
def FFmt.round (f : FFmt) (r : Rnd) (sat : Bool) : FVal → Nat × Flags
  | .nan sig => (f.nanBits, Flags.when sig fNV)
  | .inf neg =>
    if f.e4m3 then (if sat then (f.signBits neg + f.maxBits, fNX) else (f.nanBits, fNV))
    else if sat then (f.signBits neg + f.infBits, 0)
    else (f.signBits neg + f.infBits, 0)
  | .fin neg m e => if m = 0 then (f.signBits neg, 0) else f.roundFin r sat neg m e

/-- An integer as a value. -/
def FVal.ofInt (x : Int) : FVal := .fin (decide (x < 0)) x.natAbs 0

def FVal.isNan : FVal → Bool
  | .nan _ => true
  | _ => false
def FVal.isSig : FVal → Bool
  | .nan s => s
  | _ => false
def FVal.isZero : FVal → Bool
  | .fin _ m _ => m == 0
  | _ => false
def FVal.isInf : FVal → Bool
  | .inf _ => true
  | _ => false
def FVal.neg? : FVal → Bool
  | .nan _ => false
  | .inf n => n
  | .fin n _ _ => n

/-- The negated value. -/
def FVal.negate : FVal → FVal
  | .nan s => .nan s
  | .inf n => .inf (!n)
  | .fin n m e => .fin (!n) m e

/-- The signed numerator of a finite value over 2^e, for e not above its own exponent. -/
def FVal.numAt (e : Int) : FVal → Int
  | .fin n m x => let k : Int := (m * 2 ^ (x - e).toNat : Nat); if n then -k else k
  | _ => 0

/-- The exponent of a finite value's last place. -/
def FVal.exp : FVal → Int
  | .fin _ _ e => e
  | _ => 0

/-- The exact product (R89): ∞·0 is invalid. Second part: NV is set. -/
def FVal.mul (a b : FVal) : FVal × Bool :=
  if a.isNan || b.isNan then (.nan false, a.isSig || b.isSig)
  else match a, b with
    | .inf s, y => if y.isZero then (.nan false, true) else (.inf (s != y.neg?), false)
    | x, .inf s => if x.isZero then (.nan false, true) else (.inf (x.neg? != s), false)
    | .fin s m e, .fin t n f => (.fin (s != t) (m * n) (e + f), false)
    | _, _ => (.nan false, false)

/-- Least exponent of a list of finite values. -/
def minExp (l : List FVal) : Int :=
  match l with
  | [] => 0
  | x :: t => t.foldl (fun e y => min e y.exp) x.exp

/-- The exact sum of some values (R78, R79, R149): NaN if one is, ∞ − ∞ invalid, and the sign of an
exact zero sum that of IEEE 754. Second part: NV is set. -/
def FVal.sum (r : Rnd) (l : List FVal) : FVal × Bool :=
  let sig := l.any FVal.isSig
  let pinf := l.any (fun x => x == .inf false)
  let ninf := l.any (fun x => x == .inf true)
  if pinf && ninf then (.nan false, true)
  else if l.any FVal.isNan then (.nan false, sig)
  else if pinf then (.inf false, false)
  else if ninf then (.inf true, false)
  else
    let e := minExp l
    let t := l.foldl (fun (acc : Int) x => acc + x.numAt e) 0
    if t = 0 then
      if l.all (fun x => x.isZero && x.neg?) then (.fin true 0 0, false)
      else if l.all (fun x => x.isZero && !x.neg?) then (.fin false 0 0, false)
      else (.fin (r == .rd) 0 0, false)
    else (.fin (decide (t < 0)) t.natAbs e, false)

/-- A value with its NV mark, rounded. -/
def FFmt.roundX (f : FFmt) (r : Rnd) (sat : Bool) (x : FVal × Bool) : Nat × Flags :=
  let (b, fl) := f.round r sat x.1
  (b, fl ||| Flags.when x.2 fNV)

/-- a + b rounded (R148). -/
def FFmt.add (f : FFmt) (r : Rnd) (sat : Bool) (a b : FVal) : Nat × Flags :=
  f.roundX r sat (FVal.sum r [a, b])

/-- a · b rounded (R148). -/
def FFmt.mul (f : FFmt) (r : Rnd) (sat : Bool) (a b : FVal) : Nat × Flags :=
  f.roundX r sat (FVal.mul a b)

/-- The sum of products and of a further value, fused (R148, R149): the pairs multiply exactly. -/
def FFmt.dot (f : FFmt) (r : Rnd) (sat : Bool) (ps : List (FVal × FVal)) (c : FVal) : Nat × Flags :=
  let xs := ps.map (fun p => FVal.mul p.1 p.2)
  let bad := xs.any (fun x => x.2)
  let s := FVal.sum r (xs.map (fun x => x.1) ++ [c])
  let s := if bad then (.nan false, true) else s
  f.roundX r sat s

/-- m1/m2 as a value with a sticky last bit below `p` + 3 places (exact enough to round once). -/
def quotVal (neg : Bool) (m1 : Nat) (e1 : Int) (m2 : Nat) (e2 : Int) (p : Nat) : FVal :=
  let k := p + 3 + m2.log2 + 1 - min m1.log2 (p + 3 + m2.log2)
  let q := m1 * 2 ^ k / m2
  let rem := m1 * 2 ^ k % m2
  .fin neg (2 * q + (if rem = 0 then 0 else 1)) (e1 - e2 - k - 1)

/-- a / b (R148): the value before rounding and the flags NV, DZ. -/
def FFmt.quot (f : FFmt) (a b : FVal) : FVal × Flags :=
  if a.isNan || b.isNan then (.nan false, Flags.when (a.isSig || b.isSig) fNV)
  else match a, b with
    | .inf s, y => if y.isInf then (.nan false, fNV) else (.inf (s != y.neg?), 0)
    | x, .inf s => (.fin (x.neg? != s) 0 0, 0)
    | .fin s m e, .fin t n g =>
      if n = 0 then (if m = 0 then (.nan false, fNV) else (.inf (s != t), fDZ))
      else if m = 0 then (.fin (s != t) 0 0, 0)
      else (quotVal (s != t) m e n g f.mbits, 0)
    | _, _ => (.nan false, 0)

/-- a / b rounded (R148). -/
def FFmt.div (f : FFmt) (r : Rnd) (sat : Bool) (a b : FVal) : Nat × Flags :=
  let (x, fl) := f.quot a b
  let (bits, g) := f.round r sat x
  (bits, fl ||| g)

/-- a · 2^n (R148). -/
def FFmt.scale (f : FFmt) (r : Rnd) (sat : Bool) (a : FVal) (n : Int) : Nat × Flags :=
  match a with
  | .fin s m e => f.round r sat (.fin s m (e + n))
  | x => f.round r sat x

/-- Order of two values that are not NaN: a < b, with −0 equal to +0. -/
def FVal.lt : FVal → FVal → Bool
  | .inf s, y => s && !(y == .inf true)
  | x, .inf s => !s && !(x == .inf false)
  | x, y => let e := min x.exp y.exp; decide (x.numAt e < y.numAt e)

/-- Equality of two values that are not NaN, with −0 equal to +0. -/
def FVal.eqv : FVal → FVal → Bool
  | .inf s, .inf t => s == t
  | .inf _, _ => false
  | _, .inf _ => false
  | x, y => let e := min x.exp y.exp; decide (x.numAt e = y.numAt e)

/-- minimumNumber and maximumNumber (R80), on bits of a format. -/
def FFmt.minmax (f : FFmt) (isMax : Bool) (x y : Nat) : Nat × Flags :=
  let a := f.val x
  let b := f.val y
  let fl := Flags.when (a.isSig || b.isSig) fNV
  if a.isNan && b.isNan then (f.nanBits, fl)
  else if a.isNan then (y % 2 ^ f.width, fl)
  else if b.isNan then (x % 2 ^ f.width, fl)
  else
    let less := FVal.lt a b || (FVal.eqv a b && a.neg? && !b.neg?)
    (if less != isMax then x % 2 ^ f.width else y % 2 ^ f.width, fl)

/-- Bits passed on as a result: a NaN becomes the canonical one, and a signalling NaN sets NV (R79). -/
def FFmt.canon (f : FFmt) (bits : Nat) : Nat × Flags :=
  match f.val bits with
  | .nan sig => (f.nanBits, Flags.when sig fNV)
  | _ => (bits % 2 ^ f.width, 0)

/-- A rounded to an integral value in its own format (R150). -/
def FFmt.integral (f : FFmt) (r : Rnd) (exact : Bool) (x : Nat) : Nat × Flags :=
  match f.val x with
  | .nan sig => (f.nanBits, Flags.when sig fNV)
  | .inf _ => (x % 2 ^ f.width, 0)
  | .fin s m e =>
    if m = 0 then (x % 2 ^ f.width, 0)
    else
      let (k, nx) := roundAt r s m e 0
      if !nx then (x % 2 ^ f.width, 0)
      else ((f.round .rn false (.fin s k 0)).1, Flags.when exact fNX)

/-- The class mask of R151. -/
def FFmt.cls (f : FFmt) (x : Nat) : Nat :=
  match f.val x with
  | .nan sig => if sig then 1 else 2
  | .inf s => if s then 4 else 512
  | .fin s m e =>
    if m = 0 then (if s then 32 else 64)
    else if topExp m e < f.emin then (if s then 16 else 128)
    else if s then 8 else 256

/-- Floating point to a `w`-bit integer (R82). -/
def floatToInt (w : Nat) (signed : Bool) (r : Rnd) : FVal → Nat × Flags
  | .nan _ => (0, fNV)
  | .inf s => (wrapTo w (if s then intMin w signed else intMax w signed), fNV)
  | .fin s m e =>
    let (k, nx) := roundAt r s m e 0
    let x : Int := if s then -(k : Int) else k
    if x < intMin w signed then (wrapTo w (intMin w signed), fNV)
    else if intMax w signed < x then (wrapTo w (intMax w signed), fNV)
    else (wrapTo w x, Flags.when nx fNX)

/-- A value exact in the format `g`, from a format it extends (R154, R157): a signalling NaN sets
NV. -/
def widen (f g : FFmt) (x : Nat) : Nat × Flags := g.round .rn false (f.val x)

/-- The format of an element of a floating-point type. -/
def tyFmt : Ty → FFmt
  | .f64 => ffF64
  | .f16x2 => ffF16
  | .bf16x2 => ffBF16
  | _ => ffF32

/-- Element `e` of `w` bits of a packed value (R71). -/
def elemOf (w e : Nat) (v : DWord) : Nat := v.toNat / 2 ^ (w * e) % 2 ^ w

/-- A packed value from its elements of `w` bits, element 0 lowest (R71). -/
def packElems (w : Nat) : List Nat → Nat
  | [] => 0
  | x :: t => x % 2 ^ w + 2 ^ w * packElems w t

/-- Apply an operation to each element and join values and flags (R71, R84). -/
def perElem (w n : Nat) (f : Nat → Nat × Flags) : DWord × Flags :=
  let rs := (List.range n).map f
  (BitVec.ofNat 64 (packElems w (rs.map (fun r => r.1))), rs.foldl (fun acc r => acc ||| r.2) 0)

end Sys2Proof.Machine
end

