-- ==== Sys2Proof/Machine/Ox4.lean ====
section
/-! DEFINITION. OX4 blocks (03 R74 to R76; 06 R156, R157): 32 elements in 16 bytes and an extension
byte, under one E8M0 scale. -/

namespace Sys2Proof.Machine

/-- Exponent of an E8M0 scale; 0xFF is NaN (R74). -/
def scaleExp (s : Nat) : Option Int := if s % 256 = 255 then none else some ((s % 256 : Nat) - 127)

/-- A value times 2^n, exactly. -/
def FVal.shift (x : FVal) (n : Int) : FVal :=
  match x with
  | .fin s m e => .fin s m (e + n)
  | y => y

/-- The value of a slot that holds an ordinary 4-bit sign-magnitude integer (R75). -/
def slotVal (c : Nat) : FVal := .fin (c / 8 % 2 == 1) (c % 8) 0

/-- Slot `i` of an element array (R75). -/
def slotAt (elem : List Nat) (i : Nat) : Nat := elem.getD (i / 2) 0 / (if i % 2 = 0 then 1 else 16) % 16

/-- The 16 pairs of a block decoded (R75), `n` outliers met so far. -/
def decodePairs (elem : List Nat) (ext : Nat) (sc : Int) : Nat → Nat → Nat → List FVal
  | _, _, 0 => []
  | i, n, fuel + 1 =>
    let c0 := slotAt elem (2 * i)
    let c1 := slotAt elem (2 * i + 1)
    let lo := if n = 0 then ext / 16 % 16 else if n = 1 then ext % 16 else 0
    let out (hi : Nat) : FVal := FVal.shift (ffE4M3.val (hi * 16 + lo)) sc
    if c0 = 8 then out c1 :: .fin false 0 0 :: decodePairs elem ext sc (i + 1) (n + 1) fuel
    else if c1 = 8 then .fin false 0 0 :: out c0 :: decodePairs elem ext sc (i + 1) (n + 1) fuel
    else FVal.shift (slotVal c0) sc :: FVal.shift (slotVal c1) sc ::
      decodePairs elem ext sc (i + 1) n fuel

/-- The 32 values of a block (R75): all NaN under scale 0xFF. -/
def decodeOx4 (elem : List Nat) (ext scale : Nat) : List FVal :=
  match scaleExp scale with
  | none => List.replicate 32 (.nan false)
  | some sc => decodePairs elem ext sc 0 0 16

/-- x/s rounded RN to an integer's magnitude (R76 step 1). -/
def nearInt (x : FVal) : Nat :=
  match x with
  | .fin s m e => (roundAt .rn s m e 0).1
  | _ => 0

/-- An outlier candidate (R76 step 2): NaN, ∞ or |q| above 7. -/
def isOutlier (x : FVal) : Bool :=
  match x with
  | .fin _ _ _ => decide (7 < nearInt x)
  | _ => true

/-- The magnitude of a value that is not NaN. -/
def FVal.mag : FVal → FVal
  | .inf _ => .inf false
  | .fin _ m e => .fin false m e
  | x => x

/-- Between two outlier candidates the odd one wins when it ranks above the even one (R76 step 3). -/
def oddWins (a b : FVal) : Bool :=
  if a.isNan then false else if b.isNan then true else FVal.lt a.mag b.mag

/-- Magnitude code of a third or later outlier (R76 step 6): the nearest of 8, 32 and 128, ties to
the smaller, as the E4M3 bits 0x50, 0x60, 0x70. -/
def lateBits (x : FVal) : Nat :=
  let m := x.mag
  if FVal.lt (.fin false 80 0) m then 0x70
  else if FVal.lt (.fin false 20 0) m then 0x60
  else 0x50

/-- The E4M3 byte of outlier number `n`, and its flags (R76 steps 5, 6, 9, 10). -/
def outlierByte (n : Nat) (x : FVal) : Nat × Flags :=
  match x with
  | .nan _ => (if n < 2 then 0x7F else 0x70, fNV)
  | .inf s => ((if s then 0x80 else 0) + (if n < 2 then 0x7E else 0x70), fNX)
  | .fin s m e =>
    if n < 2 then
      let (b, fl) := ffE4M3.roundFin .rn true s m e
      (b, fl &&& fOF)
    else
      let v := lateBits x
      ((if s then 0x80 else 0) + v, Flags.when (FVal.lt (.fin false 128 0) x.mag) fOF)

/-- Sign-magnitude code of an integer slot. -/
def slotCode (x : FVal) : Nat :=
  let q := nearInt x
  if q = 0 then 0 else (if x.neg? then 8 else 0) + q

/-- The bytes of the element array, the extension nibbles and the flags of the outliers (R76): `xs`
holds the quotients x/s, `n` outliers so far. -/
def encodePairs : List FVal → Nat → List Nat × List Nat × Flags
  | a :: b :: t, n =>
    let oa := isOutlier a
    let ob := isOutlier b
    if oa || ob then
      let odd := ob && (!oa || oddWins a b)
      let x := if odd then b else a
      let (by8, fl) := outlierByte n x
      let (es, ns, g) := encodePairs t (n + 1)
      let hi := by8 / 16
      ((if odd then hi + 16 * 8 else 8 + 16 * hi) :: es, (if n < 2 then by8 % 16 else 0) :: ns, fl ||| g)
    else
      let (es, ns, g) := encodePairs t n
      ((slotCode a + 16 * slotCode b) :: es, ns, g)
  | _, _ => ([], [], 0)

/-- A decoded value differs from its input, or is zero for a non-zero one (R76 step 9). -/
def lossFlags (x y : FVal) : Flags :=
  match x with
  | .nan _ => if y.isNan then 0 else fNX ||| Flags.when y.isZero fUF
  | _ => if FVal.eqv x y then 0 else fNX ||| Flags.when (y.isZero && !x.isZero) fUF

/-- A block encoded (R76): 16 element bytes, the extension byte, the flags. -/
def encodeOx4 (xs : List FVal) (scale : Nat) : List Nat × Nat × Flags :=
  match scaleExp scale with
  | none => (List.replicate 16 0, 0, fNV)
  | some sc =>
    let (es, ns, fl) := encodePairs (xs.map (fun x => FVal.shift x (-sc))) 0
    let ext := ns.getD 0 0 * 16 + ns.getD 1 0
    let back := decodeOx4 es ext scale
    let loss := (xs.zip back).foldl (fun acc p => acc ||| lossFlags p.1 p.2) 0
    (es, ext, fl ||| loss)

/-- Four bytes of the element array as `pack.ox4` writes them to slot `i` (R156). -/
def ox4Word (elem : List Nat) (i : Nat) : Nat :=
  elem.getD (4 * i) 0 + 256 * elem.getD (4 * i + 1) 0 + 65536 * elem.getD (4 * i + 2) 0 +
    16777216 * elem.getD (4 * i + 3) 0

/-- What `pack.ox4` offers slot `j` of a pass (R156). -/
def ox4Out (elem : List Nat) (ext j : Nat) : Nat :=
  if j < 4 then ox4Word elem j else if j = 4 then ext else 0

/-- The element array that `unpack.ox4` reads from the words of slots 0 to 3 (R157). -/
def ox4Bytes (ws : List Nat) : List Nat :=
  (List.range 16).map (fun i => ws.getD (i / 4) 0 / 256 ^ (i % 4) % 256)

end Sys2Proof.Machine
end

