-- ==== Sys2Proof/Machine/Array.lean ====
section
/-! DEFINITION. The arithmetic of the matrix array (03 R89 to R94; 08 R217 to R224): formats, vectors,
products, accumulator words and planes. -/

namespace Sys2Proof.Machine

/-- Bits of an element. -/
def MFmt.bits : MFmt → Nat
  | .bf16 | .f16 => 16
  | .e4m3 | .e5m2 | .i8 => 8
  | .ox4 | .i4 => 4
  | .f32 => 32
  | .f64 => 64

/-- FMT codes (R217). -/
def MFmt.ofCode (c : Nat) : Option MFmt :=
  [MFmt.bf16, .f16, .e4m3, .e5m2, .ox4, .i8, .i4, .f32, .f64][c]?

/-- INT8 or INT4. -/
def MFmt.isInt : MFmt → Bool
  | .i8 | .i4 => true
  | _ => false

/-- The short floating formats. -/
def MFmt.isSmall : MFmt → Bool
  | .bf16 | .f16 | .e4m3 | .e5m2 | .ox4 => true
  | _ => false

/-- The floating format of an element. -/
def MFmt.ff : MFmt → FFmt
  | .bf16 => ffBF16
  | .f16 => ffF16
  | .e5m2 => ffE5M2
  | .f32 => ffF32
  | .f64 => ffF64
  | _ => ffE4M3

/-- Operand pairs that the array accepts (R218). -/
def pairOk (a b : MFmt) : Bool :=
  (a.isSmall && b.isSmall) || (a.isInt && b.isInt) || (a == .f32 && b == .f32) || (a == .f64 && b == .f64)

/-- Elements of a scale block in a vector of `len` elements (R217). -/
def FmtBlk.blockLen (f : FmtBlk) (len : Nat) : Nat :=
  match f.blk.toNat with
  | 1 => 16
  | 2 => 32
  | _ => len

/-- Scale blocks of a vector (R219). -/
def FmtBlk.blocks (f : FmtBlk) (len : Nat) : Nat := len / max (f.blockLen len) 1

/-- Bytes of metadata of a vector of logical length `len` (R219). -/
def metaBytes (sparse : Nat) (len : Nat) : Nat :=
  if sparse = 1 then 2 * (len / 16) else if sparse = 2 then 3 * (len / 16) else 0

/-- Elements of `n` bytes, low bits first (R73, R219). -/
def splitElems (bits : Nat) (bs : List Byte) (n : Nat) : List DWord :=
  if bits = 4 then
    (List.range n).map (fun i => BitVec.ofNat 64 ((bs.getD (i / 2) 0).toNat / (if i % 2 = 0 then 1 else 16) % 16))
  else
    let k := bits / 8
    (List.range n).map (fun i => BitVec.ofNat 64 (leNat ((bs.drop (k * i)).take k)))

/-- A value under an E8M0 scale (R74). -/
def scaled (x : FVal) (sc : Option Int) : FVal :=
  match sc, x with
  | some n, _ => x.shift n
  | none, .nan q => .nan q
  | none, _ => .nan false

/-- The values of a vector, scales included (R74, R75, R89). -/
def FmtBlk.vals (f : FmtBlk) (v : PVec) (len : Nat) : List FVal :=
  let bl := max (f.blockLen len) 1
  if f.fmt = .ox4 then
    (List.range (v.elems.length / 32)).flatMap (fun b =>
      let nib := (v.elems.drop (32 * b)).take 32
      let bytes := (List.range 16).map (fun i => (opAt' nib (2 * i)) + 16 * opAt' nib (2 * i + 1))
      decodeOx4 bytes (v.exts.getD b 0).toNat (v.scales.getD b 0).toNat)
  else
    (v.elems.zip (List.range v.elems.length)).map (fun x =>
      let base := f.fmt.ff.val x.1.toNat
      if f.skind then scaled base (scaleExp (v.scales.getD (x.2 / bl) 0).toNat) else base)
where
  opAt' (l : List DWord) (i : Nat) : Nat := (l.getD i 0).toNat

/-- The integers of a vector (R73). -/
def FmtBlk.ints (f : FmtBlk) (v : PVec) : List Int :=
  v.elems.map (fun e => valOf f.fmt.bits true e.toNat)

/-- The logical positions that a compressed vector keeps (R224): value j lies in group j div per of
`grp` elements, at the index its metadata gives. -/
def keptAt (sparse : Nat) (metas : List Byte) (j : Nat) : Nat :=
  let (b, per, grp) := if sparse = 1 then (2, 2, 4) else (3, 4, 8)
  let bits := leNat metas
  j / per * grp + bitsAt bits (b * j) b

/-- An operand of a product as the array sees it: an integer, or a value with its scale. -/
inductive MVal where
  | int (x : Int) | real (x : FVal)
deriving DecidableEq, Repr

/-- The values of a dense vector. -/
def FmtBlk.mvals (f : FmtBlk) (v : PVec) (len : Nat) : List MVal :=
  if f.fmt.isInt then (f.ints v).map MVal.int else (f.vals v len).map MVal.real

/-- The values of a compressed vector of `len` kept elements with their logical positions (R224):
scale blocks count logical positions. -/
def FmtBlk.keptVals (f : FmtBlk) (v : PVec) (len : Nat) : List (Nat × MVal) :=
  (v.elems.zip (List.range len)).map (fun x =>
    let k := keptAt f.sparse.toNat v.metas x.2
    let bl := max (f.blockLen (2 * len)) 1
    (k, if f.fmt.isInt then .int (valOf f.fmt.bits true x.1.toNat)
      else
        let base := f.fmt.ff.val x.1.toNat
        .real (if f.skind then scaled base (scaleExp (v.scales.getD (k / bl) 0).toNat) else base)))

/-- What the accumulator holds: FP32, INT32 or FP64 (R218). -/
inductive AccKind' where
  | f32 | i32 | f64
deriving DecidableEq, Repr

/-- The accumulator of a format. -/
def MFmt.acc : MFmt → AccKind'
  | .i8 | .i4 => .i32
  | .f64 => .f64
  | _ => .f32

/-- An integer sum in INT32 (R93). -/
def addI32 (acc : Nat) (x : Int) : Nat × Flags :=
  let t := valOf 32 true acc + x
  (wrapTo 32 t, Flags.when (decide (t < intMin 32 true) || decide (intMax 32 true < t)) fIOV)

/-- One step of a sum: s := RN(s + a · b) with the product exact (R89 to R93). -/
def AccKind'.mac (k : AccKind') (s : Nat) (a b : MVal) : Nat × Flags :=
  match k, a, b with
  | .i32, .int x, .int y => addI32 s (x * y)
  | .f64, .real x, .real y => ffF64.dot .rn false [(x, y)] (ffF64.val s)
  | _, .real x, .real y =>
    let (p, nv) := FVal.mul x y
    let (r, fl) := ffF32.add .rn false (ffF32.val s) p
    (r, fl ||| Flags.when nv fNV)
  | _, _, _ => (s, 0)

/-- A sum added to the accumulator's value. -/
def AccKind'.add (k : AccKind') (acc s : Nat) : Nat × Flags :=
  match k with
  | .i32 => addI32 acc (valOf 32 true s)
  | .f32 => ffF32.add .rn false (ffF32.val acc) (ffF32.val s)
  | .f64 => ffF64.add .rn false (ffF64.val acc) (ffF64.val s)

/-- The chain of R90 over pairs in order. -/
def AccKind'.chain (k : AccKind') (s : Nat) (fl : Flags) : List (MVal × MVal) → Nat × Flags
  | [] => (s, fl)
  | (a, b) :: t =>
    let (s, f) := k.mac s a b
    k.chain s (fl ||| f) t

/-! ### Tiles (R207) -/

/-- Tile `n` of a quadrant. -/
def Quad.tile (q : Quad) (n : Nat) : Tile := Tbl.get resetTile' q.tiles n
where
  resetTile' : Tile := { words := [], poison := false }

/-- Replace a tile. -/
def Quad.setTile (q : Quad) (n : Nat) (t : Tile) : Quad := { q with tiles := Tbl.set q.tiles n t }

/-- The bits of element (m, n): of a tile, or of a pair for FP64 (R207). -/
def Quad.elem (q : Quad) (acc : Nat) (wide : Bool) (m n : Nat) : Nat :=
  let w (i : Nat) : Nat := (Tbl.get 0 (q.tile i).words (32 * m + n)).toNat
  if wide then w acc + 2 ^ 32 * w (acc + 1) else w acc

/-- Write the bits of element (m, n). -/
def Quad.setElem (q : Quad) (acc : Nat) (wide : Bool) (m n v : Nat) : Quad :=
  let put (q : Quad) (i v : Nat) : Quad :=
    let t := q.tile i
    q.setTile i { t with words := Tbl.set t.words (32 * m + n) (BitVec.ofNat 32 v) }
  let q := put q acc v
  if wide then put q (acc + 1) (v / 2 ^ 32) else q

/-- A tile is poisoned; of a pair, either (R227). -/
def Quad.isPoisoned (q : Quad) (acc : Nat) (wide : Bool) : Bool :=
  (q.tile acc).poison || (wide && (q.tile (acc + 1)).poison)

/-- Poison a tile or a pair. -/
def Quad.poisonTile (q : Quad) (acc : Nat) (wide : Bool) : Quad :=
  let put (q : Quad) (i : Nat) : Quad := q.setTile i { q.tile i with poison := true }
  if wide then put (put q acc) (acc + 1) else put q acc

/-! ### Quadrant sets (R209) -/

/-- The quadrants that a QSET names. -/
def quadsOf (s : Nat) : List Nat :=
  match s with
  | 4 => [0, 1]
  | 5 => [2, 3]
  | 6 => [0, 2]
  | 7 => [1, 3]
  | 8 => [0, 1, 2, 3]
  | n => if n < 4 then [n] else []

/-- A shape stacks quadrants. -/
def isTall (s : Nat) : Bool := s == 6 || s == 7 || s == 8
/-- A shape sets quadrants side by side. -/
def isWide (s : Nat) : Bool := s == 4 || s == 5 || s == 8

/-- Kc of the inner product (R209). -/
def depthOf (s : Nat) : Nat := if isTall s then 64 else 32
/-- Columns of the output (R209). -/
def colsOf (s : Nat) : Nat := if isWide s then 64 else 32
/-- Rows of an outer-product or row-wise output (R209). -/
def rowsOf (s : Nat) : Nat := if isTall s then 64 else 32

/-- The quadrant of output row m, column n in the outer-product and row-wise dataflows. -/
def quadAt (s m n : Nat) : Nat :=
  let qs := quadsOf s
  let c := if isWide s then n / 32 else 0
  let r := if isTall s then m / 32 else 0
  qs.getD (if isWide s && isTall s then 2 * r + c else r + c) 0

/-- The quadrant where the inner product of column n lands: the lower one of a tall shape. -/
def ipQuad (s n : Nat) : Nat := quadAt s (if isTall s then 32 else 0) n

end Sys2Proof.Machine
end

