-- ==== Sys2Proof/Machine/Legal.lean ====
section
/-! DEFINITION. The fields an instruction may hold: every ILLEGAL that the words alone decide
(04 R112; 02 R41, R42; the entries of 05 to 09), reserved and unused zero fields apart, which the
decoder checks for all instructions at once (Decode.lean). -/

namespace Sys2Proof

/-- Registers one value of the type takes: two for a 64-bit type (R71). -/
def Ty.regs : Ty → Nat
  | .i64 | .n64 | .f64 => 2
  | _ => 1

/-- Width of one element in bits (R71). -/
def Ty.elemBits : Ty → Nat
  | .i64 | .n64 | .f64 => 64
  | .f16x2 | .bf16x2 | .i16x2 | .n16x2 => 16
  | .i8x4 | .n8x4 => 8
  | _ => 32

/-- Elements of a value (R71). -/
def Ty.elems : Ty → Nat
  | .f16x2 | .bf16x2 | .i16x2 | .n16x2 => 2
  | .i8x4 | .n8x4 => 4
  | _ => 1

/-- The i* types, which are two's complement (R73). -/
def Ty.signed : Ty → Bool
  | .i32 | .i64 | .i16x2 | .i8x4 => true
  | _ => false

/-- The floating-point types. -/
def Ty.isFloat : Ty → Bool
  | .f32 | .f64 | .f16x2 | .bf16x2 => true
  | _ => false

def Ty.ints : List Ty := [.i32, .n32, .i64, .n64, .i16x2, .n16x2, .i8x4, .n8x4]
def Ty.narrowInts : List Ty := [.i32, .n32, .i16x2, .n16x2, .i8x4, .n8x4]
def Ty.wholeInts : List Ty := [.i32, .n32, .i64, .n64]
def Ty.floats : List Ty := [.f32, .f64, .f16x2, .bf16x2]
def Ty.every : List Ty :=
  [.i32, .n32, .i64, .n64, .f32, .f64, .f16x2, .bf16x2, .i16x2, .n16x2, .i8x4, .n8x4]

/-- Number 254, the literal (R41). -/
def Reg.lit : Reg := 254#8
/-- Number 255, the register that reads zero and discards writes (R41). -/
def Reg.z : Reg := 255#8

/-- The predicate that always holds (R109). -/
def Pred.always : Pred := ⟨false, 0⟩

/-- How an entry uses a register field of F-3R. -/
inductive FieldUse where
  /-- not used: must be zero (R104) -/
  | unused
  /-- a source of `n` registers, or the literal -/
  | src (n : Nat)
  /-- a source of `n` registers, never the literal -/
  | srcReg (n : Nat)
  /-- a destination of `n` registers -/
  | dst (n : Nat)
  /-- a predicate code read as a source (R130) -/
  | pcode
  /-- a predicate code written (R130) -/
  | pcodeDst
  /-- a p predicate code without NEG (R160, R163) -/
  | pOnly
  /-- a q predicate code without NEG (R164) -/
  | qOnly
deriving DecidableEq, Repr

/-- A field of `n` registers that may hold 255 but not the literal (R42). -/
def Reg.okGroup (n : Nat) (r : Reg) : Bool :=
  r == Reg.z || (r != Reg.lit && r.toNat % n == 0)

def FieldUse.ok (u : FieldUse) (r : Reg) : Bool :=
  match u with
  | .unused => r == 0
  | .src n => r == Reg.lit || r.okGroup n
  | .srcReg n => r.okGroup n
  | .dst n => r.okGroup n
  | .pcode => r.toNat < 32
  | .pcodeDst => r.toNat < 16
  | .pOnly => r.toNat < 8
  | .qOnly => 8 ≤ r.toNat && r.toNat < 16

/-- The field selects IMM8 (R104). -/
def FieldUse.takesImm (u : FieldUse) (r : Reg) : Bool :=
  match u with
  | .src _ => r == Reg.lit
  | _ => false

/-- What an F-3R entry accepts besides its register fields. -/
structure F3Rule where
  d    : FieldUse := .unused
  a    : FieldUse := .unused
  b    : FieldUse := .unused
  c    : FieldUse := .unused
  tys  : List Ty := [.i32]
  /-- the rounding bits may be non-zero -/
  rnd  : Bool := false
  /-- SAT may be 1 -/
  sat  : Bool := false
  /-- the entry reads IMM8 itself -/
  imm  : Bool := false

def F3Rule.ok (r : F3Rule) (o : F3) : Bool :=
  r.d.ok o.d && r.a.ok o.a && r.b.ok o.b && r.c.ok o.c
  && r.tys.contains o.ty
  && (r.rnd || o.rnd == .rn) && (r.sat || !o.sat)
  && (r.imm || o.imm == 0 || r.a.takesImm o.a || r.b.takesImm o.b || r.c.takesImm o.c)

/-- Every field but OPC and PRED zero (R143, R195). -/
def F3.bare (o : F3) : Bool := ({ : F3Rule }).ok o

/-- The special registers of `rdsr` (R145). -/
def rdsrNumbers : List Nat :=
  [0x00, 0x01, 0x02, 0x10, 0x11, 0x12, 0x13, 0x14, 0x15, 0x16, 0x17,
   0x18, 0x19, 0x1A, 0x1B, 0x1C, 0x1D, 0x1E, 0x1F,
   0x20, 0x21, 0x22, 0x24, 0x28, 0x29, 0x2A, 0x2B]

/-- The code of a type (R110). -/
def Ty.code : Ty → BitVec 4
  | .i32 => 0 | .n32 => 1 | .i64 => 2 | .n64 => 3 | .f32 => 4 | .f64 => 5
  | .f16x2 => 6 | .bf16x2 => 7 | .i16x2 => 8 | .n16x2 => 9 | .i8x4 => 10 | .n8x4 => 11

/-- The type of a code; 12 to 15 are reserved (R110). -/
def Ty.ofCode (c : BitVec 4) : Option Ty :=
  match c.toNat with
  | 0 => some .i32 | 1 => some .n32 | 2 => some .i64 | 3 => some .n64
  | 4 => some .f32 | 5 => some .f64 | 6 => some .f16x2 | 7 => some .bf16x2
  | 8 => some .i16x2 | 9 => some .n16x2 | 10 => some .i8x4 | 11 => some .n8x4
  | _ => none

/-- The element-wise forms of R115: D, A, B of one width. -/
def legalBin (tys : List Ty) (sat : Bool) (o : F3) : Bool :=
  ({ d := .dst o.ty.regs, a := .src o.ty.regs, b := .src o.ty.regs, tys, sat : F3Rule }).ok o

/-- The shifts of R122: B is one register. -/
def legalShift (o : F3) : Bool :=
  ({ d := .dst o.ty.regs, a := .src o.ty.regs, b := .src 1, tys := Ty.ints : F3Rule }).ok o

/-- `popc`, `clz`, `ffs` (R122). -/
def legalCount (o : F3) : Bool :=
  ({ d := .dst 1, a := .src o.ty.regs, tys := [.n32, .n64] : F3Rule }).ok o

/-- The predicate forms of R133. -/
def legalPBin (o : F3) : Bool := ({ d := .pcodeDst, a := .pcode, b := .pcode : F3Rule }).ok o

/-- The float forms of R147 with D, A, B of the type. -/
def legalFBin (rnd : Bool) (o : F3) : Bool :=
  ({ d := .dst o.ty.regs, a := .src o.ty.regs, b := .src o.ty.regs, tys := Ty.floats,
     rnd, sat := rnd : F3Rule }).ok o

/-- The special functions of R153. -/
def legalSpecial (f64 : Bool) (o : F3) : Bool :=
  ({ d := .dst o.ty.regs, a := .src o.ty.regs,
     tys := if f64 then Ty.floats else [.f32, .f16x2, .bf16x2] : F3Rule }).ok o

/-- The six types of a scalar `cvt` (R154). -/
def cvtTys : List Ty := [.i32, .n32, .i64, .n64, .f32, .f64]

/-- The source type of a scalar `cvt` (R154). -/
def F3.cvtSrc (o : F3) : Option Ty :=
  if o.imm.toNat < 16 then Ty.ofCode (o.imm.extractLsb' 0 4) else none

def legalCvt (k : CvtVar) (o : F3) : Bool :=
  match k with
  | .scalar =>
    match o.cvtSrc with
    | none => false
    | some s =>
      ({ d := .dst o.ty.regs, a := .srcReg s.regs, tys := cvtTys,
         rnd := o.ty.isFloat || s.isFloat, sat := true, imm := true : F3Rule }).ok o
      && cvtTys.contains s && s != o.ty
  | .narrow =>
    ({ d := .dst 1, a := .srcReg 1, b := .srcReg 1, tys := [.f16x2, .bf16x2],
       rnd := true, sat := true : F3Rule }).ok o
  | .widen =>
    ({ d := .dst 1, a := .srcReg 1, tys := [.f32], imm := true : F3Rule }).ok o
    && o.imm.toNat < 32 && (o.imm.toNat % 16 == 6 || o.imm.toNat % 16 == 7)

/-- LOG of `xchg` (R160). -/
def F3.xLog (o : F3) : Nat := o.imm.toNat % 16
/-- The literal c of `xchg` (R160). -/
def F3.xLit (o : F3) : Nat := o.imm.toNat / 16

def legalXchg (m : XMode) (o : F3) : Bool :=
  ({ d := .dst 1, a := .src 1, b := if m == .idx then .srcReg 1 else .src 1, c := .pOnly,
     imm := true : F3Rule }).ok o
  && 1 ≤ o.xLog && o.xLog ≤ 10
  && (if o.b == Reg.lit then decide (o.xLit < 2 ^ o.xLog) else o.xLit == 0)

def legalVote (m : VMode) (o : F3) : Bool :=
  ({ d := match m with
      | .any | .all => .pcodeDst
      | .count | .ballot => .dst 1,
     a := .pcode, c := .dst 1 : F3Rule }).ok o

def ROp.tys : ROp → List Ty
  | .add | .min | .max => [.i32, .n32, .i64, .n64, .f32]
  | .and | .or | .xor => [.n32, .n64]

/-- The combining forms of R163; `c` is the segment predicate of `segm`. -/
def legalScan (op : ROp) (c : FieldUse) (o : F3) : Bool :=
  ({ d := .dst o.ty.regs, a := .src o.ty.regs, c, tys := op.tys,
     rnd := op == .add && o.ty == .f32, sat := op == .add && o.ty != .f32 : F3Rule }).ok o

/-- Registers of DATA for a width (R172). -/
def Width.regs : Width → Nat
  | .w64 => 2
  | .w128 => 4
  | _ => 1

/-- Bytes of a width (R172). -/
def Width.bytes : Width → Nat
  | .w8 | .s8 => 1
  | .w16 | .s16 => 2
  | .w32 => 4
  | .w64 => 8
  | .w128 => 16

/-- The widths a store has (R172). -/
def Width.stores : Width → Bool
  | .s8 | .s16 => false
  | _ => true

/-- What an F-MEM entry accepts. -/
structure FMemRule where
  /-- registers of DATA; 0 when DATA must be zero -/
  data  : Nat
  /-- BASE is used -/
  base  : Bool := true
  ords  : List MemOrd := [.plain]
  scopes : List Scope := [.team]
  few   : Bool := false
  fec   : Bool := false
  far   : Bool := false

def FMemRule.ok (r : FMemRule) (o : FMem) : Bool :=
  (if r.data == 0 then o.data == 0 else o.data.okGroup r.data)
  && (if r.base then o.base.okGroup 2 else o.base == 0 && o.off == 0)
  && r.ords.contains o.ord && r.scopes.contains o.scope
  && (r.few || !o.few) && (r.fec || !o.fec) && (r.far || !o.far)

def Scope.every : List Scope := [.team, .group, .cluster, .package, .system]
def Scope.toCluster : List Scope := [.team, .group, .cluster]
def MemOrd.every : List MemOrd := [.plain, .acq, .rel, .acqrel]

def legalLd (o : FMem) (n : Nat) : Bool :=
  ({ data := n, ords := [.plain, .acq], scopes := Scope.every : FMemRule }).ok o
def legalSt (o : FMem) (n : Nat) : Bool :=
  ({ data := n, ords := [.plain, .rel], scopes := Scope.every : FMemRule }).ok o
def legalLds (o : FMem) (n : Nat) : Bool :=
  ({ data := n, ords := [.plain, .acq], scopes := Scope.toCluster, few := true, fec := true
     : FMemRule }).ok o
def legalSts (o : FMem) (n : Nat) : Bool :=
  ({ data := n, ords := [.plain, .rel], scopes := Scope.toCluster, fec := true : FMemRule }).ok o

/-- Registers of the value an `atom` or `red` carries (R181). -/
def AOp.regs : AOp → Nat
  | .add64 | .minS64 | .maxS64 | .and64 | .or64 | .xor64 | .xchg64 => 2
  | _ => 1

/-- The exchanges, which `red` does not have (R181). -/
def AOp.isXchg : AOp → Bool
  | .xchg32 | .xchg64 => true
  | _ => false

def legalAtomic (o : FMem) (n : Nat) : Bool :=
  ({ data := n, ords := MemOrd.every, scopes := Scope.every, far := true : FMemRule }).ok o

/-- A barrier form (R196): SCOPE is GROUP. -/
def legalBarrier (o : FMem) (n : Nat) : Bool :=
  ({ data := n, scopes := [.group] : FMemRule }).ok o

def legalDecl (k : DKind) (o : FMem) : Bool :=
  o.data != Reg.z &&
  match k with
  | .lane | .team => ({ data := 1, base := false : FMemRule }).ok o
  | .mem | .bank => ({ data := 1 : FMemRule }).ok o

/-- A 4-bit address register field is even (R211). -/
def even4 (r : BitVec 4) : Bool := r.toNat % 2 == 0

/-- Rows a dataflow may step through (R220). -/
def Dataflow.maxSteps : Dataflow → Nat
  | .ip => 32
  | .op | .rw => 4095

def legalMloop (o : MloopOps) : Bool :=
  o.qset.toNat ≤ 8 && o.lclass != 0 && o.steps != 0 && o.steps.toNat ≤ o.df.maxSteps
  && even4 o.areg && even4 o.breg && even4 o.mreg && even4 o.oreg
  && match o.df with
    | .ip => o.breg == 0 && o.mreg == 0 && !o.sout && o.oreg == 0 && o.fbb == 0 && o.binc == 0
    | .op => o.mreg == 0 && !o.sout && o.oreg == 0
    | .rw => if o.sout then o.acc == 0 && !o.ovw else o.oreg == 0

/-- Bytes of one element of an `mdrain` output (R231). -/
def OFmt.bytes : OFmt → Nat
  | .f32 | .i32 => 4
  | .bf16 | .f16 => 2
  | .e4m3 | .e5m2 | .i8 => 1
  | .f64 => 8

/-- The outputs a tile kind accepts (R231). -/
def IKind.accepts : IKind → OFmt → Bool
  | .f32, .f32 | .f32, .bf16 | .f32, .f16 | .f32, .e4m3 | .f32, .e5m2 => true
  | .i32, .i32 | .i32, .i8 => true
  | .f64, .f64 | .f64, .f32 => true
  | _, _ => false

def legalMdrain (o : MdrainOps) : Bool :=
  o.qset.toNat ≤ 3 && o.ikind.accepts o.ofmt && even4 o.dreg && o.pitch != 0
  && (o.ikind != .f64 || o.acc.toNat % 2 == 0)
  && (!(o.ofmt == .i32 || o.ofmt == .i8) || o.rnd == .rn)
  && decide (32 * o.ofmt.bytes ≤ 16 * o.pitch.toNat)

/-- Stride `j` of a nest (R108): 3 · level + operand. -/
def FN.stride (n : FN) (j : Nat) : BitVec 8 := n.strides.extractLsb' (8 * j) 8

/-- Extent field of level `k` (R108). -/
def FN.extent (n : FN) (k : Nat) : BitVec 12 :=
  match k with
  | 0 => n.x0 | 1 => n.x1 | 2 => n.x2 | 3 => n.x3 | _ => n.x4

/-- Fields of the levels at or above DEPTH are zero (R108). -/
def FN.aboveZero (n : FN) : Bool :=
  (List.range 5).all fun k =>
    k < n.depth.toNat ||
      (n.extent k == 0 && !n.rmask.getLsbD k
       && n.stride (3 * k) == 0 && n.stride (3 * k + 1) == 0 && n.stride (3 * k + 2) == 0)

def NestOp.tys : NestOp → List Ty
  | .copy => Ty.every
  | .and | .or | .xor => [.n32, .n64]
  | _ => [.i32, .n32, .i64, .n64, .f32, .f64, .f16x2, .bf16x2]

/-- The operation reads B (R246): `.copy` and the reductions other than `.mac` do not. -/
def NestOp.usesB (op : NestOp) (red : Bool) : Bool :=
  match op with
  | .copy => false
  | .mac => true
  | _ => !red

def legalNest (op : NestOp) (ty : Ty) (n : FN) : Bool :=
  1 ≤ n.depth.toNat && n.depth.toNat ≤ 5 && n.aboveZero
  && op.tys.contains ty
  && (n.rmask == 0 || !(op == .copy || op == .sub || op == .mul))
  && n.bd.okGroup 2 && n.ba.okGroup 2 && n.bb.okGroup 2
  && (op.usesB (n.rmask != 0) ||
      (n.bb == 0 && n.shb == 0 && (List.range 5).all fun k => n.stride (3 * k + 2) == 0))
  && (List.range 5).all fun k => !n.rmask.getLsbD k || n.stride (3 * k) == 0

def legalRagged (pr : BitVec 3) (n : FN) : Bool :=
  pr != 0 && n.depth == 1 && n.rmask == 0 && n.shd == 0 && n.sha == 0 && n.shb == 0
  && n.strides == 0 && n.x1 == 0 && n.x2 == 0 && n.x3 == 0 && n.x4 == 0
  && n.bd.okGroup 2 && n.ba.okGroup 2 && n.bb.okGroup 2

/-- The fields `lace` and `laceg` share (R241, R244). -/
def legalCopy (src dst bar : Reg) (rowb : BitVec 24) (counts : Bool) : Bool :=
  src.okGroup 2 && dst.okGroup 2 && (if counts then bar.okGroup 2 else bar == 0)
  && rowb != 0 && rowb.toNat % 16 == 0

def legalLace (o : LaceOps) : Bool :=
  legalCopy o.src o.dst o.bar o.rowb (o.inc || o.outc)
  && match o.dims.toNat with
    | 0 => o.x1 == 0 && o.x2 == 0 && o.str == 0
    | 1 => o.x2 == 0 && o.str.okGroup 4
    | 2 => o.str.okGroup 4
    | _ => false

/-- Every ILLEGAL the words decide, but for fields that must be zero, which the encoder fixes.
The steps of the package have no words and are always legal. -/
def Instr.legal : Instr → Bool
  | .add o => legalBin Ty.narrowInts true o
  | .sub o => legalBin Ty.narrowInts true o
  | .mul o => legalBin [.i32, .n32, .i16x2, .n16x2] true o
  | .mulh o => legalBin [.i32, .n32] false o
  | .mad false o =>
    ({ d := .dst 1, a := .src 1, b := .src 1, c := .src 1, tys := [.i32, .n32, .i16x2, .n16x2],
       sat := true : F3Rule }).ok o
  | .mad true o =>
    ({ d := .dst 2, a := .src 1, b := .src 1, c := .src 2, tys := [.i32, .n32],
       sat := true : F3Rule }).ok o
  | .div o => legalBin Ty.wholeInts false o
  | .rem o => legalBin Ty.wholeInts false o
  | .min o => legalBin Ty.ints false o
  | .max o => legalBin Ty.ints false o
  | .add64 x32 o | .sub64 x32 o =>
    ({ d := .dst 2, a := .src 2, b := .src (if x32 then 1 else 2), tys := [.i64, .n64],
       sat := true : F3Rule }).ok o
  | .mul64 false o => legalBin [.i64, .n64] true o
  | .mul64 true o =>
    ({ d := .dst 2, a := .src 1, b := .src 1, tys := [.i32, .n32] : F3Rule }).ok o
  | .lea o =>
    ({ d := .dst 2, a := .src 2, b := .srcReg 1, tys := [.i32, .n32], imm := true : F3Rule }).ok o
    && decide (o.imm.toNat < 8)
  | .dp4 su o =>
    ({ d := .dst 1, a := .src 1, b := .src 1, c := .src 1,
       tys := if su then [.i8x4] else [.i8x4, .n8x4], sat := true : F3Rule }).ok o
  | .li o => o.d.okGroup 1 && o.a == 0
  | .liSx o | .liZx o => o.d.okGroup 2 && o.a == 0
  | .and o | .or o | .xor o | .andn o => legalBin Ty.wholeInts false o
  | .shl _ o | .shr _ o | .sar _ o | .rot o => legalShift o
  | .popc o | .clz o | .ffs o => legalCount o
  | .brev o => ({ d := .dst o.ty.regs, a := .src o.ty.regs, tys := [.n32, .n64] : F3Rule }).ok o
  | .bfe o =>
    ({ d := .dst o.ty.regs, a := .src o.ty.regs, b := .src 1, c := .src 1,
       tys := Ty.wholeInts : F3Rule }).ok o
  | .bfi o =>
    ({ d := .dst o.ty.regs, a := .src o.ty.regs, b := .src 1, c := .src 1,
       tys := [.n32, .n64] : F3Rule }).ok o
  | .clmul o => ({ d := .dst 2, a := .src 1, b := .src 1, tys := [.n32] : F3Rule }).ok o
  | .sel o =>
    ({ d := .dst o.ty.regs, a := .srcReg o.ty.regs, b := .srcReg o.ty.regs, tys := Ty.every,
       imm := true : F3Rule }).ok o && decide (o.imm.toNat < 16)
  | .icmp _ o =>
    ({ d := .pcodeDst, a := .src o.ty.regs, b := .src o.ty.regs, tys := Ty.wholeInts
       : F3Rule }).ok o
  | .fcmp _ o =>
    ({ d := .pcodeDst, a := .src o.ty.regs, b := .src o.ty.regs, tys := [.f32, .f64]
       : F3Rule }).ok o
  | .pand o | .por o | .pxor o => legalPBin o
  | .pnot o => ({ d := .pcodeDst, a := .pcode : F3Rule }).ok o
  | .pset bit o =>
    ({ d := .pcodeDst, a := .src 1, b := if bit then .src 1 else .unused : F3Rule }).ok o
  | .br o => o.cond == Pred.always && o.r == 0
  | .brdiv o => o.r == 0
  | .join o => o.cond == Pred.always && o.r == 0 && o.p == Pred.always && o.off == 0
  | .call o => o.cond == Pred.always && o.r.okGroup 2
  | .ret o => o.cond == Pred.always && o.r.okGroup 2 && o.off == 0
  | .exit o => o.cond == Pred.always && o.r == 0 && o.off == 0
  | .brx o => o.cond == Pred.always && o.r.okGroup 1
  | .wait o => o.d == 0 && o.a == 0 && decide (o.imm.toNat < 2 ^ 18)
  | .nop o | .tfence o => o.bare
  | .getf o | .getfClr o => ({ d := .dst 1 : F3Rule }).ok o
  | .clrf o | .clrfFen o | .clrfLoad o => ({ a := .src 1 : F3Rule }).ok o
  | .rdsr o =>
    ({ d := .dst (if o.imm == 0x24 then 2 else 1), imm := true : F3Rule }).ok o
    && rdsrNumbers.contains o.imm.toNat
  | .fadd o | .fsub o | .fmul o | .fdiv o => legalFBin true o
  | .ffma o =>
    ({ d := .dst o.ty.regs, a := .src o.ty.regs, b := .src o.ty.regs, c := .src o.ty.regs,
       tys := Ty.floats, rnd := true, sat := true : F3Rule }).ok o
  | .fmin o | .fmax o => legalFBin false o
  | .fscale o =>
    ({ d := .dst o.ty.regs, a := .src o.ty.regs, b := .src 1, tys := Ty.floats,
       rnd := true, sat := true : F3Rule }).ok o
  | .fround _ o =>
    ({ d := .dst o.ty.regs, a := .src o.ty.regs, tys := Ty.floats, rnd := true : F3Rule }).ok o
  | .fclass o => ({ d := .dst 1, a := .src o.ty.regs, tys := Ty.floats : F3Rule }).ok o
  | .fdot2 o =>
    ({ d := .dst 1, a := .src 1, b := .src 1, c := .src 1, tys := [.f16x2, .bf16x2],
       rnd := true, sat := true : F3Rule }).ok o
  | .frcp o | .frsq o | .fsqrt o => legalSpecial true o
  | .fexp2 o | .flog2 o | .fsin o | .fcos o | .ftanh o => legalSpecial false o
  | .cvt k o => legalCvt k o
  | .pack _ o =>
    ({ d := .dst 1, a := .srcReg 1, b := .srcReg 1, tys := [.f32], rnd := true, sat := true,
       imm := true : F3Rule }).ok o && decide (o.imm.toNat < 2)
  | .packOx4 o =>
    ({ d := .dst 1, a := .src 1, b := .src 1, tys := [.f32] : F3Rule }).ok o && o.imm == 0
  | .unpack _ o =>
    ({ d := .dst 1, a := .srcReg 1, tys := [.f32], imm := true : F3Rule }).ok o
    && decide (o.imm.toNat < 4)
  | .unpackOx4 o =>
    ({ d := .dst 1, a := .src 1, b := .src 1, tys := [.f32], rnd := true, sat := true
       : F3Rule }).ok o && o.imm == 0
  | .xchg m o => legalXchg m o
  | .vote m o => legalVote m o
  | .matchOp _ o =>
    ({ d := .dst 1, a := .src o.ty.regs, c := .dst 1, tys := Ty.wholeInts : F3Rule }).ok o
    && o.imm == 0
  | .redux op o => legalScan op .unused o
  | .prefixOp op _ o => legalScan op .unused o
  | .segm op _ o => legalScan op .pOnly o
  | .pick o =>
    ({ d := .dst o.ty.regs, a := .src o.ty.regs, b := .src 1, c := .qOnly, tys := [.i32, .i64]
       : F3Rule }).ok o
  | .lid _ o => ({ d := .dst 1 : F3Rule }).ok o
  | .ld w o => legalLd o w.regs
  | .st w o => legalSt o w.regs && w.stores
  | .ldu w o => legalLd o w.regs && w != .w128
  | .stu w o => legalSt o w.regs && w.stores && w != .w128
  | .lds w o | .ldc w o => legalLds o w.regs
  | .sts w o | .stc w o => legalSts o w.regs && w.stores
  | .ldk w o => ({ data := w.regs : FMemRule }).ok o && (w == .w32 || w == .w64 || w == .w128)
  | .setfe o | .clrfe o => ({ data := 0 : FMemRule }).ok o
  | .atom op o => legalAtomic o op.regs
  | .atomcas wide o => legalAtomic o (if wide then 4 else 2)
  | .red op o => legalAtomic o op.regs && !op.isXchg
  | .atomf _ o | .redf _ o => legalAtomic o 1
  | .tbeg o =>
    ({ data := 0, base := false, scopes := [.group, .cluster, .package] : FMemRule }).ok o
  | .tend o => ({ data := 0, base := false : FMemRule }).ok o && o.p == Pred.always
  | .tabt o => ({ imm := true : F3Rule }).ok o
  | .tstat o => ({ d := .dst 1 : F3Rule }).ok o
  | .fence o =>
    ({ data := 0, base := false, ords := [.acq, .rel, .acqrel], scopes := Scope.every
       : FMemRule }).ok o
  | .pathf _ o => ({ data := 0, base := false, scopes := Scope.every : FMemRule }).ok o
  | .placef o => o.bare
  | .barinit o => legalBarrier o 1
  | .arrive o => legalBarrier o 0
  | .arriveInb o | .arriveOutb o => legalBarrier o 1
  | .barwait _ o =>
    legalBarrier { o with data := 0 } 0 && FieldUse.qOnly.ok o.data
  | .bwatch _ o => legalBarrier o 0
  | .decl k o | .redecl k o => legalDecl k o
  | .undecl o => ({ d := .dst 1 : F3Rule }).ok o && o.d != Reg.z
  | .placeq o => ({ d := .dst 1, a := .srcReg 1 : F3Rule }).ok o && o.a != Reg.z
  | .mlds o => decide (o.qset.toNat ≤ 8) && even4 o.breg && o.pitch != 0
  | .mldsBar o b => decide (o.qset.toNat ≤ 8) && even4 o.breg && o.pitch != 0 && even4 b.xreg
  | .mswap q | .mfuse q => decide (q.toNat ≤ 8)
  | .mzero o => decide (o.qset.toNat ≤ 8) && (!o.all || o.acc == 0)
  | .mloop o => legalMloop o
  | .mdrain o => legalMdrain o
  | .mcomp o =>
    decide (o.qset.toNat ≤ 3) && decide (1 ≤ o.len16.toNat) && decide (o.len16.toNat ≤ 8)
    && even4 o.sreg && even4 o.vreg && even4 o.mreg
  | .mread o =>
    decide (o.qset.toNat ≤ 3) && o.dst.okGroup (if o.w64 then 2 else 1)
    && (!o.w64 || o.acc.toNat % 2 == 0)
  | .mstat q d => decide (q.toNat ≤ 3) && d.okGroup 1
  | .nest op ty n => legalNest op ty n
  | .ragged pr n => legalRagged pr n
  | .fork o =>
    (match o.tgt with
     | .matrix => decide (o.qset.toNat ≤ 8)
     | .lace _ => o.qset == 0)
    && decide (o.ecnt.toNat ≤ 16) && o.ebase != Reg.lit
  | .rdv o => o.bare
  | .lace o => legalLace o
  | .laceg o =>
    legalCopy o.src o.dst o.bar o.rowb (o.inc || o.outc) && o.idx.okGroup 2 && o.pitch.okGroup 1
  | .awlmodeOn cls o => ({ data := 1 : FMemRule }).ok o && cls != 0
  | .awlmodeOff o => ({ data := 1 : FMemRule }).ok o
  | .awlbc _ o => ({ d := .dst 1, a := .srcReg 1 : F3Rule }).ok o
  | .awlmac o =>
    ({ d := .dst 1, a := .srcReg 1, b := .srcReg 2, imm := true : F3Rule }).ok o
    && decide (o.imm.toNat < 8) && o.a != o.d
  | .awlrd o => ({ d := .dst 1, a := .srcReg 1 : F3Rule }).ok o
  | .trap o | .brk o | .hcall o => o.d == 0 && o.a == 0
  | .rfh o | .rfhSkip o | .tmaskOff o | .tmaskOn o => o.bare
  | .hset o => o.cond == Pred.always && o.r.okGroup 1
  | .transactionCommit _ | .quadrantStart _ _ | .mloopStep _ _ _ | .matrixComplete _ _
    | .engineProgramEnd _ _ | .laceCopyStart _ _ | .laceSourceRead _ _ _
    | .laceGranuleLanding _ _ _ | .laceCopyComplete _ _ | .sessionDrainDone _ | .sessionDeadline _
    | .clauseStart | .issueWindowStart _ | .issueWindowEnd _ | .windowReclaim _
    | .teamStreamWake _ | .placementStep _ _ | .teamEnd _ | .requestAtTarget _
    | .completionReceive _ | .faultHalt _ | .generationHoldExpiry _ | .frameBoundary
    | .channelRequestIssue _ | .leaveGrant _ | .preemptionRequest _ _ | .saveComplete _
    | .trackerPeriodEnd _ _ | .scrubSector _ | .flitReceive _ _ | .railFailure _ _
    | .laneCalibration _ _ | .linkDown _ | .zoneEvaluation _ _ _ _ | .dryDeclaration _
    | .evacuationSaveTimeout _ | .evacuationPurge _ | .evacuationPulse _ | .evacuationReprime _
    | .evacuationVerify _ _ | .switchStart _ _ _ _ | .switchDeadline1 | .switchDeadline2
    | .switchFinish | .homeMapCommit _ _ | .faultQueueRdWrite _ _ _ | .faultResume _ _ _
    | .faultKill _ _ _ | .tlbInvalidate _ _ _ _ | .frameRelease _ _ | .ownershipWrite _ _ _ _
    | .domainControlWrite _ _ _ | .mscScratchWrite _ _ _ | .vdControlWrite _ _ _
    | .calendarSwap _ _ | .calendarEntryWrite _ _ _ _ | .bucketWrite _ _ _ _
    | .contractWrite _ _ _ _ _ _ | .repairByteWrite _ _ _ _ | .coolantZoneWrite _ _ _ _
    | .fenceClear _ _ _ | .notifyWrite _ _ _ | .packetTake _ | .waitvalPoll _ | .launchComplete _
    | .pauseClear _ _ | .hostSnoop _ | .hostMemAccess _ _ | .attestation _ _ | .keyWrap _ _
    | .journalPeriod | .journalRdWrite _ _ _ | .coldReset | .warmReset _ | .registerWrite _ _ _ _
    | .completionAcknowledgement _ | .linkUp _
  => true

end Sys2Proof
end

