-- ==== Sys2Proof/Machine/Desc.lean ====
section
/-! DEFINITION. What an instruction that computes on registers reads, writes and computes (04 R103,
R104, R109; 05 R114; 06 R159): one description per instruction, from which one shared operation
checks it and carries it out at the place of its destination. -/

namespace Sys2Proof.Machine

/-- A source: a register operand of `n` registers with the value a literal 254 gives it (R104), a
predicate code (R130), or a selector (R128). -/
inductive Src where
  | reg (r : Reg) (n : Nat) (lit : DWord)
  | pcode (c : Byte)
  | sel (p : Pred)
deriving DecidableEq, Repr

/-- A destination: a register operand of `n` registers, a predicate code, or none. -/
inductive Dst where
  | reg (r : Reg) (n : Nat)
  | pcode (c : Byte)
deriving DecidableEq, Repr

/-- What a cross-lane instruction sees of a present lane (R159): virtual id, physical slot, whether it
takes part, its operand values. -/
structure LaneIn where
  vid  : Nat
  slot : Nat
  act  : Bool
  ops  : List DWord
deriving Repr

/-- What a cross-lane instruction gives a lane: its result and its flag. -/
structure LaneOut where
  vid  : Nat
  val  : DWord
  flag : Bool
deriving DecidableEq, Repr

/-- The outcome of a cross-lane instruction: lane results, the uniform result with its flag, and
sticky flags; `none` where the value of a register makes it ILLEGAL (R160). -/
structure CrossOut where
  lanes : List LaneOut
  val   : DWord
  flag  : Bool
  flags : Flags

/-- How an instruction computes. -/
inductive Body where
  /-- each lane, or the uniform unit, on its own operands -/
  | elem (f : List DWord → DWord × Flags)
  /-- over the lanes of the team; `uni` tells a uniform destination, `e0` is the number of members -/
  | cross (f : Bool → Nat → List LaneIn → Option CrossOut)

/-- What may hold a destination, beside what R49 rules. -/
inductive DstRule where
  | anyCore            -- LANE or TEAM (a MEM destination raises PLACE, R49)
  | anyMem             -- LANE, TEAM or MEM (R49)
  | laneShape          -- LANE; a uniform destination raises SHAPE
  | lanePlace          -- LANE; any other destination raises PLACE
deriving DecidableEq, Repr

/-- A register instruction. `dst2` is a flag predicate (R160, R164) or an absent mask (R161), which is a
TEAM register or `z`. `uniform` lists the sources that must not be lane-shaped although the
destination is; `core` those that raise PLACE at MEM or BANK (R146, R160); `laneToUni` admits lane
sources for a uniform destination (R50). -/
structure OpDesc where
  pred      : Pred
  dst       : Dst
  dst2      : Option Dst
  srcs      : List Src
  rmw       : Bool
  rule      : DstRule
  uniform   : List Nat
  core      : List Nat
  laneToUni : Bool
  body      : Body

/-- A literal of the type `ty` (R104), low bits first in the 64 bits of an operand. -/
def litVal (ty : Ty) (imm : Byte) : DWord :=
  match ty with
  | .i32 => (imm.signExtend 32).setWidth 64
  | .n32 => imm.setWidth 64
  | .i64 => imm.signExtend 64
  | .n64 => imm.setWidth 64
  | .f32 | .f64 => BitVec.ofNat 64 ((tyFmt ty).round .rn false (ffE4M3.val imm.toNat)).1
  | .f16x2 | .bf16x2 =>
    let x := ((tyFmt ty).round .rn false (ffE4M3.val imm.toNat)).1
    BitVec.ofNat 64 (packElems 16 [x, x])
  | .i16x2 => let x := (imm.signExtend 16).toNat; BitVec.ofNat 64 (packElems 16 [x, x])
  | .n16x2 => BitVec.ofNat 64 (packElems 16 [imm.toNat, imm.toNat])
  | .i8x4 | .n8x4 => BitVec.ofNat 64 (packElems 8 [imm.toNat, imm.toNat, imm.toNat, imm.toNat])

/-- The literal of a one-register operand under a 64-bit TYPE (R104, R117, R124). -/
def litNarrow (ty : Ty) (imm : Byte) : DWord :=
  match ty with
  | .i64 => litVal .i32 imm
  | .n64 => litVal .n32 imm
  | t => litVal t imm

/-- A source of a value of the type. -/
def srcOf (ty : Ty) (r : Reg) (imm : Byte) : Src := .reg r (Ty.regs ty) (litVal ty imm)

/-- Operand `i` of a list. -/
def opAt (l : List DWord) (i : Nat) : DWord := l.getD i 0

/-- A plain description: lanes or a uniform place, no second destination. -/
def plainDesc (p : Pred) (d : Dst) (srcs : List Src) (f : List DWord → DWord × Flags) : OpDesc :=
  { pred := p, dst := d, dst2 := none, srcs := srcs, rmw := false, rule := .anyMem, uniform := [],
    core := [], laneToUni := false, body := .elem f }

end Sys2Proof.Machine
end

