-- ==== Sys2Proof/Machine/IntOps.lean ====
section
/-! DEFINITION. Integer arithmetic and logic: groups 0x0 and 0x1 (05 R115 to R129), what each
instruction reads and computes. -/

namespace Sys2Proof.Machine

/-- An element-wise integer operation of two or three operands, exact result `g` (R116). -/
def intElems (ty : Ty) (sat : Bool) (g : Int → Int → Int → Int) (ops : List DWord) : DWord × Flags :=
  let w := Ty.elemBits ty
  perElem w (Ty.elems ty) (fun e =>
    let v (i : Nat) : Int := valOf w (Ty.signed ty) (elemOf w e (opAt ops i))
    fitInt w (Ty.signed ty) sat (g (v 0) (v 1) (v 2)))

/-- D, A, B of one type (R115). -/
def descBin (o : F3) (f : List DWord → DWord × Flags) : OpDesc :=
  plainDesc o.p (.reg o.d (Ty.regs o.ty)) [srcOf o.ty o.a o.imm, srcOf o.ty o.b o.imm] f

/-- ADD (R116). -/
def descAdd (o : F3) : OpDesc := descBin o (intElems o.ty o.sat (fun a b _ => a + b))
/-- SUB (R116). -/
def descSub (o : F3) : OpDesc := descBin o (intElems o.ty o.sat (fun a b _ => a - b))
/-- MUL (R116). -/
def descMul (o : F3) : OpDesc := descBin o (intElems o.ty o.sat (fun a b _ => a * b))
/-- MIN (R116). -/
def descMin (o : F3) : OpDesc := descBin o (intElems o.ty false (fun a b _ => min a b))
/-- MAX (R116). -/
def descMax (o : F3) : OpDesc := descBin o (intElems o.ty false (fun a b _ => max a b))

/-- Bits 63:32 of the exact product (R116). -/
def mulhVal (ty : Ty) (ops : List DWord) : DWord × Flags :=
  let v (i : Nat) : Int := valOf 32 (Ty.signed ty) (opAt ops i).toNat
  (BitVec.ofNat 64 (wrapTo 64 (v 0 * v 1) / 2 ^ 32), 0)

/-- MULH (R116). -/
def descMulh (o : F3) : OpDesc := descBin o (mulhVal o.ty)

/-- Quotient and remainder rounded towards zero, with the cases of R83. -/
def divRem (w : Nat) (signed : Bool) (a b : Int) : Nat × Nat × Flags :=
  if b = 0 then (2 ^ w - 1, wrapTo w a, fDZ)
  else if signed && decide (a = intMin w true) && decide (b = -1) then (wrapTo w a, 0, fIOV)
  else
    let q := Int.tdiv a b
    (wrapTo w q, wrapTo w (a - b * q), 0)

/-- The value of `div` or `rem` (R116). -/
def divVal (isRem : Bool) (ty : Ty) (ops : List DWord) : DWord × Flags :=
  let w := Ty.elemBits ty
  let v (i : Nat) : Int := valOf w (Ty.signed ty) (opAt ops i).toNat
  let (q, r, fl) := divRem w (Ty.signed ty) (v 0) (v 1)
  (BitVec.ofNat 64 (if isRem then r else q), fl)

/-- DIV (R116). -/
def descDiv (o : F3) : OpDesc := descBin o (divVal false o.ty)
/-- REM (R116). -/
def descRem (o : F3) : OpDesc := descBin o (divVal true o.ty)

/-- The 64-bit type of the same signedness. -/
def wideTy (ty : Ty) : Ty := if Ty.signed ty then .i64 else .n64

/-- An exact 64-bit result from operands of the given widths (R117). -/
def wideVal (signed sat : Bool) (wa wb : Nat) (g : Int → Int → Int → Int) (ops : List DWord) :
    DWord × Flags :=
  let a := valOf wa signed (opAt ops 0).toNat
  let b := valOf wb signed (opAt ops 1).toNat
  let c := valOf 64 signed (opAt ops 2).toNat
  let (v, fl) := fitInt 64 signed sat (g a b c)
  (BitVec.ofNat 64 v, fl)

/-- MAD: `mad` and `mad.wide` (R116, R117). -/
def descMad (wide : Bool) (o : F3) : OpDesc :=
  if wide then
    plainDesc o.p (.reg o.d 2)
      [srcOf o.ty o.a o.imm, srcOf o.ty o.b o.imm, .reg o.c 2 (litVal (wideTy o.ty) o.imm)]
      (wideVal (Ty.signed o.ty) o.sat 32 32 (fun a b c => a * b + c))
  else
    plainDesc o.p (.reg o.d (Ty.regs o.ty))
      [srcOf o.ty o.a o.imm, srcOf o.ty o.b o.imm, srcOf o.ty o.c o.imm]
      (intElems o.ty o.sat (fun a b c => a * b + c))

/-- The operands of `add64` and `sub64`, B of 32 bits in the `.x32` form (R117). -/
def desc64 (x32 : Bool) (o : F3) (g : Int → Int → Int → Int) : OpDesc :=
  plainDesc o.p (.reg o.d 2)
    [srcOf o.ty o.a o.imm, if x32 then .reg o.b 1 (litNarrow o.ty o.imm) else srcOf o.ty o.b o.imm]
    (wideVal (Ty.signed o.ty) o.sat 64 (if x32 then 32 else 64) g)

/-- ADD64 (R117). -/
def descAdd64 (x32 : Bool) (o : F3) : OpDesc := desc64 x32 o (fun a b _ => a + b)
/-- SUB64 (R117). -/
def descSub64 (x32 : Bool) (o : F3) : OpDesc := desc64 x32 o (fun a b _ => a - b)

/-- MUL64: `mul64` and `mul64.wide` (R117). -/
def descMul64 (wide : Bool) (o : F3) : OpDesc :=
  plainDesc o.p (.reg o.d 2) [srcOf o.ty o.a o.imm, srcOf o.ty o.b o.imm]
    (let w := if wide then 32 else 64
     wideVal (Ty.signed o.ty) (!wide && o.sat) w w (fun a b _ => a * b))

/-- LEA (R118): the shift is IMM8 bits 2:0. -/
def leaVal (ty : Ty) (sh : Nat) (ops : List DWord) : DWord × Flags :=
  let b := valOf 32 (Ty.signed ty) (opAt ops 1).toNat
  (BitVec.ofNat 64 (wrapTo 64 ((opAt ops 0).toNat + b * (2 ^ sh : Nat))), 0)

/-- LEA (R118). -/
def descLea (o : F3) : OpDesc :=
  plainDesc o.p (.reg o.d 2) [.reg o.a 2 (litVal (wideTy o.ty) o.imm), .reg o.b 1 0]
    (leaVal o.ty (o.imm.toNat % 8))

/-- DP4 (R119): C plus the sum of four products. -/
def dp4Val (sa sb sat : Bool) (ops : List DWord) : DWord × Flags :=
  let pr (e : Nat) : Int :=
    valOf 8 sa (elemOf 8 e (opAt ops 0)) * valOf 8 sb (elemOf 8 e (opAt ops 1))
  let (v, fl) := fitInt 32 sa sat (valOf 32 sa (opAt ops 2).toNat + (pr 0 + pr 1 + pr 2 + pr 3))
  (BitVec.ofNat 64 v, fl)

/-- DP4 (R119). -/
def descDp4 (su : Bool) (o : F3) : OpDesc :=
  plainDesc o.p (.reg o.d 1)
    [srcOf o.ty o.a o.imm, srcOf o.ty o.b o.imm,
      .reg o.c 1 (litVal (if Ty.signed o.ty then .i32 else .n32) o.imm)]
    (dp4Val (Ty.signed o.ty) (Ty.signed o.ty && !su) o.sat)

/-- A constant into one register or a pair. -/
def descConst (o : FRI) (n : Nat) (v : DWord) : OpDesc := plainDesc o.p (.reg o.d n) [] (fun _ => (v, 0))

/-- LI (R120). -/
def descLi (o : FRI) : OpDesc := descConst o 1 (o.imm.setWidth 64)
/-- LI_SX (R120). -/
def descLiSx (o : FRI) : OpDesc := descConst o 2 (o.imm.signExtend 64)
/-- LI_ZX (R120). -/
def descLiZx (o : FRI) : OpDesc := descConst o 2 (o.imm.setWidth 64)

/-- The bits of a type's operand. -/
def tyMask (ty : Ty) (v : DWord) : DWord := if Ty.regs ty = 2 then v else v &&& 0xFFFF_FFFF

/-- AND (R123). -/
def descAnd (o : F3) : OpDesc := descBin o (fun l => (tyMask o.ty (opAt l 0 &&& opAt l 1), 0))
/-- OR (R123). -/
def descOr (o : F3) : OpDesc := descBin o (fun l => (tyMask o.ty (opAt l 0 ||| opAt l 1), 0))
/-- XOR (R123). -/
def descXor (o : F3) : OpDesc := descBin o (fun l => (tyMask o.ty (opAt l 0 ^^^ opAt l 1), 0))
/-- ANDN (R123). -/
def descAndn (o : F3) : OpDesc := descBin o (fun l => (tyMask o.ty (opAt l 0 &&& ~~~(opAt l 1)), 0))

/-- The shifts of R124. -/
inductive ShiftOp where
  | shl | shr | sar | rot
deriving DecidableEq, Repr

/-- One element shifted (R124): `a` of `w` bits, count `n` as taken from B. -/
def shiftElem (op : ShiftOp) (clamp : Bool) (w a n : Nat) : Nat :=
  let n := if clamp then n else n % w
  match op with
  | .shl => if w ≤ n then 0 else a * 2 ^ n % 2 ^ w
  | .shr => if w ≤ n then 0 else a / 2 ^ n
  | .sar => wrapTo w (valOf w true a / (2 ^ min n w : Nat))
  | .rot => (a * 2 ^ n + a / 2 ^ (w - n)) % 2 ^ w

/-- A shift of every element (R124): the count is B's element, or all of B for a 32-bit or 64-bit
type. -/
def shiftVal (op : ShiftOp) (clamp : Bool) (ty : Ty) (ops : List DWord) : DWord × Flags :=
  let w := Ty.elemBits ty
  let wb := if Ty.elems ty = 1 then 32 else w
  perElem w (Ty.elems ty) (fun e =>
    (shiftElem op clamp w (elemOf w e (opAt ops 0)) (elemOf wb e (opAt ops 1)), 0))

/-- The operands of a shift: B is one register (R122). -/
def descShift (op : ShiftOp) (clamp : Bool) (o : F3) : OpDesc :=
  plainDesc o.p (.reg o.d (Ty.regs o.ty))
    [srcOf o.ty o.a o.imm, .reg o.b 1 (litNarrow o.ty o.imm)] (shiftVal op clamp o.ty)

/-- SHL (R124). -/
def descShl (clamp : Bool) (o : F3) : OpDesc := descShift .shl clamp o
/-- SHR (R124). -/
def descShr (clamp : Bool) (o : F3) : OpDesc := descShift .shr clamp o
/-- SAR (R124). -/
def descSar (clamp : Bool) (o : F3) : OpDesc := descShift .sar clamp o
/-- ROT (R124). -/
def descRot (o : F3) : OpDesc := descShift .rot false o

/-- Number of set bits among the low `w`. -/
def popCount (v : Nat) : Nat → Nat
  | 0 => 0
  | w + 1 => v / 2 ^ w % 2 + popCount v w

/-- Zero bits above the highest set bit (R125). -/
def clzCount (w v : Nat) : Nat := if v = 0 then w else w - 1 - v.log2

/-- Index of the lowest set bit from bit `i` upwards (R125). -/
def ffsFrom (v : Nat) : Nat → Nat → Nat
  | _, 0 => 0xFFFF_FFFF
  | i, k + 1 => if v / 2 ^ i % 2 = 1 then i else ffsFrom v (i + 1) k

/-- The low `w` bits in reverse order (R125). -/
def bitRev (v : Nat) : Nat → Nat
  | 0 => 0
  | w + 1 => v / 2 ^ w % 2 + 2 * bitRev v w

/-- A of T into one register (R122). -/
def descCount (o : F3) (g : Nat → Nat → Nat) : OpDesc :=
  plainDesc o.p (.reg o.d 1) [srcOf o.ty o.a o.imm]
    (fun l => (BitVec.ofNat 64 (g (Ty.elemBits o.ty) (opAt l 0).toNat), 0))

/-- POPC (R125). -/
def descPopc (o : F3) : OpDesc := descCount o (fun w v => popCount v w)
/-- CLZ (R125). -/
def descClz (o : F3) : OpDesc := descCount o clzCount
/-- FFS (R125). -/
def descFfs (o : F3) : OpDesc := descCount o (fun w v => ffsFrom v 0 w)
/-- BREV (R125). -/
def descBrev (o : F3) : OpDesc :=
  plainDesc o.p (.reg o.d (Ty.regs o.ty)) [srcOf o.ty o.a o.imm]
    (fun l => (BitVec.ofNat 64 (bitRev (opAt l 0).toNat (Ty.elemBits o.ty)), 0))

/-- The field of R126: `len` bits of `v` from bit `pos`, bits beyond `w` reading 0. -/
def fieldOf (w v pos len : Nat) : Nat := v % 2 ^ w / 2 ^ pos % 2 ^ len

/-- BFE (R126). -/
def bfeVal (ty : Ty) (ops : List DWord) : DWord × Flags :=
  let w := Ty.elemBits ty
  let pos := (opAt ops 1).toNat % 256
  let len := min ((opAt ops 2).toNat % 256) w
  let f := fieldOf w (opAt ops 0).toNat pos len
  (BitVec.ofNat 64 (if Ty.signed ty && decide (0 < len) then wrapTo w (valOf len true f) else f), 0)

/-- BFE (R126). -/
def descBfe (o : F3) : OpDesc :=
  plainDesc o.p (.reg o.d (Ty.regs o.ty))
    [srcOf o.ty o.a o.imm, .reg o.b 1 (litNarrow o.ty o.imm), .reg o.c 1 (litNarrow o.ty o.imm)]
    (bfeVal o.ty)

/-- BFI (R126): the last operand is D. -/
def bfiVal (ty : Ty) (ops : List DWord) : DWord × Flags :=
  let w := Ty.elemBits ty
  let pos := (opAt ops 1).toNat % 256
  let len := min ((opAt ops 2).toNat % 256) w
  let mask := 2 ^ len * 2 ^ pos - 2 ^ pos
  let a := (opAt ops 0).toNat % 2 ^ len * 2 ^ pos
  let d := (opAt ops 3).toNat
  (BitVec.ofNat 64 ((d - (d &&& mask) + a) % 2 ^ w), 0)

/-- BFI (R126). -/
def descBfi (o : F3) : OpDesc :=
  { plainDesc o.p (.reg o.d (Ty.regs o.ty))
      [srcOf o.ty o.a o.imm, .reg o.b 1 (litNarrow o.ty o.imm), .reg o.c 1 (litNarrow o.ty o.imm),
        .reg o.d (Ty.regs o.ty) 0] (bfiVal o.ty) with rmw := true }

/-- The carry-less product over the low `k` bits of `b` (R127). -/
def clmulNat (a b : Nat) : Nat → Nat
  | 0 => 0
  | k + 1 => (if b / 2 ^ k % 2 = 1 then a * 2 ^ k else 0) ^^^ clmulNat a b k

/-- CLMUL (R127). -/
def descClmul (o : F3) : OpDesc :=
  plainDesc o.p (.reg o.d 2) [srcOf o.ty o.a o.imm, srcOf o.ty o.b o.imm]
    (fun l => (BitVec.ofNat 64 (clmulNat ((opAt l 0).toNat % 2 ^ 32) (opAt l 1).toNat 32), 0))

/-- SEL (R128): the selector is coded in IMM8 bits 3:0. -/
def descSel (o : F3) : OpDesc :=
  plainDesc o.p (.reg o.d (Ty.regs o.ty))
    [.reg o.a (Ty.regs o.ty) 0, .reg o.b (Ty.regs o.ty) 0,
      .sel ⟨o.imm.getLsbD 3, o.imm.extractLsb' 0 3⟩]
    (fun l => (if opAt l 2 = 0 then opAt l 1 else opAt l 0, 0))

/-- The comparison of R131. -/
def icmpVal (c : ICond) (ty : Ty) (ops : List DWord) : Bool :=
  let w := Ty.elemBits ty
  let a := valOf w (Ty.signed ty) (opAt ops 0).toNat
  let b := valOf w (Ty.signed ty) (opAt ops 1).toNat
  match c with
  | .eq => a == b
  | .ne => a != b
  | .lt => decide (a < b)
  | .le => decide (a ≤ b)
  | .gt => decide (b < a)
  | .ge => decide (b ≤ a)
  | .tst => tyMask ty (opAt ops 0 &&& opAt ops 1) != 0
  | .ntst => tyMask ty (opAt ops 0 &&& opAt ops 1) == 0

/-- A truth value as a result. -/
def boolVal (b : Bool) : DWord := if b then 1 else 0

/-- ICMP (R131). -/
def descIcmp (c : ICond) (o : F3) : OpDesc :=
  { plainDesc o.p (.pcode o.d) [srcOf o.ty o.a o.imm, srcOf o.ty o.b o.imm]
      (fun l => (boolVal (icmpVal c o.ty l), 0)) with rule := .anyCore }

/-- The comparison of R132 with NV. -/
def fcmpVal (c : FCond) (ty : Ty) (ops : List DWord) : Bool × Flags :=
  let a := (tyFmt ty).val (opAt ops 0).toNat
  let b := (tyFmt ty).val (opAt ops 1).toNat
  let un := a.isNan || b.isNan
  let sg := Flags.when (a.isSig || b.isSig) fNV
  match c with
  | .eq => (!un && FVal.eqv a b, sg)
  | .ne => (un || !FVal.eqv a b, sg)
  | .lt => (!un && FVal.lt a b, Flags.when un fNV)
  | .le => (!un && (FVal.lt a b || FVal.eqv a b), Flags.when un fNV)
  | .gt => (!un && FVal.lt b a, Flags.when un fNV)
  | .ge => (!un && (FVal.lt b a || FVal.eqv a b), Flags.when un fNV)
  | .ord => (!un, sg)
  | .uno => (un, sg)

/-- FCMP (R132). -/
def descFcmp (c : FCond) (o : F3) : OpDesc :=
  { plainDesc o.p (.pcode o.d) [srcOf o.ty o.a o.imm, srcOf o.ty o.b o.imm]
      (fun l => let r := fcmpVal c o.ty l; (boolVal r.1, r.2)) with rule := .anyCore }

/-- Two predicate codes into a third (R133). -/
def descPBin (o : F3) (g : DWord → DWord → DWord) : OpDesc :=
  { plainDesc o.p (.pcode o.d) [.pcode o.a, .pcode o.b]
      (fun l => (g (opAt l 0) (opAt l 1), 0)) with rule := .anyCore }

/-- PAND (R133). -/
def descPand (o : F3) : OpDesc := descPBin o (fun a b => a &&& b)
/-- POR (R133). -/
def descPor (o : F3) : OpDesc := descPBin o (fun a b => a ||| b)
/-- PXOR (R133). -/
def descPxor (o : F3) : OpDesc := descPBin o (fun a b => a ^^^ b)
/-- PNOT (R133). -/
def descPnot (o : F3) : OpDesc :=
  { plainDesc o.p (.pcode o.d) [.pcode o.a] (fun l => (1 ^^^ opAt l 0, 0)) with rule := .anyCore }

/-- PSET and PSET.BIT (R134). -/
def descPset (bit : Bool) (o : F3) : OpDesc :=
  if bit then
    { plainDesc o.p (.pcode o.d) [srcOf .i32 o.a o.imm, srcOf .i32 o.b o.imm]
        (fun l => (boolVal ((opAt l 0).getLsbD ((opAt l 1).toNat % 32)), 0)) with rule := .anyCore }
  else
    { plainDesc o.p (.pcode o.d) [srcOf .i32 o.a o.imm]
        (fun l => (boolVal ((opAt l 0) &&& 0xFFFF_FFFF != 0), 0)) with rule := .anyCore }

end Sys2Proof.Machine
end

