-- ==== Sys2Proof/Config.lean ====
section
/-! DEFINITION. Values that the spec leaves open or to one package: constants without a body, so that
nothing can be proved of their values (log entries 2, 6 and 14). Free values are applied to the
counter `State.free`, which each use advances. -/

namespace Sys2Proof

/-- A free bit: a choice the spec leaves open (log entry 2). -/
opaque Config.freeBit : Nat → Bool
/-- A free number: a choice among several, taken modulo their count (log entry 2). -/
opaque Config.freeNat : Nat → Nat
/-- A free register or pair (log entry 2). -/
opaque Config.freeVal : Nat → DWord
/-- A free byte string, cut or filled to the length needed (log entry 2). -/
opaque Config.freeByte : Nat → Byte
/-- A free 256-bit value (log entry 2). -/
opaque Config.free256 : Nat → BitVec 256

/-- Which of the results within its error bound a special function gives: a fixed function of the
operation, the format's width and the input (R88, R153; log entry 15). -/
opaque Config.specialPick : Nat → Nat → Nat → Nat

/-- SHA3-256 of a byte string (R389, R395), which the spec names and does not define (log entry 14). -/
opaque Config.sha3 : List Byte → BitVec 256
/-- The ML-DSA-44 signature by the identity key, 2,420 bytes (R389, R395; log entry 14). -/
opaque Config.sign : List Byte → Nat → Byte
/-- Byte of the blob that wraps data key `key` for the encapsulation key `ek` (R391; log entry 14). -/
opaque Config.wrap : Nat → List Byte → Nat → Byte
/-- The firmware check passes at reset number n (R389; log entry 14). -/
opaque Config.firmwareOk : Nat → Bool
/-- Digest of the Zesan firmware image (R389; log entry 14). -/
opaque Config.measurement : BitVec 256
/-- How an attestation report gives a domain's number and SEALED in the four bytes that the other fields
leave (R390; log entry 25). -/
opaque Config.domainField : Nat → Bool → BitVec 32
/-- The code of a kind of reset in a RESET record, for a cold and a warm one (R394; log entry 25). -/
opaque Config.resetCode : Bool → DWord

/-- Repair byte of quadrant `q` of core `c` in non-volatile storage (R356, R397; log entry 6). -/
opaque Config.repairMap : Nat → Nat → Byte
/-- Spare lane of a lane group in non-volatile storage (R360, R397; log entry 6). -/
opaque Config.spareMap : Nat → Nat
/-- The most bytes that the replay set of a team of so many lanes can take in its image (R344; log entry
24): at most 3 · 63 packets and one kept, of fewer than 64 bytes for each of 1,024 lanes. -/
opaque Config.replayMax : Nat → BitVec 30
/-- Bytes that the carried values of a packet of a replay set take in its image, whose layout the spec does not
give: by the counter, the context id and the packet's place in the set (R344; log entry 42). -/
opaque Config.payloadLen : Nat → Nat → Nat → BitVec 16
/-- Package number of the far end of a peer link (R388; log entry 3). -/
opaque Config.peerOf : Nat → BitVec 12

end Sys2Proof
end

