-- ==== Sys2Proof/Machine/SpecialFn.lean ====
section
/-! DEFINITION. The special functions (03 R88; 06 R153). Each result is one of the values that the
error bound allows, chosen by a fixed function of the input that Config leaves open (log entry
15); the exact and special cases are as the table gives them. The functions are evaluated in fixed
point with `fx` fraction bits. -/

namespace Sys2Proof.Machine

/-- The special functions, in opcode order (R153). -/
inductive SFn where
  | rcp | rsq | sqrt | exp2 | log2 | sin | cos | tanh
deriving DecidableEq, Repr

/-- Fraction bits of the fixed-point evaluation. -/
def fx : Nat := 400
/-- 1 in fixed point. -/
def fxOne : Nat := 2 ^ fx
/-- π·2^400, cut. -/
def fxPi : Nat :=
  8112377246730971238862271351300894519161151600179265203591191037615230905373990498745523360926816815427566779727327576236
/-- ln 2·2^400, cut. -/
def fxLn2 : Nat :=
  1789879222497203190815761498240779176894896805856420935579692301363062920687047601279850318367644315849030039181347319086

/-- The power series Σ t^k/k! from term `k` on, given the term before (fixed point). -/
def expSeries (t : Nat) : Nat → Nat → Nat → Nat
  | _, _, 0 => 0
  | k, term, fuel + 1 =>
    let nxt := term * t / fxOne / k
    nxt + expSeries t (k + 1) nxt fuel

/-- e^t for 0 ≤ t ≤ 1 (fixed point). -/
def fxExp (t : Nat) : Nat := fxOne + expSeries t 1 fxOne 90

/-- e^−u for u ≥ 0 (fixed point), by halving u until it is at most 1. -/
def fxExpNeg (u : Nat) : Nat :=
  let n := u / fxLn2
  fxOne * fxOne / fxExp (u - n * fxLn2) / 2 ^ n

/-- Terms of the sine and cosine series with alternating sign: `term`·t²/(k(k+1)) … -/
def trigSeries (t2 : Nat) : Nat → Nat → Nat → Int
  | _, _, 0 => 0
  | k, term, fuel + 1 =>
    let nxt := term * t2 / fxOne / (k * (k + 1))
    (0 - (nxt : Int)) - trigSeries t2 (k + 2) nxt fuel

/-- sin t for 0 ≤ t ≤ π/2 (fixed point). -/
def fxSin (t : Nat) : Int := (t : Int) + trigSeries (t * t / fxOne) 2 t 60
/-- cos t for 0 ≤ t ≤ π/2 (fixed point). -/
def fxCos (t : Nat) : Int := (fxOne : Int) + trigSeries (t * t / fxOne) 1 fxOne 60

/-- 2·atanh z for 0 ≤ z < 1/2 (fixed point). -/
def atanhSeries (z2 : Nat) : Nat → Nat → Nat → Nat
  | _, _, 0 => 0
  | k, pow, fuel + 1 => 2 * pow / k + atanhSeries z2 (k + 2) (pow * z2 / fxOne) fuel

/-- ln of m/2^b for 1 ≤ m/2^b < 2 (fixed point). -/
def fxLn (m b : Nat) : Nat :=
  let x := m * fxOne / 2 ^ b
  let z := (x - fxOne) * fxOne / (x + fxOne)
  atanhSeries (z * z / fxOne) 1 z 200

/-- Floor of the square root of `n`, bit by bit from bit `k` − 1 of the root down. -/
def isqrt (n : Nat) : Nat → Nat → Nat
  | 0, r => r
  | k + 1, r => let c := r + 2 ^ k; isqrt n k (if c * c ≤ n then c else r)

/-- A fixed-point number as a value, with a sticky last place. -/
def fxVal (neg : Bool) (v : Nat) : FVal := .fin neg (2 * v + 1) (-(fx : Int) - 1)

/-- m·2^e in fixed point, cut. -/
def toFx (m : Nat) (e : Int) : Nat :=
  if 0 ≤ e + fx then m * 2 ^ (e + fx).toNat else m / 2 ^ (-(e + fx)).toNat

/-- What a special function is worth at a value: special and exact cases settle the result, and
otherwise an approximation far inside the bound is given. -/
inductive SFVal where
  /-- this value, exactly, with these flags -/
  | exact (x : FVal) (fl : Flags)
  /-- within the error bound of this value; one that is not a value of the format has a sticky last
  place -/
  | near (x : FVal)
deriving Repr

/-- sin (or cos) of ±m·2^e, reduced to the first quadrant. -/
def trigVal (isCos neg : Bool) (m : Nat) (e : Int) : FVal :=
  let x := toFx m e
  let half := fxPi / 2
  let k := x / half + (if isCos then 1 else 0)
  let r := x % half
  -- sin(x + k·π/2): cosine of the remainder where k is odd
  let useCos := (x / half + (if isCos then 1 else 0)) % 2 == 1
  let v := if useCos then fxCos r else fxSin r
  let flip := k / 2 % 2 == 1
  let s := (decide (v < 0)) != flip
  fxVal (if isCos then s else s != neg) v.natAbs

/-- log2 of m·2^e, m ≠ 0, not a power of two. -/
def log2Val (m : Nat) (e : Int) : FVal :=
  let b := m.log2
  -- halve the mantissa above √2 so that the logarithm of values near 1 keeps its precision
  let big := decide (2 ^ (2 * b + 1) < m * m)
  let k : Int := e + b + (if big then 1 else 0)
  if big then
    -- ln(m/2^(b+1)) < 0
    let x := m * fxOne / 2 ^ (b + 1)
    let z := (fxOne - x) * fxOne / (x + fxOne)
    let l := atanhSeries (z * z / fxOne) 1 z 200 * fxOne / fxLn2
    let t : Int := k * (fxOne : Int) - l
    fxVal (decide (t < 0)) t.natAbs
  else
    let t : Int := k * (fxOne : Int) + (fxLn m b * fxOne / fxLn2 : Nat)
    fxVal (decide (t < 0)) t.natAbs

/-- 2^x for x = ±m·2^e, not an integer of small size. -/
def exp2Val (neg : Bool) (m : Nat) (e : Int) : FVal :=
  if 12 < topExp m e then .fin false 1 (if neg then -5000 else 5000)
  else
    let x := toFx m e
    let n : Int := if neg then -(((x + fxOne - 1) / fxOne : Nat) : Int) else ((x / fxOne : Nat) : Int)
    let f := if neg then (fxOne - x % fxOne) % fxOne else x % fxOne
    .fin false (2 * fxExp (f * fxLn2 / fxOne) + 1) (n - fx - 1)

/-- tanh of ±m·2^e. -/
def tanhVal (neg : Bool) (m : Nat) (e : Int) : FVal :=
  if 8 < topExp m e then fxVal neg (fxOne - 1)
  else
    let q := fxExpNeg (2 * toFx m e)
    fxVal neg ((fxOne - q) * fxOne / (fxOne + q))

/-- m·2^e with m odd. -/
def oddPart : Nat → Int → Nat → Nat × Int
  | m, e, 0 => (m, e)
  | m, e, k + 1 => if m % 2 = 0 ∧ m ≠ 0 then oddPart (m / 2) (e + 1) k else (m, e)

/-- The reciprocal of ±2^x in format `f`: exact when the result is normal, and otherwise only within the
bound, since R88 lists no other power of two as exact (log entry 15). -/
def rcpPow2 (f : FFmt) (s : Bool) (x : Int) : SFVal :=
  let v : FVal := .fin s 1 (-x)
  if -x < f.emin then .near v else .exact v 0

/-- The value of a special function (R88) with a result in format `f`. -/
def SFn.val (fn : SFn) (f : FFmt) (a : FVal) : SFVal :=
  match fn, a with
  | _, .nan sig => .exact (.nan false) (Flags.when sig fNV)
  | .rcp, .inf s => .exact (.fin s 0 0) 0
  | .rcp, .fin s m e =>
    if m = 0 then .exact (.inf s) fDZ
    else
      let (o, x) := oddPart m e 64
      if o = 1 then rcpPow2 f s x else .near (quotVal s 1 0 m e 64)
  | .rsq, .inf s => if s then .exact (.nan false) fNV else .exact (.fin false 0 0) 0
  | .rsq, .fin s m e =>
    if m = 0 then .exact (.inf s) fDZ
    else if s then .exact (.nan false) fNV
    else
      let (o, x) := oddPart m e 64
      if o = 1 ∧ x % 2 = 0 then .exact (.fin false 1 (-(x / 2))) 0
      else
        -- 1/√(o·2^x): with x made even, 2^h·√(2^(2·200)/o)
        let o' := if x % 2 = 0 then o else 2 * o
        let x' := if x % 2 = 0 then x else x - 1
        .near (.fin false (2 * isqrt (2 ^ 400 / o') 201 0 + 1) (-201 - x' / 2))
  | .sqrt, .inf s => if s then .exact (.nan false) fNV else .exact (.inf false) 0
  | .sqrt, .fin s m e =>
    if m = 0 then .exact (.fin s 0 0) 0
    else if s then .exact (.nan false) fNV
    else
      let m' := if e % 2 = 0 then m else 2 * m
      let e' := if e % 2 = 0 then e else e - 1
      let r := isqrt (m' * 2 ^ 200) 140 0
      if r * r = m' * 2 ^ 200 then .exact (.fin false r (e' / 2 - 100)) 0
      else .near (.fin false (2 * r + 1) (e' / 2 - 101))
  | .exp2, .inf s => if s then .exact (.fin false 0 0) 0 else .exact (.inf false) 0
  | .exp2, .fin s m e =>
    if m = 0 then .exact (.fin false 1 0) 0
    else
      let (k, nx) := roundAt .rz s m e 0
      if !nx && decide (k < 5000) then .exact (.fin false 1 (if s then -(k : Int) else k)) 0
      else .near (exp2Val s m e)
  | .log2, .inf s => if s then .exact (.nan false) fNV else .exact (.inf false) 0
  | .log2, .fin s m e =>
    if m = 0 then .exact (.inf true) fDZ
    else if s then .exact (.nan false) fNV
    else
      let (o, x) := oddPart m e 64
      if o = 1 then .exact (FVal.ofInt x) 0 else .near (log2Val m e)
  | .sin, .inf _ => .exact (.nan false) fNV
  | .sin, .fin s m e => if m = 0 then .exact (.fin s 0 0) 0 else .near (trigVal false s m e)
  | .cos, .inf _ => .exact (.nan false) fNV
  | .cos, .fin s m e => if m = 0 then .exact (.fin false 1 0) 0 else .near (trigVal true s m e)
  | .tanh, .inf s => .exact (.fin s 1 0) 0
  | .tanh, .fin s m e => if m = 0 then .exact (.fin s 0 0) 0 else .near (tanhVal s m e)

/-- Distance in ulps that the bound allows (R88), at a value of the input. -/
def SFn.ulps (fn : SFn) (a : FVal) : Nat :=
  match fn with
  | .rcp | .rsq | .sqrt => 1
  | .exp2 | .log2 => 2
  | .sin | .cos | .tanh =>
    match a with
    | .fin _ m e => if toFx m (min e 10) ≤ fxPi && decide (topExp m e < 3) then 2 else 4
    | _ => 2

/-- The bits of the value `k` steps from zero along the representable values of a format, on the side of
sign `neg`; a negative `k` lies on the other side. -/
def FFmt.stepBits (f : FFmt) (neg : Bool) (k : Int) : Nat :=
  f.signBits (if k < 0 then !neg else neg) + k.natAbs

/-- A finite value of the format lies within `n` ulps of x, the ulp being that of the format at x (R88). -/
def FFmt.within (f : FFmt) (n : Nat) (x : FVal) (bits : Nat) : Bool :=
  match x with
  | .fin _ m e =>
    let ulp := max (topExp m e - f.mbits) f.qmin
    let g := min e f.qmin
    decide (bits % 2 ^ (f.ebits + f.mbits) ≤ f.maxBits) &&
      decide (((f.val bits).numAt g - x.numAt g).natAbs ≤ n * 2 ^ (ulp - g).toNat)
  | _ => false

/-- The values of the format within `n` ulps of x, whose magnitude rounds down to step `k` (R88): no such
value is further off than 2·n steps, where the steps below a power of two are half an ulp. -/
def FFmt.near (f : FFmt) (n : Nat) (x : FVal) (k : Nat) : List Nat :=
  ((List.range (3 * n + 1)).map (fun i => f.stepBits x.neg? ((k : Int) - 2 * n + i))).filter
    (fun b => f.within n x b)

/-- One of the results that the bound allows (R88, log entry 15); NX unless it is the exact value, and UF
when it is inexact and the value is tiny (R78). -/
def SFn.pick (fn : SFn) (op : Nat) (f : FFmt) (a x : FVal) (bits lo : Nat) : Nat × Flags :=
  let cands := f.near (fn.ulps a) x (lo % 2 ^ (f.ebits + f.mbits))
  let b := cands.getD (Config.specialPick op f.width bits % cands.length) lo
  let nx := !FVal.eqv (f.val b) x
  let tiny := match x with
    | .fin s m e => f.tiny .rn s m e
    | _ => false
  (b, Flags.when nx fNX ||| Flags.when (nx && tiny) fUF)

/-- The result of a special function in format `f` (R88): an exact case rounds once, a value beyond the
format's range overflows (R81), and otherwise the results within the bound are open. -/
def SFn.result (fn : SFn) (op : Nat) (f : FFmt) (bits : Nat) : Nat × Flags :=
  let a := f.val bits
  match fn.val f a with
  | .exact x fl => let (b, g) := f.round .rn false x; (b, fl ||| g)
  | .near x =>
    let (rn, gl) := f.round .rn false x
    if gl &&& fOF != 0 then (rn, gl) else fn.pick op f a x bits (f.round .rz false x).1

/-- The value of the function at `a` is that of the bits, exactly (R88). -/
def SFn.hits (fn : SFn) (f : FFmt) (a : FVal) (bits : Nat) : Bool :=
  match fn.val ffF32 a with
  | .exact x _ | .near x => FVal.eqv (f.val bits) x

/-- UF of the exact value of a function in an element's own format, where the f32 step may have lost it: a
value that is tiny there (R78, R88). -/
def SFn.tinyIn (fn : SFn) (f : FFmt) (a : FVal) : Bool :=
  match fn.val ffF32 a with
  | .exact (.fin s m e) _ | .near (.fin s m e) => m != 0 && f.tiny .rn s m e
  | _ => false

/-- A special function on one element of a type (R88): f16x2 and bf16x2 elements are computed within
the f32 bound and rounded RN to their type; NX and UF are those of the function's value in the type. -/
def SFn.elem (fn : SFn) (op : Nat) (ty : Ty) (bits : Nat) : Nat × Flags :=
  match ty with
  | .f16x2 | .bf16x2 =>
    let f := tyFmt ty
    let a := f.val bits
    let (x, fl) := fn.result op ffF32 (ffF32.round .rn false a).1
    let (y, gl) := f.round .rn false (ffF32.val x)
    let all := fl ||| gl
    let nx := all &&& fNX != 0 && !fn.hits f a y
    (y, (all &&& ~~~(fUF ||| fNX)) ||| Flags.when nx fNX ||| Flags.when (nx && fn.tinyIn f a) fUF ||| Flags.when a.isSig fNV)
  | _ => fn.result op (tyFmt ty) bits

end Sys2Proof.Machine
end

