-- ==== Sys2Proof/Machine/FloatOps.lean ====
section
/-! DEFINITION. Floating point, special functions and conversion: groups 0x4 and 0x5 (06 R147 to
R158; the OX4 forms of 0x59 and 0x5A are in CrossOps.lean, since they work over a pass). -/

namespace Sys2Proof.Machine

/-- An element-wise floating-point operation. -/
def fElems (ty : Ty) (g : FFmt → FVal → FVal → FVal → Nat × Flags) (ops : List DWord) : DWord × Flags :=
  let w := Ty.elemBits ty
  let f := tyFmt ty
  perElem w (Ty.elems ty) (fun e =>
    let v (i : Nat) : FVal := f.val (elemOf w e (opAt ops i))
    g f (v 0) (v 1) (v 2))

/-- At MEM the float group accepts no f64 (R49, R152). -/
def noF64AtMem (ty : Ty) (d : OpDesc) : OpDesc :=
  if ty = .f64 then { d with rule := .anyCore } else d

/-- FADD (R148). -/
def descFadd (o : F3) : OpDesc := noF64AtMem o.ty (descBin o (fElems o.ty (fun f a b _ => f.add o.rnd o.sat a b)))

/-- FSUB (R148). -/
def descFsub (o : F3) : OpDesc :=
  noF64AtMem o.ty (descBin o (fElems o.ty (fun f a b _ => f.add o.rnd o.sat a b.negate)))

/-- FMUL (R148). -/
def descFmul (o : F3) : OpDesc := noF64AtMem o.ty (descBin o (fElems o.ty (fun f a b _ => f.mul o.rnd o.sat a b)))

/-- FFMA (R148). -/
def descFfma (o : F3) : OpDesc :=
  noF64AtMem o.ty (plainDesc o.p (.reg o.d (Ty.regs o.ty))
    [srcOf o.ty o.a o.imm, srcOf o.ty o.b o.imm, srcOf o.ty o.c o.imm]
    (fElems o.ty (fun f a b c => f.dot o.rnd o.sat [(a, b)] c)))
/-- FDIV (R148). -/
def descFdiv (o : F3) : OpDesc := noF64AtMem o.ty (descBin o (fElems o.ty (fun f a b _ => f.div o.rnd o.sat a b)))

/-- `fmin` and `fmax` on each element (R80). -/
def fMinMax (isMax : Bool) (ty : Ty) (ops : List DWord) : DWord × Flags :=
  let w := Ty.elemBits ty
  perElem w (Ty.elems ty)
    (fun e => (tyFmt ty).minmax isMax (elemOf w e (opAt ops 0)) (elemOf w e (opAt ops 1)))

/-- FMIN (R80). -/
def descFmin (o : F3) : OpDesc := noF64AtMem o.ty (descBin o (fMinMax false o.ty))

/-- FMAX (R80). -/
def descFmax (o : F3) : OpDesc := noF64AtMem o.ty (descBin o (fMinMax true o.ty))

/-- FSCALE (R148): B is i32, or i16x2 for a packed type. -/
def fscaleVal (ty : Ty) (r : Rnd) (sat : Bool) (ops : List DWord) : DWord × Flags :=
  let w := Ty.elemBits ty
  let wb := if Ty.elems ty = 2 then 16 else 32
  perElem w (Ty.elems ty) (fun e =>
    (tyFmt ty).scale r sat ((tyFmt ty).val (elemOf w e (opAt ops 0)))
      (valOf wb true (elemOf wb e (opAt ops 1))))

/-- FSCALE (R148). -/
def descFscale (o : F3) : OpDesc :=
  noF64AtMem o.ty (plainDesc o.p (.reg o.d (Ty.regs o.ty))
    [srcOf o.ty o.a o.imm, .reg o.b 1 (litVal (if Ty.elems o.ty = 2 then .i16x2 else .i32) o.imm)]
    (fscaleVal o.ty o.rnd o.sat))

/-- A on the bits of each element. -/
def fUnary (ty : Ty) (g : FFmt → Nat → Nat × Flags) (ops : List DWord) : DWord × Flags :=
  let w := Ty.elemBits ty
  perElem w (Ty.elems ty) (fun e => g (tyFmt ty) (elemOf w e (opAt ops 0)))

/-- FROUND (R150). -/
def descFround (exact : Bool) (o : F3) : OpDesc :=
  noF64AtMem o.ty (plainDesc o.p (.reg o.d (Ty.regs o.ty)) [srcOf o.ty o.a o.imm]
    (fUnary o.ty (fun f x => f.integral o.rnd exact x)))

/-- FCLASS (R151): one register, element e's mask at bits 16e + 9 : 16e. -/
def descFclass (o : F3) : OpDesc :=
  noF64AtMem o.ty (plainDesc o.p (.reg o.d 1) [srcOf o.ty o.a o.imm]
    (fun l => perElem 16 (Ty.elems o.ty) (fun e =>
      ((tyFmt o.ty).cls (elemOf (Ty.elemBits o.ty) e (opAt l 0)), 0))))

/-- FDOT2 (R149): the sum of two products and the f32 C, fused. -/
def fdot2Val (ty : Ty) (r : Rnd) (sat : Bool) (ops : List DWord) : DWord × Flags :=
  let f := tyFmt ty
  let v (i e : Nat) : FVal := f.val (elemOf 16 e (opAt ops i))
  let (x, fl) := ffF32.dot r sat [(v 0 0, v 1 0), (v 0 1, v 1 1)]
    (ffF32.val ((opAt ops 2).toNat % 2 ^ 32))
  (BitVec.ofNat 64 x, fl)

/-- FDOT2 (R149). -/
def descFdot2 (o : F3) : OpDesc :=
  plainDesc o.p (.reg o.d 1)
    [srcOf o.ty o.a o.imm, srcOf o.ty o.b o.imm, .reg o.c 1 (litVal .f32 o.imm)]
    (fdot2Val o.ty o.rnd o.sat)

/-- A special function (R153), which no MEM destination runs. -/
def descSpecial (fn : SFn) (op : Nat) (o : F3) : OpDesc :=
  { plainDesc o.p (.reg o.d (Ty.regs o.ty)) [srcOf o.ty o.a o.imm]
      (fun l => perElem (Ty.elemBits o.ty) (Ty.elems o.ty)
        (fun e => fn.elem op o.ty (elemOf (Ty.elemBits o.ty) e (opAt l 0)))) with rule := .anyCore }

/-- FRCP (R153). -/
def descFrcp (o : F3) : OpDesc := descSpecial .rcp 0x50 o
/-- FRSQ (R153). -/
def descFrsq (o : F3) : OpDesc := descSpecial .rsq 0x51 o
/-- FSQRT (R153). -/
def descFsqrt (o : F3) : OpDesc := descSpecial .sqrt 0x52 o
/-- FEXP2 (R153). -/
def descFexp2 (o : F3) : OpDesc := descSpecial .exp2 0x53 o
/-- FLOG2 (R153). -/
def descFlog2 (o : F3) : OpDesc := descSpecial .log2 0x54 o
/-- FSIN (R153). -/
def descFsin (o : F3) : OpDesc := descSpecial .sin 0x55 o
/-- FCOS (R153). -/
def descFcos (o : F3) : OpDesc := descSpecial .cos 0x56 o
/-- FTANH (R153). -/
def descFtanh (o : F3) : OpDesc := descSpecial .tanh 0x57 o

/-- A scalar conversion (R154 SUB 0), on bits. -/
def cvtVal (dst src : Ty) (r : Rnd) (sat : Bool) (x : Nat) : Nat × Flags :=
  let ws := Ty.elemBits src
  let wd := Ty.elemBits dst
  match Ty.isFloat dst, Ty.isFloat src with
  | false, false => fitInt wd (Ty.signed dst) sat (valOf ws (Ty.signed src) x)
  | true, false => (tyFmt dst).round r sat (FVal.ofInt (valOf ws (Ty.signed src) x))
  | false, true => floatToInt wd (Ty.signed dst) r ((tyFmt src).val (x % 2 ^ ws))
  | true, true => (tyFmt dst).round r sat ((tyFmt src).val (x % 2 ^ ws))

/-- CVT (R154). -/
def descCvt (k : CvtVar) (o : F3) : OpDesc :=
  match k with
  | .scalar =>
    let src := (Ty.ofCode (o.imm.extractLsb' 0 4)).getD .i32
    { plainDesc o.p (.reg o.d (Ty.regs o.ty)) [.reg o.a (Ty.regs src) 0]
        (fun l => let r := cvtVal o.ty src o.rnd o.sat (opAt l 0).toNat; (BitVec.ofNat 64 r.1, r.2))
      with rule := .anyCore }
  | .narrow =>
    { plainDesc o.p (.reg o.d 1) [.reg o.a 1 0, .reg o.b 1 0]
        (fun l => perElem 16 2 (fun e =>
          (tyFmt o.ty).round o.rnd o.sat (ffF32.val ((opAt l e).toNat % 2 ^ 32))))
      with rule := .anyCore }
  | .widen =>
    let h := (Ty.ofCode (o.imm.extractLsb' 0 4)).getD .f16x2
    { plainDesc o.p (.reg o.d 1) [.reg o.a 1 0]
        (fun l =>
          let r := widen (tyFmt h) ffF32 (elemOf 16 (if o.imm.getLsbD 4 then 1 else 0) (opAt l 0))
          (BitVec.ofNat 64 r.1, r.2))
      with rule := .anyCore }

/-- PACK to FP8 (R155): bytes 2h and 2h + 1 of D; the last operand is D. -/
def packVal (f : FFmt) (r : Rnd) (sat hi : Bool) (ops : List DWord) : DWord × Flags :=
  let (x, fx) := f.round r sat (ffF32.val ((opAt ops 0).toNat % 2 ^ 32))
  let (y, fy) := f.round r sat (ffF32.val ((opAt ops 1).toNat % 2 ^ 32))
  let half := x + 256 * y
  let d := (opAt ops 2).toNat
  (BitVec.ofNat 64 (if hi then d % 65536 + 65536 * half else d / 65536 % 65536 * 65536 + half),
    fx ||| fy)

/-- PACK (R155). -/
def descPack (e5m2 : Bool) (o : F3) : OpDesc :=
  { plainDesc o.p (.reg o.d 1) [.reg o.a 1 0, .reg o.b 1 0, .reg o.d 1 0]
      (packVal (if e5m2 then ffE5M2 else ffE4M3) o.rnd o.sat (o.imm.getLsbD 0))
    with rmw := true, rule := .anyCore }

/-- UNPACK from FP8 (R157): byte i of A. -/
def descUnpack (e5m2 : Bool) (o : F3) : OpDesc :=
  { plainDesc o.p (.reg o.d 1) [.reg o.a 1 0]
      (fun l =>
        let r := widen (if e5m2 then ffE5M2 else ffE4M3) ffF32
          (elemOf 8 (o.imm.toNat % 4) (opAt l 0))
        (BitVec.ofNat 64 r.1, r.2))
    with rule := .anyCore }

end Sys2Proof.Machine
end

