-- ==== Sys2Proof/Machine/CrossOps.lean ====
section
/-! DEFINITION. The instructions that work over the lanes of a team: the OX4 forms of group 0x5 (06
R156, R157) and the cross-lane group 0x6 (06 R159 to R166). -/

namespace Sys2Proof.Machine

/-- Every lane that takes part with its result. -/
def actOut (ls : List LaneIn) (g : LaneIn → DWord × Bool) : List LaneOut :=
  (ls.filter (fun l => l.act)).map (fun l => let r := g l; ⟨l.vid, r.1, r.2⟩)

/-- An outcome without uniform result. -/
def lanesOut (outs : List LaneOut) (fl : Flags) : Option CrossOut :=
  some { lanes := outs, val := 0, flag := false, flags := fl }

/-- One result for the uniform destination and for every lane that takes part. -/
def sameOut (ls : List LaneIn) (v : DWord) (flag : Bool) (fl : Flags) : Option CrossOut :=
  some { lanes := actOut ls (fun _ => (v, flag)), val := v, flag := flag, flags := fl }

/-- The mask words that hold a present lane. -/
def maskWords (ls : List LaneIn) : List Nat :=
  (List.range 32).filter (fun w => ls.any (fun l => l.slot / 32 == w))

/-- The lane in physical slot `s`. -/
def atSlot (ls : List LaneIn) (s : Nat) : Option LaneIn := ls.find? (fun l => l.slot == s)

/-- The uniform operand `i`: the same in every lane. -/
def uniOp (ls : List LaneIn) (i : Nat) : DWord :=
  match ls with
  | l :: _ => opAt l.ops i
  | [] => 0

/-- PACK_OX4 (R156): each mask word forms a block of the lanes that take part. -/
def packOx4Fn (ls : List LaneIn) : Option CrossOut :=
  let sc := (uniOp ls 1).toNat % 256
  let blocks := (maskWords ls).map (fun w =>
    (w, encodeOx4 ((List.range 32).map (fun j =>
      match atSlot ls (32 * w + j) with
      | some l => if l.act then ffF32.val ((opAt l.ops 0).toNat % 2 ^ 32) else .fin false 0 0
      | none => .fin false 0 0)) sc))
  let fl := blocks.foldl (fun acc b => acc ||| b.2.2.2) 0
  lanesOut (actOut ls (fun l =>
    match blocks.find? (fun b => b.1 == l.slot / 32) with
    | some b => (BitVec.ofNat 64 (ox4Out b.2.1 b.2.2.1 (l.slot % 32)), false)
    | none => (0, false))) fl

/-- UNPACK_OX4 (R157): slots 0 to 4 of each mask word are read whenever they are present. -/
def unpackOx4Fn (r : Rnd) (sat : Bool) (ls : List LaneIn) : Option CrossOut :=
  let sc := (uniOp ls 1).toNat % 256
  let word (s : Nat) : Nat :=
    match atSlot ls s with
    | some l => (opAt l.ops 0).toNat % 2 ^ 32
    | none => 0
  let blocks := (maskWords ls).map (fun w =>
    (w, decodeOx4 (ox4Bytes ((List.range 4).map (fun i => word (32 * w + i))))
      (word (32 * w + 4) % 256) sc))
  let rs := (ls.filter (fun l => l.act)).map (fun l =>
    match blocks.find? (fun b => b.1 == l.slot / 32) with
    | some b => (l, ffF32.round r sat (b.2.getD (l.slot % 32) (.fin false 0 0)))
    | none => (l, 0, 0))
  lanesOut (rs.map (fun x => ⟨x.1.vid, BitVec.ofNat 64 x.2.1, false⟩))
    (rs.foldl (fun acc x => acc ||| x.2.2) 0)

/-- A cross-lane description. -/
def crossDesc (p : Pred) (d : Dst) (d2 : Option Dst) (srcs : List Src) (rule : DstRule)
    (f : Bool → Nat → List LaneIn → Option CrossOut) : OpDesc :=
  { pred := p, dst := d, dst2 := d2, srcs := srcs, rmw := false, rule := rule, uniform := [],
    core := [], laneToUni := false, body := .cross f }

/-- PACK_OX4 (R156). -/
def descPackOx4 (o : F3) : OpDesc :=
  { crossDesc o.p (.reg o.d 1) none [srcOf .f32 o.a o.imm, srcOf .i32 o.b o.imm] .lanePlace
      (fun _ _ ls => packOx4Fn ls) with uniform := [1] }

/-- UNPACK_OX4 (R157). -/
def descUnpackOx4 (o : F3) : OpDesc :=
  { crossDesc o.p (.reg o.d 1) none [srcOf .f32 o.a o.imm, srcOf .i32 o.b o.imm] .lanePlace
      (fun _ _ ls => unpackOx4Fn o.rnd o.sat ls) with uniform := [1] }

/-- The lane of virtual id `v` among the present ones. -/
def atVid (ls : List LaneIn) (v : Nat) : Option LaneIn := ls.find? (fun l => l.vid == v)

/-- The partner of virtual id `v` (R160), where it lies in the subgroup. -/
def xchgPartner (m : XMode) (size v c : Nat) : Option Nat :=
  match m with
  | .xor => some (v ^^^ c)
  | .up => if c ≤ v % size then some (v - c) else none
  | .down => if v % size + c < size then some (v + c) else none
  | .idx => if c < size then some (v - v % size + c) else none

/-- XCHG (R160): ILLEGAL where a uniform c is not below the subgroup size. -/
def xchgFn (m : XMode) (size : Nat) (ls : List LaneIn) : Option CrossOut :=
  if m != .idx && decide (size ≤ (uniOp ls 1).toNat % 2 ^ 32) then none
  else
    lanesOut (actOut ls (fun l =>
      match xchgPartner m size l.vid ((opAt l.ops 1).toNat % 2 ^ 32) with
      | none => (opAt l.ops 0, false)
      | some q => match atVid ls q with
        | some p => (opAt p.ops 0, true)
        | none => (opAt l.ops 0, false))) 0

/-- XCHG (R160). For `idx` the entry asks for a lane-shaped c and gives a TEAM one no fate: it is broadcast as
any uniform source is (R50; log entry 70). -/
def descXchg (m : XMode) (o : F3) : OpDesc :=
  { crossDesc o.p (.reg o.d 1) (some (.pcode o.c))
      [srcOf .i32 o.a o.imm, .reg o.b 1 (BitVec.ofNat 64 (F3.xLit o))] .laneShape
      (fun _ _ ls => xchgFn m (2 ^ F3.xLog o) ls) with
    uniform := if m = .idx then [] else [1]
    core := [1] }

/-- Bit w is 1 when some member 32w to 32w + 31 is absent (R161). -/
def absentMask (e0 : Nat) (ls : List LaneIn) : DWord :=
  BitVec.ofNat 64 ((List.range 32).foldl (fun acc w =>
    if (List.range 32).any (fun j => decide (32 * w + j < e0) && (atVid ls (32 * w + j)).isNone)
    then acc + 2 ^ w else acc) 0)

/-- The mask of members 32·g + j that satisfy `p`. -/
def groupMask (ls : List LaneIn) (g : Nat) (p : LaneIn → Bool) : DWord :=
  BitVec.ofNat 64 ((List.range 32).foldl (fun acc j =>
    match atVid ls (32 * g + j) with
    | some l => if p l then acc + 2 ^ j else acc
    | none => acc) 0)

/-- VOTE (R161): for a uniform destination every present lane takes part (R159). -/
def voteFn (m : VMode) (uni : Bool) (ls : List LaneIn) : Option CrossOut :=
  let part (l : LaneIn) : Bool := uni || l.act
  let holds (l : LaneIn) : Bool := part l && opAt l.ops 0 != 0
  match m with
  | .any => sameOut ls (boolVal (ls.any holds)) false 0
  | .all => sameOut ls (boolVal (ls.all (fun l => !part l || holds l))) false 0
  | .count => sameOut ls (BitVec.ofNat 64 (ls.filter holds).length) false 0
  | .ballot => lanesOut (actOut ls (fun l => (groupMask ls (l.vid / 32) holds, false))) 0

/-- VOTE (R161): D is a predicate code for `any` and `all`. -/
def descVote (m : VMode) (o : F3) : OpDesc :=
  { crossDesc o.p (if m = .any || m = .all then .pcode o.d else .reg o.d 1) (some (.reg o.c 1))
      [.pcode o.a] (if m = .ballot then .laneShape else .anyCore) (fun uni _ ls => voteFn m uni ls)
    with laneToUni := true }

/-- MATCH (R162). -/
def matchFn (all : Bool) (ls : List LaneIn) : Option CrossOut :=
  lanesOut (actOut ls (fun l =>
    let same := groupMask ls (l.vid / 32) (fun k => k.act && opAt k.ops 0 == opAt l.ops 0)
    let grp := groupMask ls (l.vid / 32) (fun k => k.act)
    (if all then (if same = grp then grp else 0) else same, false))) 0

/-- MATCH (R162). -/
def descMatch (all : Bool) (o : F3) : OpDesc :=
  crossDesc o.p (.reg o.d 1) (some (.reg o.c 1)) [srcOf o.ty o.a o.imm] .laneShape
    (fun _ _ ls => matchFn all ls)

/-- A combination under way (R163): the exact integer total, or the bits reached. -/
inductive Acc where
  | start | int (x : Int) | bits (b : Nat)
deriving DecidableEq, Repr

/-- The identity of an operator (R163), as bits. -/
def ropIdentity (op : ROp) (ty : Ty) : Nat :=
  let w := Ty.elemBits ty
  let f := Ty.isFloat ty
  match op with
  | .add | .or | .xor => 0
  | .and => 2 ^ w - 1
  | .min => if f then ffF32.infBits else wrapTo w (intMax w (Ty.signed ty))
  | .max => if f then ffF32.signBits true + ffF32.infBits else wrapTo w (intMin w (Ty.signed ty))

/-- One more value combined (R163). Integer sums stay exact, so that each value written is the clamp
of its own exact combination; a first float value is a result too, and so canonical (R79). -/
def ropStep (op : ROp) (ty : Ty) (r : Rnd) (acc : Acc) (v : Nat) : Acc × Flags :=
  let w := Ty.elemBits ty
  let sv := valOf w (Ty.signed ty) v
  if Ty.isFloat ty then
    match acc with
    | .bits b =>
      let (x, fl) := match op with
        | .add => ffF32.add r false (ffF32.val b) (ffF32.val v)
        | .min => ffF32.minmax false b v
        | _ => ffF32.minmax true b v
      (.bits x, fl)
    | _ => let (x, fl) := ffF32.canon v; (.bits x, fl)
  else
    match acc with
    | .int x =>
      (match op with
        | .add => .int (x + sv)
        | .min => .int (min x sv)
        | .max => .int (max x sv)
        | .and => .int (((wrapTo w x) &&& (v % 2 ^ w) : Nat) : Int)
        | .or => .int (((wrapTo w x) ||| (v % 2 ^ w) : Nat) : Int)
        | .xor => .int (((wrapTo w x) ^^^ (v % 2 ^ w) : Nat) : Int), 0)
    | _ => (.int sv, 0)

/-- The value of a combination, clamped under SAT (R163). -/
def accVal (op : ROp) (ty : Ty) (sat : Bool) : Acc → Nat × Flags
  | .start => (ropIdentity op ty, 0)
  | .int x => fitInt (Ty.elemBits ty) (Ty.signed ty) sat x
  | .bits b => (b, 0)

/-- A scan over participants in ascending virtual id (R163): `heads` starts a segment; each entry of
the result is (lane, combination before it in its segment, combination with it). -/
def scanLanes (op : ROp) (ty : Ty) (r : Rnd) (heads : LaneIn → Bool) :
    Acc → List LaneIn → List (LaneIn × Acc × Acc) × Flags
  | _, [] => ([], 0)
  | acc, l :: t =>
    let before := if heads l then Acc.start else acc
    let (after, fl) := ropStep op ty r before (opAt l.ops 0).toNat
    let (rest, gl) := scanLanes op ty r heads after t
    ((l, before, after) :: rest, fl ||| gl)

/-- The participants in ascending virtual id. -/
def participants (uni : Bool) (ls : List LaneIn) : List LaneIn :=
  sortBy (fun l => l.vid) (ls.filter (fun l => uni || l.act))

/-- REDUX (R163). -/
def reduxFn (op : ROp) (ty : Ty) (r : Rnd) (sat uni : Bool) (ls : List LaneIn) : Option CrossOut :=
  let (scan, fl) := scanLanes op ty r (fun _ => false) .start (participants uni ls)
  let acc := match scan.getLast? with
    | some x => x.2.2
    | none => .start
  let (v, gl) := accVal op ty sat acc
  sameOut ls (BitVec.ofNat 64 v) false (fl ||| gl)

/-- REDUX (R163). -/
def descRedux (op : ROp) (o : F3) : OpDesc :=
  { crossDesc o.p (.reg o.d (Ty.regs o.ty)) none [srcOf o.ty o.a o.imm] .anyCore
      (fun uni _ ls => reduxFn op o.ty o.rnd o.sat uni ls) with laneToUni := true }

/-- Lane results of a scan. -/
def scanOut (op : ROp) (ty : Ty) (sat : Bool) (xs : List (LaneIn × Acc)) (fl : Flags) :
    Option CrossOut :=
  let rs := xs.map (fun x => (x.1, accVal op ty sat x.2))
  lanesOut (rs.map (fun x => ⟨x.1.vid, BitVec.ofNat 64 x.2.1, false⟩))
    (rs.foldl (fun acc x => acc ||| x.2.2) fl)

/-- PREFIX (R163): inclusive or exclusive. -/
def prefixFn (op : ROp) (ty : Ty) (r : Rnd) (sat excl : Bool) (ls : List LaneIn) : Option CrossOut :=
  let ps := participants false ls
  -- the last participant's own value is not combined in the exclusive form
  let (scan, fl) := scanLanes op ty r (fun _ => false) .start ps
  let (_, flEx) := scanLanes op ty r (fun _ => false) .start ps.dropLast
  scanOut op ty sat (scan.map (fun x => (x.1, if excl then x.2.1 else x.2.2)))
    (if excl then flEx else fl)

/-- PREFIX (R163). -/
def descPrefix (op : ROp) (excl : Bool) (o : F3) : OpDesc :=
  crossDesc o.p (.reg o.d (Ty.regs o.ty)) none [srcOf o.ty o.a o.imm] .laneShape
    (fun _ _ ls => prefixFn op o.ty o.rnd o.sat excl ls)

/-- The final combination of the segment of each lane (R163): scanned from the end. -/
def segTotals (heads : LaneIn → Bool) : List (LaneIn × Acc × Acc) → Option Acc → List (LaneIn × Acc)
  | [], _ => []
  | (l, _, a) :: t, tot =>
    let v := tot.getD a
    (l, v) :: segTotals heads t (if heads l then none else some v)

/-- SEGM (R163): operand 1 is H. -/
def segmFn (op : ROp) (ty : Ty) (r : Rnd) (sat tot : Bool) (ls : List LaneIn) : Option CrossOut :=
  let heads (l : LaneIn) : Bool := opAt l.ops 1 != 0
  let (scan, fl) := scanLanes op ty r heads .start (participants false ls)
  if tot then scanOut op ty sat (segTotals heads scan.reverse none).reverse fl
  else scanOut op ty sat (scan.map (fun x => (x.1, x.2.2))) fl

/-- SEGM (R163): SC is the p code H. -/
def descSegm (op : ROp) (tot : Bool) (o : F3) : OpDesc :=
  crossDesc o.p (.reg o.d (Ty.regs o.ty)) none [srcOf o.ty o.a o.imm, .pcode o.c] .laneShape
    (fun _ _ ls => segmFn op o.ty o.rnd o.sat tot ls)

/-- PICK (R164). -/
def pickFn (ls : List LaneIn) : Option CrossOut :=
  match atVid ls ((uniOp ls 1).toNat % 2 ^ 32) with
  | some l => sameOut ls (opAt l.ops 0) true 0
  | none => sameOut ls 0 false 0

/-- PICK (R164): a literal B is zero-extended; the flag goes to a q predicate. -/
def descPick (o : F3) : OpDesc :=
  { crossDesc o.p (.reg o.d (Ty.regs o.ty)) (some (.pcode o.c))
      [srcOf o.ty o.a o.imm, .reg o.b 1 (o.imm.setWidth 64)] .anyCore (fun _ _ ls => pickFn ls)
    with laneToUni := true, uniform := [1] }

/-- LID (R165). -/
def lidFn (m : LidMode) (uni : Bool) (ls : List LaneIn) : Option CrossOut :=
  let part (l : LaneIn) : Bool := uni || l.act
  match m with
  | .id => lanesOut (actOut ls (fun l => (BitVec.ofNat 64 l.vid, false))) 0
  | .rank => lanesOut (actOut ls (fun l =>
      (BitVec.ofNat 64 (ls.filter (fun k => k.act && decide (k.vid < l.vid))).length, false))) 0
  | .count => sameOut ls (BitVec.ofNat 64 (ls.filter part).length) false 0

/-- LID (R165): `lid` and `lid.rank` permit LANE only, and R166 has no SHAPE for them, so that any other
destination raises PLACE (R49). -/
def descLid (m : LidMode) (o : F3) : OpDesc :=
  crossDesc o.p (.reg o.d 1) none [] (if m = .count then .anyCore else .lanePlace)
    (fun uni _ ls => lidFn m uni ls)

/-- The description of a register instruction (groups 0x0 to 0x6, the control group aside). -/
def descOf : Instr → Option OpDesc
  | .add o => some (descAdd o)
  | .sub o => some (descSub o)
  | .mul o => some (descMul o)
  | .mulh o => some (descMulh o)
  | .mad w o => some (descMad w o)
  | .div o => some (descDiv o)
  | .rem o => some (descRem o)
  | .min o => some (descMin o)
  | .max o => some (descMax o)
  | .add64 x o => some (descAdd64 x o)
  | .sub64 x o => some (descSub64 x o)
  | .mul64 w o => some (descMul64 w o)
  | .lea o => some (descLea o)
  | .dp4 s o => some (descDp4 s o)
  | .li o => some (descLi o)
  | .liSx o => some (descLiSx o)
  | .liZx o => some (descLiZx o)
  | .and o => some (descAnd o)
  | .or o => some (descOr o)
  | .xor o => some (descXor o)
  | .andn o => some (descAndn o)
  | .shl c o => some (descShl c o)
  | .shr c o => some (descShr c o)
  | .sar c o => some (descSar c o)
  | .rot o => some (descRot o)
  | .popc o => some (descPopc o)
  | .clz o => some (descClz o)
  | .ffs o => some (descFfs o)
  | .brev o => some (descBrev o)
  | .bfe o => some (descBfe o)
  | .bfi o => some (descBfi o)
  | .clmul o => some (descClmul o)
  | .sel o => some (descSel o)
  | .icmp c o => some (descIcmp c o)
  | .fcmp c o => some (descFcmp c o)
  | .pand o => some (descPand o)
  | .por o => some (descPor o)
  | .pxor o => some (descPxor o)
  | .pnot o => some (descPnot o)
  | .pset b o => some (descPset b o)
  | .fadd o => some (descFadd o)
  | .fsub o => some (descFsub o)
  | .fmul o => some (descFmul o)
  | .ffma o => some (descFfma o)
  | .fmin o => some (descFmin o)
  | .fmax o => some (descFmax o)
  | .fdiv o => some (descFdiv o)
  | .fscale o => some (descFscale o)
  | .fround e o => some (descFround e o)
  | .fclass o => some (descFclass o)
  | .fdot2 o => some (descFdot2 o)
  | .frcp o => some (descFrcp o)
  | .frsq o => some (descFrsq o)
  | .fsqrt o => some (descFsqrt o)
  | .fexp2 o => some (descFexp2 o)
  | .flog2 o => some (descFlog2 o)
  | .fsin o => some (descFsin o)
  | .fcos o => some (descFcos o)
  | .ftanh o => some (descFtanh o)
  | .cvt k o => some (descCvt k o)
  | .pack e o => some (descPack e o)
  | .packOx4 o => some (descPackOx4 o)
  | .unpack e o => some (descUnpack e o)
  | .unpackOx4 o => some (descUnpackOx4 o)
  | .xchg m o => some (descXchg m o)
  | .vote m o => some (descVote m o)
  | .matchOp a o => some (descMatch a o)
  | .redux op o => some (descRedux op o)
  | .prefixOp op e o => some (descPrefix op e o)
  | .pick o => some (descPick o)
  | .lid m o => some (descLid m o)
  | .segm op t o => some (descSegm op t o)
  | _ => none

end Sys2Proof.Machine
end

