-- ==== Sys2Proof/Machine/PackageTypes.lean ====
section
/-! DEFINITION. The state of the package: domains, virtual devices, cores, links, channels, stacks,
coolant zones, queues, launches and groups (17 to 22). Plain data. -/

namespace Sys2Proof.Machine

/-- The registers of a domain (R304, R393), its data key (a key's number; 0 none), a retained key
with the digest of its OWNEREK and its age in checkpoints (R398), records held for the ring (R396)
and the last checkpoint (R395). -/
structure Domain where
  valid    : Bool
  sealed   : Bool
  conflict : Bool
  busy     : Bool
  contract : Bool
  scrw     : BitVec 4
  slices   : BitVec 256
  mscb     : BitVec 512
  chan     : BitVec 1024
  jnlBase  : DWord
  jnlLog   : BitVec 5
  jnlRd    : BitVec 16
  jnlWr    : BitVec 16
  seq      : DWord
  nvcount  : DWord
  head     : BitVec 256
  retain   : Bool
  keylive  : Bool
  wrapgo   : Bool
  attgo    : Bool
  kerr     : BitVec 4
  ownerek  : DWord
  wrapout  : DWord
  attout   : DWord
  key      : Nat
  kept     : Option (Nat × BitVec 256 × Nat)
  held     : List (List Byte)
  ckSeq    : DWord
  ckHead   : BitVec 256
deriving DecidableEq, Repr

/-- A token bucket (R314). -/
structure Bucket where
  rho   : BitVec 10
  sigma : BitVec 12
  level : BitVec 12
deriving DecidableEq, Repr

/-- A range of a home map (R326). -/
structure HomeRange where
  gran    : Nat
  ngran   : Nat
  stack   : Nat
  firstch : Nat
  log2ch  : Nat
deriving DecidableEq, Repr

/-- A ring by which the D9 sends records: base, size, indices and counts (R325, R349, R385). -/
structure Ring where
  base    : DWord
  log2    : BitVec 5
  rd      : BitVec 16
  wr      : BitVec 16
  lost    : Word
  dropped : Word
deriving DecidableEq, Repr

/-- Counts of a journal period (R394). -/
structure Usage where
  windows : DWord
  bytes   : DWord
  leave   : DWord
  energy  : DWord
  posted  : DWord
  lost    : DWord
  dropped : DWord
deriving DecidableEq, Repr

/-- The registers of a virtual device (R309, R310, R325, R349, R385); `next` holds values that take
effect at the next frame boundary (R309, R319). `map` is the home map in force (R327). -/
structure VD where
  valid    : Bool
  cls      : BitVec 2
  clsNext  : BitVec 2
  domain   : BitVec 4
  incarn   : Byte
  ways     : BitVec 48
  waysNext : BitVec 48
  bktL1    : Bucket
  bktL2    : Bucket
  bktMsc   : Bucket
  cores    : BitVec 1024
  hmapBase : DWord
  count    : BitVec 12
  commit   : Bool
  refused  : Bool
  badidx   : BitVec 12
  map      : List HomeRange
  moved    : DWord
  root     : Word
  fq       : Ring
  stale    : Bool
  fqHeld   : List (List Byte)
  ctxBase  : DWord
  log2str  : BitVec 5
  drainb   : BitVec 16
  pool     : DWord
  migr     : Bool
  thresh   : Byte
  period   : BitVec 16
  movedAt  : Option Nat
  eq       : Ring
  corr     : DWord
  evq      : Ring
  homedie  : BitVec 2
  pause    : Bool
  usage    : Usage
  summary  : Option Usage
deriving DecidableEq, Repr

/-- A calendar with its staged copy (R311, R312). -/
structure Calendar where
  active : Tbl Byte
  staged : Tbl Byte
  swap   : Bool
deriving DecidableEq, Repr

/-- A core (R25, R39, R40, R303, R311, R315, R356): ownership bytes, calendar, issue buckets, the
window that runs, its current VD and the last VD counted as using it (R394), by VD the team whose clause a
window's end has cut (R36), the stream's gating and wake reasons, repair bytes, Lace
engines, caches with the L1 fill tokens of each VD (R310, R317), and a clock that an evacuation has stopped
(R369). `window` is the number of the running window plus 1, 0 between windows. -/
structure Core where
  own       : Tbl Byte
  cal       : Calendar
  bkt       : Tbl Bucket
  window    : Nat
  curVd     : Option Nat
  lent      : Bool
  running   : Option Nat
  cut       : Tbl Nat
  used      : Option Nat
  borrowed  : Tbl Nat
  wake      : Word
  acc       : Word
  gated     : Bool
  repair    : Tbl Byte
  lace      : Tbl (List CEnt)
  l1        : Tbl Sector
  fill      : Tbl (BitVec 12)
  const     : Tbl Sector
  tile      : Tbl Sector
  acqTime   : Nat
  stopped   : Bool
deriving DecidableEq, Repr

/-- A flit that waits on a link (R312): its VD, and the number of the request, answer or trip that it carries. -/
structure Flit where
  vd : Nat
  id : Nat
deriving DecidableEq, Repr

/-- A link direction ℓ (R312, R358 to R361, R388). `flits` are the flits that wait, oldest first; `slot` the VD to
which a slot was given and the slot, by number since reset (R315, R316); `errs` the times of erased beats of each
rail within a millisecond, `tries` the retries of the flit
under way, `sent` the slot of the last flit, by number since reset, with its flits. -/
structure Link where
  cal     : Calendar
  bkt     : Tbl Bucket
  borrowed: Tbl Nat
  flits   : List Flit
  slot    : Option (Nat × Nat)
  errs    : Tbl (List Nat)
  failed  : List Nat
  tries   : Nat
  sent    : Nat × Nat
  retry   : Word
  up      : Bool
  peer    : BitVec 12
deriving DecidableEq, Repr

/-- A lane group of 33 (R360): position of the spare, a permanent spare, whether it still turns. -/
structure LaneGroup where
  spare : Nat
  weak  : Option Nat
deriving DecidableEq, Repr

/-- An entry of a contract table (R320) with the credit of this frame (R321). -/
structure Contract where
  guar   : BitVec 10
  rho    : BitVec 10
  sigma  : BitVec 12
  level  : BitVec 12
  credit : Nat
deriving DecidableEq, Repr

/-- The tag under which a sector was last written (R352, R391): VA div 128, ASID, key (0 CLEAR). -/
structure SecTag where
  va   : Nat
  asid : Nat
  key  : Nat
deriving DecidableEq, Repr

/-- A sector as the memory side holds it: its bytes, whether it is not poisoned, and its tag (R351 to R353). -/
structure SecImg where
  bytes : List Byte
  sound : Bool
  tag   : Option SecTag
deriving DecidableEq, Repr

/-- A request at a channel controller (R321): VD, sector, the offsets of its bytes, their beats, whether it reads,
arrival, and the deadline that it was given then (R323). -/
structure ChanReq where
  vd     : Nat
  sector : Nat
  offs   : List Nat
  beats  : Nat
  read   : Bool
  time   : Nat
  due    : Option Nat
deriving DecidableEq, Repr

/-- A pseudo-channel (R251, R320, R321). -/
structure Channel where
  contract : Tbl Contract
  capA     : BitVec 12
  capB     : BitVec 12
  capC     : BitVec 12
  queue    : List ChanReq
  openRow  : Tbl Nat
  session  : Option Session
deriving DecidableEq, Repr

/-- An entry of a frame registry (R332), with the CLEAR mark of R392. -/
structure FrameEnt where
  asid  : Nat
  gran  : Nat
  clear : Bool
deriving DecidableEq, Repr

/-- A leaf that a TLB holds (R331), or that a walk finds (R329). -/
structure Leaf where
  addr   : Nat
  level  : Nat
  read   : Bool
  write  : Bool
  pin    : Bool
  clear  : Bool
  shared : Bool
deriving DecidableEq, Repr

/-- A sector of a line that an L2 slice or a memory-side cache bank holds (R259): its page and its physical address, and
whether it holds what the level below does not. Its bytes stand in `State.mem`, since every access to them passes
this copy (log entry 22). -/
structure LineSec where
  leaf  : Leaf
  pa    : Nat
  dirty : Bool
deriving DecidableEq, Repr

/-- A line of an L2 slice or a memory-side cache bank (R259, R317): its address, VA with its address space or PA, in
units of 1,024 bytes; its way, the VD that filled it, its last use, and its sectors by number. -/
structure CacheLine where
  line : Nat
  way  : Nat
  vd   : Nat
  time : Nat
  secs : Tbl LineSec
deriving DecidableEq, Repr

/-- Whence a home access is made: from a die, from a Welt unit, at the memory side of a stack, or at a home outside
the package (R174, R184, R260, R266). -/
inductive Near where
  | die (d : Nat) | welt (t : Nat) | msc (t : Nat) | outside
deriving DecidableEq, Repr

/-- Where a trip stands: on its way to the home slice, on to the stack, there, in its channel's sorter, on its way
outside the package, back to the slice, back to where it began, or done (R260, R312). -/
inductive TripStage where
  | toHome | toStack | atStack | inChan | toPeer | fromStack | toDie | done
deriving DecidableEq, Repr

/-- A home access on its way (R260): what it asks, from where, its home, where it stands with the links still to
cross, and what it found: a fault, or the leaf and the physical address. `wb` marks the write-back of a sector of an
L2 slice, `used` one whose result the step that is tried has taken; `ctx`, `pc`, `word` name the instruction for which
it is made. -/
structure Trip where
  id    : Nat
  vd    : Nat
  va    : Nat
  acc   : BitVec 2
  core  : Nat
  near  : Near
  stack : Nat
  ch    : Nat
  stage : TripStage
  route : List Nat
  wb    : Bool
  fault : Option (MemKind × Nat)
  found : Option (Leaf × Nat)
  used  : Bool
  ctx   : Nat
  pc    : Nat
  word  : Nat
deriving DecidableEq, Repr

/-- How a step that needs home accesses is tried (log entry 22): not at all, tried, found to want an access, or found to
wait for an older access of its team. -/
inductive Trial where
  | off | on | want (t : Trip) | wait
deriving DecidableEq, Repr

/-- An entry of a home cache (R328): granules of an address space, from `gran` on, with their stack, first channel and
interleave; `moved` marks one of the moved-granule table. -/
structure HomeEnt where
  asid    : Nat
  gran    : Nat
  ngran   : Nat
  stack   : Nat
  firstch : Nat
  log2ch  : Nat
  moved   : Bool
deriving DecidableEq, Repr

/-- The Welt unit of a stack (R325, R331, R332, R338): counters, TLB by (ASID × 2^40 + page number of the leaf's
size) × 4 + level, frame registry by frame, page counts by (VD × 2^40 + granule) × 4 + die, self-refresh mark. -/
structure Welt where
  moved   : Word
  pinskip : Word
  skip    : Word
  noframe : Word
  tlb     : Tbl Leaf
  frames  : Tbl FrameEnt
  counts  : Tbl Nat
  refresh : Bool
deriving DecidableEq, Repr

/-- A die: its home cache (R328), read-only remote data (R263), and the zone
whose evacuation has its purge valve, from step 4 to step 5 (R369, R372). -/
structure Die where
  home  : List HomeEnt
  rdc   : Tbl Sector
  purge : Option Nat
deriving DecidableEq, Repr

/-- The switch registers (R325, R346, R347). -/
structure Switch where
  outvd  : BitVec 6
  invd   : BitVec 6
  dies   : BitVec 4
  go     : Bool
  forced : Bool
  dl1    : BitVec 16
  dl2    : BitVec 16
  done   : BitVec 4
  late   : BitVec 4
  begun  : Bool
  start  : Nat
  doneAt : Tbl Nat
deriving DecidableEq, Repr

/-- Who asks leave (R365): a loop of a group's quadrant entry, or the session of a channel. -/
inductive LeaveBy where
  | loop (group : Nat) (quads : List Nat) (id : Nat) | session (ch : Nat)
deriving DecidableEq, Repr

/-- A leave request or a grant in force (R365). -/
structure Leave where
  who   : LeaveBy
  vd    : Nat
  cls   : Nat
  power : Nat
  time  : Nat
deriving DecidableEq, Repr

/-- A coolant zone (R363, R367, R369): table entry, requests and grants, evacuation repeats, charges by VD
in this journal period, and the ENERGY shared out before it; the cycles since which FLOW stands below SETPT/5 and at
SETPT·4/5 or above, and at which the present step began and the zone was declared dry (R369). -/
structure Zone where
  setpt   : Byte
  minfl   : Byte
  ocls    : BitVec 2
  fence   : Bool
  resa    : BitVec 16
  capw    : BitVec 16
  twarn   : Byte
  tcrit   : Byte
  flwarn  : Byte
  plow    : Byte
  phigh   : Byte
  flow    : Byte
  temp    : Byte
  pres    : Byte
  state   : BitVec 4
  granted : BitVec 16
  trap    : BitVec 6
  energy  : DWord
  valve   : Byte
  waiting : List Leave
  grants  : List Leave
  repeats : Nat
  charges : Tbl Nat
  shared  : DWord
  lowAt   : Option Nat
  okAt    : Option Nat
  since   : Nat
  dryAt   : Nat
deriving DecidableEq, Repr

/-- The package registers of the coolant block (R363). -/
structure Coolant where
  clspwr : Tbl (BitVec 16)
  pkglim : BitVec 16
  pkgpwr : BitVec 16
  retry  : BitVec 4
deriving DecidableEq, Repr

/-- A packet taken and not complete (R378): ring index, launch if it is one. -/
structure TakenPkt where
  index  : Nat
  launch : Option Nat
deriving DecidableEq, Repr

/-- A queue descriptor (R376) with the packets in work, and for each packet not taken the time of
the notify write that covered it (R383). -/
structure Queue where
  base   : DWord
  log2   : BitVec 5
  vd     : BitVec 6
  prio   : BitVec 3
  enable : Bool
  rd     : Word
  wr     : Word
  qerr   : Byte
  taken  : List TakenPkt
  notify : List (Nat × Nat)
  ready  : Bool
deriving DecidableEq, Repr

/-- A peer route (R388). -/
structure Route where
  pkg    : BitVec 12
  links  : BitVec 12
  domain : BitVec 4
  valid  : Bool
deriving DecidableEq, Repr

/-- Hardware domains a level binds (R30, R382). -/
inductive Binding where
  | lane | team | group | gang | cluster | package | system
deriving DecidableEq, Repr

/-- A level of a launch (R29). -/
structure Level where
  extent  : Nat
  binding : Binding
deriving DecidableEq, Repr

/-- Status of a kill (R384). -/
inductive KillCode where
  | double | unhandled | fault | poison | coolant | stitch
deriving DecidableEq, Repr

/-- A launch in work (R379 to R384). `todo` are the gang instances not dispatched, by number,
`live` those placed; `clusters` the die chosen for each instance of the highest CLUSTER level (R31). -/
structure Launch where
  queue    : Nat
  index    : Nat
  vd       : Nat
  code     : DWord
  args     : DWord
  signal   : DWord
  sysidx   : Nat
  acq      : Option Scope
  rel      : Option Scope
  event    : Bool
  early    : Bool
  barrier  : Bool
  levels   : List Level
  expcl    : Nat
  idemp    : Bool
  lmax     : Nat
  tregs    : Nat
  spad     : Nat
  qmask    : BitVec 4
  lmask    : BitVec 4
  prio     : Nat
  time     : Nat
  todo     : List Nat
  live     : List Nat
  clusters : Tbl Nat
  killed   : Option KillCode
  rejected : Nat
  retired  : Nat
deriving DecidableEq, Repr

/-- The decision of R341 on a gang instance. -/
inductive Decision where
  | none | drain | save | forced
deriving DecidableEq, Repr

/-- A resident group (R25, R208, R261, R345). `spadBase` is where its
allocation begins in the domain's scratchpad space (R261), `member` its ordinal (R27), `lin` its linear group
index (R34), `lvl` its index at each level above the highest TEAM level, lowest first; `incarn` the VD's
incarnation when it was placed (R348); `copies` the engine-issued copies of a saved group by Lace engine
(R245, R345). -/
structure Group where
  gang     : Nat
  launch   : Nat
  vd       : Nat
  incarn   : Byte
  core     : Nat
  slot     : Nat
  member   : Nat
  lin      : Nat
  lvl      : List Nat
  spadBase : Nat
  spadLen  : Nat
  spad     : Mem
  full     : List Nat
  bad      : List Nat
  registry : List Nat
  qmask    : BitVec 4
  lmask    : BitVec 4
  fuseI    : List Nat
  fuse     : List Nat
  quads    : Tbl Quad
  engines  : Tbl Engine
  copies   : List (Nat × CEnt)
  ended    : Bool
deriving DecidableEq, Repr

/-- A gang instance (R26, R341, R342): launch, number, members; `decision` of a pre-emption request;
`asked` the time of that request
(R251); `saved` when the instance lies in its images; `zone` a coolant zone whose evacuation saved it (R370). -/
structure Gang where
  launch   : Nat
  no       : Nat
  vd       : Nat
  members  : List Nat
  retired  : Nat
  decision : Decision
  asked    : Option Nat
  saved    : Bool
  zone     : Option Nat
deriving DecidableEq, Repr

/-- The registers at 0xC000 to 0xC010 of the context block (R325). -/
structure PkgRegs where
  va      : BitVec 40
  asid    : BitVec 10
  size    : BitVec 2
  invGo   : Bool
  frame   : Word
  frameGo : Bool
deriving DecidableEq, Repr

/-- What the Zesan firmware's package log receives (R355, R357, R359, R360). -/
inductive LogEnt where
  | scrub (sector : Nat) | stitch (core : Nat) (quad : Nat) | rail (link : Nat) (rail : Nat)
  | weakLane (grp : Nat)
  /-- not of the package log: the trap that the firmware takes for a zone (R364) -/
  | zoneTrap (zone : Nat)
deriving DecidableEq, Repr

end Sys2Proof.Machine
end

