-- ==== Sys2Proof/Machine/ResetVals.lean ====
section
/-! DEFINITION. The value of each part of State right after reset, and of parts when they are
created: what an unlisted entry of a table of State reads as. -/

namespace Sys2Proof.Machine

/-- R304, R393; SEQ, NVCOUNT and HEAD: log entry 4. -/
def resetDomain : Domain :=
  { valid := false, sealed := false, conflict := false, busy := false, contract := false, scrw := 0,
    slices := 0, mscb := 0, chan := 0, jnlBase := 0, jnlLog := 8, jnlRd := 0, jnlWr := 0, seq := 0,
    nvcount := 0, head := 0, retain := false, keylive := false, wrapgo := false, attgo := false,
    kerr := 0, ownerek := 0, wrapout := 0, attout := 0, key := 0, kept := none, held := [],
    ckSeq := 0, ckHead := 0 }

/-- R314, R310. -/
def resetBucket : Bucket := { rho := 0, sigma := 0, level := 0 }

/-- R325, R349, R385: LOG2SZ resets to 4. -/
def resetRing : Ring := { base := 0, log2 := 4, rd := 0, wr := 0, lost := 0, dropped := 0 }

/-- R394: no counts. -/
def resetUsage : Usage :=
  { windows := 0, bytes := 0, leave := 0, energy := 0, posted := 0, lost := 0, dropped := 0 }

/-- R309, R310, R325, R349, R385. -/
def resetVD : VD :=
  { valid := false, cls := 2, clsNext := 2, domain := 0, incarn := 0, ways := 0, waysNext := 0,
    bktL1 := resetBucket, bktL2 := resetBucket, bktMsc := resetBucket, cores := 0, hmapBase := 0,
    count := 0, commit := false, refused := false, badidx := 0, map := [], moved := 0, root := 0,
    fq := resetRing, stale := false, fqHeld := [], ctxBase := 0, log2str := 20, drainb := 0,
    pool := 0, migr := false, thresh := 0, period := 0, movedAt := none, eq := resetRing, corr := 0,
    evq := resetRing, homedie := 0, pause := false, usage := resetUsage, summary := none }

/-- R311: every entry free. -/
def resetCalendar : Calendar := { active := [], staged := [], swap := false }

/-- R303, R311, R314, R39 (not gated: log entry 5); repair bytes: R356, log entry 6. -/
def resetCore : Core :=
  { own := [], cal := resetCalendar, bkt := [], window := 0, curVd := none, lent := false,
    running := none, cut := [], used := none, borrowed := [], wake := 0, acc := 0, gated := false,
    repair := [], lace := [], l1 := [], fill := [], const := [], tile := [], acqTime := 0, stopped := false }

/-- R312, R359, R388; UP and PEER: log entry 3. -/
def resetLink (l : Nat) : Link :=
  { cal := resetCalendar, bkt := [], borrowed := [], flits := [], slot := none, errs := [], failed := [],
    tries := 0, sent := (0, 0), retry := 0, up := true, peer := Config.peerOf (l - 40) }

/-- R360, R397; the repair map: log entry 6. -/
def resetLanes (grp : Nat) : LaneGroup := { spare := Config.spareMap grp % 33, weak := none }

/-- R320, R321 (credit: log entry 7). -/
def resetContract : Contract := { guar := 0, rho := 0, sigma := 0, level := 0, credit := 0 }

/-- R320: the caps; no request, no open row (log entry 7). -/
def resetChannel : Channel :=
  { contract := [], capA := 32, capB := 128, capC := 512, queue := [], openRow := [],
    session := none }

/-- R325, R331, R332. -/
def resetWelt : Welt :=
  { moved := 0, pinskip := 0, skip := 0, noframe := 0, tlb := [], frames := [], counts := [],
    refresh := false }

/-- R328, R263. -/
def resetDie : Die := { home := [], rdc := [], purge := none }

/-- R325. -/
def resetSwitch : Switch :=
  { outvd := 0, invd := 0, dies := 0, go := false, forced := false, dl1 := 100, dl2 := 200,
    done := 0, late := 0, begun := false, start := 0, doneAt := [] }

/-- R363: zones 0 to 63 cool cores, zones 64 to 79 stacks; FLOW, TEMP and PRES: log entry 8. -/
def resetZone (z : Nat) : Zone :=
  let set : Byte := if z < 64 then 0x0C else 0x02
  { setpt := set, minfl := if z < 64 then 4 else 1, ocls := 2, fence := false, resa := 0,
    capw := if z < 64 then 40000 else 18000, twarn := 85, tcrit := 95,
    flwarn := BitVec.ofNat 8 (set.toNat * 3 / 4), plow := 5, phigh := 40, flow := set, temp := 0,
    pres := 5, state := 0, granted := 0, trap := 0, energy := 0, valve := set, waiting := [],
    grants := [], repeats := 0, charges := [], shared := 0, lowAt := none, okAt := none, since := 0, dryAt := 0 }

/-- R363: CLSPWR n is 64·n mW. -/
def resetClspwr : Tbl (BitVec 16) :=
  (List.range 15).map (fun i => (i + 1, BitVec.ofNat 16 (64 * (i + 1))))

/-- R363; PKGPWR: log entry 8. -/
def resetCoolant : Coolant := { clspwr := resetClspwr, pkglim := 4000, pkgpwr := 0, retry := 2 }

/-- R376. -/
def resetQueue : Queue :=
  { base := 0, log2 := 4, vd := 0, prio := 0, enable := false, rd := 0, wr := 0, qerr := 0,
    taken := [], notify := [], ready := false }

/-- R388. -/
def resetRoute : Route := { pkg := 0, links := 0, domain := 0, valid := false }

/-- R325. -/
def resetPkgRegs : PkgRegs :=
  { va := 0, asid := 0, size := 0, invGo := false, frame := 0, frameGo := false }

/-- No launch. -/
def resetLaunch : Launch :=
  { queue := 0, index := 0, vd := 0, code := 0, args := 0, signal := 0, sysidx := 0, acq := none,
    rel := none, event := false, early := false, barrier := false, levels := [], expcl := 0,
    idemp := false, lmax := 0, tregs := 0, spad := 0, qmask := 0, lmask := 0, prio := 0, time := 0,
    todo := [], live := [], clusters := [], killed := none, rejected := 0, retired := 0 }

/-- R208, R221: a plane holds +0 of no format. -/
def resetPlane : Plane := { fmt := none, cols := [], poison := false }

/-- R208: a tile holds +0 and is not poisoned. -/
def resetTile : Tile := { words := [], poison := false }

/-- R208, R234: a quadrant when its group is placed, standing alone; `pass` is the pass counter, which
runs without reset (log entry 9). -/
def resetQuad (q pass : Nat) : Quad :=
  { tiles := [], active := resetPlane, shadow := resetPlane, trackA := none, trackS := none,
    queue := [], held := [], pass := pass, mism := 0, srow := 0, scol := 0, lclass := 0, shape := q }

/-- R237: no program. -/
def resetEngine : Engine :=
  { running := false, stopped := false, parked := false, fam := 0, qset := 0, pc := 0, word := 0,
    clause := [], loaded := false, rdv := false, draining := [], out := 0, regs := [], q := 0, seq := 0 }

/-- No group. -/
def resetGroup : Group :=
  { gang := 0, launch := 0, vd := 0, incarn := 0, core := 0, slot := 0, member := 0, lin := 0, lvl := [],
    spadBase := 0, spadLen := 0, spad := [], full := [], bad := [], registry := [], qmask := 0, lmask := 0,
    fuseI := [], fuse := [], quads := [], engines := [], copies := [], ended := false }

/-- No gang instance. -/
def resetGang : Gang :=
  { launch := 0, no := 0, vd := 0, members := [], retired := 0, decision := .none, asked := none, saved := false,
    zone := none }

/-- R43: NONE. -/
def noPlace : PlaceEnt := { kind := .none, pend := false, index := 0, bound := 0 }

/-- R47: a newly declared register reads as zero. -/
def zeroCell : Cell := { val := 0, log := [] }

/-- R191: no transaction. -/
def noTx : Tx := { st := .none, code := 0, log := [], buf := [] }

/-- R254: no handler; traps unmasked (log entry 10). -/
def noHandler : Handler :=
  { isSet := false, addr := 0, off := 0, mode := false, mask := false, nest := false, pc := 0,
    word := 0, spc := 0, sword := 0, tested := false, lanes := [], cause := none, taddr := 0, code := 0, eng := false, kept := none }

/-- No launched team. -/
def resetFamily : Family :=
  { ctx := 0, group := 0, slot := 0, index := 0, map := [], cells := [], banks := [], bankBad := [], q := [], forks := [],
    stops := [], session := none, abort := none, retired := 0, ended := false, killed := false }

/-- R12, R23 and log entries 10 and 11: a team before it starts. -/
def resetTeam : Team :=
  { ctx := 0, fam := 0, group := 0, slot := 0, index := 0, lower := [], pc := 0, word := 0,
    clause := [], loaded := false, tested := false, lanes := [], ld := 0, pl := 0, st := 0, seq := 0, gen := 0,
    flags := 0, fen := 0, handler := noHandler, div := [], watch := List.replicate 8 none,
    pend := [], pendP := [], replay := [], span := none, tend := false, parked := .no,
    waiting := false, stall := none, acq := 0, bar := none, retired := 0, last := 0, sends := [], hold := false, img := .running }

/-- R262. -/
def noSector : Sector :=
  { clean := [], dirty := [], scope := .team, vd := 0, way := 0, time := 0, used := 0, write := false }

end Sys2Proof.Machine
end

