-- ==== Sys2Proof/Machine/State.lean ====
section
/-! DEFINITION. The state of the D9, the faults and refusals of a step, and the state after reset. -/

namespace Sys2Proof.Machine

/-- An agent that issues instructions: a team by its context id, an engine program of a group (1
to 4 Lace 0 to 3, 8 + S the matrix sequencers of QSET S), or nobody. -/
inductive Agent where
  | none | team (ctx : Nat) | engine (group : Nat) (k : Nat)
deriving DecidableEq, Repr

/-- What the surroundings let happen next (log entry 1): a step of the package, or the turn of an
agent. -/
inductive Input where
  | event (e : Instr) | issue (a : Agent)
deriving DecidableEq, Repr

/-- Why the machine stops. -/
inductive Fault where
  /-- The firmware check at reset failed, and the package stays in reset (R389). Raised by `step`
  while it is so. Safe: the spec gives the package no further step. -/
  | heldInReset
deriving DecidableEq, Repr

/-- Why a step has no meaning. -/
inductive Refusal where
  /-- The instruction of this mnemonic has no meaning yet. Raised by the arm of `exec`. Safe. -/
  | notModelled (mnemonic : String)
deriving DecidableEq, Repr

/-- The state of the package (INVENTORY.md, State). `inputs`, `turn`, `pace`, `free` and `stamp` are
the model's own (log entries 1, 2): the schedule, the agent whose turn it is, how long it has had it
without an input, how a step is being tried and the home access for want of which it must wait (log entry 22), the counter of free values
used, the next fresh number. `lines` are the LINES counts, by instance × 64 + VD: L2 slices from 0, memory-side cache
banks from 256, L1s from 768 (R318); `fills` the levels of the fill buckets of L2 slices, memory-side cache banks and,
from 768, RDC parts that have spent a token (R310); `under` what the memory side
holds of sectors that stand dirty in an L2 slice. `sound` lists the sectors that are not poisoned. -/
structure State where
  inputs   : List Input
  turn     : Agent
  pace     : Nat
  holds    : Trial
  free     : Nat
  stamp    : Nat
  clock    : Nat
  resets   : Nat
  inReset  : Bool
  mem      : Mem
  sound    : List Nat
  errs     : Tbl Nat
  tags     : Tbl SecTag
  domains  : Tbl Domain
  vds      : Tbl VD
  cores    : Tbl Core
  links    : Tbl Link
  laneGrps : Tbl LaneGroup
  chans    : Tbl Channel
  welts    : Tbl Welt
  dies     : Tbl Die
  lines    : Tbl Nat
  l2       : Tbl (List CacheLine)
  msc      : Tbl (List CacheLine)
  under    : Tbl SecImg
  fills    : Tbl (BitVec 12)
  trips    : List Trip
  sw       : Switch
  pkg      : PkgRegs
  zones    : Tbl Zone
  coolant  : Coolant
  queues   : Tbl Queue
  routes   : Tbl Route
  launches : Tbl Launch
  gangs    : Tbl Gang
  groups   : Tbl Group
  fams     : Tbl Family
  teams    : Tbl Team
  reqs     : List Req
  answers  : List Answer
  records  : List Record
  newest   : List (Nat × Target × BitVec 8)
  discards : List (Nat × Target × BitVec 8 × BitVec 16)
  acks     : List (Nat × BitVec 16)
  races    : List RaceRec
  laceRegs : List LaceReg
  periodAt : Nat
  msix     : Tbl Nat
  log      : List LogEnt
deriving DecidableEq, Repr

/-- The machine right after reset (R397, R399; log entries 1 to 13): no launch taken, every
register at its reset value, every sector of memory poisoned. -/
def State.reset : State :=
  { inputs := [], turn := .none, pace := 0, holds := .off, free := 0, stamp := 1, clock := 0, resets := 0, inReset := false,
    mem := [], sound := [], errs := [], tags := [], domains := [], vds := [], cores := [],
    links := [], laneGrps := [], chans := [], welts := [], dies := [], lines := [],
    l2 := [], msc := [], under := [], fills := [], trips := [],
    sw := resetSwitch, pkg := resetPkgRegs, zones := [], coolant := resetCoolant, queues := [],
    routes := [], launches := [], gangs := [], groups := [], fams := [], teams := [], reqs := [],
    answers := [], records := [], newest := [], discards := [], acks := [], races := [],
    laceRegs := [], periodAt := 0, msix := [], log := [] }

end Sys2Proof.Machine
end

