-- ==== Sys2Proof/Machine/Access.lean ====
section
/-! DEFINITION. The named operations over the state: reading and writing its parts, free values,
uniform registers, the position of a team, waking, scratchpads and barrier objects. -/

namespace Sys2Proof.Machine

/-- The entry of a table, where it is listed. -/
def Tbl.get? {α : Type} : Tbl α → Nat → Option α
  | [], _ => none
  | (k, v) :: t, n => if k = n then some v else Tbl.get? t n

/-! ### Parts of the state -/

def State.domain (s : State) (k : Nat) : Domain := Tbl.get resetDomain s.domains k
def State.vd (s : State) (v : Nat) : VD := Tbl.get resetVD s.vds v
def State.core (s : State) (c : Nat) : Core := Tbl.get resetCore s.cores c
def State.link (s : State) (l : Nat) : Link := Tbl.get (resetLink l) s.links l
def State.chan (s : State) (p : Nat) : Channel := Tbl.get resetChannel s.chans p
def State.welt (s : State) (t : Nat) : Welt := Tbl.get resetWelt s.welts t
def State.die (s : State) (d : Nat) : Die := Tbl.get resetDie s.dies d
def State.zone (s : State) (z : Nat) : Zone := Tbl.get (resetZone z) s.zones z
def State.queue (s : State) (q : Nat) : Queue := Tbl.get resetQueue s.queues q
def State.route (s : State) (r : Nat) : Route := Tbl.get resetRoute s.routes r
def State.launch (s : State) (l : Nat) : Launch := Tbl.get resetLaunch s.launches l
def State.gang (s : State) (g : Nat) : Gang := Tbl.get resetGang s.gangs g
def State.group (s : State) (g : Nat) : Group := Tbl.get resetGroup s.groups g
def State.fam (s : State) (f : Nat) : Family := Tbl.get resetFamily s.fams f
def State.team? (s : State) (ctx : Nat) : Option Team := Tbl.get? s.teams ctx

def State.setDomain (s : State) (k : Nat) (d : Domain) : State :=
  { s with domains := Tbl.set s.domains k d }
def State.setVD (s : State) (v : Nat) (d : VD) : State := { s with vds := Tbl.set s.vds v d }
def State.setCore (s : State) (c : Nat) (d : Core) : State := { s with cores := Tbl.set s.cores c d }
def State.setLink (s : State) (l : Nat) (d : Link) : State := { s with links := Tbl.set s.links l d }
def State.setChan (s : State) (p : Nat) (d : Channel) : State := { s with chans := Tbl.set s.chans p d }
def State.setWelt (s : State) (t : Nat) (d : Welt) : State := { s with welts := Tbl.set s.welts t d }
def State.setDie (s : State) (t : Nat) (d : Die) : State := { s with dies := Tbl.set s.dies t d }
def State.setZone (s : State) (z : Nat) (d : Zone) : State := { s with zones := Tbl.set s.zones z d }
def State.setQueue (s : State) (q : Nat) (d : Queue) : State := { s with queues := Tbl.set s.queues q d }
def State.setLaunch (s : State) (l : Nat) (d : Launch) : State :=
  { s with launches := Tbl.set s.launches l d }
def State.setGang (s : State) (g : Nat) (d : Gang) : State := { s with gangs := Tbl.set s.gangs g d }
def State.setGroup (s : State) (g : Nat) (d : Group) : State := { s with groups := Tbl.set s.groups g d }
def State.setFam (s : State) (f : Nat) (d : Family) : State := { s with fams := Tbl.set s.fams f d }
def State.setTeam (s : State) (t : Team) : State := { s with teams := Tbl.set s.teams t.ctx t }
def State.dropTeam (s : State) (ctx : Nat) : State := { s with teams := Tbl.del s.teams ctx }

/-- Apply `f` to the team `ctx`, where it lives. -/
def State.modTeam (s : State) (ctx : Nat) (f : Team → Team) : State :=
  match s.team? ctx with
  | some t => s.setTeam { f t with ctx := ctx }
  | none => s

def State.modGroup (s : State) (g : Nat) (f : Group → Group) : State := s.setGroup g (f (s.group g))
def State.modFam (s : State) (g : Nat) (f : Family → Family) : State := s.setFam g (f (s.fam g))
def State.modCore (s : State) (c : Nat) (f : Core → Core) : State := s.setCore c (f (s.core c))

/-- The teams of the package. -/
def State.allTeams (s : State) : List Team := s.teams.map (fun e => e.2)
/-- The teams of a launched team: itself, or the children of its splits (R17). -/
def State.famTeams (s : State) (f : Nat) : List Team := s.allTeams.filter (fun t => t.fam == f)
/-- The teams of a group, split children included (R25). -/
def State.groupTeams (s : State) (g : Nat) : List Team := s.allTeams.filter (fun t => t.group == g)
/-- Whether the instance of a group lies saved in its images (R342), off every core. -/
def State.isSaved (s : State) (g : Nat) : Bool := (s.gang (s.group g).gang).saved
/-- The resident groups of a core. -/
def State.coreGroups (s : State) (c : Nat) : List Nat :=
  (s.groups.filter (fun e => e.2.core == c && !e.2.ended && !s.isSaved e.1)).map (fun e => e.1)
/-- The resident teams of a core. -/
def State.coreTeams (s : State) (c : Nat) : List Team :=
  let gs := s.coreGroups c
  s.allTeams.filter (fun t => gs.contains t.group)
/-- The core of a team. -/
def State.coreOf (s : State) (t : Team) : Nat := (s.group t.group).core
/-- The VD of a team. -/
def State.vdOf (s : State) (t : Team) : Nat := (s.group t.group).vd
/-- The launch of a team. -/
def State.launchOf (s : State) (t : Team) : Launch := s.launch (s.group t.group).launch
/-- The members of a gang instance are the groups 0 to this number − 1 (R27). -/
def State.memberCount (s : State) (g : Nat) : Nat := (s.gang (s.group g).gang).members.length
/-- The group of member `o` of a group's gang instance (R27). -/
def State.memberGroup (s : State) (g o : Nat) : Option Nat := (s.gang (s.group g).gang).members[o]?

/-! ### Free values -/

/-- A free choice among `n` alternatives, numbered from 0; with one alternative there is none to
make (log entry 2). -/
def State.pick (s : State) (n : Nat) : Nat × State :=
  if n ≤ 1 then (0, s) else (Config.freeNat s.free % n, { s with free := s.free + 1 })

/-- A free bit. -/
def State.flip (s : State) : Bool × State := (Config.freeBit s.free, { s with free := s.free + 1 })

/-- A fresh number of the model's own. -/
def State.fresh (s : State) : Nat × State := (s.stamp, { s with stamp := s.stamp + 1 })

/-- Time passes, by as much as `n` cycles, within the frame; a frame boundary is a step of its own (R313; log
entry 19). -/
def State.passTime (s : State) (n : Nat) : State := { s with clock := min (s.clock + n) (s.clock / 1024 * 1024 + 1023) }

/-! ### Lanes and predicates -/

/-- The path that runs in a serial fallback (R21): the lanes of the first path of the entry. -/
def pathVids : List DivEnt → Option (List Nat)
  | [] => none
  | .fallback ps :: _ => ps.head?.map (fun p => p.vids)
  | .split _ _ :: t => pathVids t

/-- The present lanes that an instruction sees (R9; under a serial fallback those of the running
path, R21). -/
def Team.current (t : Team) : List Lane :=
  match pathVids t.div with
  | none => t.lanes
  | some vs => t.lanes.filter (fun l => vs.contains l.vid)

/-- p predicate `n` of a lane; p0 reads true (R109). -/
def laneP (l : Lane) (n : Nat) : Bool := n == 0 || l.p.getLsbD n

/-- A lane predicate (R109). -/
def lanePred (l : Lane) (p : Pred) : Bool := laneP l p.num.toNat != p.neg

/-- Active(T) for a p predicate (R10). -/
def Team.active (t : Team) (p : Pred) : List Lane := t.current.filter (fun l => lanePred l p)

/-- Mask words of some slots: bit b of word w stands for slot 32w + b (R9). -/
def maskWord (slots : List Nat) (w : Nat) : Word :=
  BitVec.ofNat 32 ((List.range 32).foldl (fun acc b =>
    if slots.contains (32 * w + b) then acc + 2 ^ b else acc) 0)

/-- MWw of a team (R9). -/
def Team.maskWord (t : Team) (w : Nat) : Word := Machine.maskWord (t.lanes.map (fun l => l.slot)) w

/-- The summary word of a team (R9): bit w is 1 exactly when MWw is non-zero. -/
def Team.summary (t : Team) : Word :=
  BitVec.ofNat 32 ((List.range 32).foldl (fun acc w =>
    if t.maskWord w = 0 then acc else acc + 2 ^ w) 0)

/-- Entry `slot` of the remapping table (R13); entries of clear slots hold no meaning. -/
def Team.remap (t : Team) (slot : Nat) : Option Nat :=
  (t.lanes.find? (fun l => l.slot == slot)).map (fun l => l.vid)

/-- The lane of a virtual id. -/
def Team.laneOf (t : Team) (vid : Nat) : Option Lane := t.lanes.find? (fun l => l.vid == vid)

/-- Change some lanes. -/
def Team.mapLanes (t : Team) (f : Lane → Lane) : Team := { t with lanes := t.lanes.map f }

/-! ### Uniform registers (R17) -/

/-- The value that team `ctx` reads in a uniform register: its own latest write, or the value at the
split; or any value that a sibling has written since, which `pick` chooses (R17). -/
def Cell.view (c : Cell) (ctx pick : Nat) : Word :=
  let own := match c.log.find? (fun e => e.1 == ctx) with
    | some e => e.2
    | none => c.val
  let others := (c.log.filter (fun e => e.1 != ctx)).map (fun e => e.2)
  (own :: others).getD (pick % (others.length + 1)) own

/-- Whether a sibling has written the register since the split. -/
def Cell.isOpen (c : Cell) (ctx : Nat) : Bool := c.log.any (fun e => e.1 != ctx)

/-- A write by team `ctx`; while siblings run, it is kept beside theirs (R17). -/
def Cell.put (c : Cell) (ctx : Nat) (siblings : Bool) (v : Word) : Cell :=
  if siblings then { c with log := (ctx, v) :: c.log } else { val := v, log := [] }

/-- Whether a launched team runs as several teams. -/
def State.hasSiblings (s : State) (f : Nat) : Bool := decide (1 < (s.famTeams f).length)

/-- Read a uniform register at TEAM or MEM. -/
def State.readUni (s : State) (f ctx : Nat) (r : Nat) : Word × State :=
  let c := Tbl.get zeroCell (s.fam f).cells r
  if c.isOpen ctx then
    let (k, s) := s.pick (c.log.length + 1)
    (c.view ctx k, s)
  else (c.view ctx 0, s)

/-- Write a uniform register at TEAM or MEM. -/
def State.writeUni (s : State) (f ctx r : Nat) (v : Word) : State :=
  let sib := s.hasSiblings f
  s.modFam f (fun m => { m with cells := Tbl.upd zeroCell m.cells r (fun c => c.put ctx sib v) })

/-- Read q predicate `n`; q0 reads true (R109). -/
def State.readQ (s : State) (f ctx n : Nat) : Bool × State :=
  if n = 0 then (true, s)
  else
    let c := Tbl.get zeroCell (s.fam f).q n
    if c.isOpen ctx then
      let (k, s) := s.pick (c.log.length + 1)
      (c.view ctx k != 0, s)
    else (c.view ctx 0 != 0, s)

/-- Write q predicate `n`; a write to q0 is discarded (R130). -/
def State.writeQ (s : State) (f ctx n : Nat) (b : Bool) : State :=
  if n = 0 then s
  else
    let sib := s.hasSiblings f
    s.modFam f (fun m => { m with q := Tbl.upd zeroCell m.q n (fun c => c.put ctx sib (if b then 1 else 0)) })

/-- The value of a q predicate under PRED (R109). -/
def State.qPred (s : State) (t : Team) (p : Pred) : Bool × State :=
  let (b, s) := s.readQ t.fam t.ctx p.num.toNat
  (b != p.neg, s)

/-- The place-map entry of a register (R43). -/
def State.place (s : State) (t : Team) (r : Reg) : PlaceEnt :=
  Tbl.get noPlace (s.fam t.fam).map r.toNat

/-- A register pair read at a uniform place; `z` reads zero (R41, R42). -/
def State.readPair (s : State) (t : Team) (r : Reg) : DWord × State :=
  if r = Reg.z then (0, s)
  else
    let (lo, s) := s.readUni t.fam t.ctx r.toNat
    let (hi, s) := s.readUni t.fam t.ctx (r.toNat + 1)
    (hi ++ lo, s)

/-- One register read at a uniform place; `z` reads zero. -/
def State.readOne (s : State) (t : Team) (r : Reg) : Word × State :=
  if r = Reg.z then (0, s) else s.readUni t.fam t.ctx r.toNat

/-- `n` registers written from the low bits of a value at a uniform place; `z` discards. -/
def State.writeRegs (s : State) (f ctx : Nat) (r : Reg) (n : Nat) (v : DWord) : State :=
  if r = Reg.z then s
  else
    let s := s.writeUni f ctx r.toNat (v.setWidth 32)
    if n = 2 then s.writeUni f ctx (r.toNat + 1) ((v >>> 32).setWidth 32) else s

/-- A LANE register of a lane. -/
def laneReg (l : Lane) (r : Nat) : Word := Tbl.get 0 l.regs r

/-- `n` registers of a lane as one value; `z` reads zero. -/
def laneRegs (l : Lane) (r : Reg) (n : Nat) : DWord :=
  if r = Reg.z then 0
  else if n = 2 then laneReg l (r.toNat + 1) ++ laneReg l r.toNat
  else (laneReg l r.toNat).setWidth 64

/-- `n` registers of a lane written; `z` discards. -/
def setLaneRegs (l : Lane) (r : Reg) (n : Nat) (v : DWord) : Lane :=
  if r = Reg.z then l
  else
    let regs := Tbl.set l.regs r.toNat (v.setWidth 32)
    { l with regs := if n = 2 then Tbl.set regs (r.toNat + 1) ((v >>> 32).setWidth 32) else regs }

/-- A p predicate of a lane written; p0 discards (R130). -/
def setLaneP (l : Lane) (n : Nat) (b : Bool) : Lane :=
  if n = 0 then l
  else { l with p := if b then l.p ||| (1#8 <<< n) else l.p &&& ~~~(1#8 <<< n) }

/-! ### Position, counters and flags -/

/-- A team at a new position, its clause not fetched (R95, R97). -/
def Team.goto (t : Team) (pc : DWord) (word : Nat) : Team :=
  { t with pc := pc, word := word, clause := [], loaded := false, tested := false, waiting := false, stall := none,
           bar := none }

/-- Address of the clause header after the present clause (R95). -/
def Team.nextHeader (t : Team) : DWord := t.pc + BitVec.ofNat 64 (8 * (1 + t.clause.length))

/-- The team past the clause it has finished: one clause retired (R341). -/
def Team.endClause (t : Team) (target : DWord) : Team :=
  { t.goto target 0 with retired := t.retired + 1 }

/-- The team past an instruction of `n` words (R95). -/
def Team.advance (t : Team) (n : Nat) : Team :=
  if t.clause.length ≤ t.word + n then t.endClause t.nextHeader
  else { t with word := t.word + n, waiting := false, stall := none, bar := none }

/-- A team whose instruction cannot go on yet (R37): it stays where it is. -/
def Team.wait (t : Team) : Team := { t with waiting := true }

/-- Flags joined to the team's (R84, R86). -/
def Team.join (t : Team) (f : Flags) : Team := { t with flags := t.flags ||| f }

/-- A counter of a team (R57). -/
def Team.ctr (t : Team) : Ctr → Nat
  | .ld => t.ld
  | .pl => t.pl
  | .st => t.st

/-- A counter raised (R57). -/
def Team.raise (t : Team) (c : Ctr) : Team :=
  match c with
  | .ld => { t with ld := t.ld + 1 }
  | .pl => { t with pl := t.pl + 1 }
  | .st => { t with st := t.st + 1 }

/-- A counter lowered (R57); it never wraps. -/
def Team.lower' (t : Team) (c : Ctr) : Team :=
  match c with
  | .ld => { t with ld := t.ld - 1 }
  | .pl => { t with pl := t.pl - 1 }
  | .st => { t with st := t.st - 1 }

/-- What was issued by the lanes `path` belongs to the path that runs; without lanes it belongs to all
(R21). -/
def Team.own (t : Team) (path : List Nat) : Bool :=
  match pathVids t.div with
  | none => true
  | some vs => path.isEmpty || path.any (fun v => vs.contains v)

/-- What a wait sees of a counter (R58): in a serial fallback, what the path that runs has outstanding, so
that the paths do as two teams would (R17, R21). -/
def Team.out (t : Team) (c : Ctr) : Nat :=
  if (pathVids t.div).isNone then t.ctr c
  else (t.replay.filter (fun p => !p.complete && decide (p.ctr = c) && t.own p.path)).length

/-- LD, PL and ST are zero, as a wait sees them. -/
def Team.drained (t : Team) : Bool := t.out .ld == 0 && t.out .pl == 0 && t.out .st == 0

/-- A wake cause that occurs while the core's stream is gated is accumulated (R39, R40). -/
def State.wakeCause (s : State) (c bit : Nat) : State :=
  if (s.core c).gated then s.modCore c (fun k => { k with acc := k.acc ||| BitVec.ofNat 32 (2 ^ bit) })
  else s

/-- A core without a team that leaves its turn: neither runs it nor keeps it for a clause that was cut. -/
def Core.without (k : Core) (ctx : Nat) : Core :=
  { k with running := if k.running = some ctx then none else k.running
           cut := k.cut.filter (fun e => e.2 != ctx) }

/-- A team that finishes or leaves its turn on its core: the core has no running team until the
scheduler picks (R36). -/
def State.yieldCore (s : State) (t : Team) : State := s.modCore (s.coreOf t) (fun k => k.without t.ctx)

/-- Put the team back and, where it has left its clause or waits, give up its core's pick. -/
def State.stand (s : State) (t : Team) : State :=
  let s := s.setTeam t
  if t.loaded && !t.waiting && t.parked == .no then s else s.yieldCore t

/-- Put back a team that has issued an instruction (R36): the number of its last issue is the newest. A team that
has issued none yet has number 0, and the taken child of a split the number of its parent (log entry 72). -/
def State.settle (s : State) (t : Team) : State :=
  { s with stamp := s.stamp + 1 }.stand { t with last := s.stamp }

/-- Put the team back and end its pick, whatever comes next. -/
def State.giveWay (s : State) (t : Team) : State := (s.stand t).yieldCore t

/-- The team moves past `n` words of its clause. -/
def State.advance (s : State) (ctx n : Nat) : State :=
  match s.team? ctx with
  | some t => s.settle (t.advance n)
  | none => s

/-! ### Scratchpad -/

/-- A granule of a scratchpad is poisoned (R353). -/
def Group.poisoned (g : Group) (off n : Nat) : Bool :=
  (List.range n).any (fun i => g.bad.contains ((off + i) / 16))

/-- Write bytes to a scratchpad: a granule written whole is no longer poisoned (R353). -/
def Group.spadWrite (g : Group) (off : Nat) (bs : List Byte) : Group :=
  let n := bs.length
  let whole (gr : Nat) : Bool := decide (off ≤ 16 * gr) && decide (16 * gr + 16 ≤ off + n)
  { g with spad := Mem.writeN g.spad off bs, bad := g.bad.filter (fun gr => !whole gr) }

/-- Bytes of a scratchpad. -/
def Group.spadRead (g : Group) (off n : Nat) : List Byte := Mem.readN g.spad off n

/-- A little-endian number in a scratchpad. -/
def Group.spadNum (g : Group) (off n : Nat) : Nat := leNat (g.spadRead off n)

/-! ### Barrier objects (R196) -/

/-- A barrier object, field by field. -/
structure BarObj where
  gen       : Nat
  expect    : Nat
  pend      : Nat
  abandoned : Bool
  inited    : Bool
  inb       : Nat
  outb      : Nat
deriving DecidableEq, Repr

/-- The object at a scratchpad offset (R196). -/
def Group.barrier (g : Group) (off : Nat) : BarObj :=
  let v := g.spadNum off 16
  { gen := bitsAt v 124 4, expect := bitsAt v 112 12, pend := bitsAt v 100 12,
    abandoned := bitsAt v 99 1 == 1, inited := bitsAt v 98 1 == 1, inb := bitsAt v 48 48,
    outb := bitsAt v 0 48 }

/-- The 128 bits of an object (R196). -/
def BarObj.bits (o : BarObj) : Nat :=
  o.gen % 16 * 2 ^ 124 + o.expect % 4096 * 2 ^ 112 + o.pend % 4096 * 2 ^ 100 +
    (if o.abandoned then 2 ^ 99 else 0) + (if o.inited then 2 ^ 98 else 0) +
    o.inb % 2 ^ 48 * 2 ^ 48 + o.outb % 2 ^ 48

/-- Write an object. -/
def Group.setBarrier (g : Group) (off : Nat) (o : BarObj) : Group :=
  { g with spad := Mem.writeN g.spad off (leBytes 16 o.bits) }

/-- CheckPhase (R196): a phase completes when PEND, INB and OUTB are zero. -/
def BarObj.check (o : BarObj) : BarObj :=
  if o.pend = 0 ∧ o.inb = 0 ∧ o.outb = 0 then { o with gen := (o.gen + 1) % 16, pend := o.expect }
  else o

/-- The phase that bit 0 of GEN names is there, or the object is abandoned (R199, R200). -/
def BarObj.phaseMet (o : BarObj) (ph1 : Bool) : Bool := o.abandoned || (o.gen % 2 == 1) == ph1

/-- What an object releases of a wait for it (R199, R201): a `barwait` that its phase or its abandonment meets, a
header that its abandonment meets. What has been released stays so. -/
def BarWait.see (barwait : Bool) (off : Nat) (o : BarObj) (b : BarWait) : BarWait :=
  if b.off = off ∧ b.met = none ∧ (if barwait then o.phaseMet b.ph1 else o.abandoned) then
    { b with met := some o.abandoned }
  else b

/-- A team sees an object of its group, on every path of a fallback (R21). -/
def Team.seeBar (off : Nat) (o : BarObj) (t : Team) : Team :=
  { t with
    bar := t.bar.map (BarWait.see (t.loaded || t.tested) off o)
    div := t.div.map (fun e => match e with
      | .fallback ps => .fallback (ps.map (fun p => { p with bar := p.bar.map (BarWait.see (p.loaded || p.tested) off o) }))
      | .split i k => .split i k) }

/-- A team watches an object: a watch slot names it, or a `barwait` awaits it. -/
def Team.watches (t : Team) (off : Nat) : Bool :=
  t.watch.contains (some off) || t.bar.any (fun b => b.off == off) ||
    t.div.any (fun e => match e with
      | .fallback ps => ps.any (fun p => p.bar.any (fun b => b.off == off))
      | .split _ _ => false)

/-- The teams of a group see one of its objects. -/
def State.showBar (s : State) (g off : Nat) : State :=
  let o := (s.group g).barrier off
  { s with teams := s.teams.map (fun e => (e.1, if e.2.group = g then e.2.seeBar off o else e.2)) }

/-- Watchers of an object wake with BARRIER (R40). -/
def State.wakeBar (s : State) (g off : Nat) : State :=
  if !s.isSaved g && (s.groupTeams g).any (fun t => t.watches off) then s.wakeCause (s.group g).core 0 else s

/-- One indivisible update of an object followed by the phase test (R196); a completed phase releases the
`barwait` that await it and wakes watchers (R40, R199). -/
def State.updBarrier (s : State) (g off : Nat) (f : BarObj → BarObj) : State :=
  let o := f ((s.group g).barrier off)
  let s := (s.modGroup g (fun k => k.setBarrier off o.check)).showBar g off
  if o.check.gen = o.gen then s else s.wakeBar g off

end Sys2Proof.Machine
end

