-- ==== Sys2Proof/Machine/Start.lean ====
section
/-! DEFINITION. Levels of a launch (01 R29 to R34), the start of a team and of a group (R12, R25,
R44, 08 R208, 10 R261), and what follows when a launched team or a group ends (R23, R28, R32). -/

namespace Sys2Proof.Machine

/-- The next tuple of indices, the first varying fastest; none after the last. -/
def nextTuple : List Nat → List Nat → Option (List Nat)
  | i :: is, e :: es =>
    if i + 1 < e then some ((i + 1) :: is)
    else (nextTuple is es).map (fun t => 0 :: t)
  | _, _ => none

/-- The tuple of number `n`, the first index varying fastest. -/
def tupleOf (n : Nat) : List Nat → List Nat
  | [] => []
  | e :: es => (if e = 0 then 0 else n % e) :: tupleOf (if e = 0 then 0 else n / e) es

/-- The number of a tuple, the first index varying fastest. -/
def tupleNo : List Nat → List Nat → Nat
  | i :: is, e :: es => i + e * tupleNo is es
  | _, _ => 0

/-- The product of some extents. -/
def product (l : List Nat) : Nat := l.foldl (fun a b => a * b) 1

/-- Extents of the levels of a launch that bind one of some domains, lowest first. -/
def Launch.extents (l : Launch) (bs : List Binding) : List Nat :=
  (l.levels.filter (fun v => bs.contains v.binding)).map (fun v => v.extent)

/-- E0: the lanes of a team (R29). -/
def Launch.e0 (l : Launch) : Nat :=
  match l.levels with
  | v :: _ => v.extent
  | [] => 0

/-- The extents of the TEAM levels, lowest first. -/
def Launch.teamExts (l : Launch) : List Nat := l.extents [.team]
/-- E_h: the teams of a group resident at once (R31). -/
def Launch.teamCount (l : Launch) : Nat := l.teamExts.getLastD 1
/-- The extents of the TEAM levels below the highest, whose instances run one after another (R32). -/
def Launch.teamSerial (l : Launch) : List Nat := l.teamExts.dropLast
/-- The extents of the GROUP levels, lowest first. -/
def Launch.groupExts (l : Launch) : List Nat := l.extents [.group]
/-- The extents of the GROUP levels below the highest (R32). -/
def Launch.groupSerial (l : Launch) : List Nat := l.groupExts.dropLast
/-- Whether a level binds GANG. -/
def Launch.hasGang (l : Launch) : Bool := l.levels.any (fun v => v.binding == .gang)
/-- The levels above the GROUP levels, lowest first. -/
def Launch.outer (l : Launch) : List Level :=
  l.levels.filter (fun v => [Binding.gang, .cluster, .package, .system].contains v.binding)
/-- The members of a gang instance (R26): the groups of one instance of the GANG level, or one. -/
def Launch.members (l : Launch) : Nat := if l.hasGang then l.groupExts.getLastD 1 else 1
/-- How many levels bind SYSTEM. -/
def Launch.systems (l : Launch) : Nat := (l.outer.filter (fun v => v.binding == .system)).length
/-- The extents of the outer levels on this package: the highest SYSTEM level, which is the last one, is fixed by
SYSIDX (R33); lower ones run in it (R32). -/
def Launch.outerExts (l : Launch) : List Nat :=
  let es := l.outer.map (fun v => v.extent)
  if l.systems = 0 then es else es.dropLast ++ [1]
/-- The extents that number the gang instances of this package. -/
def Launch.gangExts (l : Launch) : List Nat :=
  (if l.hasGang then [] else l.groupExts.drop (l.groupExts.length - 1)) ++ l.outerExts
/-- How many gang instances run one after another on one set of cores: those of the GANG levels below the highest
(R32), whose indices vary fastest. -/
def Launch.gangSerial (l : Launch) : Nat := product (l.extents [.gang]).dropLast
/-- The number of gang instances on this package. -/
def Launch.gangCount (l : Launch) : Nat := product l.gangExts

/-- The indices at the levels above the highest TEAM level of member `o` of gang instance `no`, when
the lower GROUP levels stand at `serial` (R34). -/
def Launch.groupLvl (l : Launch) (serial : List Nat) (no o : Nat) : List Nat :=
  let t := tupleOf no l.gangExts
  let mem := if l.hasGang && !l.groupExts.isEmpty then [o] else []
  serial ++ mem ++ (if l.systems = 0 then t else t.dropLast ++ [l.sysidx])

/-- The extents of the levels above the highest TEAM level. -/
def Launch.upperExts (l : Launch) : List Nat := l.groupExts ++ l.outer.map (fun v => v.extent)

/-- The linear group index (R34). -/
def Launch.linear (l : Launch) (lvl : List Nat) : Nat := tupleNo lvl l.upperExts

/-! ### Start of teams and groups -/

/-- Context indices of a VD in use (R344): those of its teams, saved ones included. -/
def State.ctxInUse (s : State) (v : Nat) : List Nat :=
  (s.allTeams.filter (fun t => t.ctx / 2 ^ 14 == v)).map (fun t => t.ctx % 2 ^ 14)

/-- The lowest free context id of a VD (R344): v·2^14 + i. -/
def State.freeCtx (s : State) (v : Nat) : Option Nat :=
  (lowestFree (s.ctxInUse v) (2 ^ 14)).map (fun i => v * 2 ^ 14 + i)

/-- The team slots that some groups hold (R25): those of their teams, and, where lower TEAM levels run their
instances one after another, the slot in which each launched team does so (R32). -/
def State.slotsOf (s : State) (gs : List Nat) : List Nat :=
  (s.allTeams.filter (fun t => gs.contains t.group)).map (fun t => t.slot) ++
    (s.fams.filter (fun e => gs.contains e.2.group && !e.2.ended
      && !(s.launch (s.group e.2.group).launch).teamSerial.isEmpty)).map (fun e => e.2.slot)

/-- The team slot that a starting team or a taken child takes (R16, R25). The spec leaves open which free one; the
model takes the lowest (log entry 55, DESIGN CHOICE). -/
def State.freeSlot (s : State) (c : Nat) : Option Nat := lowestFree (s.slotsOf (s.coreGroups c)) 64

/-- A row not used by a list of rows below `n`; which one is open (log entry 16). -/
def State.pickRow (s : State) (used : List Nat) (n : Nat) : Nat × State :=
  let rows := (List.range n).filter (fun r => !used.contains r)
  let (k, s) := s.pick rows.length
  (rows.getD k 0, s)

/-- Rows for registers 0 to 3, which start at TEAM (R44). -/
def State.startRows (s : State) (n : Nat) : Nat → List Nat → List Nat × State
  | 0, used => (used, s)
  | k + 1, used => let (r, s) := s.pickRow used n; s.startRows n k (used ++ [r])

/-- A launched team starts (R12, R34, R44): lanes in slots 0 to E0 − 1, registers 0 to 3 at TEAM, at
the first clause of the code address. It has issued nothing, and its issue age is 0 (log entry 72, DESIGN CHOICE). -/
def State.startTeam (s : State) (g index : Nat) (lower : List Nat) (slot ctx : Nat) : State :=
  let gr := s.group g
  let la := s.launch gr.launch
  let (f, s) := s.fresh
  let (opened, s) := s.fresh
  let (rows, s) := s.startRows la.tregs 4 []
  let ent (i : Nat) : PlaceEnt :=
    { kind := .team, pend := false, index := BitVec.ofNat 10 (rows.getD i 0), bound := 0 }
  let cell (v : Word) : Cell := { val := v, log := [] }
  let fam : Family := { resetFamily with
    ctx := ctx, group := g, slot := slot, index := index
    map := [(0, ent 0), (1, ent 1), (2, ent 2), (3, ent 3)]
    cells := [(0, cell (la.args.setWidth 32)), (1, cell ((la.args >>> 32).setWidth 32)),
      (2, cell (BitVec.ofNat 32 gr.lin)), (3, cell (BitVec.ofNat 32 index))] }
  let lanes := (List.range la.e0).map (fun i =>
    ({ slot := i, vid := i, regs := [], p := 0, tx := noTx, opened := [(.core, opened)], blind := [] } : Lane))
  let t : Team := { resetTeam with
    ctx := ctx, fam := f, group := g, slot := slot, index := index, lower := lower, pc := la.code,
    lanes := lanes }
  ((s.setFam f fam).setTeam t).wakeCause gr.core 9

/-- The quadrants of a grant as a group finds them (R208); each pass counter runs on from a value
that is open (log entry 9). -/
def State.freshQuads (s : State) (mask : BitVec 4) : Tbl Quad × State :=
  ((List.range 4).filter (fun q => mask.getLsbD q)).foldl (fun (acc : Tbl Quad × State) q =>
    (acc.1 ++ [(q, resetQuad q (Config.freeNat acc.2.free))], { acc.2 with free := acc.2.free + 1 }))
    ([], s)

/-- Start the teams of a group, all in one step (R25). -/
def State.startTeams (s : State) (g : Nat) : Nat → State
  | 0 => s
  | k + 1 =>
    let gr := s.group g
    let la := s.launch gr.launch
    let i := la.teamCount - (k + 1)
    let s := match s.freeSlot gr.core, s.freeCtx gr.vd with
      | some slot, some ctx => s.startTeam g i (la.teamSerial.map (fun _ => 0)) slot ctx
      | _, _ => s
    s.startTeams g k

/-- A group starts, or the next lower instance of its GROUP levels does (R32): a zeroed scratchpad
with every full bit 0 (R261), quadrants as R208, its registry and fusion state empty. -/
def State.startGroup (s : State) (g : Nat) : State :=
  let (quads, s) := s.freshQuads (s.group g).qmask
  let s := s.modGroup g (fun k => { k with
    spad := [], full := [], bad := [], registry := [], fuseI := [], fuse := [], quads := quads,
    engines := [], ended := false })
  s.startTeams g ((s.launch (s.group g).launch).teamCount)

/-! ### Ends -/

/-- The launched teams of some groups are gone, with what was recorded of their scratchpads. -/
def State.dropFams (s : State) (gs : List Nat) : State :=
  { s with
    fams := s.fams.filter (fun e => !gs.contains e.2.group)
    races := s.races.filter (fun r => match r.place with
      | .spad g => !gs.contains g
      | _ => true) }

/-- The next instance of the lower GANG levels of a launch starts in the groups of the one before it, all in one
step (R26, R32). -/
def State.nextGang (s : State) (a : Nat) : State :=
  let ga := s.gang a
  let la := s.launch ga.launch
  let s := (s.dropFams ga.members).setGang a { ga with no := ga.no + 1 }
  let s := ga.members.foldl (fun s g => s.modGroup g (fun m =>
    let lvl := la.groupLvl (la.groupSerial.map (fun _ => 0)) (ga.no + 1) m.member
    { m with lvl := lvl, lin := la.linear lvl })) s
  ga.members.foldl (fun s g => s.startGroup g) s

/-- When every group of a gang instance has ended, the next one that shares its cores runs there (R32); else the
scratchpads of all members are released together (R28) and the instance is gone. -/
def State.endGang (s : State) (a : Nat) : State :=
  let ga := s.gang a
  let la := s.launch ga.launch
  if !ga.members.all (fun g => (s.group g).ended) then s
  else if (ga.no + 1) % la.gangSerial ≠ 0 then s.nextGang a
  else
    let s := s.setLaunch ga.launch { la with
      live := la.live.filter (fun x => x != a), retired := la.retired + ga.retired }
    let s := s.dropFams ga.members
    { s with gangs := Tbl.del s.gangs a, groups := s.groups.filter (fun e => !ga.members.contains e.1) }

/-- Whether every team of a group has ended (R25): no team is left of it. -/
def State.groupDone (s : State) (g : Nat) : Bool := (s.groupTeams g).isEmpty

/-- When all teams of a group have ended: the next lower GROUP instance runs on the same core (R32),
or the group ends (R25). -/
def State.endGroup (s : State) (g : Nat) : State :=
  if !s.groupDone g then s
  else
    let gr := s.group g
    let la := s.launch gr.launch
    let n := la.groupSerial.length
    match nextTuple (gr.lvl.take n) la.groupSerial with
    | some t =>
      let lvl := t ++ gr.lvl.drop n
      (s.modGroup g (fun k => { k with lvl := lvl, lin := la.linear lvl })).startGroup g
    | none => (s.modGroup g (fun k => { k with ended := true })).endGang gr.gang

/-- When a launched team has ended: the next instance of its lower TEAM levels starts in the team slot in which the
one before it started (R32), or the group may end. -/
def State.afterFam (s : State) (f : Nat) (index : Nat) (lower : List Nat) (retired : Nat) : State :=
  let m := s.fam f
  let gr := s.group m.group
  let la := s.launch gr.launch
  let s := s.setGang gr.gang { s.gang gr.gang with retired := (s.gang gr.gang).retired + retired }
  let s := s.setFam f { m with ended := true }
  match nextTuple lower la.teamSerial with
  | some t =>
    (match s.freeCtx gr.vd with
    | some ctx => s.startTeam m.group index t m.slot ctx
    | none => s)
  | none => s.endGroup m.group

end Sys2Proof.Machine
end

