-- ==== Sys2Proof/Machine/Ops.lean ====
section
/-! DEFINITION. The kill of a launched team (01 R24, 07 R201), taking a user trap and returning from
one (09 R255, R256). -/

namespace Sys2Proof.Machine

/-! ### The kill of a launched team -/

/-- A lane of a request on its way has been performed, and its target has recorded it (R62). -/
def State.recorded (s : State) (r : Req) (l : PLane) : Bool :=
  s.records.any (fun x => x.ctx == r.ctx && x.seq == r.seq && x.op == r.op && x.lanes.any (fun y => y.vid == l.vid))

/-- What is left of the requests of a team that goes, newest first: the accesses of its instructions that have not
completed, each lane once, under the newest generation under which it was sent, and none that its target has
recorded (R63). They have no team any more (R24). -/
def State.orphansOf (s : State) (t : Team) : List Req → List Req → List Req
  | [], _ => []
  | r :: rs, newer =>
    if r.ctx != t.ctx then r :: s.orphansOf t rs newer
    else
      let open_ := (t.replay.find? (fun p => p.seq == r.seq)).any (fun p => !p.complete)
      let ls := r.lanes.filter (fun l => !s.recorded r l &&
        !newer.any (fun x => x.seq == r.seq && x.op == r.op && x.lanes.any (fun y => y.vid == l.vid)))
      if open_ && r.op == .access && !ls.isEmpty then
        { r with orphan := true, lanes := ls } :: s.orphansOf t rs (r :: newer)
      else s.orphansOf t rs newer

/-- Remove what a team held in flight: its records, its requests' ties, its answers, its race
records (R24, R62, R273). -/
def State.purgeTeam (s : State) (t : Team) : State :=
  let ctx := t.ctx
  { s with
    reqs := (s.orphansOf t s.reqs.reverse []).reverse
    answers := s.answers.filter (fun a => a.ctx != ctx)
    records := s.records.filter (fun r => r.ctx != ctx)
    newest := s.newest.filter (fun n => n.1 != ctx)
    discards := s.discards.filter (fun n => n.1 != ctx)
    acks := s.acks.filter (fun n => n.1 != ctx)
    races := (s.races.filter (fun r => r.ctx != ctx)).map
      (fun r => { r with kin := r.kin.filter (fun k => k != ctx) }) }

/-- An issuer is team `ctx`. -/
def Issuer.isTeam (i : Issuer) (ctx : Nat) : Bool :=
  match i with
  | .team c _ _ => c == ctx
  | .engine _ _ => false

/-- The formats that the planes of a quadrant will hold once its queue has completed (R221). -/
def Quad.retrack (q : Quad) : Quad :=
  let (a, s) := q.queue.foldl (fun (x : Option FmtBlk × Option FmtBlk) e =>
    match e.op.instr with
    | .mlds _ | .mldsBar _ _ => (x.1, e.op.fb)
    | .mswap _ => (x.2, x.1)
    | _ => x) (q.active.fmt, q.shadow.fmt)
  { q with trackA := a, trackS := s }

/-- A killed team's entries leave a quadrant, with the loops that its halts have left behind (R216). The tracked formats
become those of the queue that is left; the fusion state as issued (R210) keeps what the `mfuse` of the killed team
made of it: both are the model's choice (log entry 74). -/
def Quad.discard (q : Quad) (ctx : Nat) : Quad :=
  if q.queue.any (fun e => e.issuer.isTeam ctx) then
    { q with queue := q.queue.filter (fun e => !e.issuer.isTeam ctx)
             held := q.held.filter (fun h => h.1 != ctx) }.retrack
  else { q with held := q.held.filter (fun h => h.1 != ctx) }

/-- Queued operations of a team leave the quadrants and the Lace engines of its core (R216, R245). -/
def State.dropQueued (s : State) (t : Team) : State :=
  let s := s.modGroup t.group (fun g =>
    { g with quads := g.quads.map (fun e => (e.1, e.2.discard t.ctx)) })
  let gone := (t.replay.filter (fun p => p.copy.isSome)).map (fun p => p.progress)
  let s := s.modCore (s.coreOf t) (fun k =>
    { k with lace := k.lace.map (fun e => (e.1, e.2.filter (fun c => !c.issuer.isTeam t.ctx))) })
  { s with laceRegs := s.laceRegs.filter (fun r => !gone.contains r.copy) }

/-- ABANDONED is set in every object of the group's registry (R201), which wakes its watchers. -/
def State.abandon (s : State) (g : Nat) : State :=
  (s.group g).registry.foldl (fun s off =>
    ((s.modGroup g (fun k => k.setBarrier off { k.barrier off with abandoned := true })).showBar g off).wakeBar g off) s

/-- A team leaves the machine: its slot and context index are free. -/
def State.removeTeam (s : State) (t : Team) : State :=
  ((s.yieldCore t).dropQueued t |>.purgeTeam t).dropTeam t.ctx

/-! ### Leave -/

/-- The charge of a grant that ends now (R367), in mW·µs: its power times its duration at 2.25 GHz. -/
def Leave.charge (g : Leave) (clock : Nat) : Nat := g.power * ((clock - g.time) / 2250)

/-- Charges enter the counts of their VDs (R367, R394). -/
def State.chargeLeave (s : State) (gs : List Leave) : State :=
  gs.foldl (fun s g =>
    let d := s.vd g.vd
    let u := { d.usage with leave := d.usage.leave + BitVec.ofNat 64 (g.charge s.clock) }
    s.setVD g.vd { d with usage := u }) s

/-- Requests for leave lapse and grants end, for the holders that `p` selects (R365). -/
def State.dropLeave (s : State) (p : LeaveBy → Bool) : State :=
  let ended := s.zones.flatMap (fun e => e.2.grants.filter (fun g => p g.who))
  let zones : Tbl Zone := s.zones.map (fun e =>
      let z := e.2
      let gone := z.grants.filter (fun g => p g.who)
      (e.1, { z with
        waiting := z.waiting.filter (fun g => !p g.who)
        grants := z.grants.filter (fun g => !p g.who)
        granted := z.granted - BitVec.ofNat 16 (gone.foldl (fun a g => a + g.power) 0)
        charges := gone.foldl (fun t g => Tbl.upd 0 t g.vd (fun n => n + g.charge s.clock)) z.charges }))
  { s with zones := zones }.chargeLeave ended

/-- An open session of a launched team closes when the team ends or is killed (R251): its leave
lapses with the session. -/
def State.closeSession (s : State) (f : Nat) : State :=
  match (s.fam f).session with
  | none => s
  | some ch =>
    let s := s.setChan ch { s.chan ch with session := none }
    let s := s.dropLeave (fun w => w == .session ch)
    s.modFam f (fun m => { m with
      session := none
      banks := []
      bankBad := []
      map := m.map.filter (fun e => e.2.kind != .bank) })

/-- The queued operations of a launched team's engine programs go with it (R24, R216). -/
def State.dropEngineWork (s : State) (g f : Nat) : State :=
  let m := s.group g
  let mine (i : Issuer) (fam : Nat) : Bool := match i with
    | .engine h _ => h == g && fam == f
    | .team _ _ _ => false
  let ents := (m.quads.flatMap (fun e => e.2.queue)).filter (fun x => mine x.issuer x.op.fam)
  let quads := m.quads.map (fun e =>
    if e.2.queue.any (fun x => mine x.issuer x.op.fam) then
      (e.1, { e.2 with queue := e.2.queue.filter (fun x => !mine x.issuer x.op.fam) }.retrack)
    else e)
  let gone := ((s.core m.core).lace.flatMap (fun e => e.2)).filter (fun c => mine c.issuer c.op.fam)
  let less (k : Nat) : Nat := (((ents.map (fun x => (x.issuer, x.id))) ++ gone.map (fun c => (c.issuer, c.id))).filter
    (fun x => decide (x.1 = .engine g k))).eraseDups.length
  let engines := m.engines.map (fun e =>
    (e.1, { e.2 with out := e.2.out - less e.1, draining := e.2.draining.filter (fun x => x != f) }))
  let s := s.setGroup g { m with quads := quads, engines := engines }
  let s := s.modCore m.core (fun k =>
    { k with lace := k.lace.map (fun e => (e.1, e.2.filter (fun c => !mine c.issuer c.op.fam))) })
  { s with laceRegs := s.laceRegs.filter (fun r => !(gone.any (fun c => c.id == r.copy))) }

/-- Leave asked for or held by loops that stand in no queue of a group any more lapses (R365). -/
def State.lapseGone (s : State) (g : Nat) : State :=
  let ids := (s.group g).quads.flatMap (fun e => e.2.queue.map (fun x => x.id))
  s.dropLeave (fun w => match w with
    | .loop gr _ id => gr == g && !ids.contains id
    | .session _ => false)

/-- Kill a launched team with every child of its splits (R24): the same status in the same step;
ABANDONED in the group's barrier objects (R201); the launch records the first kill (R384); what follows the
end of a launched team follows (R32). A flush kills without these (R341). -/
def State.killFam (s : State) (f : Nat) (code : KillCode) (abandon : Bool) : State :=
  let m := s.fam f
  if m.ended then s
  else
    let ts := s.famTeams f
    let lower := ts.head?.elim [] (fun t => t.lower)
    let retired := ts.foldl (fun a t => a + t.retired) 0
    let s := ts.foldl (fun s t => s.removeTeam t) s
    let s := ((s.dropEngineWork m.group f).lapseGone m.group).closeSession f
    let s := s.modFam f (fun m => { m with ended := true, killed := true })
    let s := s.modGroup m.group (fun g =>
      { g with engines := g.engines.map (fun e =>
          if e.2.fam = f ∧ e.2.running then (e.1, { e.2 with running := false }) else e) })
    let s := if abandon then s.abandon m.group else s
    let l := (s.group m.group).launch
    let la := s.launch l
    if abandon then
      (s.setLaunch l { la with killed := some (la.killed.getD code) }).afterFam f m.index lower retired
    else s

/-! ### Taking a user trap and returning (R255, R256) -/

/-- The code of a cause (R255). -/
def Cause.code : Cause → Nat
  | .illegal => 0x01
  | .unwaited => 0x02
  | .undecl => 0x03
  | .place => 0x04
  | .placefull => 0x05
  | .align => 0x06
  | .mmx => 0x07
  | .arith => 0x08
  | .swtrap => 0x09
  | .brk => 0x0A
  | .cpeer => 0x0B
  | .shape => 0x0C
  | .quad => 0x0D

/-- The mask words of a trap record: bits 1279:256 (R255). -/
def maskBits (slots : List Nat) : Nat := slots.foldl (fun acc b => acc + 2 ^ b) 0

/-- The 160 bytes of a trap record (R255). -/
def trapRecord (t : Team) (tr : Trap) (pc : DWord) (word : Nat) (eng : Bool) : List Byte :=
  leBytes 160 (pc.toNat + word % 256 * 2 ^ 64 + tr.cause.code * 2 ^ 80 +
    (if t.handler.mode then 2 ^ 88 else 0) + (if eng then 2 ^ 89 else 0) + tr.code.toNat * 2 ^ 96 +
    tr.addr.toNat * 2 ^ 128 + maskBits (t.lanes.map (fun l => l.slot)) * 2 ^ 256)

/-- Where a user trap is taken: PC and WORD of its record, the position to which `rfh` returns and the
one to which `rfh.skip` returns, and whether the waits of the header there have been met. -/
structure TrapPos where
  pc     : DWord
  word   : Nat
  rpc    : DWord
  rword  : Nat
  spc    : DWord
  sword  : Nat
  tested : Bool
deriving DecidableEq, Repr

/-- The position past an instruction of `n` words where the team stands (R256). -/
def Team.past (t : Team) (n : Nat) : DWord × Nat :=
  if t.loaded && decide (t.clause.length ≤ t.word + n) then (t.nextHeader, 0) else (t.pc, t.word + n)

/-- A trap at the instruction of `n` words where the team stands. -/
def Team.trapPos (t : Team) (n : Nat) : TrapPos :=
  { pc := t.pc, word := t.word, rpc := t.pc, rword := t.word, spc := (t.past n).1,
    sword := (t.past n).2, tested := t.loaded || t.tested }

/-- TAKING A USER TRAP (R255): killed with DOUBLE when traps are masked, with UNHANDLED when no
handler is set, with DOUBLE when the record lies beyond the allocation; else the record and handler
state are written, traps are masked, and the team continues at the handler address in handler
mode. -/
def State.takeTrapAt (s : State) (ctx : Nat) (tr : Trap) (at_ : TrapPos) (eng : Bool)
    (kept : Option Packet) : State :=
  match s.team? ctx with
  | none => s
  | some t =>
    if t.handler.mask then s.killFam t.fam .double true
    else if !t.handler.isSet then s.killFam t.fam .unhandled true
    else if (s.group t.group).spadLen < t.handler.off.toNat + 160 then s.killFam t.fam .double true
    else
      let s := s.modGroup t.group (fun g =>
        g.spadWrite t.handler.off.toNat (trapRecord t tr at_.pc at_.word eng))
      let h := { t.handler with
        mode := true, mask := true, nest := t.handler.mode, pc := at_.rpc, word := at_.rword,
        spc := at_.spc, sword := at_.sword, tested := at_.tested,
        lanes := t.lanes.map (fun l => l.slot), cause := some tr.cause, taddr := tr.addr,
        code := tr.code, eng := eng, kept := kept }
      s.settle { t.goto t.handler.addr 0 with handler := h, parked := .no }

/-- A user trap at the instruction of `n` words where the team stands (R51, R255). -/
def State.takeTrap (s : State) (ctx n : Nat) (tr : Trap) : State :=
  match s.team? ctx with
  | some t => s.takeTrapAt ctx tr (t.trapPos n) false none
  | none => s

/-- A cause without address or code. -/
def plainTrap (c : Cause) : Trap := { cause := c, addr := 0, code := 0 }

/-- RETURNING FROM A TRAP (R256): handler mode is left, traps are unmasked, and the team continues
at the saved position, or past the saved instruction. -/
def Team.leaveHandler (t : Team) (skip : Bool) : Team :=
  let h := t.handler
  let t := if skip then t.goto h.spc h.sword else t.goto h.pc h.word
  let tested := h.tested && !(skip && h.sword == 0)
  { t with tested := tested, handler := { h with mode := false, mask := false, kept := none } }

end Sys2Proof.Machine
end

