-- ==== Sys2Proof/Machine/Operands.lean ====
section
/-! DEFINITION. Operands of instructions: where a register lives and where an instruction executes
(02 R42, R48, R49, R50), the checks of an instruction in the order of R51, and reading and writing
operands. -/

namespace Sys2Proof.Machine

/-- Where an operand lives: `imm` is `z` or a literal. -/
inductive Loc where
  | imm | none | lane | team | mem (welt : Nat) | bank (ch : Nat)
deriving DecidableEq, Repr

/-- Where a place-map entry says that a register lives (R43). -/
def PlaceEnt.loc (e : PlaceEnt) : Loc :=
  match e.kind with
  | .none => .none
  | .lane => .lane
  | .team => .team
  | .mem => .mem e.index.toNat
  | .bank => .bank e.index.toNat

/-- Where a register operand lives. -/
def State.locOf (s : State) (t : Team) (r : Reg) : Loc :=
  if r = Reg.z || r = Reg.lit then .imm else (s.place t r).loc

/-- The register numbers that an operand of `n` registers names. -/
def regNums (r : Reg) (n : Nat) : List Nat :=
  if r = Reg.z || r = Reg.lit then [] else (List.range n).map (fun i => r.toNat + i)

/-- A named register is NONE (R47): UNDECL. -/
def State.anyNone (s : State) (t : Team) (rs : List (Reg × Nat)) : Bool :=
  rs.any (fun x => (regNums x.1 x.2).any (fun n =>
    decide (253 < n) || (Tbl.get noPlace (s.fam t.fam).map n).kind == .none))

/-- A named register is pending (R59): UNWAITED. -/
def Team.anyPend (t : Team) (rs : List (Reg × Nat)) : Bool :=
  rs.any (fun x => (regNums x.1 x.2).any (fun n => t.pend.any (fun x => x.2 == BitVec.ofNat 8 n && t.own x.1)))

/-- The registers of an operand lie at different places (R42): PLACE. -/
def State.anyApart (s : State) (t : Team) (rs : List (Reg × Nat)) : Bool :=
  rs.any (fun x => (regNums x.1 x.2).any (fun n =>
    (Tbl.get noPlace (s.fam t.fam).map n).loc != s.locOf t x.1))

/-- Number of a predicate in the list of pending ones: p k is k and q k is 8 + k. -/
def predKey (q : Bool) (n : Nat) : Nat := if q then 8 + n else n

/-- A predicate is pending (R114). -/
def Team.predPend (t : Team) (q : Bool) (n : Nat) : Bool := t.pendP.any (fun x => x.2 == predKey q n && t.own x.1)

/-- The first cause whose test holds (R51). -/
def firstCause : List (Bool × Cause) → Option Cause
  | [] => none
  | (b, c) :: l => if b then some c else firstCause l

/-! ### Predicate codes (R130) -/

/-- Bit 3: the bank, q or p. -/
def pcodeQ (c : Byte) : Bool := c.getLsbD 3
/-- Bits 2:0: the number. -/
def pcodeNum (c : Byte) : Nat := c.toNat % 8
/-- Bit 4: NEG. -/
def pcodeNeg (c : Byte) : Bool := c.getLsbD 4
/-- A truth value as an operand. -/
def boolOp (b : Bool) : DWord := if b then 1 else 0

/-! ### Sources and destinations of a description -/

/-- Where a source lives; predicates lie at LANE and TEAM (R42). -/
def State.srcLoc (s : State) (t : Team) : Src → Loc
  | .reg r _ _ => s.locOf t r
  | .pcode c => if pcodeQ c then .team else .lane
  | .sel _ => .imm

/-- Where an instruction executes (R48): the place of its destination; without one, the place of its
first data source, TEAM where that is `z`, a literal or absent. -/
def State.execLoc (s : State) (t : Team) (d : OpDesc) : Loc :=
  match d.dst with
  | .pcode c => if pcodeQ c then .team else .lane
  | .reg r _ =>
    if r = Reg.z then match d.srcs with
      | [] => .team
      | x :: _ => (match s.srcLoc t x with
        | .imm => .team
        | l => l)
    else s.locOf t r

/-- Registers that a source names. -/
def Src.regs : Src → List (Reg × Nat)
  | .reg r n _ => [(r, n)]
  | _ => []

/-- Registers that a destination names. -/
def Dst.regs : Dst → List (Reg × Nat)
  | .reg r n => [(r, n)]
  | .pcode _ => []

/-- Every register that a description names. -/
def OpDesc.regs (d : OpDesc) : List (Reg × Nat) :=
  d.dst.regs ++ (d.dst2.elim [] Dst.regs) ++ d.srcs.flatMap Src.regs

/-- Predicates that a description reads or writes, PRED included; `uni` says that PRED and a selector
name q predicates (R109, R128). -/
def OpDesc.preds (d : OpDesc) (uni : Bool) : List (Bool × Nat) :=
  let ofDst : Dst → List (Bool × Nat) := fun x => match x with
    | .pcode c => [(pcodeQ c, pcodeNum c)]
    | .reg _ _ => []
  (uni, d.pred.num.toNat) :: ofDst d.dst ++ d.dst2.elim [] ofDst ++ d.srcs.flatMap (fun x =>
    match x with
    | .pcode c => [(pcodeQ c, pcodeNum c)]
    | .sel p => [(uni, p.num.toNat)]
    | .reg _ _ _ => [])

/-- A place of execution is uniform. -/
def Loc.uniform : Loc → Bool
  | .lane => false
  | _ => true

/-- A place is MEM or BANK. -/
def Loc.remote : Loc → Bool
  | .mem _ | .bank _ => true
  | _ => false

/-- The number of the Welt unit. -/
def Loc.isMem : Loc → Bool
  | .mem _ => true
  | _ => false

/-- A place is BANK. -/
def Loc.isBank : Loc → Bool
  | .bank _ => true
  | _ => false

/-- PLACE of a description (R42, R49, R50, R146, R155 to R161). -/
def State.descPlace (s : State) (t : Team) (d : OpDesc) (ex : Loc) : Bool :=
  s.anyApart t d.regs
  || (ex.isMem && d.rule != .anyMem) || ex.isBank
  || d.srcs.any (fun x => (s.srcLoc t x).isBank)
  || d.core.any (fun i => (d.srcs[i]?.elim .imm (s.srcLoc t)).remote)
  || (d.rule == .lanePlace && ex != .lane)
  || (match d.dst2 with
      | some (.reg r _) => s.locOf t r != .team && s.locOf t r != .imm
      | _ => false)

/-- SHAPE of a description (R50, R130, R159 to R166). -/
def State.descShape (s : State) (t : Team) (d : OpDesc) (ex : Loc) : Bool :=
  let laneSrc (x : Src) : Bool := s.srcLoc t x == .lane
  (ex.uniform && d.srcs.any laneSrc && !(d.laneToUni && ex == .team))
  || d.uniform.any (fun i => d.srcs[i]?.elim false laneSrc)
  || (d.rule == .laneShape && ex.uniform)

/-- The trap that an issue of a register instruction takes, if any (R51). -/
def State.descCause (s : State) (t : Team) (d : OpDesc) : Option Cause :=
  let ex := s.execLoc t d
  firstCause
    [(s.anyNone t d.regs, .undecl),
     (t.anyPend d.regs || (d.preds ex.uniform).any (fun p => t.predPend p.1 p.2), .unwaited),
     (s.descPlace t d ex, .place),
     (s.descShape t d ex, .shape)]

/-- A uniform source read at issue; none for a lane-shaped one. A register at MEM is read where the
instruction executes, or fetched: here it stands as 0. `uni` as for `OpDesc.preds`. -/
def State.readSrc (s : State) (t : Team) (uni : Bool) : Src → Option DWord × State
  | .reg r n lit =>
    if r = Reg.lit then (some lit, s)
    else if r = Reg.z then (some 0, s)
    else match s.locOf t r with
      | .lane => (none, s)
      | .team =>
        if n = 2 then let (v, s) := s.readPair t r; (some v, s)
        else let (v, s) := s.readOne t r; (some (v.setWidth 64), s)
      | _ => (some 0, s)
  | .pcode c =>
    if pcodeQ c then
      let (b, s) := s.readQ t.fam t.ctx (pcodeNum c)
      (some (boolOp (b != pcodeNeg c)), s)
    else (none, s)
  | .sel p => if uni then let (b, s) := s.qPred t p; (some (boolOp b), s) else (none, s)

/-- Uniform sources read in order. -/
def State.readSrcs (s : State) (t : Team) (uni : Bool) : List Src → List (Option DWord) × State
  | [] => ([], s)
  | x :: xs =>
    let (v, s) := s.readSrc t uni x
    let (vs, s) := s.readSrcs t uni xs
    (v :: vs, s)

/-- A lane-shaped source in a lane. -/
def laneSrc (l : Lane) : Src → DWord
  | .reg r n _ => laneRegs l r n
  | .pcode c => boolOp (laneP l (pcodeNum c) != pcodeNeg c)
  | .sel p => boolOp (lanePred l p)

/-- Operand values of a lane. -/
def laneOps (l : Lane) (srcs : List Src) (vals : List (Option DWord)) : List DWord :=
  (srcs.zip vals).map (fun x => x.2.getD (laneSrc l x.1))

/-- What a lane takes into an instruction; `act` says that it lies in Active(T). -/
def laneInOf (d : OpDesc) (vals : List (Option DWord)) (act : Bool) (l : Lane) : LaneIn :=
  { vid := l.vid, slot := l.slot, act := act, ops := laneOps l d.srcs vals }

/-- The lanes that enter an instruction: all that it sees (R159), or one stand-in for a uniform
operation on uniform values. -/
def lanesIn (t : Team) (d : OpDesc) (uni : Bool) (vals : List (Option DWord)) : List LaneIn :=
  match d.body, uni with
  | .elem _, true => [{ vid := 0, slot := 0, act := true, ops := vals.map (fun v => v.getD 0) }]
  | _, _ => t.current.map (fun l => laneInOf d vals (uni || lanePred l d.pred) l)

/-- The computation of a description. -/
def OpDesc.run (d : OpDesc) (uni : Bool) (e0 : Nat) (ls : List LaneIn) : Option CrossOut :=
  match d.body with
  | .cross f => f uni e0 ls
  | .elem f =>
    if uni then
      match ls with
      | l :: _ => let (v, fl) := f l.ops; some { lanes := [], val := v, flag := false, flags := fl }
      | [] => some { lanes := [], val := 0, flag := false, flags := 0 }
    else
      let rs := (ls.filter (fun l => l.act)).map (fun l => (l.vid, f l.ops))
      some { lanes := rs.map (fun r => ⟨r.1, r.2.1, false⟩), val := 0, flag := false,
             flags := rs.foldl (fun a r => a ||| r.2.2) 0 }

/-- The absent mask of `vote` and `match` (R161). -/
def absentOf (e0 : Nat) (ls : List LaneIn) : DWord := absentMask e0 ls

/-- Write lane results (R10): register or p predicate, and the flag predicate of each lane. -/
def writeLaneOut (d : OpDesc) (outs : List LaneOut) (l : Lane) : Lane :=
  match outs.find? (fun o => o.vid == l.vid) with
  | none => l
  | some o =>
    let l := match d.dst with
      | .reg r n => setLaneRegs l r n o.val
      | .pcode c => setLaneP l (pcodeNum c) (o.val != 0)
    match d.dst2 with
    | some (.pcode c) => if pcodeQ c then l else setLaneP l (pcodeNum c) o.flag
    | _ => l

/-- Write the uniform result to a register at TEAM or MEM, or to a q predicate. -/
def State.writeUniOut (s : State) (f ctx : Nat) (d : OpDesc) (v : DWord) : State :=
  match d.dst with
  | .reg r n => s.writeRegs f ctx r n v
  | .pcode c => s.writeQ f ctx (pcodeNum c) (v != 0)

/-- Write a second destination of uniform shape: a q flag (R164) or an absent mask (R161). -/
def State.writeUni2 (s : State) (f ctx : Nat) (d : OpDesc) (flag : Bool) (absent : DWord) : State :=
  match d.dst2 with
  | some (.pcode c) => if pcodeQ c then s.writeQ f ctx (pcodeNum c) flag else s
  | some (.reg r _) => s.writeRegs f ctx r 1 absent
  | none => s

/-- Write everything that an instruction at the core gives its team, flags joined (R84). Where D and the
absent mask of a `vote.count` name one TEAM register, the spec gives no order of the two writes: the mask is
written last (log entry 71). -/
def State.writeOut (s : State) (t : Team) (d : OpDesc) (uni : Bool) (e0 : Nat) (ls : List LaneIn)
    (out : CrossOut) : State :=
  let s := s.modTeam t.ctx (fun t =>
    (if uni then t else t.mapLanes (writeLaneOut d out.lanes)).join out.flags)
  let s := if uni then s.writeUniOut t.fam t.ctx d out.val else s
  s.writeUni2 t.fam t.ctx d out.flag (absentOf e0 ls)

end Sys2Proof.Machine
end

