-- ==== Sys2Proof/Machine/EngineOps.lean ====
section
/-! DEFINITION. Engine registers, predicates, position and stops (09 R237 to R240), and the register
instructions of an engine program (R238). -/

namespace Sys2Proof.Machine

/-- An engine program of a group. -/
def State.engine (s : State) (g k : Nat) : Engine := Tbl.get resetEngine (s.group g).engines k

/-- Replace an engine program. -/
def State.setEngine (s : State) (g k : Nat) (e : Engine) : State :=
  s.modGroup g (fun m => { m with engines := Tbl.set m.engines k e })

/-- A register field that an engine program may name (R238): e0 to e15, the literal or `z`. -/
def engReg (r : Reg) (n : Nat) : Bool := (regNums r n).all (fun k => decide (k < 16))

/-- A predicate code that an engine program may name (R238): q0 to q3. -/
def engPred (q : Bool) (n : Nat) : Bool := q && decide (n < 4)

/-- Registers of an engine as one value. -/
def Engine.val (e : Engine) (r : Reg) (n : Nat) : DWord :=
  if r = Reg.z then 0
  else
    let w (k : Nat) : Word := Tbl.get 0 e.regs k
    if n = 2 then w (r.toNat + 1) ++ w r.toNat else (w r.toNat).setWidth 64

/-- Registers of an engine written. -/
def Engine.put (e : Engine) (r : Reg) (n : Nat) (v : DWord) : Engine :=
  if r = Reg.z then e
  else
    let regs := Tbl.set e.regs r.toNat (v.setWidth 32)
    { e with regs := if n = 2 then Tbl.set regs (r.toNat + 1) ((v >>> 32).setWidth 32) else regs }

/-- An engine's predicate; q0 reads true. -/
def Engine.q' (e : Engine) (n : Nat) : Bool := n == 0 || e.q.getLsbD n

/-- An engine's predicate under PRED. -/
def Engine.pred (e : Engine) (p : Pred) : Bool := e.q' p.num.toNat != p.neg

/-- An engine's predicate written; q0 discards. -/
def Engine.putQ (e : Engine) (n : Nat) (b : Bool) : Engine :=
  if n = 0 then e else { e with q := if b then e.q ||| (1#4 <<< n) else e.q &&& ~~~(1#4 <<< n) }

/-- An engine at a clause header. -/
def Engine.goto (e : Engine) (pc : DWord) : Engine :=
  { e with pc := pc, word := 0, clause := [], loaded := false }

/-- An engine past `n` words (R95). -/
def Engine.advance (e : Engine) (n : Nat) : Engine :=
  if e.clause.length ≤ e.word + n then e.goto (e.pc + BitVec.ofNat 64 (8 * (1 + e.clause.length)))
  else { e with word := e.word + n }

/-- An engine stops at an illegal word (R240): the stop is kept for the team's `rdv`. -/
def State.engineStop (s : State) (g k : Nat) : State :=
  let e := s.engine g k
  let s := s.setEngine g k { e with stopped := true, running := false }
  s.modFam e.fam (fun f => { f with
    forks := f.forks.erase k, stops := f.stops ++ [(e.pc, e.word)] })

/-- Flags of an engine program join those of every team of the launched team that forked it (R84,
R86; log entry 17). -/
def State.famFlags (s : State) (f : Nat) (fl : Flags) : State :=
  (s.famTeams f).foldl (fun s t => s.modTeam t.ctx (fun t => t.join fl)) s

/-- A source of an engine instruction. -/
def Engine.src (e : Engine) : Src → DWord
  | .reg r n lit => if r = Reg.lit then lit else e.val r n
  | .pcode c => boolOp (e.q' (pcodeNum c) != pcodeNeg c)
  | .sel p => boolOp (e.pred p)

/-- A register instruction of an engine program (R238). -/
def State.engineDesc (s : State) (g k : Nat) (d : OpDesc) : State :=
  let e := s.engine g k
  if !(d.regs.all (fun x => engReg x.1 x.2) && (d.preds true).all (fun p => engPred p.1 p.2)) then
    s.engineStop g k
  else
    let ls : List LaneIn := [{ vid := 0, slot := 0, act := true, ops := d.srcs.map e.src }]
    if !e.pred d.pred then s.setEngine g k (e.advance 1)
    else match d.run true 1 ls with
      | none => s.engineStop g k
      | some out =>
        let e := match d.dst with
          | .reg r n => e.put r n out.val
          | .pcode c => e.putQ (pcodeNum c) (out.val != 0)
        (s.setEngine g k (e.advance 1)).famFlags e.fam out.flags

end Sys2Proof.Machine
end

