-- ==== Sys2Proof/Machine/Flits.lean ====
section
/-! DEFINITION. The link directions that requests, answers and home accesses cross, and the flits in which they wait on
them (17 R312; 19 R358). -/

namespace Sys2Proof.Machine

/-- The die of a core. -/
def dieOf (core : Nat) : Nat := core / 256

/-- Place of a die in the ring C0, C1, C3, C2 (R312). -/
def ringPos (d : Nat) : Nat := if d = 2 then 3 else if d = 3 then 2 else d

/-- The die boundary that leaves ring place `p` upwards is link 2p; the one downwards is 2(p − 1) + 1. -/
def upLink (p : Nat) : Nat := 2 * (p % 4)
def downLink (p : Nat) : Nat := 2 * ((p + 3) % 4) + 1

/-- The paths from one die to another: for the die across the ring there are two. -/
def diePaths (a b : Nat) : List (List Nat) :=
  let p := ringPos a
  match (ringPos b + 4 - p) % 4 with
  | 0 => [[]]
  | 1 => [[upLink p]]
  | 3 => [[downLink p]]
  | _ => [[upLink p, upLink (p + 1)], [downLink p, downLink (p + 3)]]

/-- The path that a flit takes from one die to another: of two, either. -/
def State.diePath (s : State) (a b : Nat) : List Nat × State :=
  let ps := diePaths a b
  let (k, s) := s.pick ps.length
  (ps.getD k [], s)

/-- The links to a stack and back (R312). -/
def toStack (t : Nat) : Nat := 8 + 2 * t
def fromStack (t : Nat) : Nat := 9 + 2 * t

/-- The stack of a target at a stack. -/
def Target.stack? : Target → Option Nat
  | .welt t => some t
  | .awl ch => some (ch / 64)
  | .msc t => some t
  | _ => Option.none

/-- The die of a target; one outside the package is reached from `own`. -/
def State.targetDie (s : State) (t : Target) (own : Nat) : Nat :=
  match t with
  | .l2 k => k / 64
  | .spad g _ => dieOf (s.group g).core
  | .welt t => t / 4
  | .awl ch => ch / 256
  | .msc t => t / 4
  | .core c => dieOf c
  | .host | .peer _ => own

/-- The way of a request from a die, or from the Welt unit of a stack, to its target. -/
def State.wayTo (s : State) (own : Nat) (welt : Option Nat) (t : Target) : List Nat × State :=
  let (p, s) := s.diePath own (s.targetDie t own)
  ((welt.map fromStack).toList ++ p ++ (t.stack?.map toStack).toList, s)

/-- The way of an answer from a target to a die. -/
def State.wayBack (s : State) (t : Target) (own : Nat) : List Nat × State :=
  let (p, s) := s.diePath (s.targetDie t own) own
  ((t.stack?.map fromStack).toList ++ p, s)

/-- A flit of a VD waits on the first link of a way (R312). -/
def State.pushFlit (s : State) (v id : Nat) : List Nat → State
  | [] => s
  | l :: _ => s.setLink l { s.link l with flits := (s.link l).flits ++ [{ vd := v, id := id }] }

/-- A request sets out from its core, or from the Welt unit of a stack. -/
def State.setOut (s : State) (welt : Option Nat) (r : Req) : Req × State :=
  let g := s.group r.group
  let own := (welt.map (fun t => t / 4)).getD (dieOf g.core)
  let (way, s) := s.wayTo own welt r.target
  let (id, s) := s.fresh
  ({ r with id := id, route := way }, s.pushFlit g.vd id way)

/-- Requests set out. -/
def State.setOutAll (s : State) (welt : Option Nat) : List Req → List Req × State
  | [] => ([], s)
  | r :: rs =>
    let (r, s) := s.setOut welt r
    let (rs, s) := s.setOutAll welt rs
    (r :: rs, s)

/-- Requests of the core join those on their way. -/
def State.sendReqs (s : State) (rs : List Req) : State :=
  let (rs, s) := s.setOutAll none rs
  { s with reqs := s.reqs ++ rs }

/-- An answer sets out from its target for the core of a group. -/
def State.sendBack (s : State) (group : Nat) (a : Answer) : State :=
  let g := s.group group
  let (way, s) := s.wayBack a.target (dieOf g.core)
  let (id, s) := s.fresh
  { s with answers := s.answers ++ [{ a with id := id, route := way }] }.pushFlit g.vd id way

end Sys2Proof.Machine
end

