-- ==== Sys2Proof/Machine/PhysMem.lean ====
section
/-! DEFINITION. Physical memory: bytes, poison and tags of sectors (19 R351 to R353, 22 R391; log
entries 13, 20), home maps (18 R326 to R328), page tables (R329), and translation at a Welt unit
(R330 to R332). -/

namespace Sys2Proof.Machine

/-! ### Sectors -/

/-- Memory outside the package (R375). -/
def outside (pa : Nat) : Bool := decide (0x8000_0000_0000 ≤ pa)

/-- The sector of a physical address is not poisoned (R353). Memory outside the package carries no
poison of this one. -/
def State.isSound (s : State) (pa : Nat) : Bool := outside pa || s.sound.contains (pa / 128)

/-- Symbols in error of a stored sector (R351, R352). Memory outside the package carries none of this one's code. -/
def State.errsAt (s : State) (pa : Nat) : Nat := if outside pa then 0 else Tbl.get 0 s.errs (pa / 128)

/-- A sector whose code a checker cannot put right: two symbols in error, or more (R352; log entry 65). -/
def State.isBroken (s : State) (pa : Nat) : Bool := decide (2 ≤ s.errsAt pa)

/-- The stored copy of a sector is put right (R352). -/
def State.mend (s : State) (pa : Nat) : State := { s with errs := Tbl.del s.errs (pa / 128) }

/-- `n` free bytes. -/
def State.freeBytes (s : State) (n : Nat) : List Byte × State :=
  ((List.range n).map (fun i => Config.freeByte (s.free + i)), { s with free := s.free + n })

/-- The sector holds bytes written in the clear, or under no key (R391). -/
def State.inClear (s : State) (pa : Nat) : Bool :=
  match Tbl.get? s.tags (pa / 128) with
  | some t => t.key == 0
  | none => true

/-- Read a structure that the D9 holds in the clear (R391), within one sector: bytes of a poisoned or broken
sector, or of one under a key, are open (log entry 20). -/
def State.readClear1 (s : State) (pa n : Nat) : List Byte × State :=
  if s.isSound pa && !s.isBroken pa && s.inClear pa then (Mem.readN s.mem pa n, s) else s.freeBytes n

/-- Read a structure held in the clear, sector by sector. -/
def State.readClear (s : State) : Nat → Nat → Nat → List Byte × State
  | 0, _, _ => ([], s)
  | fuel + 1, pa, n =>
    if n = 0 then ([], s)
    else
      let k := min n (128 - pa % 128)
      let (a, s) := s.readClear1 pa k
      let (b, s) := s.readClear fuel (pa + k) (n - k)
      (a ++ b, s)

/-- Read `n` bytes of a structure held in the clear. -/
def State.rdBytes (s : State) (pa n : Nat) : List Byte × State := s.readClear (n / 128 + 2) pa n

/-- A little-endian number of `n` bytes in a structure held in the clear. -/
def State.rdNum (s : State) (pa n : Nat) : Nat × State :=
  let (b, s) := s.rdBytes pa n
  (leNat b, s)

/-- A sector is rewritten in the poison form (R353). -/
def State.poison (s : State) (pa : Nat) : State :=
  { s.mend pa with sound := s.sound.filter (fun k => k != pa / 128) }

/-- A sector is sound. -/
def State.cleanse (s : State) (pa : Nat) : State :=
  if outside pa then s else { s with sound := insertNat (pa / 128) s.sound }

/-- Write bytes of one sector: a write of every byte clears poison, and a write of fewer leaves it
(R353); the stored copy is put right (R352). Where the bytes kept were not readable under the new tag, they become open. -/
def State.writeSector (s : State) (pa : Nat) (bytes : Tbl Byte) (tag : Option SecTag) (keep : Bool) :
    State :=
  let base := pa / 128 * 128
  let whole := decide (128 ≤ bytes.length)
  let sound := s.isSound pa
  let (old, s) := if whole || keep then ([], s) else s.freeBytes 128
  let mem := if whole || keep then s.mem else Mem.writeN s.mem base old
  let mem := bytes.foldl (fun m e => Mem.write m (base + e.1) e.2) mem
  let s := { s with mem := mem }.mend pa
  let s := if whole then s.cleanse pa else s
  if outside pa || !(whole || sound) then s
  else { s with tags := match tag with
    | some t => Tbl.set s.tags (pa / 128) t
    | none => Tbl.del s.tags (pa / 128) }

/-- Bytes as a table by offset. -/
def bytesAt (off : Nat) (bs : List Byte) : Tbl Byte := (List.range bs.length).map (fun i => off + i) |>.zip bs

/-- Write a structure held in the clear, sector by sector (R391). -/
def State.writeClear (s : State) : Nat → Nat → List Byte → State
  | 0, _, _ => s
  | fuel + 1, pa, bs =>
    if bs.isEmpty then s
    else
      let k := min bs.length (128 - pa % 128)
      let s := s.writeSector pa (bytesAt (pa % 128) (bs.take k)) none (s.inClear pa)
      s.writeClear fuel (pa + k) (bs.drop k)

/-- Write bytes of a structure held in the clear. -/
def State.wrBytes (s : State) (pa : Nat) (bs : List Byte) : State :=
  s.writeClear (bs.length / 128 + 2) pa bs

/-! ### Ownership of channels -/

/-- The domain that owns a pseudo-channel whole, if any (R302, R304). -/
def State.chanOwner (s : State) (ch : Nat) : Option Nat :=
  (List.range 16).find? (fun k => (s.domain k).valid && (s.domain k).chan.getLsbD ch)

/-- A domain may use a pseudo-channel: it owns it whole, or, being unsealed, shares it (R307). -/
def State.mayUse (s : State) (k ch : Nat) : Bool :=
  match s.chanOwner ch with
  | some o => o == k
  | none => !(s.domain k).sealed

/-- Ascending numbers below `n` whose bit is set from bit `lo`. -/
def bitList {w : Nat} (v : BitVec w) (lo n : Nat) : List Nat :=
  (List.range n).filter (fun i => v.getLsbD (lo + i))

/-- The L2 slices that a domain owns on a die (R306). -/
def State.slicesOf (s : State) (k die : Nat) : List Nat :=
  if (s.domain k).valid then bitList (s.domain k).slices (64 * die) 64 else []

/-- The MSC banks that a domain owns on a stack (R306). -/
def State.banksOf (s : State) (k t : Nat) : List Nat :=
  if (s.domain k).valid then bitList (s.domain k).mscb (32 * t) 32 else []

/-- A domain owns unit `i` of a core (R303); a domain with VALID 0 owns nothing (R305). -/
def State.ownsUnit (s : State) (c k i : Nat) : Bool :=
  let b := Tbl.get 0 (s.core c).own i
  b.getLsbD 7 && b.toNat % 16 == k && (s.domain k).valid

/-- The L2 slice of a line homed on a die, of those that the domain owns there (R306). -/
def State.sliceOf (s : State) (k die va : Nat) : Option Nat :=
  let l := bitsAt va 10 46
  let h := bitsAt l 0 16 ^^^ bitsAt l 16 16 ^^^ bitsAt l 32 14
  let sl := s.slicesOf k die
  (sl[h % max sl.length 1]?).map (fun i => 64 * die + i)

/-- The memory-side cache bank of a physical address on a stack, of those that the domain owns there (R306). -/
def State.bankOf (s : State) (k t pa : Nat) : Option Nat :=
  let m := bitsAt pa 10 30
  let b := s.banksOf k t
  (b[(bitsAt m 0 16 ^^^ bitsAt m 16 14) % max b.length 1]?).map (fun i => 32 * t + i)

/-- Address space of a VD: domain × 64 + VD (R329). -/
def State.asid (s : State) (v : Nat) : Nat := (s.vd v).domain.toNat * 64 + v

/-! ### Home maps (R326 to R328, R339) -/

/-- A granule of the moved-granule table: stack and pseudo-channel of its slot, if it is there. -/
def State.movedSlot (s : State) (base g slot : Nat) : Option (Nat × Nat) × State :=
  let (a, s) := s.rdNum (base + 16 * slot) 8
  if bitsAt a 63 1 = 1 ∧ bitsAt a 0 40 = g then
    let (b, s) := s.rdNum (base + 16 * slot + 8) 8
    (some (bitsAt b 0 4, bitsAt b 4 6), s)
  else (none, s)

/-- Search the eight slots of a granule (R339). -/
def State.movedSearch (s : State) (base g : Nat) : List Nat → Option (Nat × Nat) × State
  | [] => (none, s)
  | j :: js =>
    match s.movedSlot base g ((g + j) % 4096) with
    | (some h, s) => (some h, s)
    | (none, s) => s.movedSearch base g js

/-- An entry of a home cache holds a granule of an address space (R328). -/
def HomeEnt.holds (e : HomeEnt) (asid g : Nat) : Bool :=
  e.asid == asid && decide (e.gran ≤ g) && decide (g < e.gran + e.ngran)

/-- Stack and pseudo-channel of a granule of an entry (R326). -/
def HomeEnt.place (e : HomeEnt) (g : Nat) : Nat × Nat := (e.stack, e.firstch + (g - e.gran) % 2 ^ e.log2ch)

/-- A range of a home map as a home cache holds it (R328). -/
def HomeRange.ent (r : HomeRange) (asid : Nat) : HomeEnt :=
  { asid := asid, gran := r.gran, ngran := r.ngran, stack := r.stack, firstch := r.firstch, log2ch := r.log2ch,
    moved := false }

/-- A die's home cache takes an entry (R328): of its 512 some other one leaves where it is full (log entry 22). -/
def State.holdHome (s : State) (die : Nat) (e : HomeEnt) : State :=
  let c := s.die die
  if c.home.length < 512 then s.setDie die { c with home := e :: c.home }
  else
    let (k, s) := s.pick 512
    s.setDie die { c with home := e :: dropAt k c.home }

/-- Stack and pseudo-channel of an address, seen from a die (R326, R328): the moved-granule table overrides the range;
what the die's home cache does not hold is read from the tables, the range table as it was committed (R327). -/
def State.homeOf (s : State) (v die va : Nat) : Option (Nat × Nat) × State :=
  let g := bitsAt va 16 40
  let d := s.vd v
  let a := s.asid v
  match if d.moved = 0 then none else (s.die die).home.find? (fun e => e.moved && e.holds a g) with
  | some e => (some (e.place g), s)
  | none =>
    match if d.moved = 0 then (none, s) else s.movedSearch d.moved.toNat g (List.range 8) with
    | (some h, s) =>
      (some h, s.holdHome die { asid := a, gran := g, ngran := 1, stack := h.1, firstch := h.2, log2ch := 0, moved := true })
    | (none, s) =>
      match (s.die die).home.find? (fun e => !e.moved && e.holds a g) with
      | some e => (some (e.place g), s)
      | none =>
        match (d.map.map (fun r => r.ent a)).find? (fun e => e.holds a g) with
        | none => (none, s)
        | some e => (some (e.place g), s.holdHome die e)

/-! ### Page tables (R329) -/

/-- Address bits that index a level: lowest bit and count. -/
def levelBits : Nat → Nat × Nat
  | 3 => (43, 13)
  | 2 => (30, 13)
  | 1 => (21, 9)
  | _ => (16, 5)

/-- Bytes that a leaf of a level maps, as a power of two. -/
def leafLog : Nat → Nat
  | 2 => 30
  | 1 => 21
  | _ => 16

/-- Alignment of the table that an entry of a level names, as a power of two. -/
def tableLog : Nat → Nat
  | 3 => 16
  | 2 => 12
  | _ => 8

/-- A page-table walk (R329): the leaf, or the kind and level at which it stops. -/
def State.walk (s : State) (va : Nat) : Nat → Nat → Except (MemKind × Nat) Leaf × State
  | level, table =>
    let (lo, n) := levelBits level
    let (e, s) := s.rdNum (table + 8 * bitsAt va lo n) 8
    let leaf := bitsAt e 6 1 == 1
    let addr := bitsAt e 8 40 * 256
    if bitsAt e 0 1 = 0 then (.error (.invalid, level), s)
    else if bitsAt e 7 1 ≠ 0 ∨ bitsAt e 48 16 ≠ 0 then (.error (.table, level), s)
    else if (level = 0 ∧ !leaf) ∨ (level = 3 ∧ leaf) then (.error (.table, level), s)
    else if leaf then
      if addr % 2 ^ leafLog level ≠ 0 then (.error (.table, level), s)
      else (.ok { addr := addr, level := level, read := bitsAt e 1 1 == 1, write := bitsAt e 2 1 == 1,
                  pin := bitsAt e 3 1 == 1, clear := bitsAt e 4 1 == 1,
                  shared := bitsAt e 5 1 == 1 }, s)
    else if addr % 2 ^ tableLog level ≠ 0 then (.error (.table, level), s)
    else match level with
      | l + 1 => s.walk va l addr
      | 0 => (.error (.table, level), s)

/-- The walk of a VD's tables from ROOT (R325, R329). -/
def State.walkVd (s : State) (v va : Nat) : Except (MemKind × Nat) Leaf × State :=
  s.walk va 3 ((s.vd v).root.toNat * 2 ^ 16)

/-! ### Translation (R330 to R332) -/

/-- Bytes of a stack's MSC scratch that a domain has converted (R324, R330). -/
def State.scratchBytes (s : State) (k t : Nat) : Nat :=
  (s.banksOf k t).length * (s.domain k).scrw.toNat * (768 * 1024)

/-- A physical address is at home for a request of domain `k` routed to a stack and channel (R330). -/
def State.atHome (s : State) (k stack ch pa : Nat) : Bool :=
  if outside pa then
    -- peer memory needs a valid route of the domain (R375, R388)
    if pa < 0xC000_0000_0000 then true
    else
      let r := s.route ((pa - 0xC000_0000_0000) / 2 ^ 40)
      r.valid && r.domain.toNat == k
  else if pa < 2 ^ 40 then
    pa / 2 ^ 36 == stack && bitsAt pa 30 6 == ch && s.mayUse k (64 * stack + ch)
    && decide (pa % 2 ^ 36 < 2 ^ 36 - 2 ^ 24)
  else
    let base := 2 ^ 40 + 2 ^ 32 * stack
    decide (base ≤ pa) && decide (pa - base < s.scratchBytes k stack)

/-- What an access needs (R331): 0 read, 1 write, 2 both. -/
def Leaf.permits (l : Leaf) (acc : BitVec 2) : Bool :=
  match acc.toNat with
  | 0 => l.read
  | 1 => l.write
  | _ => l.read && l.write

/-- The key of a leaf of a level in a TLB. -/
def tlbKey (asid level va : Nat) : Nat := (asid * 2 ^ 40 + va / 2 ^ leafLog level % 2 ^ 40) * 4 + level

/-- The leaves of every size that a TLB holds for an address (R331). -/
def Welt.leaves (w : Welt) (asid va : Nat) : List Leaf := [0, 1, 2].filterMap (fun l => Tbl.get? w.tlb (tlbKey asid l va))

/-- A TLB takes a leaf (R331): of its 4,096 some other one leaves where it is full (log entry 22). -/
def State.holdLeaf (s : State) (stack asid va : Nat) (l : Leaf) : State :=
  let w := s.welt stack
  let key := tlbKey asid l.level va
  if (Tbl.get? w.tlb key).isSome || decide (w.tlb.length < 4096) then
    s.setWelt stack { w with tlb := Tbl.set w.tlb key l }
  else
    let (k, s) := s.pick 4096
    s.setWelt stack { w with tlb := Tbl.set (dropAt k w.tlb) key l }

/-- The leaf that a Welt unit uses: one of the TLB's, or the walk's; where they differ either may serve
until an invalidation (R331, R333). -/
def State.leafFor (s : State) (v stack va : Nat) : Except (MemKind × Nat) Leaf × State :=
  let (w, s) := s.walkVd v va
  let held := (s.welt stack).leaves (s.asid v) va
  let (i, s) := s.pick held.length
  match held[i]? with
  | none => (w, s)
  | some l =>
    let same : Bool := match w with
      | .ok m => m == l
      | .error _ => false
    if same then (w, s)
    else
      let (b, s) := s.flip
      (if b then .ok l else w, s)

/-- The stack's zone is evacuating from step 3 on, or fenced, or the stack is in self-refresh: its requests are held
(R369, R371). -/
def State.stackHeld (s : State) (stack : Nat) : Bool :=
  decide (5 ≤ (s.zone (64 + stack)).state.toNat) || (s.welt stack).refresh

/-- A pseudo-channel holds requests: it is in an all-bank session, or its stack is held (R251, R369). -/
def State.chanHeld (s : State) (stack ch : Nat) : Bool :=
  s.stackHeld stack || (s.chan (64 * stack + ch)).session.isSome

/-- The storage of MSC scratch is the domain's own: where a byte of it stands in `State.mem`, `State.sound` and
`State.tags`, and in the frame registry. Other addresses stand for themselves. -/
def ownScratch (k pa : Nat) : Nat := if 2 ^ 40 ≤ pa ∧ pa < 2 ^ 41 then pa + 2 ^ 41 * k else pa

/-- TRANSLATION at the Welt unit of a stack for a channel (R331): walk, MISHOME, ALIAS, permission;
the leaf and the physical address. -/
def State.translate (s : State) (v stack ch va : Nat) (acc : BitVec 2) :
    Except (MemKind × Nat) (Leaf × Nat) × State :=
  match s.leafFor v stack va with
  | (.error e, s) => (.error e, s)
  | (.ok l, s) =>
    let k := (s.vd v).domain.toNat
    let at_ := l.addr + va % 2 ^ leafLog l.level
    let pa := ownScratch k at_
    let frame := pa / 2 ^ 16
    let asid := s.asid v
    let g := bitsAt va 16 40
    let w := s.welt stack
    let own := Tbl.get? w.frames frame
    let alias_ : Bool := match own with
      | some f => f.asid != asid || f.gran != g
      | none => false
    if !s.atHome k stack ch at_ then (.error (.mishome, l.level), s)
    else if !l.shared && !outside pa && alias_ then (.error (.aliased, l.level), s)
    else if !l.permits acc then (.error (.perm, l.level), s)
    else
      let frames := if l.shared || outside pa || own.isSome then w.frames
        else Tbl.set w.frames frame { asid := asid, gran := g, clear := l.clear }
      (.ok (l, pa), (s.setWelt stack { w with frames := frames }).holdLeaf stack asid va l)

/-- The tag under which an access reads and writes a sector (R352, R391); a SHARED page is tagged by
physical address (log entry 20). -/
def State.tagOf (s : State) (v va pa : Nat) (l : Leaf) : SecTag :=
  let key := if l.clear then 0 else (s.domain (s.vd v).domain.toNat).key
  if l.shared then { va := pa / 128, asid := 2 ^ 20, key := key }
  else { va := va / 128, asid := s.asid v, key := key }

/-- How a sector stands for an access with a tag: readable, open (plain bytes read under a key), or
uncorrectable. -/
inductive SecView where
  | good | garbage | bad
deriving DecidableEq, Repr

def State.viewSector (s : State) (pa : Nat) (tag : SecTag) : SecView :=
  if outside pa then .good
  else if !s.isSound pa || s.isBroken pa then .bad
  else match Tbl.get? s.tags (pa / 128) with
    | none => if tag.key = 0 then .good else .garbage
    | some t => if t = tag then .good else .bad

/-- A checker has corrected a symbol for a VD (R351). -/
def State.noteCorrected (s : State) (v pa : Nat) : State :=
  if s.errsAt pa = 0 then s
  else
    let d := s.vd v
    s.setVD v { d with corr := d.corr + 1 }

/-- The 128 bytes of a sector as an access of a VD with a tag reads them at its home; none where it is
poisoned, or proves uncorrectable and becomes so (R353). The last component says that it became
poisoned now. A symbol in error is corrected in the copy, and raises CORR (R351, R352). -/
def State.readHome (s : State) (v pa : Nat) (tag : SecTag) : Option (List Byte) × Bool × State :=
  match s.viewSector pa tag with
  | .good => (some (Mem.readN s.mem (pa / 128 * 128) 128), false, s.noteCorrected v pa)
  | .garbage => let (b, s) := (s.noteCorrected v pa).freeBytes 128; (some b, false, s)
  | .bad => (none, s.isSound pa, s.poison pa)

/-- A write of some bytes of a sector finds it uncorrectable under a tag (R353). -/
def State.breaks (s : State) (pa : Nat) (tag : SecTag) (bytes : Tbl Byte) : Bool :=
  s.isSound pa && s.viewSector pa tag == .bad && decide (bytes.length < 128)

/-- Write bytes of a sector at its home with a tag, for a VD (R353). A write of fewer than all bytes to a sector that
is uncorrectable under the tag poisons it; one that meets a symbol in error corrects it. -/
def State.writeHome (s : State) (v pa : Nat) (tag : SecTag) (bytes : Tbl Byte) : State :=
  let fixed (s : State) : State := if 128 ≤ bytes.length then s else s.noteCorrected v pa
  match s.viewSector pa tag with
  | .good => (fixed s).writeSector pa bytes (some tag) true
  | .garbage => (fixed s).writeSector pa bytes (some tag) false
  | .bad => (if 128 ≤ bytes.length then s else s.poison pa).writeSector pa bytes (some tag) true

end Sys2Proof.Machine
end

