-- ==== Sys2Proof/Machine/Reports.lean ====
section
/-! DEFINITION. What the D9 writes to its managers: event, error and fault records (18 R334, R335; 19
R349, R350; 21 R385 to R387) and the usage journal (22 R394 to R396). -/

namespace Sys2Proof.Machine

/-- Entries of a ring: other values than `lo` to 16 act as `lo` (R325, R393). -/
def ringSize (lo : Nat) (log2 : BitVec 5) : Nat :=
  2 ^ (if lo ≤ log2.toNat ∧ log2.toNat ≤ 16 then log2.toNat else lo)

/-- FULL: WR + 1 = RD, modulo the size (R325, R349, R385). -/
def Ring.full (r : Ring) : Bool :=
  let n := ringSize 4 r.log2
  (r.wr.toNat + 1) % n == r.rd.toNat % n

/-- Address of the entry at WR. -/
def Ring.slot (r : Ring) (bytes : Nat) : Nat :=
  r.base.toNat + bytes * (r.wr.toNat % ringSize 4 r.log2)

/-- WR advanced, modulo the size. -/
def Ring.step (r : Ring) : Ring :=
  { r with wr := BitVec.ofNat 16 ((r.wr.toNat + 1) % ringSize 4 r.log2) }

/-- Change a VD. -/
def State.modVD (s : State) (v : Nat) (f : VD → VD) : State := s.setVD v (f (s.vd v))

/-- An incarnation is older than another, compared modulo 256 as generations are (log entry 21). -/
def olderIncarn (a b : Byte) : Bool := a != b && decide ((b - a).toNat < 128)

/-- One MSI-X message on a vector. -/
def State.sendMsix (s : State) (v : Nat) : State := { s with msix := Tbl.upd 0 s.msix v (fun n => n + 1) }

/-- The package log receives an entry, with its message (R373). -/
def State.logPkg (s : State) (e : LogEnt) : State := { s with log := s.log ++ [e] }.sendMsix 64

/-- POST AN EVENT (R387). -/
def State.postEvent (s : State) (v : Nat) (incarn : Byte) (kind src detail : Nat) : State :=
  let d := s.vd v
  if olderIncarn incarn d.incarn then
    s.setVD v { d with evq := { d.evq with dropped := d.evq.dropped + 1 } }
  else if d.evq.full then
    s.setVD v { d with evq := { d.evq with lost := d.evq.lost + 1 } }
  else
    let rec_ := kind % 256 + incarn.toNat * 2 ^ 8 + src % 65536 * 2 ^ 16 + detail % 2 ^ 32 * 2 ^ 32 +
      s.clock % 2 ^ 64 * 2 ^ 64
    let s := s.wrBytes (d.evq.slot 32) (leBytes 32 rec_)
    let s := s.modVD v (fun d => { d with evq := d.evq.step })
    -- an event wakes the cores with a team of the VD (R40)
    let here := s.allTeams.filter (fun t => (s.group t.group).vd == v && !s.isSaved t.group)
    let cores := (here.map (fun t => s.coreOf t)).eraseDups
    let s := cores.foldl (fun s c => s.wakeCause c 4) s
    if d.pause then s else s.sendMsix v

/-- What an error record says (R350). -/
structure ErrRec where
  kind  : Nat
  ctx   : Nat
  va    : Nat
  pc    : Nat
  word  : Nat
  core  : Nat
  quad  : Nat
  row   : Nat
  col   : Nat
  acc   : Nat
  stack : Nat
  chan  : Nat
  synd  : Nat
  pass  : Nat
deriving DecidableEq, Repr

/-- A record with only its kind, team and address. -/
def errRec (kind ctx va : Nat) : ErrRec :=
  { kind := kind, ctx := ctx, va := va, pc := 0, word := 0, core := 0, quad := 0, row := 0, col := 0,
    acc := 0, stack := 0, chan := 0, synd := 0, pass := 0 }

/-- The 64 bytes of an error record (R350). -/
def State.errBytes (s : State) (v : Nat) (incarn : Byte) (r : ErrRec) : List Byte :=
  leBytes 64 (r.kind + (s.vd v).domain.toNat * 2 ^ 8 + v % 64 * 2 ^ 12 + incarn.toNat * 2 ^ 18 +
    r.ctx % 2 ^ 20 * 2 ^ 32 + r.va % 2 ^ 64 * 2 ^ 64 + r.pc % 2 ^ 64 * 2 ^ 128 + r.word % 256 * 2 ^ 192 +
    r.core % 1024 * 2 ^ 200 + r.quad % 4 * 2 ^ 210 + r.row % 32 * 2 ^ 212 + r.col % 32 * 2 ^ 217 +
    r.acc % 8 * 2 ^ 222 + r.stack % 16 * 2 ^ 232 + r.chan % 64 * 2 ^ 236 + r.synd % 2 ^ 64 * 2 ^ 256 +
    s.clock % 2 ^ 64 * 2 ^ 320 + r.pass % 2 ^ 64 * 2 ^ 384)

/-- AN ERROR REPORT (R348, R350): dropped for an older incarnation, lost when the queue is full, else
written, with its event. It wakes the team's core (R40). -/
def State.errorReport (s : State) (v : Nat) (incarn : Byte) (r : ErrRec) : State :=
  let s := match s.team? r.ctx with
    | some t => s.wakeCause (s.coreOf t) 7
    | none => s
  let d := s.vd v
  if olderIncarn incarn d.incarn then
    s.setVD v { d with eq := { d.eq with dropped := d.eq.dropped + 1 },
                       usage := { d.usage with dropped := d.usage.dropped + 1 } }
  else if d.eq.full then
    s.setVD v { d with eq := { d.eq with lost := d.eq.lost + 1 },
                       usage := { d.usage with lost := d.usage.lost + 1 } }
  else
    let at_ := d.eq.wr.toNat % ringSize 4 d.eq.log2
    let s := s.wrBytes (d.eq.slot 64) (s.errBytes v incarn r)
    let s := s.modVD v (fun d => { d with eq := d.eq.step,
                                          usage := { d.usage with posted := d.usage.posted + 1 } })
    s.postEvent v incarn 7 0 at_

/-- The error report of a sector found uncorrectable (R353). Its syndrome is open (log entry 20). -/
def State.reportPoisoned (s : State) (v : Nat) (incarn : Byte) (ctx va pc word core stack ch : Nat) :
    State :=
  let syn := (Config.freeVal s.free).toNat
  { s with free := s.free + 1 }.errorReport v incarn
    { errRec 1 ctx (va / 128 * 128) with
      pc := pc, word := word, core := core, stack := stack, chan := ch, synd := syn }

/-- KIND codes of a fault record (R334). -/
def MemKind.code : MemKind → Nat
  | .nohome => 1
  | .invalid => 2
  | .perm => 3
  | .aliased => 4
  | .mishome => 5
  | .table => 6
  | .noncanon => 7
  | .bound => 8

/-- Where FULL allows it, write a fault record and post its event (R334, R335). -/
def State.writeFault (s : State) (v : Nat) (incarn : Byte) (rec_ : List Byte) : State :=
  let d := s.vd v
  let at_ := d.fq.wr.toNat % ringSize 4 d.fq.log2
  let s := s.wrBytes (d.fq.slot 64) rec_
  let s := s.modVD v (fun d => { d with fq := d.fq.step })
  s.postEvent v incarn 6 0 at_

/-- A FAULT RECORD is due (R335): held while the queue is full, or while older records are. -/
def State.faultRecord (s : State) (v : Nat) (incarn : Byte) (rec_ : List Byte) : State :=
  let d := s.vd v
  if d.fq.full || !d.fqHeld.isEmpty then s.setVD v { d with fqHeld := d.fqHeld ++ [rec_] }
  else s.writeFault v incarn rec_

/-- Held records that now fit are written in order (R335). -/
def State.drainFaults (s : State) (v : Nat) : Nat → State
  | 0 => s
  | fuel + 1 =>
    let d := s.vd v
    match d.fqHeld with
    | [] => s
    | r :: rs =>
      if d.fq.full then s
      else ((s.setVD v { d with fqHeld := rs }).writeFault v (r.getD 28 0) r).drainFaults v fuel

/-! ### The usage journal (R394 to R396) -/

/-- Change a domain. -/
def State.modDomain (s : State) (k : Nat) (f : Domain → Domain) : State := s.setDomain k (f (s.domain k))

/-- Slots of the journal ring that are free (R393). -/
def Domain.freeSlots (d : Domain) : Nat :=
  let n := ringSize 8 d.jnlLog
  n - 1 - (d.jnlWr.toNat + n - d.jnlRd.toNat % n) % n

/-- Write slots of 64 bytes to the journal ring. -/
def State.putSlots (s : State) (k : Nat) : Nat → List Byte → State
  | 0, _ => s
  | fuel + 1, bs =>
    if bs.isEmpty then s
    else
      let d := s.domain k
      let n := ringSize 8 d.jnlLog
      let s := s.wrBytes (d.jnlBase.toNat + 64 * (d.jnlWr.toNat % n)) (bs.take 64)
      let s := s.modDomain k (fun d => { d with jnlWr := BitVec.ofNat 16 ((d.jnlWr.toNat + 1) % n) })
      s.putSlots k fuel (bs.drop 64)

/-- Held records that fit are written in order (R396). -/
def State.drainJournal (s : State) (k : Nat) : Nat → State
  | 0 => s
  | fuel + 1 =>
    let d := s.domain k
    match d.held with
    | [] => s
    | r :: rs =>
      if d.jnlBase = 0 ∨ d.freeSlots < r.length / 64 then s
      else ((s.setDomain k { d with held := rs }).putSlots k (r.length / 64) r).drainJournal k fuel

/-- APPEND A RECORD to a domain's journal (R395): chained, then written or held (R396); `more` are
unchained slots that follow it. With no ring it is chained only. -/
def State.journal (s : State) (k kind v : Nat) (incarn : Byte) (q : List Nat) (more : List Byte) : State :=
  let d := s.domain k
  let seq := d.seq + 1
  let n := kind + v % 64 * 2 ^ 8 + incarn.toNat * 2 ^ 16 + seq.toNat * 2 ^ 64 + s.clock % 2 ^ 64 * 2 ^ 128 +
    q.getD 0 0 % 2 ^ 64 * 2 ^ 192 + q.getD 1 0 % 2 ^ 64 * 2 ^ 256 + q.getD 2 0 % 2 ^ 64 * 2 ^ 320 +
    q.getD 3 0 % 2 ^ 64 * 2 ^ 384
  let rec_ := leBytes 64 n
  let head := Config.sha3 (leBytes 32 d.head.toNat ++ rec_)
  let s := s.setDomain k { d with
    seq := seq, head := head, held := if d.jnlBase = 0 then d.held else d.held ++ [rec_ ++ more] }
  s.drainJournal k (d.held.length + 1)

end Sys2Proof.Machine
end

