-- ==== Sys2Proof/Machine/Lines.lean ====
section
/-! DEFINITION. Lines of the L2 slices, the memory-side caches and the remote-data caches: ways, victims, fill buckets
and LINES (10 R258, R259; 17 R306, R310, R317, R318); the sorters of the pseudo-channels that they fill from (17 R321,
R323); and what the memory side holds of a sector that stands dirty above it (log entry 22). -/

namespace Sys2Proof.Machine

/-! ### Keys -/

/-- The key of a sector in a cache: address space and VA. -/
def State.secKey (s : State) (v va : Nat) : Nat := s.asid v * 2 ^ 49 + va % 2 ^ 56 / 128

/-- The VD of a cache key. -/
def keyVd (key : Nat) : Nat := key / 2 ^ 49 % 64
/-- The address of a cache key. -/
def keyVa (key : Nat) : Nat := key % 2 ^ 49 * 128

/-- The line of a sector. -/
def lineOf (key : Nat) : Nat := key / 8

/-- The stack of a physical address of the package, and its pseudo-channel in stacked memory. -/
def paStack (pa : Nat) : Nat := if pa < 2 ^ 40 then pa / 2 ^ 36 else (pa % 2 ^ 41 - 2 ^ 40) / 2 ^ 32
def paChan (pa : Nat) : Nat := bitsAt pa 30 6

/-! ### The way of a fill (R317) -/

/-- The entry with the least value of `f`, the first among equals. -/
def leastBy {α : Type} (f : α → Nat) : List α → Option α
  | [] => none
  | x :: t => match leastBy f t with
    | some y => if f y < f x then some y else some x
    | none => some x

/-- The way that a fill takes (R317), of those that the filler may fill, `mine`: an invalid one; one of its domain's,
`own`, borrowed for a token; the one whose filler may no longer fill it, then any, the least recently used. None where
mask and ownership have no way in common. `line` gives filler and last use of the line in a way; the second component
says that a token is spent. -/
def fillWay (line : Nat → Option (Nat × Nat)) (mine own : List Nat) (token : Bool) (allows : Nat → Nat → Bool) :
    Option Nat × Bool :=
  match mine with
  | [] => (none, false)
  | _ :: _ =>
    let free (w : Nat) : Bool := (line w).isNone
    match mine.find? free, if token then own.find? free else none with
    | some w, _ => (some w, false)
    | none, some w => (some w, true)
    | none, none =>
      let use (w : Nat) : Nat := (line w).elim 0 (fun x => x.2)
      let stale := mine.filter (fun w => (line w).elim false (fun x => !allows x.1 w))
      ((leastBy use stale).orElse (fun _ => leastBy use mine), false)

/-! ### LINES (R318) and fill buckets (R310) -/

/-- LINES of an instance when its lines, as line and filler, have changed: one for each valid line that a VD filled. -/
def recount (t : Tbl Nat) (inst : Nat) (old new : List (Nat × Nat)) : Tbl Nat :=
  (((old ++ new).map (fun x => x.2)).eraseDups).foldl (fun t v =>
    Tbl.set t (64 * inst + v) (new.filter (fun x => x.2 == v)).length) t

/-- Lines with their fillers. -/
def fillers (ls : List CacheLine) : List (Nat × Nat) := ls.map (fun l => (l.line, l.vd))

/-- The lines of an L2 slice. -/
def State.setL2 (s : State) (slice : Nat) (ls : List CacheLine) : State :=
  { s with l2 := Tbl.set s.l2 slice ls
           lines := recount s.lines slice (fillers (Tbl.get [] s.l2 slice)) (fillers ls) }

/-- The lines of a memory-side cache bank. -/
def State.setMsc (s : State) (bank : Nat) (ls : List CacheLine) : State :=
  { s with msc := Tbl.set s.msc bank ls
           lines := recount s.lines (256 + bank) (fillers (Tbl.get [] s.msc bank)) (fillers ls) }

/-- The instance numbers of a memory-side cache bank and of an RDC part among the fill buckets. -/
def mscInst (bank : Nat) : Nat := 256 + bank
def rdcInst (slice : Nat) : Nat := 768 + slice

/-- LEVEL of a VD's fill bucket in an instance: where it has spent nothing there, that of an untouched one. -/
def State.fillLevel (s : State) (inst v : Nat) (b : Bucket) : BitVec 12 := Tbl.get b.level s.fills (64 * inst + v)

/-- A borrowed fill spends a token (R314, R317). -/
def State.spendFill (s : State) (inst v : Nat) (b : Bucket) : State :=
  { s with fills := Tbl.set s.fills (64 * inst + v) (s.fillLevel inst v b - 1) }

/-! ### Lines of an instance -/

/-- A sector of a line, where the instance holds it. -/
def lineSec (ls : List CacheLine) (line sec : Nat) : Option LineSec :=
  (ls.find? (fun l => l.line == line)).bind (fun l => Tbl.get? l.secs sec)

/-- The set of a line. -/
def setOf (sets line : Nat) : Nat := line % 2 ^ 46 % sets

/-- The way that a fill of a line takes in an instance. -/
def lineWay (ls : List CacheLine) (sets line : Nat) (mine own : List Nat) (token : Bool) (allows : Nat → Nat → Bool) :
    Option Nat × Bool :=
  fillWay (fun w => (ls.find? (fun l => setOf sets l.line == setOf sets line && l.way == w)).map (fun l => (l.vd, l.time)))
    mine own token allows

/-- A sector in a line that stands, which is used now; what stood dirty stays so. -/
def putSec (now line sec : Nat) (x : LineSec) (ls : List CacheLine) : List CacheLine :=
  updFirst (fun (l : CacheLine) => l.line == line) (fun l =>
    let old := (Tbl.get? l.secs sec).elim false (fun y => y.dirty)
    { l with time := now, secs := Tbl.set l.secs sec { x with dirty := x.dirty || old } }) ls

/-- The lines of an instance without the sectors that `p` selects, by the VD that filled the line and by key; a line
without any has gone. -/
def dropSecs (p : Nat → Nat → LineSec → Bool) (ls : List CacheLine) : List CacheLine :=
  (ls.map (fun l => { l with secs := l.secs.filter (fun e => !p l.vd (8 * l.line + e.1) e.2) })).filter (fun l =>
    !l.secs.isEmpty)

/-- The dirty sectors of some lines, with their VDs. -/
def dirtySecs (ls : List CacheLine) : List (Nat × Nat × LineSec) :=
  ls.flatMap (fun l => (l.secs.filter (fun e => e.2.dirty)).map (fun e => (l.vd, 8 * l.line + e.1, e.2)))

/-! ### What stands above the memory side -/

/-- A sector as it stands. -/
def State.image (s : State) (pa : Nat) : SecImg :=
  { bytes := Mem.readN s.mem (pa / 128 * 128) 128, sound := s.sound.contains (pa / 128), tag := Tbl.get? s.tags (pa / 128) }

/-- A sector holds an image again. -/
def State.putImage (s : State) (q : Nat) (x : SecImg) : State :=
  { s with
    mem := Mem.writeN s.mem (128 * q) x.bytes
    sound := if x.sound then insertNat q s.sound else s.sound.filter (fun k => k != q)
    errs := Tbl.del s.errs q
    tags := match x.tag with
      | some t => Tbl.set s.tags q t
      | none => Tbl.del s.tags q }

/-- A sector of stacked memory is about to be written in an L2 slice: what the memory side holds is kept. -/
def State.soil (s : State) (pa : Nat) : State :=
  if 2 ^ 40 ≤ pa ∨ (Tbl.get? s.under (pa / 128)).isSome then s
  else { s with under := Tbl.set s.under (pa / 128) (s.image pa) }

/-- A sector stands dirty in a slice, or is on its way from there. -/
def State.isSoiled (s : State) (q : Nat) : Bool :=
  s.l2.any (fun e => e.2.any (fun l => l.secs.any (fun x => x.2.dirty && x.2.pa / 128 == q)))
  || s.trips.any (fun t => t.wb && t.found.elim false (fun f => f.2 / 128 == q))

/-- The memory side holds a sector as it stands. -/
def State.sink (s : State) (pa : Nat) : State :=
  if s.isSoiled (pa / 128) then { s with under := Tbl.set s.under (pa / 128) (s.image pa) }
  else { s with under := Tbl.del s.under (pa / 128) }

/-- Sectors of the L2 slices and the memory-side caches, by filler and physical address, are written back and
invalidated. -/
def State.lowerLines (s : State) (p : Nat → Nat → Bool) : State :=
  let drop := dropSecs (fun v _ x => p v x.pa)
  let s := s.l2.foldl (fun s e => s.setL2 e.1 (drop e.2)) s
  let s := s.msc.foldl (fun s e => s.setMsc e.1 (drop e.2)) s
  let s := { s with trips := s.trips.filter (fun t => !(t.wb && t.found.elim false (fun f => p t.vd f.2))) }
  { s with under := s.under.filter (fun e => s.isSoiled e.1) }

/-! ### The sorter of a pseudo-channel (R321, R323) -/

/-- 32-byte beats of some bytes of a sector, given by offset. -/
def beatsOf (offs : List Nat) : Nat := ((offs.map (fun o => o / 32)).eraseDups).length

/-- Every byte of a sector. -/
def wholeSec : List Nat := List.range 128

/-- Class of a VD as a number: 0 A, 1 B, 2 C. -/
def State.clsOf (s : State) (v : Nat) : Nat := (s.vd v).cls.toNat

/-- The age cap of a class, in cycles (R320). -/
def Channel.cap (c : Channel) (cls : Nat) : Nat :=
  8 * (if cls = 0 then c.capA else if cls = 1 then c.capB else c.capC).toNat

/-- The contract of a VD on a channel. -/
def Channel.of (c : Channel) (v : Nat) : Contract := Tbl.get resetContract c.contract v

/-- A request is credited (R321). -/
def Channel.credited (c : Channel) (r : ChanReq) : Bool := decide (r.beats ≤ (c.of r.vd).credit)

/-- A borrowed request that tokens cover (R321). -/
def Channel.funded (c : Channel) (r : ChanReq) : Bool := !c.credited r && decide (r.beats ≤ (c.of r.vd).level.toNat)

/-- The deadline that a class-A request of `n` beats gets when it arrives (R323): none where its VD has no GUAR. -/
def Channel.deadline (c : Channel) (v n clock : Nat) : Option Nat :=
  let g := (c.of v).guar.toNat
  if g = 0 then none
  else
    let b := (c.queue.filter (fun x => x.vd == v && x.due.isSome)).foldl (fun a x => a + x.beats) 1
    let t := if b + n ≤ (c.of v).credit then clock else (clock / 1024 + 1) * 1024
    some (t + c.cap 0 + (1024 * (b + n) + g - 1) / g)

/-- A request enters the sorter of a pseudo-channel (R321, R323). -/
def State.queueReq (s : State) (ch v pa : Nat) (offs : List Nat) (read : Bool) : State :=
  let c := s.chan ch
  let n := beatsOf offs
  let r : ChanReq := { vd := v, sector := pa / 128, offs := offs, beats := n, read := read, time := s.clock
                       due := if s.clsOf v = 0 then c.deadline v n s.clock else none }
  s.setChan ch { c with queue := c.queue ++ [r] }

/-! ### The memory-side caches (R258, R306, R324) -/

/-- Sets of a memory-side cache bank, of an L2 slice and of an RDC part: 12 MiB, 3 MiB and 512 KiB in 16 ways (R258, R302). -/
def mscSets : Nat := 768
def l2Sets : Nat := 192
def rdcSets : Nat := 32

/-- The memory-side cache ways that a domain has not converted (R324). -/
def State.mscOwn (s : State) (k : Nat) : List Nat := List.range (16 - (s.domain k).scrw.toNat)

/-- The memory-side cache ways that a VD may fill (R310, R324). -/
def State.mscMine (s : State) (v : Nat) : List Nat :=
  (s.mscOwn (s.vd v).domain.toNat).filter (fun w => (s.vd v).ways.getLsbD (32 + w))

/-- Lines leave a memory-side cache: what is dirty is written to stacked memory. -/
def State.leaveMsc (s : State) (ls : List CacheLine) : State :=
  (dirtySecs ls).foldl (fun s x =>
    let pa := x.2.2.pa
    s.queueReq (64 * paStack pa + paChan pa) x.1 pa wholeSec false) s

/-- A bank holds a sector. -/
def State.inMsc (s : State) (k pa : Nat) : Bool :=
  (s.bankOf k (paStack pa) pa).elim false (fun b => (lineSec (Tbl.get [] s.msc b) (pa / 1024) (pa / 128 % 8)).isSome)

/-- A sector of stacked memory in its bank, filled where it is not there (R317): whether it stands there now. -/
def State.fillMsc (s : State) (v : Nat) (x : LineSec) : Bool × State :=
  let line := x.pa / 1024
  let sec := x.pa / 128 % 8
  match s.bankOf (s.vd v).domain.toNat (paStack x.pa) x.pa with
  | none => (false, s)
  | some b =>
    let ls := Tbl.get [] s.msc b
    let (now, s) := s.fresh
    if ls.any (fun l => l.line == line) then (true, s.setMsc b (putSec now line sec x ls))
    else
      let bkt := (s.vd v).bktMsc
      match lineWay ls mscSets line (s.mscMine v) (s.mscOwn (s.vd v).domain.toNat) (s.fillLevel (mscInst b) v bkt != 0)
          (fun u w => (s.vd u).ways.getLsbD (32 + w)) with
      | (none, _) => (false, s)
      | (some w, token) =>
        let s := if token then s.spendFill (mscInst b) v bkt else s
        let out (l : CacheLine) : Bool := setOf mscSets l.line == setOf mscSets line && l.way == w
        let s := s.leaveMsc (ls.filter out)
        (true, s.setMsc b ({ line := line, way := w, vd := v, time := now, secs := [(sec, x)] } :: ls.filter (fun l => !out l)))

/-- Bytes of a sector are written at the memory side (R260, R324): in its bank, or, where it may not stand there, in
stacked memory. MSC scratch is the storage itself. -/
def State.writeMsc (s : State) (v : Nat) (l : Leaf) (pa : Nat) (offs : List Nat) : State :=
  if 2 ^ 40 ≤ pa then s
  else match s.fillMsc v { leaf := l, pa := pa, dirty := true } with
    | (true, s) => s.sink pa
    | (false, s) => (s.queueReq (64 * paStack pa + paChan pa) v pa offs false).sink pa

/-! ### Flits and trips (R260, R312) -/

/-- The links on which traffic for a physical address leaves the package (R375, R388): those of the peer
route, one of which carries it. -/
def State.peerLinks (s : State) (pa : Nat) : List Nat :=
  if pa < 0xC000_0000_0000 then []
  else (bitList (s.route ((pa - 0xC000_0000_0000) / 2 ^ 40)).links 0 12).map (fun l => 40 + l)

/-- The way of an access to memory outside the package: a peer link, or none for the host. -/
def State.outPath (s : State) (pa : Nat) : List Nat × State :=
  let ls := s.peerLinks pa
  let (k, s) := s.pick ls.length
  ((ls[k]?).toList, s)

/-- A trip stands as given. -/
def State.putTrip (s : State) (t : Trip) : State :=
  if s.trips.any (fun x => x.id == t.id) then
    { s with trips := updFirst (fun (x : Trip) => x.id == t.id) (fun _ => t) s.trips }
  else { s with trips := s.trips ++ [t] }

/-- A trip is over. -/
def State.dropTrip (s : State) (id : Nat) : State := { s with trips := s.trips.filter (fun x => x.id != id) }

/-- A trip sets out on a way. -/
def State.depart (s : State) (t : Trip) (st : TripStage) (way : List Nat) : State × Trip :=
  (s.pushFlit t.vd t.id way, { t with stage := st, route := way })

/-! ### L2 slices (R306, R310) -/

/-- The L2 ways that a VD may fill. -/
def State.l2Mine (s : State) (v : Nat) : List Nat := (List.range 16).filter (fun w => (s.vd v).ways.getLsbD (16 + w))

/-- Lines leave an L2 slice: their dirty sectors set out for the memory side (R260). -/
def State.leaveL2 (s : State) (ls : List CacheLine) : State :=
  (dirtySecs ls).foldl (fun s x =>
    let (id, s) := s.fresh
    let t := paStack x.2.2.pa
    let (s, trip) := s.depart
      { id := id, vd := x.1, va := keyVa x.2.1, acc := 1, core := 0, near := .die (t / 4), stack := t
        ch := paChan x.2.2.pa, stage := .toStack, route := [], wb := true, fault := none
        found := some (x.2.2.leaf, x.2.2.pa), used := false, ctx := 0, pc := 0, word := 0 } .toStack [toStack t]
    s.putTrip trip) s

/-- A sector in its home slice, filled where it is not there (R317). -/
def State.fillL2 (s : State) (v die va : Nat) (x : LineSec) : State :=
  let key := s.secKey v va
  match s.sliceOf (s.vd v).domain.toNat die va with
  | none => s
  | some sl =>
    let ls := Tbl.get [] s.l2 sl
    let (now, s) := s.fresh
    if ls.any (fun l => l.line == lineOf key) then s.setL2 sl (putSec now (lineOf key) (key % 8) x ls)
    else
      let bkt := (s.vd v).bktL2
      match lineWay ls l2Sets (lineOf key) (s.l2Mine v) (List.range 16) (s.fillLevel sl v bkt != 0)
          (fun u w => (s.vd u).ways.getLsbD (16 + w)) with
      | (none, _) => s
      | (some w, token) =>
        let s := if token then s.spendFill sl v bkt else s
        let out (l : CacheLine) : Bool := setOf l2Sets l.line == setOf l2Sets (lineOf key) && l.way == w
        let s := s.leaveL2 (ls.filter out)
        s.setL2 sl ({ line := lineOf key, way := w, vd := v, time := now, secs := [(key % 8, x)] } :: ls.filter (fun l => !out l))

/-- The sector of an address in its home slice, where its page permits the access. -/
def State.inL2 (s : State) (v die va : Nat) (acc : BitVec 2) : Option LineSec :=
  let key := s.secKey v va
  ((s.sliceOf (s.vd v).domain.toNat die va).bind (fun sl =>
    lineSec (Tbl.get [] s.l2 sl) (lineOf key) (key % 8))).filter (fun x => x.leaf.permits acc)

/-- The Welt unit counts an access for the tracker (R338). -/
def State.countPage (s : State) (v stack va core : Nat) : State :=
  if !(s.vd v).migr then s
  else
    let w := s.welt stack
    s.setWelt stack { w with
      counts := Tbl.upd 0 w.counts ((v * 2 ^ 40 + bitsAt va 16 40) * 4 + dieOf core) (fun n => n + 1) }

/-- The way back of a trip from the home slice. -/
def State.homeward (s : State) (t : Trip) : List Nat × State :=
  match t.near with
  | .die d => s.diePath (t.stack / 4) d
  | .welt w => let (p, s) := s.diePath (t.stack / 4) (w / 4); (p ++ [toStack w], s)
  | .msc _ | .outside => ([], s)

/-- A trip goes on from where it stands until it waits (R260): on a link, at a stack that holds requests, or in the
sorter of its channel. -/
def State.runTrip : Nat → State → Trip → State
  | 0, s, t => s.putTrip t
  | n + 1, s, t =>
    if !t.route.isEmpty then s.putTrip t
    else match t.stage with
    | .toHome =>
      match s.inL2 t.vd (t.stack / 4) t.va t.acc with
      | some x =>
        let (p, s) := s.homeward t
        let (s, t) := s.depart { t with found := some (x.leaf, x.pa) } .toDie p
        State.runTrip n s t
      | none => let (s, t) := s.depart t .toStack [toStack t.stack]; State.runTrip n s t
    | .toStack => State.runTrip n s { t with stage := .atStack }
    | .atStack =>
      if t.wb then
        match t.found with
        | some (l, pa) => (s.dropTrip t.id).writeMsc t.vd l pa wholeSec
        | none => s.dropTrip t.id
      else if s.chanHeld t.stack t.ch then s.putTrip t
      else
        let back (s : State) (t : Trip) : State × Trip :=
          s.depart t .fromStack (match t.near with
            | .msc _ => []
            | _ => [fromStack t.stack])
        match s.translate t.vd t.stack t.ch t.va t.acc with
        | (.error e, s) => let (s, t) := back s { t with fault := some e }; State.runTrip n s t
        | (.ok (l, pa), s) =>
          let s := s.countPage t.vd t.stack t.va t.core
          let t := { t with found := some (l, pa) }
          if outside pa then
            let (p, s) := s.outPath pa
            let (s, t) := s.depart t .toPeer p
            State.runTrip n s t
          else if 2 ^ 40 ≤ pa || s.inMsc (s.vd t.vd).domain.toNat pa then
            let (_, s) := if pa < 2 ^ 40 then s.fillMsc t.vd { leaf := l, pa := pa, dirty := false } else (true, s)
            let (s, t) := back s t
            State.runTrip n s t
          else
            (s.queueReq (64 * t.stack + t.ch) t.vd pa wholeSec true).putTrip { t with stage := .inChan }
    | .toPeer =>
      let (s, t) := s.depart t .fromStack (match t.near with
        | .msc _ => []
        | _ => [fromStack t.stack])
      State.runTrip n s t
    | .fromStack =>
      let s := match t.near, t.found with
        | .msc _, _ => s
        | _, some (l, pa) =>
          if l.shared || outside pa then s else s.fillL2 t.vd (t.stack / 4) t.va { leaf := l, pa := pa, dirty := false }
        | _, none => s
      let (p, s) := s.homeward t
      let (s, t) := s.depart t .toDie p
      State.runTrip n s t
    | .toDie => State.runTrip n s { t with stage := .done }
    | .inChan | .done => s.putTrip t

/-- Steps that a trip takes at most without waiting. -/
def tripLen : Nat := 8

/-- Two trips ask the same. -/
def Trip.like (a b : Trip) : Bool :=
  !a.wb && !b.wb && a.vd == b.vd && a.va == b.va && a.acc == b.acc && decide (a.near = b.near)

/-- The first way of a trip. -/
def State.outward (s : State) (t : Trip) : State × Trip :=
  match t.near with
  | .die d => let (p, s) := s.diePath d (t.stack / 4); s.depart t .toHome p
  | .welt w => let (p, s) := s.diePath (w / 4) (t.stack / 4); s.depart t .toHome (fromStack w :: p)
  | .msc _ | .outside => s.depart t .atStack []

/-- A home access is asked for: it sets out, or one like it that is under way goes on where it waited. -/
def State.sendTrip (s : State) (t : Trip) : State :=
  match s.trips.find? t.like with
  | some x => State.runTrip tripLen s x
  | none =>
    let (id, s) := s.fresh
    let (s, t) := s.outward { t with id := id }
    State.runTrip tripLen s t

/-- What has been translated for some addresses is forgotten: it is translated afresh (R251, R333). -/
def State.resetTrips (s : State) (p : Trip → Bool) : State :=
  let past (t : Trip) : Bool := match t.stage with
    | .toHome | .toStack | .atStack => false
    | _ => !t.wb && p t
  { s with trips := s.trips.map (fun t =>
      if past t then { t with stage := .atStack, route := [], fault := none, found := none } else t) }

/-- A page of no permission. -/
def noLeaf : Leaf :=
  { addr := 0, level := 0, read := false, write := false, pin := false, clear := false, shared := false }

/-- What a channel request has read comes to the memory-side cache, and the trips that wait for it go on (R260). -/
def State.chanRead (s : State) (ch : Nat) (r : ChanReq) : State :=
  let waits (t : Trip) : Bool :=
    decide (t.stage = .inChan) && t.vd == r.vd && 64 * t.stack + t.ch == ch && t.found.elim false (fun f => f.2 / 128 == r.sector)
  (s.trips.filter waits).foldl (fun s t =>
    let (_, s) := s.fillMsc t.vd { leaf := t.found.elim noLeaf (fun f => f.1), pa := 128 * r.sector, dirty := false }
    let (s, t) := s.depart t .fromStack (match t.near with
      | .msc _ => []
      | _ => [fromStack t.stack])
    State.runTrip tripLen s t) s

/-! ### Steps that are tried (log entry 22) -/

/-- A step that needs home accesses: tried, it takes effect where they are all there, and else waits for the first that
is wanting, or as long as it must. -/
def State.unlessHeld (s : State) (f : State → State) : State :=
  let t := f { s with holds := .on }
  match t.holds with
  | .want w => s.sendTrip w
  | .wait => s
  | .on | .off => { t with holds := .off, trips := t.trips.filter (fun x => !x.used) }

/-- A home access is wanting. -/
def State.want (s : State) (t : Trip) : State :=
  match s.holds with
  | .on => { s with holds := .want t }
  | .off | .want _ | .wait => s

/-- The step that is tried must wait. -/
def State.hold (s : State) : State :=
  match s.holds with
  | .on => { s with holds := .wait }
  | .off | .want _ | .wait => s

end Sys2Proof.Machine
end

