-- ==== Sys2Proof/Machine/Cache.lean ====
section
/-! DEFINITION. The data caches that a program can tell from their home: L1 (10 R262, R263; 17
R317), the remote-data caches (R263), the constant and tile paths (R264); the home slice (R260); and reads and
writes of virtual memory through them. -/

namespace Sys2Proof.Machine

/-- For whom an access is made: core, VD with its incarnation, team, and instruction; whence; and, where older accesses
of the team come first, the sequence number of the instruction (R215). -/
structure Who where
  core   : Nat
  vd     : Nat
  incarn : Byte
  ctx    : Nat
  pc     : Nat
  word   : Nat
  near   : Near
  after  : Option (BitVec 16)
deriving DecidableEq, Repr

/-! ### The home of an access (R260) -/

/-- The die whose home cache an access consults (R328). -/
def Who.die (w : Who) : Nat :=
  match w.near with
  | .die d => d
  | .welt t | .msc t => t / 4
  | .outside => dieOf w.core

/-- Where an access finds its home: the leaf, the physical address, the stack and the pseudo-channel. -/
structure Home where
  leaf  : Leaf
  pa    : Nat
  stack : Nat
  ch    : Nat
deriving DecidableEq, Repr

/-- A sector moves from its home slice to the memory side, for a far atomic (R184). -/
def State.moveDown (s : State) (v stack va : Nat) : State :=
  let key := s.secKey v va
  match s.sliceOf (s.vd v).domain.toNat (stack / 4) va with
  | none => s
  | some sl =>
    let ls := Tbl.get [] s.l2 sl
    match lineSec ls (lineOf key) (key % 8) with
    | none => s
    | some x =>
      let s := s.setL2 sl (dropSecs (fun _ k _ => k == key) ls)
      if x.dirty then s.writeMsc v x.leaf x.pa wholeSec else s

/-- The trip of an access. -/
def Who.trip (w : Who) (stack ch va : Nat) (acc : BitVec 2) : Trip :=
  { id := 0, vd := w.vd, va := va / 128 * 128, acc := acc, core := w.core, near := w.near, stack := stack, ch := ch
    stage := .atStack, route := [], wb := false, fault := none, found := none, used := false, ctx := w.ctx, pc := w.pc
    word := w.word }

/-- An access that waits for nothing: translated now, and its sector filled on its way (R260, R331). -/
def State.homeNow (s : State) (w : Who) (stack ch va : Nat) (acc : BitVec 2) : Except (MemKind × Nat) Home × State :=
  match s.translate w.vd stack ch va acc with
  | (.error e, s) => (.error e, s)
  | (.ok (l, pa), s) =>
    let s := s.countPage w.vd stack va w.core
    let x : LineSec := { leaf := l, pa := pa / 128 * 128, dirty := false }
    let s := if outside pa || decide (2 ^ 40 ≤ pa) then s else (s.fillMsc w.vd x).2
    let s := if outside pa || l.shared then s else match w.near with
      | .msc _ | .outside => s
      | _ => s.fillL2 w.vd (stack / 4) va x
    (.ok { leaf := l, pa := pa, stack := stack, ch := ch }, s)

/-- The access stands at its home slice. -/
def Who.atSlice (w : Who) (stack : Nat) : Bool :=
  match w.near with
  | .die d => d == stack / 4
  | _ => false

/-- AN ACCESS ASKS ITS HOME (R260, R331): the leaf and the physical address of its sector, or the fault; in a step that is
tried it waits until the home slice holds the sector or its trip is back. A trip that found a fault sees the tables as
they are now. -/
def State.askHome (s : State) (w : Who) (va : Nat) (acc : BitVec 2) : Except (MemKind × Nat) Home × State :=
  match s.homeOf w.vd w.die va with
  | (none, s) => (.error (.nohome, 7), s)
  | (some (stack, ch), s) =>
    let far : Bool := match w.near with
      | .msc _ => true
      | _ => false
    let s := if far then s.moveDown w.vd stack va else s
    let hit := if far then none else s.inL2 w.vd (stack / 4) va acc
    let here (s : State) (x : LineSec) : Except (MemKind × Nat) Home × State :=
      (.ok { leaf := x.leaf, pa := x.pa + va % 128, stack := stack, ch := ch },
        s.fillL2 w.vd (stack / 4) va { x with dirty := false })
    match if w.near = .outside then .off else s.holds with
    | .off => (match hit with
      | some x => here s x
      | none => s.homeNow w stack ch va acc)
    | .on | .want _ | .wait =>
      let want := w.trip stack ch va acc
      let fits (t : Trip) : Bool := decide (t.stage = .done) &&
        (t.like want || ({ t with acc := acc }.like want && t.found.elim false (fun f => f.1.permits acc)))
      match s.trips.find? fits, hit with
      | some t, _ =>
        let s := s.putTrip { t with used := true }
        (match t.fault, t.found with
        | none, some (l, pa) => (.ok { leaf := l, pa := pa + va % 128, stack := stack, ch := ch }, s)
        | _, _ => (match s.translate w.vd stack ch va acc with
          | (.error e, s) => (.error e, s)
          | (.ok (l, pa), s) => (.ok { leaf := l, pa := pa, stack := stack, ch := ch }, s)))
      | none, some x => if w.atSlice stack then here s x else (.error (.invalid, 7), s.want want)
      | none, none => (.error (.invalid, 7), s.want want)

/-! ### Writes at the home -/

/-- Bytes of a full sector as a table. -/
def fullSector (bs : List Byte) : Tbl Byte := (List.range 128).zip bs

/-- A table with the bytes of another on top. -/
def overlay (t top : Tbl Byte) : Tbl Byte := top.foldl (fun t e => Tbl.set t e.1 e.2) t

/-- A table without the offsets of another. -/
def without (t gone : Tbl Byte) : Tbl Byte := t.filter (fun e => (Tbl.get? gone e.1).isNone)

/-- The bytes of a sector at some offsets, where all are there. -/
def sectorBytes (t : Tbl Byte) (off n : Nat) : Option (List Byte) :=
  (List.range n).mapM (fun i => Tbl.get? t (off + i))

/-- Write-through data reaches RDC copies (R263, R265): on the writer's own die at once; on another die
sooner or later, so that a read there may find either. -/
def State.updateRdcs (s : State) (writerDie home key : Nat) (bytes : Tbl Byte) : State :=
  (List.range 4).foldl (fun s d =>
    match Tbl.get? (s.die d).rdc key with
    | none => s
    | some e =>
      if d = home then s
      else
        let e' := { e with clean := overlay e.clean bytes }
        if d = writerDie then s.setDie d { s.die d with rdc := Tbl.set (s.die d).rdc key e' }
        else if e'.clean = e.clean then s
        else
          let (b, s) := s.flip
          if b then s.setDie d { s.die d with rdc := Tbl.set (s.die d).rdc key e' } else s) s

/-- A sector stands dirty in its home slice, or is written at the memory side (R260, R262). -/
def State.soilHome (s : State) (w : Who) (va : Nat) (h : Home) (offs : List Nat) : State :=
  if outside h.pa then s
  else
    let key := s.secKey w.vd va
    let slice := match w.near with
      | .msc _ | .outside => none
      | _ => if h.leaf.shared then none else s.sliceOf (s.vd w.vd).domain.toNat (h.stack / 4) va
    match slice.bind (fun sl => (lineSec (Tbl.get [] s.l2 sl) (lineOf key) (key % 8)).map (fun x => (sl, x))) with
    | some (sl, x) =>
      let (now, s) := s.fresh
      (s.setL2 sl (putSec now (lineOf key) (key % 8) { x with dirty := true } (Tbl.get [] s.l2 sl))).soil h.pa
    | none => s.writeMsc w.vd h.leaf (h.pa / 128 * 128) offs

/-- Bytes of one sector reach their home (R262), with the report of a sector found uncorrectable (R353). -/
def State.putHome (s : State) (w : Who) (va : Nat) (h : Home) (bytes : Tbl Byte) : State :=
  let tag := s.tagOf w.vd va h.pa h.leaf
  let found := s.breaks h.pa tag bytes
  let s := (s.soilHome w va h (bytes.map (fun e => e.1))).writeHome w.vd h.pa tag bytes
  let s := if found then s.reportPoisoned w.vd w.incarn w.ctx va w.pc w.word w.core h.stack h.ch else s
  if h.leaf.shared || outside h.pa then s else s.updateRdcs (dieOf w.core) (h.stack / 4) (s.secKey w.vd va) bytes

/-- An access of the D9 on behalf of a VD, from a core. -/
def coreWho (core v : Nat) : Who :=
  { core := core, vd := v, incarn := 0, ctx := 0, pc := 0, word := 0, near := .die (dieOf core), after := none }

/-- A write-back (R262): the dirty bytes of a sector go to its home. Where its address no longer
translates to a page that may be written, they are lost (log entry 23). -/
def State.writeBack (s : State) (core key : Nat) (e : Sector) : State :=
  if e.dirty.isEmpty then s
  else
    let w := coreWho core (keyVd key)
    match s.askHome w (keyVa key) 1 with
    | (.error _, s) => s
    | (.ok h, s) => s.putHome w (keyVa key) h e.dirty

/-- The lines of an L1 with their fillers. -/
def l1Fillers (t : Tbl Sector) : List (Nat × Nat) := (t.map (fun e => (lineOf e.1, e.2.vd))).eraseDups

/-- Change the L1 of a core. -/
def State.setL1 (s : State) (c : Nat) (t : Tbl Sector) : State :=
  { s.modCore c (fun k => { k with l1 := t }) with
    lines := recount s.lines (768 + c) (l1Fillers (s.core c).l1) (l1Fillers t) }

/-- A sector leaves an L1, its dirty bytes written back (R262). -/
def State.flushSector (s : State) (c key : Nat) : State :=
  match Tbl.get? (s.core c).l1 key with
  | none => s
  | some e => (s.writeBack c key e).setL1 c (Tbl.del (s.core c).l1 key)

/-- A release at CLUSTER scope or wider (R263): every dirty sector recorded narrower is written back,
and stays as clean bytes. -/
def scopeRank : Scope → Nat
  | .team => 0
  | .group => 1
  | .cluster => 2
  | .package => 3
  | .system => 4

def State.releaseL1 (s : State) (c : Nat) (sc : Scope) : State :=
  if scopeRank sc < 2 then s
  else (s.core c).l1.foldl (fun s e =>
    if e.2.dirty.isEmpty || decide (scopeRank sc ≤ scopeRank e.2.scope) then s
    else
      let s := s.writeBack c e.1 e.2
      s.setL1 c (Tbl.set (s.core c).l1 e.1
        { e.2 with clean := overlay e.2.clean e.2.dirty, dirty := [], scope := .team })) s

/-- An acquire (R263): at CLUSTER or wider every clean byte of the core's L1 becomes invalid; at
PACKAGE or wider the RDC's earlier fills count as absent for the core. -/
def State.acquireL1 (s : State) (c : Nat) (sc : Scope) : State :=
  if scopeRank sc < 2 then s
  else
    let k := s.core c
    let l1 := (k.l1.filter (fun e => !e.2.dirty.isEmpty)).map (fun e => (e.1, { e.2 with clean := [] }))
    let s := s.setL1 c l1
    if scopeRank sc < 3 then s
    else
      let (now, s) := s.fresh
      s.modCore c (fun k => { k with acqTime := now })

/-! ### Lines and ways of L1 (R317) -/

/-- The set of a line of an L1: its line address mod 8. -/
def lineSet (key : Nat) : Nat := keyVa key / 1024 % 8

/-- The VD's domain owns L1 way `w` of the core (R303). -/
def State.ownsWay (s : State) (c v w : Nat) : Bool :=
  s.ownsUnit c (s.vd v).domain.toNat (24 + w)

/-- The VD may fill way `w` of the core's L1. -/
def State.mayFill (s : State) (c v w : Nat) : Bool := s.ownsWay c v w && (s.vd v).ways.getLsbD w

/-- Filler and last use of the line in way `w` of a set, if there is one. -/
def State.wayLine (s : State) (c set w : Nat) : Option (Nat × Nat) :=
  match (s.core c).l1.filter (fun e => lineSet e.1 == set && e.2.way == w) with
  | [] => none
  | e :: es => some (e.2.vd, es.foldl (fun m x => max m x.2.time) e.2.time)

/-- The way that a fill of an L1 takes (R317). -/
def State.wayFor (s : State) (c v set : Nat) : Option Nat × Bool :=
  fillWay (s.wayLine c set) ((List.range 16).filter (s.mayFill c v)) ((List.range 16).filter (s.ownsWay c v))
    (Tbl.get 0 (s.core c).fill v != 0) (fun u w => (s.vd u).ways.getLsbD w)

/-- Every sector of the line in way `w` of a set leaves the L1. -/
def State.evictWay (s : State) (c set w : Nat) : State :=
  ((s.core c).l1.filter (fun e => lineSet e.1 == set && e.2.way == w)).foldl
    (fun s e => s.flushSector c e.1) s

/-- A sector allocated in an L1, or found there; none where the VD may fill no way (R317). -/
def State.allocL1 (s : State) (c v key : Nat) : Option Sector × State :=
  match Tbl.get? (s.core c).l1 key with
  | some e => (some e, s)
  | none =>
    match (s.core c).l1.find? (fun e => lineOf e.1 == lineOf key) with
    | some e => (some { noSector with vd := e.2.vd, way := e.2.way, time := e.2.time }, s)
    | none =>
      match s.wayFor c v (lineSet key) with
      | (none, _) => (none, s)
      | (some w, token) =>
        let spend (k : Core) : Core := { k with fill := Tbl.upd 0 k.fill v (fun n => n - 1) }
        let s := if token then s.modCore c spend else s
        let s := s.evictWay c (lineSet key) w
        (some { noSector with vd := v, way := w }, s)

/-- A sector of an L1 after a use. -/
def State.touchL1 (s : State) (c key : Nat) (e : Sector) : State :=
  let (now, s) := s.fresh
  s.setL1 c (Tbl.set (s.core c).l1 key { e with time := now })

/-! ### Reads of the next level -/

/-- What a read below L1 finds: a memory fault, poison, or a sector, which may be cached or not, of a page that may be
written or not. -/
inductive Fill where
  | fault (k : MemKind) (level : Nat)
  | poison
  | ok (bytes : List Byte) (cache write : Bool)
deriving DecidableEq, Repr

/-- A read of a sector at its home (R260, R331), with the report of a sector found uncorrectable
(R353). -/
def State.direct (s : State) (w : Who) (va : Nat) : Fill × State :=
  match s.askHome w va 0 with
  | (.error e, s) => (.fault e.1 e.2, s)
  | (.ok h, s) =>
    match s.readHome w.vd h.pa (s.tagOf w.vd va h.pa h.leaf) with
    | (some b, _, s) => (.ok b (!(h.leaf.shared || outside h.pa)) h.leaf.write, s)
    | (none, found, s) =>
      (.poison, if found then s.reportPoisoned w.vd w.incarn w.ctx va w.pc w.word w.core h.stack h.ch else s)

/-- A sector enters the RDC of a die, in the part beside its slice (R302, R310, R317). -/
def State.fillRdc (s : State) (die v va : Nat) (b : List Byte) (write : Bool) : State :=
  let key := s.secKey v va
  match s.sliceOf (s.vd v).domain.toNat die va with
  | none => s
  | some sl =>
    let rdc := (s.die die).rdc
    let (now, s) := s.fresh
    let e : Sector := { noSector with clean := fullSector b, time := now, used := now, write := write }
    let put (s : State) (t : Tbl Sector) (filler way : Nat) : State :=
      s.setDie die { s.die die with rdc := Tbl.set t key { e with vd := filler, way := way } }
    match rdc.find? (fun x => lineOf x.1 == lineOf key) with
    | some x => put s rdc x.2.vd x.2.way
    | none =>
      let bkt := (s.vd v).bktL2
      let in_ (w : Nat) (x : Nat × Sector) : Bool :=
        setOf rdcSets (lineOf x.1) == setOf rdcSets (lineOf key) && x.2.way == w
          && s.sliceOf (s.vd (keyVd x.1)).domain.toNat die (keyVa x.1) == some sl
      let line (w : Nat) : Option (Nat × Nat) := match rdc.filter (in_ w) with
        | [] => none
        | x :: xs => some (x.2.vd, xs.foldl (fun m y => max m y.2.used) x.2.used)
      match fillWay line (s.l2Mine v) (List.range 16) (s.fillLevel (rdcInst sl) v bkt != 0)
          (fun u w => (s.vd u).ways.getLsbD (16 + w)) with
      | (none, _) => s
      | (some w, token) =>
        put (if token then s.spendFill (rdcInst sl) v bkt else s) (rdc.filter (fun x => !in_ w x)) v w

/-- The copy that the RDC of the core's die holds for its reads (R263). -/
def State.rdcCopy (s : State) (w : Who) (va : Nat) : Option Sector :=
  (Tbl.get? (s.die (dieOf w.core)).rdc (s.secKey w.vd va)).filter (fun e => decide ((s.core w.core).acqTime < e.time))

/-- A read through the RDC of the core's die (R260, R263). -/
def State.viaRdc (s : State) (w : Who) (va : Nat) : Fill × State :=
  let die := dieOf w.core
  match s.rdcCopy w va with
  | some e =>
    let (now, s) := s.fresh
    (.ok (e.clean.map (fun x => x.2)) true e.write,
      s.setDie die { s.die die with rdc := Tbl.set (s.die die).rdc (s.secKey w.vd va) { e with used := now } })
  | none => match s.direct w va with
    | (.ok b true wr, s) => (.ok b true wr, s.fillRdc die w.vd va b wr)
    | r => r

/-- A read of the level below L1 (R260): the home L2 slice of the own die, the RDC for another's. -/
def State.below (s : State) (w : Who) (va : Nat) : Fill × State :=
  match s.homeOf w.vd (dieOf w.core) va with
  | (none, s) => (.fault .nohome 7, s)
  | (some (stack, _), s) => if stack / 4 = dieOf w.core then s.direct w va else s.viaRdc w va

/-! ### Generic path (R260, R262) -/

/-- What a read finds: bytes, a memory fault, or poison. -/
inductive Got where
  | data (bs : List Byte) | fault (k : MemKind) (level : Nat) | poison
deriving DecidableEq, Repr

/-- The bytes that a core's L1 holds for a read: those of the VD's own sector. -/
def State.l1Bytes (s : State) (w : Who) (va n : Nat) : Option (List Byte) :=
  let e := Tbl.get noSector (s.core w.core).l1 (s.secKey w.vd va)
  sectorBytes (overlay e.clean e.dirty) (va % 128) n

/-- The bytes that a core's L1 holds of a sector that another VD of the domain filled (R317). -/
def State.siblingBytes (s : State) (w : Who) (va n : Nat) : Option (List Byte) :=
  (s.core w.core).l1.findSome? (fun e =>
    if keyVd e.1 != w.vd && (s.vd (keyVd e.1)).domain == (s.vd w.vd).domain && keyVa e.1 == va % 2 ^ 56 / 128 * 128 then
      sectorBytes (overlay e.2.clean e.2.dirty) (va % 128) n
    else none)

/-- A load of `n` bytes within a sector through L1 (R260, R262). Whether it hits what another VD of its domain filled
there is open (log entry 73). -/
def State.loadVirt (s : State) (w : Who) (va n : Nat) : Got × State :=
  let key := s.secKey w.vd va
  let off := va % 128
  let fill (s : State) : Got × State :=
    match s.below w va with
    | (.fault k l, s) => (.fault k l, s)
    | (.poison, s) => (.poison, s)
    | (.ok b cache wr, s) =>
      let e := Tbl.get noSector (s.core w.core).l1 key
      let seen := overlay (overlay (fullSector b) e.clean) e.dirty
      let got : Got := .data ((sectorBytes seen off n).getD [])
      if !cache then (got, s)
      else match s.allocL1 w.core w.vd key with
        | (none, s) => (got, s)
        | (some e, s) => (got, s.touchL1 w.core key { e with clean := without seen e.dirty, write := wr })
  match s.l1Bytes w va n, s.siblingBytes w va n with
  | some b, _ => (.data b, s.touchL1 w.core key (Tbl.get noSector (s.core w.core).l1 key))
  | none, none => fill s
  | none, some b =>
    let (hit, s) := s.flip
    if hit then (.data b, s) else fill s

/-- A store narrower than CLUSTER whose sector L1 holds, of a page that may be written, stays in L1 (R262). -/
def State.staysInL1 (s : State) (w : Who) (va : Nat) (sc : Scope) : Bool :=
  decide (scopeRank sc < 2) && (Tbl.get? (s.core w.core).l1 (s.secKey w.vd va)).elim false (fun e => e.write)

/-- Bytes of a narrow store in an L1 sector (R262). -/
def Sector.stored (e : Sector) (bytes : Tbl Byte) (sc : Scope) : Sector :=
  { e with clean := without e.clean bytes, dirty := overlay e.dirty bytes, write := true
           scope := if e.dirty.isEmpty || decide (scopeRank e.scope < scopeRank sc) then sc else e.scope }

/-- A store of bytes of one sector through L1 (R262, R266, R317): the fault that it meets, if any. -/
def State.storeVirt (s : State) (w : Who) (va : Nat) (bytes : Tbl Byte) (sc : Scope) :
    Option (MemKind × Nat) × State :=
  let key := s.secKey w.vd va
  if s.staysInL1 w va sc then
    (none, s.touchL1 w.core key ((Tbl.get noSector (s.core w.core).l1 key).stored bytes sc))
  else match s.askHome w va 1 with
    | (.error e, s) => (some e, s)
    | (.ok h, s) =>
      if h.leaf.shared || outside h.pa then (none, (s.flushSector w.core key).putHome w va h bytes)
      else match s.allocL1 w.core w.vd key with
        | (none, s) => (none, s.putHome w va h bytes)
        | (some e, s) =>
          if scopeRank sc < 2 then (none, s.touchL1 w.core key (e.stored bytes sc))
          else
            (none, (s.touchL1 w.core key
              { e with clean := overlay e.clean bytes, dirty := without e.dirty bytes, write := true }).putHome w va h bytes)

/-! ### Accesses at the home (R184, R277) -/

/-- A copy that the RDC of the reader's die holds is as new as what has been read at the home (R270). -/
def State.renewRdc (s : State) (w : Who) (va : Nat) (b : List Byte) : State :=
  let die := dieOf w.core
  let key := s.secKey w.vd va
  match Tbl.get? (s.die die).rdc key with
  | some e => s.setDie die { s.die die with rdc := Tbl.set (s.die die).rdc key { e with clean := fullSector b } }
  | none => s

/-- A read and write of bytes of one sector at its home, indivisible (R184): `f` gives from the
sector's 128 bytes what is written, and a result. Where the sector is poisoned nothing is read, and
`whole` lets a write of all its bytes clear the poison (R353). The
core's own copy leaves its L1 first, so that the team's own accesses keep their order (R170,
R277). -/
def State.atHomeGen {α : Type} (whole : Bool) (s : State) (w : Who) (va : Nat) (acc : BitVec 2)
    (f : List Byte → Tbl Byte × α) : Except (MemKind × Nat) (Option α) × State :=
  let s := s.flushSector w.core (s.secKey w.vd va)
  match s.askHome w va acc with
  | (.error e, s) => (.error e, s)
  | (.ok h, s) =>
    match s.readHome w.vd h.pa (s.tagOf w.vd va h.pa h.leaf) with
    | (none, found, s) =>
      let s := if found then
          s.reportPoisoned w.vd w.incarn w.ctx va w.pc w.word w.core h.stack h.ch else s
      let (wr, r) := f (List.replicate 128 0)
      if whole && decide (128 ≤ wr.length) then (.ok (some r), s.putHome w va h wr)
      else (.ok none, s)
    | (some b, _, s) =>
      let s := if h.leaf.shared || outside h.pa then s else s.renewRdc w va b
      let (wr, r) := f b
      (.ok (some r), if wr.isEmpty then s else s.putHome w va h wr)

/-- A read and write at the home: a write of every byte clears poison. -/
def State.atHomeDo {α : Type} (s : State) (w : Who) (va : Nat) (acc : BitVec 2)
    (f : List Byte → Tbl Byte × α) : Except (MemKind × Nat) (Option α) × State :=
  s.atHomeGen true w va acc f

/-- An update of what a sector holds: a poisoned sector stays so (R353). -/
def State.atHomeRmw {α : Type} (s : State) (w : Who) (va : Nat) (acc : BitVec 2)
    (f : List Byte → Tbl Byte × α) : Except (MemKind × Nat) (Option α) × State :=
  s.atHomeGen false w va acc f

/-! ### Constant and tile paths (R264) -/

/-- A sector as a fill of the constant or tile path finds it: with the dirty bytes of the core's own
L1. -/
def State.pathFill (s : State) (w : Who) (va : Nat) : Fill × State :=
  match s.below w va with
  | (.ok b cache wr, s) =>
    let e := Tbl.get noSector (s.core w.core).l1 (s.secKey w.vd va)
    (.ok ((overlay (fullSector b) e.dirty).map (fun x => x.2)) cache wr, s)
  | r => r

/-- A sector enters the constant cache or the tile-path buffer, of `n` lines (R258): where they are full, some other
line leaves (log entry 22). -/
def State.putPath (s : State) (t : Tbl Sector) (n key : Nat) (e : Sector) : Tbl Sector × State :=
  let lines := (t.map (fun x => lineOf x.1)).eraseDups
  if lines.contains (lineOf key) || decide (lines.length < n) then (Tbl.set t key e, s)
  else
    let (k, s) := s.pick lines.length
    let gone := lines[k]?
    (Tbl.set (t.filter (fun x => some (lineOf x.1) != gone)) key e, s)

/-- A read on the constant path (`tile` false) or the tile path: what the cache holds, where it still
holds it, or a fill. -/
def State.pathRead (s : State) (w : Who) (tile : Bool) (va n : Nat) : Got × State :=
  let key := s.secKey w.vd va
  let cut (b : List Byte) : Got := .data ((b.drop (va % 128)).take n)
  let fill (s : State) : Got × State := match s.pathFill w va with
    | (.fault k l, s) => (.fault k l, s)
    | (.poison, s) => (.poison, s)
    | (.ok b cache _, s) =>
      let k := s.core w.core
      let e : Sector := { noSector with clean := fullSector b, vd := w.vd }
      (cut b, if !cache then s
        else if tile then let (t, s) := s.putPath k.tile 64 key e; s.modCore w.core (fun k => { k with tile := t })
        else let (t, s) := s.putPath k.const 32 key e; s.modCore w.core (fun k => { k with const := t }))
  let k := s.core w.core
  match Tbl.get? (if tile then k.tile else k.const) key with
  | none => fill s
  | some e =>
    let (stays, s) := s.flip
    if stays then (cut (e.clean.map (fun x => x.2)), s) else fill s

end Sys2Proof.Machine
end

