-- ==== Sys2Proof/WellFormed.lean ====
section
/-! DEFINITION. Well-formedness of an instruction: no field holds what the words alone make
ILLEGAL (04 R112). -/

namespace Sys2Proof

/-- The instruction breaks no rule that its words decide (R51 item 1, R112). -/
abbrev Instr.wf (i : Instr) : Bool := i.legal

end Sys2Proof
end

