-- ==== Sys2Proof/Decode.lean ====
section
/-! DEFINITION. Instruction words: the encoder and the decoder (04 R95, R102 to R112; the layouts
of 08 R228 to R234 and 09 R237, R241, R244). The decoder builds the instruction that the fields
name and accepts it when no field is illegal (`Instr.wf`) and the instruction's own encoding is
the word: so every reserved bit and every unused field must be zero (R8, R104, R112). -/

namespace Sys2Proof

/-- Why a word is no instruction (R112). -/
inductive Illegal where
  /-- an unassigned major opcode, 0x00 or 0xFF -/
  | opcode
  /-- a SUB, TYPE, SCOPE or other code that is reserved -/
  | code
  /-- a field that the entry does not accept (`Instr.wf`) -/
  | field
  /-- a reserved bit or an unused field that is not zero -/
  | reserved
  /-- the instruction's words run past the end of the clause (R99) -/
  | length
deriving DecidableEq, Repr

/-! ## Codes -/

def Pred.code (p : Pred) : BitVec 4 := BitVec.ofBool p.neg ++ p.num
def Pred.ofCode (c : BitVec 4) : Pred := ⟨c.getLsbD 3, c.extractLsb' 0 3⟩

def Rnd.code : Rnd → BitVec 2
  | .rn => 0 | .rz => 1 | .ru => 2 | .rd => 3
def Rnd.ofCode (c : BitVec 2) : Rnd :=
  match c.toNat with
  | 0 => .rn | 1 => .rz | 2 => .ru | _ => .rd

def Scope.code : Scope → BitVec 3
  | .team => 0 | .group => 1 | .cluster => 2 | .package => 3 | .system => 4
def Scope.ofCode (c : BitVec 3) : Option Scope :=
  match c.toNat with
  | 0 => some .team | 1 => some .group | 2 => some .cluster | 3 => some .package | 4 => some .system | _ => none

def MemOrd.code : MemOrd → BitVec 2
  | .plain => 0 | .acq => 1 | .rel => 2 | .acqrel => 3
def MemOrd.ofCode (c : BitVec 2) : MemOrd :=
  match c.toNat with
  | 0 => .plain | 1 => .acq | 2 => .rel | _ => .acqrel

def Width.code : Width → BitVec 4
  | .w8 => 0 | .s8 => 1 | .w16 => 2 | .s16 => 3 | .w32 => 4 | .w64 => 5 | .w128 => 6
def Width.ofCode (c : BitVec 4) : Option Width :=
  match c.toNat with
  | 0 => some .w8 | 1 => some .s8 | 2 => some .w16 | 3 => some .s16 | 4 => some .w32 | 5 => some .w64 | 6 => some .w128 | _ => none

def ICond.code : ICond → BitVec 4
  | .eq => 0 | .ne => 1 | .lt => 2 | .le => 3 | .gt => 4 | .ge => 5 | .tst => 6 | .ntst => 7
def ICond.ofCode (c : BitVec 4) : Option ICond :=
  match c.toNat with
  | 0 => some .eq | 1 => some .ne | 2 => some .lt | 3 => some .le | 4 => some .gt | 5 => some .ge | 6 => some .tst | 7 => some .ntst | _ => none

def FCond.code : FCond → BitVec 4
  | .eq => 0 | .ne => 1 | .lt => 2 | .le => 3 | .gt => 4 | .ge => 5 | .ord => 6 | .uno => 7
def FCond.ofCode (c : BitVec 4) : Option FCond :=
  match c.toNat with
  | 0 => some .eq | 1 => some .ne | 2 => some .lt | 3 => some .le | 4 => some .gt | 5 => some .ge | 6 => some .ord | 7 => some .uno | _ => none

def CvtVar.code : CvtVar → BitVec 4
  | .scalar => 0 | .narrow => 1 | .widen => 2
def CvtVar.ofCode (c : BitVec 4) : Option CvtVar :=
  match c.toNat with
  | 0 => some .scalar | 1 => some .narrow | 2 => some .widen | _ => none

def XMode.code : XMode → BitVec 4
  | .xor => 0 | .up => 1 | .down => 2 | .idx => 3
def XMode.ofCode (c : BitVec 4) : Option XMode :=
  match c.toNat with
  | 0 => some .xor | 1 => some .up | 2 => some .down | 3 => some .idx | _ => none

def VMode.code : VMode → BitVec 4
  | .any => 0 | .all => 1 | .count => 2 | .ballot => 3
def VMode.ofCode (c : BitVec 4) : Option VMode :=
  match c.toNat with
  | 0 => some .any | 1 => some .all | 2 => some .count | 3 => some .ballot | _ => none

def ROp.code : ROp → BitVec 3
  | .add => 0 | .min => 1 | .max => 2 | .and => 3 | .or => 4 | .xor => 5
def ROp.ofCode (c : BitVec 3) : Option ROp :=
  match c.toNat with
  | 0 => some .add | 1 => some .min | 2 => some .max | 3 => some .and | 4 => some .or | 5 => some .xor | _ => none

def LidMode.code : LidMode → BitVec 4
  | .id => 0 | .rank => 1 | .count => 2
def LidMode.ofCode (c : BitVec 4) : Option LidMode :=
  match c.toNat with
  | 0 => some .id | 1 => some .rank | 2 => some .count | _ => none

def AOp.code : AOp → BitVec 4
  | .add32 => 0 | .minS32 => 1 | .maxS32 => 2 | .minU32 => 3 | .maxU32 => 4 | .and32 => 5 | .or32 => 6 | .xor32 => 7 | .xchg32 => 8 | .add64 => 9 | .minS64 => 10 | .maxS64 => 11 | .and64 => 12 | .or64 => 13 | .xor64 => 14 | .xchg64 => 15
def AOp.ofCode (c : BitVec 4) : Option AOp :=
  match c.toNat with
  | 0 => some .add32 | 1 => some .minS32 | 2 => some .maxS32 | 3 => some .minU32 | 4 => some .maxU32 | 5 => some .and32 | 6 => some .or32 | 7 => some .xor32 | 8 => some .xchg32 | 9 => some .add64 | 10 => some .minS64 | 11 => some .maxS64 | 12 => some .and64 | 13 => some .or64 | 14 => some .xor64 | 15 => some .xchg64 | _ => none

def PathSel.code : PathSel → BitVec 4
  | .const => 1 | .tile => 2 | .all => 3
def PathSel.ofCode (c : BitVec 4) : Option PathSel :=
  match c.toNat with
  | 1 => some .const | 2 => some .tile | 3 => some .all | _ => none

def DKind.code : DKind → BitVec 4
  | .lane => 1 | .team => 2 | .mem => 3 | .bank => 4
def DKind.ofCode (c : BitVec 4) : Option DKind :=
  match c.toNat with
  | 1 => some .lane | 2 => some .team | 3 => some .mem | 4 => some .bank | _ => none

def Dataflow.code : Dataflow → BitVec 2
  | .ip => 0 | .op => 1 | .rw => 2
def Dataflow.ofCode (c : BitVec 2) : Option Dataflow :=
  match c.toNat with
  | 0 => some .ip | 1 => some .op | 2 => some .rw | _ => none

def NestOp.code : NestOp → BitVec 4
  | .copy => 0 | .add => 1 | .sub => 2 | .mul => 3 | .min => 4 | .max => 5 | .mac => 6 | .and => 7 | .or => 8 | .xor => 9
def NestOp.ofCode (c : BitVec 4) : Option NestOp :=
  match c.toNat with
  | 0 => some .copy | 1 => some .add | 2 => some .sub | 3 => some .mul | 4 => some .min | 5 => some .max | 6 => some .mac | 7 => some .and | 8 => some .or | 9 => some .xor | _ => none

def IKind.code : IKind → BitVec 2
  | .f32 => 0 | .i32 => 1 | .f64 => 2
def IKind.ofCode (c : BitVec 2) : Option IKind :=
  match c.toNat with
  | 0 => some .f32 | 1 => some .i32 | 2 => some .f64 | _ => none

def OFmt.code : OFmt → BitVec 4
  | .f32 => 0 | .bf16 => 1 | .f16 => 2 | .e4m3 => 3 | .e5m2 => 4 | .i32 => 5 | .i8 => 6 | .f64 => 7
def OFmt.ofCode (c : BitVec 4) : Option OFmt :=
  match c.toNat with
  | 0 => some .f32 | 1 => some .bf16 | 2 => some .f16 | 3 => some .e4m3 | 4 => some .e5m2 | 5 => some .i32 | 6 => some .i8 | 7 => some .f64 | _ => none

/-- TGT of `fork` (R237). -/
def ForkTgt.code : ForkTgt → BitVec 4
  | .matrix => 0
  | .lace k => BitVec.ofNat 4 (k.toNat + 1)
def ForkTgt.ofCode (c : BitVec 4) : Option ForkTgt :=
  match c.toNat with
  | 0 => some .matrix
  | 1 => some (.lace 0) | 2 => some (.lace 1) | 3 => some (.lace 2) | 4 => some (.lace 3)
  | _ => none

/-- A one-bit SUB: 0 or 1, all else reserved. -/
def bitOfCode (c : BitVec 4) : Option Bool :=
  match c.toNat with
  | 0 => some false
  | 1 => some true
  | _ => none

def bitCode (b : Bool) : BitVec 4 := if b then 1 else 0

/-! ## Formats -/

/-- F-3R (R103), MOD as R77 lays it out. -/
def F3.word (opc : BitVec 8) (sub : BitVec 4) (o : F3) : DWord :=
  opc ++ sub ++ o.d ++ o.a ++ o.b ++ o.c ++ o.p.code ++ o.ty.code
    ++ o.rnd.code ++ BitVec.ofBool o.sat ++ 0#1 ++ o.imm

def F3.ofWord (w : DWord) : Option F3 :=
  (Ty.ofCode (w.extractLsb' 12 4)).map fun ty =>
    { d := w.extractLsb' 44 8, a := w.extractLsb' 36 8, b := w.extractLsb' 28 8,
      c := w.extractLsb' 20 8, p := Pred.ofCode (w.extractLsb' 16 4), ty,
      rnd := Rnd.ofCode (w.extractLsb' 10 2), sat := w.getLsbD 9, imm := w.extractLsb' 0 8 }

/-- F-RI (R105). -/
def FRI.word (opc : BitVec 8) (sub : BitVec 4) (o : FRI) : DWord :=
  opc ++ sub ++ o.d ++ o.a ++ o.p.code ++ o.imm

def FRI.ofWord (w : DWord) : FRI :=
  { d := w.extractLsb' 44 8, a := w.extractLsb' 36 8, p := Pred.ofCode (w.extractLsb' 32 4),
    imm := w.extractLsb' 0 32 }

/-- F-BR (R107). -/
def FBR.word (opc : BitVec 8) (o : FBR) : DWord :=
  opc ++ o.cond.code ++ o.r ++ 0#8 ++ o.p.code ++ o.off

def FBR.ofWord (w : DWord) : FBR :=
  { cond := Pred.ofCode (w.extractLsb' 52 4), r := w.extractLsb' 44 8,
    p := Pred.ofCode (w.extractLsb' 32 4), off := w.extractLsb' 0 32 }

/-- F-MEM (R106). -/
def FMem.word (opc : BitVec 8) (sub : BitVec 4) (o : FMem) : DWord :=
  opc ++ sub ++ o.data ++ o.base ++ o.p.code ++ o.scope.code ++ o.ord.code
    ++ BitVec.ofBool o.few ++ BitVec.ofBool o.fec ++ BitVec.ofBool o.far ++ o.off

def FMem.ofWord (w : DWord) : Option FMem :=
  (Scope.ofCode (w.extractLsb' 29 3)).map fun scope =>
    { data := w.extractLsb' 44 8, base := w.extractLsb' 36 8,
      p := Pred.ofCode (w.extractLsb' 32 4), scope,
      ord := MemOrd.ofCode (w.extractLsb' 27 2), few := w.getLsbD 26, fec := w.getLsbD 25,
      far := w.getLsbD 24, off := w.extractLsb' 0 24 }

/-- F-N (R108): the four words. -/
def FN.words (opc : BitVec 8) (sub ty : BitVec 4) (n : FN) : List DWord :=
  [opc ++ sub ++ ty ++ n.depth ++ n.rmask ++ n.p.code ++ n.bd ++ n.ba ++ n.bb
     ++ n.shd ++ n.sha ++ n.shb,
   0#4 ++ n.x0 ++ n.x1 ++ n.x2 ++ n.x3 ++ n.x4,
   n.strides.extractLsb' 0 64,
   0#8 ++ n.strides.extractLsb' 64 56]

def FN.ofWords (w0 w1 w2 w3 : DWord) : FN :=
  { depth := w0.extractLsb' 45 3, rmask := w0.extractLsb' 40 5,
    p := Pred.ofCode (w0.extractLsb' 36 4),
    bd := w0.extractLsb' 28 8, ba := w0.extractLsb' 20 8, bb := w0.extractLsb' 12 8,
    shd := w0.extractLsb' 8 4, sha := w0.extractLsb' 4 4, shb := w0.extractLsb' 0 4,
    x0 := w1.extractLsb' 48 12, x1 := w1.extractLsb' 36 12, x2 := w1.extractLsb' 24 12,
    x3 := w1.extractLsb' 12 12, x4 := w1.extractLsb' 0 12,
    strides := w3.extractLsb' 0 56 ++ w2 }

/-! ## The layouts of F-M -/

def MldsOps.words (o : MldsOps) (bar : Option BarOps) : List DWord :=
  let (wbar, wph, xreg) : BitVec 1 × BitVec 1 × BitVec 4 :=
    match bar with
    | none => (0, 0, 0)
    | some b => (1, BitVec.ofBool b.wph, b.xreg)
  [0xA0#8 ++ wbar ++ wph ++ 0#2 ++ o.qset ++ 0#23 ++ o.breg ++ 0#4 ++ xreg ++ 0#13,
   o.fbb ++ 0#32 ++ o.pitch]

def MldsOps.ofWords (w0 w1 : DWord) : MldsOps :=
  { qset := w0.extractLsb' 48 4, breg := w0.extractLsb' 21 4, fbb := w1.extractLsb' 48 16,
    pitch := w1.extractLsb' 0 16 }

def BarOps.ofWord (w0 : DWord) : BarOps :=
  { xreg := w0.extractLsb' 13 4, wph := w0.getLsbD 54 }

/-- `mfuse` and `mswap` (R228). -/
def qsetWords (opc : BitVec 8) (q : BitVec 4) : List DWord := [opc ++ 0#4 ++ q ++ 0#48, 0]

def MzeroOps.words (o : MzeroOps) : List DWord :=
  [0xA4#8 ++ 0#4 ++ o.qset ++ o.acc ++ BitVec.ofBool o.all ++ 0#44, 0]

def MzeroOps.ofWord (w0 : DWord) : MzeroOps :=
  { qset := w0.extractLsb' 48 4, acc := w0.extractLsb' 45 3, all := w0.getLsbD 44 }

def MloopOps.words (o : MloopOps) : List DWord :=
  [0xA2#8 ++ o.df.code ++ 0#1 ++ BitVec.ofBool o.ovw ++ o.qset ++ o.acc ++ o.lclass ++ o.steps
     ++ o.areg ++ o.breg ++ o.mreg ++ BitVec.ofBool o.sout ++ o.oreg ++ 0#12,
   o.fba ++ o.fbb ++ o.ainc ++ o.binc]

def MloopOps.ofWords (w0 w1 : DWord) : Option MloopOps :=
  (Dataflow.ofCode (w0.extractLsb' 54 2)).map fun df =>
    { df, ovw := w0.getLsbD 52, qset := w0.extractLsb' 48 4, acc := w0.extractLsb' 45 3,
      lclass := w0.extractLsb' 41 4, steps := w0.extractLsb' 29 12,
      areg := w0.extractLsb' 25 4, breg := w0.extractLsb' 21 4, mreg := w0.extractLsb' 17 4,
      sout := w0.getLsbD 16, oreg := w0.extractLsb' 12 4,
      fba := w1.extractLsb' 48 16, fbb := w1.extractLsb' 32 16, ainc := w1.extractLsb' 16 16,
      binc := w1.extractLsb' 0 16 }

def MdrainOps.words (o : MdrainOps) : List DWord :=
  [0xA3#8 ++ BitVec.ofBool o.add ++ o.ikind.code ++ 0#1 ++ o.qset ++ o.acc ++ o.ofmt.code
     ++ o.rnd.code ++ BitVec.ofBool o.sat ++ o.dreg ++ 0#34,
   o.pitch ++ 0#48]

def MdrainOps.ofWords (w0 w1 : DWord) : Option MdrainOps :=
  match IKind.ofCode (w0.extractLsb' 53 2), OFmt.ofCode (w0.extractLsb' 41 4) with
  | some ikind, some ofmt =>
    some { add := w0.getLsbD 55, ikind, qset := w0.extractLsb' 48 4, acc := w0.extractLsb' 45 3,
           ofmt, rnd := Rnd.ofCode (w0.extractLsb' 39 2), sat := w0.getLsbD 38,
           dreg := w0.extractLsb' 34 4, pitch := w1.extractLsb' 48 16 }
  | _, _ => none

def McompOps.words (o : McompOps) : List DWord :=
  [0xA5#8 ++ 0#1 ++ BitVec.ofBool o.p48 ++ 0#2 ++ o.qset ++ o.rows ++ o.len16 ++ o.sreg ++ o.vreg
     ++ o.mreg ++ 0#25,
   o.fb ++ o.spitch ++ o.vpitch ++ 0#16]

def McompOps.ofWords (w0 w1 : DWord) : McompOps :=
  { p48 := w0.getLsbD 54, qset := w0.extractLsb' 48 4, rows := w0.extractLsb' 41 7,
    len16 := w0.extractLsb' 37 4, sreg := w0.extractLsb' 33 4, vreg := w0.extractLsb' 29 4,
    mreg := w0.extractLsb' 25 4, fb := w1.extractLsb' 48 16, spitch := w1.extractLsb' 32 16,
    vpitch := w1.extractLsb' 16 16 }

def MreadOps.words (o : MreadOps) : List DWord :=
  [0xA7#8 ++ 0#4 ++ o.qset ++ o.acc ++ o.col ++ o.dst ++ BitVec.ofBool o.w64 ++ 0#31, 0]

def MreadOps.ofWord (w0 : DWord) : MreadOps :=
  { qset := w0.extractLsb' 48 4, acc := w0.extractLsb' 45 3, col := w0.extractLsb' 40 5,
    dst := w0.extractLsb' 32 8, w64 := w0.getLsbD 31 }

def mstatWords (q : BitVec 4) (d : Reg) : List DWord :=
  [0xA8#8 ++ 0#4 ++ q ++ 0#8 ++ d ++ 0#32, 0]

def ForkOps.words (o : ForkOps) : List DWord :=
  [0xC0#8 ++ o.tgt.code ++ o.qset ++ o.ebase ++ o.ecnt ++ o.p.code ++ 0#31, 0#32 ++ o.off]

def ForkOps.ofWords (w0 w1 : DWord) : Option ForkOps :=
  (ForkTgt.ofCode (w0.extractLsb' 52 4)).map fun tgt =>
    { tgt, qset := w0.extractLsb' 48 4, ebase := w0.extractLsb' 40 8,
      ecnt := w0.extractLsb' 35 5, p := Pred.ofCode (w0.extractLsb' 31 4),
      off := w1.extractLsb' 0 32 }

def LaceOps.words (o : LaceOps) : List DWord :=
  [0xC2#8 ++ o.dims ++ o.le ++ o.src ++ o.dst ++ o.bar ++ o.p.code ++ o.rowb,
   o.x1 ++ o.x2 ++ o.str ++ BitVec.ofBool o.setfe ++ BitVec.ofBool o.inc ++ BitVec.ofBool o.outc
     ++ 0#29]

def LaceOps.ofWords (w0 w1 : DWord) : LaceOps :=
  { dims := w0.extractLsb' 54 2, le := w0.extractLsb' 52 2, src := w0.extractLsb' 44 8,
    dst := w0.extractLsb' 36 8, bar := w0.extractLsb' 28 8,
    p := Pred.ofCode (w0.extractLsb' 24 4), rowb := w0.extractLsb' 0 24,
    x1 := w1.extractLsb' 52 12, x2 := w1.extractLsb' 40 12, str := w1.extractLsb' 32 8,
    setfe := w1.getLsbD 31, inc := w1.getLsbD 30, outc := w1.getLsbD 29 }

def LacegOps.words (o : LacegOps) : List DWord :=
  [0xC3#8 ++ 0#2 ++ o.le ++ o.src ++ o.dst ++ o.bar ++ o.p.code ++ o.rowb,
   o.xn ++ o.idx ++ o.pitch ++ 0#4 ++ BitVec.ofBool o.setfe ++ BitVec.ofBool o.inc
     ++ BitVec.ofBool o.outc ++ 0#29]

def LacegOps.ofWords (w0 w1 : DWord) : LacegOps :=
  { le := w0.extractLsb' 52 2, src := w0.extractLsb' 44 8, dst := w0.extractLsb' 36 8,
    bar := w0.extractLsb' 28 8, p := Pred.ofCode (w0.extractLsb' 24 4),
    rowb := w0.extractLsb' 0 24, xn := w1.extractLsb' 52 12, idx := w1.extractLsb' 44 8,
    pitch := w1.extractLsb' 36 8, setfe := w1.getLsbD 31, inc := w1.getLsbD 30,
    outc := w1.getLsbD 29 }

/-! ## The encoder -/

/-- The words of an instruction (R111). The steps of the package have none. -/
def encode : Instr → List DWord
  | .add o => [o.word 0x01 0]
  | .sub o => [o.word 0x02 0]
  | .mul o => [o.word 0x03 0]
  | .mulh o => [o.word 0x04 0]
  | .mad wide o => [o.word 0x05 (bitCode wide)]
  | .div o => [o.word 0x06 0]
  | .rem o => [o.word 0x07 0]
  | .min o => [o.word 0x08 0]
  | .max o => [o.word 0x09 0]
  | .add64 x32 o => [o.word 0x0A (bitCode x32)]
  | .sub64 x32 o => [o.word 0x0B (bitCode x32)]
  | .mul64 wide o => [o.word 0x0C (bitCode wide)]
  | .lea o => [o.word 0x0D 0]
  | .dp4 su o => [o.word 0x0E (bitCode su)]
  | .li o => [o.word 0x0F 0]
  | .liSx o => [o.word 0x0F 1]
  | .liZx o => [o.word 0x0F 2]
  | .and o => [o.word 0x10 0]
  | .or o => [o.word 0x11 0]
  | .xor o => [o.word 0x12 0]
  | .andn o => [o.word 0x13 0]
  | .shl clamp o => [o.word 0x14 (bitCode clamp)]
  | .shr clamp o => [o.word 0x15 (bitCode clamp)]
  | .sar clamp o => [o.word 0x16 (bitCode clamp)]
  | .rot o => [o.word 0x17 0]
  | .popc o => [o.word 0x18 0]
  | .clz o => [o.word 0x19 0]
  | .ffs o => [o.word 0x1A 0]
  | .brev o => [o.word 0x1B 0]
  | .bfe o => [o.word 0x1C 0]
  | .bfi o => [o.word 0x1D 0]
  | .clmul o => [o.word 0x1E 0]
  | .sel o => [o.word 0x1F 0]
  | .icmp k o => [o.word 0x20 k.code]
  | .fcmp k o => [o.word 0x21 k.code]
  | .pand o => [o.word 0x22 0]
  | .por o => [o.word 0x23 0]
  | .pxor o => [o.word 0x24 0]
  | .pnot o => [o.word 0x25 0]
  | .pset bit o => [o.word 0x26 (bitCode bit)]
  | .br o => [o.word 0x30]
  | .brdiv o => [o.word 0x31]
  | .join o => [o.word 0x32]
  | .call o => [o.word 0x33]
  | .ret o => [o.word 0x34]
  | .exit o => [o.word 0x35]
  | .brx o => [o.word 0x3C]
  | .wait o => [o.word 0x36 0]
  | .nop o => [o.word 0x37 0]
  | .tfence o => [o.word 0x38 0]
  | .getf o => [o.word 0x39 0]
  | .getfClr o => [o.word 0x39 1]
  | .clrf o => [o.word 0x3A 0]
  | .clrfFen o => [o.word 0x3A 1]
  | .clrfLoad o => [o.word 0x3A 2]
  | .rdsr o => [o.word 0x3B 0]
  | .fadd o => [o.word 0x40 0]
  | .fsub o => [o.word 0x41 0]
  | .fmul o => [o.word 0x42 0]
  | .ffma o => [o.word 0x43 0]
  | .fmin o => [o.word 0x44 0]
  | .fmax o => [o.word 0x45 0]
  | .fdiv o => [o.word 0x46 0]
  | .fscale o => [o.word 0x47 0]
  | .fround exact o => [o.word 0x48 (bitCode exact)]
  | .fclass o => [o.word 0x49 0]
  | .fdot2 o => [o.word 0x4A 0]
  | .frcp o => [o.word 0x50 0]
  | .frsq o => [o.word 0x51 0]
  | .fsqrt o => [o.word 0x52 0]
  | .fexp2 o => [o.word 0x53 0]
  | .flog2 o => [o.word 0x54 0]
  | .fsin o => [o.word 0x55 0]
  | .fcos o => [o.word 0x56 0]
  | .ftanh o => [o.word 0x57 0]
  | .cvt k o => [o.word 0x58 k.code]
  | .pack k o => [o.word 0x59 (bitCode k)]
  | .packOx4 o => [o.word 0x59 2]
  | .unpack k o => [o.word 0x5A (bitCode k)]
  | .unpackOx4 o => [o.word 0x5A 2]
  | .xchg k o => [o.word 0x60 k.code]
  | .vote k o => [o.word 0x61 k.code]
  | .matchOp all o => [o.word 0x62 (bitCode all)]
  | .redux op o => [o.word 0x63 (0#1 ++ op.code)]
  | .prefixOp op k o => [o.word 0x64 (BitVec.ofBool k ++ op.code)]
  | .pick o => [o.word 0x65 0]
  | .lid k o => [o.word 0x66 k.code]
  | .segm op k o => [o.word 0x67 (BitVec.ofBool k ++ op.code)]
  | .ld k o => [o.word 0x70 k.code]
  | .st k o => [o.word 0x71 k.code]
  | .ldu k o => [o.word 0x72 k.code]
  | .stu k o => [o.word 0x73 k.code]
  | .lds k o => [o.word 0x74 k.code]
  | .sts k o => [o.word 0x75 k.code]
  | .ldc k o => [o.word 0x76 k.code]
  | .stc k o => [o.word 0x77 k.code]
  | .ldk k o => [o.word 0x78 k.code]
  | .setfe o => [o.word 0x79 0]
  | .clrfe o => [o.word 0x7A 0]
  | .atom k o => [o.word 0x80 k.code]
  | .atomcas k o => [o.word 0x81 (bitCode k)]
  | .red k o => [o.word 0x82 k.code]
  | .atomf k o => [o.word 0x83 (bitCode k)]
  | .redf k o => [o.word 0x84 (bitCode k)]
  | .tbeg o => [o.word 0x85 0]
  | .tend o => [o.word 0x86 0]
  | .tabt o => [o.word 0x87 0]
  | .tstat o => [o.word 0x88 0]
  | .fence o => [o.word 0x90 0]
  | .pathf k o => [o.word 0x91 k.code]
  | .placef o => [o.word 0x92 0]
  | .barinit o => [o.word 0x93 0]
  | .arrive o => [o.word 0x94 0]
  | .arriveInb o => [o.word 0x94 1]
  | .arriveOutb o => [o.word 0x94 2]
  | .barwait k o => [o.word 0x95 (bitCode k)]
  | .bwatch k o => [o.word 0x96 (0#1 ++ k)]
  | .decl k o => [o.word 0x97 k.code]
  | .redecl k o => [o.word 0x98 k.code]
  | .undecl o => [o.word 0x99 0]
  | .placeq o => [o.word 0x9A 0]
  | .mlds o => o.words none
  | .mldsBar o b => o.words (some b)
  | .mswap q => qsetWords 0xA1 q
  | .mloop o => o.words
  | .mdrain o => o.words
  | .mzero o => o.words
  | .mcomp o => o.words
  | .mfuse q => qsetWords 0xA6 q
  | .mread o => o.words
  | .mstat q d => mstatWords q d
  | .nest op ty n => n.words 0xB0 op.code ty.code
  | .ragged pr n => n.words 0xB1 (0#1 ++ pr) 0
  | .fork o => o.words
  | .rdv o => [o.word 0xC1 0]
  | .lace o => o.words
  | .laceg o => o.words
  | .awlmodeOn k o => [o.word 0xC4 k]
  | .awlmodeOff o => [o.word 0xC4 0]
  | .awlbc all o => [o.word 0xC5 (bitCode all)]
  | .awlmac o => [o.word 0xC6 0]
  | .awlrd o => [o.word 0xC7 0]
  | .trap o => [o.word 0xD0 0]
  | .brk o => [o.word 0xD3 0]
  | .hcall o => [o.word 0xD2 0]
  | .rfh o => [o.word 0xD1 0]
  | .rfhSkip o => [o.word 0xD1 1]
  | .tmaskOff o => [o.word 0xD4 0]
  | .tmaskOn o => [o.word 0xD4 1]
  | .hset o => [o.word 0xD5]
  | .transactionCommit _ | .quadrantStart _ _ | .mloopStep _ _ _ | .matrixComplete _ _
    | .engineProgramEnd _ _ | .laceCopyStart _ _ | .laceSourceRead _ _ _
    | .laceGranuleLanding _ _ _ | .laceCopyComplete _ _ | .sessionDrainDone _ | .sessionDeadline _
    | .clauseStart | .issueWindowStart _ | .issueWindowEnd _ | .windowReclaim _
    | .teamStreamWake _ | .placementStep _ _ | .teamEnd _ | .requestAtTarget _
    | .completionReceive _ | .faultHalt _ | .generationHoldExpiry _ | .frameBoundary
    | .channelRequestIssue _ | .leaveGrant _ | .preemptionRequest _ _ | .saveComplete _
    | .trackerPeriodEnd _ _ | .scrubSector _ | .flitReceive _ _ | .railFailure _ _
    | .laneCalibration _ _ | .linkDown _ | .zoneEvaluation _ _ _ _ | .dryDeclaration _
    | .evacuationSaveTimeout _ | .evacuationPurge _ | .evacuationPulse _ | .evacuationReprime _
    | .evacuationVerify _ _ | .switchStart _ _ _ _ | .switchDeadline1 | .switchDeadline2
    | .switchFinish | .homeMapCommit _ _ | .faultQueueRdWrite _ _ _ | .faultResume _ _ _
    | .faultKill _ _ _ | .tlbInvalidate _ _ _ _ | .frameRelease _ _ | .ownershipWrite _ _ _ _
    | .domainControlWrite _ _ _ | .mscScratchWrite _ _ _ | .vdControlWrite _ _ _
    | .calendarSwap _ _ | .calendarEntryWrite _ _ _ _ | .bucketWrite _ _ _ _
    | .contractWrite _ _ _ _ _ _ | .repairByteWrite _ _ _ _ | .coolantZoneWrite _ _ _ _
    | .fenceClear _ _ _ | .notifyWrite _ _ _ | .packetTake _ | .waitvalPoll _ | .launchComplete _
    | .pauseClear _ _ | .hostSnoop _ | .hostMemAccess _ _ | .attestation _ _ | .keyWrap _ _
    | .journalPeriod | .journalRdWrite _ _ _ | .coldReset | .warmReset _ | .registerWrite _ _ _ _
    | .completionAcknowledgement _ | .linkUp _
  => []

/-! ## The decoder -/

/-- Words of the instruction that a major opcode begins (R102). -/
def opcodeWords (opc : Nat) : Nat :=
  if (0xA0 ≤ opc && opc ≤ 0xA8) || opc == 0xC0 || opc == 0xC2 || opc == 0xC3 then 2
  else if opc == 0xB0 || opc == 0xB1 then 4
  else 1

/-- Words of the instruction whose word 0 is `w`. -/
def wordCount (w : DWord) : Nat := opcodeWords (w.extractLsb' 56 8).toNat

/-- The instruction an opcode of format F-3R names. -/
def pickF3 (opc : Nat) (sub : BitVec 4) (o : F3) : Except Illegal Instr :=
  match opc, sub.toNat with
  | 0x01, 0 => .ok (.add o)
  | 0x02, 0 => .ok (.sub o)
  | 0x03, 0 => .ok (.mul o)
  | 0x04, 0 => .ok (.mulh o)
  | 0x06, 0 => .ok (.div o)
  | 0x07, 0 => .ok (.rem o)
  | 0x08, 0 => .ok (.min o)
  | 0x09, 0 => .ok (.max o)
  | 0x0D, 0 => .ok (.lea o)
  | 0x10, 0 => .ok (.and o)
  | 0x11, 0 => .ok (.or o)
  | 0x12, 0 => .ok (.xor o)
  | 0x13, 0 => .ok (.andn o)
  | 0x17, 0 => .ok (.rot o)
  | 0x18, 0 => .ok (.popc o)
  | 0x19, 0 => .ok (.clz o)
  | 0x1A, 0 => .ok (.ffs o)
  | 0x1B, 0 => .ok (.brev o)
  | 0x1C, 0 => .ok (.bfe o)
  | 0x1D, 0 => .ok (.bfi o)
  | 0x1E, 0 => .ok (.clmul o)
  | 0x1F, 0 => .ok (.sel o)
  | 0x22, 0 => .ok (.pand o)
  | 0x23, 0 => .ok (.por o)
  | 0x24, 0 => .ok (.pxor o)
  | 0x25, 0 => .ok (.pnot o)
  | 0x37, 0 => .ok (.nop o)
  | 0x38, 0 => .ok (.tfence o)
  | 0x39, 0 => .ok (.getf o)
  | 0x39, 1 => .ok (.getfClr o)
  | 0x3A, 0 => .ok (.clrf o)
  | 0x3A, 1 => .ok (.clrfFen o)
  | 0x3A, 2 => .ok (.clrfLoad o)
  | 0x3B, 0 => .ok (.rdsr o)
  | 0x40, 0 => .ok (.fadd o)
  | 0x41, 0 => .ok (.fsub o)
  | 0x42, 0 => .ok (.fmul o)
  | 0x43, 0 => .ok (.ffma o)
  | 0x44, 0 => .ok (.fmin o)
  | 0x45, 0 => .ok (.fmax o)
  | 0x46, 0 => .ok (.fdiv o)
  | 0x47, 0 => .ok (.fscale o)
  | 0x49, 0 => .ok (.fclass o)
  | 0x4A, 0 => .ok (.fdot2 o)
  | 0x50, 0 => .ok (.frcp o)
  | 0x51, 0 => .ok (.frsq o)
  | 0x52, 0 => .ok (.fsqrt o)
  | 0x53, 0 => .ok (.fexp2 o)
  | 0x54, 0 => .ok (.flog2 o)
  | 0x55, 0 => .ok (.fsin o)
  | 0x56, 0 => .ok (.fcos o)
  | 0x57, 0 => .ok (.ftanh o)
  | 0x59, 2 => .ok (.packOx4 o)
  | 0x5A, 2 => .ok (.unpackOx4 o)
  | 0x65, 0 => .ok (.pick o)
  | 0x87, 0 => .ok (.tabt o)
  | 0x88, 0 => .ok (.tstat o)
  | 0x92, 0 => .ok (.placef o)
  | 0x99, 0 => .ok (.undecl o)
  | 0x9A, 0 => .ok (.placeq o)
  | 0xC1, 0 => .ok (.rdv o)
  | 0xC6, 0 => .ok (.awlmac o)
  | 0xC7, 0 => .ok (.awlrd o)
  | 0xD1, 0 => .ok (.rfh o)
  | 0xD1, 1 => .ok (.rfhSkip o)
  | 0xD4, 0 => .ok (.tmaskOff o)
  | 0xD4, 1 => .ok (.tmaskOn o)
  | _, _ =>
  match opc with
  | 0x05 => (bitOfCode sub).elim (.error .code) fun k => .ok (.mad k o)
  | 0x0A => (bitOfCode sub).elim (.error .code) fun k => .ok (.add64 k o)
  | 0x0B => (bitOfCode sub).elim (.error .code) fun k => .ok (.sub64 k o)
  | 0x0C => (bitOfCode sub).elim (.error .code) fun k => .ok (.mul64 k o)
  | 0x0E => (bitOfCode sub).elim (.error .code) fun k => .ok (.dp4 k o)
  | 0x14 => (bitOfCode sub).elim (.error .code) fun k => .ok (.shl k o)
  | 0x15 => (bitOfCode sub).elim (.error .code) fun k => .ok (.shr k o)
  | 0x16 => (bitOfCode sub).elim (.error .code) fun k => .ok (.sar k o)
  | 0x20 => (ICond.ofCode sub).elim (.error .code) fun k => .ok (.icmp k o)
  | 0x21 => (FCond.ofCode sub).elim (.error .code) fun k => .ok (.fcmp k o)
  | 0x26 => (bitOfCode sub).elim (.error .code) fun k => .ok (.pset k o)
  | 0x48 => (bitOfCode sub).elim (.error .code) fun k => .ok (.fround k o)
  | 0x58 => (CvtVar.ofCode sub).elim (.error .code) fun k => .ok (.cvt k o)
  | 0x60 => (XMode.ofCode sub).elim (.error .code) fun k => .ok (.xchg k o)
  | 0x61 => (VMode.ofCode sub).elim (.error .code) fun k => .ok (.vote k o)
  | 0x62 => (bitOfCode sub).elim (.error .code) fun k => .ok (.matchOp k o)
  | 0x66 => (LidMode.ofCode sub).elim (.error .code) fun k => .ok (.lid k o)
  | 0xC5 => (bitOfCode sub).elim (.error .code) fun k => .ok (.awlbc k o)
  | 0x59 => (bitOfCode sub).elim (.error .code) fun k => .ok (.pack k o)
  | 0x5A => (bitOfCode sub).elim (.error .code) fun k => .ok (.unpack k o)
  | 0x63 =>
    if sub.getLsbD 3 then .error .code
    else (ROp.ofCode (sub.extractLsb' 0 3)).elim (.error .code) fun k => .ok (.redux k o)
  | 0x64 => (ROp.ofCode (sub.extractLsb' 0 3)).elim (.error .code) fun k =>
      .ok (.prefixOp k (sub.getLsbD 3) o)
  | 0x67 => (ROp.ofCode (sub.extractLsb' 0 3)).elim (.error .code) fun k =>
      .ok (.segm k (sub.getLsbD 3) o)
  | _ => .error .code

/-- The instruction an opcode of format F-RI names. -/
def pickFRI (opc : Nat) (sub : BitVec 4) (o : FRI) : Except Illegal Instr :=
  match opc, sub.toNat with
  | 0x0F, 0 => .ok (.li o)
  | 0x0F, 1 => .ok (.liSx o)
  | 0x0F, 2 => .ok (.liZx o)
  | 0x36, 0 => .ok (.wait o)
  | 0xD0, 0 => .ok (.trap o)
  | 0xD2, 0 => .ok (.hcall o)
  | 0xD3, 0 => .ok (.brk o)
  | _, _ => .error .code

/-- The instruction an opcode of format F-BR names. -/
def pickFBR (opc : Nat) (o : FBR) : Except Illegal Instr :=
  match opc with
  | 0x30 => .ok (.br o)
  | 0x31 => .ok (.brdiv o)
  | 0x32 => .ok (.join o)
  | 0x33 => .ok (.call o)
  | 0x34 => .ok (.ret o)
  | 0x35 => .ok (.exit o)
  | 0x3C => .ok (.brx o)
  | 0xD5 => .ok (.hset o)
  | _ => .error .code

/-- The instruction an opcode of format F-MEM names. -/
def pickFMem (opc : Nat) (sub : BitVec 4) (o : FMem) : Except Illegal Instr :=
  match opc, sub.toNat with
  | 0x79, 0 => .ok (.setfe o)
  | 0x7A, 0 => .ok (.clrfe o)
  | 0x85, 0 => .ok (.tbeg o)
  | 0x86, 0 => .ok (.tend o)
  | 0x90, 0 => .ok (.fence o)
  | 0x93, 0 => .ok (.barinit o)
  | 0x94, 0 => .ok (.arrive o)
  | 0x94, 1 => .ok (.arriveInb o)
  | 0x94, 2 => .ok (.arriveOutb o)
  | 0xC4, 0 => .ok (.awlmodeOff o)
  | 0xC4, _ => .ok (.awlmodeOn sub o)
  | _, _ =>
  match opc with
  | 0x70 => (Width.ofCode sub).elim (.error .code) fun k => .ok (.ld k o)
  | 0x71 => (Width.ofCode sub).elim (.error .code) fun k => .ok (.st k o)
  | 0x72 => (Width.ofCode sub).elim (.error .code) fun k => .ok (.ldu k o)
  | 0x73 => (Width.ofCode sub).elim (.error .code) fun k => .ok (.stu k o)
  | 0x74 => (Width.ofCode sub).elim (.error .code) fun k => .ok (.lds k o)
  | 0x75 => (Width.ofCode sub).elim (.error .code) fun k => .ok (.sts k o)
  | 0x76 => (Width.ofCode sub).elim (.error .code) fun k => .ok (.ldc k o)
  | 0x77 => (Width.ofCode sub).elim (.error .code) fun k => .ok (.stc k o)
  | 0x78 => (Width.ofCode sub).elim (.error .code) fun k => .ok (.ldk k o)
  | 0x80 => (AOp.ofCode sub).elim (.error .code) fun k => .ok (.atom k o)
  | 0x81 => (bitOfCode sub).elim (.error .code) fun k => .ok (.atomcas k o)
  | 0x82 => (AOp.ofCode sub).elim (.error .code) fun k => .ok (.red k o)
  | 0x83 => (bitOfCode sub).elim (.error .code) fun k => .ok (.atomf k o)
  | 0x84 => (bitOfCode sub).elim (.error .code) fun k => .ok (.redf k o)
  | 0x91 => (PathSel.ofCode sub).elim (.error .code) fun k => .ok (.pathf k o)
  | 0x95 => (bitOfCode sub).elim (.error .code) fun k => .ok (.barwait k o)
  | 0x97 => (DKind.ofCode sub).elim (.error .code) fun k => .ok (.decl k o)
  | 0x98 => (DKind.ofCode sub).elim (.error .code) fun k => .ok (.redecl k o)
  | 0x96 => if sub.getLsbD 3 then .error .code else .ok (.bwatch (sub.extractLsb' 0 3) o)
  | _ => .error .code

/-- The instruction an opcode of format F-M or F-N names. -/
def pickWide (opc : Nat) (w0 w1 w2 w3 : DWord) : Except Illegal Instr :=
  match opc with
  | 0xA0 =>
    if w0.getLsbD 55 then .ok (.mldsBar (MldsOps.ofWords w0 w1) (BarOps.ofWord w0))
    else .ok (.mlds (MldsOps.ofWords w0 w1))
  | 0xA1 => .ok (.mswap (w0.extractLsb' 48 4))
  | 0xA2 => (MloopOps.ofWords w0 w1).elim (.error .code) fun o => .ok (.mloop o)
  | 0xA3 => (MdrainOps.ofWords w0 w1).elim (.error .code) fun o => .ok (.mdrain o)
  | 0xA4 => .ok (.mzero (MzeroOps.ofWord w0))
  | 0xA5 => .ok (.mcomp (McompOps.ofWords w0 w1))
  | 0xA6 => .ok (.mfuse (w0.extractLsb' 48 4))
  | 0xA7 => .ok (.mread (MreadOps.ofWord w0))
  | 0xA8 => .ok (.mstat (w0.extractLsb' 48 4) (w0.extractLsb' 32 8))
  | 0xB0 =>
    match NestOp.ofCode (w0.extractLsb' 52 4), Ty.ofCode (w0.extractLsb' 48 4) with
    | some op, some ty => .ok (.nest op ty (FN.ofWords w0 w1 w2 w3))
    | _, _ => .error .code
  | 0xB1 =>
    if w0.getLsbD 55 then .error .code
    else .ok (.ragged (w0.extractLsb' 52 3) (FN.ofWords w0 w1 w2 w3))
  | 0xC0 => (ForkOps.ofWords w0 w1).elim (.error .code) fun o => .ok (.fork o)
  | 0xC2 => .ok (.lace (LaceOps.ofWords w0 w1))
  | 0xC3 => .ok (.laceg (LacegOps.ofWords w0 w1))
  | _ => .error .code

/-- The format of a major opcode (R111); none for an unassigned one. -/
inductive Fmt where
  | f3 | fri | fbr | fmem | wide
deriving DecidableEq, Repr

def fmtOf (opc : Nat) : Option Fmt :=
  match opc with
  | 0x01 | 0x02 | 0x03 | 0x04 | 0x05 | 0x06 | 0x07 | 0x08 | 0x09 | 0x0A
  | 0x0B | 0x0C | 0x0D | 0x0E | 0x10 | 0x11 | 0x12 | 0x13 | 0x14 | 0x15
  | 0x16 | 0x17 | 0x18 | 0x19 | 0x1A | 0x1B | 0x1C | 0x1D | 0x1E | 0x1F
  | 0x20 | 0x21 | 0x22 | 0x23 | 0x24 | 0x25 | 0x26 | 0x37 | 0x38 | 0x39
  | 0x3A | 0x3B | 0x40 | 0x41 | 0x42 | 0x43 | 0x44 | 0x45 | 0x46 | 0x47
  | 0x48 | 0x49 | 0x4A | 0x50 | 0x51 | 0x52 | 0x53 | 0x54 | 0x55 | 0x56
  | 0x57 | 0x58 | 0x59 | 0x5A | 0x60 | 0x61 | 0x62 | 0x63 | 0x64 | 0x65
  | 0x66 | 0x67 | 0x87 | 0x88 | 0x92 | 0x99 | 0x9A | 0xC1 | 0xC5 | 0xC6
  | 0xC7 | 0xD1 | 0xD4 => some .f3
  | 0x0F | 0x36 | 0xD0 | 0xD2 | 0xD3 => some .fri
  | 0x30 | 0x31 | 0x32 | 0x33 | 0x34 | 0x35 | 0x3C | 0xD5 => some .fbr
  | 0x70 | 0x71 | 0x72 | 0x73 | 0x74 | 0x75 | 0x76 | 0x77 | 0x78 | 0x79
  | 0x7A | 0x80 | 0x81 | 0x82 | 0x83 | 0x84 | 0x85 | 0x86 | 0x90 | 0x91
  | 0x93 | 0x94 | 0x95 | 0x96 | 0x97 | 0x98 | 0xC4 => some .fmem
  | 0xA0 | 0xA1 | 0xA2 | 0xA3 | 0xA4 | 0xA5 | 0xA6 | 0xA7 | 0xA8 | 0xB0
  | 0xB1 | 0xC0 | 0xC2 | 0xC3 => some .wide
  | _ => none

/-- The instruction that the fields name, before its fields are checked. -/
def candidate (w0 w1 w2 w3 : DWord) : Except Illegal Instr :=
  let opc := (w0.extractLsb' 56 8).toNat
  let sub := w0.extractLsb' 52 4
  match fmtOf opc with
  | none => .error .opcode
  | some .f3 => (F3.ofWord w0).elim (.error .code) (pickF3 opc sub)
  | some .fri => pickFRI opc sub (FRI.ofWord w0)
  | some .fbr => pickFBR opc (FBR.ofWord w0)
  | some .fmem => (FMem.ofWord w0).elim (.error .code) (pickFMem opc sub)
  | some .wide => pickWide opc w0 w1 w2 w3

/-- Decode the instruction at the head of a list of words, word 0 first: the instruction, or why
there is none. Words after the instruction are not read. -/
def decode (ws : List DWord) : Except Illegal Instr :=
  match ws with
  | [] => .error .length
  | w0 :: rest =>
    let n := wordCount w0
    if ws.length < n then .error .length
    else
      match candidate w0 (rest.getD 0 0) (rest.getD 1 0) (rest.getD 2 0) with
      | .error e => .error e
      | .ok i =>
        if !i.wf then .error .field
        else if encode i != ws.take n then .error .reserved
        else .ok i

/-! ## Words as the opcode table numbers them -/

/-- The four words of a number whose bit 0 is bit 0 of word 0. -/
def tableWords (w : Nat) : List DWord :=
  [BitVec.ofNat 64 w, BitVec.ofNat 64 (w >>> 64), BitVec.ofNat 64 (w >>> 128),
   BitVec.ofNat 64 (w >>> 192)]

/-- The instruction read from an instruction whose bits are `w`; bits at or above `nbits` are 0. -/
def decodeTableWord (nbits w : Nat) : Option Instr :=
  match decode (tableWords (w % 2 ^ nbits)) with
  | .ok i => some i
  | .error _ => none

/-- The little-endian bytes of a word (R95). -/
def DWord.bytes (w : DWord) : List Byte :=
  (List.range 8).map fun i => w.extractLsb' (8 * i) 8

/-- The word that eight little-endian bytes hold. -/
def DWord.ofBytes (bs : List Byte) : DWord :=
  bs.foldr (fun b acc => (acc <<< 8) ||| b.setWidth 64) 0

/-- Words of a list of bytes; bytes past the last whole word are dropped. -/
def wordsOfBytes (fuel : Nat) (bs : List Byte) : List DWord :=
  match fuel with
  | 0 => []
  | fuel + 1 =>
    if bs.length < 8 then [] else DWord.ofBytes (bs.take 8) :: wordsOfBytes fuel (bs.drop 8)

/-- Decode from bytes: total on any bytes. -/
def decodeBytes (bs : List Byte) : Except Illegal Instr := decode (wordsOfBytes 4 bs)

end Sys2Proof
end

