-- ==== Sys2Proof/Machine/Net.lean ====
section
/-! DEFINITION. Packets of the replay set and requests (02 R57, R61, R65): issue of an instruction
that does not complete within the core's pipeline, and its completion. -/

namespace Sys2Proof.Machine

/-- What a packet sends: a target, what it asks, and for which lanes. -/
structure Send where
  target : Target
  op     : ReqOp
  lanes  : List PLane
deriving DecidableEq, Repr

/-- A lane of a packet with its operands. -/
def pLane (vid : Nat) (ops : List DWord) (addr : DWord) : PLane :=
  { vid := vid, ops := ops, addr := addr, done := false, fault := none }

/-- A packet of an instruction where its team stands. -/
def Team.packet (t : Team) (i : Instr) (inst : PInst) (c : Ctr) (uniform : Bool) (lanes : List PLane)
    (fetches : List Fetch) : Packet :=
  { instr := i, pc := t.pc, word := t.word, seq := t.seq, gen := t.gen, inst := inst, ctr := c,
    path := (pathVids t.div).getD [], slots := t.lanes.map (fun l => (l.vid, l.slot)),
    uniform := uniform, lanes := lanes, fetches := fetches, progress := 0, landed := [], counted := [], region := none, checked := false, mat := none,
    copy := none, flags := 0, complete := false, stop := none }

/-- Virtual ids of the lanes that run a packet's instruction. -/
def Packet.runs (p : Packet) (t : Team) : List Nat := if p.path.isEmpty then t.lanes.map (fun l => l.vid) else p.path

/-- The request of a packet. -/
def Team.req (t : Team) (clock : Nat) (pk : Packet) (x : Send) : Req :=
  { orphan := false, instr := pk.instr, uniform := pk.uniform, fam := t.fam, group := t.group,
    ctx := t.ctx, gen := t.gen, seq := pk.seq, inst := pk.inst, target := x.target, op := x.op,
    lanes := x.lanes, sent := clock, rcvd := none, id := 0,
    route := [] }

/-- The time of the last send under a generation (R64). -/
def noteSend (gen : BitVec 8) (clock : Nat) (l : List (BitVec 8 × Nat)) : List (BitVec 8 × Nat) :=
  (gen, clock) :: l.filter (fun e => e.1 != gen)

/-- The counter would pass 63 (R57). -/
def Team.full (t : Team) (c : Ctr) : Bool := decide (63 ≤ t.ctr c)

/-- An instruction is held back where its team stands: the clause stalls, and the team is not ready (R36). -/
def State.stallOn (s : State) (ctx : Nat) (x : Stall) : State := s.modTeam ctx (fun t => { t with stall := some x })

/-- A counter at 63 holds an instruction back (R57). -/
def State.stallAt (s : State) (ctx : Nat) (c : Ctr) : State := s.stallOn ctx (.full c)

/-- An instruction of `n` words issues and raises a counter (R57, R61, R65): it takes the next
sequence number, joins the replay set, makes registers and predicates pending, and sends its
requests. Where the counter stands at 63 it does not issue: the clause stalls (R36). -/
def State.issuePacket (s : State) (ctx n : Nat) (pk : Packet) (pend : List Nat) (pendP : List Nat)
    (sends : List Send) : State :=
  match s.team? ctx with
  | none => s
  | some t =>
    if t.full pk.ctr then s.stallAt ctx pk.ctr
    else
      let pk := { pk with seq := t.seq, gen := t.gen }
      let rs := sends.map (fun x => t.req s.clock pk x)
      let t := { t.raise pk.ctr with
        seq := t.seq + 1, replay := t.replay ++ [pk]
        pend := t.pend ++ pend.map (fun r => (pk.path, BitVec.ofNat 8 r)), pendP := t.pendP ++ pendP.map (fun p => (pk.path, p))
        sends := if sends.isEmpty then t.sends else noteSend t.gen s.clock t.sends }
      (s.sendReqs rs).settle (t.advance n)

/-- The packet of a sequence number. -/
def Team.pk? (t : Team) (seq : BitVec 16) : Option Packet := t.replay.find? (fun p => p.seq == seq)

/-- Change the packet of a sequence number. -/
def Team.modPk (t : Team) (seq : BitVec 16) (f : Packet → Packet) : Team :=
  { t with replay := updFirst (fun p => p.seq == seq) f t.replay }

/-- The packet of a sequence number goes. -/
def Team.dropPk (t : Team) (seq : BitVec 16) : Team :=
  { t with replay := t.replay.filter (fun p => p.seq != seq) }

/-- Registers of a packet of the lanes `path` are no longer pending (R59). -/
def Team.unpend (t : Team) (path : List Nat) (rs : List Nat) (ps : List Nat) : Team :=
  { t with pend := t.pend.filter (fun r => !(r.1 == path && rs.contains r.2.toNat))
           pendP := t.pendP.filter (fun p => !(p.1 == path && ps.contains p.2)) }

/-- The core receives the completion of a packet (R57): the counter falls, the packet awaits its
acknowledgement. -/
def Team.completePk (t : Team) (seq : BitVec 16) : Team :=
  match t.pk? seq with
  | some p => if p.complete then t
      else (t.lower' p.ctr).modPk seq (fun p => { p with complete := true })
  | none => t

/-- The key of a register's value at a Welt unit in the table of uniform values; at TEAM it is the
register's number. -/
def memKey (welt : Nat) (r : Nat) : Nat := 256 * (welt + 1) + r

/-- The value of `n` registers at a Welt unit. -/
def State.readMem (s : State) (f ctx welt : Nat) (r : Reg) (n : Nat) : DWord × State :=
  if r = Reg.z then (0, s)
  else
    let (lo, s) := s.readUni f ctx (memKey welt r.toNat)
    if n = 2 then
      let (hi, s) := s.readUni f ctx (memKey welt (r.toNat + 1))
      (hi ++ lo, s)
    else (lo.setWidth 64, s)

/-- `n` registers at a Welt unit written. -/
def State.writeMem (s : State) (f ctx welt : Nat) (r : Reg) (n : Nat) (v : DWord) : State :=
  if r = Reg.z then s
  else
    let s := s.writeUni f ctx (memKey welt r.toNat) (v.setWidth 32)
    if n = 2 then s.writeUni f ctx (memKey welt (r.toNat + 1)) ((v >>> 32).setWidth 32) else s

/-- The registers at MEM that operand `op` names, with their Welt units (R50). -/
def State.fetchesOf (s : State) (t : Team) (op : Nat) (r : Reg) (n : Nat) : List Fetch :=
  match s.locOf t r with
  | .mem w => (regNums r n).map (fun k => { op := op, reg := BitVec.ofNat 8 k, welt := w, val := none })
  | _ => []

/-- The registers at MEM that the sources of a description name. -/
def State.descFetches (s : State) (t : Team) (d : OpDesc) : List Fetch :=
  (d.srcs.zip (List.range d.srcs.length)).flatMap (fun x =>
    match x.1 with
    | .reg r n _ => s.fetchesOf t x.2 r n
    | _ => [])

/-- The requests that carry out fetches (R50). -/
def fetchSends (fs : List Fetch) : List Send :=
  fs.map (fun f => { target := .welt f.welt, op := .fetch f.op f.reg, lanes := [] })

/-- Place fetched values in operand lists; the odd register of a pair is the high half. -/
def placeFetched (srcs : List Src) (fs : List Fetch) (ops : List DWord) : List DWord :=
  fs.foldl (fun ops f =>
    match f.val with
    | none => ops
    | some v =>
      let pair : Bool := match srcs[f.op]? with
        | some (.reg _ n _) => n == 2
        | _ => false
      let old := opAt ops f.op
      let x : DWord := if pair && f.reg.getLsbD 0 then v ++ old.extractLsb' 0 32
        else if pair then old.extractLsb' 32 32 ++ v
        else v.setWidth 64
      ops.set f.op x) ops

/-- Every value of a packet has been fetched. -/
def Packet.fetched (p : Packet) : Bool := p.fetches.all (fun f => f.val.isSome)

end Sys2Proof.Machine
end

