-- ==== Sys2Proof/Machine/Agents.lean ====
section
/-! DEFINITION. The agent that issues an instruction: a team, with the aborts of an open transaction
span (07 R187), or an engine program, with the instructions its class permits (04 R101). -/

namespace Sys2Proof.Machine

/-- The major opcode of an instruction; 0 for a step of the package. -/
def opcOf (i : Instr) : Nat := (((encode i).headD 0).extractLsb' 56 8).toNat

/-- A number lies in a range. -/
def within (lo hi n : Nat) : Bool := decide (lo ≤ n) && decide (n ≤ hi)

/-- Opcodes that abort every transactional lane before they execute (R187). -/
def abortsSpan (opc : Nat) : Bool :=
  within 0x72 0x77 opc || within 0x79 0x85 opc || within 0x90 0x99 opc || within 0xA0 0xD5 opc

/-- A lane's transaction ends with a status; what it logged and buffered is discarded (R188). -/
def Lane.endTx (l : Lane) (st : TxSt) : Lane :=
  { l with tx := { l.tx with st := st, log := [], buf := [] } }

/-- Abort the ACTIVE lanes that satisfy `p` (R188). -/
def Team.abortTx (t : Team) (p : Lane → Bool) (st : TxSt) : Team :=
  t.mapLanes (fun l => if l.tx.st = .active ∧ p l then l.endTx st else l)

/-- A team as it issues `i` (R187). -/
def Team.issuing (t : Team) (i : Instr) : Team :=
  if t.span.isSome && abortsSpan (opcOf i) then t.abortTx (fun _ => true) .unsupported else t

/-- What an engine clause may hold (R101): `k` numbers the program. `nop` is among it, as R101's list has it; R146, which
leaves the rest of its group out beside `br` and `wait`, is read not to take it back (log entry 82). -/
def engineMay (k opc : Nat) : Bool :=
  within 0x01 0x1F opc || [0x20, 0x30, 0x36, 0x37, 0x94, 0xC1].contains opc
  || (decide (8 ≤ k) && (within 0xA0 0xA6 opc || opc == 0xA8))
  || (decide (k < 8) && (opc == 0xC2 || opc == 0xC3))

/-- The agent whose turn it is issues `i`. -/
def State.byAgent (s : State) (i : Instr) (team : State → Team → State)
    (eng : State → Nat → Nat → State) : State :=
  match s.turn with
  | .none => s
  | .engine g k => if engineMay k (opcOf i) then eng s g k else s.engineStop g k
  | .team ctx =>
    match s.team? ctx with
    | none => s
    | some t => team (s.setTeam (t.issuing i)) (t.issuing i)

/-- An instruction that no engine program may hold. -/
def State.byTeam (s : State) (i : Instr) (team : State → Team → State) : State :=
  s.byAgent i team (fun s g k => s.engineStop g k)

end Sys2Proof.Machine
end

