-- ==== Sys2Proof/Machine/Issue.lean ====
section
/-! DEFINITION. Issue of a register instruction (02 R48 to R53, R57, R59; 05 R114; 06 R159), its
execution at a Welt unit, and its completion at the core. -/

namespace Sys2Proof.Machine

/-- A lane of a packet of a register instruction: its operands, whether it takes part, its slot. -/
def pLaneOf (l : LaneIn) : PLane := pLane l.vid (l.ops ++ [boolOp l.act, BitVec.ofNat 64 l.slot]) 0

/-- What a lane of a packet takes into the computation, fetched values in place. -/
def laneInOfPk (d : OpDesc) (fs : List Fetch) (l : PLane) : LaneIn :=
  let n := d.srcs.length
  { vid := l.vid, slot := (opAt l.ops (n + 1)).toNat, act := opAt l.ops n != 0,
    ops := placeFetched d.srcs fs (l.ops.take n) }

/-- The registers that a description makes pending at the core (R59). -/
def State.descPend (s : State) (t : Team) (d : OpDesc) : List Nat :=
  let ofDst : Dst → List Nat := fun x => match x with
    | .reg r n => if (s.locOf t r).remote then [] else regNums r n
    | .pcode _ => []
  ofDst d.dst ++ d.dst2.elim [] ofDst

/-- The predicates that a description makes pending; p0 and q0 never are. -/
def OpDesc.pendPreds (d : OpDesc) : List Nat :=
  let ofDst : Dst → List Nat := fun x => match x with
    | .pcode c => if pcodeNum c = 0 then [] else [predKey (pcodeQ c) (pcodeNum c)]
    | .reg _ _ => []
  ofDst d.dst ++ d.dst2.elim [] ofDst

/-- The guard of an instruction: a uniform place reads the q predicate of PRED (R109); at LANE the p
predicate selects lanes instead. -/
def State.guard (s : State) (t : Team) (uni : Bool) (p : Pred) : Bool × State :=
  if uni then s.qPred t p else (true, s)

/-- A register instruction sent to a Welt unit (R48, R57): TEAM values and the predicate travel with
it; values at other Welt units are fetched. -/
def State.sendAtMem (s : State) (t : Team) (i : Instr) (d : OpDesc) (w : Nat) (on : Bool)
    (vals : List (Option DWord)) : State :=
  let fs := s.descFetches t d
  let lane := pLane 0 (vals.map (fun v => v.getD 0) ++ [boolOp on, 0]) 0
  let pk := t.packet i (.welt w) .pl true [lane] fs
  s.issuePacket t.ctx 1 pk [] [] ({ target := .welt w, op := .exec, lanes := [lane] } ::
    fetchSends (fs.filter (fun f => f.welt != w)))

/-- A register instruction at the core (R114): within the pipeline where no value is fetched, and as a
packet that waits for its fetches otherwise. A value that makes the instruction ILLEGAL is never
fetched, so the test is made at issue, whatever the predicate holds (R109, R160). With no lane in Active(T) a
lane-shaped instruction has no effect (R109). -/
def State.runAtCore (s : State) (t : Team) (i : Instr) (d : OpDesc) (uni on : Bool)
    (vals : List (Option DWord)) : State :=
  let e0 := (s.launchOf t).e0
  let ls := lanesIn t d uni vals
  match d.run uni e0 ls with
  | none => s.takeTrap t.ctx 1 (plainTrap .illegal)
  | some out =>
    let fs := s.descFetches t d
    if !on || (!uni && !ls.any (fun l => l.act)) then s.advance t.ctx 1
    else if fs.isEmpty then (s.writeOut t d uni e0 ls out).advance t.ctx 1
    else s.issuePacket t.ctx 1 (t.packet i .core .pl uni (ls.map pLaneOf) fs)
      (s.descPend t d) d.pendPreds (fetchSends fs)

/-- A team issues a register instruction. -/
def State.teamDesc (s : State) (t : Team) (i : Instr) (d : OpDesc) : State :=
  match s.descCause t d with
  | some c => s.takeTrap t.ctx 1 (plainTrap c)
  | none =>
    let ex := s.execLoc t d
    let (on, s) := s.guard t ex.uniform d.pred
    let (vals, s) := s.readSrcs t ex.uniform d.srcs
    match ex with
    | .mem w => s.sendAtMem t i d w on vals
    | _ => s.runAtCore t i d ex.uniform on vals

/-- A register instruction of the agent whose turn it is. -/
def State.issueDesc (s : State) (i : Instr) (d : OpDesc) : State :=
  s.byAgent i (fun s t => s.teamDesc t i d) (fun s g k => s.engineDesc g k d)

/-- A register instruction executes at Welt unit `w` (R48, R52): operands at this unit are read now.
The flags that it raises are the second component (R86). -/
def State.descAtWelt (s : State) (f ctx w : Nat) (d : OpDesc) (pk : Packet) : State × Flags :=
  let (fs, s) := pk.fetches.foldl (fun (acc : List Fetch × State) x =>
    if x.welt = w then
      let (v, s) := acc.2.readUni f ctx (memKey w x.reg.toNat)
      (acc.1 ++ [{ x with val := some v }], s)
    else (acc.1 ++ [x], acc.2)) ([], s)
  match pk.lanes with
  | [] => (s, 0)
  | l :: _ =>
    let x := laneInOfPk d fs l
    if !x.act then (s, 0)
    else match d.run true 1 [x] with
      | none => (s, 0)
      | some out =>
        (match d.dst with
          | .reg r n => s.writeMem f ctx w r n out.val
          | .pcode _ => s, out.flags)

/-- The fetches of a register instruction at the core have all returned (R59): it computes and
writes. -/
def State.finishDesc (s : State) (ctx : Nat) (d : OpDesc) (pk : Packet) : State :=
  match s.team? ctx with
  | none => s
  | some t =>
    let e0 := (s.launchOf t).e0
    let ls := pk.lanes.map (laneInOfPk d pk.fetches)
    let s := match d.run pk.uniform e0 ls with
      | some out => s.writeOut t d pk.uniform e0 ls out
      | none => s
    s.modTeam ctx (fun t => t.unpend pk.path (s.descPend t d) d.pendPreds)

end Sys2Proof.Machine
end

