-- ==== Sys2Proof/Machine/Diverge.lean ====
section
/-! DEFINITION. Splits, joins, serial fallbacks and exits of lanes (01 R14 to R23; 02 R54; the shared
uniform state of R17). -/

namespace Sys2Proof.Machine

/-! ### The divergence stack -/

/-- Entries of a stack, those of a fallback counted on the running path (R22). -/
def divDepth : List DivEnt → Nat
  | [] => 0
  | .split _ _ :: t => 1 + divDepth t
  | .fallback ps :: t => (ps.head?.elim 0 (fun p => p.trail.length)) + divDepth t

/-- Entries that come from compacting splits (R22). -/
def splitCount (d : List DivEnt) : Nat :=
  (d.filter (fun e => match e with
    | .split _ _ => true
    | .fallback _ => false)).length

/-- The team is inside a serial fallback (R14). -/
def Team.inFallback (t : Team) : Bool :=
  match t.div with
  | .fallback _ :: _ => true
  | _ => false

/-- Whether an entry is open (R18). -/
def Team.divOpen (t : Team) : Bool := !t.div.isEmpty

/-! ### Paths of a fallback (R21) -/

/-- A path about to start at a clause. -/
def pathAt (vids trail : List Nat) (pc : DWord) : PathSt :=
  { vids := vids, trail := trail, pc := pc, word := 0, clause := [], loaded := false, tested := false,
    held := false, bar := none, few := none, done := false }

/-- Where the team stands, as its running path. -/
def Team.pathNow (t : Team) (p : PathSt) : PathSt :=
  { p with pc := t.pc, word := t.word, clause := t.clause, loaded := t.loaded, tested := t.tested,
           held := t.waiting, bar := t.bar }

/-- The team at the position of a path. -/
def Team.onPath (t : Team) (p : PathSt) : Team :=
  { t with pc := p.pc, word := p.word, clause := p.clause, loaded := p.loaded, tested := p.tested,
           waiting := p.held, stall := none, bar := p.bar }

/-- A path may run: it has not reached its `join`, and its FEW load has read. -/
def Team.pathReady (t : Team) (p : PathSt) : Bool :=
  !p.done && (match p.few with
    | none => true
    | some q => (t.pk? q).elim true (fun k => k.complete))

/-- The paths of the top entry. -/
def Team.paths (t : Team) : List PathSt :=
  match t.div with
  | .fallback ps :: _ => ps
  | _ => []

/-- The team with other paths in its top entry, running the first; with none the entry is popped. -/
def Team.setPaths (t : Team) (ps : List PathSt) : Team :=
  match t.div with
  | .fallback _ :: d =>
    (match ps with
    | [] => { t with div := d }
    | p :: _ => { t with div := .fallback ps :: d }.onPath p)
  | _ => t

/-- The first path that may run comes first, the others behind it in turn. -/
def Team.turnTo (t : Team) (ps : List PathSt) : Option (List PathSt) :=
  match ps.findIdx? t.pathReady with
  | some i => some (ps.drop i ++ ps.take i)
  | none => none

/-- The running path comes to a wait (R21): another path of the fallback takes its turn. Where no path
may run, the running one waits. -/
def Team.alternate (t : Team) : Team :=
  let t := t.wait
  match t.paths with
  | [] => t
  | p :: ps =>
    match t.turnTo (ps ++ [t.pathNow p]) with
    | some qs => t.setPaths qs
    | none => t

/-- The team waits at its instruction (R37), or its path of a fallback gives way (R21). -/
def State.waitAt (s : State) (ctx : Nat) : State :=
  match s.team? ctx with
  | some t => if t.inFallback then s.giveWay t.alternate else s.stand t.wait
  | none => s

/-- The team waits at its instruction on whichever path it stands: for what holds the team whole. -/
def State.standAt (s : State) (ctx : Nat) : State :=
  match s.team? ctx with
  | some t => s.stand t.wait
  | none => s

/-- The paths of fallback `n` have all reached its `join` or ended: they become one path past the `join` that was
reached last, whose path stands last in the list (R21). -/
def mergePaths (n : Nat) (ps : List PathSt) : Option (List PathSt) :=
  let inside := ps.filter (fun p => p.trail.contains n)
  match inside.getLast? with
  | none => none
  | some q =>
    if inside.all (fun p => p.done && p.trail.head? == some n) then
      some (pathAt (inside.flatMap (fun p => p.vids)) q.trail.tail q.pc ::
        ps.filter (fun p => !p.trail.contains n))
    else none

/-- The first path that has not reached its `join` comes first. -/
def notDone (ps : List PathSt) : List PathSt :=
  match ps.findIdx? (fun p => !p.done) with
  | some i => ps.drop i ++ ps.take i
  | none => ps

/-- After a path of the fallbacks `trail` has reached its `join`, when it stands last in `ps`, or has ended: paths
merge where they may, the fallback entry is popped when its outermost paths have merged, and otherwise the next path
runs; where none may, one that has not reached its `join` waits. -/
def Team.afterPath (t : Team) (trail : List Nat) (ps : List PathSt) : Team :=
  let qs := trail.foldl (fun ps n => (mergePaths n ps).getD ps) ps
  match qs with
  | [p] => if p.trail.isEmpty then (t.setPaths []).goto p.pc 0 else t.setPaths qs
  | _ => t.setPaths ((t.turnTo qs).getD (notDone qs))

/-- `brdiv` with a mixed condition in a serial fallback (R21): the taken path runs first. -/
def Team.fallBack (t : Team) (id : Nat) (taken fall : List Nat) (target next_ : DWord) : Team :=
  match t.div with
  | .fallback (p :: ps) :: _ =>
    t.setPaths (pathAt taken (id :: p.trail) target :: pathAt fall (id :: p.trail) next_ :: ps)
  | d =>
    let ps := [pathAt taken [id] target, pathAt fall [id] next_]
    { t with div := .fallback ps :: d }.onPath (pathAt taken [id] target)

/-! ### Uniform state of a split (R17) -/

/-- A context id that names no team: writes by teams that have ended. -/
def deadCtx : Nat := 2 ^ 20

/-- The newest write of a context id in a register. -/
def Cell.last? (c : Cell) (ctx : Nat) : Option Word := (c.log.find? (fun e => e.1 == ctx)).map (fun e => e.2)

/-- At a split the new child starts from what its parent last wrote. -/
def Cell.fork (c : Cell) (parent child : Nat) : Cell :=
  let log := c.log.map (fun e => if e.1 = child then (deadCtx, e.2) else e)
  match ({ c with log := log } : Cell).last? parent with
  | some v => { c with log := (child, v) :: log }
  | none => { c with log := log }

/-- The writes of the teams `gone` end: the register holds the newest write of `ctx` or of one of
those, `pick` choosing where there are several; where no other team is left nothing else is kept. -/
def Cell.join (c : Cell) (ctx : Nat) (gone : Nat → Bool) (alone : Bool) (pick : Nat) : Cell :=
  let ids := (c.log.map (fun e => e.1)).eraseDups.filter (fun i => i == ctx || gone i)
  let cands := ids.filterMap c.last?
  let v := cands.getD (pick % (max cands.length 1)) c.val
  if alone then { val := v, log := [] }
  else if cands.isEmpty then c
  else { c with log := (ctx, v) :: c.log.map (fun e => if gone e.1 then (deadCtx, e.2) else e) }

/-- Settle the registers of a launched team when `ctx` goes on without the teams `gone` (R17). -/
def joinCells (ctx : Nat) (gone : Nat → Bool) (alone : Bool) :
    Tbl Cell → Nat → Tbl Cell × Nat
  | [], n => ([], n)
  | (k, c) :: t, n =>
    let many := decide (1 < ((c.log.map (fun e => e.1)).eraseDups.filter
      (fun i => i == ctx || gone i)).length)
    let c := c.join ctx gone alone (if many then Config.freeNat n else 0)
    let (rest, n) := joinCells ctx gone alone t (if many then n + 1 else n)
    ((k, c) :: rest, n)

/-- Settle registers and q predicates of a launched team: the writes of teams that no longer live, and
of `also`, end. -/
def State.joinUniform (s : State) (f ctx : Nat) (also : Option Nat) : State :=
  let alive := ((s.famTeams f).filter (fun t => !t.lanes.isEmpty)).map (fun t => t.ctx)
  let gone (i : Nat) : Bool := i != ctx && (!alive.contains i || also == some i)
  let alone := alive.all (fun i => i == ctx || also == some i)
  let m := s.fam f
  let (cells, n) := joinCells ctx gone alone m.cells s.free
  let (q, n) := joinCells ctx gone alone m.q n
  { s with free := n }.setFam f { m with cells := cells, q := q }

/-! ### Compacting splits and merges (R16, R19) -/

/-- Lanes packed from slot 0 upwards in the order given. -/
def packLanes (ls : List Lane) : List Lane :=
  (ls.zip (List.range ls.length)).map (fun x => { x.1 with slot := x.2 })

/-- A COMPACTING SPLIT (R16): the fall-through child keeps slot and context id. -/
def State.split (s : State) (t : Team) (S F : List Lane) (target : DWord) (slot ctx : Nat) : State :=
  let (id, s) := s.fresh
  let base := { t with ld := 0, pl := 0, st := 0, retired := t.retired + 1 }
  let fall := { base with lanes := packLanes F, div := .split id false :: t.div }.goto t.nextHeader 0
  let taken := { base with
    ctx := ctx, slot := slot, lanes := packLanes S, div := .split id true :: t.div, seq := 0, gen := 0,
    replay := [], sends := [], retired := 0, pend := [], pendP := [] }.goto target 0
  let m := s.fam t.fam
  let fork (c : Cell) : Cell := c.fork t.ctx ctx
  let s := s.setFam t.fam { m with cells := Tbl.mapVals (fun _ c => fork c) m.cells,
                                   q := Tbl.mapVals (fun _ c => fork c) m.q }
  let part (r : RaceRec) (c : Nat) (ls : List Lane) : RaceRec :=
    { r with ctx := c, kin := ctx :: t.ctx :: r.kin
             masks := r.masks.filter (fun v => ls.any (fun l => l.vid == v.1)) }
  let races := s.races.flatMap (fun (r : RaceRec) =>
    if r.ctx = t.ctx then [part r t.ctx F, part r ctx S]
    else if r.kin.contains t.ctx then [{ r with kin := ctx :: r.kin }] else [r])
  let s := { s with races := races.filter (fun r => !r.masks.isEmpty) }
  (s.settle fall).setTeam taken

/-- The other side of a split record: teams with a lane left that hold it. -/
def State.otherSide (s : State) (t : Team) (id : Nat) (taken : Bool) : List Team :=
  (s.famTeams t.fam).filter (fun u => !u.lanes.isEmpty && u.div.contains (.split id (!taken)))

/-- One of two values, free where they differ: the merged team's handler state, flag-enable mask and
watch slots, which the spec does not settle (log entry 18). -/
def State.either {α : Type} [DecidableEq α] (s : State) (a b : α) : α × State :=
  if a = b then (a, s)
  else
    let (k, s) := s.pick 2
    (if k = 0 then a else b, s)

/-- A MERGE (R19): lanes by ascending virtual id from slot 0, flags joined, slot and context id of the
fall-through child, at `pc`. -/
def State.merge (s : State) (fall taken : Team) (pc : DWord) : State :=
  let s := s.joinUniform fall.fam fall.ctx (some taken.ctx)
  let (h, s) := s.either fall.handler taken.handler
  let (fen, s) := s.either fall.fen taken.fen
  let (watch, s) := s.either fall.watch taken.watch
  let s := s.yieldCore taken
  let s := { s with
    races := s.races.map (fun (r : RaceRec) =>
      let r := if r.ctx = taken.ctx then { r with ctx := fall.ctx } else r
      if r.ctx = fall.ctx ∨ r.kin.contains taken.ctx then { r with kin := fall.ctx :: r.kin } else r) }
  let s := (s.purgeTeam taken).dropTeam taken.ctx
  s.settle ({ fall with
    lanes := packLanes (sortBy (fun l => l.vid) (fall.lanes ++ taken.lanes))
    flags := fall.flags ||| taken.flags, acq := max fall.acq taken.acq, div := fall.div.tail, handler := h, fen := fen
    watch := watch, parked := .no, retired := fall.retired + taken.retired + 1 }.goto pc 0)

/-- A team goes on alone after its `join` (R19), which may have issued long before. -/
def State.goAlone (s : State) (t : Team) : State :=
  let s := s.joinUniform t.fam t.ctx none
  s.stand { t.endClause t.nextHeader with div := t.div.tail, parked := .no }

/-- A child has lost its last lane (R20): a sibling that is parked at one of its split records is
released. -/
def State.releaseSiblings (s : State) (t : Team) : State :=
  t.div.foldl (fun s e =>
    match e with
    | .split id taken =>
      if (s.famTeams t.fam).any (fun u => !u.lanes.isEmpty && u.div.contains (.split id taken)) then s
      else (s.otherSide t id taken).foldl (fun s u =>
        if u.parked = .record id then s.goAlone u else s) s
    | .fallback _ => s) s

/-! ### Lanes that exit (R23) -/

/-- Lanes leave a team; in a fallback they leave their paths, and a path without lanes ends. The
team stands past its `exit`. -/
def Team.dropLanes (t : Team) (vids : List Nat) : Team :=
  let t := { t with lanes := t.lanes.filter (fun l => !vids.contains l.vid) }
  match t.div with
  | .fallback (p :: ps) :: _ =>
    let p := { t.pathNow p with vids := p.vids.filter (fun v => !vids.contains v) }
    if p.vids.isEmpty then t.afterPath p.trail ps
    else t.setPaths (p :: ps)
  | _ => t

end Sys2Proof.Machine
end

