-- ==== Sys2Proof/Machine/Control.lean ====
section
/-! DEFINITION. The control group: branches, `brdiv`, `join`, calls, `exit`, `wait`, flags and special
registers (05 R136 to R146; 01 R14 to R23; 03 R87; 09 R254, R256). -/

namespace Sys2Proof.Machine

/-- Target of a branch (R107). -/
def brTarget (pc : DWord) (off : Word) : DWord := pc + (off.signExtend 64 <<< 3)

/-- The trap of an instruction that reads registers at TEAM only (R146, R211): NONE, pending, MEM or
BANK or halves apart, LANE; `q` is the number of the predicate in PRED. -/
def State.teamRegsCause (s : State) (t : Team) (rs : List (Reg × Nat)) (q : Nat) : Option Cause :=
  firstCause
    [(s.anyNone t rs, .undecl),
     (t.anyPend rs || t.predPend true q, .unwaited),
     (s.anyApart t rs || rs.any (fun r => (s.locOf t r.1).remote), .place),
     (rs.any (fun r => s.locOf t r.1 == .lane), .shape)]

/-- An instruction of `n` words that reads registers at TEAM, under a q predicate: its checks, then
`off` where the predicate does not hold and `on` where it does. -/
def State.guarded (s : State) (t : Team) (n : Nat) (rs : List (Reg × Nat)) (p : Pred)
    (off on : State → State) : State :=
  match s.teamRegsCause t rs p.num.toNat with
  | some c => s.takeTrap t.ctx n (plainTrap c)
  | none =>
    let (b, s) := s.qPred t p
    if b then on s else off s

/-- The team goes on at a clause header: a control instruction has ended its clause (R98). -/
def State.branchTo (s : State) (ctx : Nat) (target : DWord) : State :=
  match s.team? ctx with
  | some t => s.settle (t.endClause target)
  | none => s

/-- The team goes on at the next clause header (R98). -/
def State.fallThrough (s : State) (ctx : Nat) : State :=
  match s.team? ctx with
  | some t => s.settle (t.endClause t.nextHeader)
  | none => s

/-- BR (R136, R238). -/
def execBr (o : FBR) (s : State) : Host.Outcome State Fault Refusal :=
  .next (s.byAgent (.br o)
    (fun s t => s.guarded t 1 [] o.p (fun s => s.fallThrough t.ctx)
      (fun s => s.branchTo t.ctx (brTarget t.pc o.off)))
    (fun s g k =>
      let e := s.engine g k
      if !engPred true o.p.num.toNat then s.engineStop g k
      else s.setEngine g k (if e.pred o.p then e.goto (brTarget e.pc o.off) else e.advance 1)))

/-- A lane-predicate branch whose condition is mixed (R14, R15). -/
def State.brMixed (s : State) (t : Team) (S F : List Lane) (target : DWord) : State :=
  if 32 ≤ divDepth t.div then s.takeTrap t.ctx 1 (plainTrap .illegal)
  else if !t.drained then s.waitAt t.ctx
  else
    match s.freeSlot (s.coreOf t), s.freeCtx (s.vdOf t),
        decide (splitCount t.div < 16) && !t.inFallback && t.span.isNone with
    | some slot, some ctx, true => s.split t S F target slot ctx
    | _, _, _ =>
      let (id, s) := s.fresh
      s.settle ({ t with retired := t.retired + 1 }.fallBack id (S.map Lane.vid)
        (F.map Lane.vid) target t.nextHeader)

/-- BRDIV (R137). -/
def execBrdiv (o : FBR) (s : State) : Host.Outcome State Fault Refusal :=
  .next (s.byTeam (.brdiv o) (fun s t =>
    if t.predPend false o.cond.num.toNat then s.takeTrap t.ctx 1 (plainTrap .unwaited)
    else s.guarded t 1 [] o.p (fun s => s.fallThrough t.ctx) (fun s =>
      let S := t.current.filter (fun l => lanePred l o.cond)
      let F := t.current.filter (fun l => !lanePred l o.cond)
      if F.isEmpty then s.branchTo t.ctx (brTarget t.pc o.off)
      else if S.isEmpty then s.fallThrough t.ctx
      else s.brMixed t S F (brTarget t.pc o.off))))

/-- `join` at a split record (R19). -/
def State.joinSplit (s : State) (t : Team) (id : Nat) (taken : Bool) : State :=
  match s.otherSide t id taken with
  | [] => { s with stamp := s.stamp + 1 }.goAlone { t with last := s.stamp }
  | u :: _ =>
    if !t.drained then s.waitAt t.ctx
    else if u.parked = .record id then
      if taken then s.merge u t t.nextHeader else s.merge t u t.nextHeader
    else s.settle { t with parked := .record id, waiting := true }

/-- A path of a team has left its clause, and another may run on in the middle of one: the pick ends (R36). -/
def State.leavePath (s : State) (t : Team) : State := (s.settle t).yieldCore t

/-- `join` of a path of a serial fallback (R21). -/
def State.joinPath (s : State) (t : Team) (p : PathSt) (ps : List PathSt) : State :=
  let at_ := t.nextHeader
  let p := { pathAt p.vids p.trail at_ with done := true }
  s.leavePath ({ t with retired := t.retired + 1 }.afterPath p.trail (ps ++ [p]))

/-- JOIN (R138, R19 to R21). -/
def execJoin (o : FBR) (s : State) : Host.Outcome State Fault Refusal :=
  .next (s.byTeam (.join o) (fun s t =>
    match t.div with
    | [] => s.takeTrap t.ctx 1 (plainTrap .illegal)
    | .split id taken :: _ => s.joinSplit t id taken
    | .fallback [] :: _ => s.takeTrap t.ctx 1 (plainTrap .illegal)
    | .fallback (p :: ps) :: _ => s.joinPath t p ps))

/-- CALL (R139). -/
def execCall (o : FBR) (s : State) : Host.Outcome State Fault Refusal :=
  .next (s.byTeam (.call o) (fun s t =>
    s.guarded t 1 [(o.r, 2)] o.p (fun s => s.fallThrough t.ctx) (fun s =>
      (s.writeRegs t.fam t.ctx o.r 2 t.nextHeader).branchTo t.ctx (brTarget t.pc o.off))))

/-- RET (R139): ALIGN at an address that is not a multiple of 8. -/
def execRet (o : FBR) (s : State) : Host.Outcome State Fault Refusal :=
  .next (s.byTeam (.ret o) (fun s t =>
    match s.teamRegsCause t [(o.r, 2)] o.p.num.toNat with
    | some c => s.takeTrap t.ctx 1 (plainTrap c)
    | none =>
      let (a, s) := s.readPair t o.r
      if a.extractLsb' 0 3 != 0 then s.takeTrap t.ctx 1 { cause := .align, addr := a, code := 0 }
      else s.guarded t 1 [] o.p (fun s => s.fallThrough t.ctx) (fun s => s.branchTo t.ctx a)))

/-- BRX (R140). -/
def execBrx (o : FBR) (s : State) : Host.Outcome State Fault Refusal :=
  .next (s.byTeam (.brx o) (fun s t =>
    s.guarded t 1 [(o.r, 1)] o.p (fun s => s.fallThrough t.ctx) (fun s =>
      let (v, s) := s.readOne t o.r
      s.branchTo t.ctx (brTarget t.pc o.off + (v.setWidth 64 <<< 4)))))

/-- Lanes of a team have exited (R20, R23): the team has left its clause. -/
def State.exited (s : State) (t : Team) : State :=
  let s := s.leavePath t
  if t.lanes.isEmpty then s.releaseSiblings t else s

/-- EXIT (R141, R23). -/
def execExit (o : FBR) (s : State) : Host.Outcome State Fault Refusal :=
  .next (s.byTeam (.exit o) (fun s t =>
    if t.predPend false o.p.num.toNat then s.takeTrap t.ctx 1 (plainTrap .unwaited)
    else
      let out := (t.active o.p).map (fun l => l.vid)
      s.exited ((t.endClause t.nextHeader).dropLanes out)))

/-- The bounds of a `wait` hold (R142). -/
def waitMet (imm : Word) (ld pl st : Nat) : Bool :=
  decide (ld ≤ bitsAt imm.toNat 0 6) && decide (pl ≤ bitsAt imm.toNat 6 6)
    && decide (st ≤ bitsAt imm.toNat 12 6)

/-- WAIT (R142, R238): until the bounds hold the clause stalls. An engine bounds its outstanding count
by `st`, and its other bounds are 63. -/
def execWait (o : FRI) (s : State) : Host.Outcome State Fault Refusal :=
  .next (s.byAgent (.wait o)
    (fun s t => s.guarded t 1 [] o.p (fun s => s.advance t.ctx 1) (fun s =>
      if waitMet o.imm (t.out .ld) (t.out .pl) (t.out .st) then s.advance t.ctx 1 else s))
    (fun s g k =>
      let e := s.engine g k
      if !engPred true o.p.num.toNat || bitsAt o.imm.toNat 0 12 != 4095 then s.engineStop g k
      else if !e.pred o.p || decide (e.out ≤ bitsAt o.imm.toNat 12 6) then s.setEngine g k (e.advance 1)
      else s))

/-- NOP (R143). -/
def execNop (o : F3) (s : State) : Host.Outcome State Fault Refusal :=
  .next (s.byAgent (.nop o)
    (fun s t => s.guarded t 1 [] o.p (fun s => s.advance t.ctx 1) (fun s => s.advance t.ctx 1))
    (fun s g k =>
      if !engPred true o.p.num.toNat then s.engineStop g k
      else s.setEngine g k ((s.engine g k).advance 1)))

/-- TFENCE (R87). -/
def execTfence (o : F3) (s : State) : Host.Outcome State Fault Refusal :=
  .next (s.byTeam (.tfence o) (fun s t =>
    s.guarded t 1 [] o.p (fun s => s.advance t.ctx 1) (fun s =>
      if !t.drained then s.waitAt t.ctx
      else if t.flags &&& t.fen != 0 then s.takeTrap t.ctx 1 (plainTrap .arith)
      else s.advance t.ctx 1)))

/-- A description that writes one value (R144, R145). -/
def constDesc (p : Pred) (d : Reg) (n : Nat) (v : DWord) : OpDesc :=
  { plainDesc p (.reg d n) [] (fun _ => (v, 0)) with rule := .anyCore }

/-- A value written to a register at TEAM, or to every lane of Active(T), and then a change of the
team (R144); with no lane in Active(T) there is no effect (R109). -/
def State.writeThen (s : State) (t : Team) (d : OpDesc) (after : Team → Team) : State :=
  match s.descCause t d with
  | some c => s.takeTrap t.ctx 1 (plainTrap c)
  | none =>
    let uni := (s.execLoc t d).uniform
    let (on, s) := s.guard t uni d.pred
    let ls := lanesIn t d uni []
    if !on || (!uni && !ls.any (fun l => l.act)) then s.advance t.ctx 1
    else
      let s := match d.run uni (s.launchOf t).e0 ls with
        | some out => s.writeOut t d uni (s.launchOf t).e0 ls out
        | none => s
      (s.modTeam t.ctx after).advance t.ctx 1

/-- GETF (R144). -/
def execGetf (o : F3) (s : State) : Host.Outcome State Fault Refusal :=
  .next (s.byTeam (.getf o) (fun s t =>
    s.writeThen t (constDesc o.p o.d 1 (t.flags.setWidth 64)) (fun t => t)))

/-- GETF_CLR (R144): every flag is cleared. -/
def execGetfClr (o : F3) (s : State) : Host.Outcome State Fault Refusal :=
  .next (s.byTeam (.getfClr o) (fun s t =>
    s.writeThen t (constDesc o.p o.d 1 (t.flags.setWidth 64)) (fun t => { t with flags := 0 })))

/-- The `clrf` forms (R144): A at TEAM or a literal. -/
def State.clrfForm (s : State) (i : Instr) (o : F3) (f : Team → BitVec 7 → Team) : State :=
  s.byTeam i (fun s t =>
    s.guarded t 1 [(o.a, 1)] o.p (fun s => s.advance t.ctx 1) (fun s =>
      let (v, s) := if o.a = Reg.lit then ((litVal .i32 o.imm).setWidth 32, s) else s.readOne t o.a
      (s.modTeam t.ctx (fun t => f t (v.setWidth 7))).advance t.ctx 1))

/-- CLRF (R144). -/
def execClrf (o : F3) (s : State) : Host.Outcome State Fault Refusal :=
  .next (s.clrfForm (.clrf o) o (fun t v => { t with flags := t.flags &&& ~~~v }))

/-- CLRF_FEN (R144). -/
def execClrfFen (o : F3) (s : State) : Host.Outcome State Fault Refusal :=
  .next (s.clrfForm (.clrfFen o) o (fun t v => { t with fen := v }))

/-- CLRF_LOAD (R144). -/
def execClrfLoad (o : F3) (s : State) : Host.Outcome State Fault Refusal :=
  .next (s.clrfForm (.clrfLoad o) o (fun t v => { t with flags := v }))

/-- A team's index at level `k` ≥ 1 (R34); 0 where there is none. -/
def State.levelIndex (s : State) (t : Team) (k : Nat) : Nat :=
  (t.lower ++ [t.index] ++ (s.group t.group).lvl).getD (k - 1) 0

/-- The extent of level `k` (R34); 1 where there is none. -/
def State.levelExtent (s : State) (t : Team) (k : Nat) : Nat :=
  ((s.launchOf t).levels[k]?).elim 1 (fun v => v.extent)

/-- A special register of uniform shape (R145). -/
def State.special (s : State) (t : Team) (n : Nat) : DWord :=
  if n = 0x01 then BitVec.ofNat 64 t.index
  else if n = 0x02 then BitVec.ofNat 64 (s.group t.group).lin
  else if within 0x11 0x17 n then BitVec.ofNat 64 (s.levelIndex t (n - 0x10))
  else if within 0x18 0x1F n then BitVec.ofNat 64 (s.levelExtent t (n - 0x18))
  else if n = 0x20 then BitVec.ofNat 64 (s.coreOf t)
  else if n = 0x21 then (s.group t.group).qmask.setWidth 64
  else if n = 0x22 then BitVec.ofNat 64 (s.vdOf t + 256 * (s.vd (s.vdOf t)).domain.toNat)
  else if n = 0x24 then BitVec.ofNat 64 s.clock
  else if n = 0x28 then t.flags.setWidth 64
  else if n = 0x29 then t.fen.setWidth 64
  else if n = 0x2A then t.gen.setWidth 64
  else (s.core (s.coreOf t)).wake.setWidth 64

/-- A description that writes the virtual lane id (R145): lane-shaped. -/
def laneIdDesc (o : F3) : OpDesc :=
  crossDesc o.p (.reg o.d 1) none [] .laneShape (fun uni _ ls => lidFn .id uni ls)

/-- RDSR (R145). Time passes by an open amount before `sr.clock` is read (log entry 19). -/
def execRdsr (o : F3) (s : State) : Host.Outcome State Fault Refusal :=
  .next (s.byTeam (.rdsr o) (fun s t =>
    let n := o.imm.toNat
    if n = 0x00 ∨ n = 0x10 then s.writeThen t (laneIdDesc o) (fun t => t)
    else
      let s := if n = 0x24 then
          { s with free := s.free + 1 }.passTime (Config.freeNat s.free) else s
      s.writeThen t (constDesc o.p o.d (if n = 0x24 then 2 else 1) (s.special t n)) (fun t => t)))

/-! ### Trap handlers (R254, R256) -/

/-- HSET (R254). -/
def execHset (o : FBR) (s : State) : Host.Outcome State Fault Refusal :=
  .next (s.byTeam (.hset o) (fun s t =>
    match s.teamRegsCause t [(o.r, 1)] o.p.num.toNat with
    | some c => s.takeTrap t.ctx 1 (plainTrap c)
    | none =>
      let (off, s) := s.readOne t o.r
      if off.extractLsb' 0 5 != 0 then
        s.takeTrap t.ctx 1 { cause := .align, addr := off.setWidth 64, code := 0 }
      else s.guarded t 1 [] o.p (fun s => s.advance t.ctx 1) (fun s =>
        if o.r = Reg.z ∧ o.off = 0 then
          (s.modTeam t.ctx (fun t => { t with handler := { t.handler with isSet := false } })).advance t.ctx 1
        else (s.modTeam t.ctx (fun t => { t with handler := { t.handler with
          isSet := true, addr := brTarget t.pc o.off, off := off } })).advance t.ctx 1)))

/-- SWTRAP and BRK (R255, R256): the record and the saved position name the next clause header. -/
def State.softTrap (s : State) (i : Instr) (o : FRI) (c : Cause) : State :=
  s.byTeam i (fun s t =>
    s.guarded t 1 [] o.p (fun s => s.fallThrough t.ctx) (fun s =>
      let n := t.nextHeader
      s.takeTrapAt t.ctx { cause := c, addr := 0, code := o.imm }
        { pc := n, word := 0, rpc := n, rword := 0, spc := n, sword := 0, tested := false } false none))

/-- TRAP (R256). -/
def execTrap (o : FRI) (s : State) : Host.Outcome State Fault Refusal :=
  .next (s.softTrap (.trap o) o .swtrap)

/-- BRK (R256). -/
def execBrk (o : FRI) (s : State) : Host.Outcome State Fault Refusal :=
  .next (s.softTrap (.brk o) o .brk)

/-- TMASK_OFF (R256). -/
def execTmaskOff (o : F3) (s : State) : Host.Outcome State Fault Refusal :=
  .next (s.byTeam (.tmaskOff o) (fun s t =>
    s.guarded t 1 [] o.p (fun s => s.advance t.ctx 1) (fun s =>
      (s.modTeam t.ctx (fun t => { t with handler := { t.handler with mask := false } })).advance t.ctx 1)))

/-- TMASK_ON (R256). -/
def execTmaskOn (o : F3) (s : State) : Host.Outcome State Fault Refusal :=
  .next (s.byTeam (.tmaskOn o) (fun s t =>
    s.guarded t 1 [] o.p (fun s => s.advance t.ctx 1) (fun s =>
      (s.modTeam t.ctx (fun t => { t with handler := { t.handler with mask := true } })).advance t.ctx 1)))

end Sys2Proof.Machine
end

