-- ==== Sys2Proof/Machine/Halts.lean ====
section
/-! DEFINITION. Halts (02 R66), what a halt takes back from the quadrants and the Lace engines (08
R216, 09 R245), fault records (18 R334), and the kill of a team that consumes poison (19 R354). -/

namespace Sys2Proof.Machine

/-- A millisecond in core cycles (00: 2.25 GHz). -/
def msCycles : Nat := 2250000

/-- The containment of a team's accesses (R348). -/
def State.whoOf (s : State) (t : Team) (pc : DWord) (word : Nat) : Who :=
  let g := s.group t.group
  { core := g.core, vd := g.vd, incarn := g.incarn, ctx := t.ctx, pc := pc.toNat, word := word, near := .die (dieOf g.core)
    after := none }

/-- The sequence number of a team's operation. -/
def Issuer.seq? (i : Issuer) (ctx : Nat) : Option (BitVec 16) :=
  match i with
  | .team c q _ => if c = ctx then some q else none
  | .engine _ _ => none

/-! ### What a halt takes back -/

/-- An engine-issued loop that a halt stops: it keeps its steps and its cells, and asks leave afresh (R216, R225). -/
def QEnt.rest (e : QEnt) : QEnt := { e with started := false, asked := false, granted := false }

/-- The loops of a launched team's engine programs stop (R216, R240). -/
def Quad.restFor (q : Quad) (f : Nat) : Quad :=
  { q with queue := q.queue.map (fun e =>
      match e.issuer with
      | .engine _ _ => if e.op.fam = f ∧ e.asked then e.rest else e
      | .team _ _ _ => e) }

/-- The entries of a team leave a quadrant; a loop that has started leaves its cells behind (R216). -/
def Quad.withdraw (q : Quad) (ctx : Nat) : Quad :=
  { q with
    held := q.held ++ q.queue.filterMap (fun e =>
      match e.issuer.seq? ctx with
      | some n => if e.granted || e.loop.begun then some (ctx, n, { e.loop with begun := true }) else none
      | none => none)
    queue := q.queue.filter (fun e => !e.issuer.isTeam ctx) }

/-- Steps done by the loop of a packet, from the quadrants that run it. -/
def loopSteps (quads : Tbl Quad) (ctx : Nat) (seq : BitVec 16) : Option Nat :=
  (quads.findSome? (fun e => e.2.queue.find? (fun x => x.issuer.seq? ctx == some seq && (x.granted || x.loop.begun)))).map
    (fun x => x.loop.step)

/-- The team's operations leave the quadrants and the Lace engines; its packets keep their progress; the loops of its
engine programs stop (R216, R245). -/
def State.withdraw (s : State) (ctx : Nat) : State :=
  match s.team? ctx with
  | none => s
  | some t =>
    let g := s.group t.group
    let stops (x : QEnt) : Bool := match x.issuer with
      | .engine _ _ => x.op.fam == t.fam
      | .team c _ _ => c == ctx
    let ids := g.quads.flatMap (fun e => (e.2.queue.filter stops).map (fun x => x.id))
    let lace := (s.core g.core).lace
    let cents := (lace.flatMap (fun e => e.2)).filter (fun c => c.issuer.isTeam ctx)
    let pks := t.replay.map (fun p =>
      let p := match loopSteps g.quads ctx p.seq with
        | some n => { p with progress := n }
        | none => p
      match cents.find? (fun c => c.issuer.seq? ctx == some p.seq) with
      | some c => { p with progress := c.id, landed := c.landed, counted := c.counted }
      | none => p)
    let s := s.setTeam { t with replay := pks }
    let s := s.modGroup t.group (fun g => { g with quads := g.quads.map (fun e => (e.1, (e.2.withdraw ctx).restFor t.fam)) })
    let s := s.modCore g.core (fun k =>
      { k with lace := k.lace.map (fun e => (e.1, e.2.filter (fun c => !c.issuer.isTeam ctx))) })
    s.dropLeave (fun w => match w with
      | .loop gr _ id => gr == t.group && ids.contains id
      | .session _ => false)

/-- A matrix instruction other than a loop has started (R216). -/
def QEnt.mid (e : QEnt) : Bool := e.started && !e.granted && !e.asked

/-- A matrix instruction of the team other than a loop has started and must complete first, or one of its engine
programs that is not parked (R216, R240). -/
def State.midMatrix (s : State) (t : Team) : Bool :=
  (s.group t.group).quads.any (fun e => e.2.queue.any (fun x => x.mid && (match x.issuer with
    | .team c _ _ => c == t.ctx
    | .engine g k => x.op.fam == t.fam && !(s.engine g k).parked)))

/-- Waits at a header are tested afresh after a halt (R97): a release seen there is forgotten. -/
def Team.forgetHeader (t : Team) : Team :=
  { t with
    bar := if t.loaded || t.tested then t.bar else none
    div := t.div.map (fun e => match e with
      | .fallback ps => .fallback (ps.map (fun p => { p with bar := if p.loaded || p.tested then p.bar else none }))
      | .split i k => .split i k) }

/-- A HALT (R66): issue stops, the generation rises, open transactions abort (R188), regions
close (R273), queued operations come back. -/
def State.halt (s : State) (ctx : Nat) (why : Parked) : State :=
  let s := s.withdraw ctx
  match s.team? ctx with
  | none => s
  | some t =>
    let s := { s with races := s.races.filter (fun r => r.ctx != ctx) }
    s.stand { (t.forgetHeader.abortTx (fun _ => true) .halted).mapLanes (fun l => { l with blind := [] }) with
      gen := t.gen + 1, parked := why, waiting := false
      replay := t.replay.map (fun p => { p with checked := false }) }

/-! ### Fault records (R334) -/

/-- The fields of a fault record. -/
structure FRec where
  acc    : Nat
  eng    : Bool
  level  : Nat
  kind   : Nat
  gen    : Nat
  seq    : Nat
  ctx    : Nat
  typ    : Nat
  va     : Nat
  pc     : Nat
  word   : Nat
  engid  : Nat
  core   : Nat
  pos    : Nat
  fcount : Nat
  fsum   : Nat
  code   : Nat
  late   : Nat
deriving DecidableEq, Repr

/-- The 64 bytes of a fault record. -/
def State.faultBytes (s : State) (v : Nat) (incarn : Byte) (r : FRec) : List Byte :=
  leBytes 64 (r.acc % 4 + (if r.eng then 4 else 0) + r.level % 8 * 2 ^ 4 + r.kind % 256 * 2 ^ 8 +
    r.gen % 256 * 2 ^ 16 + r.seq % 65536 * 2 ^ 24 + r.ctx % 2 ^ 20 * 2 ^ 40 + r.typ % 16 * 2 ^ 60 +
    r.va % 2 ^ 64 * 2 ^ 64 + r.pc % 2 ^ 64 * 2 ^ 128 + r.word % 256 * 2 ^ 192 + r.engid % 16 * 2 ^ 200 +
    v % 64 * 2 ^ 208 + (s.vd v).domain.toNat * 2 ^ 216 + incarn.toNat * 2 ^ 224 +
    r.core % 1024 * 2 ^ 240 + r.pos % 2 ^ 32 * 2 ^ 256 + r.fcount % 2 ^ 11 * 2 ^ 288 +
    r.fsum % 2 ^ 32 * 2 ^ 320 + r.code % 2 ^ 32 * 2 ^ 352 + r.late % 2 ^ 64 * 2 ^ 384)

/-- A record of a team where it stands, of a type, with its IMM32. -/
def State.teamRecord (s : State) (t : Team) (typ : Nat) : FRec :=
  { acc := 0, eng := false, level := 7, kind := 0, gen := t.gen.toNat, seq := t.seq.toNat, ctx := t.ctx,
    typ := typ, va := 0, pc := t.pc.toNat, word := t.word, engid := 0, core := s.coreOf t, pos := 0,
    fcount := 1, fsum := 0, code := 0, late := 0 }

/-- The summary word of some lanes' slots. -/
def slotSummary (slots : List Nat) : Nat :=
  ((slots.map (fun n => n / 32)).eraseDups).foldl (fun a w => a + 2 ^ w) 0

/-- The lanes of a packet that have faulted, lowest virtual id first. -/
def Packet.faulty (p : Packet) : List (PLane × MFault) :=
  p.lanes.filterMap (fun l => l.fault.map (fun f => (l, f)))

/-- Instructions whose fault positions POS gives (R334). -/
def ownPos : Instr → Bool
  | .mloop _ | .mdrain _ | .nest _ _ _ | .lace _ | .laceg _ => true
  | _ => false

/-- An instruction whose faults are counted by rows. -/
def drainsRows : Instr → Bool
  | .mdrain _ => true
  | _ => false

/-- The record of a faulting packet (R334). An instruction with its own positions gives those. -/
def State.packetRecord (s : State) (t : Team) (p : Packet) : Option FRec :=
  match p.faulty with
  | [] => none
  | (l, f) :: rest =>
    let lanes := l.vid :: rest.map (fun x => x.1.vid)
    let slots := lanes.filterMap (fun v => Tbl.get? p.slots v)
    let own := ownPos p.instr
    let rows := drainsRows p.instr
    some { s.teamRecord t 0 with
      acc := f.acc.toNat, level := f.level.toNat, kind := f.kind.code, gen := p.gen.toNat
      seq := p.seq.toNat, va := f.va.toNat, pc := p.pc.toNat, word := p.word
      pos := l.vid
      fcount := if p.uniform && !rows then 1 else lanes.length
      fsum := if own then 0 else if p.uniform then 1 else slotSummary slots }

/-- The record is sent to the VD's fault queue. -/
def State.sendRecord (s : State) (t : Team) (r : FRec) : State :=
  let g := s.group t.group
  s.faultRecord g.vd g.incarn (s.faultBytes g.vd g.incarn r)

/-- The fault record of an engine program's instruction that meets a memory fault (R240, R334): of which launched team,
where it stands, and its sequence number; `own` says that the instruction gives its own positions. Its generation is that of the launched team's context. -/
def State.engineRecord (s : State) (g k : Nat) (own : Bool) (fam : Nat) (pc : DWord) (word : Nat) (seq : BitVec 16) : FRec :=
  let ctx := (s.fam fam).ctx
  { acc := 0, eng := true, level := 7, kind := 0, gen := (s.team? ctx).elim 0 (fun t => t.gen.toNat), seq := seq.toNat
    ctx := ctx, typ := 0, va := 0, pc := pc.toNat, word := word, engid := if 8 ≤ k then 0 else k
    core := (s.group g).core, pos := 0, fcount := 1, fsum := if own then 0 else 1, code := 0, late := 0 }

/-- The record of the instruction where an engine program stands. -/
def State.engineHere (s : State) (g k : Nat) (own : Bool) : FRec :=
  let e := s.engine g k
  s.engineRecord g k own e.fam e.pc e.word e.seq

/-- An engine program parks at a memory fault (R240). -/
def State.parkEngine (s : State) (g k : Nat) (r : FRec) : State :=
  let s := s.setEngine g k { s.engine g k with parked := true }
  let m := s.group g
  s.faultRecord m.vd m.incarn (s.faultBytes m.vd m.incarn r)

/-- A draining instance that meets a fault halt is saved at once (R341). -/
def State.stopDrain (s : State) (a : Nat) : State :=
  let ga := s.gang a
  if ga.decision = .drain then s.setGang a { ga with decision := .save } else s

/-- A fault halt (R67, R68): the team is parked and the record sent. -/
def State.haltFault (s : State) (t : Team) (r : FRec) : State :=
  ((s.halt t.ctx .fault).sendRecord t r).stopDrain (s.group t.group).gang

/-! ### Poison (R354) -/

/-- A launched team is killed (R24). -/
def State.kill (s : State) (f : Nat) (code : KillCode) : State := s.killFam f code true

/-- POISON CONSUMED (R354): the team is killed with POISON, and a CONSUMED record goes to its VD. -/
def State.consume (s : State) (t : Team) (pc : DWord) (word : Nat) (va : Nat) : State :=
  let g := s.group t.group
  let s := s.errorReport g.vd g.incarn { errRec 2 t.ctx (va / 128 * 128) with
    pc := pc.toNat, word := word, core := g.core }
  s.kill t.fam .poison

end Sys2Proof.Machine
end

