-- ==== Sys2Proof/Machine/Race.lean ====
section
/-! DEFINITION. Race detection (10 R273 to R276): regions, records, and the check of an
instruction. -/

namespace Sys2Proof.Machine

/-- Bytes of one granule that an access reads or writes. -/
structure RAcc where
  place : RacePlace
  gran  : Nat
  rmask : BitVec 16
  wmask : BitVec 16
deriving DecidableEq, Repr

/-- The mask of `n` bytes from an offset within its granule. -/
def granMask (off n : Nat) : BitVec 16 := BitVec.ofNat 16 ((2 ^ n - 1) * 2 ^ (off % 16))

/-- The accesses of `n` bytes at an offset of a scratchpad, which lie in one granule. -/
def spadAcc (g off n : Nat) (rd wr : Bool) : RAcc :=
  { place := .spad g, gran := off / 16, rmask := if rd then granMask off n else 0,
    wmask := if wr then granMask off n else 0 }

/-- The accesses of `n` bytes of virtual memory, as the core's L1 and the home directory keep them. A
Welt unit's are kept in the directory only. -/
def State.virtAccs (s : State) (v va n : Nat) (l1 : Option Nat) (rd wr : Bool) : List RAcc :=
  let gran := s.asid v * 2 ^ 52 + va % 2 ^ 56 / 16
  let mk (p : RacePlace) : RAcc :=
    { place := p, gran := gran, rmask := if rd then granMask va n else 0,
      wmask := if wr then granMask va n else 0 }
  match l1 with
  | some c => [mk (.l1 c), mk .dir]
  | none => [mk .dir]

/-- The number under which the directory knows an agent: a core, or 1024 + its number for a Welt
unit. -/
def PInst.agent (i : PInst) (core : Nat) : Nat :=
  match i with
  | .welt t => 1024 + t
  | _ => core

/-- Two sets of masks conflict (R271). -/
def RAcc.hits (a : RAcc) (rm wm : BitVec 16) : Bool :=
  a.wmask &&& (rm ||| wm) != 0 || a.rmask &&& wm != 0

/-- Sequence number `a` comes after `b` (R61). -/
def laterSeq (a b : BitVec 16) : Bool := a != b && decide ((a - b).toNat < 32768)

/-- Bytes that the lanes of a record have read, and written. -/
def RaceRec.rmask (r : RaceRec) : BitVec 16 := r.masks.foldl (fun m e => m ||| e.2.1) 0
def RaceRec.wmask (r : RaceRec) : BitVec 16 := r.masks.foldl (fun m e => m ||| e.2.2) 0

/-- A record is not ordered before an access by team `ctx`, whose last acquire was at `acq`, of its instruction `seq`
at an instance (R269, R276). What another team's release has published may be ordered before everything that follows
a later acquire (log entry 37). -/
def RaceRec.against (r : RaceRec) (ctx acq : Nat) (i : PInst) (seq : BitVec 16) : Bool :=
  if r.kin.contains ctx then false
  else if r.ctx = ctx then r.inst != i && !r.behind.any (fun b => b.1 == i && !laterSeq b.2 seq)
  else !r.pub.elim false (fun p => decide (p < acq))

/-- An access conflicts with a record of another open region or a registered Lace granule (R274). A core's own
records stand in its L1, and a Welt unit's in the directory alone. -/
def State.raceHit (s : State) (t : Team) (core : Nat) (i : PInst) (seq : BitVec 16) (a : RAcc) : Bool :=
  s.races.any (fun r => decide (r.place = a.place) && r.gran == a.gran &&
    (decide (a.place ≠ .dir) || r.core != i.agent core || decide (1024 ≤ r.core)) && r.against t.ctx t.acq i seq &&
    a.hits r.rmask r.wmask)
  || s.laceRegs.any (fun l => decide (l.place = a.place) && l.gran == a.gran)

/-- What tells one group of lanes from another (R273). -/
def RaceRec.key (r : RaceRec) : Nat × PInst × Nat := (r.ctx, r.inst, r.opened)

/-- There is room for a record of group `k` from a core (R273): four groups at a granule of scratchpad; at a sector
four of other cores than any one; 4,096 records in an L1. -/
def State.raceRoom (s : State) (a : RAcc) (core : Nat) (k : Nat × PInst × Nat) : Bool :=
  let here := s.races.filter (fun r => decide (r.place = a.place))
  match a.place with
  | .l1 _ => decide (here.length < 4096)
  | .spad _ =>
    let ks := ((here.filter (fun r => r.gran == a.gran)).map RaceRec.key).eraseDups
    ks.contains k || decide (ks.length < 4)
  | .dir =>
    let ks := ((here.filter (fun r => r.gran / 8 == a.gran / 8)).map (fun r => (r.core, r.key))).eraseDups
    let new := (core, k) :: ks
    ks.contains (core, k) || new.all (fun x => decide ((new.filter (fun y => y.1 != x.1)).length ≤ 4))

/-- A record takes an access of a lane more. -/
def RaceRec.join (r : RaceRec) (vid : Nat) (a : RAcc) : RaceRec :=
  { r with masks := Tbl.upd (0, 0) r.masks vid (fun m => (m.1 ||| a.rmask, m.2 ||| a.wmask)) }

/-- Record an access of a lane; none where there is no room. -/
def State.recordAcc (s : State) (ctx core : Nat) (i : PInst) (opened vid : Nat) (a : RAcc) : Option State :=
  let k := (ctx, i, opened)
  let same (r : RaceRec) : Bool :=
    decide (r.place = a.place) && r.gran == a.gran && decide (r.key = k) && r.core == i.agent core && r.kin.isEmpty
      && r.behind.isEmpty && r.marks.isEmpty && r.pub.isNone
  if s.races.any same then some { s with races := updFirst same (fun r => r.join vid a) s.races }
  else if s.raceRoom a (i.agent core) k then
    let r : RaceRec :=
      { place := a.place, gran := a.gran, ctx := ctx, core := i.agent core, inst := i, opened := opened,
        masks := [(vid, (a.rmask, a.wmask))], kin := [], behind := [], marks := [], pub := none }
    some { s with races := s.races ++ [r] }
  else none

/-- Record several accesses of a lane, all or none. -/
def State.recordAll (s : State) (ctx core : Nat) (i : PInst) (opened vid : Nat) : List RAcc → Option State
  | [] => some s
  | a :: as => match s.recordAcc ctx core i opened vid a with
    | some s => s.recordAll ctx core i opened vid as
    | none => none

/-- The stamp at which a lane's region at an instance opened. -/
def Lane.openAt (l : Lane) (i : PInst) : Nat := (l.opened.find? (fun e => e.1 == i)).elim 0 (fun e => e.2)

/-- An access of team `ctx` at instance `i` comes behind a record in its team's order (R269, R276). -/
def RaceRec.before (r : RaceRec) (ctx : Nat) (i : PInst) : Bool :=
  r.kin.contains ctx || (r.ctx == ctx && (r.inst == i || r.behind.any (fun b => b.1 == i)))

/-- What some lanes of a team have accessed before instance `i` is dropped. -/
def dropRecords (ctx : Nat) (i : PInst) (vids : List Nat) (rs : List RaceRec) : List RaceRec :=
  (rs.map (fun (r : RaceRec) =>
    if r.ctx == ctx && r.before ctx i then { r with masks := r.masks.filter (fun v => !vids.contains v.1) } else r)).filter
    (fun r => !r.masks.isEmpty)

/-- Regions of some lanes at an instance close at a synchronising operation, and others open at a stamp (R273). A
release publishes what else is ordered before it, an acquire orders behind it what others have published (R268,
R269). -/
def State.syncAt (s : State) (now ctx : Nat) (i : PInst) (vids : List Nat) (rel acq : Bool) : State :=
  let s := s.modTeam ctx (fun t => { t.mapLanes (fun l =>
      if vids.contains l.vid then
        { l with opened := (i, now) :: l.opened.filter (fun e => e.1 != i)
                 blind := l.blind.filter (fun x => x != i) }
      else l) with
    acq := if acq then now else t.acq })
  let pub (r : RaceRec) : RaceRec :=
    if rel && r.before ctx i then { r with pub := some (r.pub.getD now) } else r
  { s with races := (dropRecords ctx i vids s.races).map pub }

/-- A synchronising operation with a stamp of its own. -/
def State.syncRegions (s : State) (ctx : Nat) (i : PInst) (vids : List Nat) (rel acq : Bool) : State :=
  let (now, s) := s.fresh
  s.syncAt now ctx i vids rel acq

/-- A lane's region goes on untracked (R275). -/
def State.goBlind (s : State) (ctx : Nat) (i : PInst) (vid : Nat) : State :=
  let s := s.modTeam ctx (fun t => t.mapLanes (fun l =>
    if l.vid = vid ∧ !l.blind.contains i then { l with blind := i :: l.blind } else l))
  let keep (r : RaceRec) : RaceRec :=
    if r.ctx = ctx ∧ r.inst = i then { r with masks := Tbl.del r.masks vid } else r
  { s with races := (s.races.map keep).filter (fun r => !r.masks.isEmpty) }

/-- Record the accesses of lanes; true where the region of one is lost (R275). -/
def State.recordLanes (s : State) (ctx core : Nat) (i : PInst) :
    List (Lane × List RAcc) → Bool × State
  | [] => (false, s)
  | (l, as) :: rest =>
    match s.recordAll ctx core i (l.openAt i) l.vid as with
    | some s => s.recordLanes ctx core i rest
    | none =>
      let (_, s) := (s.goBlind ctx i l.vid).recordLanes ctx core i rest
      (true, s)

/-- RACE CHECK of an instruction over all its lanes (R274): none where it races; else its accesses are
recorded, and the answer tells whether a region is lost. -/
def State.raceCheck (s : State) (ctx : Nat) (i : PInst) (seq : BitVec 16) (accs : List (Nat × List RAcc)) :
    Option (Bool × State) :=
  match s.team? ctx with
  | none => some (false, s)
  | some t =>
    let core := s.coreOf t
    let seen := accs.filterMap (fun a => match t.laneOf a.1 with
      | some l => if l.blind.contains i then none else some (l, a.2)
      | none => none)
    if seen.any (fun x => x.2.any (fun a => s.raceHit t core i seq a)) then none
    else some (s.recordLanes ctx core i seen)

/-- `placef` (R195, R276): what the team has done at any place is ordered before what it does later. -/
def State.orderAll (s : State) (ctx : Nat) : State :=
  { s with races := s.races.map (fun (r : RaceRec) =>
      if r.ctx = ctx ∧ !r.kin.contains ctx then { r with kin := ctx :: r.kin } else r) }

/-- A value is fetched at instance `p` for instruction `seq` (R276): what the team has sent there before comes before
it. -/
def State.markFetch (s : State) (ctx : Nat) (p : PInst) (seq : BitVec 16) : State :=
  { s with races := s.races.map (fun (r : RaceRec) =>
      if r.ctx = ctx ∧ r.inst = p ∧ !r.marks.contains seq then { r with marks := seq :: r.marks } else r) }

/-- A value fetched at instance `p` has been taken at instance `q` by instruction `seq` (R276): the team's accesses
before the fetch are ordered before those of that instruction and of later ones at `q`. -/
def State.orderFetch (s : State) (ctx : Nat) (p q : PInst) (seq : BitVec 16) : State :=
  { s with races := s.races.map (fun (r : RaceRec) =>
      if r.ctx = ctx ∧ r.inst = p ∧ r.marks.contains seq then
        { r with behind := (q, seq) :: r.behind, marks := r.marks.filter (fun m => m != seq) } else r) }

end Sys2Proof.Machine
end

