-- ==== Sys2Proof/Machine/MemDesc.lean ====
section
/-! DEFINITION. What a load, a store or an atomic accesses (07 R167 to R185): one description per
instruction, effective addresses, what their target computes, and the checks at issue. -/

namespace Sys2Proof.Machine

/-- What an access does. -/
inductive AccKind where
  | load (sx : Bool) | store | fe (set : Bool) | atom (op : AOp) (ret : Bool) | cas (wide : Bool)
  | addf (bf ret : Bool)
deriving DecidableEq, Repr

/-- How BASE forms the address (R167, R175, R176). -/
inductive AddrForm where
  | gen | own | member | const
deriving DecidableEq, Repr

/-- Which places DATA may lie at (R171, R184). -/
inductive DataRule where
  | lane | uniform | core | any | none
deriving DecidableEq, Repr

/-- A load, store or atomic: fields, bytes, registers of DATA, what it does, how it addresses. -/
structure MemDesc where
  o    : FMem
  size : Nat
  regs : Nat
  kind : AccKind
  form : AddrForm
  rule : DataRule
deriving DecidableEq, Repr

/-- Whether a width sign-extends (R172). -/
def Width.sx : Width → Bool
  | .s8 | .s16 => true
  | _ => false

/-- A load. -/
def loadDesc (w : Width) (o : FMem) (f : AddrForm) (r : DataRule) : MemDesc :=
  { o := o, size := Width.bytes w, regs := Width.regs w, kind := .load (Width.sx w), form := f, rule := r }

/-- A store. -/
def storeDesc (w : Width) (o : FMem) (f : AddrForm) (r : DataRule) : MemDesc :=
  { o := o, size := Width.bytes w, regs := Width.regs w, kind := .store, form := f, rule := r }

/-- `atom` and `red` (R181). -/
def atomDesc (op : AOp) (ret : Bool) (o : FMem) : MemDesc :=
  { o := o, size := 4 * AOp.regs op, regs := AOp.regs op, kind := .atom op ret, form := .gen, rule := .any }

/-- The description of a memory instruction. -/
def memOf : Instr → Option MemDesc
  | .ld w o => some (loadDesc w o .gen .lane)
  | .st w o => some (storeDesc w o .gen .lane)
  | .ldu w o => some (loadDesc w o .gen .uniform)
  | .stu w o => some (storeDesc w o .gen .uniform)
  | .lds w o => some (loadDesc w o .own .core)
  | .sts w o => some (storeDesc w o .own .core)
  | .ldc w o => some (loadDesc w o .member .core)
  | .stc w o => some (storeDesc w o .member .core)
  | .ldk w o => some (loadDesc w o .const .core)
  | .setfe o => some { o := o, size := 1, regs := 0, kind := .fe true, form := .own, rule := .none }
  | .clrfe o => some { o := o, size := 1, regs := 0, kind := .fe false, form := .own, rule := .none }
  | .atom op o => some (atomDesc op true o)
  | .red op o => some (atomDesc op false o)
  | .atomcas w o => some { o := o, size := if w then 8 else 4, regs := if w then 4 else 2, kind := .cas w,
                           form := .gen, rule := .any }
  | .atomf bf o => some { o := o, size := 4, regs := 1, kind := .addf bf true, form := .gen, rule := .any }
  | .redf bf o => some { o := o, size := 4, regs := 1, kind := .addf bf false, form := .gen, rule := .any }
  | _ => none

/-- The access reads memory. -/
def AccKind.reads : AccKind → Bool
  | .store | .fe _ => false
  | _ => true

/-- The access writes memory. -/
def AccKind.writes : AccKind → Bool
  | .load _ | .fe _ => false
  | _ => true

/-- The instruction reads DATA. -/
def AccKind.takes : AccKind → Bool
  | .load _ | .fe _ => false
  | _ => true

/-- Registers from DATA upwards that the instruction writes. -/
def MemDesc.gives (m : MemDesc) : Nat :=
  match m.kind with
  | .load _ => m.regs
  | .store | .fe _ => 0
  | .atom _ ret | .addf _ ret => if ret then m.regs else 0
  | .cas wide => if wide then 2 else 1

/-- It is an atomic. -/
def AccKind.isAtomic : AccKind → Bool
  | .atom _ _ | .cas _ | .addf _ _ => true
  | _ => false

/-- ACC of a fault record (R334). -/
def AccKind.acc (k : AccKind) : BitVec 2 := if k.reads && k.writes then 2 else if k.writes then 1 else 0

/-- Registers of BASE that are read: `lds` and its like read the low one only (R175). -/
def MemDesc.baseRegs (m : MemDesc) : Nat := if m.form = .own then 1 else 2

/-- The instruction is an acquire (R268). -/
def MemDesc.acquires (m : MemDesc) : Bool :=
  m.o.ord == .acq || m.o.ord == .acqrel || (m.o.few && m.kind.reads)

/-- The instruction is a release (R268). -/
def MemDesc.releases (m : MemDesc) : Bool :=
  m.o.ord == .rel || m.o.ord == .acqrel || (m.o.fec && m.kind == .store)

/-- Its accesses are plain: recorded and checked (R273). -/
def MemDesc.plain (m : MemDesc) : Bool :=
  !m.acquires && !m.releases && !m.kind.isAtomic && (match m.kind with
    | .fe _ => false
    | _ => m.form != .const)

/-- Its scope: at least GROUP for FEW and FEC (R268), at most CLUSTER for a window (R179). -/
def MemDesc.scope (m : MemDesc) (window : Bool) : Scope :=
  let s := if (m.o.few || m.o.fec) && m.o.scope == .team then .group else m.o.scope
  if window && decide (2 < scopeRank s) then .cluster else s

/-! ### Addresses -/

/-- The effective address of a lane (R106, R167, R175): window forms give the window's address. -/
def MemDesc.ea (m : MemDesc) (base : DWord) : DWord :=
  let off : Word := base.setWidth 32 + m.o.off.signExtend 32
  match m.form with
  | .gen | .const => base + m.o.off.signExtend 64
  | .own => 0xFE00_0000_0000_0000 ||| off.setWidth 64
  | .member => 0xFD00_0000_0000_0000 ||| ((base >>> 32).setWidth 64 <<< 32) ||| off.setWidth 64

/-- Where an effective address leads. -/
inductive Where where
  | virt (va : Nat) | spad (group off : Nat) | cpeer (ord : Nat) | bad (k : MemKind)
deriving DecidableEq, Repr

/-- The offset lies within a scratchpad. -/
def State.inSpad (s : State) (g off n : Nat) : Where :=
  if off + n ≤ (s.group g).spadLen then .spad g off else .bad .bound

/-- The space of an effective address (R167), for an access of `n` bytes by a team of group `g`. -/
def State.space (s : State) (g : Nat) (window : Bool) (ea : DWord) (n : Nat) : Where :=
  let top := (ea >>> 56).toNat
  let off := ea.toNat % 2 ^ 32
  if top = 0 then .virt (ea.toNat % 2 ^ 56)
  else if !window then .bad .noncanon
  else if top = 0xFE ∧ bitsAt ea.toNat 32 24 = 0 then s.inSpad g off n
  else if top = 0xFD ∧ bitsAt ea.toNat 48 8 = 0 then
    match s.memberGroup g (bitsAt ea.toNat 32 16) with
    | some h => s.inSpad h off n
    | none => .cpeer (bitsAt ea.toNat 32 16)
  else .bad .noncanon

/-- The space of a memory instruction's address. `ldc` and `stc` take a member ordinal of 32 bits, of
which the address holds what a member can have. -/
def State.memSpace (s : State) (g : Nat) (m : MemDesc) (ea : DWord) : Where :=
  match m.form with
  | .member =>
    let ord := bitsAt ea.toNat 32 24
    (match s.memberGroup g ord with
    | some h => s.inSpad h (ea.toNat % 2 ^ 32) m.size
    | none => .cpeer ord)
  | .own => s.inSpad g (ea.toNat % 2 ^ 32) m.size
  | .gen => s.space g true ea m.size
  | .const => s.space g false ea m.size

/-- The member ordinal of a BASE pair is beyond the members (R27, R175). -/
def State.peerBad (s : State) (g : Nat) (m : MemDesc) (base : DWord) : Option Nat :=
  match m.form with
  | .member => let o := (base >>> 32).toNat; if s.memberCount g ≤ o then some o else none
  | .gen => (match s.space g true (m.ea base) m.size with
    | .cpeer o => some o
    | _ => none)
  | _ => none

/-- An address is not a multiple of the access's size (R168). -/
def MemDesc.misaligned (m : MemDesc) (ea : DWord) : Bool := ea.toNat % 2 ^ 32 % m.size != 0

/-- The address that a trap record gives (R255): an offset for the forms that take one. -/
def MemDesc.shown (m : MemDesc) (ea : DWord) : DWord :=
  match m.form with
  | .own | .member => (ea.setWidth 32).setWidth 64
  | _ => ea

/-- The trap for the addresses of some lanes (R51, R168): ALIGN at the lowest misaligned address, then
CPEER at the ordinal of the lowest lane that has a bad one. -/
def State.addrTrap (s : State) (g : Nat) (m : MemDesc) (bases : List DWord) : Option Trap :=
  match (bases.map m.ea).filter m.misaligned with
  | a :: as =>
    some { cause := .align, code := 0
           addr := as.foldl (fun x y => if (m.shown y).toNat < x.toNat then m.shown y else x) (m.shown a) }
  | [] => (bases.findSome? (s.peerBad g m)).map (fun o =>
      { cause := .cpeer, addr := BitVec.ofNat 64 o, code := 0 })

/-! ### What a target computes -/

/-- The low `n` bytes of DATA registers given as one list of words (R172). -/
def dataBytes (ws : List DWord) (n : Nat) : List Byte :=
  (ws.flatMap (fun w => leBytes 4 w.toNat)).take n

/-- A loaded value as register words (R172). -/
def loadWords (sx : Bool) (bs : List Byte) : List DWord :=
  let n := bs.length
  if n < 4 then
    let v := leNat bs
    [if sx ∧ 2 ^ (8 * n - 1) ≤ v then BitVec.ofNat 64 (2 ^ 32 - 2 ^ (8 * n) + v) else BitVec.ofNat 64 v]
  else (List.range (n / 4)).map (fun i => BitVec.ofNat 64 (leNat ((bs.drop (4 * i)).take 4)))

/-- Register words of an `n`-byte value. -/
def valWords (n v : Nat) : List DWord :=
  (List.range (n / 4)).map (fun i => BitVec.ofNat 64 (v / 2 ^ (32 * i) % 2 ^ 32))

/-- The value of register words from `i` on. -/
def wordsVal (ws : List DWord) (i n : Nat) : Nat :=
  (List.range n).foldl (fun a k => a + (opAt ws (i + k)).toNat % 2 ^ 32 * 2 ^ (32 * k)) 0

/-- The operation of an integer atomic on `w` bits (R181). -/
def atomFn (op : AOp) (old src : Nat) : Nat :=
  let w := 32 * AOp.regs op
  let sg (x : Nat) : Int := valOf w true x
  match op with
  | .add32 | .add64 => (old + src) % 2 ^ w
  | .minS32 | .minS64 => if sg src < sg old then src else old
  | .maxS32 | .maxS64 => if sg old < sg src then src else old
  | .minU32 => min old src
  | .maxU32 => max old src
  | .and32 | .and64 => old &&& src
  | .or32 | .or64 => old ||| src
  | .xor32 | .xor64 => old ^^^ src
  | .xchg32 | .xchg64 => src

/-- The sum of a floating-point atomic (R183). -/
def addfFn (bf : Bool) (old src : Nat) : Nat × Flags :=
  if bf then
    let f (i : Nat) : Nat × Flags :=
      let x (v : Nat) : FVal := ffBF16.val (v / 2 ^ (16 * i) % 2 ^ 16)
      ffBF16.add .rn false (x old) (x src)
    (packElems 16 [(f 0).1, (f 1).1], (f 0).2 ||| (f 1).2)
  else ffF32.add .rn false (ffF32.val old) (ffF32.val src)

/-- An atomic on an old value with the words of DATA: what is written, if anything, and the flags. -/
def AccKind.update (k : AccKind) (old : Nat) (ws : List DWord) : Option Nat × Flags :=
  match k with
  | .atom op _ => (some (atomFn op old (wordsVal ws 0 (AOp.regs op))), 0)
  | .cas wide =>
    let n := if wide then 2 else 1
    (if old = wordsVal ws 0 n then some (wordsVal ws n n) else none, 0)
  | .addf bf _ => let (v, f) := addfFn bf old (wordsVal ws 0 1); (some v, f)
  | _ => (none, 0)

/-! ### Places and checks at issue -/

/-- Where a memory instruction executes (R48, R174, R184): the place of DATA, and TEAM with DATA `z`; one
without DATA executes at LANE where BASE is at LANE, and at TEAM otherwise. -/
def State.memLoc (s : State) (t : Team) (m : MemDesc) : Loc :=
  let at' := if m.rule = .none then s.locOf t m.o.base else s.locOf t m.o.data
  match at' with
  | .lane => .lane
  | .mem w => if m.rule = .none then .team else .mem w
  | .bank c => if m.rule = .none then .team else .bank c
  | _ => .team

/-- Registers that a memory instruction names. -/
def MemDesc.names (m : MemDesc) : List (Reg × Nat) :=
  (m.o.base, m.baseRegs) :: (if m.rule = .none then [] else [(m.o.data, m.regs)])

/-- DATA lies where its form does not take it. -/
def State.dataBad (s : State) (t : Team) (m : MemDesc) : Bool :=
  let d := s.locOf t m.o.data
  match m.rule with
  | .lane => d != .lane && d != .imm
  | .uniform => d == .lane || d.isBank
  | .core => d.remote
  | .any => d.isBank
  | .none => false

/-- The trap of a memory instruction but for those that depend on addresses (R51, R171, R180). PRED is a
p predicate at LANE and a q predicate elsewhere. -/
def State.memCause (s : State) (t : Team) (m : MemDesc) : Option Cause :=
  let ex := s.memLoc t m
  firstCause
    [(s.anyNone t m.names, .undecl),
     (t.anyPend m.names || t.predPend (ex != .lane) m.o.p.num.toNat, .unwaited),
     (s.anyApart t m.names || s.dataBad t m || (s.locOf t m.o.base).isBank, .place),
     (s.locOf t m.o.base == .lane && ex != .lane, .shape)]

/-- The counter that a memory instruction raises (R57). -/
def MemDesc.ctr (m : MemDesc) (atMem : Bool) : Ctr :=
  if atMem then .pl
  else match m.kind with
    | .load _ | .cas _ => .ld
    | .atom _ ret | .addf _ ret => if ret then .ld else .st
    | .store | .fe _ => .st

end Sys2Proof.Machine
end

