-- ==== Sys2Proof/Machine/Exempt.lean ====
section
/-! DEFINITION. Older instructions for which a fault halt does not wait (02 R67): what leave, barriers,
sessions and stack zones hold; the fault halt of an instruction without a packet. -/

namespace Sys2Proof.Machine

/-- An `mloop`. -/
def isLoop : Instr → Bool
  | .mloop _ => true
  | _ => false

/-- The barrier of an `mlds.bar` lets it start (R229). -/
def State.barReady (s : State) (g : Nat) (e : QEnt) : Bool :=
  match e.op.instr with
  | .mldsBar _ b =>
    let o := (s.group g).barrier (e.op.o.toNat % 2 ^ 32)
    !o.inited || o.phaseMet b.wph
  | _ => true

/-- An address lies in a pseudo-channel in an all-bank session, or at a stack that holds requests (R251,
R369). -/
def State.homeHeld (s : State) (v core va : Nat) : Bool × State :=
  match s.homeOf v (dieOf core) va with
  | (none, s) => (false, s)
  | (some (stack, ch), s) => (s.chanHeld stack ch, s)

/-- The address operand of a memory instruction at Welt unit `w` (R168, R174): carried, read here, or
fetched. -/
def State.weltBase (s : State) (t : Team) (w : Nat) (m : MemDesc) (pk : Packet) : DWord × State :=
  match pk.fetches.head? with
  | none => (0, s)
  | some f =>
    if f.welt = w then s.readMem t.fam t.ctx w m.o.base m.baseRegs
    else
      let fs := pk.fetches.map (fun (x : Fetch) => { x with op := 0 })
      ((placeFetched [.reg m.o.base m.baseRegs 0] fs [0]).headD 0, s)

/-- The address that an instruction at a Welt unit accesses, where it is known. -/
def State.execAddr (s : State) (r : Req) (m : MemDesc) : List DWord :=
  match r.target, (s.team? r.ctx).bind (fun t => (t.pk? r.seq).map (fun p => (t, p))) with
  | .welt w, some (t, pk) =>
    if pk.fetches.isEmpty then r.lanes.map (fun l => l.addr) else [m.ea (s.weltBase t w m pk).1]
  | _, _ => []

/-- The addresses of virtual memory that a request reaches at its target. -/
def State.reqVas (s : State) (r : Req) : List Nat :=
  let of (m : MemDesc) (as : List DWord) : List Nat := as.filterMap (fun a =>
    match s.memSpace r.group m a with
    | .virt va => some va
    | _ => none)
  match r.op, memOf r.instr with
  | .access, some m => of m (r.lanes.map (fun l => l.addr))
  | .exec, some m => of m (s.execAddr r m)
  | _, _ => []

/-- Some address of several is held. -/
def State.anyHeld (s : State) (v core : Nat) : List Nat → Bool × State
  | [] => (false, s)
  | va :: vas =>
    match s.homeHeld v core va with
    | (true, s) => (true, s)
    | (false, s) => s.anyHeld v core vas

/-- A request is held by a session or by a stack zone. -/
def State.heldBySession (s : State) (r : Req) : Bool × State :=
  let g := s.group r.group
  s.anyHeld g.vd g.core (s.reqVas r)

/-- A matrix operation waits for leave, or stands behind one that does (R67). -/
def Group.behindLeave (g : Group) (ctx : Nat) (seq : BitVec 16) : Bool :=
  g.quads.any (fun x =>
    let before := x.2.queue.takeWhile (fun e => e.issuer.seq? ctx != some seq)
    let waits (e : QEnt) : Bool := isLoop e.op.instr && e.asked && !e.granted
    decide (before.length < x.2.queue.length) &&
      (before.any waits || (x.2.queue.drop before.length).head?.elim false waits))

/-- An older instruction for which a fault halt does not wait (R67). -/
def State.exempt (s : State) (t : Team) (p : Packet) : Bool :=
  let few : Bool := (memOf p.instr).elim false (fun m => m.o.few && m.kind.reads)
  let g := s.group t.group
  let barrier : Bool := match p.instr with
    | .mldsBar _ _ => g.quads.any (fun x => x.2.queue.any (fun e =>
        e.issuer.seq? t.ctx == some p.seq && !e.started && !s.barReady t.group e))
    | _ => false
  few || barrier || (p.mat.isSome && g.behindLeave t.ctx p.seq)
    || s.reqs.any (fun r => r.ctx == t.ctx && r.seq == p.seq && !r.orphan && (s.heldBySession r).1)

/-- A packet has met a fault or a stop, and nothing of it is on its way. -/
def Packet.faulted (p : Packet) : Bool :=
  !p.complete && (p.stop.isSome || (p.lanes.any (fun l => l.fault.isSome) &&
    p.lanes.all (fun l => l.done || l.fault.isSome)))

/-- Older instructions hold a fault halt of the team (R67). -/
def State.faultWaits (s : State) (t : Team) : Bool :=
  s.midMatrix t || t.replay.any (fun p => !p.complete && (p.faulted || !s.exempt t p))

/-- A memory fault that the core finds of an instruction without a packet, or of a clause fetch (R167, R334):
once every older instruction has completed or is exempt, the team halts where it stands, and the record is
sent (R67). -/
def State.coreFaultRec (s : State) (t : Team) (r : FRec) : State :=
  if s.faultWaits t then s.standAt t.ctx else s.haltFault t r

end Sys2Proof.Machine
end

