-- ==== Sys2Proof/Machine/LinkPath.lean ====
section
/-! DEFINITION. How requests, answers and trips cross the link directions, and what goes with a link that is down (17 R312;
19 R361). -/

namespace Sys2Proof.Machine

/-- A request at place `i` goes on to another target (R184, R260, R266). -/
def State.sendOn (s : State) (i : Nat) (r : Req) (t : Target) (way : List Nat) : State :=
  let (id, s) := s.fresh
  let s := s.pushFlit (s.group r.group).vd id way
  { s with reqs := updAt (fun (x : Req) => { x with target := t, id := id, route := way }) i s.reqs }

/-- A request goes on from its core. -/
def State.sendFrom (s : State) (i : Nat) (r : Req) (t : Target) : State :=
  let (way, s) := s.wayTo (dieOf (s.group r.group).core) none t
  s.sendOn i r t way

/-- A request at a stack or a slice goes on to a home outside the package (R184, R375, R388). -/
def State.sendOutside (s : State) (i : Nat) (r : Req) (pa : Nat) : State :=
  let (way, s) := s.outPath pa
  let t : Target := if pa < 0xC000_0000_0000 then .host
    else .peer (s.route ((pa - 0xC000_0000_0000) / 2 ^ 40)).pkg.toNat
  s.sendOn i r t way

/-- What is left of a way when a flit has crossed its first link; none where it did not wait there. -/
def crossed (l : Nat) (way : List Nat) : Option (List Nat) :=
  match way with
  | k :: rest => if k = l then some rest else none
  | [] => none

/-- A flit has crossed a link (R312): the request, the answer or the trip that it carries goes on. -/
def State.cross (s : State) (l : Nat) (f : Flit) : State :=
  match s.reqs.findSome? (fun r => if r.id = f.id then crossed l r.route else none) with
  | some way =>
    { s with reqs := updFirst (fun (r : Req) => r.id == f.id) (fun r => { r with route := way }) s.reqs }.pushFlit f.vd f.id way
  | none =>
    match s.answers.findSome? (fun a => if a.id = f.id then crossed l a.route else none) with
    | some way =>
      { s with answers := updFirst (fun (a : Answer) => a.id == f.id) (fun a => { a with route := way }) s.answers }.pushFlit
        f.vd f.id way
    | none =>
      match s.trips.findSome? (fun t => if t.id = f.id then (crossed l t.route).map (fun way => (t, way)) else none) with
      | some (t, way) => State.runTrip tripLen (s.pushFlit f.vd f.id way) { t with route := way }
      | none => s

/-- It waits on a link. -/
def waitsOn (l : Nat) (way : List Nat) : Bool := way.head? == some l

end Sys2Proof.Machine
end

