-- ==== Sys2Proof/Machine/LoadStore.lean ====
section
/-! DEFINITION. Issue of the loads, stores and atomics (07 R167 to R187): the lanes of their packet,
the targets of their requests (R62, R167, R184), and the results at the core. -/

namespace Sys2Proof.Machine

/-- Words of `n` registers of a lane; `z` reads zero. -/
def laneWords (l : Lane) (r : Reg) (n : Nat) : List DWord :=
  (List.range n).map (fun i => if r = Reg.z then 0 else (laneReg l (r.toNat + i)).setWidth 64)

/-- Words of `n` registers at TEAM. -/
def State.teamWords (s : State) (t : Team) (r : Reg) : Nat → List DWord × State
  | 0 => ([], s)
  | n + 1 =>
    let (ws, s) := s.teamWords t r n
    let (w, s) := if r = Reg.z then (0, s) else s.readUni t.fam t.ctx (r.toNat + n)
    (ws ++ [w.setWidth 64], s)

/-- How a lane's access stands to an open span (R187): 0 ordinary, 1 transactional, 2 not made. It is
the last operand of a packet's lane. -/
def txMark (t : Team) (m : MemDesc) (ea : DWord) (l : Lane) : DWord :=
  let ldst : Bool := decide (m.rule = .lane)
  let window : Bool := (ea >>> 56) == 0xFD || (ea >>> 56) == 0xFE
  if t.span.isNone || l.tx.st == .none || !ldst then 0
  else if l.tx.st == .active && m.o.ord == .plain && !window then 1
  else 2

/-- The lanes that `ld` and `st` abort with UNSUPPORTED at issue (R187). -/
def txAborts (t : Team) (ls : List (Lane × DWord)) (m : MemDesc) : List Nat :=
  (ls.filter (fun x => x.1.tx.st == .active && txMark t m (m.ea x.2) x.1 == 2)).map (fun x => x.1.vid)

/-- The banks of a group's scratchpad space (R261, R303): those that its domain owns on the core. -/
def State.spadBanks (s : State) (g : Nat) : List Nat :=
  let m := s.group g
  ((List.range 16).filter (fun i => s.ownsUnit m.core (s.vd m.vd).domain.toNat (8 + i))).flatMap
    (fun i => (List.range 8).map (fun b => 8 * i + b))

/-- The bank and the word of an offset of a group's scratchpad (R261). -/
def State.spadAt (s : State) (g off : Nat) : Nat × Nat :=
  let ks := s.spadBanks g
  let w := ((s.group g).spadBase + off) / 4
  (ks.getD (w % max ks.length 1) 0, w / max ks.length 1)

/-- The home slice of an address, or the memory side of its stack where its domain owns no slice there (R62, R306). -/
def State.homeTarget (s : State) (v stack va : Nat) : Target :=
  match s.sliceOf (s.vd v).domain.toNat (stack / 4) va with
  | some sl => .l2 sl
  | none => .msc stack

/-- The core answers an access itself (R260, R262, R264): a load that hits L1 or the RDC of its die, a store that stays in
L1, and what goes the constant path. -/
def State.coreAnswers (s : State) (w : Who) (m : MemDesc) (mark : DWord) (stack va : Nat) : Bool :=
  if m.form = .const then true
  else if !m.plain then false
  else match m.kind with
    | .load _ => (s.l1Bytes w va m.size).isSome || (stack / 4 != dieOf w.core && (s.rdcCopy w va).isSome)
    | .store => mark != 1 && s.staysInL1 w va (m.scope false)
    | _ => false

/-- The target of a lane's access (R62, R167, R184, R260, R306, R328): the core itself for what it finds, answers or need
not send. -/
def State.laneTarget (s : State) (t : Team) (m : MemDesc) (l : PLane) : Target × State :=
  let c := s.coreOf t
  let v := s.vdOf t
  let mark := l.ops.getLastD 0
  if mark == 2 then (.core c, s)
  else match s.memSpace t.group m l.addr with
    | .bad _ | .cpeer _ => (.core c, s)
    | .spad h off => (.spad h (s.spadAt h off).1, s)
    | .virt va =>
      match s.homeOf v (dieOf c) va with
      | (none, s) => (.core c, s)
      | (some (stack, _), s) =>
        (if m.kind.isAtomic && m.o.far then .msc stack
        else if s.coreAnswers (s.whoOf t 0 0) m mark stack va then .core c
        else s.homeTarget v stack va, s)

/-- What a request's lanes have in common beside their target (R169): the 128-byte sector; what the core finds stands
apart. -/
def State.laneSector (s : State) (t : Team) (m : MemDesc) (l : PLane) : Nat :=
  if l.ops.getLastD 0 == 2 then 0
  else match s.memSpace t.group m l.addr with
    | .bad _ | .cpeer _ => 0
    | .spad _ off => off / 128 + 1
    | .virt va => va / 128 + 1

/-- Targets and sectors of several lanes. -/
def State.laneTargets (s : State) (t : Team) (m : MemDesc) : List PLane → List ((Target × Nat) × PLane) × State
  | [] => ([], s)
  | l :: ls =>
    let (x, s) := s.laneTarget t m l
    let (xs, s) := s.laneTargets t m ls
    (((x, s.laneSector t m l), l) :: xs, s)

/-- One request per target and sector, its lanes in order (R169, R260). -/
def groupSends (op : ReqOp) (xs : List ((Target × Nat) × PLane)) : List Send :=
  ((xs.map (fun x => x.1)).eraseDups).map (fun g =>
    { target := g.1, op := op, lanes := (xs.filter (fun x => decide (x.1 = g))).map (fun x => x.2) })

/-- The sends of the lanes of a memory packet that are not done. -/
def State.accessSends (s : State) (t : Team) (m : MemDesc) (ls : List PLane) : List Send × State :=
  let (xs, s) := s.laneTargets t m (ls.filter (fun l => !l.done))
  (groupSends .access xs, s)

/-- Operand numbers of a BASE pair among the fetches of a packet. -/
def baseOp : Nat := 9

/-- The fetches of a BASE at MEM (R50). -/
def State.baseFetches (s : State) (t : Team) (m : MemDesc) : List Fetch :=
  s.fetchesOf t baseOp m.o.base m.baseRegs

/-- The uniform BASE of a memory instruction at LANE or TEAM: none where it is lane-shaped or at MEM. -/
def State.uniBase (s : State) (t : Team) (m : MemDesc) : Option DWord × State :=
  match s.locOf t m.o.base with
  | .lane | .mem _ => (none, s)
  | _ =>
    if m.form = .own then let (v, s) := s.readOne t m.o.base; (some (v.setWidth 64), s)
    else let (v, s) := s.readPair t m.o.base; (some v, s)

/-- BASE of a lane. -/
def MemDesc.laneBase (m : MemDesc) (uni : Option DWord) (l : Lane) : DWord :=
  uni.getD (laneRegs l m.o.base m.baseRegs)

/-- Registers pending for a load at the core (R59, R173). -/
def MemDesc.pend (m : MemDesc) : List Nat := if m.gives = 0 then [] else regNums m.o.data m.gives

/-- A FEW load parks its team, or its path of a serial fallback, until every lane has read (R21,
R177). -/
def State.parkFew (s : State) (ctx : Nat) (m : MemDesc) (seq : BitVec 16) : State :=
  if !(m.o.few && m.kind.reads) then s
  else match s.team? ctx with
    | none => s
    | some t =>
      if !t.inFallback then s.stand { t with parked := .few }
      else
        let t : Team := match t.paths with
          | p :: ps =>
            let q : PathSt := { t.pathNow p with few := some seq }
            t.setPaths (q :: ps)
          | [] => t
        s.giveWay t.alternate

/-- A memory instruction whose packet has its lanes: it issues (R57, R61). -/
def State.sendMem (s : State) (t : Team) (i : Instr) (m : MemDesc) (uni : Bool) (ls : List PLane) : State :=
  let fs := s.baseFetches t m
  let pk := t.packet i .core (m.ctr false) uni ls fs
  if t.full pk.ctr then s.stallAt t.ctx pk.ctr
  else
    let (sends, s) : List Send × State := match fs with
      | f :: _ => ([{ target := Target.welt f.welt, op := .base m.o.base, lanes := [] }], s)
      | [] => s.accessSends t m ls
    (s.issuePacket t.ctx 1 pk m.pend [] sends).parkFew t.ctx m t.seq

/-- A memory instruction at LANE (R10, R173). -/
def State.memAtLanes (s : State) (t : Team) (i : Instr) (m : MemDesc) : State :=
  let act := t.active m.o.p
  let atMem := (s.locOf t m.o.base).isMem
  let (uni, s) := s.uniBase t m
  let bases := act.map (fun l => (l, m.laneBase uni l))
  match if atMem then none else s.addrTrap t.group m (bases.map (fun x => x.2)) with
  | some tr => s.takeTrap t.ctx 1 tr
  | none =>
    if act.isEmpty then s.advance t.ctx 1
    else
      let dead := txAborts t bases m
      let ls := bases.map (fun x =>
        let ea := if atMem then 0 else m.ea x.2
        let data := if m.kind.takes then laneWords x.1 m.o.data m.regs else []
        pLane x.1.vid (data ++ [txMark t m ea x.1]) ea)
      let t := t.abortTx (fun l => dead.contains l.vid) .unsupported
      (s.setTeam t).sendMem t i m false ls

/-- A memory instruction at the uniform unit (R174). -/
def State.memAtTeam (s : State) (t : Team) (i : Instr) (m : MemDesc) : State :=
  let atMem := (s.locOf t m.o.base).isMem
  let (uni, s) := s.uniBase t m
  let base := uni.getD 0
  match if atMem then none else s.addrTrap t.group m [base] with
  | some tr => s.takeTrap t.ctx 1 tr
  | none =>
    let (on, s) := s.qPred t m.o.p
    if !on then s.advance t.ctx 1
    else
      let (data, s) := if m.kind.takes then s.teamWords t m.o.data m.regs else ([], s)
      s.sendMem t i m true [pLane 0 (data ++ [0]) (if atMem then 0 else m.ea base)]

/-- A memory instruction with DATA at MEM (R174, R184): sent to the Welt unit with its predicate and a
BASE at TEAM; a BASE at another Welt unit is fetched. -/
def State.memAtWelt (s : State) (t : Team) (i : Instr) (m : MemDesc) (w : Nat) : State :=
  let atMem := (s.locOf t m.o.base).isMem
  let (uni, s) := s.uniBase t m
  let base := uni.getD 0
  match if atMem then none else s.addrTrap t.group m [base] with
  | some tr => s.takeTrap t.ctx 1 tr
  | none =>
    let (on, s) := s.qPred t m.o.p
    let fs := s.baseFetches t m
    let lane := pLane 0 [boolOp on] (if atMem then 0 else m.ea base)
    let pk := t.packet i (.welt w) .pl true [lane] fs
    s.issuePacket t.ctx 1 pk [] [] ({ target := .welt w, op := .exec, lanes := [lane] } ::
      fetchSends (fs.filter (fun f => f.welt != w)))

/-- A team issues a load, a store or an atomic. -/
def State.issueMem (s : State) (i : Instr) (m : MemDesc) : State :=
  s.byTeam i (fun s t =>
    match s.memCause t m with
    | some c => s.takeTrap t.ctx 1 (plainTrap c)
    | none => match s.memLoc t m with
      | .lane => s.memAtLanes t i m
      | .mem w => s.memAtWelt t i m w
      | _ => s.memAtTeam t i m)

/-- Words written to `r` and the registers above it, in a lane. -/
def putLaneWords (l : Lane) (r : Reg) (ws : List DWord) : Lane :=
  if r = Reg.z then l
  else { l with regs := (ws.zip (List.range ws.length)).foldl (fun regs x =>
    Tbl.set regs (r.toNat + x.2) (x.1.setWidth 32)) l.regs }

/-- Words written to registers at TEAM, or at a Welt unit where `key` gives their keys. -/
def State.putUniWords (s : State) (f ctx : Nat) (key : Nat → Nat) (r : Reg) (ws : List DWord) : State :=
  if r = Reg.z then s
  else (ws.zip (List.range ws.length)).foldl (fun s x =>
    s.writeUni f ctx (key (r.toNat + x.2)) (x.1.setWidth 32)) s

/-- The core writes what the lanes of an answer bring (R61, R67). -/
def State.takeWords (s : State) (t : Team) (r : Reg) (uni : Bool) (ls : List AnsLane) : State :=
  let good := ls.filter (fun l => l.fault.isNone && !l.vals.isEmpty)
  if uni then good.foldl (fun s l => s.putUniWords t.fam t.ctx (fun k => k) r l.vals) s
  else s.modTeam t.ctx (fun t => t.mapLanes (fun l =>
    match good.find? (fun a => a.vid == l.vid) with
    | some a => putLaneWords l r a.vals
    | none => l))

end Sys2Proof.Machine
end

