-- ==== Sys2Proof/Machine/Trans.lean ====
section
/-! DEFINITION. Transactions (07 R186 to R192; 10 R278). -/

namespace Sys2Proof.Machine

/-- Granules that a transaction has read or written. -/
def Tx.granules (x : Tx) : List Nat := ((x.log ++ x.buf).map (fun e => e.1 / 16)).eraseDups

/-- A transaction has written in a granule. -/
def Tx.wrote (x : Tx) (g : Nat) : Bool := x.buf.any (fun e => e.1 / 16 == g)

/-- A lane's transaction is ACTIVE. -/
def Lane.txActive (l : Lane) : Bool := l.tx.st == .active

/-- The ACTIVE lanes that conflict with an access of lane `vid` to a granule (R188). -/
def Team.txRivals (t : Team) (vid g : Nat) (write : Bool) : List Nat :=
  (t.lanes.filter (fun l => l.vid != vid && l.txActive &&
    (l.tx.wrote g || (write && l.tx.granules.contains g)))).map (fun l => l.vid)

/-- The footprint with one granule more (R188). -/
def Team.footprint (t : Team) (g : Nat) : Nat :=
  (g :: (t.lanes.filter Lane.txActive).flatMap (fun l => l.tx.granules)).eraseDups.length

/-- What aborts before an access of lane `vid` is made (R188): LANE, then CAPACITY. The lane's own
abort comes where a rival has a lower id; then its access is not made. -/
def Team.txBefore (t : Team) (vid g : Nat) (write : Bool) : Team :=
  let rivals := t.txRivals vid g write
  if rivals.any (fun r => decide (r < vid)) then t.abortTx (fun l => l.vid == vid) .lane
  else
    let t := t.abortTx (fun l => rivals.contains l.vid) .lane
    if 256 < t.footprint g then t.abortTx (fun _ => true) .capacity else t

/-- A lane's buffered value of a byte, the newest. -/
def Tx.buffered (x : Tx) (a : Nat) : Option Byte :=
  x.buf.foldl (fun r e => if e.1 = a then some e.2 else r) none

/-- Bytes with the lane's own buffered ones in place. -/
def Tx.overlaid (x : Tx) (va : Nat) (bs : List Byte) : List Byte :=
  (bs.zip (List.range bs.length)).map (fun b => (x.buffered (va + b.2)).getD b.1)

/-- Bytes with their addresses. -/
def addressed (va : Nat) (bs : List Byte) : List (Nat × Byte) :=
  (bs.zip (List.range bs.length)).map (fun b => (va + b.2, b.1))

/-- Change the transaction of a lane. -/
def State.modTx (s : State) (ctx vid : Nat) (f : Tx → Tx) : State :=
  s.modTeam ctx (fun t => t.mapLanes (fun l => if l.vid = vid then { l with tx := f l.tx } else l))

/-- Abort one lane (R188). -/
def State.abortLane (s : State) (ctx vid : Nat) (st : TxSt) : State :=
  s.modTeam ctx (fun t => t.abortTx (fun l => l.vid == vid) st)

/-- A transactional load (R187): its bytes; none where the lane is aborted, `poison` where a poisoned
sector is read. Every byte read is logged. -/
def State.txLoad (s : State) (w : Who) (vid va n : Nat) : Got × State :=
  let zero : Got := .data (List.replicate n 0)
  match s.team? w.ctx with
  | none => (zero, s)
  | some t =>
    if !((t.laneOf vid).elim false Lane.txActive) then (zero, s)
    else
      let t := t.txBefore vid (va / 16) false
      let s := s.setTeam t
      match t.laneOf vid with
      | none => (zero, s)
      | some l =>
        if !l.txActive then (zero, s)
        else match s.loadVirt w va n with
          | (.fault _ _, s) => (zero, s.abortLane w.ctx vid .fault)
          | (.poison, s) => (.poison, s)
          | (.data bs, s) =>
            let bs := l.tx.overlaid va bs
            (.data bs, s.modTx w.ctx vid (fun x => { x with log := x.log ++ addressed va bs }))

/-- A transactional store (R187): buffered; it faults where the page may not be written. -/
def State.txStore (s : State) (w : Who) (vid va : Nat) (bs : List Byte) : State :=
  match s.team? w.ctx with
  | none => s
  | some t =>
    if !((t.laneOf vid).elim false Lane.txActive) then s
    else
      let t := t.txBefore vid (va / 16) true
      let s := s.setTeam t
      if !((t.laneOf vid).elim false Lane.txActive) then s
      else match s.askHome w va 1 with
        | (.error _, s) => s.abortLane w.ctx vid .fault
        | (.ok _, s) => s.modTx w.ctx vid (fun x => { x with buf := x.buf ++ addressed va bs })

/-! ### Commit (R189) -/

/-- Sectors of some bytes, ascending. -/
def sectorsOf (l : List (Nat × Byte)) : List Nat := l.foldl (fun a e => insertNat (e.1 / 128) a) []

/-- Bytes of a sector with the values of some addresses. -/
def inSector (sec : Nat) (l : List (Nat × Byte)) : Tbl Byte :=
  (l.filter (fun e => e.1 / 128 == sec)).foldl (fun t e => Tbl.set t (e.1 % 128) e.2) []

/-- Whether logged bytes hold in the 128 bytes of their sector. -/
def logHolds (sec : Nat) (log : List (Nat × Byte)) (now : List Byte) : Bool :=
  (log.filter (fun e => e.1 / 128 == sec)).all (fun e => now[e.1 % 128]? == some e.2)

/-- Validate a lane's log against the current values: where a page cannot be read any more, they do not match. -/
def State.txValid (s : State) (w : Who) (log : List (Nat × Byte)) : List Nat → TxSt × State
  | [] => (.committed, s)
  | sec :: secs =>
    match s.atHomeDo w (sec * 128) 0 (fun now => (([] : Tbl Byte), logHolds sec log now)) with
    | (.error _, s) | (.ok none, s) => (.conflict, s)
    | (.ok (some ok), s) => if ok then s.txValid w log secs else (.conflict, s)

/-- The pages of a lane's writes may be written. -/
def State.txMayWrite (s : State) (w : Who) : List Nat → Bool × State
  | [] => (true, s)
  | sec :: secs =>
    match s.atHomeDo w (sec * 128) 2 (fun _ => (([] : Tbl Byte), ())) with
    | (.error _, s) => (false, s)
    | (_, s) => s.txMayWrite w secs

/-- A lane's writes are applied. -/
def State.txApply (s : State) (w : Who) (buf : List (Nat × Byte)) : State :=
  (sectorsOf buf).foldl (fun s sec =>
    (s.atHomeDo w (sec * 128) 2 (fun _ => (inSector sec buf, ()))).2) s

/-- The records of a committed lane (R273, R274). -/
def State.txAccs (s : State) (v core : Nat) (x : Tx) : List RAcc :=
  let of (l : List (Nat × Byte)) (wr : Bool) : List RAcc :=
    (l.map (fun e => e.1)).eraseDups.flatMap (fun a => s.virtAccs v a 1 (some core) (!wr) wr)
  of x.log false ++ of x.buf true

/-- One lane commits or is turned away (R189), its regions opening at a stamp. -/
def State.commitLane (s : State) (w : Who) (now : Nat) (l : Lane) (sc : Scope) : State :=
  let (st, s) := s.txValid w l.tx.log (sectorsOf l.tx.log)
  let (may, s) := s.txMayWrite w (sectorsOf l.tx.buf)
  let st := if st = .committed ∧ !may then .conflict else st
  let s := if st = .committed then s.txApply w l.tx.buf else s
  let s := s.abortLane w.ctx l.vid st
  if st != .committed then s
  else
    let s := s.acquireL1 w.core sc
    let s := s.syncAt now w.ctx .core [l.vid] true true
    match (s.team? w.ctx).bind (fun t => t.laneOf l.vid) with
    | none => s
    | some m =>
      let (lost, s) := s.recordLanes w.ctx w.core .core [(m, s.txAccs w.vd w.core l.tx)]
      s.modTeam w.ctx (fun t => t.join (Flags.when lost fRDLOST))

/-- A span closes (R189): a release of what the team has done, the lanes one after another, and the team goes on. -/
def State.commitSpan (s : State) (t : Team) (sp : Span) : State :=
  let w := s.whoOf t t.pc t.word
  let s := if t.lanes.any Lane.txActive then s.releaseL1 w.core sp.scope else s
  let (now, s) := s.fresh
  let s := (t.lanes.filter Lane.txActive).foldl (fun s l => s.commitLane w now l sp.scope) s
  match s.team? w.ctx with
  | some t => s.settle { t.advance 1 with span := none, tend := false }
  | none => s

/-- TRANSACTION_COMMIT (R189, R268): the span of a team that waits at its `tend`, and whose earlier accesses have been
performed, closes. -/
def execTransactionCommit (ctx : Nat) (s : State) : Host.Outcome State Fault Refusal :=
  .next (match s.team? ctx with
    | none => s
    | some t =>
      match t.span, t.tend && t.out .ld == 0 && t.out .st == 0 && t.parked == .no with
      | some sp, true => s.unlessHeld (fun s => s.commitSpan t sp)
      | _, _ => s)

/-- TBEG (R186). -/
def execTbeg (o : FMem) (s : State) : Host.Outcome State Fault Refusal :=
  .next (s.byTeam (.tbeg o) (fun s t =>
    if t.predPend false o.p.num.toNat then s.takeTrap t.ctx 1 (plainTrap .unwaited)
    else
      let act := (t.active o.p).map (fun l => l.vid)
      if t.span.isSome || act.isEmpty then s.advance t.ctx 1
      else
        let here := t.current.map (fun l => l.vid)
        let t := t.mapLanes (fun l =>
          if act.contains l.vid then { l with tx := { noTx with st := .active } }
          else if here.contains l.vid then { l with tx := noTx } else l)
        s.settle ({ t with span := some { scope := o.scope, depth := divDepth t.div } }.advance 1)))

/-- TEND (R189): the team waits for its commit. -/
def execTend (o : FMem) (s : State) : Host.Outcome State Fault Refusal :=
  .next (s.byTeam (.tend o) (fun s t =>
    match t.span with
    | none => s.takeTrap t.ctx 1 (plainTrap .illegal)
    | some sp =>
      if sp.depth != divDepth t.div then s.takeTrap t.ctx 1 (plainTrap .illegal)
      else s.stand { t.wait with tend := true }))

/-- TABT (R190). -/
def execTabt (o : F3) (s : State) : Host.Outcome State Fault Refusal :=
  .next (s.byTeam (.tabt o) (fun s t =>
    if t.predPend false o.p.num.toNat then s.takeTrap t.ctx 1 (plainTrap .unwaited)
    else
      let act := (t.active o.p).map (fun l => l.vid)
      let hit (l : Lane) : Bool := t.span.isSome && l.txActive && act.contains l.vid
      let t := t.mapLanes (fun l =>
        if hit l then { l with tx := { st := .explicit, code := o.imm, log := [], buf := [] } } else l)
      s.settle (t.advance 1)))

/-- STATUS codes (R191). -/
def TxSt.code : TxSt → Nat
  | .none => 0
  | .active => 1
  | .committed => 2
  | .conflict => 3
  | .lane => 4
  | .capacity => 5
  | .fault => 6
  | .halted => 7
  | .unsupported => 8
  | .explicit => 9

/-- The status word of a lane (R191). -/
def txWord (span : Bool) (x : Tx) : DWord :=
  BitVec.ofNat 64 (x.st.code + (if x.st = .explicit then x.code.toNat * 2 ^ 8 else 0) +
    (if span then 2 ^ 31 else 0))

/-- `tstat` of a team as a description. -/
def tstatDesc (t : Team) (o : F3) : OpDesc :=
  crossDesc o.p (.reg o.d 1) none [] .laneShape (fun _ _ ls =>
    lanesOut (actOut ls (fun x => (txWord t.span.isSome ((t.laneOf x.vid).elim noTx (fun l => l.tx)), false))) 0)

/-- TSTAT (R191). -/
def execTstat (o : F3) (s : State) : Host.Outcome State Fault Refusal :=
  .next (s.byTeam (.tstat o) (fun s t => s.writeThen t (tstatDesc t o) (fun t => t)))

end Sys2Proof.Machine
end

