-- ==== Sys2Proof/Machine/Perform.lean ====
section
/-! DEFINITION. Performing the accesses of loads, stores and atomics at their target (07 R169, R173,
R177, R181 to R184; 10 R261 to R266; 19 R353). -/

namespace Sys2Proof.Machine

/-- What a target gives back for a request: lane answers, flags, the address of a poisoned value that
would reach a register, and a stop. -/
structure Perf where
  lanes  : List AnsLane
  flags  : Flags
  poison : Option Nat
  stop   : Option StopKind
deriving Repr

/-- A lane's plain answer. -/
def ansLane (vid : Nat) (vals : List DWord) : AnsLane := { vid := vid, vals := vals, fault := none }

/-- A lane's fault. -/
def ansFault (vid : Nat) (k : MemKind) (level : Nat) (ea : DWord) (acc : BitVec 2) : AnsLane :=
  { vid := vid, vals := [], fault := some { kind := k, level := BitVec.ofNat 3 level, va := ea, acc := acc } }

/-- An answer of one lane. -/
def onePerf (a : AnsLane) : Perf := { lanes := [a], flags := 0, poison := none, stop := none }

/-- Answers of several lanes together. -/
def Perf.add (a b : Perf) : Perf :=
  { lanes := a.lanes ++ b.lanes, flags := a.flags ||| b.flags
    poison := match a.poison with
      | some p => some p
      | none => b.poison
    stop := match a.stop with
      | some p => some p
      | none => b.stop }

/-- Nothing to answer. -/
def noPerf : Perf := { lanes := [], flags := 0, poison := none, stop := none }

/-- A poisoned value for a register (R353): no lane of the answer counts. -/
def poisonPerf (at_ : Nat) : Perf := { lanes := [], flags := 0, poison := some at_, stop := none }

/-! ### Scratchpads (R177, R261) -/

/-- A FEW load, which waits at its bank and holds nothing back (R177). -/
def Req.isFew (r : Req) : Bool := (memOf r.instr).elim false (fun m => m.o.few && m.kind.reads)

/-- A FEW load awaits the full bit of the granule of a scratchpad offset. -/
def State.awaitsFull (s : State) (r : Req) (g off : Nat) : Bool :=
  !r.orphan && r.isFew && (memOf r.instr).any (fun m => r.lanes.any (fun l =>
    match s.memSpace r.group m l.addr with
    | .spad h o => h == g && o / 16 == off / 16
    | _ => false))

/-- The cores whose teams await the full bit of a granule. -/
def State.fewCores (s : State) (g off : Nat) : List Nat :=
  ((s.reqs.filter (fun r => s.awaitsFull r g off)).map (fun r => (s.group r.group).core)).eraseDups

/-- The full bit of an offset's granule. -/
def Group.isFull (g : Group) (off : Nat) : Bool := g.full.contains (off / 16)

/-- Set or clear a full bit; a change wakes the cores whose teams watch it, parked at a FEW load (R40, R177). -/
def State.setFull (s : State) (g off : Nat) (b : Bool) : State :=
  let k := s.group g
  if k.isFull off = b then s
  else
    let s := s.setGroup g { k with
      full := if b then insertNat (off / 16) k.full else k.full.filter (fun x => x != off / 16) }
    (s.fewCores g off).foldl (fun s c => s.wakeCause c 1) s

/-- A scratchpad address in a record of poison: the local window's. -/
def spadAddr (off : Nat) : Nat := 0xFE * 2 ^ 56 + off

/-- Lanes of a load at a scratchpad; full bits are cleared after all have read (R177). -/
def State.spadLoad (s : State) (m : MemDesc) (g : Nat) (ls : List (PLane × Nat)) : Perf × State :=
  let k := s.group g
  let sx : Bool := match m.kind with
    | .load b => b
    | _ => false
  let p := ls.foldl (fun (p : Perf) l =>
    p.add (if k.poisoned l.2 m.size then poisonPerf (spadAddr l.2)
      else onePerf (ansLane l.1.vid (loadWords sx (k.spadRead l.2 m.size))))) noPerf
  (p, if m.o.fec && p.poison.isNone then ls.foldl (fun s l => s.setFull g l.2 false) s else s)

/-- Lanes of a store at a scratchpad, in ascending order (R169, R177); a granule that they write whole
together is no longer poisoned (R353). -/
def State.spadStore (s : State) (m : MemDesc) (g : Nat) (ls : List (PLane × Nat)) : Perf × State :=
  let s := ls.foldl (fun s l =>
    let s := s.modGroup g (fun k => k.spadWrite l.2 (dataBytes l.1.ops m.size))
    if m.o.fec then s.setFull g l.2 true else s) s
  let covers (i : Nat) : Bool := ls.any (fun l => decide (l.2 ≤ i) && decide (i < l.2 + m.size))
  let whole (gr : Nat) : Bool := (List.range 16).all (fun i => covers (16 * gr + i))
  let s := s.modGroup g (fun k => { k with bad := k.bad.filter (fun gr => !whole gr) })
  ({ noPerf with lanes := ls.map (fun l => ansLane l.1.vid []) }, s)

/-- One lane of an atomic at a scratchpad (R181 to R184). -/
def State.spadAtomic (s : State) (m : MemDesc) (g : Nat) (l : PLane × Nat) : Perf × State :=
  let k := s.group g
  if k.poisoned l.2 m.size then
    if m.gives = 0 then (onePerf (ansLane l.1.vid []), s) else (poisonPerf (spadAddr l.2), s)
  else
    let old := k.spadNum l.2 m.size
    let (v, fl) := m.kind.update old l.1.ops
    let s := match v with
      | some v => s.setGroup g (k.spadWrite l.2 (leBytes m.size v))
      | none => s
    ({ onePerf (ansLane l.1.vid (if m.gives = 0 then [] else valWords m.size old)) with flags := fl }, s)

/-- Lanes one after another. -/
def State.eachLane {α : Type} (f : State → α → Perf × State) : State → List α → Perf × State
  | s, [] => (noPerf, s)
  | s, l :: ls =>
    let (p, s) := f s l
    let (q, s) := State.eachLane f s ls
    (p.add q, s)

/-- A request at a scratchpad. -/
def State.performSpad (s : State) (m : MemDesc) (g : Nat) (ls : List (PLane × Nat)) : Perf × State :=
  match m.kind with
  | .load _ => s.spadLoad m g ls
  | .store => s.spadStore m g ls
  | .fe b => ({ noPerf with lanes := ls.map (fun l => ansLane l.1.vid []) },
      ls.foldl (fun s l => s.setFull g l.2 b) s)
  | _ => State.eachLane (fun s l => s.spadAtomic m g l) s ls

/-! ### Virtual memory -/

/-- One lane of a load of virtual memory; `direct` for a Welt unit, which has no cache (R174). -/
def State.virtLoad (s : State) (w : Who) (m : MemDesc) (direct : Bool) (l : PLane × Nat) : Perf × State :=
  let (vid, va) := (l.1.vid, l.2)
  let sx : Bool := match m.kind with
    | .load b => b
    | _ => false
  let (got, s) : Got × State :=
    if m.form = .const then s.pathRead w false va m.size
    else if l.1.ops.getLastD 0 == 1 then s.txLoad w vid va m.size
    else if direct then
      match s.atHomeDo w va 0 (fun b => (([] : Tbl Byte), (b.drop (va % 128)).take m.size)) with
      | (.error e, s) => (.fault e.1 e.2, s)
      | (.ok none, s) => (.poison, s)
      | (.ok (some b), s) => (.data b, s)
    else s.loadVirt w va m.size
  match got with
  | .data b => (onePerf (ansLane vid (loadWords sx b)), s)
  | .fault k lv => (onePerf (ansFault vid k lv l.1.addr 0), s)
  | .poison => (poisonPerf va, s)

/-- The bytes that the lanes of a store write in a sector, the highest lane's last (R169). -/
def storeBytes (m : MemDesc) (ls : List (PLane × Nat)) : Tbl Byte :=
  ls.foldl (fun t l => overlay t (bytesAt (l.2 % 128) (dataBytes l.1.ops m.size))) []

/-- The lanes of a store that fall in one sector, written together (R169, R353). -/
def State.virtStore1 (s : State) (w : Who) (m : MemDesc) (direct : Bool) (ls : List (PLane × Nat)) :
    Perf × State :=
  match ls with
  | [] => (noPerf, s)
  | l :: _ =>
    let bytes := storeBytes m ls
    let (r, s) : Option (MemKind × Nat) × State :=
      if direct then
        match s.atHomeDo w l.2 1 (fun _ => (bytes, ())) with
        | (.error e, s) => (some e, s)
        | (.ok _, s) => (none, s)
      else s.storeVirt w l.2 bytes (m.scope false)
    ({ noPerf with lanes := ls.map (fun l => match r with
        | none => ansLane l.1.vid []
        | some e => ansFault l.1.vid e.1 e.2 l.1.addr 1) }, s)

/-- The lanes of a store, sector by sector; transactional ones on their own (R187). -/
def State.virtStore (s : State) (w : Who) (m : MemDesc) (direct : Bool) (ls : List (PLane × Nat)) :
    Perf × State :=
  let isTx (l : PLane × Nat) : Bool := l.1.ops.getLastD 0 == 1 && !direct
  let tx := ls.filter isTx
  let plain := ls.filter (fun l => !isTx l)
  let secs := (plain.map (fun l => l.2 / 128)).eraseDups
  let (p, s) := State.eachLane (fun s sec => s.virtStore1 w m direct (plain.filter (fun l => l.2 / 128 == sec))) s secs
  let s := tx.foldl (fun s l => s.txStore w l.1.vid l.2 (dataBytes l.1.ops m.size)) s
  (p.add { noPerf with lanes := tx.map (fun l => ansLane l.1.vid []) }, s)

/-- One lane of an atomic at its home (R181 to R184). -/
def State.virtAtomic (s : State) (w : Who) (m : MemDesc) (l : PLane × Nat) : Perf × State :=
  let off := l.2 % 128
  let f (b : List Byte) : Tbl Byte × (Nat × Flags) :=
    let old := leNat ((b.drop off).take m.size)
    let (v, fl) := m.kind.update old l.1.ops
    ((match v with
      | some v => bytesAt off (leBytes m.size v)
      | none => []), (old, fl))
  match s.atHomeDo w l.2 2 f with
  | (.error e, s) => (onePerf (ansFault l.1.vid e.1 e.2 l.1.addr 2), s)
  | (.ok none, s) => (if m.gives = 0 then onePerf (ansLane l.1.vid []) else poisonPerf l.2, s)
  | (.ok (some r), s) =>
    ({ onePerf (ansLane l.1.vid (if m.gives = 0 then [] else valWords m.size r.1)) with flags := r.2 }, s)

/-- A request to virtual memory. -/
def State.performVirt (s : State) (w : Who) (m : MemDesc) (direct : Bool) (ls : List (PLane × Nat)) :
    Perf × State :=
  match m.kind with
  | .load _ => State.eachLane (fun s l => s.virtLoad w m direct l) s ls
  | .store => s.virtStore w m direct ls
  | .fe _ => (noPerf, s)
  | _ => State.eachLane (fun s l => s.virtAtomic w m l) s ls

/-! ### A request of any kind -/

/-- What the core finds of lanes it keeps (R167, R187, R328): NONCANON, BOUND or NOHOME, or an access of
an aborted lane, which is not made. -/
def State.coreLane (s : State) (t : Team) (m : MemDesc) (l : PLane) : Perf × State :=
  let mark := l.ops.getLastD 0
  let none_ : Perf := onePerf (ansLane l.vid (List.replicate m.gives 0))
  if mark == 2 then (none_, s)
  else
    let k : MemKind := match s.memSpace t.group m l.addr with
      | .bad k => k
      | _ => .nohome
    if mark == 1 then (none_, s.abortLane t.ctx l.vid .fault)
    else (onePerf (ansFault l.vid k 7 l.addr m.kind.acc), s)

/-- Lanes with a scratchpad offset in the scratchpad of one group. -/
def State.spadLanes (s : State) (g : Nat) (m : MemDesc) (ls : List PLane) : List (Nat × PLane × Nat) :=
  ls.filterMap (fun l => match s.memSpace g m l.addr with
    | .spad h off => some (h, l, off)
    | _ => none)

/-- Lanes with an address of virtual memory. -/
def State.virtLanes (s : State) (g : Nat) (m : MemDesc) (ls : List PLane) : List (PLane × Nat) :=
  ls.filterMap (fun l => match s.memSpace g m l.addr with
    | .virt va => some (l, va)
    | _ => none)

/-- The lanes of a request are performed (R174, R184), `direct` by a Welt unit. -/
def State.performLanes (s : State) (t : Team) (w : Who) (m : MemDesc) (direct : Bool) (ls : List PLane) :
    Perf × State :=
  let sp := s.spadLanes t.group m ls
  let virt := s.virtLanes t.group m ls
  let gs := (sp.map (fun x => x.1)).eraseDups
  let (p, s) := State.eachLane (fun s g =>
    s.performSpad m g ((sp.filter (fun x => x.1 == g)).map (fun x => x.2))) s gs
  let (q, s) := s.performVirt w m direct virt
  (p.add q, s)

/-- The cache actions of a synchronising access (R263, R268): a release before it, an acquire with it. On a window a
scope wider than CLUSTER acts as CLUSTER (R179). -/
def State.syncBefore (s : State) (m : MemDesc) (core : Nat) (window : Bool) : State :=
  let sc := m.scope window
  let s := if m.releases then s.releaseL1 core sc else s
  if m.acquires then s.acquireL1 core sc else s

/-- Regions of a synchronising access's lanes close and open, at one stamp for the parts of an instruction (R273). -/
def State.syncAfter (s : State) (t : Team) (m : MemDesc) (i : PInst) (pk : Packet) (ls : List PLane) : State :=
  if !(m.acquires || m.releases) then s
  else
    let vids := if pk.uniform then pk.runs t else ls.map (fun l => l.vid)
    let go (s : State) (now : Nat) : State := s.syncAt now t.ctx i vids m.releases m.acquires
    match pk.region with
    | some now => go s now
    | none =>
      let (now, s) := s.fresh
      go (s.modTeam t.ctx (fun t => t.modPk pk.seq (fun p => { p with region := some now }))) now

/-- The accesses of a lane, for race detection (R273). -/
def State.laneAccs (s : State) (t : Team) (m : MemDesc) (l1 : Option Nat) (l : PLane) : List RAcc :=
  if l.ops.getLastD 0 != 0 && l1.isSome then []
  else match s.memSpace t.group m l.addr with
    | .spad h off => [spadAcc h off m.size m.kind.reads m.kind.writes]
    | .virt va => s.virtAccs (s.vdOf t) va m.size l1 m.kind.reads m.kind.writes
    | _ => []

/-- The race check of a memory instruction over all its lanes (R267, R274): none where it races. -/
def State.memRace (s : State) (t : Team) (m : MemDesc) (i : PInst) (pk : Packet) (ls : List PLane) :
    Option (Bool × State) :=
  if !m.plain then some (false, s)
  else
    let l1 : Option Nat := match i with
      | .core => some (s.coreOf t)
      | _ => none
    let accs := if pk.uniform then
        let a := ls.flatMap (s.laneAccs t m l1)
        (pk.runs t).map (fun v => (v, a))
      else ls.map (fun l => (l.vid, s.laneAccs t m l1 l))
    s.raceCheck t.ctx i pk.seq accs

end Sys2Proof.Machine
end

