-- ==== Sys2Proof/Machine/Place.lean ====
section
/-! DEFINITION. The place instructions (02 R43 to R47, R53 to R56; 07 R202 to R206). -/

namespace Sys2Proof.Machine

/-- Registers of a launched team at a kind of place. -/
def Family.held (m : Family) (k : PKind) : List Nat :=
  (m.map.filter (fun e => e.2.kind == k)).map (fun e => e.2.index.toNat)

/-- The map entry of a register changes. -/
def State.setPlace (s : State) (f : Nat) (r : Reg) (e : PlaceEnt) : State :=
  s.modFam f (fun m => { m with map := Tbl.set m.map r.toNat e })

/-- A value of a uniform register that no sibling shares. -/
def State.setCell (s : State) (f key : Nat) (v : Word) : State :=
  s.modFam f (fun m => { m with cells := Tbl.set m.cells key { val := v, log := [] } })

/-- The value of a uniform register is gone. -/
def State.delCell (s : State) (f key : Nat) : State :=
  s.modFam f (fun m => { m with cells := Tbl.del m.cells key })

/-- A register of every present lane. -/
def State.setLanesReg (s : State) (ctx : Nat) (r : Reg) (v : Word) : State :=
  s.modTeam ctx (fun t => t.mapLanes (fun l => { l with regs := Tbl.set l.regs r.toNat v }))

/-- A register of every present lane is released. -/
def State.delLanesReg (s : State) (ctx : Nat) (r : Reg) : State :=
  s.modTeam ctx (fun t => t.mapLanes (fun l => { l with regs := Tbl.del l.regs r.toNat }))

/-- The address operand of `decl` and `redecl` (R202). -/
def bindAddr (o : FMem) (base : DWord) : DWord := base + o.off.signExtend 64

/-- The stack and channel of an address that a register may be bound to (R45). -/
def State.bindHome (s : State) (t : Team) (a : DWord) : Option (Nat × Nat) × State :=
  if (a >>> 56) != 0 then (none, s)
  else s.homeOf (s.vdOf t) (dieOf (s.coreOf t)) a.toNat

/-- The team holds an open all-bank session on a pseudo-channel (R202, R251). -/
def State.holdsSession (s : State) (t : Team) (ch : Nat) : Bool :=
  (s.fam t.fam).session == some ch && (match (s.chan ch).session with
    | some x => x.fam == t.fam && x.st == .active
    | none => false)

/-- Where a `decl` or `redecl` puts its register: kind, home, address, and PLACE by the address. -/
def State.declTarget (s : State) (t : Team) (k : DKind) (o : FMem) : Option (Loc × DWord) × State :=
  match k with
  | .lane => (some (.lane, 0), s)
  | .team => (some (.team, 0), s)
  | .mem | .bank =>
    let (b, s) := s.readPair t o.base
    let a := bindAddr o b
    match s.bindHome t a with
    | (none, s) => (none, s)
    | (some (stack, ch), s) =>
      if k = .mem then (some (.mem stack, a), s)
      else if s.holdsSession t (64 * stack + ch) then (some (.bank (64 * stack + ch), a), s)
      else (none, s)

/-- A budget is full (R55, R56). -/
def State.placeFull (s : State) (t : Team) (l : Loc) : Bool :=
  let m := s.fam t.fam
  match l with
  | .lane => decide ((s.launchOf t).lmax ≤ (m.held .lane).length)
  | .team => decide ((s.launchOf t).tregs ≤ (m.held .team).length)
  | .bank _ => decide (8 ≤ (m.held .bank).length)
  | _ => false

/-- A new map entry; the row at LANE or TEAM is open (log entry 16). -/
def State.newEntry (s : State) (t : Team) (l : Loc) (a : DWord) (pend : Bool) : PlaceEnt × State :=
  let m := s.fam t.fam
  match l with
  | .lane =>
    let (r, s) := s.pickRow (m.held .lane) (s.launchOf t).lmax
    ({ kind := .lane, pend := pend, index := BitVec.ofNat 10 r, bound := 0 }, s)
  | .team =>
    let (r, s) := s.pickRow (m.held .team) (s.launchOf t).tregs
    ({ kind := .team, pend := pend, index := BitVec.ofNat 10 r, bound := 0 }, s)
  | .mem w => ({ kind := .mem, pend := pend, index := BitVec.ofNat 10 w, bound := a }, s)
  | .bank ch => ({ kind := .bank, pend := pend, index := BitVec.ofNat 10 ch, bound := a }, s)
  | _ => (noPlace, s)

/-- The checks of `decl`, `redecl` and `undecl` before any address is read (R51, R202 to R206);
`old` is the entry of the register. -/
def State.declCause (s : State) (t : Team) (base : List (Reg × Nat)) (q : Nat) (bad : List (Bool × Cause)) :
    Option Cause :=
  firstCause
    ([(s.anyNone t base, .undecl), (t.anyPend base || t.predPend true q, .unwaited),
      (t.divOpen || s.anyApart t base || base.any (fun r => (s.locOf t r.1).remote), .place)] ++ bad ++
     [(base.any (fun r => s.locOf t r.1 == .lane), .shape)])

/-- The registers of an address operand, where the kind has one. -/
def declBase (k : DKind) (o : FMem) : List (Reg × Nat) :=
  match k with
  | .mem | .bank => [(o.base, 2)]
  | _ => []

/-- A place instruction is sent to Welt unit or awl units `x`, with its predicate and a value that it carries (R57,
R109); `fs` are the values to be fetched for it from other units, and `now` its effect at the core as it issues. -/
def State.sendPlace (s : State) (t : Team) (i : Instr) (x : PInst) (on : Bool) (carried : List DWord) (fs : List Fetch)
    (now : State → State) : State :=
  if t.full .pl then s.stallAt t.ctx .pl
  else
    let lane := pLane 0 (boolOp on :: carried) 0
    let target : Target := match x with
      | .awl ch => .awl ch
      | .welt w => .welt w
      | .core => .core (s.coreOf t)
    (now s).issuePacket t.ctx 1 (t.packet i x .pl true [lane] fs) [] []
      ({ target := target, op := .exec, lanes := [lane] } :: fetchSends fs)

/-- A place instruction whose predicate does not hold: it is sent where it is bound for MEM or BANK, and has no
effect anywhere (R109). -/
def State.placeOff (s : State) (t : Team) (i : Instr) (l : Loc) : State :=
  match l with
  | .mem w => s.sendPlace t i (.welt w) false [] [] id
  | .bank ch => s.sendPlace t i (.awl ch) false [] [] id
  | _ => s.advance t.ctx 1

/-- A `decl` takes effect (R202). -/
def State.declare (s : State) (t : Team) (i : Instr) (o : FMem) (l : Loc) (a : DWord) : State :=
  let here (s : State) : State :=
    let (e, s) := s.newEntry t l a false
    s.setPlace t.fam o.data e
  match l with
  | .lane => ((here s).setLanesReg t.ctx o.data 0).advance t.ctx 1
  | .team => ((here s).setCell t.fam o.data.toNat 0).advance t.ctx 1
  | .mem w => s.sendPlace t i (.welt w) true [] [] here
  | .bank ch => s.sendPlace t i (.awl ch) true [] [] here
  | _ => s

/-- DECL (R202). -/
def execDecl (k : DKind) (o : FMem) (s : State) : Host.Outcome State Fault Refusal :=
  .next (s.byTeam (.decl k o) (fun s t =>
    let old := (s.place t o.data).kind
    match s.declCause t (declBase k o) o.p.num.toNat [(old != .none, .place)] with
    | some c => s.takeTrap t.ctx 1 (plainTrap c)
    | none =>
      match s.declTarget t k o with
      | (none, s) => s.takeTrap t.ctx 1 (plainTrap .place)
      | (some (l, a), s) =>
        if s.placeFull t l then s.takeTrap t.ctx 1 (plainTrap .placefull)
        else s.guarded t 1 [] o.p (fun s => s.placeOff t (.decl k o) l) (fun s => s.declare t (.decl k o) o l a)))

/-- A move between places (R53). -/
def State.moveReg (s : State) (t : Team) (i : Instr) (o : FMem) (from_ to_ : Loc) (a : DWord) : State :=
  let r := o.data
  let entry (s : State) (pend : Bool) : State :=
    let (e, s) := s.newEntry t to_ a pend
    s.setPlace t.fam r e
  let fetch (w : Nat) : Fetch := { op := 0, reg := r, welt := w, val := none }
  match from_, to_ with
  | .team, .lane =>
    let (v, s) := s.readOne t r
    (((entry s false).delCell t.fam r.toNat).setLanesReg t.ctx r v).advance t.ctx 1
  | .team, .mem w =>
    let (v, s) := s.readOne t r
    s.sendPlace t i (.welt w) true [v.setWidth 64] [] (fun s => (entry s true).delCell t.fam r.toNat)
  | .mem w, .mem w' =>
    s.sendPlace t i (.welt w') true [] (if w = w' then [] else [fetch w]) (fun s => entry s true)
  | .mem w, _ =>
    if t.full .pl then s.stallAt t.ctx .pl
    else
      let fs := [fetch w]
      (entry s true).issuePacket t.ctx 1 (t.packet i .core .pl true [pLane 0 [] 0] fs) [r.toNat] []
        (fetchSends fs)
  | _, _ => s.advance t.ctx 1

/-- The register already lives where a `redecl` would put it (R53). -/
def State.sameBinding (s : State) (t : Team) (r : Reg) (l : Loc) (a : DWord) : Bool :=
  let e := s.place t r
  match l with
  | .mem w => e.loc == .mem w && e.bound == a
  | l => e.loc == l

/-- REDECL (R203, R53). An address that cannot be bound is PLACE before a move out of LANE is SHAPE (R51); where the
address itself lies at LANE there is none, and that is SHAPE. -/
def execRedecl (k : DKind) (o : FMem) (s : State) : Host.Outcome State Fault Refusal :=
  .next (s.byTeam (.redecl k o) (fun s t =>
    let old := (s.place t o.data).kind
    match s.declCause t ((o.data, 1) :: declBase k o) o.p.num.toNat [] with
    | some .undecl => s.takeTrap t.ctx 1 (plainTrap .undecl)
    | some .unwaited => s.takeTrap t.ctx 1 (plainTrap .unwaited)
    | _ =>
      let base := declBase k o
      let place := t.divOpen || old == .bank || k == .bank || s.anyApart t base ||
        base.any (fun r => (s.locOf t r.1).remote)
      if place then s.takeTrap t.ctx 1 (plainTrap .place)
      else if base.any (fun r => s.locOf t r.1 == .lane) then s.takeTrap t.ctx 1 (plainTrap .shape)
      else match s.declTarget t k o with
        | (none, s) => s.takeTrap t.ctx 1 (plainTrap .place)
        | (some (l, a), s) =>
          if old == .lane && k != .lane then s.takeTrap t.ctx 1 (plainTrap .shape)
          else
            let same := s.sameBinding t o.data l a
            let from_ := (s.place t o.data).loc
            if !same && from_ != l && s.placeFull t l then s.takeTrap t.ctx 1 (plainTrap .placefull)
            else s.guarded t 1 [] o.p
                (fun s => if same then s.advance t.ctx 1 else s.placeOff t (.redecl k o) l) (fun s =>
              if same then s.advance t.ctx 1 else s.moveReg t (.redecl k o) o from_ l a)))

/-- A register returns to NONE (R47). -/
def State.release (s : State) (t : Team) (i : Instr) (r : Reg) : State :=
  let gone (s : State) : State := s.setPlace t.fam r noPlace
  match (s.place t r).loc with
  | .lane => ((gone s).delLanesReg t.ctx r).advance t.ctx 1
  | .team => ((gone s).delCell t.fam r.toNat).advance t.ctx 1
  | .mem w => s.sendPlace t i (.welt w) true [] [] gone
  | .bank ch => s.sendPlace t i (.awl ch) true [] [] gone
  | _ => s

/-- UNDECL (R204). -/
def execUndecl (o : F3) (s : State) : Host.Outcome State Fault Refusal :=
  .next (s.byTeam (.undecl o) (fun s t =>
    match firstCause
      [(s.anyNone t [(o.d, 1)], .undecl),
       (t.anyPend [(o.d, 1)] || t.predPend true o.p.num.toNat, .unwaited), (t.divOpen, .place)] with
    | some c => s.takeTrap t.ctx 1 (plainTrap c)
    | none => s.guarded t 1 [] o.p (fun s => s.placeOff t (.undecl o) (s.place t o.d).loc)
        (fun s => s.release t (.undecl o) o.d)))

/-- KIND codes (R43). -/
def PKind.code : PKind → Nat
  | .none => 0
  | .lane => 1
  | .team => 2
  | .mem => 3
  | .bank => 4

/-- The 16 bits of a map entry (R43). -/
def PlaceEnt.bits (e : PlaceEnt) : Nat :=
  if e.kind = .none then 0
  else e.kind.code * 2 ^ 12 + (if e.pend then 2 ^ 11 else 0) + e.index.toNat

/-- PLACEQ (R205). -/
def execPlaceq (o : F3) (s : State) : Host.Outcome State Fault Refusal :=
  .next (s.byTeam (.placeq o) (fun s t =>
    s.writeThen t (constDesc o.p o.d 1 (BitVec.ofNat 64 (s.place t o.a).bits)) (fun t => t)))

/-! ### At the Welt unit and at the core (R52, R53) -/

/-- A packet that moves register `r`. -/
def Packet.moves (p : Packet) (r : Reg) : Bool :=
  match p.instr with
  | .redecl _ o => o.data == r
  | _ => false

/-- The value has reached its new place: PEND ends (R43), unless the team has sent the register further since. -/
def State.arrived (s : State) (t : Team) (seq : BitVec 16) (r : Reg) : State :=
  let newer := ((t.replay.dropWhile (fun p => p.seq != seq)).drop 1).any (fun p => p.moves r && !p.complete)
  if newer then s
  else s.modFam t.fam (fun m => { m with map := m.map.map (fun e =>
    if e.1 = r.toNat then (e.1, { e.2 with pend := false }) else e) })

/-- A place instruction is carried out at Welt unit `w`; a value that moves from another Welt unit has left it when it
was fetched. -/
def State.placeAtWelt (s : State) (t : Team) (w : Nat) (pk : Packet) : State :=
  let ops := pk.lanes.head?.elim [] (fun l => l.ops)
  if opAt ops 0 == 0 then s
  else match pk.instr with
    | .decl _ o => s.setCell t.fam (memKey w o.data.toNat) 0
    | .undecl o => s.delCell t.fam (memKey w o.d.toNat)
    | .redecl _ o =>
      let key := memKey w o.data.toNat
      let s := match ops[1]?, pk.fetches.head?.bind (fun x => x.val) with
        | some v, _ => s.setCell t.fam key (v.setWidth 32)
        | none, some v => s.setCell t.fam key v
        | none, none => s
      s.arrived t pk.seq o.data
    | _ => s

/-- A register that moves to the core has its value (R53). -/
def State.finishMove (s : State) (ctx : Nat) (r : Reg) (pk : Packet) : State :=
  match s.team? ctx, pk.fetches.head? with
  | some t, some x =>
    let v := x.val.getD 0
    let s := match (s.place t r).loc with
      | .lane => s.setLanesReg ctx r v
      | _ => s.setCell t.fam r.toNat v
    (s.arrived t pk.seq r).modTeam ctx (fun t => t.unpend pk.path [r.toNat] [])
  | _, _ => s

end Sys2Proof.Machine
end

