-- ==== Sys2Proof/Machine/Sync.lean ====
section
/-! DEFINITION. Fences, paths and barriers (07 R193 to R201; 10 R263, R268). -/

namespace Sys2Proof.Machine

/-- Virtual ids of the lanes that run. -/
def Team.vids (t : Team) : List Nat := t.current.map (fun l => l.vid)

/-- FENCE (R193). -/
def execFence (o : FMem) (s : State) : Host.Outcome State Fault Refusal :=
  .next (s.unlessHeld (fun s => s.byTeam (.fence o) (fun s t =>
    s.guarded t 1 [] o.p (fun s => s.advance t.ctx 1) (fun s =>
      let rel := o.ord != .acq
      if t.out .ld != 0 || (rel && t.out .st != 0) then s.waitAt t.ctx
      else
        let c := s.coreOf t
        let s := if rel then s.releaseL1 c o.scope else s
        let s := if o.ord != .rel then s.acquireL1 c o.scope else s
        (s.syncRegions t.ctx .core t.vids rel (o.ord != .rel)).advance t.ctx 1))))

/-- The cores of a team's instance of a scope that hold a grant of its VD (R194). -/
def State.coresIn (s : State) (t : Team) (sc : Scope) : List Nat :=
  let c := s.coreOf t
  let v := s.vdOf t
  match sc with
  | .team | .group => [c]
  | _ =>
    let all := ((s.groups.filter (fun e => e.2.vd == v && !e.2.ended && !s.isSaved e.1)).map
      (fun e => e.2.core)).eraseDups
    if sc = .cluster then all.filter (fun k => dieOf k == dieOf c) else all

/-- PATHF (R194). -/
def execPathf (p : PathSel) (o : FMem) (s : State) : Host.Outcome State Fault Refusal :=
  .next (s.unlessHeld (fun s => s.byTeam (.pathf p o) (fun s t =>
    s.guarded t 1 [] o.p (fun s => s.advance t.ctx 1) (fun s =>
      if t.out .ld != 0 || t.out .st != 0 then s.waitAt t.ctx
      else
        let s := s.releaseL1 (s.coreOf t) o.scope
        let s := (s.coresIn t o.scope).foldl (fun s c => s.modCore c (fun k =>
          { k with const := if p == .tile then k.const else [],
                   tile := if p == .const then k.tile else [] })) s
        s.advance t.ctx 1))))

/-- PLACEF (R195). -/
def execPlacef (o : F3) (s : State) : Host.Outcome State Fault Refusal :=
  .next (s.byTeam (.placef o) (fun s t =>
    s.guarded t 1 [] o.p (fun s => s.advance t.ctx 1) (fun s =>
      if !t.drained then s.waitAt t.ctx else (s.orderAll t.ctx).advance t.ctx 1)))

/-! ### Barrier objects -/

/-- The offset that names a barrier object (R175, R196). -/
def barOffset (o : FMem) (base : Word) : Nat := (base + o.off.signExtend 32).toNat

/-- Such a fault of a uniform request. -/
def State.coreFault (s : State) (t : Team) (k : MemKind) (va : Nat) (acc : Nat) : State :=
  s.coreFaultRec t { s.teamRecord t 0 with kind := k.code, va := va, acc := acc, fsum := 1 }

/-- A barrier instruction: its checks (R51, R196), then what it does with the object's offset. -/
def State.barrierOp (s : State) (i : Instr) (o : FMem) (rs : List (Reg × Nat)) (dp : List Nat)
    (f : State → Team → Nat → State) : State :=
  s.byTeam i (fun s t =>
    if dp.any (fun q => t.predPend true q) && (s.teamRegsCause t rs 0).isNone then
      s.takeTrap t.ctx 1 (plainTrap .unwaited)
    else match s.teamRegsCause t ((o.base, 1) :: rs) o.p.num.toNat with
    | some c => s.takeTrap t.ctx 1 (plainTrap c)
    | none =>
      let (b, s) := s.readOne t o.base
      let off := barOffset o b
      if off % 16 != 0 then
        s.takeTrap t.ctx 1 { cause := .align, addr := BitVec.ofNat 64 off, code := 0 }
      else f s t off)

/-- The object's offset lies beyond the allocation. -/
def State.barOut (s : State) (t : Team) (off : Nat) : Bool :=
  decide ((s.group t.group).spadLen < off + 16)

/-- BARINIT (R197). -/
def execBarinit (o : FMem) (s : State) : Host.Outcome State Fault Refusal :=
  .next (s.barrierOp (.barinit o) o [(o.data, 1)] [] (fun s t off =>
    let (e, s) := s.readOne t o.data
    let expect := bitsAt e.toNat 0 12
    let g := s.group t.group
    if expect != 0 && !g.registry.contains off && decide (64 ≤ g.registry.length) then
      s.takeTrap t.ctx 1 (plainTrap .illegal)
    else s.guarded t 1 [] o.p (fun s => s.advance t.ctx 1) (fun s =>
      if s.barOut t off then s.coreFault t .bound (spadAddr off) 1
      else
        let obj : BarObj := { gen := 0, expect := expect, pend := expect, abandoned := false,
                              inited := expect != 0, inb := 0, outb := 0 }
        let g := { g with registry := if expect = 0 then g.registry.filter (fun x => x != off)
                                      else insertNat off g.registry }
        ((s.setGroup t.group (g.setBarrier off obj)).showBar t.group off).advance t.ctx 1)))

/-- An arrival at an object (R198). -/
def arriveObj (inb outb : Nat) (o : BarObj) : BarObj :=
  { o with pend := o.pend - 1, inb := (o.inb + inb) % 2 ^ 48, outb := (o.outb + outb) % 2 ^ 48 }

/-- The `arrive` forms (R198). -/
def State.arriveForm (s : State) (i : Instr) (o : FMem) (rs : List (Reg × Nat)) (inb outb : Bool) : State :=
  s.barrierOp i o rs [] (fun s t off =>
    let (on, s) := s.qPred t o.p
    let (n, s) : Word × State := if rs.isEmpty then (0, s) else s.readOne t o.data
    let obj := (s.group t.group).barrier off
    if s.barOut t off then
      if on then s.coreFault t .bound (spadAddr off) 2 else s.advance t.ctx 1
    else if on && (t.out .ld != 0 || t.out .st != 0) then s.waitAt t.ctx
    else if !obj.inited then s.takeTrap t.ctx 1 (plainTrap .illegal)
    else if !on then s.advance t.ctx 1
    else if obj.pend = 0 then s.waitAt t.ctx
    else
      let s := s.updBarrier t.group off (arriveObj (if inb then n.toNat else 0) (if outb then n.toNat else 0))
      (s.syncRegions t.ctx .core t.vids true false).advance t.ctx 1)

/-- An engine's `arrive` (R238): it waits until the outstanding count is zero; beyond the allocation it parks its program
with BOUND (R240). -/
def State.engineArrive (s : State) (i : Instr) (o : FMem) (dat inb outb : Bool) (team : State) : State :=
  match s.turn with
  | .engine g k =>
    let e := s.engine g k
    if !engineMay k (opcOf i) || !engReg o.base 1 || (dat && !engReg o.data 1) || !engPred true o.p.num.toNat then
      s.engineStop g k
    else
      let off := barOffset o ((e.val o.base 1).setWidth 32)
      let n := if dat then (e.val o.data 1).toNat else 0
      let obj := (s.group g).barrier off
      if off % 16 != 0 then s.engineStop g k
      else if (s.group g).spadLen < off + 16 then
        if e.pred o.p then
          s.parkEngine g k { s.engineHere g k false with kind := MemKind.bound.code, va := spadAddr off, acc := 2 }
        else s.setEngine g k (e.advance 1)
      else if !obj.inited then s.engineStop g k
      else if !e.pred o.p then s.setEngine g k (e.advance 1)
      else if e.out != 0 || obj.pend = 0 then s
      else
        let s := s.updBarrier g off (arriveObj (if inb then n else 0) (if outb then n else 0))
        s.setEngine g k (e.advance 1)
  | _ => team

/-- ARRIVE (R198, R238). -/
def execArrive (o : FMem) (s : State) : Host.Outcome State Fault Refusal :=
  .next (s.engineArrive (.arrive o) o false false false (s.arriveForm (.arrive o) o [] false false))

/-- ARRIVE_INB (R198, R238). -/
def execArriveInb (o : FMem) (s : State) : Host.Outcome State Fault Refusal :=
  .next (s.engineArrive (.arriveInb o) o true true false (s.arriveForm (.arriveInb o) o [(o.data, 1)] true false))

/-- ARRIVE_OUTB (R198, R238). -/
def execArriveOutb (o : FMem) (s : State) : Host.Outcome State Fault Refusal :=
  .next (s.engineArrive (.arriveOutb o) o true false true
    (s.arriveForm (.arriveOutb o) o [(o.data, 1)] false true))

/-- A team at a `barwait` whose phase is not there parks until the object is seen with the phase or abandoned, or its
path of a fallback gives way (R21, R199). -/
def State.parkBar (s : State) (t : Team) (b : BarWait) : State :=
  let t := { t with bar := some b }
  if t.inFallback then s.giveWay t.alternate else s.stand { t with parked := .barwait }

/-- The wait of a `barwait` is over (R199): its predicate says whether the object was abandoned, and it acquires. -/
def State.barDone (s : State) (t : Team) (q : Nat) (abandoned : Bool) : State :=
  ((s.writeQ t.fam t.ctx q abandoned).syncRegions t.ctx .core t.vids false true).advance t.ctx 1

/-- A `barwait` that comes to its object, or that awaits it already (R199). -/
def State.barwaitAt (s : State) (t : Team) (q off : Nat) (ph1 : Bool) : State :=
  let obj := (s.group t.group).barrier off
  match t.bar with
  | some b => (match b.met with
    | some ab => s.barDone t q ab
    | none => s.parkBar t b)
  | none => if obj.phaseMet ph1 then s.barDone t q obj.abandoned
      else s.parkBar t { off := off, ph1 := ph1, met := none }

/-- BARWAIT (R199). One that waits goes on waiting whatever `barinit` makes of the object (R197). -/
def execBarwait (ph1 : Bool) (o : FMem) (s : State) : Host.Outcome State Fault Refusal :=
  let q := pcodeNum o.data
  .next (s.barrierOp (.barwait ph1 o) o [] [q] (fun s t off =>
    let (on, s) := s.qPred t o.p
    if t.bar.isSome then s.barwaitAt t q off ph1
    else if s.barOut t off then
      if on then s.coreFault t .bound (spadAddr off) 0 else s.advance t.ctx 1
    else if !((s.group t.group).barrier off).inited then s.takeTrap t.ctx 1 (plainTrap .illegal)
    else if !on then s.advance t.ctx 1
    else s.barwaitAt t q off ph1))

/-- BWATCH (R200). -/
def execBwatch (slot : BitVec 3) (o : FMem) (s : State) : Host.Outcome State Fault Refusal :=
  .next (s.barrierOp (.bwatch slot o) o [] [] (fun s t off =>
    s.guarded t 1 [] o.p (fun s => s.advance t.ctx 1) (fun s =>
      if s.barOut t off then s.coreFault t .bound (spadAddr off) 0
      else (s.modTeam t.ctx (fun t =>
        { t with watch := t.watch.set slot.toNat (some off) })).advance t.ctx 1)))

end Sys2Proof.Machine
end

