-- ==== Sys2Proof/Machine/Awl.lean ====
section
/-! DEFINITION. All-bank sessions and the awl instructions (09 R250 to R253): issue, their execution at
the Welt unit and at the awl units of a pseudo-channel, and the states of a session. -/

namespace Sys2Proof.Machine

/-! ### The end of a session -/

/-- A session leaves its pseudo-channel: BANK registers of its holder become NONE, leave lapses, held
requests proceed (R251). `code` is the status that a later `.off` returns, where the session was
aborted. -/
def State.endSession (s : State) (ch : Nat) (code : Option Nat) : State :=
  match (s.chan ch).session with
  | none => s
  | some x =>
    let s := s.setChan ch { s.chan ch with session := none }
    let s := s.dropLeave (fun w => w == .session ch)
    s.modFam x.fam (fun m => { m with
      session := none, abort := code, banks := [], bankBad := []
      map := m.map.filter (fun e => e.2.kind != .bank) })

/-- The answer that an `.on` returns once its session is settled, and its record (R62, R251). -/
def State.answerOn (s : State) (ch : Nat) (status : Nat) : State :=
  match (s.chan ch).session with
  | none => s
  | some x =>
    let target := Target.welt (ch / 64)
    let lanes := [{ vid := 0, vals := [BitVec.ofNat 64 status], fault := none : AnsLane }]
    let rec_ : Record := { ctx := x.ctx, seq := x.seq, target := target, op := .exec, lanes := lanes, flags := 0 }
    { s with records := s.records ++ [rec_] }.sendBack (s.fam x.fam).group
      { ctx := x.ctx, gen := x.gen, seq := x.seq, target := target, op := .exec, lanes := lanes, flags := 0, poison := none
        stop := none, id := 0, route := [] }

/-- A session that is not wanted any more (R251): one in DRAIN or LEAVE is withdrawn, and its `.on`
returns `early`; one that is ACTIVE is aborted, and its `.off` will return `late`. -/
def State.breakSession (s : State) (ch early late : Nat) : State :=
  match (s.chan ch).session with
  | none => s
  | some x =>
    if x.st = .active then s.endSession ch (some late)
    else (s.answerOn ch early).endSession ch none

/-- Sessions of teams that have a deadline running or may get one. -/
def State.sessionOf (s : State) (f : Nat) : Option (Nat × Session) :=
  (s.fam f).session.bind (fun ch => (s.chan ch).session.map (fun x => (ch, x)))

/-- Cycles of 50 µs (R251). -/
def sessionCycles : Nat := 112500

/-- SESSION_DEADLINE (R251): 50 µs after a pre-emption request. -/
def execSessionDeadline (ch : Nat) (s : State) : Host.Outcome State Fault Refusal :=
  .next (match (s.chan ch).session with
    | some x => if x.deadline.any (fun t => decide (t + sessionCycles ≤ s.clock)) then s.breakSession ch 9 9 else s
    | none => s)

/-! ### awlmode (R250) -/

/-- The `awlmode` forms: the status register is pending where the predicate holds. -/
def State.issueAwlmode (s : State) (i : Instr) (o : FMem) : State :=
  s.byTeam i (fun s t =>
    let rs := [(o.data, 1), (o.base, 2)]
    match firstCause
      [(s.anyNone t rs, .undecl),
       (t.anyPend rs || t.predPend true o.p.num.toNat, .unwaited),
       (t.divOpen || s.anyApart t rs || rs.any (fun r => (s.locOf t r.1).remote), .place),
       (rs.any (fun r => s.locOf t r.1 == .lane), .shape)] with
    | some c => s.takeTrap t.ctx 1 (plainTrap c)
    | none =>
      let (b, s) := s.readPair t o.base
      let a := bindAddr o b
      let (on, s) := s.qPred t o.p
      let (home, s) := s.bindHome t a
      match home with
      | none =>
        if on then s.coreFault t (if (a >>> 56) != 0 then .noncanon else .nohome) a.toNat 0
        else s.advance t.ctx 1
      | some (stack, ch) =>
        let lane := pLane 0 [boolOp on, BitVec.ofNat 64 (64 * stack + ch)] a
        s.issuePacket t.ctx 1 (t.packet i (.welt stack) .pl true [lane] [])
          (if on then regNums o.data 1 else []) []
          [{ target := .welt stack, op := .exec, lanes := [lane] }])

/-- AWLMODE_ON (R250). -/
def execAwlmodeOn (cls : BitVec 4) (o : FMem) (s : State) : Host.Outcome State Fault Refusal :=
  .next (s.issueAwlmode (.awlmodeOn cls o) o)

/-- AWLMODE_OFF (R250). -/
def execAwlmodeOff (o : FMem) (s : State) : Host.Outcome State Fault Refusal :=
  .next (s.issueAwlmode (.awlmodeOff o) o)

/-- The page of an address is mapped and CLEAR (R250). -/
def State.clearPage (s : State) (v va : Nat) : Bool × State :=
  match s.walkVd v va with
  | (.ok l, s) => (l.clear, s)
  | (.error _, s) => (false, s)

/-- The status of an `.on` at the Welt unit: 0 where a session may begin. -/
def State.onStatus (s : State) (t : Team) (ch va : Nat) : Nat × State :=
  let v := s.vdOf t
  if s.chanOwner ch != some (s.vd v).domain.toNat then (1, s)
  else if (s.fam t.fam).session.isSome then (3, s)
  else if (s.chan ch).session.isSome then (2, s)
  else
    let (ok, s) := s.clearPage v va
    (if ok then 0 else 4, s)

/-- An answer with a status. -/
def statusPerf (n : Nat) : Perf := onePerf (ansLane 0 [BitVec.ofNat 64 n])

/-- `.on` at the Welt unit (R250, R251): an answer with a status other than 0, or a session in DRAIN; a
re-sent `.on` of a session not yet ACTIVE takes the new generation. -/
def State.awlOn (s : State) (t : Team) (cls : Nat) (r : Req) (ch va : Nat) : Option Perf × State :=
  match (s.chan ch).session with
  | some x =>
    if x.ctx = r.ctx ∧ x.seq = r.seq then
      (none, s.setChan ch { s.chan ch with session := some { x with gen := r.gen } })
    else
      let (n, s) := s.onStatus t ch va
      (some (statusPerf n), s)
  | none =>
    let (n, s) := s.onStatus t ch va
    if n != 0 then (some (statusPerf n), s)
    else
      let x : Session := { fam := t.fam, ctx := r.ctx, seq := r.seq, gen := r.gen, st := .drain, cls := cls,
                           macs := 0, deadline := (s.gang (s.group t.group).gang).asked, granted := false, code := 0 }
      (none, (s.setChan ch { s.chan ch with session := some x }).modFam t.fam
        (fun m => { m with session := some ch, abort := none }))

/-- `.off` at the Welt unit (R250, R251). -/
def State.awlOff (s : State) (t : Team) (ch : Nat) : Perf × State :=
  match s.sessionOf t.fam with
  | some (c, x) =>
    if c != ch then (statusPerf 8, s)
    else if x.st = .active then (statusPerf 0, s.endSession ch none)
    else (statusPerf 0, (s.answerOn ch 10).endSession ch none)
  | none =>
    match (s.fam t.fam).abort with
    | some n => (statusPerf n, s.modFam t.fam (fun m => { m with abort := none }))
    | none => (statusPerf 8, s)

/-- `awlmode` at its Welt unit. -/
def State.awlmodeAt (s : State) (t : Team) (r : Req) : Option Perf × State :=
  match r.lanes with
  | [] => (some noPerf, s)
  | l :: _ =>
    let ch := (opAt l.ops 1).toNat
    if opAt l.ops 0 == 0 then (some (onePerf (ansLane 0 [])), s)
    else match r.instr with
      | .awlmodeOn cls _ => s.awlOn t cls.toNat r ch (l.addr.toNat)
      | _ => let (p, s) := s.awlOff t ch; (some p, s)

/-! ### DRAIN (R251, R277) -/

/-- The copies of a pseudo-channel's sectors held in L1s and RDCs are recalled, dirty bytes written
back (R277). -/
def State.recallL1 (s : State) (ch : Nat) : List (Nat × Nat) → State
  | [] => s
  | (c, key) :: rest =>
    let (h, s) := s.homeOf (keyVd key) (dieOf c) (keyVa key)
    let s := if h == some (ch / 64, ch % 64) then s.flushSector c key else s
    s.recallL1 ch rest

/-- The copies of a pseudo-channel's sectors in the RDC of a die. -/
def State.recallRdc (s : State) (ch d : Nat) : List Nat → State
  | [] => s
  | key :: rest =>
    let (h, s) := s.homeOf (keyVd key) d (keyVa key)
    let s := if h == some (ch / 64, ch % 64) then
        s.setDie d { s.die d with rdc := Tbl.del (s.die d).rdc key } else s
    s.recallRdc ch d rest

/-- Every copy of a pseudo-channel is recalled, and what is dirty in its memory-side cache is written (R277). -/
def State.recallChan (s : State) (ch : Nat) : State :=
  let s := s.recallL1 ch (s.cores.flatMap (fun e => e.2.l1.map (fun x => (e.1, x.1))))
  let s := (List.range 4).foldl (fun s d => s.recallRdc ch d ((s.die d).rdc.map (fun e => e.1))) s
  (s.lowerLines (fun _ pa => decide (pa < 2 ^ 40) && 64 * paStack pa + paChan pa == ch)).resetTrips
    (fun t => 64 * t.stack + t.ch == ch)

/-- SESSION_DRAIN_DONE (R251): what was outstanding at the pseudo-channel is done, and the session asks
leave of its class. -/
def execSessionDrainDone (ch : Nat) (s : State) : Host.Outcome State Fault Refusal :=
  .next (match (s.chan ch).session with
    | some x =>
      if x.st = .drain ∧ (s.chan ch).queue.isEmpty then
        let s := s.recallChan ch
        let s := s.setChan ch { s.chan ch with session := some { x with st := .leave } }
        let v := (s.group (s.fam x.fam).group).vd
        let z := 64 + ch / 64
        let ask : Leave := { who := .session ch, vd := v, cls := (s.vd v).cls.toNat,
                             power := (Tbl.get 0 s.coolant.clspwr x.cls).toNat, time := s.clock }
        s.setZone z { s.zone z with waiting := (s.zone z).waiting ++ [ask] }
      else s
    | none => s)

/-! ### Data instructions (R253) -/

/-- The bank words of a register: 16 banks of 256 bits. -/
abbrev Banks := List (BitVec 256)

/-- A BANK register of zeros. -/
def zeroBanks : Banks := List.replicate 16 0

/-- A BANK register of a launched team; `z` reads zero. -/
def Family.bank (m : Family) (r : Reg) : Banks :=
  if r = Reg.z then zeroBanks else Tbl.get zeroBanks m.banks r.toNat

/-- A BANK register written; `z` discards. -/
def State.setBank (s : State) (f : Nat) (r : Reg) (b : Banks) : State :=
  if r = Reg.z then s else s.modFam f (fun m => { m with banks := Tbl.set m.banks r.toNat b })

/-- Word `w` of bank `k`. -/
def bankWord (b : Banks) (k w : Nat) : Word := (b.getD k 0).extractLsb' (32 * w) 32

/-- Write word `w` of bank `k`. -/
def setBankWord (b : Banks) (k w : Nat) (v : Word) : Banks :=
  updAt (fun (x : BitVec 256) =>
    (x &&& ~~~((0xFFFF_FFFF#256) <<< (32 * w))) ||| (v.setWidth 256 <<< (32 * w))) k b

/-- The key of a poisoned word of a BANK register. -/
def badKey (r : Reg) (k w : Nat) : Nat := 256 * r.toNat + 16 * k + w

/-- A word of a BANK register is poisoned (R353). -/
def Family.isBad (m : Family) (r : Reg) (k w : Nat) : Bool := r != Reg.z && m.bankBad.contains (badKey r k w)

/-- A team may go to the awl units of a BANK register: the checks of the data instructions. -/
def State.awlCause (s : State) (t : Team) (rs : List (Reg × Nat)) (uni : Bool) (p : Pred) (place : Bool) :
    Option Cause :=
  firstCause
    [(s.anyNone t rs, .undecl), (t.anyPend rs || t.predPend uni p.num.toNat, .unwaited),
     (s.anyApart t rs || place, .place)]

/-- Send to the awl units of a pseudo-channel. -/
def State.sendAwl (s : State) (t : Team) (i : Instr) (ch : Nat) (c : Ctr) (uni : Bool) (lanes : List PLane)
    (pend : List Nat) : State :=
  s.issuePacket t.ctx 1 (t.packet i (.awl ch) c uni lanes []) pend [] [{ target := .awl ch, op := .exec, lanes := lanes }]

/-- The pseudo-channel of a place. -/
def Loc.chan? : Loc → Option Nat
  | .bank ch => Option.some ch
  | _ => Option.none

/-- A place is neither at BANK nor absent. -/
def Loc.notBank (l : Loc) : Bool := !(l.isBank || l == .imm)

/-- The number of the lane of a packet that carries the predicate of an `awlbc`. -/
def carrierVid : Nat := 1024

/-- AWLBC (R253): the packet carries every present lane's word. -/
def execAwlbc (all : Bool) (o : F3) (s : State) : Host.Outcome State Fault Refusal :=
  .next (s.byTeam (.awlbc all o) (fun s t =>
    let (d, a) := (s.locOf t o.d, s.locOf t o.a)
    match s.awlCause t [(o.d, 1), (o.a, 1)] true o.p (d.notBank || (a != .lane && a != .imm)) with
    | some c => s.takeTrap t.ctx 1 (plainTrap c)
    | none =>
      match d.chan? with
      | none => s.advance t.ctx 1
      | some ch =>
        let (on, s) := s.qPred t o.p
        let lanes := t.current.map (fun l => pLane l.vid [laneRegs l o.a 1] 0)
        s.sendAwl t (.awlbc all o) ch .pl true (pLane carrierVid [boolOp on] 0 :: lanes) []))

/-- AWLMAC (R253). An address pair at LANE raises PLACE, as R50's table of permitted places has it; SHAPE, which R257
gives for a named register at LANE, is the other reading (log entry 81). -/
def execAwlmac (o : F3) (s : State) : Host.Outcome State Fault Refusal :=
  .next (s.byTeam (.awlmac o) (fun s t =>
    let (d, a, b) := (s.locOf t o.d, s.locOf t o.a, s.locOf t o.b)
    let apart : Bool := match d.chan?, a.chan? with
      | some x, some y => x != y
      | _, _ => false
    match s.awlCause t [(o.d, 1), (o.a, 1), (o.b, 2)] true o.p
        (d.notBank || a.notBank || apart || (b != .team && b != .imm)) with
    | some c => s.takeTrap t.ctx 1 (plainTrap c)
    | none =>
      let (va, s) := s.readPair t o.b
      if va.toNat % 32 != 0 then s.takeTrap t.ctx 1 { cause := .align, addr := va, code := 0 }
      else
        let (on, s) := s.qPred t o.p
        match d.chan?.or a.chan? with
        | none => s.advance t.ctx 1
        | some ch => s.sendAwl t (.awlmac o) ch .pl true [pLane 0 [boolOp on] va] []))

/-- AWLRD (R253). -/
def execAwlrd (o : F3) (s : State) : Host.Outcome State Fault Refusal :=
  .next (s.byTeam (.awlrd o) (fun s t =>
    let (d, a) := (s.locOf t o.d, s.locOf t o.a)
    match s.awlCause t [(o.d, 1), (o.a, 1)] false o.p ((d != .lane && d != .imm) || a.notBank) with
    | some c => s.takeTrap t.ctx 1 (plainTrap c)
    | none =>
      let act := t.active o.p
      match a.chan? with
      | none =>
        let s := s.modTeam t.ctx (fun t => t.mapLanes (fun l =>
          if act.any (fun x => x.vid == l.vid && decide (x.vid < 128)) then setLaneRegs l o.d 1 0 else l))
        s.advance t.ctx 1
      | some ch =>
        if act.isEmpty then s.advance t.ctx 1
        else s.sendAwl t (.awlrd o) ch .ld false (act.map (fun l => pLane l.vid [] 0)) (regNums o.d 1)))

/-- `awlbc` at the awl units. -/
def State.awlbcAt (s : State) (f : Nat) (all : Bool) (o : F3) (ls : List PLane) : State :=
  let w (v : Nat) : Word := (ls.find? (fun l => l.vid == v)).elim 0 (fun l => (opAt l.ops 0).setWidth 32)
  let bank (k : Nat) : BitVec 256 := (List.range 8).foldl (fun x j =>
    x ||| ((w (if all then j else 8 * k + j)).setWidth 256 <<< (32 * j))) 0
  (s.setBank f o.d ((List.range 16).map bank)).modFam f (fun m =>
    { m with bankBad := m.bankBad.filter (fun x => x / 256 != o.d.toNat) })

/-- Physical address of a CLEAR page of the session's pseudo-channel; none where the address is not in
one (R253). -/
def State.awlPage (s : State) (v ch va : Nat) : Option (Nat × Leaf) × State :=
  if 2 ^ 56 ≤ va then (none, s)
  else
    let (h, s) := s.homeOf v (ch / 64 / 4) va
    if h != some (ch / 64, ch % 64) then (none, s)
    else match s.translate v (ch / 64) (ch % 64) (va / 65536 * 65536) 0 with
      | (.ok (l, pa), s) => (if l.clear then some (pa, l) else none, s)
      | (.error _, s) => (none, s)

/-- The 32 bytes of a burst at its bank, with whether their sector is poisoned. -/
def State.burst (s : State) (v page : Nat) (l : Leaf) (pa : Nat) : List Byte × Bool × State :=
  match s.readHome v pa (s.tagOf v (page + pa % 65536) pa l) with
  | (some b, _, s) => ((b.drop (pa % 128)).take 32, false, s)
  | (none, _, s) => (List.replicate 32 0, true, s)

/-- The FP16 values of 32 bytes. -/
def fp16s (bs : List Byte) : List MVal :=
  (List.range 16).map (fun i => .real (ffF16.val (leNat ((bs.drop (2 * i)).take 2))))

/-- One bank of an `awlmac` (R253). -/
def State.awlmacBank (s : State) (v page : Nat) (l : Leaf) (pa : Nat) (m : Family) (o : F3) (j k : Nat) :
    Word × Bool × Flags × State :=
  let (bs, bad, s) := s.burst v page l pa
  let x := fp16s (leBytes 32 ((m.bank o.a).getD k 0).toNat)
  let (r, fl) := AccKind'.f32.chain (bankWord (m.bank o.d) k j).toNat 0 ((fp16s bs).zip x)
  let bad := bad || (List.range 8).any (fun w => m.isBad o.a k w) || m.isBad o.d k j
  (BitVec.ofNat 32 r, bad, fl, s)

/-- An `awlmac` over the banks. -/
def State.awlmacBanks (s : State) (v page : Nat) (l : Leaf) (pa : Nat) (f : Nat) (m : Family) (o : F3) (j : Nat) :
    List Nat → Flags × State
  | [] => (0, s)
  | k :: ks =>
    let at_ := pa + (page % 65536) / 16384 * 16384 + k * 1024 + page % 1024 / 32 * 32
    let (r, bad, fl, s) := s.awlmacBank v (page / 65536 * 65536) l at_ m o j k
    let s := s.setBank f o.d (setBankWord ((s.fam f).bank o.d) k j r)
    let s := if bad && o.d != Reg.z then
        s.modFam f (fun m => { m with bankBad := insertNat (badKey o.d k j) m.bankBad }) else s
    let (fl', s) := s.awlmacBanks v page l pa f m o j ks
    (fl ||| fl', s)

/-- `awlmac` at the awl units (R251, R253). -/
def State.awlmacAt (s : State) (t : Team) (o : F3) (ch : Nat) (l : PLane) : Perf × State :=
  let done : Perf := onePerf (ansLane 0 [])
  match (s.chan ch).session with
  | none => (done, s)
  | some x =>
    if 4096 ≤ x.macs then (done, s.endSession ch (some 6))
    else
      let s := s.setChan ch { s.chan ch with session := some { x with macs := x.macs + 1 } }
      let v := s.vdOf t
      match s.awlPage v ch l.addr.toNat with
      | (none, s) => (done, s.endSession ch (some 5))
      | (some (pa, leaf), s) =>
        let (fl, s) := s.awlmacBanks v l.addr.toNat leaf pa t.fam (s.fam t.fam) o (o.imm.toNat % 8) (List.range 16)
        ({ done with flags := fl }, s)

/-- `awlrd` at the awl units. -/
def State.awlrdAt (s : State) (t : Team) (o : F3) (ls : List PLane) : Perf :=
  let m := s.fam t.fam
  let want := ls.filter (fun l => decide (l.vid < 128))
  if want.any (fun l => m.isBad o.a (l.vid / 8) (l.vid % 8)) then poisonPerf 0
  else { noPerf with lanes := ls.map (fun l =>
    ansLane l.vid (if l.vid < 128 then [(bankWord (m.bank o.a) (l.vid / 8) (l.vid % 8)).setWidth 64] else [])) }

/-- An instruction at the awl units of a pseudo-channel (R251): without effect where its team holds no
ACTIVE session there. -/
def State.awlAt (s : State) (t : Team) (ch : Nat) (r : Req) : Perf × State :=
  let none_ : Perf := { noPerf with lanes := r.lanes.map (fun l => ansLane l.vid []) }
  let on : Bool := r.lanes.head?.elim false (fun l => opAt l.ops 0 != 0)
  if !s.holdsSession t ch then (none_, s)
  else match r.instr with
    | .awlbc all o => (none_, if on then s.awlbcAt t.fam all o (r.lanes.drop 1) else s)
    | .awlmac o => (match r.lanes with
        | l :: _ => if on then s.awlmacAt t o ch l else (none_, s)
        | [] => (none_, s))
    | .awlrd o => (s.awlrdAt t o r.lanes, s)
    | .decl _ o => (none_, if on then s.setBank t.fam o.data zeroBanks else s)
    | .undecl o => (none_, if !on then s else s.modFam t.fam (fun m => { m with
        banks := Tbl.del m.banks o.d.toNat, bankBad := m.bankBad.filter (fun x => x / 256 != o.d.toNat) }))
    | _ => (none_, s)

end Sys2Proof.Machine
end

