-- ==== Sys2Proof/Machine/Image.lean ====
section
/-! DEFINITION. The images of a save in memory (18 R342, R344, R345): the context area of a team with its MEM
backing store, the team image and the group image, written under the domain's key (22 R391). What the layouts
leave open is written as free values (log entry 42). -/

namespace Sys2Proof.Machine

/-! ### Runs of bytes -/

/-- A run of an image: bytes that the layout gives, or so many that it leaves open. -/
inductive ImgPart where
  | known (bs : List Byte)
  | free (n : Nat)
deriving DecidableEq, Repr

/-- Bytes of a run. -/
def ImgPart.size : ImgPart → Nat
  | .known bs => bs.length
  | .free n => n

/-- Bytes of an image. -/
def imageSize (ps : List ImgPart) : Nat := ps.foldl (fun n p => n + p.size) 0

/-- The bytes of an image, what is open drawn from the free values. -/
def layOut : List ImgPart → State → List Byte × State
  | [], s => ([], s)
  | .known bs :: ps, s =>
    let (r, s) := layOut ps s
    (bs ++ r, s)
  | .free n :: ps, s =>
    let (b, s) := s.freeBytes n
    let (r, s) := layOut ps s
    (b ++ r, s)

/-- A little-endian field of `n` bytes. -/
def field8 (n v : Nat) : ImgPart := .known (leBytes n v)

/-! ### Context areas (R344, R391) -/

/-- The stride of a VD's context areas. -/
def VD.stride (d : VD) : Nat := 2 ^ d.log2str.toNat

/-- The context area of a team: its context index is in bits 13:0 of its context id (R344). -/
def State.ctxArea (s : State) (t : Team) : Nat :=
  let d := s.vd (s.vdOf t)
  d.ctxBase.toNat + t.ctx % 2 ^ 14 * d.stride

/-- The tag of a sector of a context area: the domain's key, the physical address as tweak (R391). -/
def State.areaTag (s : State) (v pa : Nat) : SecTag :=
  { va := pa / 128, asid := 2 ^ 20, key := (s.domain (s.vd v).domain.toNat).key }

/-- Write bytes of a VD's context area, sector by sector. -/
def State.writeArea (s : State) (v : Nat) : Nat → Nat → List Byte → State
  | 0, _, _ => s
  | fuel + 1, pa, bs =>
    if bs.isEmpty then s
    else
      let k := min bs.length (128 - pa % 128)
      let s := s.writeHome v pa (s.areaTag v pa) (bytesAt (pa % 128) (bs.take k))
      s.writeArea v fuel (pa + k) (bs.drop k)

/-- An image is written to memory; the rest of its last sector is open. -/
def State.writeImage (s : State) (v pa : Nat) (ps : List ImgPart) : State :=
  let n := imageSize ps
  let (bs, s) := layOut (ps ++ [.free ((128 - (pa + n) % 128) % 128)]) s
  s.writeArea v (bs.length / 128 + 2) pa bs

/-! ### The team image (R344) -/

/-- STATE of a team image. -/
def ImgState.code : ImgState → Nat
  | .running => 0
  | .faulted => 1
  | .hcall => 2
  | .resumed => 3

/-- A uniform register in an image; where siblings have written it since their split, any of the values (R17). -/
def State.regPart (s : State) (t : Team) (r : Nat) : ImgPart :=
  let c := Tbl.get zeroCell (s.fam t.fam).cells r
  if c.isOpen t.ctx then .free 4 else .known (leBytes 4 (c.view t.ctx 0).toNat)

/-- The q predicates in an image: bit k is qk, and q0 reads true. -/
def State.qPart (s : State) (t : Team) : ImgPart :=
  let c (n : Nat) : Cell := Tbl.get zeroCell (s.fam t.fam).q n
  let ks := (List.range 8).drop 1
  if ks.any (fun n => (c n).isOpen t.ctx) then .free 1
  else .known (leBytes 1 (ks.foldl (fun acc n => if (c n).view t.ctx 0 != 0 then acc + 2 ^ n else acc) 1))

/-- Physical slots of the lanes that a packet still carries; a uniform request counts as lane 0. -/
def Packet.slotsLeft (p : Packet) : List Nat :=
  if p.uniform then [0] else (p.lanes.filter (fun l => !l.done)).filterMap (fun l => Tbl.get? p.slots l.vid)

/-- The progress of a packet: steps of a loop, the first granule of a copy not known to have landed, or what the
packet counts. -/
def State.progressOf (s : State) (t : Team) (p : Packet) : Nat :=
  if p.copy.isSome then (lowestFree p.landed (p.landed.length + 1)).getD 0
  else
    let held := (s.group t.group).quads.findSome? (fun q => q.2.held.find? (fun h => h.1 == t.ctx && h.2.1 == p.seq))
    match held with
    | some h => h.2.2.step
    | none => p.progress

/-- The place instance of a packet in the form of R43. -/
def PInst.part : PInst → ImgPart
  | .core => .free 2
  | .welt t => .known (leBytes 2 (3 * 2 ^ 12 + t % 16))
  | .awl ch => .known (leBytes 2 (4 * 2 ^ 12 + ch % 1024))

/-- A packet of the replay set, `n` bytes of its payload being carried values: header and payload. -/
def State.packetParts (s : State) (t : Team) (p : Packet) (n : Nat) : List ImgPart :=
  let words := (encode p.instr).flatMap DWord.bytes
  let own := p.mat.isSome || p.copy.isSome
  let slots := if own then [] else p.slotsLeft
  let ws := (List.range 32).filter (fun w => maskWord slots w != 0)
  [.known (words ++ List.replicate (32 - words.length) 0), field8 2 p.seq.toNat, p.inst.part,
   field8 4 (s.progressOf t p), field8 4 (4 * ws.length + n),
   if own then .free 4 else field8 4 (ws.foldl (fun acc w => acc + 2 ^ w) 0), .free 16,
   .known (ws.flatMap (fun w => leBytes 4 (maskWord slots w).toNat)), .free n]

/-- The replay set of a team: packets in sequence order, then one kept after a race (R340). -/
def State.replayParts (s : State) (t : Team) : List ImgPart :=
  let ps := t.replay ++ t.handler.kept.toList
  (ps.zip (List.range ps.length)).flatMap (fun e =>
    s.packetParts t e.1 (Config.payloadLen s.free t.ctx e.2).toNat)

/-- A part for each physical slot of a team: what its lane gives, or open bytes. -/
def Team.slotParts (t : Team) (n : Nat) (f : Lane → Nat) : List ImgPart :=
  (List.range 1024).map (fun sl => match t.lanes.find? (fun l => l.slot == sl) with
    | some l => field8 n (f l)
    | none => .free n)

/-- Row `r` of the LANE registers: those of the register whose row it is. -/
def State.rowParts (s : State) (t : Team) (r : Nat) : List ImgPart :=
  match (s.fam t.fam).map.find? (fun e => e.2.kind == .lane && e.2.index.toNat == r) with
  | some e => t.slotParts 4 (fun l => (Tbl.get 0 l.regs e.1).toNat)
  | none => [.free 4096]

/-- The control bytes of a team image; SPAN lies in them at no stated place. -/
def State.controlParts (s : State) (t : Team) : List ImgPart :=
  let l := s.launchOf t
  [.known (leBytes 8 t.pc.toNat ++ leBytes 1 t.word ++ leBytes 1 t.gen.toNat ++ leBytes 1 t.ld ++ leBytes 1 t.pl ++
     leBytes 1 t.st),
   s.qPart t,
   .known (leBytes 1 t.flags.toNat ++ leBytes 1 t.fen.toNat ++ leBytes 1 t.img.code ++ leBytes 4 t.retired ++
     leBytes 4 l.expcl ++ leBytes 1 l.lmax ++ leBytes 4 (imageSize (s.replayParts t))),
   .free 34]

/-- The team image. -/
def State.teamParts (s : State) (t : Team) : List ImgPart :=
  s.controlParts t ++
  (List.range 32).map (fun w => field8 4 (t.maskWord w).toNat) ++
  [.free 192] ++
  (List.range 256).map (fun r => field8 2 (Tbl.get noPlace (s.fam t.fam).map r).bits) ++
  (List.range 8).map (fun k => match (t.watch[k]?).join with
    | some o => field8 4 o
    | none => .free 4) ++
  [.known (List.replicate 32 0), .free 512] ++
  t.slotParts 2 (fun l => l.vid) ++
  t.slotParts 2 (fun l => l.tx.st.code + 2 ^ 8 * l.tx.code.toNat) ++
  t.slotParts 1 (fun l => (l.p ||| 1).toNat) ++
  (List.range 256).map (fun r => if (Tbl.get noPlace (s.fam t.fam).map r).kind = .team then s.regPart t r
    else field8 4 0) ++
  (List.range (s.launchOf t).lmax).flatMap (fun r => s.rowParts t r) ++
  s.replayParts t

/-- The MEM backing store of a launched team, register n at 4n; words of other registers are open. -/
def State.backingParts (s : State) (t : Team) : List ImgPart :=
  (List.range 256).map (fun r => if (Tbl.get noPlace (s.fam t.fam).map r).kind = .mem then s.regPart t r else .free 4)

/-! ### The group image (R345) -/

/-- The teams of a group in team-slot order. -/
def State.slotOrder (s : State) (g : Nat) : List Team :=
  let ts := s.groupTeams g
  (List.range 64).filterMap (fun k => ts.find? (fun t => t.slot == k))

/-- An engine program: PC, WORD, running, outstanding count, predicates and registers; open where there is none. -/
def enginePart (e : Option Engine) : List ImgPart :=
  match e with
  | some e =>
    [.known (leBytes 8 e.pc.toNat ++ leBytes 1 e.word ++ leBytes 1 (if e.running then 1 else 0) ++ leBytes 1 e.out ++
       leBytes 1 e.q.toNat ++ (List.range 16).flatMap (fun n => leBytes 4 (Tbl.get 0 e.regs n).toNat)), .free 52]
  | none => [.free 9, .known [0], .free 118]

/-- The engine programs of a group: matrix, then Lace 0 to 3. -/
def Group.engineParts (g : Group) : List ImgPart :=
  enginePart ((g.engines.find? (fun e => decide (8 ≤ e.1) && e.2.running)).map (fun e => e.2)) ++
  [1, 2, 3, 4].flatMap (fun k => enginePart (Tbl.get? g.engines k))

/-- The engine-issued copies of a group: sixteen for each Lace engine, in the packet form. -/
def Group.copyParts (g : Group) : List ImgPart :=
  (List.range 4).flatMap (fun e =>
    let cs := (g.copies.filter (fun c => c.1 == e)).map (fun c => c.2)
    (List.range 16).flatMap (fun i => match cs[i]? with
      | some c =>
        let ws := (encode c.op.instr).flatMap DWord.bytes
        [.known (ws ++ List.replicate (32 - ws.length) 0), .free 4,
         field8 4 ((lowestFree c.landed (c.landed.length + 1)).getD 0), .free 24]
      | none => [.free 64]))

/-- A quadrant: its tiles, and what the layout does not lay out further. -/
def Quad.parts (q : Quad) : List ImgPart :=
  (List.range 8).flatMap (fun a => (List.range 1024).map (fun i =>
    field8 4 (Tbl.get 0 (Tbl.get { words := [], poison := false } q.tiles a).words i).toNat)) ++ [.free 32768]

/-- A bit for each of `n` granules. -/
def bitBytes (ks : List Nat) (n : Nat) : List Byte :=
  leBytes (n / 8) (((List.range n).filter (fun k => ks.contains k)).foldl (fun acc k => acc + 2 ^ k) 0)

/-- The team list: for each resident team its context id, launched team index, and whether it is the taken child of a
split. -/
def State.teamList (s : State) (g : Nat) : List Byte :=
  (List.range 64).flatMap (fun i => match (s.slotOrder g)[i]? with
    | some t => leBytes 4 (t.ctx % 2 ^ 20 + (s.fam t.fam).index % 8 * 2 ^ 24 +
        (if t.ctx ≠ (s.fam t.fam).ctx then 2 ^ 31 else 0))
    | none => leBytes 4 0)

/-- The group image. -/
def State.groupParts (s : State) (g : Nat) : List ImgPart :=
  let m := s.group g
  [field8 4 m.lin, field8 1 (s.groupTeams g).length, field8 4 m.spadLen,
   field8 1 m.qmask.toNat, field8 1 m.lmask.toNat, .free 53] ++
  (List.range 64).map (fun i => match m.registry[i]? with
    | some o => field8 4 o
    | none => .free 4) ++
  m.engineParts ++ m.copyParts ++
  (bitList m.qmask 0 4).flatMap (fun q => match Tbl.get? m.quads q with
    | some x => x.parts
    | none => [.free 65536]) ++
  [.known (Mem.readN m.spad 0 m.spadLen), .known (bitBytes m.full (m.spadLen / 16)), .known (s.teamList g)]

/-! ### Writing the images (R342) -/

/-- The images of a group that is saved, with their addresses: of each team, of the backing store of each launched
team, and of the group after the image of its first team. -/
def State.imagesOf (s : State) (g : Nat) : List (Nat × List ImgPart) :=
  let ts := s.slotOrder g
  let teams := ts.map (fun t => (s.ctxArea t + 0x400, s.teamParts t))
  let backs := (ts.filter (fun t => t.ctx == (s.fam t.fam).ctx)).map (fun t => (s.ctxArea t, s.backingParts t))
  let group := ts.head?.toList.map (fun t =>
    (s.ctxArea t + (0x400 + imageSize (s.teamParts t) + 4095) / 4096 * 4096, s.groupParts g))
  teams ++ backs ++ group

/-- The images of a group are written. -/
def State.writeImages (s : State) (g : Nat) : State :=
  (s.imagesOf g).foldl (fun s im => s.writeImage (s.group g).vd im.1 im.2) { s with free := s.free + 1 }

/-- The STATE byte of the image of a saved team in memory becomes that of its state (R336). -/
def State.markImage (s : State) (t : Team) : State :=
  s.writeArea (s.vdOf t) 2 (s.ctxArea t + 0x410) (leBytes 1 t.img.code)

end Sys2Proof.Machine
end

