-- ==== Sys2Proof/Machine/Nest.lean ====
section
/-! DEFINITION. Loop nests and ragged rows (09 R246 to R249): issue, one tuple of a nest at a time, and
the rows that a `ragged` hands out. -/

namespace Sys2Proof.Machine

/-! ### Nests -/

/-- Element size z (R247). -/
def nestBytes (ty : Ty) : Nat := 4 * Ty.regs ty

/-- Levels in use. -/
def FN.levels (n : FN) : List Nat := List.range n.depth.toNat

/-- The extents, level 0 first: it varies fastest (R247). -/
def FN.exts (n : FN) : List Nat := (FN.levels n).map (fun k => (n.extent k).toNat + 1)

/-- Tuples of a nest. -/
def FN.count (n : FN) : Nat := product (FN.exts n)

/-- Stride shift of operand `x` (D 0, A 1, B 2). -/
def FN.shift (n : FN) (x : Nat) : Nat :=
  match x with
  | 0 => n.shd.toNat
  | 1 => n.sha.toNat
  | _ => n.shb.toNat

/-- Address of operand `x` at tuple `i` (R247). -/
def FN.adr (n : FN) (z x : Nat) (base : DWord) (i : List Nat) : DWord :=
  let sum : Int := ((FN.levels n).zip i).foldl (fun a e =>
    a + (e.2 : Int) * (n.stride (3 * e.1 + x)).toInt) 0
  base + BitVec.ofInt 64 ((z * 2 ^ FN.shift n x : Nat) * sum)

/-- The nest reduces some level. -/
def FN.reduces (n : FN) : Bool := n.rmask != 0

/-- The operation reads D (R246). -/
def NestOp.readsD (op : NestOp) (red : Bool) : Bool := op == .mac || red

/-- The function of an integer operation. -/
def NestOp.int (op : NestOp) (x y d : Int) : Int :=
  match op with
  | .copy => x
  | .add => x + y
  | .sub => x - y
  | .mul => x * y
  | .min => min x y
  | .max => max x y
  | .mac => d + x * y
  | .and | .or | .xor => x

/-- The function of a floating operation on an element: RN, `.mac` fused. -/
def NestOp.float (op : NestOp) (f : FFmt) (x y d : Nat) : Nat × Flags :=
  match op with
  | .add => f.add .rn false (f.val x) (f.val y)
  | .sub => f.add .rn false (f.val x) ((f.val y).negate)
  | .mul => f.mul .rn false (f.val x) (f.val y)
  | .min => f.minmax false x y
  | .max => f.minmax true x y
  | .mac => f.dot .rn false [(f.val x, f.val y)] (f.val d)
  | _ => (x, 0)

/-- One application of a nest's operation to values of D, A and B (R246). -/
def NestOp.apply (op : NestOp) (ty : Ty) (red : Bool) (d a b : DWord) : DWord × Flags :=
  let (x, y) := if red && op != .mac then (d, a) else (a, b)
  match op with
  | .copy => (x, 0)
  | .and => (x &&& y, 0)
  | .or => (x ||| y, 0)
  | .xor => (x ^^^ y, 0)
  | _ =>
    if Ty.isFloat ty then
      let w := Ty.elemBits ty
      perElem w (Ty.elems ty) (fun e =>
        NestOp.float op (tyFmt ty) (elemOf w e x) (elemOf w e y) (elemOf w e d))
    else ((intElems ty false (NestOp.int op) [x, y, d]).1, 0)

/-- The operands that a nest accesses at each tuple: number and whether it is written. -/
def NestOp.touches (op : NestOp) (red : Bool) : List Nat :=
  (if NestOp.usesB op red then [1, 2] else [1]) ++ (if NestOp.readsD op red then [0] else [])

/-- Operand `i` of a nest's bases. -/
def nestBase (bases : List DWord) (x : Nat) : DWord := opAt bases x

/-- The addresses of a tuple: operand number and address, D last. -/
def nestAddrs (op : NestOp) (ty : Ty) (n : FN) (bases : List DWord) (t : Nat) : List (Nat × DWord) :=
  let i := tupleOf t (FN.exts n)
  ((if NestOp.usesB op (FN.reduces n) then [1, 2] else [1]) ++ [0]).map (fun x =>
    (x, FN.adr n (nestBytes ty) x (nestBase bases x) i))

/-- The misaligned addresses of a nest, over every tuple (R255). -/
def nestBad (op : NestOp) (ty : Ty) (n : FN) (bases : List DWord) : List DWord :=
  (List.range (FN.count n)).flatMap (fun t =>
    (nestAddrs op ty n bases t).filterMap (fun a => if a.2.toNat % nestBytes ty = 0 then none else some a.2))

/-- An ordinal beyond the members in some address of a nest (R27). -/
def State.nestPeer (s : State) (g : Nat) (op : NestOp) (ty : Ty) (n : FN) (bases : List DWord) : Option Nat :=
  (List.range (FN.count n)).findSome? (fun t =>
    (nestAddrs op ty n bases t).findSome? (fun a =>
      match s.space g true a.2 (nestBytes ty) with
      | .cpeer o => some o
      | _ => none))

/-- Bases that a nest names. -/
def nestRegs (op : NestOp) (n : FN) : List (Reg × Nat) :=
  [(n.bd, 2), (n.ba, 2)] ++ (if NestOp.usesB op (FN.reduces n) then [(n.bb, 2)] else [])

/-- NEST (R246 to R248). -/
def execNest (op : NestOp) (ty : Ty) (n : FN) (s : State) : Host.Outcome State Fault Refusal :=
  .next (s.byTeam (.nest op ty n) (fun s t =>
    match s.teamRegsCause t (nestRegs op n) n.p.num.toNat with
    | some c => s.takeTrap t.ctx 4 (plainTrap c)
    | none =>
      let (d, s) := s.readPair t n.bd
      let (a, s) := s.readPair t n.ba
      let (b, s) := if NestOp.usesB op (FN.reduces n) then s.readPair t n.bb else (0, s)
      let z := nestBytes ty
      let bad := nestBad op ty n [d, a, b]
      if [d, a, b].any (fun x => x.toNat % z != 0) then
        s.takeTrap t.ctx 4 { cause := .align, code := 0
                             addr := bad.foldl (fun x y => if y.toNat < x.toNat then y else x) (bad.headD 0) }
      else match s.nestPeer t.group op ty n [d, a, b] with
        | some o => s.takeTrap t.ctx 4 { cause := .cpeer, addr := BitVec.ofNat 64 o, code := 0 }
        | none => s.guarded t 4 [] n.p (fun s => s.advance t.ctx 4) (fun s =>
          let lane := pLane 0 [d, a, b, 0] 0
          s.issuePacket t.ctx 4 (t.packet (.nest op ty n) .core .st true [lane] []) [] []
            [{ target := .core (s.coreOf t), op := .access, lanes := [lane] }])))

/-- What a read of `n` bytes at an effective address finds; a window's BOUND or NONCANON is found at
the core. -/
def State.readEa (s : State) (t : Team) (w : Who) (ea : DWord) (n : Nat) : Got × State :=
  match s.space t.group true ea n with
  | .virt va => s.loadVirt w va n
  | .spad g off =>
    let k := s.group g
    (if k.poisoned off n then .poison else .data (k.spadRead off n), s)
  | .bad k => (.fault k 7, s)
  | .cpeer _ => (.fault .bound 7, s)

/-- Bytes written at an effective address: the fault that the write meets, if any. -/
def State.writeEa (s : State) (t : Team) (w : Who) (ea : DWord) (bs : List Byte) : Option (MemKind × Nat) × State :=
  match s.space t.group true ea bs.length with
  | .virt va => s.storeVirt w va (bytesAt (va % 128) bs) .team
  | .spad g off => (none, s.modGroup g (fun k => k.spadWrite off bs))
  | .bad k => (some (k, 7), s)
  | .cpeer _ => (some (.bound, 7), s)

/-- The accesses of some bytes at an effective address, for race detection. -/
def State.accsEa (s : State) (t : Team) (ea : DWord) (n : Nat) (rd wr : Bool) : List RAcc :=
  match s.space t.group true ea n with
  | .virt va => s.virtAccs (s.vdOf t) va n (some (s.coreOf t)) rd wr
  | .spad g off => [spadAcc g off n rd wr]
  | _ => []

/-- The values of the operands that a tuple reads, or what stops it. -/
def State.nestReads (s : State) (t : Team) (w : Who) (z : Nat) :
    List (Nat × DWord) → Except (Got × DWord) (List (Nat × DWord)) × State
  | [] => (.ok [], s)
  | (x, ea) :: rest =>
    match s.readEa t w ea z with
    | (.data bs, s) =>
      (match s.nestReads t w z rest with
      | (.ok l, s) => (.ok ((x, BitVec.ofNat 64 (leNat bs)) :: l), s)
      | (.error e, s) => (.error e, s))
    | (g, s) => (.error (g, ea), s)

/-- The race check of the tuples of a nest from number `from_` on (R274). -/
def State.nestRace (s : State) (t : Team) (vids : List Nat) (seq : BitVec 16) (op : NestOp) (ty : Ty) (n : FN) (bases : List DWord) (from_ : Nat) :
    Option (Bool × State) :=
  let z := nestBytes ty
  let red := FN.reduces n
  let accs := ((List.range (FN.count n)).drop from_).flatMap (fun k =>
    (nestAddrs op ty n bases k).flatMap (fun a =>
      s.accsEa t a.2 z (a.1 != 0 || NestOp.readsD op red) (a.1 == 0)))
  s.raceCheck t.ctx .core seq (vids.map (fun v => (v, accs)))

/-- One tuple of a nest (R247): the answer where it is the last or meets a fault, a poisoned value or a
race; none where the nest goes on. The flags so far stand in operand 3 of its lane. -/
def State.nestStep (s : State) (t : Team) (op : NestOp) (ty : Ty) (n : FN) (pk : Packet) :
    Option Perf × State :=
  let ops := pk.lanes.head?.elim [] (fun l => l.ops)
  let z := nestBytes ty
  let red := FN.reduces n
  let w := s.whoOf t pk.pc pk.word
  let i := pk.progress
  match if pk.checked then some (false, s) else s.nestRace t (pk.runs t) pk.seq op ty n ops i with
  | none => (some { noPerf with stop := some .mmx }, s)
  | some (lost, s) =>
    let s := s.modTeam t.ctx (fun t => t.modPk pk.seq (fun p => { p with checked := true }))
    let addrs := nestAddrs op ty n ops i
    let reads := addrs.filter (fun a => a.1 != 0 || NestOp.readsD op red)
    match s.nestReads t w z reads with
    | (.error (.poison, ea), s) => (some (poisonPerf ea.toNat), s)
    | (.error (.fault k lv, ea), s) => (some (onePerf (ansFault i k lv ea 0)), s)
    | (.error (.data _, _), s) => (some noPerf, s)
    | (.ok vals, s) =>
      let val (x : Nat) : DWord := (vals.find? (fun v => v.1 == x)).elim 0 (fun v => v.2)
      let (r, fl) := NestOp.apply op ty red (val 0) (val 1) (val 2)
      let dst := (addrs.find? (fun a => a.1 == 0)).elim 0 (fun a => a.2)
      match s.writeEa t w dst (leBytes z r.toNat) with
      | (some e, s) => (some (onePerf (ansFault i e.1 e.2 dst 1)), s)
      | (none, s) =>
        let flags := (opAt ops 3).setWidth 7 ||| fl ||| Flags.when lost fRDLOST
        if FN.count n ≤ i + 1 then (some { onePerf (ansLane 0 []) with flags := flags }, s)
        else (none, s.modTeam t.ctx (fun t => t.modPk pk.seq (fun p =>
          { p with progress := i + 1
                   lanes := p.lanes.map (fun l => { l with ops := l.ops.set 3 (flags.setWidth 64) }) })))

/-! ### Ragged rows (R249) -/

/-- The number that stands for the cursor among the lanes of an answer. -/
def cursorVid : Nat := 1024

/-- RAGGED (R249). -/
def execRagged (pr : BitVec 3) (n : FN) (s : State) : Host.Outcome State Fault Refusal :=
  .next (s.byTeam (.ragged pr n) (fun s t =>
    let rs := [(n.bd, 2), (n.ba, 2), (n.bb, 2)]
    let loc (r : Reg) : Loc := s.locOf t r
    match firstCause
      [(s.anyNone t rs, .undecl),
       (t.anyPend rs || t.predPend false n.p.num.toNat || t.predPend false pr.toNat, .unwaited),
       (s.anyApart t rs || (loc n.ba).remote || (loc n.bb).remote || (loc n.bd != .lane && loc n.bd != .imm), .place),
       (loc n.ba == .lane || loc n.bb == .lane, .shape)] with
    | some c => s.takeTrap t.ctx 4 (plainTrap c)
    | none =>
      let (a, s) := s.readPair t n.ba
      let (c, s) := s.readPair t n.bb
      -- the rows that it may read, from the cursor's on
      let from_ := (c.setWidth 32).toNat
      let rows := (List.range (n.x0.toNat + 1)).filter (fun r => decide (from_ ≤ r))
      if a.toNat % 4 != 0 && !rows.isEmpty then
        s.takeTrap t.ctx 4 { cause := .align, addr := a + BitVec.ofNat 64 (4 * from_), code := 0 }
      else match rows.findSome? (fun r =>
          match s.space t.group true (a + BitVec.ofNat 64 (4 * r)) 4 with
          | .cpeer o => some o
          | _ => none) with
      | some o => s.takeTrap t.ctx 4 { cause := .cpeer, addr := BitVec.ofNat 64 o, code := 0 }
      | none =>
        let act := t.active n.p
        if act.isEmpty then s.advance t.ctx 4
        else
          let lanes := (sortBy (fun l => l.vid) act).map (fun l => pLane l.vid [a, c] a)
          s.issuePacket t.ctx 4 (t.packet (.ragged pr n) .core .ld false lanes [])
            (regNums n.bd 2 ++ regNums n.bb 2) [predKey false pr.toNat]
            [{ target := .core (s.coreOf t), op := .access, lanes := lanes }]))

/-- The lengths that a `ragged` has read, or what stopped a read. -/
structure RagRead where
  lens : Tbl Nat
  stop : Option (Got × DWord)

/-- Rows skipped while they have ended (R249): the row, its column, what has been read. -/
def State.ragSkip (s : State) (t : Team) (w : Who) (base : DWord) (n : Nat) :
    Nat → Nat × Nat → RagRead → (Nat × Nat) × RagRead × State
  | 0, rc, rd => (rc, rd, s)
  | fuel + 1, rc, rd =>
    if n ≤ rc.1 || rd.stop.isSome then (rc, rd, s)
    else
      let ea := base + BitVec.ofNat 64 (4 * rc.1)
      let (g, s) := match Tbl.get? rd.lens rc.1 with
        | some v => (Got.data (leBytes 4 v), s)
        | none => s.readEa t w ea 4
      match g with
      | .data bs =>
        let v := leNat bs
        let rd := { rd with lens := Tbl.set rd.lens rc.1 v }
        if v ≤ rc.2 then s.ragSkip t w base n fuel (rc.1 + 1, 0) rd else (rc, rd, s)
      | g => (rc, { rd with stop := some (g, ea) }, s)

/-- Positions handed to lanes in ascending virtual id, and the final skip (R249). -/
def State.ragHand (s : State) (t : Team) (w : Who) (base : DWord) (n : Nat) :
    List PLane → Nat × Nat → RagRead → List AnsLane × (Nat × Nat) × RagRead × State
  | [], rc, rd =>
    let (rc, rd, s) := s.ragSkip t w base n (n + 1) rc rd
    ([], rc, rd, s)
  | l :: ls, rc, rd =>
    let (rc, rd, s) := s.ragSkip t w base n (n + 1) rc rd
    let ended := decide (n ≤ rc.1)
    let vals : List DWord := if ended then [BitVec.ofNat 64 n, 0, 1]
      else [BitVec.ofNat 64 rc.1, BitVec.ofNat 64 rc.2, boolOp (rc.2 == 0)]
    let (rest, last, rd, s) := s.ragHand t w base n ls (if ended then rc else (rc.1, (rc.2 + 1) % 2 ^ 32)) rd
    (ansLane l.vid vals :: rest, last, rd, s)

/-- A `ragged` reads its table and hands out rows (R249). -/
def State.raggedAt (s : State) (t : Team) (n : FN) (pk : Packet) : Perf × State :=
  let w := s.whoOf t pk.pc pk.word
  let ops := pk.lanes.head?.elim [] (fun l => l.ops)
  let base := opAt ops 0
  let c := opAt ops 1
  let rows := n.x0.toNat + 1
  let (outs, last, rd, s') := s.ragHand t w base rows pk.lanes ((c.setWidth 32).toNat, (c >>> 32).toNat)
    { lens := [], stop := none }
  match rd.stop with
  | some (.fault k lv, ea) => ({ noPerf with lanes := pk.lanes.map (fun l => ansFault l.vid k lv ea 0) }, s')
  | some (_, ea) => (poisonPerf ea.toNat, s')
  | none =>
    let accs := rd.lens.flatMap (fun e => s'.accsEa t (base + BitVec.ofNat 64 (4 * e.1)) 4 true false)
    match s'.raceCheck t.ctx .core pk.seq (pk.lanes.map (fun l => (l.vid, accs))) with
    | none => ({ noPerf with stop := some .mmx }, s')
    | some (lost, s) =>
      let cursor := ansLane cursorVid [BitVec.ofNat 64 last.1, BitVec.ofNat 64 last.2]
      ({ noPerf with lanes := outs ++ [cursor], flags := Flags.when lost fRDLOST }, s)

/-- The core writes what a `ragged` brings. -/
def State.takeRagged (s : State) (t : Team) (pr : BitVec 3) (n : FN) (ls : List AnsLane) : State :=
  let s := s.modTeam t.ctx (fun t => t.mapLanes (fun l =>
    match ls.find? (fun a => a.vid == l.vid && a.fault.isNone) with
    | some a => setLaneP (putLaneWords l n.bd (a.vals.take 2)) pr.toNat (opAt a.vals 2 != 0)
    | none => l))
  match ls.find? (fun a => a.vid == cursorVid) with
  | some a => s.putUniWords t.fam t.ctx (fun k => k) n.bb a.vals
  | none => s

end Sys2Proof.Machine
end

