-- ==== Sys2Proof/Machine/Requests.lean ====
section
/-! DEFINITION. Requests at their targets and completions at the core (02 R50 to R53, R59 to R67; 07
R169, R170; 10 R268). -/

namespace Sys2Proof.Machine

/-- Generation `g` is older than `h` (R64). -/
def olderGen (g h : BitVec 8) : Bool := g != h && decide ((h - g).toNat < 128)

/-- The newest generation that a target has seen of a team. -/
def State.newestGen (s : State) (ctx : Nat) (g : Target) : Option (BitVec 8) :=
  (s.newest.find? (fun n => n.1 == ctx && n.2.1 == g)).map (fun n => n.2.2)

/-- A target sees a generation (R63). -/
def State.seeGen (s : State) (r : Req) : State :=
  if s.newestGen r.ctx r.target = some r.gen then s
  else { s with newest := (r.ctx, r.target, r.gen) :: s.newest.filter (fun n => !(n.1 == r.ctx && n.2.1 == r.target)) }

/-- A request comes too late (R63), or to the core after a halt (R66). One under the team's generation never does
(R64). -/
def State.outdated (s : State) (t : Team) (r : Req) : Bool :=
  r.gen != t.gen && ((s.newestGen r.ctx r.target).elim false (fun n => olderGen r.gen n)
  || (match r.target with
    | .core _ => true
    | _ => false))

/-- A fault or a race at the target under the same generation discards a later request (R67, R274). -/
def State.discarded (s : State) (r : Req) : Bool :=
  s.discards.any (fun d => d.1 == r.ctx && d.2.1 == r.target && d.2.2.1 == r.gen && laterSeq r.seq d.2.2.2)

/-- The records of a request (R62). A lane is looked for at every target of its team: where a home has changed since it
was first sent, the request still takes effect once (R63, R185; log entry 45). -/
def State.recordsOf (s : State) (r : Req) : List Record :=
  s.records.filter (fun x => x.ctx == r.ctx && x.seq == r.seq && x.op == r.op &&
    (r.lanes.isEmpty || x.lanes.any (fun l => l.vid == cursorVid || r.lanes.any (fun y => y.vid == l.vid))))

/-- Records of a team at a target. -/
def State.windowOf (s : State) (r : Req) : Nat :=
  (s.records.filter (fun x => x.ctx == r.ctx && x.target == r.target)).length

/-! ### Order at a target -/

/-- Where the lanes of a request lead. -/
def State.reqPlaces (s : State) (r : Req) (m : MemDesc) : List Where := r.lanes.map (fun l => s.memSpace r.group m l.addr)

/-- Two accesses touch common bytes, or common full bits. -/
def touching (n k : Nat) (a b : Where) : Bool :=
  match a, b with
  | .virt x, .virt y => decide (x < y + k) && decide (y < x + n)
  | .spad g x, .spad h y => g == h && x / 16 == y / 16
  | _, _ => false

/-- The access changes what it touches, full bits among it. -/
def MemDesc.changes (m : MemDesc) : Bool := m.kind.writes || m.o.fec || (match m.kind with
  | .fe _ => true
  | _ => false)

/-- An older request of a team at the core holds a younger one back: R170 for overlapping bytes, R268
for synchronising operations; a nest, or an address not yet formed, holds everything. -/
def State.holdsBack (s : State) (e r : Req) : Bool :=
  if e.isFew then false
  else match memOf e.instr, memOf r.instr, e.op with
    | some me, some mr, .access =>
      me.acquires || mr.releases || (me.releases && mr.acquires)
      || ((me.changes || mr.changes) && (s.reqPlaces e me).any (fun a =>
        (s.reqPlaces r mr).any (fun b => touching me.size mr.size a b)))
    | _, _, _ => true

/-- What a request does for the core: an access, or the address of one. -/
def Req.ofCore (r : Req) : Bool := r.inst == .core && (match r.op with
  | .access | .base _ => true
  | _ => false)

/-- A request waits for older ones of its team: at a Welt unit or at awl units in the order of arrival
(R52), for the core's accesses as `holdsBack` says. -/
def State.heldByOrder (s : State) (i : Nat) (r : Req) : Bool :=
  ((s.reqs.take i).filter (fun e => e.ctx == r.ctx && !e.orphan)).any (fun e =>
    (match r.target with
      | .welt _ | .awl _ => e.target == r.target && e.seq != r.seq
      | _ => false)
    || (r.ofCore && e.ofCore && e.seq != r.seq && r.op == .access && s.holdsBack e r))

/-- An access that L1 does not answer waits while a Lace copy owns its sector (R243, R265, R277). -/
def State.heldByLace (s : State) (r : Req) : Bool :=
  (match r.target with
    | .core _ => false
    | _ => true) &&
  (s.reqVas r).any (fun va =>
    let sec := s.asid (s.group r.group).vd * 2 ^ 49 + va % 2 ^ 56 / 128
    s.laceRegs.any (fun l => decide (l.place = .dir) && l.gran / 8 == sec))

/-! ### Answers and records -/

/-- An answer sets out for the core (R61, R312). -/
def State.sendAnswer (s : State) (r : Req) (p : Perf) : State :=
  s.sendBack r.group { ctx := r.ctx, gen := r.gen, seq := r.seq, target := r.target, op := r.op, lanes := p.lanes
                       flags := p.flags, poison := p.poison, stop := p.stop, id := 0, route := [] }

/-- An answer of a target goes to the core, and what has completed is recorded (R61 to R63, R67). -/
def State.answer (s : State) (r : Req) (p : Perf) : State :=
  let good := p.lanes.filter (fun l => l.fault.isNone)
  let bad := good.length != p.lanes.length || p.stop.isSome
  let s := s.sendAnswer r p
  let same (x : Record) : Bool := x.ctx == r.ctx && x.seq == r.seq && x.target == r.target && x.op == r.op
  let recs := if good.isEmpty then s.records
    else if s.records.any same then
      updFirst same (fun x => { x with lanes := x.lanes ++ good, flags := x.flags ||| p.flags }) s.records
    else s.records ++ [{ ctx := r.ctx, seq := r.seq, target := r.target, op := r.op, lanes := good, flags := p.flags }]
  { s with
    records := recs
    discards := if bad then (r.ctx, r.target, r.gen, r.seq) :: s.discards else s.discards }

/-- A request leaves the list of those on their way. -/
def State.dropReq (s : State) (i : Nat) : State := { s with reqs := dropAt i s.reqs }

/-- A request goes on with other lanes. -/
def State.setReqLanes (s : State) (i : Nat) (ls : List PLane) : State :=
  { s with reqs := updAt (fun (r : Req) => { r with lanes := ls }) i s.reqs }

/-! ### The core's accesses -/

/-- A FEW and FEC load that its bank received before `r` waits for the granule of a scratchpad offset. -/
def State.fewBefore (s : State) (r : Req) (h off : Nat) : Bool :=
  s.reqs.any (fun e => e.rcvd.any (fun n => r.rcvd.all (fun k => decide (n < k))) && !e.orphan
    && (s.team? e.ctx).any (fun t => !s.outdated t e)
    && (memOf e.instr).any (fun m => m.o.fec) && s.awaitsFull e h off)

/-- The lanes of a request that can be performed now (R177): FEW loads wait for their granules; of several that clear
the full bit, the one that the bank received first reads. -/
def State.readyLanes (s : State) (r : Req) (m : MemDesc) : List PLane :=
  if !r.isFew then r.lanes
  else r.lanes.filter (fun l => match s.memSpace r.group m l.addr with
    | .spad h off => (s.group h).isFull off && !(m.o.fec && s.fewBefore r h off)
    | _ => true)

/-- Some lanes of a request address a window. -/
def isSpad : Target → Bool
  | .spad _ _ => true
  | _ => false

/-- Whence a target makes its accesses. -/
def State.nearOf (s : State) (r : Req) : Near :=
  match r.target with
  | .l2 sl => .die (sl / 64)
  | .welt t => .welt t
  | .msc t => .msc t
  | .host | .peer _ => .outside
  | _ => .die (dieOf (s.group r.group).core)

/-- The core finds what it needs to know of a lane's access itself (R167, R187, R328): it is not made, or has no home. -/
def State.coreFinds (s : State) (t : Team) (m : MemDesc) (l : PLane) : Bool × State :=
  if l.ops.getLastD 0 == 2 then (true, s)
  else match s.memSpace t.group m l.addr with
    | .virt va => let (h, s) := s.homeOf (s.vdOf t) (dieOf (s.coreOf t)) va; (h.isNone, s)
    | _ => (true, s)

/-- A memory access is performed for the core (R169, R274): all lanes of the packet are checked for races
before the first is performed. What is left of a request that a halt has overtaken is neither checked nor recorded:
its regions have closed (R273). -/
def State.accessAt (s : State) (t : Team) (pk : Packet) (r : Req) (m : MemDesc) (ls : List PLane) :
    Perf × State :=
  match if pk.checked || r.gen != t.gen then some (false, s)
      else s.memRace t m pk.inst pk (pk.lanes.filter (fun l => !l.done)) with
  | none => ({ noPerf with stop := some .mmx }, s)
  | some (lost, s) =>
    let s := if r.gen != t.gen then s
      else s.modTeam t.ctx (fun t => t.modPk pk.seq (fun p => { p with checked := true }))
    let w := { s.whoOf t pk.pc pk.word with near := s.nearOf r }
    let s := s.syncBefore m w.core (isSpad r.target)
    let (p, s) := s.performLanes t w m false ls
    ({ p with flags := p.flags ||| Flags.when lost fRDLOST }, if r.gen != t.gen then s else s.syncAfter t m .core pk ls)

/-- Where an access must go on from its target (R184, R260, R266): from the core to the home slice where the core does
not answer it, from a slice to the memory side for a SHARED page, and to a home outside the package. -/
def State.goesOn (s : State) (i : Nat) (t : Team) (r : Req) (m : MemDesc) : Option State × State :=
  let virt (l : PLane) : Option (Nat × DWord) := match s.memSpace t.group m l.addr with
    | .virt va => if l.ops.getLastD 0 == 2 then none else some (va, l.ops.getLastD 0)
    | _ => none
  match r.lanes.findSome? virt with
  | none => (none, s)
  | some (va, mark) =>
    let w := { s.whoOf t 0 0 with near := s.nearOf r }
    match r.target with
    | .core c =>
      (match s.homeOf (s.vdOf t) (dieOf c) va with
      | (none, s) => (none, s)
      | (some (stack, _), s) =>
        if s.coreAnswers w m mark stack va then (none, s)
        else (some (s.sendFrom i r (s.homeTarget (s.vdOf t) stack va)), s))
    | .l2 _ | .msc _ =>
      (match s.askHome w va m.kind.acc with
      | (.error _, s) => (none, s)
      | (.ok h, s) =>
        let slice : Bool := match r.target with
          | .l2 _ => true
          | _ => false
        if outside h.pa then (some (s.sendOutside i r h.pa), s)
        else if h.leaf.shared && slice then (some (s.sendOn i r (.msc h.stack) [toStack h.stack]), s)
        else (none, s))
    | _ => (none, s)

/-- A request at the core, or at a home of virtual memory or a scratchpad bank, is performed (R169, R274), or goes on. -/
def State.accessOr (s : State) (i : Nat) (t : Team) (pk : Packet) (r : Req) (m : MemDesc) (ls : List PLane)
    (done : Perf × State → State) : State :=
  let (finds, s) := match r.target, ls with
    | .core _, l :: _ => s.coreFinds t m l
    | _, _ => (false, s)
  if finds then done (State.eachLane (fun s l => s.coreLane t m l) s ls)
  else match s.goesOn i t r m with
    | (some s, _) => s
    | (none, s) => done (s.accessAt t pk r m ls)

/-! ### At a Welt unit -/

/-- Words of DATA at a Welt unit. -/
def State.weltWords (s : State) (t : Team) (w : Nat) (r : Reg) : Nat → List DWord × State
  | 0 => ([], s)
  | n + 1 =>
    let (ws, s) := s.weltWords t w r n
    let (x, s) := if r = Reg.z then (0, s) else s.readUni t.fam t.ctx (memKey w (r.toNat + n))
    (ws ++ [x.setWidth 64], s)

/-- What stops a team at an address formed at a Welt unit (R168). -/
def State.weltStop (s : State) (t : Team) (m : MemDesc) (base : DWord) : Option StopKind :=
  (s.addrTrap t.group m [base]).map (fun tr =>
    match tr.cause with
    | .align => .align tr.addr
    | _ => .cpeer tr.addr.toNat)

/-- A load, a store or an atomic executes at its Welt unit (R174, R184). -/
def State.memWelt (s : State) (t : Team) (w : Nat) (pk : Packet) (r : Req) (m : MemDesc) (l : PLane) : Perf × State :=
  let none_ : Perf := onePerf (ansLane 0 [])
  if opAt l.ops 0 == 0 then (none_, s)
  else
    let (base, s) := s.weltBase t w m pk
    let formed := pk.fetches.isEmpty
    let ea := if formed then l.addr else m.ea base
    match if formed then none else s.weltStop t m base with
    | some k => ({ noPerf with stop := some k }, s)
    | none =>
      match s.memSpace t.group m ea with
      | .bad k => (onePerf (ansFault 0 k 7 ea m.kind.acc), s)
      | _ =>
        let (data, s) := if m.kind.takes then s.weltWords t w m.o.data m.regs else ([], s)
        let lane := pLane 0 (data ++ [0]) ea
        match if r.gen != t.gen then some (false, s) else s.memRace t m (.welt w) pk [lane] with
        | none => ({ noPerf with stop := some .mmx }, s)
        | some (lost, s) =>
          let who := { s.whoOf t pk.pc pk.word with near := .welt w }
          let window : Bool := match s.memSpace t.group m ea with
            | .virt _ => false
            | _ => true
          let s := s.syncBefore m who.core window
          let (p, s) := s.performLanes t who m true [lane]
          let s := if r.gen != t.gen then s else s.syncAfter t m (.welt w) pk [lane]
          let s := if m.gives = 0 then s else p.lanes.foldl (fun s a =>
            if a.fault.isNone && !a.vals.isEmpty then
              s.putUniWords t.fam t.ctx (fun k => memKey w k) m.o.data a.vals
            else s) s
          ({ p with lanes := p.lanes.map (fun a => { a with vals := [] })
                    flags := p.flags ||| Flags.when lost fRDLOST }, s)

/-- A value fetched from a Welt unit (R50); a register that moves to another place leaves the unit with it (R53). -/
def State.fetchAt (s : State) (t : Team) (w : Nat) (pk : Packet) (reg : Reg) : Perf × State :=
  let (v, s) := s.readUni t.fam t.ctx (memKey w reg.toNat)
  let s := s.markFetch t.ctx (.welt w) pk.seq
  (onePerf (ansLane 0 [v.setWidth 64]), if pk.moves reg then s.delCell t.fam (memKey w reg.toNat) else s)

/-- An instruction executes at Welt unit `w` (R48, R52); none where its answer comes later. -/
def State.execWelt (s : State) (t : Team) (w : Nat) (pk : Packet) (r : Req) : Option Perf × State :=
  match descOf r.instr, memOf r.instr, r.instr with
  | some d, _, _ =>
    let (s, fl) := s.descAtWelt t.fam t.ctx w d pk
    (some { onePerf (ansLane 0 []) with flags := fl }, s)
  | none, some m, _ =>
    let (p, s) := s.memWelt t w pk r m (pk.lanes.headD (pLane 0 [] 0))
    (some p, s)
  | none, none, .awlmodeOn _ _ | none, none, .awlmodeOff _ => s.awlmodeAt t r
  | none, none, _ => (some (onePerf (ansLane 0 [])), s.placeAtWelt t w pk)

/-- A Welt unit forms the addresses of a packet from a BASE pair that it holds (R168): the accesses take
the place of the request. -/
def State.baseAt (s : State) (t : Team) (w i : Nat) (pk : Packet) (r : Req) (m : MemDesc) : State :=
  let (base, s) := s.readMem t.fam t.ctx w m.o.base m.baseRegs
  match s.weltStop t m base with
  | some k => (s.dropReq i).answer r { noPerf with stop := some k }
  | none =>
    let ea := m.ea base
    let mark (l : PLane) : PLane :=
      let tx := (t.laneOf l.vid).elim 0 (fun x => if pk.uniform then 0 else txMark t m ea x)
      { l with addr := ea, ops := l.ops.dropLast ++ [tx] }
    let ls := pk.lanes.map mark
    let dead := if pk.uniform then [] else
      (ls.filter (fun l => l.ops.getLastD 0 == 2)).map (fun l => l.vid)
    let t := t.abortTx (fun l => dead.contains l.vid) .unsupported
    let known (f : Fetch) : Fetch := { f with val := some 0 }
    let t := t.modPk pk.seq (fun p => { p with lanes := ls, fetches := p.fetches.map known })
    let s := ((s.setTeam t).markFetch t.ctx (.welt w) pk.seq).orderFetch t.ctx (.welt w) .core pk.seq
    let (sends, s) := s.accessSends t m ls
    let (now, s) := s.setOutAll (some w) (sends.map (fun x => t.req s.clock pk x))
    { s with reqs := s.reqs.take i ++ now ++ s.reqs.drop (i + 1) }

/-! ### A request at its target (R63) -/

/-- A request that its target takes up: the answer, or none where it goes on or is answered later. -/
def State.perform (s : State) (i : Nat) (t : Team) (pk : Packet) (r : Req) : State :=
  let fin (x : Option Perf × State) : State := match x with
    | (some p, s) => (s.dropReq i).answer r p
    | (none, s) => s
  match r.target, r.op with
  | .welt w, .fetch _ reg => let (p, s) := s.fetchAt t w pk reg; (s.dropReq i).answer r p
  | .welt w, .base _ => (match memOf r.instr with
      | some m => s.baseAt t w i pk r m
      | none => s.dropReq i)
  | .welt w, _ =>
    if !pk.fetches.all (fun f => f.welt == w || f.val.isSome) then s
    else (match s.execWelt t w pk r with
      | (some p, s) => (s.dropReq i).answer r p
      | (none, s) => s.dropReq i)
  | .awl ch, _ => let (p, s) := s.awlAt t ch r; (s.dropReq i).answer r p
  | _, _ =>
    match r.instr, memOf r.instr with
    | .nest op ty n, _ => fin (s.nestStep t op ty n pk)
    | .ragged _ n, _ => let (p, s) := s.raggedAt t n pk; (s.dropReq i).answer r p
    | _, some m =>
      let now := s.readyLanes r m
      if now.isEmpty then s
      else s.accessOr i t pk r m now (fun x =>
        let left := r.lanes.filter (fun l => !now.any (fun y => y.vid == l.vid))
        if x.1.stop.isSome || left.isEmpty then (x.2.dropReq i).answer r x.1
        else (x.2.setReqLanes i left).answer r x.1)
    | _, none => s.dropReq i

/-- A request of a team that was killed (R24): performed, or lost on its way. -/
def State.orphanAt (s : State) (i : Nat) (r : Req) : State :=
  let (b, s) := s.flip
  let s := s.dropReq i
  match memOf r.instr, r.op with
  | some m, .access =>
    if !b || r.isFew || (Tbl.get? s.groups r.group).isNone then s
    else
      let t := { resetTeam with ctx := deadCtx, fam := r.fam, group := r.group }
      let ls := r.lanes.filter (fun l => l.ops.getLastD 0 == 0)
      (s.performLanes t (s.whoOf t 0 0) m false ls).2
  | _, _ => s

/-- The lanes of some records that a request carries. -/
def carriedBy (xs : List Record) (r : Req) : List AnsLane :=
  (xs.flatMap (fun x => x.lanes)).filter (fun l =>
    r.lanes.isEmpty || r.lanes.any (fun y => y.vid == l.vid) || l.vid == cursorVid)

/-- Carried lanes that records complete are answered from them (R63). -/
def State.answerRecord (s : State) (r : Req) (xs : List Record) : State :=
  s.sendAnswer r { lanes := carriedBy xs r, flags := xs.foldl (fun f x => f ||| x.flags) 0, poison := none, stop := none }

/-- The lanes of a request that no record completes. -/
def restOf (xs : List Record) (r : Req) : List PLane :=
  r.lanes.filter (fun y => !xs.any (fun x => x.lanes.any (fun l => l.vid == y.vid)))

/-- A FEW load has come to its bank (R177). -/
def State.receiveFew (s : State) (i : Nat) (r : Req) : Req × State :=
  if !r.isFew || r.rcvd.isSome then (r, s)
  else
    let (n, s) := s.fresh
    let r := { r with rcvd := some n }
    (r, { s with reqs := updAt (fun _ => r) i s.reqs })

/-- A request is performed, unless it is held (R52, R62, R170, R243, R268), or waits for its home (R251, R260, R369). -/
def State.tryPerform (s : State) (i : Nat) (t : Team) (pk : Packet) (r : Req) : State :=
  if decide (256 ≤ s.windowOf r) || s.heldByOrder i r || s.heldByLace r then s
  else
    let (r, s) := s.receiveFew i r
    s.unlessHeld (fun s => s.perform i t pk r)

/-- A request that is not outdated: answered from its record for the lanes that it completes, performed
for the others (R63). -/
def State.serve (s : State) (i : Nat) (t : Team) (pk : Packet) (r : Req) : State :=
  match s.recordsOf r with
  | [] => s.tryPerform i t pk r
  | xs =>
    let rest := restOf xs r
    if rest.isEmpty then (s.dropReq i).answerRecord r xs
    else if rest.length < r.lanes.length then (s.setReqLanes i rest).answerRecord r xs
    else s.tryPerform i t pk r

/-- REQUEST_AT_TARGET (R63): one that has crossed its links is dropped, answered from its record, held, or performed. -/
def execRequestAtTarget (i : Nat) (s : State) : Host.Outcome State Fault Refusal :=
  .next (match s.reqs[i]? with
    | none => s
    | some r =>
      if !r.route.isEmpty then s
      else if r.orphan then s.orphanAt i r
      else match s.team? r.ctx with
        | none => s.dropReq i
        | some t =>
          if s.outdated t r then s.dropReq i
          else
            let s := s.seeGen r
            if s.discarded r then s.dropReq i
            else match t.pk? r.seq with
              | none => s.dropReq i
              | some pk => s.serve i t pk r)

end Sys2Proof.Machine
end

