-- ==== Sys2Proof/Machine/Complete.lean ====
section
/-! DEFINITION. Completions at the core and their acknowledgement (02 R57, R59, R61 to R67; 09 R249,
R250, R253), and the end of a team (01 R23, R24, R32). -/

namespace Sys2Proof.Machine

/-- Registers and predicates that a packet holds pending (R59): predicates as `predKey` numbers them. -/
def State.pendOf (s : State) (t : Team) (pk : Packet) : List Nat × List Nat :=
  if pk.inst = .core then
    match descOf pk.instr, memOf pk.instr, pk.instr with
    | some d, _, _ => (s.descPend t d, d.pendPreds)
    | none, some m, _ => (m.pend, [])
    | none, none, .redecl _ o => ([o.data.toNat], [])
    | none, none, .ragged pr n => (regNums n.bd 2 ++ regNums n.bb 2, [predKey false pr.toNat])
    | none, none, .mread o => (regNums o.dst (if o.w64 then 2 else 1), [])
    | none, none, .mstat _ d => (regNums d 1, [])
    | none, none, _ => ([], [])
  else
    match pk.instr with
    | .awlmodeOn _ o | .awlmodeOff o => (regNums o.data 1, [])
    | .awlrd o => (regNums o.d 1, [])
    | _ => ([], [])

/-- A load with FEW of the team has not completed. -/
def Team.fewLeft (t : Team) : Bool :=
  t.replay.any (fun p => !p.complete && (memOf p.instr).elim false (fun m => m.o.few && m.kind.reads))

/-- THE COMPLETION OF A PACKET (R57, R59, R62): the counter falls, nothing of it is pending any more,
its acknowledgement is due, and a team parked for a FEW load goes on when none is left. -/
def State.complete (s : State) (ctx : Nat) (seq : BitVec 16) : State :=
  match s.team? ctx with
  | none => s
  | some t =>
    match t.pk? seq with
    | none => s
    | some pk =>
      let (rs, ps) := s.pendOf t pk
      let t := (t.completePk seq).unpend pk.path rs ps
      let t := if t.parked = .few ∧ !t.fewLeft then { t with parked := .no } else t
      { s with acks := s.acks ++ [(ctx, seq)] }.setTeam t

/-- A lane of a packet with what an answer says of it. A uniform packet takes the position that the
answer gives where it is a fault. -/
def PLane.take (l : PLane) (uni : Bool) (ls : List AnsLane) : PLane :=
  match if uni then ls.head? else ls.find? (fun a => a.vid == l.vid) with
  | none => l
  | some a =>
    match a.fault with
    | some f => { l with fault := some f, vid := if uni then a.vid else l.vid }
    | none => { l with done := true, fault := none }

/-- What the lanes of an answer bring to registers at the core. -/
def State.takeAnswer (s : State) (t : Team) (pk : Packet) (ls : List AnsLane) : State :=
  match pk.instr, memOf pk.instr with
  | .awlmodeOn _ o, _ | .awlmodeOff o, _ => s.takeWords t o.data true ls
  | .awlrd o, _ => s.takeWords t o.d false ls
  | .ragged pr n, _ => s.takeRagged t pr n ls
  | _, some m => if pk.inst = .core ∧ m.gives ≠ 0 then s.takeWords t m.o.data pk.uniform ls else s
  | _, none => s

/-- An answer to a fetch (R50): the value takes its place, and the core's instruction computes once all
have come. -/
def State.takeFetch (s : State) (t : Team) (pk : Packet) (op : Nat) (reg : Reg) (w : Nat) (v : Word) : State :=
  let hit (f : Fetch) : Bool := f.op == op && f.reg == reg && f.welt == w && f.val.isNone
  let pk := { pk with fetches := updFirst hit (fun (f : Fetch) => { f with val := some v }) pk.fetches }
  let s := s.setTeam (t.modPk pk.seq (fun _ => pk))
  let s := s.orderFetch t.ctx (.welt w) pk.inst pk.seq
  if pk.inst = .core ∧ pk.fetched then
    let s := match descOf pk.instr, pk.instr with
      | some d, _ => s.finishDesc t.ctx d pk
      | none, .redecl _ o => s.finishMove t.ctx o.data pk
      | none, _ => s
    s.complete t.ctx pk.seq
  else s

/-- The core takes an answer of an execution or of an access. -/
def State.takeDone (s : State) (t : Team) (pk : Packet) (a : Answer) : State :=
  let s := s.takeAnswer t pk a.lanes
  let s := s.modTeam t.ctx (fun t => (t.join a.flags).modPk pk.seq (fun p =>
    { p with lanes := p.lanes.map (fun l => l.take p.uniform a.lanes) }))
  let all : Bool := ((s.team? t.ctx).bind (fun t => t.pk? pk.seq)).elim false
    (fun p => p.lanes.all (fun l => l.done))
  if all then s.complete t.ctx pk.seq else s

/-- The core takes an answer (R61): a poisoned value kills (R354), a stop is kept for the halt. -/
def State.receive (s : State) (t : Team) (pk : Packet) (a : Answer) : State :=
  match a.poison, a.stop with
  | some va, _ => s.consume t pk.pc pk.word va
  | none, some k => s.modTeam t.ctx (fun t => t.modPk pk.seq (fun p => { p with stop := some k }))
  | none, none =>
    match a.op, a.target with
    | .fetch op reg, .welt w =>
      s.takeFetch t pk op reg w (opAt (a.lanes.head?.elim [] (fun l => l.vals)) 0 |>.setWidth 32)
    | .base _, _ => s
    | _, _ => s.takeDone t pk a

/-- COMPLETION_RECEIVE (R61, R64): of an answer that has crossed its links; one under an older generation, or for a team
that is gone, is dropped. -/
def execCompletionReceive (i : Nat) (s : State) : Host.Outcome State Fault Refusal :=
  .next (match s.answers[i]? with
    | none => s
    | some a =>
      if !a.route.isEmpty then s
      else
      let s := { s with answers := dropAt i s.answers }
      match s.team? a.ctx with
      | none => s
      | some t =>
        let s := s.wakeCause (s.coreOf t) 3
        if a.gen != t.gen then s
        else match t.pk? a.seq with
          | none => s
          | some pk => if pk.complete then s else s.receive t pk a)

/-- A target that holds no record of a team any more forgets the newest generation that it has seen of it (R64). -/
def State.forgetGens (s : State) (ctx : Nat) : State :=
  { s with newest := s.newest.filter (fun n => n.1 != ctx || s.records.any (fun r => r.ctx == ctx && r.target == n.2.1)) }

/-- COMPLETION_ACKNOWLEDGEMENT (R62): the records of the packet go, and the packet leaves the replay
set (R65). -/
def execCompletionAcknowledgement (i : Nat) (s : State) : Host.Outcome State Fault Refusal :=
  .next (match s.acks[i]? with
    | none => s
    | some (ctx, seq) =>
      let s := { s with acks := dropAt i s.acks,
                        records := s.records.filter (fun r => !(r.ctx == ctx && r.seq == seq)) }
      (s.forgetGens ctx).modTeam ctx (fun t => t.dropPk seq))

/-- TEAM_END (R23): a team without a present lane and with its counters at zero ends; with the last
team of a launched team what follows its end follows (R32). -/
def execTeamEnd (ctx : Nat) (s : State) : Host.Outcome State Fault Refusal :=
  .next (match s.team? ctx with
    | none => s
    | some t =>
      if t.lanes.isEmpty && t.ld == 0 && t.pl == 0 && t.st == 0 then
        let s := s.removeTeam t
        let m := s.fam t.fam
        if (s.famTeams t.fam).isEmpty then
          ((s.closeSession t.fam).afterFam t.fam m.index t.lower (m.retired + t.retired))
        else s.setFam t.fam { m with retired := m.retired + t.retired }
      else s)

end Sys2Proof.Machine
end

