-- ==== Sys2Proof/Machine/MatIssue.lean ====
section
/-! DEFINITION. Issue of the matrix instructions (08 R209 to R215, R217, R218, R228 to R235; 09
R238): what each names, the checks at issue, format blocks, and the entry into the queues. -/

namespace Sys2Proof.Machine

/-! ### What an instruction names -/

/-- The QSET of a matrix instruction. -/
def qsetOf : Instr → Nat
  | .mlds o | .mldsBar o _ => o.qset.toNat
  | .mswap q | .mfuse q => q.toNat
  | .mloop o => o.qset.toNat
  | .mdrain o => o.qset.toNat
  | .mzero o => o.qset.toNat
  | .mcomp o => o.qset.toNat
  | .mread o => o.qset.toNat
  | .mstat q _ => q.toNat
  | _ => 0

/-- The address registers of a matrix instruction, in the order A, B, M, O of `MatOp`: an `mlds` names
its tile as B and its barrier as O, an `mdrain` its destination as O, an `mcomp` its source, values
and metadata as A, B and M. -/
def matRegs : Instr → List (Option (BitVec 4))
  | .mlds o => [none, some o.breg, none, none]
  | .mldsBar o b => [none, some o.breg, none, some b.xreg]
  | .mloop o =>
    (match o.df with
    | .ip => [some o.areg, none, none, none]
    | .op => [some o.areg, some o.breg, none, none]
    | .rw => [some o.areg, some o.breg, some o.mreg, if o.sout then some o.oreg else none])
  | .mdrain o => [none, none, none, some o.dreg]
  | .mcomp o => [some o.sreg, some o.vreg, some o.mreg, none]
  | _ => []

/-- The register that a matrix instruction writes. -/
def matDst : Instr → Option (Reg × Nat)
  | .mread o => some (o.dst, if o.w64 then 2 else 1)
  | .mstat _ d => some (d, 1)
  | _ => none

/-- The instruction is checked against the fusion state (R210). -/
def matShaped : Instr → Bool
  | .mlds _ | .mldsBar _ _ | .mswap _ | .mloop _ | .mzero _ => true
  | _ => false

/-- The formed shapes once `mfuse #q` has acted (R228). -/
def fuseWith (q : Nat) (shapes : List Nat) : List Nat :=
  let apart := shapes.filter (fun x => !(quadsOf x).any (fun k => (quadsOf q).contains k))
  if 4 ≤ q then apart ++ [q] else apart

/-- The quadrants in whose queues an instruction stands (R212, R228). -/
def matQuads (i : Instr) (shapes : List Nat) : List Nat :=
  match i with
  | .mfuse q =>
    (quadsOf q.toNat ++ (shapes.filter (fun x =>
      (quadsOf x).any (fun k => (quadsOf q.toNat).contains k))).flatMap quadsOf).eraseDups
  | i => quadsOf (qsetOf i)

/-- QUAD (R210). -/
def Group.quadBad (g : Group) (i : Instr) : Bool :=
  let q := qsetOf i
  (quadsOf q).any (fun k => !g.qmask.getLsbD k)
  || (matShaped i && (if 4 ≤ q then !g.fuseI.contains q
      else g.fuseI.any (fun x => (quadsOf x).contains q)))

/-! ### Format blocks (R217, R218) -/

/-- The format block in some bytes, where it keeps the rules of R217 that no instruction changes and
those of R218 that its own fields decide. -/
def parseBlk (n : Nat) : Option FmtBlk :=
  match MFmt.ofCode (bitsAt n 0 8) with
  | none => none
  | some f =>
    let b : FmtBlk :=
      { fmt := f, blk := BitVec.ofNat 2 (bitsAt n 8 2), skind := bitsAt n 10 1 == 1
        sparse := BitVec.ofNat 2 (bitsAt n 11 2), scale := BitVec.ofNat 64 (bitsAt n 64 64)
        ext := BitVec.ofNat 64 (bitsAt n 128 64), meta_ := BitVec.ofNat 64 (bitsAt n 192 64) }
    let ok := bitsAt n 13 51 == 0 && b.blk != 3 && b.sparse != 3
      && (b.skind || b.scale == 0) && (f == .ox4 || b.ext == 0) && (b.sparse != 0 || b.meta_ == 0)
      && (f != .ox4 || (b.blk == 2 && b.skind && b.ext != 0))
      && (!(f.isInt || f == .f32 || f == .f64) || !b.skind)
    if ok then some b else none

/-- BLK divides the vector length (R218). -/
def FmtBlk.divides (b : FmtBlk) (len : Nat) : Bool := b.blk == 0 || len % b.blockLen len == 0

/-- The offset of a format block (R217). -/
def blkOff (f : BitVec 16) : Nat := 32 * f.toNat

/-- The format blocks that an instruction names, A then B. -/
def matBlks : Instr → Option (BitVec 16) × Option (BitVec 16)
  | .mlds o | .mldsBar o _ => (none, some o.fbb)
  | .mloop o => (some o.fba, if o.df = .ip then none else some o.fbb)
  | .mcomp o => (some o.fb, none)
  | _ => (none, none)

/-- How a format block stands in a group's scratchpad. -/
inductive BlkRead where
  | absent | beyond (off : Nat) | poisoned (off : Nat) | bad | good (b : FmtBlk)
deriving DecidableEq, Repr

/-- Read a format block. -/
def Group.readBlk (g : Group) : Option (BitVec 16) → BlkRead
  | none => .absent
  | some f =>
    let off := blkOff f
    if g.spadLen < off + 32 then .beyond off
    else if g.poisoned off 32 then .poisoned off
    else match parseBlk (g.spadNum off 32) with
      | some b => .good b
      | none => .bad

/-- The block, where it was read. -/
def BlkRead.get : BlkRead → Option FmtBlk
  | .good b => some b
  | _ => none

/-! ### Value-dependent ILLEGALs (R212, R218, R221, R223, R229, R232) -/

/-- Length of the A rows that an inner-product loop will read, from the formats that the planes will hold (R221, R224). -/
def Group.issueLen (g : Group) (q : Nat) : Nat :=
  let sparse := (quadsOf q).any (fun k => (Tbl.get (resetQuad k 0) g.quads k).trackA.elim false (fun b => b.sparse != 0))
  if sparse then 2 * depthOf q else depthOf q

/-- A loop's formats are not accepted. -/
def loopBad (o : MloopOps) (tracks : List (Option FmtBlk)) (fa fb : Option FmtBlk) : Bool :=
  match fa with
  | none => false
  | some a =>
    let sparse := tracks.any (fun t => t.elim false (fun b => b.sparse != 0))
    let kc := depthOf o.qset.toNat
    a.sparse != 0 || (a.fmt == .f64 && o.acc.toNat % 2 == 1)
    || (match o.df with
      | .ip => !a.divides (if sparse then 2 * kc else kc) ||
          tracks.any (fun t => t.elim false (fun b => !pairOk a.fmt b.fmt))
      | .op => !a.divides o.steps.toNat || fb.elim false (fun b =>
          b.sparse != 0 || !b.divides o.steps.toNat || !pairOk a.fmt b.fmt)
      | .rw => a.skind || a.fmt == .ox4 || a.fmt == .i4 || a.fmt == .f64 || fb.elim false (fun b =>
          b.sparse != 0 || b.fmt == .f64 || !b.divides (colsOf o.qset.toNat) || !pairOk a.fmt b.fmt))

/-- An address span as numbers that tell apart the spaces of R167; the cluster window's own member is
the local window. -/
def State.spanKey (s : State) (g : Nat) (ea : DWord) : Nat :=
  match s.space g true ea 1 with
  | .spad h off => 2 ^ 64 * (h + 1) + off
  | _ => ea.toNat

/-- Two spans overlap. -/
def overlapSpan (a n b k : Nat) : Bool := decide (a < b + k) && decide (b < a + n)

/-- Bytes of `n` elements. -/
def MFmt.bytesFor (f : MFmt) (n : Nat) : Nat := n * f.bits / 8

/-- An `mcomp`'s operands are not accepted (R232). Of each operand its whole span counts, the bytes between its rows
among it: the model's choice (log entry 75). -/
def State.compBad (s : State) (g : Nat) (o : McompOps) (op : MatOp) (f : FmtBlk) : Bool :=
  let len := 16 * o.len16.toNat
  let rows := o.rows.toNat + 1
  let src := f.fmt.bytesFor len
  let val := f.fmt.bytesFor (len / 2)
  let mb := metaBytes (if o.p48 then 2 else 1) len
  let span (pitch row : Nat) : Nat := (rows - 1) * pitch + row
  let (a, b, m) := (s.spanKey g op.a, s.spanKey g op.b, s.spanKey g op.m)
  let na := span (16 * o.spitch.toNat) src
  let nb := span (16 * o.vpitch.toNat) val
  !([MFmt.bf16, .f16, .e4m3, .e5m2, .i8].contains f.fmt) || f.skind || f.sparse != 0 || !f.divides len
  || decide (16 * o.spitch.toNat < src) || decide (16 * o.vpitch.toNat < val)
  || overlapSpan a na b nb || overlapSpan a na m (rows * mb) || overlapSpan b nb m (rows * mb)

/-- The barrier object of an `mlds.bar` (R229): not in the local window, or INIT 0. -/
def Group.barIllegal (g : Group) (x : DWord) : Bool :=
  let top := (x >>> 56).toNat
  let off := x.toNat % 2 ^ 32
  top == 0 || top == 0xFD ||
    (top == 0xFE && bitsAt x.toNat 32 24 == 0 && decide (off + 16 ≤ g.spadLen) && !(g.barrier off).inited)

/-- ILLEGAL by what an instruction has read (R51). -/
def State.matIllegal (s : State) (g : Nat) (i : Instr) (op : MatOp) (a b : BlkRead) : Bool :=
  let gr := s.group g
  decide (a = .bad) || decide (b = .bad) ||
  match i with
  | .mlds o => b.get.elim false (fun f => ldsBad o f)
  | .mldsBar o _ => gr.barIllegal op.o || b.get.elim false (fun f => ldsBad o f)
  | .mloop o =>
    (o.sout && (op.o >>> 56) != 0xFE) ||
    loopBad o ((quadsOf o.qset.toNat).map (fun q => (Tbl.get (resetQuad q 0) gr.quads q).trackA)) a.get b.get
  | .mcomp o => a.get.elim false (fun f => s.compBad g o op f)
  | _ => false
where
  ldsBad (o : MldsOps) (f : FmtBlk) : Bool :=
    (f.sparse != 0 && !([MFmt.bf16, .f16, .e4m3, .e5m2, .i8].contains f.fmt))
    || !f.divides (if f.sparse != 0 then 2 * depthOf o.qset.toNat else depthOf o.qset.toNat)

/-! ### Addresses -/

/-- Bytes of a row that an `mdrain` writes (R231). -/
def MdrainOps.rowBytes (o : MdrainOps) : Nat := 32 * OFmt.bytes o.ofmt

/-- The address of row `m` of an `mdrain`. -/
def MdrainOps.rowAddr (o : MdrainOps) (d : DWord) (m : Nat) : DWord :=
  d + BitVec.ofNat 64 (m * o.pitch.toNat * 16)

/-- Address of element `i` of an array whose pitch is signed, in 32-byte units. -/
def pitched (base : DWord) (inc : BitVec 16) (i : Nat) : DWord :=
  base + BitVec.ofInt 64 (inc.toInt * 32 * (i : Int))

/-- The addresses of an instruction with the alignment each needs (R219, R255: every row, R223, R229, R231). -/
def matAligns (i : Instr) (op : MatOp) : List (DWord × Nat) :=
  match i with
  | .mlds _ => [(op.b, 16)]
  | .mldsBar _ _ => [(op.b, 16), (op.o, 16)]
  | .mloop o =>
    let rows (base : DWord) (inc : BitVec 16) (n : Nat) : List (DWord × Nat) :=
      (List.range n).map (fun i => (pitched base inc i, 16))
    (match o.df with
    | .ip => rows op.a o.ainc o.steps.toNat
    | .op => rows op.a o.ainc (rowsOf o.qset.toNat) ++ rows op.b o.binc (colsOf o.qset.toNat)
    | .rw => rows op.a o.ainc o.steps.toNat ++ [(op.b, 16), (op.m, 16)])
      ++ (if o.sout then [(op.o, 8)] else [])
  | .mdrain o => (List.range 32).map (fun m => (MdrainOps.rowAddr o op.o m, min (MdrainOps.rowBytes o) 128))
  | .mcomp _ => [(op.a, 16), (op.b, 16), (op.m, 16)]
  | _ => []

/-- The arrays of a format block. -/
def FmtBlk.arrays (f : FmtBlk) : List DWord :=
  (if f.skind then [f.scale] else []) ++ (if f.fmt = .ox4 then [f.ext] else []) ++
    (if f.sparse != 0 then [f.meta_] else [])

/-- What an instruction reads or writes at an address that is known at issue: bytes, access, position (R334). -/
structure MatSpan where
  ea  : DWord
  n   : Nat
  acc : Nat
  pos : Nat
deriving DecidableEq, Repr

/-- Bytes of `n` elements of a block's format, at least one. -/
def spanBytes (f : Option FmtBlk) (n : Nat) : Nat := max 1 (f.elim 1 (fun f => f.fmt.bytesFor n))

/-- The spans of an instruction whose addresses are known at issue (R212, R219 to R235): rows, columns and arrays; of the
B rows that a row-wise loop fetches by index, the base alone. `len` is the length of an inner-product loop's A rows. -/
def matSpans (i : Instr) (op : MatOp) (len : Nat) : List MatSpan :=
  let span (ea : DWord) (n acc pos : Nat) : MatSpan := { ea := ea, n := n, acc := acc, pos := pos }
  (match i with
  | .mdrain o => (List.range 32).map (fun m =>
      span (MdrainOps.rowAddr o op.o m) (MdrainOps.rowBytes o) (if o.add then 2 else 1) m)
  | .mcomp o =>
    let n := 16 * o.len16.toNat
    let mb := metaBytes (if o.p48 then 2 else 1) n
    (List.range (o.rows.toNat + 1)).flatMap (fun r =>
      [span (op.a + BitVec.ofNat 64 (r * o.spitch.toNat * 16)) (spanBytes op.fa n) 0 0,
       span (op.b + BitVec.ofNat 64 (r * o.vpitch.toNat * 16)) (spanBytes op.fa (n / 2)) 1 0,
       span (op.m + BitVec.ofNat 64 (r * mb)) mb 1 0])
  | .mloop o =>
    let q := o.qset.toNat
    let k := o.steps.toNat
    (match o.df with
    | .ip => (List.range k).map (fun i => span (pitched op.a o.ainc i) (spanBytes op.fa len) 0 i)
    | .op => (List.range (rowsOf q)).map (fun i => span (pitched op.a o.ainc i) (spanBytes op.fa k) 0 0)
        ++ (List.range (colsOf q)).map (fun i => span (pitched op.b o.binc i) (spanBytes op.fb k) 0 0)
    | .rw => (List.range k).flatMap (fun i =>
        [span (op.m + BitVec.ofNat 64 (2 * rowsOf q * i)) (2 * rowsOf q) 0 i,
         span (pitched op.a o.ainc i) (spanBytes op.fa (rowsOf q)) 0 i]) ++ [span op.b 1 0 0])
      ++ (if o.sout then (List.range (rowsOf q)).map (fun r =>
        span (op.o + BitVec.ofNat 64 (r * (8 + 8 * colsOf q))) 8 1 (k - 1)) else [])
  | .mlds o | .mldsBar o _ => (List.range (colsOf o.qset.toNat)).map (fun n =>
      span (op.b + BitVec.ofNat 64 (n * o.pitch.toNat * 16)) (spanBytes op.fb (depthOf o.qset.toNat)) 0 0)
  | _ => []) ++
  (match i with
  | .mldsBar _ _ => [span op.o 16 0 0]
  | _ => []) ++
  ((op.fa.elim [] FmtBlk.arrays ++ op.fb.elim [] FmtBlk.arrays).map (fun a => span a 1 0 0))

/-- The top byte of an address names no space (R212). -/
def badTop (a : DWord) : Bool := !([0x00, 0xFD, 0xFE].contains (a >>> 56).toNat)

/-- A memory fault that the core finds at issue: kind, address, access, position, and how many rows fault (R334). -/
structure MatFault where
  kind : MemKind
  va   : Nat
  acc  : Nat
  pos  : Nat
  rows : Nat
deriving DecidableEq, Repr

/-- What the checks at issue find: a trap, a memory fault found at the core, a poisoned format block, or
the operation that enters the queues. -/
inductive MatCheck where
  | trap (t : Trap) | mem (f : MatFault) | poison (va : Nat) | ok (op : MatOp)
deriving DecidableEq, Repr

/-- A memory fault of a matrix instruction that the core finds (R212, R229, R235): the first of those at the lowest
position (log entry 76). -/
def State.matMem (s : State) (g : Nat) (i : Instr) (op : MatOp) (len : Nat) (a b : BlkRead) : Option MatFault :=
  let bad := (matSpans i op len).filterMap (fun x => match s.space g true x.ea x.n with
    | .bad k => some (k, x)
    | _ => none)
  match leastBy (fun x => x.2.pos) bad, a, b with
  | some (k, x), _, _ =>
    some { kind := k, va := x.ea.toNat, acc := x.acc, pos := x.pos, rows := if drainsRows i then bad.length else 1 }
  | none, .beyond off, _ | none, _, .beyond off =>
    some { kind := .bound, va := spadAddr off, acc := 0, pos := 0, rows := 1 }
  | none, _, _ => none

/-- THE CHECKS AT ISSUE from ALIGN on (R51, R212). -/
def State.matCheck (s : State) (g : Nat) (i : Instr) (op : MatOp) : MatCheck :=
  let gr := s.group g
  let (a, b) := (gr.readBlk (matBlks i).1, gr.readBlk (matBlks i).2)
  let op := { op with fa := a.get, fb := b.get }
  let len := gr.issueLen (qsetOf i)
  match (matAligns i op).filter (fun x => x.1.toNat % x.2 != 0) with
  | x :: xs =>
    .trap { cause := .align, code := 0
            addr := xs.foldl (fun m y => if y.1.toNat < m.toNat then y.1 else m) x.1 }
  | [] =>
    match (matSpans i op len).findSome? (fun x => match s.space g true x.ea x.n with
      | .cpeer o => some o
      | _ => none) with
    | some o => .trap { cause := .cpeer, addr := BitVec.ofNat 64 o, code := 0 }
    | none =>
      if s.matIllegal g i op a b then .trap (plainTrap .illegal)
      else match s.matMem g i op len a b, a, b with
        | some f, _, _ => .mem f
        | none, .poisoned off, _ | none, _, .poisoned off => .poison (spadAddr off)
        | none, _, _ => .ok op

/-! ### Entry into the queues -/

/-- No loop has run. -/
def noLoop : LoopSt :=
  { step := 0, begun := false, cells := [], touched := [], flags := 0, stitch := false, poison := false }

/-- An operation enters the queue of each quadrant of its set (R212, R228). -/
def State.enqueue (s : State) (g : Nat) (qs : List Nat) (e : QEnt) : State :=
  s.modGroup g (fun m => { m with quads := m.quads.map (fun x =>
    if qs.contains x.1 then (x.1, { x.2 with queue := x.2.queue ++ [e] }) else x) })

/-- What issue itself changes: the fusion state as issued (R210) and the tracked formats (R221). -/
def State.trackIssue (s : State) (g : Nat) (op : MatOp) : State :=
  let qs := quadsOf (qsetOf op.instr)
  let mod (f : Quad → Quad) (s : State) : State := s.modGroup g (fun m =>
    { m with quads := m.quads.map (fun x => if qs.contains x.1 then (x.1, f x.2) else x) })
  match op.instr with
  | .mfuse q => s.modGroup g (fun m => { m with fuseI := fuseWith q.toNat m.fuseI })
  | .mlds _ | .mldsBar _ _ => mod (fun q => { q with trackS := op.fb }) s
  | .mswap _ => mod (fun q => { q with trackA := q.trackS, trackS := q.trackA }) s
  | _ => s

/-- A queue of the set is full, so that the issue stalls (R213). -/
def Group.queueFull (g : Group) (qs : List Nat) : Bool :=
  g.quads.any (fun e => qs.contains e.1 && decide (16 ≤ e.2.queue.length))

/-- A forked matrix program that has not reached its `rdv` runs on a quadrant of the set (R213). -/
def Group.programOn (g : Group) (qs : List Nat) : Bool :=
  g.engines.any (fun e => decide (8 ≤ e.1) && e.2.running && !e.2.rdv &&
    (quadsOf e.2.qset).any (fun q => qs.contains q))

/-- An operation is issued: its entries, what issue changes. -/
def State.issueOp (s : State) (g : Nat) (who : Issuer) (op : MatOp) : State :=
  let e : QEnt := { id := op.no, issuer := who, op := op, qset := qsetOf op.instr, started := false, asked := false,
                    granted := false, loop := noLoop }
  (s.enqueue g op.quads e).trackIssue g op

/-- The operation of an instruction with the addresses it names. -/
def matOpOf (i : Instr) (vals : List DWord) : MatOp :=
  { instr := i, a := opAt vals 0, b := opAt vals 1, m := opAt vals 2, o := opAt vals 3, fa := none, fb := none, no := 0
    quads := [], fam := 0, pc := 0, word := 0, seq := 0 }

/-! ### Issue by a team -/

/-- The counter of a matrix instruction (R214). -/
def matCtr (i : Instr) : Ctr :=
  match i with
  | .mread _ | .mstat _ _ => .ld
  | _ => .st

/-- The trap of a matrix instruction by its registers (R51, R211, R233, R234), and QUAD. -/
def State.matCause (s : State) (t : Team) (i : Instr) : Option Cause :=
  let rs := (matRegs i).filterMap (fun r => r.map (fun n => ((n.setWidth 8 : Reg), 2)))
  let ds := (matDst i).elim [] (fun d => [d])
  let lane : Bool := match i with
    | .mread _ => true
    | _ => false
  firstCause
    [(s.anyNone t (rs ++ ds), .undecl),
     (t.anyPend (rs ++ ds), .unwaited),
     (s.anyApart t (rs ++ ds) || (rs ++ ds).any (fun r => (s.locOf t r.1).remote), .place),
     (rs.any (fun r => s.locOf t r.1 == .lane) || (lane && ds.any (fun r => s.locOf t r.1 == .team)), .shape),
     ((s.group t.group).quadBad i, .quad)]

/-- The values of address registers at TEAM. -/
def State.matVals (s : State) (t : Team) : List (Option (BitVec 4)) → List DWord × State
  | [] => ([], s)
  | none :: rs => let (vs, s) := s.matVals t rs; (0 :: vs, s)
  | some r :: rs =>
    let (v, s) := s.readPair t (r.setWidth 8)
    let (vs, s) := s.matVals t rs
    (v :: vs, s)

/-- The lanes of a matrix packet: the rows of an `mdrain` (R216), the lanes that an `mread` or an
`mstat` writes, or one. -/
def matLanes (t : Team) (i : Instr) : List PLane :=
  match i with
  | .mdrain _ => (List.range 32).map (fun m => pLane m [] 0)
  | .mread _ | .mstat _ _ => t.current.map (fun l => pLane l.vid [] 0)
  | _ => [pLane 0 [] 0]

/-- A team issues a matrix instruction (R212 to R214). -/
def State.teamMat (s : State) (t : Team) (i : Instr) : State :=
  let qs := matQuads i (s.group t.group).fuseI
  if (s.group t.group).programOn qs then s.stallOn t.ctx (.quads qs)
  else match s.matCause t i with
  | some c => s.takeTrap t.ctx 2 (plainTrap c)
  | none =>
    let (vals, s) := s.matVals t (matRegs i)
    match s.matCheck t.group i (matOpOf i vals) with
    | .trap tr => s.takeTrap t.ctx 2 tr
    | .mem f => s.coreFaultRec t { s.teamRecord t 0 with
        kind := f.kind.code, va := f.va, acc := f.acc, pos := f.pos, fcount := f.rows, fsum := if ownPos i then 0 else 1 }
    | .poison va => s.consume t t.pc t.word va
    | .ok op =>
      if (s.group t.group).queueFull qs then s.stallOn t.ctx (.quads qs)
      else if t.full (matCtr i) then s.stallAt t.ctx (matCtr i)
      else
        let (no, s) := s.fresh
        let op := { op with no := no, quads := qs, fam := t.fam, pc := t.pc, word := t.word, seq := t.seq }
        let pk := { t.packet i .core (matCtr i) true (matLanes t i) [] with mat := some op }
        (s.issueOp t.group (.team t.ctx t.seq t.gen) op).issuePacket t.ctx 2 pk
          ((matDst i).elim [] (fun d => regNums d.1 d.2)) [] []

/-! ### Issue by an engine program -/

/-- An engine program's poisoned read kills the launched team that forked it (R354). -/
def State.killEngine (s : State) (g k : Nat) (va : Nat) : State :=
  let e := s.engine g k
  match s.famTeams e.fam with
  | t :: _ => s.consume t e.pc e.word va
  | [] => s

/-- An engine program issues a matrix instruction (R211 to R213, R238). -/
def State.engineMat (s : State) (g k : Nat) (i : Instr) : State :=
  let e := s.engine g k
  let gr := s.group g
  let vals := (matRegs i).map (fun r => r.elim 0 (fun n => e.val (n.setWidth 8) 2))
  let allowed := quadsOf e.qset
  if gr.quadBad i || (quadsOf (qsetOf i)).any (fun q => !allowed.contains q)
      || (matDst i).elim false (fun d => !engReg d.1 d.2 || decide (d.1 = Reg.z)) then s.engineStop g k
  else match s.matCheck g i (matOpOf i vals) with
    | .trap _ => s.engineStop g k
    | .mem f => s.parkEngine g k { s.engineHere g k (ownPos i) with
        kind := f.kind.code, va := f.va, acc := f.acc, pos := f.pos, fcount := f.rows }
    | .poison va => s.killEngine g k va
    | .ok op =>
      let qs := matQuads i gr.fuseI
      if gr.queueFull qs || decide (63 ≤ e.out) then s
      else
        let (no, s) := s.fresh
        let s := s.issueOp g (.engine g k)
          { op with no := no, quads := qs, fam := e.fam, pc := e.pc, word := e.word, seq := e.seq }
        s.setEngine g k { (s.engine g k).advance 2 with out := e.out + 1, seq := e.seq + 1 }

/-- A matrix instruction of the agent whose turn it is. -/
def State.issueMat (s : State) (i : Instr) : State :=
  s.unlessHeld (fun s => s.byAgent i (fun s t => s.teamMat t i) (fun s g k => s.engineMat g k i))

/-- MLDS (R229). -/
def execMlds (o : MldsOps) (s : State) : Host.Outcome State Fault Refusal := .next (s.issueMat (.mlds o))

/-- MLDS_BAR (R229). -/
def execMldsBar (o : MldsOps) (b : BarOps) (s : State) : Host.Outcome State Fault Refusal :=
  .next (s.issueMat (.mldsBar o b))

/-- MSWAP (R228). -/
def execMswap (q : BitVec 4) (s : State) : Host.Outcome State Fault Refusal := .next (s.issueMat (.mswap q))

/-- MLOOP (R230). -/
def execMloop (o : MloopOps) (s : State) : Host.Outcome State Fault Refusal := .next (s.issueMat (.mloop o))

/-- MDRAIN (R231). -/
def execMdrain (o : MdrainOps) (s : State) : Host.Outcome State Fault Refusal := .next (s.issueMat (.mdrain o))

/-- MZERO (R228). -/
def execMzero (o : MzeroOps) (s : State) : Host.Outcome State Fault Refusal := .next (s.issueMat (.mzero o))

/-- MCOMP (R232). -/
def execMcomp (o : McompOps) (s : State) : Host.Outcome State Fault Refusal := .next (s.issueMat (.mcomp o))

/-- MFUSE (R228). -/
def execMfuse (q : BitVec 4) (s : State) : Host.Outcome State Fault Refusal := .next (s.issueMat (.mfuse q))

/-- MREAD (R233). -/
def execMread (o : MreadOps) (s : State) : Host.Outcome State Fault Refusal := .next (s.issueMat (.mread o))

/-- MSTAT (R234). -/
def execMstat (q : BitVec 4) (d : Reg) (s : State) : Host.Outcome State Fault Refusal :=
  .next (s.issueMat (.mstat q d))

end Sys2Proof.Machine
end

