-- ==== Sys2Proof/Machine/MatMem.lean ====
section
/-! DEFINITION. What the sequencers of the quadrants and the Lace engines read and write (08 R215,
R217, R219, R231; 10 R264; 19 R353): bytes at an effective address, poison, vectors. -/

namespace Sys2Proof.Machine

/-- What a read of bytes finds: the bytes, and whether some were poisoned; or a fault with its
address. -/
inductive MRd where
  | ok (bs : List Byte) (poison : Bool) | fault (k : MemKind) (level : Nat) (ea : DWord)
deriving DecidableEq, Repr

/-- Bytes of two places that overlap. -/
def Where.meets (a : Where) (n : Nat) (b : Where) (k : Nat) : Bool :=
  match a, b with
  | .virt x, .virt y => decide (x < y + k) && decide (y < x + n)
  | .spad g x, .spad h y => g == h && decide (x < y + k) && decide (y < x + n)
  | _, _ => false

/-- An access for a matrix instruction waits (R215, R281): an older access of its team from the core touches the same
bytes and one of the two writes, an older acquire has not been performed, or what an older instruction will access is
not known yet. -/
def State.behind (s : State) (w : Who) (g : Nat) (write : Bool) (ea : DWord) (n : Nat) : Bool :=
  w.after.any (fun q => s.reqs.any (fun r =>
    r.ctx == w.ctx && !r.orphan && r.ofCore && !r.isFew && laterSeq q r.seq
      && (s.team? w.ctx).any (fun t => t.gen == r.gen)
      && (match memOf r.instr, r.op with
        | some m, .access => m.acquires || ((m.changes || write) &&
            (s.reqPlaces r m).any (fun p => p.meets m.size (s.space g true ea n) n))
        | _, _ => true)))

/-- Bytes of one piece: within a sector of virtual memory, through the tile path (R215). -/
def State.matRead1 (s : State) (w : Who) (g : Nat) (ea : DWord) (n : Nat) : MRd × State :=
  if s.behind w g false ea n then (.ok (List.replicate n 0) false, s.hold)
  else match s.space g true ea n with
  | .virt va =>
    (match s.pathRead w true va n with
    | (.data b, s) => (.ok b false, s)
    | (.fault k lv, s) => (.fault k lv ea, s)
    | (.poison, s) => (.ok (List.replicate n 0) true, s))
  | .spad h off => (.ok ((s.group h).spadRead off n) ((s.group h).poisoned off n), s)
  | .bad k => (.fault k 7 ea, s)
  | .cpeer _ => (.fault .bound 7 ea, s)

/-- The bytes of a piece that lie in the sector of its address. -/
def inPiece (ea : DWord) (n : Nat) : Nat := min n (128 - ea.toNat % 128)

/-- Read piece by piece. -/
def State.matReadFuel (s : State) (w : Who) (g : Nat) : Nat → DWord → Nat → MRd × State
  | 0, _, _ => (.ok [] false, s)
  | fuel + 1, ea, n =>
    if n = 0 then (.ok [] false, s)
    else
      let k := inPiece ea n
      match s.matRead1 w g ea k with
      | (.fault kd lv a, s) => (.fault kd lv a, s)
      | (.ok b p, s) =>
        (match s.matReadFuel w g fuel (ea + BitVec.ofNat 64 k) (n - k) with
        | (.ok c q, s) => (.ok (b ++ c) (p || q), s)
        | r => r)

/-- Read `n` bytes at an effective address. -/
def State.matRead (s : State) (w : Who) (g : Nat) (ea : DWord) (n : Nat) : MRd × State :=
  s.matReadFuel w g (n / 128 + 2) ea n

/-- An update of one piece at its home or its scratchpad, indivisible (R231): `f` gives from the bytes
there those that are written, with flags. `whole` says that the old bytes do not matter, so that a write
of every byte of a sector or granule clears its poison (R353). -/
def State.matWrite1 (s : State) (w : Who) (g : Nat) (whole : Bool) (ea : DWord) (n : Nat)
    (f : List Byte → List Byte × Flags) : Except (MemKind × Nat × DWord) Flags × State :=
  if s.behind w g true ea n then (.ok 0, s.hold)
  else match s.space g true ea n with
  | .virt va =>
    let off := va % 128
    let upd (b : List Byte) : Tbl Byte × Flags :=
      let (out, fl) := f ((b.drop off).take n)
      (bytesAt off out, fl)
    (match s.atHomeGen whole w va (if whole then 1 else 2) upd with
    | (.error e, s) => (.error (e.1, e.2, ea), s)
    | (.ok r, s) => (.ok (r.getD 0), s))
  | .spad h off =>
    let k := s.group h
    let (out, fl) := f (k.spadRead off n)
    let k' := k.spadWrite off out
    (.ok fl, s.setGroup h (if whole then k' else { k' with bad := k.bad }))
  | .bad k => (.error (k, 7, ea), s)
  | .cpeer _ => (.error (.bound, 7, ea), s)

/-- Write bytes piece by piece. -/
def State.matWriteFuel (s : State) (w : Who) (g : Nat) :
    Nat → DWord → List Byte → Except (MemKind × Nat × DWord) Flags × State
  | 0, _, _ => (.ok 0, s)
  | fuel + 1, ea, bs =>
    if bs.isEmpty then (.ok 0, s)
    else
      let k := inPiece ea bs.length
      match s.matWrite1 w g true ea k (fun _ => (bs.take k, 0)) with
      | (.error e, s) => (.error e, s)
      | (.ok _, s) => s.matWriteFuel w g fuel (ea + BitVec.ofNat 64 k) (bs.drop k)

/-- Write bytes at an effective address. -/
def State.matWrite (s : State) (w : Who) (g : Nat) (ea : DWord) (bs : List Byte) :
    Except (MemKind × Nat × DWord) Flags × State :=
  s.matWriteFuel w g (bs.length / 128 + 2) ea bs

/-- The granules or the sector of a piece become poisoned (R353). -/
def State.poison1 (s : State) (w : Who) (g : Nat) (ea : DWord) (n : Nat) : State :=
  match s.space g true ea n with
  | .virt va =>
    (match s.askHome w va 1 with
    | (.ok h, s) => if outside h.pa then s else (s.soilHome w va h wholeSec).poison h.pa
    | (.error _, s) => s)
  | .spad h off =>
    let gs := (List.range (off % 16 + n + 15)).filterMap (fun i =>
      if 16 * i < off % 16 + n then some (off / 16 + i) else none)
    s.modGroup h (fun k => { k with bad := gs.foldl (fun l x => insertNat x l) k.bad })
  | _ => s

/-- Poison piece by piece. -/
def State.poisonEa (s : State) (w : Who) (g : Nat) : Nat → DWord → Nat → State
  | 0, _, _ => s
  | fuel + 1, ea, n =>
    if n = 0 then s
    else
      let k := inPiece ea n
      (s.poison1 w g ea k).poisonEa w g fuel (ea + BitVec.ofNat 64 k) (n - k)

/-- Several reads, in order, until one faults. -/
def State.matReads (s : State) (w : Who) (g : Nat) : List (DWord × Nat) → Except (MemKind × Nat × DWord) (List (List Byte × Bool)) × State
  | [] => (.ok [], s)
  | (ea, n) :: rest =>
    match s.matRead w g ea n with
    | (.fault k lv a, s) => (.error (k, lv, a), s)
    | (.ok b p, s) =>
      (match s.matReads w g rest with
      | (.ok l, s) => (.ok ((b, p) :: l), s)
      | (.error e, s) => (.error e, s))

/-! ### Vectors (R219) -/

/-- The reads of vector `i` of a format block: `kept` elements at `ea`, logical length `len`; its scale
bytes, its extension bytes, its metadata. -/
def FmtBlk.vecReads (f : FmtBlk) (ea : DWord) (i kept len : Nat) : List (DWord × Nat) :=
  let b := f.blocks len
  let mb := metaBytes f.sparse.toNat len
  [(ea, f.fmt.bytesFor kept),
   (f.scale + BitVec.ofNat 64 (i * b), if f.skind then b else 0),
   (f.ext + BitVec.ofNat 64 (i * b), if f.fmt = .ox4 then b else 0),
   (f.meta_ + BitVec.ofNat 64 (i * mb), mb)]

/-- The vector in the bytes of such reads. -/
def FmtBlk.vecOf (f : FmtBlk) (kept : Nat) (bs : List (List Byte)) : PVec :=
  { elems := splitElems f.fmt.bits (bs.getD 0 []) kept, scales := bs.getD 1 [], exts := bs.getD 2 []
    metas := bs.getD 3 [] }

/-- Read a vector. -/
def State.readVec (s : State) (w : Who) (g : Nat) (f : FmtBlk) (ea : DWord) (i kept len : Nat) :
    Except (MemKind × Nat × DWord) (PVec × Bool) × State :=
  match s.matReads w g (f.vecReads ea i kept len) with
  | (.error e, s) => (.error e, s)
  | (.ok l, s) => (.ok (f.vecOf kept (l.map (fun x => x.1)), l.any (fun x => x.2)), s)

/-- The reads of element `k` of a vector of `len` elements (R219): the bytes that hold it, or the block
of 32 of OX4, with its scale and extension byte. -/
def FmtBlk.elemReads (f : FmtBlk) (ea : DWord) (i k len : Nat) : List (DWord × Nat) :=
  let b := f.blocks len
  let c := k / max (f.blockLen len) 1
  let (at_, n) : Nat × Nat :=
    if f.fmt = .ox4 then (16 * (k / 32), 16) else (k * f.fmt.bits / 8, max 1 (f.fmt.bits / 8))
  [(ea + BitVec.ofNat 64 at_, n),
   (f.scale + BitVec.ofNat 64 (i * b + c), if f.skind then 1 else 0),
   (f.ext + BitVec.ofNat 64 (i * b + c), if f.fmt = .ox4 then 1 else 0)]

/-- The element in the bytes of such reads. -/
def FmtBlk.elemOf (f : FmtBlk) (k : Nat) (bs : List (List Byte)) : MVal :=
  let raw := bs.getD 0 []
  let sc := ((bs.getD 1 []).headD 0).toNat
  let nib (v : Nat) : Nat := if k % 2 = 0 then v % 16 else v / 16 % 16
  if f.fmt = .ox4 then
    .real ((decodeOx4 (raw.map (fun b => b.toNat)) (((bs.getD 2 []).headD 0).toNat) sc).getD (k % 32) (.fin false 0 0))
  else if f.fmt.isInt then
    .int (valOf f.fmt.bits true (if f.fmt.bits = 4 then nib (leNat raw) else leNat raw))
  else
    let v := f.fmt.ff.val (leNat raw)
    .real (if f.skind then scaled v (scaleExp sc) else v)

/-- Read an element. -/
def State.readElem (s : State) (w : Who) (g : Nat) (f : FmtBlk) (ea : DWord) (i k len : Nat) :
    Except (MemKind × Nat × DWord) (MVal × Bool) × State :=
  match s.matReads w g (f.elemReads ea i k len) with
  | (.error e, s) => (.error e, s)
  | (.ok l, s) => (.ok (f.elemOf k (l.map (fun x => x.1)), l.any (fun x => x.2)), s)

/-- Several reads, in order, until one faults. -/
def State.eachRead {α β : Type} (f : State → α → Except (MemKind × Nat × DWord) β × State) :
    State → List α → Except (MemKind × Nat × DWord) (List β) × State
  | s, [] => (.ok [], s)
  | s, x :: xs =>
    match f s x with
    | (.error e, s) => (.error e, s)
    | (.ok b, s) =>
      (match State.eachRead f s xs with
      | (.ok bs, s) => (.ok (b :: bs), s)
      | (.error e, s) => (.error e, s))

end Sys2Proof.Machine
end

