-- ==== Sys2Proof/Machine/MatRun.lean ====
section
/-! DEFINITION. The quadrants at work (08 R213, R216, R220 to R235; 20 R365): start of an instruction,
leave, the steps of a loop with their Stitch check, and completion. -/

namespace Sys2Proof.Machine

/-- A quadrant of a group. -/
def Group.quad (g : Group) (q : Nat) : Quad := Tbl.get (resetQuad q 0) g.quads q

/-- Change a quadrant. -/
def State.modQuad (s : State) (g q : Nat) (f : Quad → Quad) : State :=
  s.modGroup g (fun m => { m with quads := m.quads.map (fun e => if e.1 = q then (e.1, f e.2) else e) })

/-- Change an entry in every quadrant where it stands. -/
def State.modEnt (s : State) (g id : Nat) (f : QEnt → QEnt) : State :=
  s.modGroup g (fun m => { m with quads := m.quads.map (fun e =>
    (e.1, { e.2 with queue := e.2.queue.map (fun x => if x.id = id then f x else x) })) })

/-- Change an entry in one quadrant. -/
def State.modEntAt (s : State) (g q id : Nat) (f : QEnt → QEnt) : State :=
  s.modQuad g q (fun k => { k with queue := k.queue.map (fun x => if x.id = id then f x else x) })

/-- The entry of an operation in a quadrant. -/
def Quad.ent? (q : Quad) (id : Nat) : Option QEnt := q.queue.find? (fun e => e.id == id)

/-- The quadrants in whose queues an operation stands. -/
def Group.quadsWith (g : Group) (id : Nat) : List Nat :=
  (g.quads.filter (fun e => e.2.queue.any (fun x => x.id == id))).map (fun e => e.1)

/-- An entry leaves every queue. -/
def State.dropEnt (s : State) (g id : Nat) : State :=
  s.modGroup g (fun m => { m with quads := m.quads.map (fun e =>
    (e.1, { e.2 with queue := e.2.queue.filter (fun x => x.id != id) })) })

/-- The coolant zone of a core: 16 cores of one die (R363). -/
def zoneOf (core : Nat) : Nat := core / 16

/-! ### Who issued -/

/-- The packet of an entry that a team issued. -/
def State.entPacket (s : State) (e : QEnt) : Option (Team × Packet) :=
  match e.issuer with
  | .team ctx seq _ => (s.team? ctx).bind (fun t => (t.pk? seq).map (fun p => (t, p)))
  | .engine _ _ => none

/-- For whom an engine program of a launched team works. -/
def State.engineWho (s : State) (g fam : Nat) (pc : DWord) (word : Nat) : Who :=
  let m := s.group g
  { coreWho m.core m.vd with incarn := m.incarn, ctx := (s.fam fam).ctx, pc := pc.toNat, word := word }

/-- For whom an entry works. -/
def State.entWho (s : State) (e : QEnt) : Who :=
  match e.issuer with
  | .engine g _ =>
    s.engineWho g e.op.fam e.op.pc e.op.word
  | .team ctx _ _ =>
    match s.entPacket e with
    | some (t, p) => { s.whoOf t p.pc p.word with after := some p.seq }
    | none => { coreWho 0 0 with ctx := ctx }

/-- The launched team of an entry. -/
def State.entFam (s : State) (e : QEnt) : Nat :=
  match e.issuer with
  | .engine _ _ => e.op.fam
  | .team ctx _ _ => (s.team? ctx).elim 0 (fun t => t.fam)

/-- A team of the launched team is halted (R240). -/
def State.famHalted (s : State) (f : Nat) : Bool := (s.famTeams f).any (fun t =>
  t.parked == .fault || t.parked == .halted)

/-- An entry does not go on: its instruction waits for the service of a fault (R216, R240), or its
launched team is halted. -/
def State.entHeld (s : State) (e : QEnt) : Bool :=
  match e.issuer with
  | .engine g k => (s.engine g k).parked || s.famHalted e.op.fam
  | .team _ _ _ => (s.entPacket e).elim true (fun x => x.2.lanes.any (fun l => l.fault.isSome))

/-- A fault of an entry (R216): recorded in the packet at a position, or parking the engine program; an `mdrain` counts
its rows. -/
def State.entFault (s : State) (g : Nat) (e : QEnt) (pos rows : Nat) (f : MFault) : State :=
  let s := s.modEnt g e.id (fun x => { x with started := false })
  match e.issuer with
  | .engine g k =>
    s.parkEngine g k { s.engineRecord g k (ownPos e.op.instr) e.op.fam e.op.pc e.op.word e.op.seq with
      kind := f.kind.code, level := f.level.toNat, va := f.va.toNat, acc := f.acc.toNat, pos := pos, fcount := rows }
  | .team ctx seq _ =>
    let hit (p : Packet) : Packet := { p with lanes := p.lanes.map (fun l => { l with vid := pos, fault := some f }) }
    s.modTeam ctx (fun t => t.modPk seq hit)

/-- A fault as MFault. -/
def mfault (k : MemKind × Nat × DWord) (acc : Nat) : MFault :=
  { kind := k.1, level := BitVec.ofNat 3 k.2.1, va := k.2.2, acc := BitVec.ofNat 2 acc }

/-- The issuing team is killed (R24, R226, R227). -/
def State.killEnt (s : State) (e : QEnt) (code : KillCode) : State := s.kill (s.entFam e) code

/-! ### Starting (R213, R225, R227) -/

/-- An `mlds`. -/
def isLds : Instr → Bool
  | .mlds _ | .mldsBar _ _ => true
  | _ => false

/-- What an `mlds` waits for. -/
def holdsLds : Instr → Bool
  | .mlds _ | .mldsBar _ _ | .mswap _ | .mfuse _ | .mdrain _ | .mcomp _ => true
  | _ => false

/-- An entry may start as far as a quadrant is concerned: by its place in the queue, which has room for 16; no loop that a
halt has stopped in the quadrant is another instruction's (R207, R213, R216). -/
def Quad.mayStart (q : Quad) (e : QEnt) : Bool :=
  let before := q.queue.takeWhile (fun x => x.id != e.id)
  decide (before.length < 16) && (if isLds e.op.instr then before.all (fun x => !holdsLds x.op.instr) else before.isEmpty)
  && q.held.all (fun h => e.issuer.seq? h.1 == some h.2.1)

/-- An entry of a quadrant that has not started and may (R213). -/
def State.startable (s : State) (g q : Nat) : Option QEnt :=
  let m := s.group g
  (m.quad q).queue.find? (fun e => !e.started && !s.entHeld e && s.barReady g e &&
    (m.quadsWith e.id).all (fun k => (m.quad k).mayStart e))

/-- The tile that an instruction reads is poisoned (R227). -/
def Group.readsPoison (g : Group) (e : QEnt) : Bool :=
  match e.op.instr with
  | .mread o => (g.quad o.qset.toNat).isPoisoned o.acc.toNat o.w64
  | .mdrain o => (g.quad o.qset.toNat).isPoisoned o.acc.toNat (o.ikind == .f64)
  | .mloop o =>
    let wide := e.op.fa.elim false (fun f => f.fmt == .f64)
    let qs := quadsOf o.qset.toNat
    let out := if o.df = .ip ∧ isTall o.qset.toNat then qs.drop (qs.length / 2) else qs
    (!o.ovw && !o.sout && out.any (fun q => (g.quad q).isPoisoned o.acc.toNat wide))
      || (o.df == .ip && qs.any (fun q => (g.quad q).active.poison))
  | _ => false

/-- The effects that an instruction has as it starts (R228); the wait of an `mlds.bar` that is over acquires (R229). -/
def State.startEffect (s : State) (g : Nat) (e : QEnt) : State :=
  let each (qs : List Nat) (f : Quad → Quad) : State := qs.foldl (fun s q => s.modQuad g q f) s
  match e.op.instr with
  | .mfuse q =>
    let shapes := fuseWith q.toNat (s.group g).fuse
    s.modGroup g (fun m => { m with
      fuse := shapes
      quads := m.quads.map (fun x => (x.1, { x.2 with
        shape := ((shapes.find? (fun sh => (quadsOf sh).contains x.1)).getD x.1) })) })
  | .mswap q => each (quadsOf q.toNat) (fun k => { k with active := k.shadow, shadow := k.active })
  | .mzero o => each (quadsOf o.qset.toNat) (fun k =>
      if o.all then { k with tiles := [] } else k.setTile o.acc.toNat resetTile)
  | .mldsBar _ _ => (match s.entPacket e with
      | some (t, p) => s.syncRegions t.ctx .core (p.runs t) false true
      | none => s)
  | _ => s

/-- A loop asks the governor of the core's zone for leave (R225, R365). -/
def State.askLeave (s : State) (g : Nat) (e : QEnt) (o : MloopOps) : State :=
  let m := s.group g
  let z := zoneOf m.core
  let qs := quadsOf o.qset.toNat
  let ask : Leave := { who := .loop g qs e.id, vd := m.vd, cls := (s.vd m.vd).cls.toNat,
                       power := (Tbl.get 0 s.coolant.clspwr o.lclass.toNat).toNat * qs.length, time := s.clock }
  s.setZone z { s.zone z with waiting := (s.zone z).waiting ++ [ask] }

/-- QUADRANT_START (R213): an entry that may start does; an `mloop` asks for leave. -/
def execQuadrantStart (g q : Nat) (s : State) : Host.Outcome State Fault Refusal :=
  .next (s.unlessHeld (fun s => match s.startable g q with
    | none => s
    | some e =>
      match e.op.instr with
      | .mloop o =>
        (s.modEnt g e.id (fun x => { x with started := true, asked := true })).askLeave g e o
      | _ =>
        if (s.group g).readsPoison e then s.killEnt e .poison
        else (s.modEnt g e.id (fun x => { x with started := true })).startEffect g e))

/-! ### The steps of a loop -/

/-- The zero of an accumulator's operands. -/
def MFmt.zero (f : MFmt) : MVal := if f.isInt then .int 0 else .real (.fin false 0 0)

/-- The products of one plane column with a part of an A row, in ascending logical k (R90, R224): 32
positions, or the kept ones of 64. A plane of no format holds +0. -/
def planePairs (a : MFmt) (p : Plane) (n : Nat) (as : List MVal) : List (MVal × MVal) :=
  match p.fmt with
  | none => (as.take 32).map (fun x => (x, a.zero))
  | some f =>
    let v := Tbl.get { elems := [], scales := [], exts := [], metas := [] : PVec } p.cols n
    if f.sparse = 0 then (as.take 32).zip (f.mvals v 32)
    else (f.keptVals v 32).map (fun x => (as.getD x.1 a.zero, x.2))

/-- Logical positions that a plane covers. -/
def Plane.span (p : Plane) : Nat := if p.fmt.elim false (fun f => f.sparse != 0) then 64 else 32

/-- The quadrants of output column `n` in an inner-product loop, upper first (R209). -/
def ipColumn (sh n : Nat) : List Nat :=
  if isTall sh then [quadAt sh 0 n, quadAt sh 32 n] else [quadAt sh 0 n]

/-- The products of output column `n`: through the upper quadrant, then the lower. -/
def Group.ipPairs (g : Group) (a : MFmt) (n : Nat) : List Nat → List MVal → List (MVal × MVal)
  | [], _ => []
  | q :: qs, as =>
    let p := (g.quad q).active
    planePairs a p (n % 32) as ++ g.ipPairs a n qs (as.drop p.span)

/-- Logical length of the A rows that a shape's planes take. -/
def Group.ipLen (g : Group) (sh : Nat) : Nat :=
  ((List.range (colsOf sh / 32)).map (fun c =>
    (ipColumn sh (32 * c)).foldl (fun a q => a + (g.quad q).active.span) 0)).foldl max 0

/-- A result joins the accumulator or replaces it (R90 to R92). -/
def Quad.accum (q : Quad) (k : AccKind') (o : MloopOps) (m n v : Nat) : Quad × Flags :=
  let wide := k == .f64
  let acc := o.acc.toNat
  if o.ovw then (q.setElem acc wide m n v, 0)
  else
    let (r, fl) := k.add (q.elem acc wide m n) v
    (q.setElem acc wide m n r, fl)

/-- Results of some elements go to the tiles: quadrant, row, column and value of each. -/
def State.accumAll (s : State) (g : Nat) (k : AccKind') (o : MloopOps) :
    List (Nat × Nat × Nat × Nat) → Flags × State
  | [] => (0, s)
  | (q, m, n, v) :: rest =>
    let (k', fl) := ((s.group g).quad q).accum k o m n v
    let (f2, s) := (s.modQuad g q (fun _ => k')).accumAll g k o rest
    (fl ||| f2, s)

/-- Poison the destination tile of a loop in some quadrants. -/
def State.poisonOut (s : State) (g : Nat) (o : MloopOps) (wide : Bool) (qs : List Nat) : State :=
  qs.foldl (fun s q => s.modQuad g q (fun k => k.poisonTile o.acc.toNat wide)) s

/-- The outcome of a step: a stream fault, or the flags it raises. -/
abbrev StepOut := Except (MemKind × Nat × DWord) Flags

/-- Step `k` of an inner-product loop (R221). -/
def State.stepIp (s : State) (g : Nat) (e : QEnt) (o : MloopOps) (fa : FmtBlk) (k : Nat) : StepOut × State :=
  let sh := o.qset.toNat
  let m := s.group g
  let len := m.ipLen sh
  let acc := fa.fmt.acc
  match s.readVec (s.entWho e) g fa (pitched e.op.a o.ainc k) k len len with
  | (.error x, s) => (.error x, s)
  | (.ok (v, bad), s) =>
    let as := fa.mvals v len
    let rs := (List.range (colsOf sh)).map (fun n =>
      let (r, fl) := acc.chain 0 0 (m.ipPairs fa.fmt n (ipColumn sh n) as)
      ((ipQuad sh n, k % 32, n % 32, r), fl))
    let fl := rs.foldl (fun a x => a ||| x.2) 0
    let (fl2, s) := s.accumAll g acc o (rs.map (fun x => x.1))
    let s := if bad then s.poisonOut g o (acc == .f64) ((List.range (colsOf sh / 32)).map (fun c => ipQuad sh (32 * c)))
      else s
    (.ok (fl ||| fl2), s)

/-- The value of a cell accumulator or merge buffer; +0 at first. -/
def QEnt.cell (e : QEnt) (m n : Nat) : Nat := (Tbl.get 0 e.loop.cells (64 * m + n)).toNat

/-- Products added to cells of a quadrant's entry: row and column, and the products in order. -/
def QEnt.addCells (e : QEnt) (k : AccKind') : List (Nat × Nat × List (MVal × MVal)) → QEnt
  | [] => e
  | (m, n, ps) :: rest =>
    let (v, fl) := k.chain (e.cell m n) 0 ps
    let l := e.loop
    ({ e with loop := { l with
        cells := Tbl.set l.cells (64 * m + n) (BitVec.ofNat 64 v), flags := l.flags ||| fl
        touched := insertNat (64 * m + n) l.touched } }).addCells k rest

/-- Products of a step by output row and column go to the cells of their quadrants. -/
def State.cellsStep (s : State) (g : Nat) (e : QEnt) (k : AccKind') (sh : Nat)
    (ps : List (Nat × Nat × MVal × MVal)) : State :=
  (quadsOf sh).foldl (fun s q =>
    let mine := (ps.filter (fun p => quadAt sh p.1 p.2.1 == q)).map (fun p => (p.1 % 32, p.2.1 % 32, [p.2.2]))
    s.modEntAt g q e.id (fun x => x.addCells k mine)) s

/-- Poison from streams: the quadrants in whose results it ends, or the mark of a sparse output. -/
def State.streamPoison (s : State) (g : Nat) (e : QEnt) (o : MloopOps) (wide : Bool) (qs : List Nat) : State :=
  if qs.isEmpty then s
  else if o.sout then s.modEnt g e.id (fun x => { x with loop := { x.loop with poison := true } })
  else s.poisonOut g o wide qs

/-- Step `k` of an outer-product loop (R222). -/
def State.stepOp (s : State) (g : Nat) (e : QEnt) (o : MloopOps) (fa fb : FmtBlk) (k : Nat) : StepOut × State :=
  let sh := o.qset.toNat
  let len := o.steps.toNat
  let w := s.entWho e
  match State.eachRead (fun s m => s.readElem w g fa (pitched e.op.a o.ainc m) m k len) s (List.range (rowsOf sh)) with
  | (.error x, s) => (.error x, s)
  | (.ok as, s) =>
    match State.eachRead (fun s n => s.readElem w g fb (pitched e.op.b o.binc n) n k len) s (List.range (colsOf sh)) with
    | (.error x, s) => (.error x, s)
    | (.ok bs, s) =>
      let rows := (List.range as.length).zip as
      let cols := (List.range bs.length).zip bs
      let ps := rows.flatMap (fun a => cols.map (fun b => (a.1, b.1, a.2.1, b.2.1)))
      let bad := (rows.flatMap (fun a => cols.filterMap (fun b =>
        if a.2.2 || b.2.2 then some (quadAt sh a.1 b.1) else none))).eraseDups
      let acc := fa.fmt.acc
      (.ok 0, (s.cellsStep g e acc sh ps).streamPoison g e o (acc == .f64) bad)

/-- One array row of a step of a row-wise loop: its value, its index, the B row. -/
def State.rwRow (s : State) (w : Who) (g : Nat) (e : QEnt) (o : MloopOps) (fa fb : FmtBlk) (k r : Nat) :
    Except (MemKind × Nat × DWord) (List (Nat × Nat × MVal × MVal) × Bool) × State :=
  let sh := o.qset.toNat
  let rows := rowsOf sh
  let n := colsOf sh
  match s.matRead w g (e.op.m + BitVec.ofNat 64 (2 * rows * k + 2 * r)) 2 with
  | (.fault kd lv a, s) => (.error (kd, lv, a), s)
  | (.ok ib ip, s) =>
    let idx := leNat ib
    match s.readElem w g fa (pitched e.op.a o.ainc k) 0 r rows with
    | (.error x, s) => (.error x, s)
    | (.ok (a, ap), s) =>
      if idx = 0xFFFF then (.ok ([], ip), s)
      else match s.readVec w g fb (pitched e.op.b o.binc idx) idx n n with
        | (.error x, s) => (.error x, s)
        | (.ok (v, bp), s) =>
          let bs := fb.mvals v n
          (.ok (((List.range n).zip bs).map (fun b => (r, b.1, a, b.2)), ip || ap || bp), s)

/-- Step `k` of a row-wise loop (R223). -/
def State.stepRw (s : State) (g : Nat) (e : QEnt) (o : MloopOps) (fa fb : FmtBlk) (k : Nat) : StepOut × State :=
  let sh := o.qset.toNat
  let w := s.entWho e
  match State.eachRead (fun s r => s.rwRow w g e o fa fb k r) s (List.range (rowsOf sh)) with
  | (.error x, s) => (.error x, s)
  | (.ok rs, s) =>
    let bad := (((List.range rs.length).zip rs).filter (fun x => x.2.2)).flatMap (fun x =>
      (List.range (colsOf sh / 32)).map (fun c => quadAt sh x.1 (32 * c)))
    let acc := fa.fmt.acc
    (.ok 0, (s.cellsStep g e acc sh (rs.flatMap (fun x => x.1))).streamPoison g e o (acc == .f64) bad.eraseDups)

/-- One step of a loop (R220). -/
def State.stepLoop (s : State) (g : Nat) (e : QEnt) (o : MloopOps) : StepOut × State :=
  match e.op.fa, e.op.fb, o.df with
  | some fa, _, .ip => s.stepIp g e o fa e.loop.step
  | some fa, some fb, .op => s.stepOp g e o fa fb e.loop.step
  | some fa, some fb, .rw => s.stepRw g e o fa fb e.loop.step
  | _, _, _ => (.ok 0, s)

/-- A row of the quadrant is mapped out (R226, R356). -/
def State.isMapped (s : State) (core q : Nat) : Bool :=
  (match Tbl.get? (s.core core).repair q with
  | some b => b
  | none => Config.repairMap core q).getLsbD 7

/-- The quadrant whose tile a mismatch in quadrant `q` poisons (R226). -/
def stitchOut (o : MloopOps) (q : Nat) : Nat :=
  if o.df = .ip ∧ isTall o.qset.toNat ∧ q < 2 then q + 2 else q

/-- A STITCH MISMATCH in quadrant `q` at a column (R226, R357). -/
def State.stitch (s : State) (g : Nat) (e : QEnt) (o : MloopOps) (q : Nat) (col : BitVec 5) : State :=
  let m := s.group g
  let k := m.quad q
  let row := BitVec.ofNat 5 (k.pass % 32)
  let wide := e.op.fa.elim false (fun f => f.fmt == .f64)
  let s := s.modQuad g q (fun k => { k with
    mism := if k.mism = 15 then 15 else k.mism + 1, srow := row, scol := col })
  let s := if o.sout then s.modEnt g e.id (fun x => { x with loop := { x.loop with stitch := true } })
    else s.modQuad g (stitchOut o q) (fun k => k.poisonTile o.acc.toNat wide)
  let w := s.entWho e
  let r : ErrRec := { errRec (if o.sout then 4 else 3) w.ctx 0 with
    pc := w.pc, word := w.word, core := m.core, quad := q, row := row.toNat, col := col.toNat
    acc := if o.sout then 0 else o.acc.toNat, pass := k.pass }
  let s := s.errorReport m.vd m.incarn r
  s.logPkg (.stitch m.core q)

/-- The loop that a quadrant runs, where it may step. -/
def State.runningLoop (s : State) (g q : Nat) : Option (QEnt × MloopOps) :=
  (((s.group g).quad q).queue.find? (fun e => e.granted && !s.entHeld e)).bind (fun e =>
    match e.op.instr with
    | .mloop o => if e.loop.step < o.steps.toNat then some (e, o) else none
    | _ => none)

/-- The grant of a loop lapses (R365). -/
def State.lapse (s : State) (g id : Nat) : State :=
  s.dropLeave (fun w => match w with
    | .loop gr _ i => gr == g && i == id
    | .session _ => false)

/-- MLOOP_STEP (R220, R226): one step of the loop in all its quadrants, each of which may find a mismatch, at a column. A
fault of a stream stops it before the step (R216). -/
def execMloopStep (g q : Nat) (bad : List (Nat × BitVec 5)) (s : State) : Host.Outcome State Fault Refusal :=
  .next (s.unlessHeld (fun s => match s.runningLoop g q with
    | none => s
    | some (e, o) =>
      if e.loop.step = 0 ∧ (s.group g).readsPoison e then s.killEnt e .poison
      else match s.stepLoop g e o with
        | (.error x, s) =>
          ((s.lapse g e.id).modEnt g e.id (fun x => { x with
            asked := false, granted := false, loop := { x.loop with begun := true } })).entFault g e e.loop.step 1 (mfault x 0)
        | (.ok fl, s) =>
          let qs := quadsOf o.qset.toNat
          let s := qs.foldl (fun s q => match Tbl.get? bad q with
            | some col => if s.isMapped (s.group g).core q then s else s.stitch g e o q col
            | none => s) s
          let s := qs.foldl (fun s k => s.modQuad g k (fun x => { x with pass := x.pass + 1 })) s
          s.modEnt g e.id (fun x => { x with loop := { x.loop with
            step := x.loop.step + 1, begun := true, flags := x.loop.flags ||| fl } })))

/-! ### Completion -/

/-- A team's matrix packet completes and is acknowledged at once (R214). -/
def State.completeNow (s : State) (ctx : Nat) (seq : BitVec 16) : State :=
  let s := s.complete ctx seq
  { s with acks := s.acks.filter (fun a => !(a.1 == ctx && a.2 == seq)) }.modTeam ctx (fun t => t.dropPk seq)

/-- An operation has completed (R86, R214, R238): its flags join, the counter or the count falls. -/
def State.finishEnt (s : State) (g : Nat) (e : QEnt) (fl : Flags) : State :=
  let s := (s.lapse g e.id).dropEnt g e.id
  match e.issuer with
  | .team ctx seq _ => (s.modTeam ctx (fun t => t.join fl)).completeNow ctx seq
  | .engine g k => (s.setEngine g k { s.engine g k with out := (s.engine g k).out - 1 }).famFlags e.op.fam fl

/-- The loop state of each quadrant of a loop. -/
def Group.loopAt (g : Group) (q id : Nat) : Option QEnt := (g.quad q).ent? id

/-- The results of the cells of an outer-product or row-wise loop, by quadrant, row, column and value. -/
def Group.cellsOut (g : Group) (e : QEnt) (o : MloopOps) : List (Nat × Nat × Nat × Nat) :=
  (quadsOf o.qset.toNat).flatMap (fun q =>
    match g.loopAt q e.id with
    | none => []
    | some x => (List.range 32).flatMap (fun m => (List.range 32).map (fun n => (q, m, n, x.cell m n))))

/-- The record of array row `r` of a sparse output (R223). -/
def Group.sparseRow (g : Group) (e : QEnt) (sh r : Nat) : List Byte :=
  let ents := (List.range (colsOf sh)).filterMap (fun n =>
    match g.loopAt (quadAt sh r n) e.id with
    | none => none
    | some x => if x.loop.touched.contains (64 * (r % 32) + n % 32) then some (x.cell (r % 32) (n % 32), n) else none)
  leBytes 8 ents.length ++ ents.flatMap (fun x => leBytes 4 x.1 ++ leBytes 4 x.2)

/-- The records of a sparse output are written (R223). -/
def State.sparseOut (s : State) (w : Who) (g : Nat) (e : QEnt) (o : MloopOps) :
    List Nat → Option (MemKind × Nat × DWord) × State
  | [] => (none, s)
  | r :: rs =>
    let sh := o.qset.toNat
    let at_ := e.op.o + BitVec.ofNat 64 (r * (8 + 8 * colsOf sh))
    let bs := (s.group g).sparseRow e sh r
    match s.matWrite w g at_ bs with
    | (.error x, s) => (some x, s)
    | (.ok _, s) =>
      let s := if e.loop.poison then s.poisonEa w g (bs.length / 128 + 2) at_ bs.length else s
      s.sparseOut w g e o rs

/-- The flags of a loop over its quadrants. -/
def Group.loopFlags (g : Group) (e : QEnt) (o : MloopOps) : Flags :=
  (quadsOf o.qset.toNat).foldl (fun a q => (g.loopAt q e.id).elim a (fun x => a ||| x.loop.flags)) 0

/-- A loop that has made its steps ends (R221 to R223, R226). A write of a sparse output that faults is reported at the last
step, and the records are all written again: the model's choice, since the spec gives a position only to stream reads
(log entry 77). -/
def State.endLoop (s : State) (g : Nat) (e : QEnt) (o : MloopOps) : State :=
  let m := s.group g
  let fl := m.loopFlags e o
  let k : AccKind' := e.op.fa.elim .f32 (fun f => f.fmt.acc)
  if o.sout then
    match s.sparseOut (s.entWho e) g e o (List.range (rowsOf o.qset.toNat)) with
    | (some x, s) => s.entFault g e (o.steps.toNat - 1) 1 (mfault x 1)
    | (none, s) => if e.loop.stitch then s.killEnt e .stitch else s.finishEnt g e fl
  else if o.df = .ip then s.finishEnt g e fl
  else
    let (f2, s) := s.accumAll g k o (m.cellsOut e o)
    s.finishEnt g e (fl ||| f2)

/-- A column of a tile as a quadrant holds it: the upper or the lower half (R229). -/
def PVec.half (v : PVec) (f : FmtBlk) (tall lower : Bool) : PVec :=
  if !tall then v
  else
    let cut {α : Type} (l : List α) : List α := if lower then l.drop (l.length / 2) else l.take (l.length / 2)
    let blk {α : Type} (l : List α) : List α := if f.blk = 0 then l else cut l
    { elems := cut v.elems, scales := blk v.scales, exts := blk v.exts, metas := cut v.metas }

/-- An `mlds` loads its tile (R219, R224, R229). -/
def State.loadTile (s : State) (g : Nat) (e : QEnt) (o : MldsOps) (f : FmtBlk) : State :=
  let sh := o.qset.toNat
  let kc := depthOf sh
  let len := if f.sparse = 0 then kc else 2 * kc
  let w := s.entWho e
  match State.eachRead (fun s n =>
      s.readVec w g f (e.op.b + BitVec.ofNat 64 (n * o.pitch.toNat * 16)) n kc len) s (List.range (colsOf sh)) with
  | (.error x, s) => s.entFault g e 0 1 (mfault x 0)
  | (.ok vs, s) =>
    let cols := (List.range vs.length).zip vs
    let s := (quadsOf sh).foldl (fun s q =>
      let lower := isTall sh && q == quadAt sh 32 (if q % 2 = 1 then 32 else 0)
      let mine := cols.filter (fun c => quadAt sh (if lower then 32 else 0) c.1 == q)
      let plane : Plane := { fmt := some f, poison := mine.any (fun c => c.2.2)
                             cols := mine.map (fun c => (c.1 % 32, c.2.1.half f (isTall sh) lower)) }
      s.modQuad g q (fun k => { k with shadow := plane })) s
    s.finishEnt g e 0

/-- The format of an `mdrain` output; none for the integer ones. -/
def outFmt : OFmt → Option FFmt
  | .f32 => some ffF32
  | .bf16 => some ffBF16
  | .f16 => some ffF16
  | .e4m3 => some ffE4M3
  | .e5m2 => some ffE5M2
  | .f64 => some ffF64
  | .i32 | .i8 => none

/-- One element of an `mdrain` (R231): the tile's bits, and the old ones where it adds. -/
def drainElem (o : MdrainOps) (x old : Nat) : Nat × Flags :=
  match outFmt o.ofmt with
  | none =>
    let w := 8 * OFmt.bytes o.ofmt
    let v := valOf 32 true x
    fitInt w true o.sat (if o.add then v + valOf w true old else v)
  | some f =>
    let v := if o.ikind = .f64 then ffF64.val x else ffF32.val x
    if o.add then f.add o.rnd o.sat v (f.val old) else f.round o.rnd o.sat v

/-- Elements `n0` to `n0 + n - 1` of row `m` as bytes, from the bytes that stand there. -/
def Quad.drainPiece (q : Quad) (o : MdrainOps) (m n0 n : Nat) (old : List Byte) : List Byte × Flags :=
  let b := OFmt.bytes o.ofmt
  (List.range n).foldl (fun (acc : List Byte × Flags) i =>
    let was := leNat ((old.drop (b * i)).take b)
    let (v, fl) := drainElem o (q.elem o.acc.toNat (o.ikind == .f64) m (n0 + i)) was
    (acc.1 ++ leBytes b v, acc.2 ||| fl)) ([], 0)

/-- The first fault that a write of some sectors meets, before any of them is written (R216, R231). -/
def State.probe (s : State) (w : Who) (g : Nat) (acc : BitVec 2) : List DWord → Option (MemKind × Nat × DWord) × State
  | [] => (none, s)
  | ea :: rest =>
    match s.space g true ea 1 with
    | .virt va => (match s.askHome w va acc with
        | (.error e, s) => (some (e.1, e.2, ea), s)
        | (.ok _, s) => s.probe w g acc rest)
    | .bad k => (some (k, 7, ea), s)
    | _ => s.probe w g acc rest

/-- The pieces of row `m` of an `mdrain`. -/
def State.drainPieces (s : State) (w : Who) (g : Nat) (q : Quad) (o : MdrainOps) (ea : DWord) (m : Nat) :
    Nat → Nat → Except (MemKind × Nat × DWord) Flags × State
  | 0, _ => (.ok 0, s)
  | fuel + 1, n0 =>
    if 32 ≤ n0 then (.ok 0, s)
    else
      let b := OFmt.bytes o.ofmt
      let n := min (32 - n0) (128 / b)
      match s.matWrite1 w g (!o.add) (ea + BitVec.ofNat 64 (b * n0)) (b * n) (q.drainPiece o m n0 n) with
      | (.error e, s) => (.error e, s)
      | (.ok fl, s) =>
        (match s.drainPieces w g q o ea m fuel (n0 + n) with
        | (.ok f2, s) => (.ok (fl ||| f2), s)
        | r => r)

/-- Row `m` of an `mdrain`: all of it is written, or it faults. -/
def State.drainRow (s : State) (w : Who) (g : Nat) (q : Quad) (o : MdrainOps) (ea : DWord) (m : Nat) :
    Except (MemKind × Nat × DWord) Flags × State :=
  let secs := (List.range (max 1 (MdrainOps.rowBytes o / 128))).map (fun i => ea + BitVec.ofNat 64 (128 * i))
  match s.probe w g (if o.add then 2 else 1) secs with
  | (some x, s) => (.error x, s)
  | (none, s) => s.drainPieces w g q o ea m 3 0

/-- The rows of an `mdrain` in ascending order (R216, R231): the rows that fault, and the flags. -/
def State.drainRows (s : State) (w : Who) (g : Nat) (q : Quad) (o : MdrainOps) (d : DWord) :
    List Nat → List (Nat × MFault) × Flags × State
  | [] => ([], 0, s)
  | m :: ms =>
    match s.drainRow w g q o (MdrainOps.rowAddr o d m) m with
    | (.error x, s) =>
      let (bad, fl, s) := s.drainRows w g q o d ms
      ((m, mfault x (if o.add then 2 else 1)) :: bad, fl, s)
    | (.ok f, s) =>
      let (bad, fl, s) := s.drainRows w g q o d ms
      (bad, f ||| fl, s)

/-- An `mdrain` writes its tile (R231); rows that fault await their service (R216), and the flags of the others with
them (R86). -/
def State.drain (s : State) (g : Nat) (e : QEnt) (o : MdrainOps) : State :=
  let q := (s.group g).quad o.qset.toNat
  let rows := (List.range 32).filter (fun m => !e.loop.touched.contains m)
  let (bad, fl, s) := s.drainRows (s.entWho e) g q o e.op.o rows
  let ok := rows.filter (fun m => !bad.any (fun b => b.1 == m))
  let s := s.modEnt g e.id (fun x => { x with loop := { x.loop with
    touched := x.loop.touched ++ ok, flags := x.loop.flags ||| fl } })
  let fl := e.loop.flags ||| fl
  match bad, e.issuer with
  | [], _ => s.finishEnt g e fl
  | b :: _, .engine _ _ => s.entFault g e b.1 bad.length b.2
  | _, .team ctx seq _ =>
    let mark (l : PLane) : PLane :=
      if ok.contains l.vid then { l with done := true }
      else match bad.find? (fun b => b.1 == l.vid) with
        | some b => { l with fault := some b.2 }
        | none => l
    let s := s.modEnt g e.id (fun x => { x with started := false })
    s.modTeam ctx (fun t => t.modPk seq (fun p => { p with lanes := p.lanes.map mark, flags := fl }))

/-- The magnitude by which `mcomp` ranks an element (R94, R232). -/
def rankOf (f : MFmt) (x : Nat) : Nat :=
  if f.isInt then (valOf f.bits true x).natAbs
  else if (f.ff.val x).isNan then 2 ^ f.bits else x % 2 ^ (f.bits - 1)

/-- The `n` elements of a group that are kept: index and rank, the best first found. -/
def keepTop : Nat → List (Nat × Nat) → List Nat
  | 0, _ => []
  | n + 1, l =>
    match l.foldl (fun (b : Option (Nat × Nat)) x =>
      match b with
      | none => some x
      | some y => if y.2 < x.2 then some x else some y) none with
    | none => []
    | some b => b.1 :: keepTop n (l.filter (fun x => x.1 != b.1))

/-- A row compressed (R94): the kept values and their indices. -/
def compressRow (f : MFmt) (p48 : Bool) (xs : List Nat) : List Nat × List Nat :=
  let grp := if p48 then 8 else 4
  (List.range (xs.length / grp)).foldl (fun (acc : List Nat × List Nat) j =>
    let g := (xs.drop (grp * j)).take grp
    let ks := (keepTop (grp / 2) ((List.range grp).zip (g.map (rankOf f)))).foldl (fun l i => insertNat i l) []
    let val (i : Nat) : Nat :=
      let x := g.getD i 0
      if !f.isInt && (f.ff.val x).isNan then f.ff.nanBits else x
    (acc.1 ++ ks.map val, acc.2 ++ ks)) ([], [])

/-- Values of `bits` bits one after another from the low bits up, as a number. -/
def joinBits (bits : Nat) : List Nat → Nat
  | [] => 0
  | x :: xs => x % 2 ^ bits + 2 ^ bits * joinBits bits xs

/-- One row of an `mcomp`: the fault, if any, with the access it met. -/
def State.compRow (s : State) (w : Who) (g : Nat) (e : QEnt) (o : McompOps) (f : FmtBlk) (r : Nat) :
    Option ((MemKind × Nat × DWord) × Nat) × State :=
  let len := 16 * o.len16.toNat
  let src := e.op.a + BitVec.ofNat 64 (r * o.spitch.toNat * 16)
  let dst := e.op.b + BitVec.ofNat 64 (r * o.vpitch.toNat * 16)
  let mb := metaBytes (if o.p48 then 2 else 1) len
  let md := e.op.m + BitVec.ofNat 64 (r * mb)
  match s.matRead w g src (f.fmt.bytesFor len) with
  | (.fault k lv a, s) => (some ((k, lv, a), 0), s)
  | (.ok bs bad, s) =>
    let (vals, idx) := compressRow f.fmt o.p48 ((splitElems f.fmt.bits bs len).map (fun x => x.toNat))
    let vb := leBytes (f.fmt.bytesFor (len / 2)) (joinBits f.fmt.bits vals)
    match s.matWrite w g dst vb with
    | (.error x, s) => (some (x, 1), s)
    | (.ok _, s) =>
      match s.matWrite w g md (leBytes mb (joinBits (if o.p48 then 3 else 2) idx)) with
      | (.error x, s) => (some (x, 1), s)
      | (.ok _, s) =>
        (none, if bad then (s.poisonEa w g 8 dst vb.length).poisonEa w g 8 md mb else s)

/-- The rows of an `mcomp`. -/
def State.compRows (s : State) (w : Who) (g : Nat) (e : QEnt) (o : McompOps) (f : FmtBlk) :
    List Nat → Option ((MemKind × Nat × DWord) × Nat) × State
  | [] => (none, s)
  | r :: rs =>
    match s.compRow w g e o f r with
    | (some x, s) => (some x, s)
    | (none, s) => s.compRows w g e o f rs

/-- An `mread` gives its lanes their elements (R233). -/
def State.readTile (s : State) (g : Nat) (e : QEnt) (o : MreadOps) : State :=
  let q := (s.group g).quad o.qset.toNat
  match s.entPacket e with
  | none => s.finishEnt g e 0
  | some (t, p) =>
    let val (v : Nat) : DWord :=
      BitVec.ofNat 64 (q.elem o.acc.toNat o.w64 (v % 32) ((o.col.toNat + v / 32) % 32))
    let put (l : Lane) : Lane :=
      if p.lanes.any (fun x => x.vid == l.vid) then setLaneRegs l o.dst (if o.w64 then 2 else 1) (val l.vid) else l
    (s.modTeam t.ctx (fun t => t.mapLanes put)).finishEnt g e 0

/-- The status word of a quadrant (R234). -/
def State.quadStatus (s : State) (g q : Nat) : Nat :=
  let m := s.group g
  let k := m.quad q
  let z := (s.zone (zoneOf m.core)).state.toNat
  let poison := (List.range 8).foldl (fun a t => if (k.tile t).poison then a + 2 ^ t else a) 0
  poison + (if s.isMapped m.core q then 2 ^ 8 else 0) + (if 1 ≤ z ∧ z ≤ 9 then 2 ^ 9 else 0)
    + k.shape % 16 * 2 ^ 10 + k.lclass.toNat * 2 ^ 14 + k.scol.toNat * 2 ^ 18 + k.srow.toNat * 2 ^ 23
    + k.mism.toNat * 2 ^ 28

/-- An `mstat` gives its status (R234). -/
def State.giveStatus (s : State) (g : Nat) (e : QEnt) (q : Nat) (d : Reg) : State :=
  let v : DWord := BitVec.ofNat 64 (s.quadStatus g q)
  match e.issuer, s.entPacket e with
  | .engine g k, _ => (s.setEngine g k ((s.engine g k).put d 1 v)).finishEnt g e 0
  | _, some (t, p) =>
    let s := match s.locOf t d with
      | .lane => s.modTeam t.ctx (fun t => t.mapLanes (fun l =>
          if p.lanes.any (fun x => x.vid == l.vid) then setLaneRegs l d 1 v else l))
      | _ => s.writeRegs t.fam t.ctx d 1 v
    s.finishEnt g e 0
  | _, none => s.finishEnt g e 0

/-- The entry of a quadrant that can complete. -/
def State.completable (s : State) (g q : Nat) : Option QEnt :=
  ((s.group g).quad q).queue.find? (fun e => e.started && !s.entHeld e && (match e.op.instr with
    | .mloop o => e.granted && decide (o.steps.toNat ≤ e.loop.step)
    | _ => true))

/-- MATRIX_COMPLETE (R214): a started instruction has done its work. -/
def execMatrixComplete (g q : Nat) (s : State) : Host.Outcome State Fault Refusal :=
  .next (s.unlessHeld (fun s => match s.completable g q with
    | none => s
    | some e =>
      match e.op.instr, e.op.fa, e.op.fb with
      | .mlds o, _, some f | .mldsBar o _, _, some f => s.loadTile g e o f
      | .mloop o, _, _ => s.endLoop g e o
      | .mdrain o, _, _ => s.drain g e o
      | .mcomp o, some f, _ =>
        (match s.compRows (s.entWho e) g e o f (List.range (o.rows.toNat + 1)) with
        | (some x, s) => s.entFault g e 0 1 (mfault x.1 x.2)
        | (none, s) => s.finishEnt g e 0)
      | .mread o, _, _ => s.readTile g e o
      | .mstat q d, _, _ => s.giveStatus g e q.toNat d
      | _, _, _ => s.finishEnt g e 0))

end Sys2Proof.Machine
end

