-- ==== Sys2Proof/Machine/Engine.lean ====
section
/-! DEFINITION. Engine programs (09 R237, R239, R240): `fork`, `rdv` and the end of a program. -/

namespace Sys2Proof.Machine

/-- The number of the program that a `fork` starts. -/
def ForkOps.engine (o : ForkOps) : Nat :=
  match o.tgt with
  | .matrix => 8 + o.qset.toNat
  | .lace k => 1 + k.toNat

/-- The target lies outside the group's grant (R237). -/
def Group.forkBad (g : Group) (o : ForkOps) : Bool :=
  match o.tgt with
  | .matrix => (quadsOf o.qset.toNat).any (fun q => !g.qmask.getLsbD q)
  | .lace k => !g.lmask.getLsbD k.toNat

/-- A program of the target holds a `fork` back until it has reached its `rdv`, and while it is parked (R237, R240). -/
def Group.forkHeld (g : Group) (o : ForkOps) : Bool :=
  let busy (e : Engine) : Bool := e.running && (!e.rdv || e.parked)
  match o.tgt with
  | .matrix => g.engines.any (fun e => decide (8 ≤ e.1) && busy e.2 &&
      (quadsOf e.2.qset).any (fun q => (quadsOf o.qset.toNat).contains q))
  | .lace k => busy (Tbl.get resetEngine g.engines (1 + k.toNat))

/-- The registers that a `fork` copies. -/
def ForkOps.regs (o : ForkOps) : List Nat := regNums o.ebase o.ecnt.toNat

/-- The values of some TEAM registers, in order, as an engine's registers from e0 up. -/
def State.forkVals (s : State) (t : Team) : List Nat → Nat → Tbl Word × State
  | [], _ => ([], s)
  | r :: rs, i =>
    let (v, s) := s.readUni t.fam t.ctx r
    let (t', s) := s.forkVals t rs (i + 1)
    ((i, v) :: t', s)

/-- A program starts (R237). The engine keeps its outstanding count (R238), for which a program before it that has reached
its `rdv` still waits. -/
def State.startEngine (s : State) (t : Team) (o : ForkOps) : State :=
  let k := ForkOps.engine o
  let (regs, s) := s.forkVals t (ForkOps.regs o) 0
  let old := s.engine t.group k
  let e : Engine := { resetEngine with
    running := true, fam := t.fam, qset := o.qset.toNat, pc := brTarget t.pc o.off, regs := regs
    draining := if old.running then old.draining ++ [old.fam] else old.draining, out := old.out, seq := old.seq }
  (s.setEngine t.group k e).modFam t.fam (fun m => { m with forks := m.forks ++ [k] })

/-- FORK (R237). -/
def execFork (o : ForkOps) (s : State) : Host.Outcome State Fault Refusal :=
  .next (s.byTeam (.fork o) (fun s t =>
    let rs := (ForkOps.regs o).map (fun r => (BitVec.ofNat 8 r, 1))
    match s.teamRegsCause t rs o.p.num.toNat with
    | some c => s.takeTrap t.ctx 2 (plainTrap c)
    | none =>
      if (s.group t.group).forkBad o then s.takeTrap t.ctx 2 (plainTrap .quad)
      else s.guarded t 2 [] o.p (fun s => s.advance t.ctx 2) (fun s =>
        if (s.group t.group).forkHeld o then s.waitAt t.ctx
        else (s.startEngine t o).advance t.ctx 2)))

/-- A team's `rdv` (R239, R240): parked while a program runs; an engine's stop is reported when the others
have ended. -/
def State.teamRdv (s : State) (t : Team) : State :=
  let m := s.fam t.fam
  if !m.forks.isEmpty then s.stand { t with parked := .rdv }
  else match m.stops with
    | (pc, w) :: rest =>
      let s := s.setFam t.fam { m with stops := rest }
      s.takeTrapAt t.ctx (plainTrap .illegal) { t.trapPos 1 with pc := pc, word := w } true none
    | [] => (s.syncRegions t.ctx .core t.vids false true).advance t.ctx 1

/-- RDV (R239). -/
def execRdv (o : F3) (s : State) : Host.Outcome State Fault Refusal :=
  .next (s.byAgent (.rdv o)
    (fun s t => s.guarded t 1 [] o.p (fun s => s.advance t.ctx 1) (fun s => s.teamRdv t))
    (fun s g k =>
      let e := s.engine g k
      if !engPred true o.p.num.toNat then s.engineStop g k
      else if e.pred o.p then s.setEngine g k { e with rdv := true }
      else s.setEngine g k (e.advance 1)))

/-- A program of an engine is over for the launched team that forked it (R239): with the last of them, LACE is set. -/
def State.unfork (s : State) (g k f : Nat) : State :=
  let s := s.modFam f (fun m => { m with forks := m.forks.erase k })
  if (s.fam f).forks.isEmpty then s.wakeCause (s.group g).core 2 else s

/-- ENGINE_PROGRAM_END (R239): programs at their `rdv` end when the engine's outstanding count is zero. -/
def execEngineProgramEnd (g k : Nat) (s : State) : Host.Outcome State Fault Refusal :=
  .next (
    let e := s.engine g k
    let now := e.running && e.rdv
    if e.out == 0 && (now || !e.draining.isEmpty) then
      let s := s.setEngine g k { e with running := e.running && !now, draining := [] }
      (e.draining ++ (if now then [e.fam] else [])).foldl (fun s f => s.unfork g k f) s
    else s)

end Sys2Proof.Machine
end

