-- ==== Sys2Proof/Machine/Lace.lean ====
section
/-! DEFINITION. Lace copies (09 R241 to R245; 10 R273, R277; 19 R353): issue, and the engine's reads and
landings. -/

namespace Sys2Proof.Machine

/-! ### Addresses of a copy -/

/-- Granules of a row. -/
def CopyOp.rowGrans (c : CopyOp) : Nat := c.rowb / 16

/-- Rows of a copy. -/
def CopyOp.rows (c : CopyOp) : Nat := (c.x1 + 1) * (c.x2 + 1)

/-- Granules of a copy, numbered row by row. -/
def CopyOp.count (c : CopyOp) : Nat := c.rows * c.rowGrans

/-- Destination of row `r` (R242, R244). R244 gives a `laceg` no destination pitch: that its rows lie one after another from
DST is the model's choice (log entry 78). -/
def CopyOp.dstRow (c : CopyOp) (r : Nat) : DWord :=
  match c.instr with
  | .laceg _ => c.dst + BitVec.ofNat 64 (r * c.rowb)
  | _ => c.dst + BitVec.ofNat 64 (r / (c.x1 + 1)) * c.dp + BitVec.ofNat 64 (r % (c.x1 + 1)) * c.dr

/-- Source of row `r` of a `lace`. -/
def CopyOp.srcRow (c : CopyOp) (r : Nat) : DWord :=
  c.src + BitVec.ofNat 64 (r / (c.x1 + 1)) * c.sp + BitVec.ofNat 64 (r % (c.x1 + 1)) * c.sr

/-- Row and offset of a granule within its row. -/
def CopyOp.place (c : CopyOp) (g : Nat) : Nat × DWord :=
  (g / max c.rowGrans 1, BitVec.ofNat 64 (16 * (g % max c.rowGrans 1)))

/-- The least and the greatest byte address of a box, as integers from its base. -/
def spanOf (c : CopyOp) (row plane : DWord) : Int × Int :=
  let a : Int := row.toInt * (c.x1 : Int)
  let b : Int := plane.toInt * (c.x2 : Int)
  (min 0 a + min 0 b, max 0 a + max 0 b + (c.rowb : Int))

/-- Source and destination boxes overlap in one space (R241). -/
def State.laceOverlap (s : State) (g : Nat) (c : CopyOp) : Bool :=
  match c.instr with
  | .laceg _ => false
  | _ =>
    let (a0, a1) := spanOf c c.sr c.sp
    let (b0, b1) := spanOf c c.dr c.dp
    let a : Int := s.spanKey g c.src
    let b : Int := s.spanKey g c.dst
    decide (a + a0 < b + b1) && decide (b + b0 < a + a1)

/-- The top byte names a window. -/
def isWindow (a : DWord) : Bool := (a >>> 56) == 0xFD || (a >>> 56) == 0xFE

/-- The addresses that a copy names, with the access each makes. -/
def CopyOp.addrs (c : CopyOp) : List (DWord × Nat) :=
  [(c.src, 0), (c.dst, 1)] ++ (if c.inc || c.outc then [(c.bar, 2)] else []) ++
  (match c.instr with
  | .laceg _ => [(c.idx, 0)]
  | _ => [])

/-- The misaligned addresses of a copy that are known at issue (R241, R244, R255): of its rows, its object, its index
list. R244 gives the index list of a `laceg` no alignment: that its address must be a multiple of 4 is the model's
choice (log entry 78). -/
def CopyOp.misaligned (c : CopyOp) : List DWord :=
  let odd (n : Nat) (l : List DWord) : List DWord := l.filter (fun x => x.toNat % n != 0)
  let rows := List.range c.rows
  (match c.instr with
  | .laceg _ => odd 16 (c.src :: rows.map c.dstRow) ++ odd 4 [c.idx]
  | _ => odd 16 (rows.map c.srcRow ++ rows.map c.dstRow)) ++
  (if c.inc || c.outc then odd 16 [c.bar] else [])

/-- A stride of a copy is misaligned, whether or not an address comes from it (R241, R244). -/
def CopyOp.strideBad (c : CopyOp) : Bool :=
  [c.sr, c.sp, c.dr, c.dp, c.pitch.setWidth 64].any (fun x => x.toNat % 16 != 0)

/-- The lowest of some addresses. -/
def lowest : List DWord → DWord
  | [] => 0
  | x :: xs => xs.foldl (fun m y => if y.toNat < m.toNat then y else m) x

/-- What the checks at issue find. -/
inductive CopyCheck where
  | trap (t : Trap) | mem (k : MemKind) (va acc : Nat) | ok
deriving DecidableEq, Repr

/-- Bytes within a sector or a granule as a Lace engine reads them: at the home, with the dirty bytes of its own core's L1
(R277); none where they are poisoned. -/
def State.homeRead (s : State) (w : Who) (g : Nat) (ea : DWord) (n : Nat) : Except (MemKind × Nat × DWord) (List Byte) × State :=
  match s.space g true ea n with
  | .spad h off =>
    let m := s.group h
    (.ok (if m.poisoned off n then [] else m.spadRead off n), s)
  | .bad k => (.error (k, 7, ea), s)
  | .cpeer _ => (.error (.bound, 7, ea), s)
  | .virt va =>
    match s.direct w va with
    | (.fault k lv, s) => (.error (k, lv, ea), s)
    | (.poison, s) => (.ok [], s)
    | (.ok b _ _, s) =>
      let e := Tbl.get noSector (s.core w.core).l1 (s.secKey w.vd va)
      (.ok ((sectorBytes (overlay (fullSector b) e.dirty) (va % 128) n).getD []), s)

/-- The rows of a gather that its index list leaves unchanged. -/
def skipRow (i : Nat) : Bool := i == 0xFFFF_FFFF

/-- Source row of a gather by its index (R244). -/
def CopyOp.gathered (c : CopyOp) (i : Nat) : DWord := c.src + BitVec.ofNat 64 (i * c.pitch.toNat)

/-- The index list of a gather, read at the home (R244, R277). -/
def State.readIndex (s : State) (w : Who) (g : Nat) (c : CopyOp) : Except (MemKind × Nat × DWord) (List Nat) × State :=
  match State.eachRead (fun s ea => s.homeRead w g ea 4) s ((List.range c.rows).map (fun i => c.idx + BitVec.ofNat 64 (4 * i))) with
  | (.error x, s) => (.error x, s)
  | (.ok bs, s) => (.ok (bs.map leNat), s)

/-- The misaligned source rows of a gather whose pitch is misaligned (R255), by its index list as it stands. -/
def State.gatherBad (s : State) (w : Who) (g : Nat) (c : CopyOp) : List DWord :=
  match c.instr with
  | .laceg _ =>
    if c.pitch.toNat % 16 = 0 ∨ c.idx.toNat % 4 ≠ 0 then []
    else match s.readIndex w g c with
      | (.ok is, _) => ((is.filter (fun i => !skipRow i)).map c.gathered).filter (fun a => a.toNat % 16 != 0)
      | (.error _, _) => []
  | _ => []

/-- The checks of a copy at issue from ALIGN on (R51, R241). -/
def State.copyCheck (s : State) (w : Who) (g : Nat) (c : CopyOp) : CopyCheck :=
  if c.strideBad || !c.misaligned.isEmpty then
    .trap { cause := .align, code := 0, addr := lowest (c.misaligned ++ s.gatherBad w g c) }
  else
    match c.addrs.findSome? (fun x => match s.space g true x.1 1 with
      | .cpeer o => some o
      | _ => none) with
    | some o => .trap { cause := .cpeer, addr := BitVec.ofNat 64 o, code := 0 }
    | none =>
      let counts := c.inc || c.outc
      if s.laceOverlap g c || (c.setfe && (c.dst >>> 56) == 0) || (counts && (c.bar >>> 56) == 0) then
        .trap (plainTrap .illegal)
      else match c.addrs.find? (fun x => badTop x.1) with
        | some x => .mem .noncanon x.1.toNat x.2
        | none =>
          match if counts then s.space g true c.bar 16 else .virt 0 with
          | .bad k => .mem k c.bar.toNat 2
          | _ => .ok

/-! ### Ownership (R243, R273) -/

/-- What registers a destination granule at an address; none where there is no memory. -/
def State.granReg (s : State) (g : Nat) (core k id : Nat) (ea : DWord) : Option LaceReg :=
  match s.space g true ea 16 with
  | .virt va => some { place := .dir, gran := s.asid (s.group g).vd * 2 ^ 52 + va / 16, core := core, lace := k, copy := id }
  | .spad h off => some { place := .spad h, gran := off / 16, core := core, lace := k, copy := id }
  | _ => none

/-- Destination address of a granule. -/
def CopyOp.granDst (c : CopyOp) (i : Nat) : DWord := c.dstRow (c.place i).1 + (c.place i).2

/-- At issue a copy registers its destination granules, and takes the sectors of virtual memory from its
core's L1 (R243, R277). -/
def State.registerCopy (s : State) (g core k id : Nat) (c : CopyOp) : State :=
  let regs := (List.range c.count).filterMap (fun i => s.granReg g core k id (c.granDst i))
  let secs := ((regs.filter (fun r => decide (r.place = .dir))).map (fun r => r.gran / 8)).eraseDups
  let strip (e : Nat × Sector) : Nat × Sector :=
    if secs.contains e.1 then (e.1, { e.2 with clean := [] }) else e
  let s := s.modCore core (fun x => { x with l1 := x.l1.map strip })
  { s with laceRegs := s.laceRegs ++ regs }

/-! ### Issue -/

/-- The fields of a copy instruction: engine, registers read with their counts, predicate. -/
structure CopyForm where
  le    : Nat
  p     : Pred
  regs  : List (Reg × Nat)
deriving DecidableEq, Repr

/-- Registers of a copy's strides, one by one (R241). -/
def strideRegs (o : LaceOps) : List (Reg × Nat) :=
  if o.dims = 0 then []
  else if o.str = Reg.z then List.replicate 4 (Reg.z, 1)
  else (List.range 4).map (fun i => (o.str + BitVec.ofNat 8 i, 1))

/-- The form of a copy instruction. -/
def copyForm : Instr → CopyForm
  | .lace o => { le := o.le.toNat, p := o.p
                 regs := [(o.src, 2), (o.dst, 2)] ++ (if o.inc || o.outc then [(o.bar, 2)] else []) ++ strideRegs o }
  | .laceg o => { le := o.le.toNat, p := o.p
                  regs := [(o.src, 2), (o.dst, 2)] ++ (if o.inc || o.outc then [(o.bar, 2)] else []) ++
                    [(o.idx, 2), (o.pitch, 1)] }
  | _ => { le := 0, p := { neg := false, num := 0 }, regs := [] }

/-- The copy of an instruction from the values of its registers, in the order of its form. -/
def copyOf (i : Instr) (vals : List DWord) : CopyOp :=
  let base : CopyOp := { instr := i, src := opAt vals 0, dst := opAt vals 1, bar := 0, rowb := 0, x1 := 0, x2 := 0,
                         sr := 0, sp := 0, dr := 0, dp := 0, idx := 0, pitch := 0, setfe := false, inc := false, outc := false,
                         fam := 0, pc := 0, word := 0, seq := 0 }
  let sx (v : DWord) : DWord := (v.setWidth 32).signExtend 64
  match i with
  | .lace o =>
    let k := if o.inc || o.outc then 3 else 2
    { base with bar := if o.inc || o.outc then opAt vals 2 else 0, rowb := o.rowb.toNat, x1 := o.x1.toNat, x2 := o.x2.toNat
                sr := sx (opAt vals k), sp := if o.dims = 2 then sx (opAt vals (k + 1)) else 0
                dr := sx (opAt vals (k + 2)), dp := if o.dims = 2 then sx (opAt vals (k + 3)) else 0
                setfe := o.setfe, inc := o.inc, outc := o.outc }
  | .laceg o =>
    let k := if o.inc || o.outc then 3 else 2
    { base with bar := if o.inc || o.outc then opAt vals 2 else 0, rowb := o.rowb.toNat, x1 := o.xn.toNat
                idx := opAt vals k, pitch := (opAt vals (k + 1)).setWidth 32, setfe := o.setfe, inc := o.inc, outc := o.outc }
  | _ => base

/-- Values of registers at TEAM, one or two each. -/
def State.copyVals (s : State) (t : Team) : List (Reg × Nat) → List DWord × State
  | [] => ([], s)
  | (r, n) :: rs =>
    let (v, s) : DWord × State := if n = 2 then s.readPair t r
      else let (w, s) := s.readOne t r; (w.setWidth 64, s)
    let (vs, s) := s.copyVals t rs
    (v :: vs, s)

/-- A queue of a Lace engine. -/
def State.laceQueue (s : State) (core k : Nat) : List CEnt := Tbl.get [] (s.core core).lace k

/-- Replace a queue. -/
def State.setLace (s : State) (core k : Nat) (q : List CEnt) : State :=
  s.modCore core (fun c => { c with lace := Tbl.set c.lace k q })

/-- The queue of a Lace engine holds 16 copies (R243). -/
def State.laceFull (s : State) (core k : Nat) : Bool := decide (16 ≤ (s.laceQueue core k).length)

/-- A copy enters the queue of its engine at the tail (R243, R245). -/
def State.pushCopy (s : State) (core k id : Nat) (who : Issuer) (c : CopyOp) (landed counted : List Nat) : State :=
  let e : CEnt := { id := id, issuer := who, op := c, started := false, rows := [], counted := counted, read := [],
                    bytes := [], landed := landed, fault := none }
  s.setLace core k (s.laceQueue core k ++ [e])

/-- A team issues a copy. -/
def State.teamCopy (s : State) (t : Team) (i : Instr) : State :=
  let f := copyForm i
  match s.teamRegsCause t f.regs f.p.num.toNat with
  | some c => s.takeTrap t.ctx 2 (plainTrap c)
  | none =>
    let g := s.group t.group
    if !g.lmask.getLsbD f.le then s.takeTrap t.ctx 2 (plainTrap .quad)
    else
      let (vals, s) := s.copyVals t f.regs
      let c := copyOf i vals
      match s.copyCheck (s.whoOf t t.pc t.word) t.group c with
      | .trap tr => s.takeTrap t.ctx 2 tr
      | r =>
        let (on, s) := s.qPred t f.p
        match r, on with
        | _, false => s.advance t.ctx 2
        | .mem k va acc, true =>
          s.coreFaultRec t { s.teamRecord t 0 with kind := k.code, va := va, acc := acc }
        | _, true =>
          if t.full .st then s.stallAt t.ctx .st
          else if s.laceFull g.core f.le then s.stallOn t.ctx (.lace f.le)
          else
            let (id, s) := s.fresh
            let c := { c with fam := t.fam, pc := t.pc, word := t.word, seq := t.seq }
            let pk := { t.packet i .core .st true [pLane 0 [] 0] [] with copy := some c, progress := id }
            ((s.pushCopy g.core f.le id (.team t.ctx t.seq t.gen) c [] []).registerCopy t.group g.core f.le id c).issuePacket
              t.ctx 2 pk [] [] []

/-- An engine program issues a copy (R238, R241): the copy goes to the engine itself. -/
def State.engineCopy (s : State) (g k : Nat) (i : Instr) : State :=
  let e := s.engine g k
  let f := copyForm i
  if f.le != 0 || f.p.neg || f.p.num != 0 || f.regs.any (fun r => !engReg r.1 r.2) then s.engineStop g k
  else
    let c := copyOf i (f.regs.map (fun r => e.val r.1 r.2))
    match s.copyCheck (s.engineWho g e.fam e.pc e.word) g c with
    | .trap _ => s.engineStop g k
    | .mem kd va acc => s.parkEngine g k { s.engineHere g k true with kind := kd.code, va := va, acc := acc }
    | .ok =>
      let core := (s.group g).core
      if decide (63 ≤ e.out) || s.laceFull core (k - 1) then s
      else
        let (id, s) := s.fresh
        let c := { c with fam := e.fam, pc := e.pc, word := e.word, seq := e.seq }
        let s := (s.pushCopy core (k - 1) id (.engine g k) c [] []).registerCopy g core (k - 1) id c
        s.setEngine g k { (s.engine g k).advance 2 with out := e.out + 1, seq := e.seq + 1 }

/-- LACE (R241). -/
def execLace (o : LaceOps) (s : State) : Host.Outcome State Fault Refusal :=
  .next (s.byAgent (.lace o) (fun s t => s.teamCopy t (.lace o)) (fun s g k => s.engineCopy g k (.lace o)))

/-- LACEG (R244). -/
def execLaceg (o : LacegOps) (s : State) : Host.Outcome State Fault Refusal :=
  .next (s.byAgent (.laceg o) (fun s t => s.teamCopy t (.laceg o)) (fun s g k => s.engineCopy g k (.laceg o)))

/-! ### The engine at work -/

/-- The group for which a copy works. -/
def State.copyGroup (s : State) (e : CEnt) : Nat :=
  match e.issuer with
  | .engine g _ => g
  | .team ctx _ _ => (s.team? ctx).elim 0 (fun t => t.group)

/-- For whom a copy works. -/
def State.copyWho (s : State) (e : CEnt) : Who :=
  match e.issuer with
  | .engine g _ => s.engineWho g e.op.fam e.op.pc e.op.word
  | .team ctx _ _ =>
    match s.team? ctx with
    | some t => s.whoOf t e.op.pc e.op.word
    | none => { coreWho 0 0 with ctx := ctx }

/-- A copy does not go on: it has met a fault, its program is parked, or its launched team is halted. -/
def State.copyHeld (s : State) (e : CEnt) : Bool :=
  e.fault.isSome || (match e.issuer with
    | .engine g k => (s.engine g k).parked || s.famHalted e.op.fam
    | .team _ _ _ => false)

/-- Change the head of a queue. -/
def State.modHead (s : State) (core k : Nat) (f : CEnt → CEnt) : State :=
  match s.laceQueue core k with
  | e :: q => s.setLace core k (f e :: q)
  | [] => s

/-- A copy stops at a granule (R245). -/
def State.copyFault (s : State) (core k : Nat) (e : CEnt) (gran : Nat) (f : MFault) : State :=
  match e.issuer with
  | .engine g n =>
    s.parkEngine g n { s.engineRecord g n true e.op.fam e.op.pc e.op.word e.op.seq with
      kind := f.kind.code, level := f.level.toNat, va := f.va.toNat, acc := f.acc.toNat, pos := gran }
  | .team ctx seq _ =>
    let s := s.modHead core k (fun e => { e with fault := some (gran, f) })
    s.modTeam ctx (fun t => t.modPk seq (fun p =>
      { p with lanes := p.lanes.map (fun l => { l with vid := gran, fault := some f }) }))

/-- INB or OUTB of a copy's object falls (R196, R242); where this completes a phase, the engine's core is woken with LACE
(R40). -/
def State.countDown (s : State) (core g : Nat) (c : CopyOp) (inb : Bool) (n : Nat) : State :=
  match s.space g true c.bar 16 with
  | .spad h off =>
    let old := (s.group h).barrier off
    let s := s.updBarrier h off (fun o =>
      if inb then { o with inb := (o.inb + 2 ^ 48 - n % 2 ^ 48) % 2 ^ 48 }
      else { o with outb := (o.outb + 2 ^ 48 - n % 2 ^ 48) % 2 ^ 48 })
    if ((s.group h).barrier off).gen = old.gen then s else s.wakeCause core 2
  | _ => s

/-- A registered granule has landed. -/
def State.unregister (s : State) (id : Nat) (r : Option LaceReg) : State :=
  match r with
  | none => s
  | some x => { s with laceRegs := s.laceRegs.filter (fun y => !(y.copy == id && decide (y.place = x.place) && y.gran == x.gran)) }

/-- LACE_COPY_START (R243, R244): the copy at the head of a queue starts, a gather with the read of its
index list. -/
def execLaceCopyStart (core k : Nat) (s : State) : Host.Outcome State Fault Refusal :=
  .next (s.unlessHeld (fun s => match s.laceQueue core k with
    | [] => s
    | e :: _ =>
      if e.started || s.copyHeld e then s
      else
        let c := e.op
        let g := s.copyGroup e
        match c.instr with
        | .laceg _ =>
          match s.readIndex (s.copyWho e) g c with
          | (.error x, s) => s.copyFault core k e 0 (mfault x 0)
          | (.ok idx, s) =>
            let rows := ((List.range c.rows).zip idx).map (fun x =>
              (c.gathered x.2, c.dstRow x.1))
            let skipped := ((List.range c.rows).zip idx).flatMap (fun x =>
              if skipRow x.2 then (List.range c.rowGrans).map (fun j => x.1 * c.rowGrans + j) else [])
            let new := skipped.filter (fun j => !e.landed.contains j)
            let s := s.modHead core k (fun e => { e with started := true, rows := rows, landed := e.landed ++ new })
            let s := new.foldl (fun s j => s.unregister e.id (s.granReg g core k e.id (c.granDst j))) s
            if c.inc && !new.isEmpty then s.countDown core g c true (16 * new.length) else s
        | _ =>
          let rows := (List.range c.rows).map (fun r => (c.srcRow r, c.dstRow r))
          s.modHead core k (fun e => { e with started := true, rows := rows })))

/-- The copy that a Lace engine performs. -/
def State.runningCopy (s : State) (core k : Nat) : Option CEnt :=
  (s.laceQueue core k).head?.bind (fun e => if e.started && !s.copyHeld e then some e else none)

/-- The granules that one read of a source granule serves: those of every row of a gather with that source (R244). -/
def CEnt.sharing (e : CEnt) (gran : Nat) : List Nat :=
  let c := e.op
  match c.instr with
  | .laceg _ =>
    let src := (e.rows.getD (c.place gran).1 (0, 0)).1
    ((List.range e.rows.length).filter (fun q => (e.rows.getD q (0, 0)).1 == src)).map (fun q =>
      q * c.rowGrans + gran % max c.rowGrans 1)
  | _ => [gran]

/-- A granule may land (R242, R244): it has been read; the rows of a gather are written in ascending order. -/
def CEnt.mayLand (e : CEnt) (gran : Nat) : Bool :=
  e.read.contains gran && (match e.op.instr with
    | .laceg _ => (List.range ((e.op.place gran).1 * e.op.rowGrans)).all (fun j => e.landed.contains j)
    | _ => true)

/-- LACE_SOURCE_READ (R242): a source granule is read, for every row of a gather that takes it. -/
def execLaceSourceRead (core k gran : Nat) (s : State) : Host.Outcome State Fault Refusal :=
  .next (s.unlessHeld (fun s => match s.runningCopy core k with
    | none => s
    | some e =>
      let c := e.op
      if c.count ≤ gran ∨ e.read.contains gran ∨ e.landed.contains gran then s
      else
        let g := s.copyGroup e
        let (r, off) := c.place gran
        let src := (e.rows.getD r (0, 0)).1
        match s.homeRead (s.copyWho e) g (src + off) 16 with
        | (.error x, s) => s.copyFault core k e gran (mfault x 0)
        | (.ok bs, s) =>
          let same := e.sharing gran
          let new := same.filter (fun j => !e.read.contains j && !e.landed.contains j)
          let first := !(same.any (fun j => e.counted.contains j))
          let s := s.modHead core k (fun e => { e with
            read := e.read ++ new
            bytes := new.foldl (fun t j => Tbl.set t j bs) e.bytes
            counted := e.counted ++ same.filter (fun j => !e.counted.contains j) })
          if c.outc && first then s.countDown core g c false 16 else s))

/-- The write of a landing granule (R242, R353). -/
def State.landBytes (s : State) (w : Who) (g : Nat) (ea : DWord) (bs : List Byte) :
    Except (MemKind × Nat × DWord) Flags × State :=
  if bs.isEmpty then
    match s.matWrite1 w g false ea 16 (fun old => (old, 0)) with
    | (.ok _, s) => (.ok 0, s.poison1 w g ea 16)
    | r => r
  else s.matWrite1 w g true ea 16 (fun _ => (bs, 0))

/-- LACE_GRANULE_LANDING (R242): its bytes, its full bit, its count. -/
def execLaceGranuleLanding (core k gran : Nat) (s : State) : Host.Outcome State Fault Refusal :=
  .next (s.unlessHeld (fun s => match s.runningCopy core k with
    | none => s
    | some e =>
      if !e.mayLand gran then s
      else
        let c := e.op
        let g := s.copyGroup e
        let ea := c.granDst gran
        match s.landBytes (s.copyWho e) g ea (Tbl.get [] e.bytes gran) with
        | (.error x, s) => s.copyFault core k e gran (mfault x 1)
        | (.ok _, s) =>
          let s := s.modHead core k (fun e => { e with
            read := e.read.filter (fun j => j != gran), bytes := Tbl.del e.bytes gran, landed := e.landed ++ [gran] })
          let s := s.unregister e.id (s.granReg g core k e.id ea)
          let s := match s.space g true ea 16, c.setfe with
            | .spad h off, true => s.setFull h off true
            | _, _ => s
          if c.inc then s.countDown core g c true 16 else s))

/-- LACE_COPY_COMPLETE (R242): every granule has landed. -/
def execLaceCopyComplete (core k : Nat) (s : State) : Host.Outcome State Fault Refusal :=
  .next (match s.runningCopy core k with
    | none => s
    | some e =>
      if !(List.range e.op.count).all (fun j => e.landed.contains j) then s
      else
        let s := (s.setLace core k ((s.laceQueue core k).drop 1)).wakeCause core 2
        match e.issuer with
        | .team ctx seq _ => s.completeNow ctx seq
        | .engine g n => s.setEngine g n { s.engine g n with out := (s.engine g n).out - 1 })

end Sys2Proof.Machine
end

