-- ==== Sys2Proof/Machine/Resend.lean ====
section
/-! DEFINITION. Fault halts and resumes (02 R64 to R69; 10 R274; 18 R334 to R337), `hcall`, and the return
from a trap (09 R256). -/

namespace Sys2Proof.Machine

/-! ### Re-sending (R65) -/

/-- A packet about to be re-sent: the new generation, its faults and stops forgotten. -/
def Packet.renew (p : Packet) (gen : BitVec 8) : Packet :=
  let pos (l : PLane) : PLane := { l with fault := none, vid := if ownPos p.instr && !drainsRows p.instr then 0 else l.vid }
  { p with gen := gen, stop := none, checked := false, region := none, lanes := p.lanes.map pos }

/-- The lanes that a packet carries when it is sent again: those that are not done, or, of one that has completed and
has not been acknowledged, all. -/
def Packet.left (p : Packet) : List PLane := if p.complete then p.lanes else p.lanes.filter (fun l => !l.done)

/-- The fetches of a packet that are made again: those whose values have not come, or, of one that has completed,
all. -/
def Packet.unfetched (p : Packet) : List Fetch := if p.complete then p.fetches else p.fetches.filter (fun f => f.val.isNone)

/-- What the re-send of a packet sends. -/
def State.resendsOf (s : State) (t : Team) (p : Packet) : List Send × State :=
  match p.inst with
  | .welt w => ({ target := .welt w, op := .exec, lanes := p.left } ::
      fetchSends (p.unfetched.filter (fun f => f.welt != w)), s)
  | .awl ch => ([{ target := .awl ch, op := .exec, lanes := p.left }], s)
  | .core =>
    match p.instr, memOf p.instr with
    | .nest _ _ _, _ | .ragged _ _, _ => ([{ target := .core (s.coreOf t), op := .access, lanes := p.left }], s)
    | _, some m =>
      (match p.unfetched with
      | f :: _ => ([{ target := .welt f.welt, op := .base m.o.base, lanes := [] }], s)
      | [] => s.accessSends t m (p.left.map (fun l => { l with done := false })))
    | _, none => (fetchSends p.unfetched, s)

/-- A re-sent matrix instruction takes its place in a queue by the order of issue, behind what has started there (R213,
R216), with the loop state that the halt left in the quadrant. -/
def Quad.readmit (q : Quad) (e : QEnt) (ctx : Nat) (seq : BitVec 16) : Quad :=
  let mine (h : Nat × BitVec 16 × LoopSt) : Bool := h.1 == ctx && h.2.1 == seq
  let e := match q.held.find? mine with
    | some h => { e with loop := h.2.2 }
    | none => e
  let first (x : QEnt) : Bool := x.started || decide (x.id < e.id)
  let n := (q.queue.zip (List.range q.queue.length)).foldl (fun a x => if first x.1 then x.2 + 1 else a) 0
  { q with queue := q.queue.take n ++ [e] ++ q.queue.drop n, held := q.held.filter (fun h => !mine h) }

/-- A matrix packet is re-sent. -/
def State.readmit (s : State) (t : Team) (p : Packet) (op : MatOp) : State :=
  let done := (p.lanes.filter (fun l => l.done)).map (fun l => l.vid)
  let e : QEnt := { id := op.no, issuer := .team t.ctx p.seq t.gen, op := op, qset := qsetOf op.instr, started := false,
                    asked := false, granted := false
                    loop := { noLoop with touched := if drainsRows op.instr then done else [], flags := p.flags } }
  s.modGroup t.group (fun g => { g with quads := g.quads.map (fun x =>
    if op.quads.contains x.1 then (x.1, x.2.readmit e t.ctx p.seq) else x) })

/-- A lane-shaped instruction whose sweep a save has cut (R69). -/
def Packet.cut (p : Packet) : Option OpDesc :=
  if p.inst = .core ∧ p.fetches.isEmpty then descOf p.instr else none

/-- One packet is re-sent under the team's generation. What has completed is answered again from the records, or, at
a quadrant or a Lace engine, has no effect again; a sweep that was cut is swept to its end. -/
def State.resendPk (s : State) (ctx : Nat) (seq : BitVec 16) : State :=
  match (s.team? ctx).bind (fun t => (t.pk? seq).map (fun p => (t, p))) with
  | none => s
  | some (t, p) =>
    let p := p.renew t.gen
    let t := t.modPk seq (fun _ => p)
    let s := s.setTeam t
    match p.mat, p.copy, p.cut with
    | some op, _, _ => if p.complete then s else s.readmit t p op
    | none, some c, _ =>
      let le := (copyForm c.instr).le
      if p.complete then s
      else s.pushCopy (s.coreOf t) le p.progress (.team ctx seq t.gen) c p.landed p.counted
    | none, none, some d => (s.finishDesc ctx d p).modTeam ctx (fun t => t.dropPk seq)
    | none, none, none =>
      let (xs, s) := s.resendsOf t p
      let rs := xs.map (fun x => t.req s.clock p x)
      (s.sendReqs rs).modTeam ctx (fun t =>
        { t with sends := if rs.isEmpty then t.sends else noteSend t.gen s.clock t.sends })

/-- THE REPLAY SET IS RE-SENT in sequence order (R65). -/
def State.resendAll (s : State) (ctx : Nat) : State :=
  match s.team? ctx with
  | none => s
  | some t => t.replay.foldl (fun s p => s.resendPk ctx p.seq) s

/-- A resume under generation `gen` is held (R64): it lies 64 or more ahead of one under which the team sent
less than 1 ms ago. -/
def Team.genHeld (t : Team) (gen : BitVec 8) (clock : Nat) : Bool :=
  t.sends.any (fun e => decide (64 ≤ (gen - e.1).toNat) && decide (clock < e.2 + msCycles))

/-- What targets and links keep of a team's earlier generations is gone where it can no longer matter (R64): requests
sent a millisecond ago or more have reached their target or were dropped, and a discard under the generation that
begins belongs to one 256 generations ago. -/
def State.newGen (s : State) (ctx : Nat) : State :=
  match s.team? ctx with
  | none => s
  | some t => { s with
      reqs := s.reqs.filter (fun r => r.ctx != ctx || r.orphan || decide (s.clock < r.sent + msCycles))
      discards := s.discards.filter (fun d => !(d.1 == ctx && d.2.2.1 == t.gen)) }

/-- A halted team goes on (R65, R336): what it waits for at the core, it waits for again. -/
def State.resumeNow (s : State) (ctx : Nat) : State :=
  let s := s.newGen ctx
  let s := s.modTeam ctx (fun t => { t with parked := if t.fewLeft then .few else .no, hold := false, img := .running })
  let s := s.resendAll ctx
  match s.team? ctx with
  | some t => s.wakeCause (s.coreOf t) 9
  | none => s

/-- A RESUME (R64, R336): at once, or held until the generation may be used. -/
def State.resume (s : State) (ctx : Nat) : State :=
  match s.team? ctx with
  | none => s
  | some t => if t.genHeld t.gen s.clock then s.setTeam { t with hold := true } else s.resumeNow ctx

/-- GENERATION_HOLD_EXPIRY (R64). -/
def execGenerationHoldExpiry (ctx : Nat) (s : State) : Host.Outcome State Fault Refusal :=
  .next (match s.team? ctx with
    | none => s
    | some t => if t.hold && !t.genHeld t.gen s.clock then s.resumeNow ctx else s)

/-! ### The fault halt (R67) -/

/-- The instruction that a fault halt reports, once every older one has completed or is exempt. -/
def State.reportable (s : State) (t : Team) : Option Packet :=
  match (t.replay.filter (fun p => !p.complete)).dropWhile (fun p => !p.faulted && s.exempt t p) with
  | p :: _ => if p.faulted then some p else none
  | [] => none

/-- The trap of a stop that needs no service (R168, R274); a link that is down traps nothing. -/
def StopKind.trap : StopKind → Trap
  | .align a => { cause := .align, addr := a, code := 0 }
  | .cpeer o => { cause := .cpeer, addr := BitVec.ofNat 64 o, code := 0 }
  | .mmx | .linkdown _ => plainTrap .mmx

/-- A race, or an address that a Welt unit cannot form (R168, R274): the halt ends at once, the others are
re-sent, and the trap is taken with the instruction kept in handler state. -/
def State.stopHalt (s : State) (t : Team) (p : Packet) (k : StopKind) : State :=
  let (rs, ps) := s.pendOf t p
  let s := s.halt t.ctx .halted
  let s := s.modTeam t.ctx (fun t => ((t.lower' p.ctr).dropPk p.seq).unpend p.path rs ps)
  let s := s.modTeam t.ctx (fun t => { t with parked := .no })
  let s := s.resendAll t.ctx
  s.takeTrapAt t.ctx k.trap
    { pc := p.pc, word := p.word, rpc := t.pc, rword := t.word, spc := t.pc, sword := t.word
      tested := t.loaded || t.tested } false (some p)

/-- A team whose request was lost with a link parks as at a fault halt, and sends a LINKDOWN record (R361). -/
def State.linkHalt (s : State) (t : Team) (p : Packet) (va : Nat) : State :=
  let g := s.group t.group
  let s := (s.halt t.ctx .fault).errorReport g.vd g.incarn { errRec 5 t.ctx (va / 128 * 128) with
    pc := p.pc.toNat, word := p.word, core := g.core }
  s.stopDrain g.gang

/-- FAULT_HALT (R67, R68): the team halts at its oldest faulting instruction. -/
def execFaultHalt (ctx : Nat) (s : State) : Host.Outcome State Fault Refusal :=
  .next (match s.team? ctx with
    | none => s
    | some t =>
      if t.parked = .fault ∨ t.parked = .halted ∨ t.parked = .hcall ∨ s.midMatrix t then s
      else match s.reportable t with
        | none => s
        | some p =>
          match p.stop with
          | some (.linkdown va) => s.linkHalt t p va
          | some k => if t.genHeld (t.gen + 1) s.clock then s else s.stopHalt t p k
          | none =>
            match s.packetRecord t p with
            | some r => s.haltFault t r
            | none => s)

/-! ### Service (R336) -/

/-- The writer is the manager of a VD's domain (R325). -/
def State.isManager (s : State) (w : Writer) (v : Nat) : Bool := decide (w = .dm (s.vd v).domain.toNat) && decide (v < 64)

/-- A team parked for a record, or saved while it was. -/
def Team.forRecord (t : Team) : Bool :=
  (t.parked == .fault && t.img != .resumed) || t.parked == .hcall || t.img == .hcall

/-- A request of a resident team waits at a stack whose zone is fenced (R371). -/
def State.atFence (s : State) (t : Team) : Bool :=
  let fenced (stack : Nat) : Bool := (s.zone (64 + stack)).state == 10
  let waits (r : Req) : Bool := r.ctx == t.ctx && !r.orphan && (match r.target with
    | .welt w | .msc w => fenced w
    | .awl ch => fenced (ch / 64)
    | _ => false)
  !s.isSaved t.group && (s.reqs.any waits || s.trips.any (fun x => x.ctx == t.ctx && !x.wb && fenced x.stack))

/-- The manager decides on a team: it is parked for a record, or waits at a fence (R336, R371). -/
def State.awaitsManager (s : State) (t : Team) : Bool := t.forRecord || s.atFence t

/-- The launched teams of a VD, by context id, that have an engine program parked at a memory fault: group
and program. -/
def State.parkedEngines (s : State) (v ctx : Nat) : List (Nat × Nat) :=
  s.groups.flatMap (fun g => (g.2.engines.filter (fun e =>
    g.2.vd == v && e.2.parked && e.2.running && (s.fam e.2.fam).ctx == ctx && !(s.fam e.2.fam).ended)).map (fun e => (g.1, e.1)))

/-- STALE is set (R336). -/
def State.stale (s : State) (v : Nat) : State := s.modVD v (fun d => { d with stale := true })

/-- A team parked for a record is resumed; one that lies saved has its image marked; one that waits at a fence sends
its replay set again (log entry 62). -/
def State.resumeTeam (s : State) (t : Team) : State :=
  if !t.forRecord then (if s.midMatrix t then s else (s.halt t.ctx .halted).resume t.ctx)
  else if s.isSaved t.group then (s.setTeam { t with img := .resumed }).markImage { t with img := .resumed }
  else if t.parked = .hcall ∧ t.img ≠ .hcall then (s.setTeam { t with parked := .no }).wakeCause (s.coreOf t) 9
  else s.resume t.ctx

/-- FAULT_RESUME (R336, R240). -/
def execFaultResume (wr : Writer) (v ctx : Nat) (s : State) : Host.Outcome State Fault Refusal :=
  .next (
    if !s.isManager wr v then s
    else
      let engs := s.parkedEngines v ctx
      let s := engs.foldl (fun s e => s.setEngine e.1 e.2 { s.engine e.1 e.2 with parked := false }) s
      match s.team? ctx with
      | some t => if s.vdOf t == v && s.awaitsManager t then s.resumeTeam t else if engs.isEmpty then s.stale v else s
      | none => if engs.isEmpty then s.stale v else s)

/-- FAULT_KILL (R336). -/
def execFaultKill (wr : Writer) (v ctx : Nat) (s : State) : Host.Outcome State Fault Refusal :=
  .next (
    if !s.isManager wr v then s
    else match s.team? ctx, s.parkedEngines v ctx with
      | some t, es =>
        if s.vdOf t == v && s.awaitsManager t then s.kill t.fam .fault
        else (match es with
          | (g, k) :: _ => s.kill (s.engine g k).fam .fault
          | [] => s.stale v)
      | none, (g, k) :: _ => s.kill (s.engine g k).fam .fault
      | none, [] => s.stale v)

/-- FAULT_QUEUE_RD_WRITE (R325, R335): records held for want of room are written. -/
def execFaultQueueRdWrite (wr : Writer) (v : Nat) (rd : BitVec 16) (s : State) : Host.Outcome State Fault Refusal :=
  .next (
    if !s.isManager wr v then s
    else
      let s := s.modVD v (fun d => { d with fq := { d.fq with rd := BitVec.ofNat 16 (rd.toNat % ringSize 4 d.fq.log2) } })
      s.drainFaults v ((s.vd v).fqHeld.length + 1))

/-! ### hcall, rfh (R256) -/

/-- HCALL (R256, R334): a record of TYPE 1, and the team parked at the next clause header. -/
def execHcall (o : FRI) (s : State) : Host.Outcome State Fault Refusal :=
  .next (s.byTeam (.hcall o) (fun s t =>
    s.guarded t 1 [] o.p (fun s => s.fallThrough t.ctx) (fun s =>
      let s := s.sendRecord t { s.teamRecord t 1 with code := o.imm.toNat }
      s.settle { t.endClause t.nextHeader with parked := .hcall })))

/-- A team leaves its handler (R256): the position is restored, nothing else; a FEW load that it still
awaits parks it again. -/
def State.leave (s : State) (t : Team) (skip : Bool) : State :=
  let t := { t.leaveHandler skip with retired := t.retired + 1 }
  s.settle { t with parked := if t.fewLeft then .few else .no }

/-- The kept instruction of a race joins the replay set again and is re-sent (R256, R274). -/
def State.resendKept (s : State) (t : Team) (p : Packet) : State :=
  let (rs, ps) := s.pendOf t p
  let t := { t.raise p.ctr with
    replay := t.replay ++ [p]
    pend := t.pend ++ rs.map (fun r => (p.path, BitVec.ofNat 8 r))
    pendP := t.pendP ++ ps.map (fun q => (p.path, q)) }
  (s.setTeam t).resendPk t.ctx p.seq

/-- `rfh` and `rfh.skip` (R256): outside handler mode ILLEGAL, whatever the predicate holds (R51, R109). -/
def State.rfhForm (s : State) (t : Team) (p : Pred) (f : State → State) : State :=
  match s.teamRegsCause t [] p.num.toNat with
  | some c => s.takeTrap t.ctx 1 (plainTrap c)
  | none =>
    if !t.handler.mode then s.takeTrap t.ctx 1 (plainTrap .illegal)
    else s.guarded t 1 [] p (fun s => s.fallThrough t.ctx) f

/-- RFH (R256). -/
def execRfh (o : F3) (s : State) : Host.Outcome State Fault Refusal :=
  .next (s.byTeam (.rfh o) (fun s t =>
    s.rfhForm t o.p (fun s =>
      match t.handler.kept with
      | none => s.leave t false
      | some p =>
        if t.full p.ctr then s.stallAt t.ctx p.ctr
        else
          let s := s.resendKept t p
          (match s.team? t.ctx with
          | some t => s.leave t false
          | none => s))))

/-- RFH_SKIP (R256). -/
def execRfhSkip (o : F3) (s : State) : Host.Outcome State Fault Refusal :=
  .next (s.byTeam (.rfhSkip o) (fun s t => s.rfhForm t o.p (fun s => s.leave t true)))

end Sys2Proof.Machine
end

