-- ==== Sys2Proof/Machine/Clause.lean ====
section
/-! DEFINITION. The start of a clause (04 R95 to R101): its fetch, the checks of the header and of the
clause whole, and the waits of the header. -/

namespace Sys2Proof.Machine

/-! ### The header (R96) -/

/-- A field of a header. -/
def hdr (h : DWord) (lo n : Nat) : Nat := bitsAt h.toNat lo n

/-- A header that a stream of class `eng` may not run (R96, R97, R99, R101). -/
def headerBad (eng : Nat) (h : DWord) : Bool :=
  hdr h 60 4 != 12 || hdr h 56 4 != eng || hdr h 0 29 != 0
  || (hdr h 33 1 == 0 && hdr h 29 4 != 0)
  || (eng != 0 && (hdr h 34 18 != 2 ^ 18 - 1 || hdr h 33 1 != 0))

/-- The words of a clause (R96). -/
def clauseLen (h : DWord) : Nat := hdr h 52 4 + 1

/-- A control instruction, by opcode (R98). -/
def isControl (eng opc : Nat) : Bool :=
  within 0x30 0x35 opc || [0x3C, 0xD0, 0xD1, 0xD2, 0xD3].contains opc || (eng != 0 && opc == 0xC1)

/-- A clause that is ill-formed as a whole (R99): words past its end, or a control instruction before
its last word. -/
def clauseBad (eng : Nat) : Nat → List DWord → Bool
  | 0, ws => !ws.isEmpty
  | fuel + 1, ws =>
    match ws with
    | [] => false
    | w :: rest =>
      let n := wordCount w
      if ws.length < n then true
      else if isControl eng (w.extractLsb' 56 8).toNat && !rest.isEmpty then true
      else clauseBad eng fuel (ws.drop n)

/-- The counters let the clause start (R96). -/
def countersMet (h : DWord) (t : Team) : Bool :=
  let ok (bound n : Nat) : Bool := bound == 63 || decide (n ≤ bound)
  ok (hdr h 46 6) (t.out .ld) && ok (hdr h 40 6) (t.out .pl) && ok (hdr h 34 6) (t.out .st)

/-- The watch slot that a header names, if it watches one. -/
def watchOf (h : DWord) : Option Nat := if hdr h 33 1 = 1 then some (hdr h 30 3) else none

/-- The offset in a watch slot of a team. -/
def Team.watchSlot (t : Team) (k : Nat) : Option Nat := (t.watch[k]?).join

/-- The barrier watch lets the clause start (R97, R200). -/
def State.watchMet (s : State) (t : Team) (h : DWord) : Bool :=
  match watchOf h with
  | none => true
  | some k => t.bar.any (fun b => b.met.isSome) ||
      (t.watchSlot k).elim false (fun off => ((s.group t.group).barrier off).phaseMet (hdr h 29 1 == 1))

/-- The object that a header watches, for a team that waits there. -/
def Team.headerBar (t : Team) (h : DWord) : Option BarWait :=
  match t.bar with
  | some b => some b
  | none => ((watchOf h).bind t.watchSlot).map (fun off => { off := off, ph1 := hdr h 29 1 == 1, met := none })

/-- The waits of a header are met (R37, R97). -/
def State.waitsMet (s : State) (t : Team) (h : DWord) : Bool := countersMet h t && s.watchMet t h

/-! ### The fetch (R99, R100) -/

/-- What a fetch of code finds. -/
inductive Fetched where
  | words (ws : List DWord)
  | fault (k : MemKind) (level : Nat) (va : DWord)
  | poison (va : DWord)
deriving DecidableEq, Repr

/-- Words of code, read through the constant path; code lies in virtual memory. -/
def State.fetchWords (s : State) (w : Who) : Nat → DWord → Fetched × State
  | 0, _ => (.words [], s)
  | n + 1, va =>
    if (va >>> 56) != 0 then (.fault .noncanon 7 va, s)
    else match s.pathRead w false va.toNat 8 with
      | (.fault k l, s) => (.fault k l va, s)
      | (.poison, s) => (.poison va, s)
      | (.data bs, s) =>
        (match s.fetchWords w n (va + 8) with
        | (.words ws, s) => (.words (DWord.ofBytes bs :: ws), s)
        | r => r)

/-- A clause that is fetched: header and words, or nothing where the header is ILLEGAL. -/
def State.fetchClause (s : State) (w : Who) (eng : Nat) (pc : DWord) : Fetched × State :=
  match s.fetchWords w 1 pc with
  | (.words (h :: _), s) =>
    if headerBad eng h then (.words [], s)
    else (match s.fetchWords w (clauseLen h) (pc + 8) with
      | (.words ws, s) => (.words (h :: ws), s)
      | r => r)
  | r => r

/-! ### A team -/

/-- A team at a header with its words: the watch slot must be loaded; the waits are tested, unless they have
been met already; where they are not, the team waits with the clause as it was fetched, or its path of a
fallback gives way (R21, R97); words that make the clause ILLEGAL are found before the first issues (R99). -/
def State.startClause (s : State) (t : Team) (h : DWord) (ws : List DWord) : State :=
  if (watchOf h).elim false (fun k => (t.watchSlot k).isNone) then s.takeTrap t.ctx 1 (plainTrap .illegal)
  else if !t.tested && !s.waitsMet t h then
    let t := { t with clause := h :: ws, bar := t.headerBar h }
    if t.inFallback then s.giveWay t.alternate else s.stand t.wait
  else if clauseBad 0 16 ws then s.takeTrap t.ctx 1 (plainTrap .illegal)
  else
    let s := s.setTeam { t with clause := ws, loaded := true, tested := true, waiting := false
                                bar := if t.tested then t.bar else none }
    if t.tested || (watchOf h).isNone then s else s.syncRegions t.ctx .core t.vids false true

/-- A team starts the clause where it stands. -/
def State.teamClause (s : State) (t : Team) : State :=
  if t.loaded then s
  else match t.clause with
    | h :: ws => s.startClause t h ws
    | [] =>
      match s.fetchClause (s.whoOf t t.pc t.word) 0 t.pc with
      | (.fault k l va, s) =>
        s.coreFaultRec t { s.teamRecord t 0 with kind := k.code, level := l, va := va.toNat }
      | (.poison va, s) => s.consume t t.pc t.word va.toNat
      | (.words [], s) => s.takeTrap t.ctx 1 (plainTrap .illegal)
      | (.words (h :: ws), s) => s.startClause t h ws

/-! ### An engine program -/

/-- An engine program starts the clause where it stands (R101, R240). -/
def State.engineClause (s : State) (g k : Nat) : State :=
  let e := s.engine g k
  if e.loaded then s
  else
    match s.fetchClause (s.engineWho g e.fam e.pc e.word) (if 8 ≤ k then 1 else 2) e.pc with
    | (.fault kd l va, s) =>
      s.parkEngine g k { s.engineHere g k true with kind := kd.code, level := l, va := va.toNat }
    | (.poison va, s) => s.killEngine g k va.toNat
    | (.words [], s) => s.engineStop g k
    | (.words (_ :: ws), s) =>
      if clauseBad (if 8 ≤ k then 1 else 2) 16 ws then s.engineStop g k
      else s.setEngine g k { e with clause := ws, loaded := true }

/-- CLAUSE_START (R97 to R101), of the agent whose turn it is. -/
def execClauseStart (s : State) : Host.Outcome State Fault Refusal :=
  .next (s.unlessHeld (fun s => match s.turn with
    | .none => s
    | .engine g k => s.engineClause g k
    | .team ctx => match s.team? ctx with
      | some t => s.teamClause t
      | none => s))

end Sys2Proof.Machine
end

