-- ==== Sys2Proof/Machine/Sched.lean ====
section
/-! DEFINITION. Issue windows (01 R35 to R40; 17 R311 to R316): the scheduler's pick, lending and
reclaim, the gating and waking of a core's team stream, and frame boundaries. -/

namespace Sys2Proof.Machine

/-! ### Ready teams (R37) -/

/-- The instruction where a team stands, if its clause is fetched. -/
def Team.here (t : Team) : Option Instr :=
  if t.loaded then (match decode (t.clause.drop t.word) with
    | .ok i => some i
    | .error _ => none) else none

/-- What a parked team awaits has come (R199, R239). -/
def State.released (s : State) (t : Team) : Bool :=
  match t.parked with
  | .no => true
  | .rdv => (s.fam t.fam).forks.isEmpty
  | .barwait => t.bar.elim true (fun b => b.met.isSome)
  | _ => false

/-- An `arrive` that waits can go on (R198), or meets its fault. -/
def State.arriveMet (s : State) (t : Team) (o : FMem) : Bool :=
  let off := barOffset o (s.readOne t o.base).1
  let obj := (s.group t.group).barrier off
  if s.barOut t off then !s.faultWaits t
  else t.out .ld == 0 && t.out .st == 0 && (!obj.inited || obj.pend != 0)

/-- What an instruction that waits where its team stands waits for has come: the counters of a mixed `brdiv`, a
`join` or a fence (R15, R19, R87, R193 to R195), the phase before it of an `arrive` (R198), the engine of a `fork`
(R237), or the end of the older instructions that hold a fault halt (R67). A `tend` that commits is done with by the
commit (R189). -/
def State.holdMet (s : State) (t : Team) : Bool :=
  !t.waiting || (match t.here with
    | some (.brdiv _) => t.drained
    | some (.join _) => t.drained
    | some (.tfence _) => t.drained
    | some (.placef _) => t.drained
    | some (.fence o) => t.out .ld == 0 && (o.ord == .acq || t.out .st == 0)
    | some (.pathf _ _) => t.out .ld == 0 && t.out .st == 0
    | some (.arrive o) => s.arriveMet t o
    | some (.arriveInb o) => s.arriveMet t o
    | some (.arriveOutb o) => s.arriveMet t o
    | some (.fork o) => !(s.group t.group).forkHeld o
    | some (.tend _) => !t.tend
    | _ => !s.faultWaits t)

/-- A team can go on where it stands (R37): the waits of its header are met, or those of the instruction within its
clause. A clause not yet fetched must be. -/
def State.pathMet (s : State) (t : Team) : Bool :=
  if t.loaded then t.bar.all (fun b => b.met.isSome) && s.holdMet t
  else match t.clause with
    | [] => s.holdMet t
    | h :: _ => t.tested || s.waitsMet t h

/-- The team may go on; in a serial fallback, on any of its paths (R21). -/
def State.mayStart (s : State) (t : Team) : Bool :=
  match t.paths with
  | [] => s.pathMet t
  | p :: ps =>
    (t.pathReady p && s.pathMet t) || ps.any (fun q => t.pathReady q && s.pathMet (t.setPaths [q]))

/-- A team that is picked runs on where it stands if it can, and otherwise on the first path that can (R21). -/
def State.turned (s : State) (t : Team) : Team :=
  match t.paths with
  | [] => t
  | p :: ps =>
    if t.pathReady p && s.pathMet t then t
    else match ps.findIdx? (fun q => t.pathReady q && s.pathMet (t.setPaths [q])) with
      | some i => t.setPaths (ps.drop i ++ [t.pathNow p] ++ ps.take i)
      | none => t

/-- What a clause stalls on stands (R36): a full counter, a full queue, a program that runs on the quadrants. -/
def State.stalled (s : State) (t : Team) : Stall → Bool
  | .full c => t.full c
  | .quads qs => (s.group t.group).queueFull qs || (s.group t.group).programOn qs
  | .lace k => s.laceFull (s.coreOf t) k

/-- A team is ready (R37); one that stalls is not (R36). -/
def State.ready (s : State) (t : Team) : Bool :=
  !t.lanes.isEmpty && s.released t && t.stall.all (fun x => !s.stalled t x) && s.mayStart t

/-- The zone of a core is HOT (R368). -/
def State.zoneHot (s : State) (c : Nat) : Bool := (s.zone (zoneOf c)).state.toNat == 2

/-- The core issues nothing: its clock is stopped (R369), or it is offline (R371). -/
def State.coreOff (s : State) (c : Nat) : Bool := (s.core c).stopped || (s.zone (zoneOf c)).state.toNat == 10

/-- The teams of a VD on a core. -/
def State.vdTeams (s : State) (c v : Nat) : List Team := (s.coreTeams c).filter (fun t => s.vdOf t == v)

/-- The team of a VD whose clause a window's end or a reclaim has cut (R36). -/
def State.suspended (s : State) (c v : Nat) : Option Team :=
  ((Tbl.get? (s.core c).cut v).bind s.team?).filter (fun t => s.ready t)

/-- That team stalls within its clause still (R57, R213, R243): no other team of its VD is switched in (R36). -/
def State.heldUp (s : State) (c v : Nat) : Bool :=
  ((Tbl.get? (s.core c).cut v).bind s.team?).any (fun t => t.parked == .no && t.stall.any (s.stalled t))

/-- A switch that gives the core's die to a VD is not through (R346): the VD has not started there. -/
def State.awaitsSwitch (s : State) (c v : Nat) : Bool :=
  s.sw.go && s.sw.begun && s.sw.dies.getLsbD (dieOf c) && s.sw.invd.toNat == v

/-- The pick of a VD's teams (R36): a suspended team continues; else the ready team that issued least
recently, the lower slot first. In a HOT zone no team starts a clause (R368). -/
def State.choose (s : State) (c v : Nat) : Option Team :=
  if s.awaitsSwitch c v then none
  else match s.suspended c v with
  | some t => some t
  | none =>
    if s.heldUp c v then none
    else leastBy (fun t => t.last * 64 + t.slot) ((s.vdTeams c v).filter (fun t =>
      s.ready t && (!s.zoneHot c || t.loaded)))

/-- A VD has a ready team on the core. -/
def State.hasReady (s : State) (c v : Nat) : Bool := (s.choose c v).isSome

/-! ### Owners and borrowers (R311, R315) -/

/-- The calendar entry of an owner: a VD, or free. -/
def entryVd (e : Byte) : Option Nat := if e.getLsbD 7 then some (e.toNat % 64) else none

/-- The number of the present window of a frame (R35). -/
def windowNo (clock : Nat) : Nat := clock / 16 % 64

/-- The owner of the running window of a core; an entry of a VD whose domain lacks an L1 way or a lane
slice there is free (R311). -/
def State.windowOwner (s : State) (c : Nat) : Option Nat :=
  let k := s.core c
  match entryVd (Tbl.get 0 k.cal.active ((k.window - 1) % 64)) with
  | none => none
  | some v =>
    let owns (lo : Nat) : Bool := (List.range 16).any (fun i => s.ownsUnit c (s.vd v).domain.toNat (lo + i))
    if owns 24 && owns 40 then some v else none

/-- The domain of a VD. -/
def State.domOf (s : State) (v : Nat) : Nat := (s.vd v).domain.toNat

/-- The VD's domain is sealed (R307). -/
def State.isSealed (s : State) (v : Nat) : Bool := (s.domain (s.domOf v)).sealed

/-- The order of borrowers within a list (R315): class, then the one that borrowed least recently, then
number. -/
def State.borrowRank (s : State) (borrowed : Tbl Nat) (v : Nat) : Nat :=
  ((s.vd v).cls.toNat * 2 ^ 100 + Tbl.get 0 borrowed v) * 64 + v

/-- The borrower of a unit (R315): `wants` the VDs that could use it, `level` their tokens. -/
def State.borrower (s : State) (owner : Option Nat) (borrowed : Tbl Nat) (level : Nat → Nat) (wants : Nat → Bool) :
    Option Nat :=
  let able := (List.range 64).filter (fun v => wants v && decide (1 ≤ level v) && decide (owner ≠ some v))
  let own := owner.elim [] (fun o => able.filter (fun v => s.domOf v == s.domOf o))
  let open_ := owner.elim true (fun o => !s.isSealed o)
  let others := able.filter (fun v => !s.isSealed v && owner.elim true (fun o => s.domOf v != s.domOf o))
  match leastBy (s.borrowRank borrowed) own with
  | some v => some v
  | none => if open_ then leastBy (s.borrowRank borrowed) others else none

/-- A token is spent by a borrower, who is noted as the last. -/
def spendToken (bkt : Tbl Bucket) (v : Nat) : Tbl Bucket :=
  Tbl.upd resetBucket bkt v (fun b => { b with level := b.level - 1 })

/-! ### The pick (R36) -/

/-- A team runs in the window of its core; the window counts as used by its VD (R394). -/
def State.give (s : State) (c v : Nat) (t : Team) : State :=
  let first := decide ((s.core c).used ≠ some v)
  let s := s.modCore c (fun k => { k with running := some t.ctx, used := some v, cut := Tbl.del k.cut v })
  let s := s.setTeam { s.turned t with parked := .no, waiting := false }
  if first then s.modVD v (fun d => { d with usage := { d.usage with windows := d.usage.windows + 1 } }) else s

/-- The window goes to a borrower, at the cost of a token (R314, R315). -/
def State.lend (s : State) (c : Nat) (owner : Option Nat) : State :=
  let k := s.core c
  match s.borrower owner k.borrowed (fun v => (Tbl.get resetBucket k.bkt v).level.toNat) (s.hasReady c) with
  | none => s
  | some v =>
    let (now, s) := s.fresh
    let s := s.modCore c (fun k => { k with
      curVd := some v, lent := true, bkt := spendToken k.bkt v, borrowed := Tbl.set k.borrowed v now })
    match s.choose c v with
    | some t => s.give c v t
    | none => s

/-- No resident team is ready: the team stream is gated (R39). -/
def State.gate (s : State) (c : Nat) : State :=
  if (s.coreTeams c).any s.ready then s else s.modCore c (fun k => { k with gated := true, acc := 0 })

/-- The scheduler picks (R36, R315), where a window runs and no team does; a team that runs and stalls keeps its
window (R36), and gates the stream where no other is ready (R39). -/
def State.schedule (s : State) (c : Nat) : State :=
  let k := s.core c
  if k.window == 0 || k.gated || s.coreOff c then s
  else if k.running.isSome then s.gate c
  else
    let v? := if k.lent then k.curVd else s.windowOwner c
    match v?.bind (fun v => (s.choose c v).map (fun t => (v, t))) with
    | some (v, t) => (s.modCore c (fun k => { k with curVd := some v })).give c v t
    | none => (if k.lent then s else s.lend c (s.windowOwner c)).gate c

/-- The running window of a core has passed. -/
def State.windowOver (s : State) (c : Nat) : Bool := (s.core c).window != s.clock / 16 + 1

/-- The running team of a core is suspended: in the middle of a clause, it is the one of its VD that continues
(R36). -/
def State.suspend (s : State) (c : Nat) : State :=
  let cut : Tbl Nat := match (s.core c).running.bind s.team? with
    | some t => if t.loaded then Tbl.set (s.core c).cut (s.vdOf t) t.ctx else (s.core c).cut
    | none => (s.core c).cut
  s.modCore c (fun k => { k with running := none, cut := cut })

/-- A window ends: a running team is suspended (R36). -/
def State.endWindow (s : State) (c : Nat) : State :=
  (s.suspend c).modCore c (fun k => { k with window := 0, running := none, curVd := none, lent := false, used := none })

/-- ISSUE_WINDOW_END (R36): once its 16 cycles have passed. -/
def execIssueWindowEnd (c : Nat) (s : State) : Host.Outcome State Fault Refusal :=
  .next (if (s.core c).window != 0 && s.windowOver c then s.endWindow c else s)

/-- ISSUE_WINDOW_START (R35, R36): the window of the present 16 cycles, once. -/
def execIssueWindowStart (c : Nat) (s : State) : Host.Outcome State Fault Refusal :=
  .next (
    if decide (1024 ≤ c) || !s.windowOver c then s
    else ((s.endWindow c).modCore c (fun k => { k with window := s.clock / 16 + 1 })).schedule c)

/-- WINDOW_RECLAIM (R316): a class A owner with a ready team takes its lent window back; the borrower's team
is suspended. -/
def execWindowReclaim (c : Nat) (s : State) : Host.Outcome State Fault Refusal :=
  .next (match s.windowOwner c with
    | some v =>
      if (s.core c).lent && (s.vd v).cls == 0 && s.hasReady c v && (s.core c).window != 0 then
        ((s.suspend c).modCore c (fun k => { k with lent := false, curVd := some v })).schedule c
      else s
    | none => s)

/-- TEAM_STREAM_WAKE (R39, R40): the accumulated causes become readable. A team that has become ready
wakes the stream without one too. -/
def execTeamStreamWake (c : Nat) (s : State) : Host.Outcome State Fault Refusal :=
  .next (
    let k := s.core c
    if k.gated && (k.acc != 0 || (s.coreTeams c).any s.ready) then
      s.setCore c { k with wake := k.acc ||| 0x100, acc := 0, gated := false }
    else s)

/-! ### Frame boundaries (R313) -/

/-- A bucket is refilled (R314). -/
def Bucket.refill (b : Bucket) : Bucket :=
  { b with level := BitVec.ofNat 12 (min b.sigma.toNat (b.level.toNat + b.rho.toNat)) }

/-- A staged calendar becomes active (R311). -/
def Calendar.boundary (k : Calendar) : Calendar := if k.swap then { k with active := k.staged, swap := false } else k

/-- A contract entry at a boundary (R314, R321). -/
def Contract.boundary (e : Contract) : Contract :=
  { e with level := BitVec.ofNat 12 (min e.sigma.toNat (e.level.toNat + e.rho.toNat)), credit := e.guar.toNat }

/-- A VD at a boundary (R309, R314, R319). -/
def VD.boundary (d : VD) : VD :=
  { d with cls := d.clsNext, ways := d.waysNext, bktL1 := d.bktL1.refill, bktL2 := d.bktL2.refill,
           bktMsc := d.bktMsc.refill }

/-- The L1 fill tokens of a VD at a core (R310, R314). -/
def refillFill (b : Bucket) (n : BitVec 12) : BitVec 12 := BitVec.ofNat 12 (min b.sigma.toNat (n.toNat + b.rho.toNat))

/-- A core at a boundary. -/
def State.coreBoundary (s : State) (k : Core) : Core :=
  let filled := s.vds.filter (fun e => e.2.bktL1.rho != 0 || (Tbl.get 0 k.fill e.1) != 0)
  { k with
    cal := k.cal.boundary
    bkt := Tbl.mapVals (fun _ b => b.refill) k.bkt
    fill := filled.foldl (fun f e => Tbl.upd 0 f e.1 (refillFill e.2.bktL1)) k.fill }

/-- The fill bucket of an instance at a boundary (R310, R314): memory-side cache banks are instances 256 to 767. -/
def State.refillAt (s : State) (key : Nat) (n : BitVec 12) : BitVec 12 :=
  let d := s.vd (key % 64)
  let i := key / 64
  refillFill (if mscInst 0 ≤ i ∧ i < rdcInst 0 then d.bktMsc else d.bktL2) n

/-- What every frame start does to cores, links, channels, fill buckets and VDs (R313). Where a VD has L1 fill tokens,
every core has them. -/
def State.boundary (s : State) : State :=
  let every := s.vds.any (fun e => e.2.bktL1.rho != 0)
  let cores : Tbl Core := if every then (List.range 1024).map (fun c => (c, s.coreBoundary (s.core c)))
    else Tbl.mapVals (fun _ k => s.coreBoundary k) s.cores
  { s with
    cores := cores
    links := Tbl.mapVals (fun _ (l : Link) => { l with
      cal := l.cal.boundary, bkt := Tbl.mapVals (fun _ b => b.refill) l.bkt }) s.links
    chans := Tbl.mapVals (fun _ (p : Channel) => { p with
      contract := Tbl.mapVals (fun _ e => e.boundary) p.contract }) s.chans
    fills := Tbl.mapVals s.refillAt s.fills
    vds := Tbl.mapVals (fun _ d => d.boundary) s.vds }

end Sys2Proof.Machine
end

