-- ==== Sys2Proof/Machine/Tenancy.lean ====
section
/-! DEFINITION. The tenancy block (17 R301 to R324; 22 R391, R392): ownership, domains and their keys,
virtual devices, calendars, buckets, contracts, MSC scratch. -/

namespace Sys2Proof.Machine

/-! ### Writers (R301) -/

/-- The writer is the Zesan firmware. -/
def isFw (w : Writer) : Bool := decide (w = .fw)

/-- Cores, link directions and pseudo-channels that there are (R2, R312). -/
def coreCount : Nat := 1024
def linkCount : Nat := 52
def chanCount : Nat := 1024

/-- The writer reaches the registers of domain `k`, one of the 16 (R2). -/
def ofDomain (w : Writer) (k : Nat) : Bool :=
  decide (k < 16) && (match w with
  | .fw => true
  | .dm j => j == k)

/-- The writer reaches the tenancy registers of VD `v`, one of the 64. -/
def State.reaches (s : State) (w : Writer) (v : Nat) : Bool := ofDomain w (s.domOf v) && decide (v < 64)

/-- The domain whose DOM_STS tells the writer of a refusal: its own, or for the firmware that of the
VD concerned. -/
def State.statusDomain (s : State) (w : Writer) (v : Nat) : Nat :=
  match w with
  | .fw => s.domOf v
  | .dm k => k

/-- BUSY is set (R304). -/
def State.setBusy (s : State) (k : Nat) : State := s.modDomain k (fun d => { d with busy := true })

/-! ### Ownership (R305) -/

/-- A domain has dirty lines in its L2 slices or its memory-side cache banks, or write-backs between them. -/
def State.soiled (s : State) (k : Nat) : Bool :=
  let at_ (t : Tbl (List CacheLine)) : Bool := t.any (fun e => (dirtySecs e.2).any (fun x => s.domOf x.1 == k))
  at_ s.l2 || at_ s.msc || s.trips.any (fun t => t.wb && s.domOf t.vd == k)

/-- A domain has resident groups, or dirty lines. -/
def State.unquiet (s : State) (k : Nat) : Bool :=
  s.groups.any (fun g => s.domOf g.2.vd == k && !g.2.ended && !s.isSaved g.1)
  || s.cores.any (fun c => c.2.l1.any (fun e => s.domOf (keyVd e.1) == k && !e.2.dirty.isEmpty)) || s.soiled k

/-- The firmware writes back a domain's L2, RDC and MSC contents and invalidates them (R305). -/
def State.flushDomain (s : State) (k : Nat) : State :=
  let s := s.lowerLines (fun v _ => s.domOf v == k)
  let dies : Tbl Die := Tbl.mapVals (fun _ (d : Die) => { d with rdc := d.rdc.filter (fun e => s.domOf (keyVd e.1) != k) })
    s.dies
  { s with dies := dies }.resetTrips (fun t => s.domOf t.vd == k)

/-- What is about to be removed from a domain: the firmware may have flushed its caches first (R305; log entry 79). -/
def State.beforeRemoval (s : State) (k : Nat) : State :=
  if s.soiled k then
    let (b, s) := s.flip
    if b then s.flushDomain k else s
  else s

/-- Zeros are written, with fresh codes, over a 64 KiB frame (R392). -/
def State.zeroFrame (s : State) (f : Nat) : State :=
  let lo := f * 2 ^ 16
  let s := s.lowerLines (fun _ pa => pa / 2 ^ 16 == f)
  let inside (a : Nat) : Bool := decide (lo ≤ a) && decide (a < lo + 2 ^ 16)
  { s with
    mem := s.mem.filter (fun e => !inside e.1)
    tags := s.tags.filter (fun e => !inside (e.1 * 128))
    errs := s.errs.filter (fun e => !inside (e.1 * 128))
    sound := (List.range 512).foldl (fun l i => insertNat (lo / 128 + i) l) s.sound }

/-- The pseudo-channel of a frame of stacked memory. -/
def frameChan (f : Nat) : Nat := 64 * (f / 2 ^ 20 % 16) + f / 2 ^ 14 % 64

/-- CLEAR frames of some pseudo-channels are scrubbed (R392). -/
def State.scrubChans (s : State) (gone : Nat → Bool) : State :=
  let fs := s.welts.flatMap (fun w => (w.2.frames.filter (fun e =>
    e.2.clear && decide (e.1 < 2 ^ 24) && gone (frameChan e.1))).map (fun e => e.1))
  fs.foldl (fun s f => s.zeroFrame f) s

/-- A write to a byte of a core's ownership table (R303, R305). -/
def State.writeUnit (s : State) (c u : Nat) (b : Byte) : State :=
  let old := Tbl.get 0 (s.core c).own u
  let b := b &&& 0x8F
  let ko := old.toNat % 16
  let kn := b.toNat % 16
  let held := old.getLsbD 7 && (s.domain ko).valid
  if b.getLsbD 7 && held && ko != kn then s.modDomain kn (fun d => { d with conflict := true })
  else
    let gone := held && !b.getLsbD 7
    let s := if gone then s.beforeRemoval ko else s
    if gone && s.unquiet ko then s.setBusy ko else s.modCore c (fun k => { k with own := Tbl.set k.own u b })

/-- A write to an ownership register of a domain (R304, R305): `others` is what other domains own of its
kind, `quiet` that what is removed needs a quiesced domain. -/
def ownCheck {n : Nat} (old new others : BitVec n) : Bool × Bool :=
  (new &&& ~~~old &&& others != 0, old &&& ~~~new != 0)

/-- What the other domains own of a kind: a domain with VALID 0 owns nothing. -/
def State.othersOwn {n : Nat} (s : State) (k : Nat) (f : Domain → BitVec n) : BitVec n :=
  (s.domains.filter (fun e => e.1 != k && e.2.valid)).foldl (fun a e => a ||| f e.2) 0

/-- OWNERSHIP_WRITE (R303 to R305, R392). -/
def execOwnershipWrite (wr : Writer) (dom : Nat) (reg : OwnReg) (val : Nat) (s : State) :
    Host.Outcome State Fault Refusal :=
  .next (
    if !isFw wr || decide (16 ≤ dom) then s
    else
      let d := s.domain dom
      let apply (bad removed : Bool) (f : State → State) : State :=
        if bad then s.modDomain dom (fun d => { d with conflict := true })
        else
          let gone := removed && d.valid
          let s := if gone then s.beforeRemoval dom else s
          if gone && s.unquiet dom then s.setBusy dom else f s
      match reg with
      | .core c u => if c < coreCount ∧ u < 72 then s.writeUnit c u (BitVec.ofNat 8 val) else s
      | .slices =>
        let new := BitVec.ofNat 256 val
        let (bad, rem) := ownCheck d.slices new (s.othersOwn dom (fun x => x.slices))
        apply bad rem (fun s => s.modDomain dom (fun d => { d with slices := new }))
      | .mscb =>
        let new := BitVec.ofNat 512 val
        let (bad, rem) := ownCheck d.mscb new (s.othersOwn dom (fun x => x.mscb))
        apply bad rem (fun s => s.modDomain dom (fun d => { d with mscb := new }))
      | .chan =>
        let new := BitVec.ofNat 1024 val
        let (bad, _) := ownCheck d.chan new (s.othersOwn dom (fun x => x.chan))
        apply bad false (fun s =>
          (s.scrubChans (fun p => d.chan.getLsbD p && !new.getLsbD p)).modDomain dom (fun d => { d with chan := new })))

/-! ### Domains and their keys (R304, R307, R391, R398) -/

/-- The VDs of a domain. -/
def State.vdsOf (s : State) (k : Nat) : List Nat := (s.vds.filter (fun e => e.2.domain.toNat == k)).map (fun e => e.1)

/-- Channels of a range of a home map (R326). -/
def HomeRange.chans (r : HomeRange) : List Nat :=
  (List.range (2 ^ r.log2ch)).map (fun i => 64 * r.stack + r.firstch + i)

/-- Home maps of a domain reach a shared channel (R307). -/
def State.reachesShared (s : State) (k : Nat) : Bool :=
  (s.vdsOf k).any (fun v => (s.vd v).map.any (fun r => r.chans.any (fun p => (s.chanOwner p).isNone)))

/-- A domain owns something (R391). -/
def State.ownsAny (s : State) (k : Nat) : Bool :=
  let d := s.domain k
  d.slices != 0 || d.mscb != 0 || d.chan != 0
  || s.cores.any (fun c => c.2.own.any (fun e => e.2.getLsbD 7 && e.2.toNat % 16 == k))

/-- A structure in memory can be read in the clear. -/
def State.readable (s : State) (pa n : Nat) : Bool :=
  (List.range ((n + pa % 128 + 127) / 128)).all (fun i =>
    let a := (pa / 128 + i) * 128
    (outside a || decide (a < 2 ^ 41)) && s.isSound a && !s.isBroken a && s.inClear a)

/-- A domain is created: its data key is restored or made (R391, R398). -/
def State.createDomain (s : State) (k : Nat) (isSealed : Bool) : State :=
  let d := s.domain k
  let ek := d.ownerek.toNat
  let ok := s.readable ek 1184
  let (bs, s) := s.rdBytes ek 1184
  let (fresh, s) := s.fresh
  let same := ok && d.kept.elim false (fun x => x.2.1 == Config.sha3 bs)
  let key := if same then d.kept.elim fresh (fun x => x.1) else fresh
  let err : BitVec 4 := if !ok then 1 else if d.kept.isSome && !same then 3 else d.kerr
  let s := s.setDomain k { d with
    valid := true, sealed := isSealed, keylive := true, key := key, kept := none, kerr := err }
  -- a retained key that is refused is destroyed
  let s := if d.kept.isSome && !same then s.journal k 6 0 0 [3] [] else s
  s.journal k 6 0 0 [if same then 2 else 1] []

/-- A domain, once it exists, would own what another one owns. -/
def State.ownsTwice (s : State) (k : Nat) : Bool :=
  let d := s.domain k
  (d.slices &&& s.othersOwn k (fun x => x.slices)) != 0 || (d.mscb &&& s.othersOwn k (fun x => x.mscb)) != 0
  || (d.chan &&& s.othersOwn k (fun x => x.chan)) != 0

/-- The VDs of a domain read VALID 0 (R305). -/
def State.dropVds (s : State) (k : Nat) : State :=
  { s with vds := Tbl.mapVals (fun _ (v : VD) => if v.domain.toNat = k then { v with valid := false } else v) s.vds }

/-- DOMAIN_CONTROL_WRITE (R304, R305, R307, R391). -/
def execDomainControlWrite (wr : Writer) (dom : Nat) (val : Word) (s : State) :
    Host.Outcome State Fault Refusal :=
  .next (
    if !isFw wr || decide (16 ≤ dom) then s
    else
      let d := s.domain dom
      let valid := val.getLsbD 0
      let isSealed := val.getLsbD 1
      if isSealed && !d.sealed && s.reachesShared dom then s.setBusy dom
      else if d.valid && !valid then
        if s.ownsAny dom then s.setBusy dom
        else
          ((s.dropVds dom).setDomain dom { d with valid := false, sealed := isSealed, keylive := false, key := 0 }).journal
            dom 6 0 0 [3] []
      else if !d.valid && valid then
        if s.ownsTwice dom then s.modDomain dom (fun d => { d with conflict := true }) else s.createDomain dom isSealed
      else s.setDomain dom { d with sealed := isSealed })

/-! ### MSC scratch (R324, R330) -/

/-- Where a byte of scratch lies when a domain has converted `w` ways of its banks: bank, way and offset of its address
in the scratch of a stack. -/
def scratchAt (w pa : Nat) : Nat × Nat × Nat :=
  let n := pa % 2 ^ 32 / (768 * 1024)
  (n / max w 1, n % max w 1, pa % 2 ^ 32 % (768 * 1024))

/-- The stack of an address in the scratch of a domain (`ownScratch`), if it is one. -/
def scratchStack (k pa : Nat) : Option Nat :=
  let base := ownScratch k (2 ^ 40)
  if base ≤ pa ∧ pa < base + 2 ^ 36 then some ((pa - base) / 2 ^ 32) else none

/-- An address of scratch after a change of the converted ways from `w` to `n`: none where its way is
returned. -/
def scratchMove (w n pa : Nat) : Option Nat :=
  let x := scratchAt w pa
  if x.2.1 < n then some (pa / 2 ^ 32 * 2 ^ 32 + (x.1 * n + x.2.1) * (768 * 1024) + x.2.2) else none

/-- A byte lies in the scratch that a domain uses. -/
def State.inScratch (s : State) (k pa : Nat) : Bool :=
  (scratchStack k pa).elim false (fun t => decide (pa % 2 ^ 32 < s.scratchBytes k t))

/-- 64 KiB frames of a domain's scratch that a frame registry or a TLB holds. -/
def State.mappedFrames (s : State) (k : Nat) : List Nat :=
  s.welts.flatMap (fun w => w.2.frames.map (fun e => e.1)
    ++ (w.2.tlb.filter (fun e => e.1 / 4 / 2 ^ 40 / 64 == k)).flatMap (fun e =>
        (List.range (2 ^ (leafLog e.2.level - 16))).map (fun i => ownScratch k (e.2.addr + i * 2 ^ 16) / 2 ^ 16)))

/-- The contents of a domain's scratch follow its ways (R330); what is returned is lost, and is zero when its ways are
converted again. -/
def State.moveScratch (s : State) (k w n : Nat) : State :=
  let keep := s.mem.filter (fun e => !s.inScratch k e.1)
  let moved := s.mem.filter (fun e => s.inScratch k e.1)
  let mem := moved.foldl (fun m e => match scratchMove w n e.1 with
    | some a => Mem.write m a e.2
    | none => m) keep
  let sec (q : Nat) : Option Nat :=
    if s.inScratch k (128 * q) then (scratchMove w n (128 * q)).map (fun a => a / 128) else some q
  { s with
    mem := mem
    sound := (s.sound.filterMap sec).foldl (fun l q => insertNat q l) []
    errs := s.errs.foldl (fun t e => match sec e.1 with
      | some q => Tbl.set t q e.2
      | none => t) []
    tags := s.tags.foldl (fun t e => match sec e.1 with
      | some q => Tbl.set t q e.2
      | none => t) [] }

/-- The lines in the top `w` ways of a domain's memory-side cache banks are written back and invalidated (R324). -/
def State.clearWays (s : State) (k w : Nat) : State :=
  ((List.range 16).flatMap (fun t => (s.banksOf k t).map (fun b => 32 * t + b))).foldl (fun s b =>
    let ls := Tbl.get [] s.msc b
    let out (l : CacheLine) : Bool := decide (16 ≤ l.way + w)
    (s.leaveMsc (ls.filter out)).setMsc b (ls.filter (fun l => !out l))) s

/-- MSC_SCRATCH_WRITE (R324). An L2 slice keeps no sector of the scratch over the write, and what was translated for it
is translated afresh. -/
def execMscScratchWrite (wr : Writer) (dom : Nat) (w : BitVec 4) (s : State) :
    Host.Outcome State Fault Refusal :=
  .next (
    if !ofDomain wr dom || decide (16 ≤ dom) then s
    else
      let old := (s.domain dom).scrw.toNat
      let back (f : Nat) : Bool := s.inScratch dom (f * 2 ^ 16) && (scratchMove old w.toNat (f * 2 ^ 16)).isNone
      if w.toNat < old ∧ (s.mappedFrames dom).any back then s.setBusy dom
      else
        let s := if old < w.toNat then s.clearWays dom w.toNat else s
        let s := (s.lowerLines (fun _ pa => s.inScratch dom pa)).resetTrips (fun t => s.domOf t.vd == dom)
        (s.moveScratch dom old w.toNat).modDomain dom (fun d => { d with scrw := w }))

/-! ### Virtual devices (R309) -/

/-- The sum of GUAR over class-A VDs of a channel when VD `v` has class `c` and guarantee `g` (R322). -/
def State.guarA (s : State) (p v : Nat) (c : BitVec 2) (g : Nat) : Nat :=
  let t := Tbl.upd resetContract (s.chan p).contract v (fun e => { e with guar := BitVec.ofNat 10 g })
  t.foldl (fun a e => if (if e.1 = v then c else (s.vd e.1).clsNext) = 0 then a + e.2.guar.toNat else a) 0

/-- VD_CONTROL_WRITE (R305, R309, R322): the VDs of a domain with VALID 0 read VALID 0. -/
def execVdControlWrite (wr : Writer) (vd : Nat) (val : Word) (s : State) : Host.Outcome State Fault Refusal :=
  .next (
    if !s.reaches wr vd then s
    else
      let d := s.vd vd
      let cls := val.extractLsb' 1 2
      let late := cls != 3 && s.chans.any (fun p =>
        decide (384 < s.guarA p.1 vd cls (Tbl.get resetContract p.2.contract vd).guar.toNat))
      if late then s.modDomain (s.statusDomain wr vd) (fun k => { k with contract := true })
      else
        let dom := if isFw wr && !d.valid then val.extractLsb' 8 4 else d.domain
        let valid := val.getLsbD 0 && (s.domain dom.toNat).valid
        s.setVD vd { d with
          valid := valid
          clsNext := if cls = 3 then d.clsNext else cls
          domain := dom
          incarn := if valid && !d.valid then d.incarn + 1 else d.incarn })

/-! ### Calendars (R311, R312) -/

/-- Change a calendar. -/
def State.modCal (s : State) (cal : CalId) (f : Calendar → Calendar) : State :=
  match cal with
  | .core c => s.modCore c (fun k => { k with cal := f k.cal })
  | .link l => s.setLink l { s.link l with cal := f (s.link l).cal }

/-- A calendar. -/
def State.calendar (s : State) : CalId → Calendar
  | .core c => (s.core c).cal
  | .link l => (s.link l).cal

/-- A calendar that there is. -/
def CalId.real : CalId → Bool
  | .core c => decide (c < coreCount)
  | .link l => decide (l < linkCount)

/-- An entry names a VD of domain `k`. -/
def State.entryOf (s : State) (k : Nat) (e : Byte) : Bool := (entryVd e).elim false (fun v => s.domOf v == k)

/-- A calendar holds entries of a domain, or its core holds units of it (R301): its manager reaches CAL_CTL there. -/
def State.calReach (s : State) (cal : CalId) (k : Nat) : Bool :=
  let c := s.calendar cal
  c.active.any (fun e => s.entryOf k e.2) || c.staged.any (fun e => s.entryOf k e.2)
  || (match cal with
    | .core n => (List.range 72).any (fun i => s.ownsUnit n k i)
    | .link _ => false)

/-- CALENDAR_SWAP (R301, R311). -/
def execCalendarSwap (wr : Writer) (cal : CalId) (s : State) : Host.Outcome State Fault Refusal :=
  .next (
    let ok : Bool := match wr with
      | .fw => true
      | .dm k => s.calReach cal k
    if ok && CalId.real cal then s.modCal cal (fun c => { c with swap := true }) else s)

/-- CALENDAR_ENTRY_WRITE (R311): a manager sets an entry that is free or its own to a VD of its own, and makes one of
its own free. -/
def execCalendarEntryWrite (wr : Writer) (cal : CalId) (entry : Nat) (val : Byte) (s : State) :
    Host.Outcome State Fault Refusal :=
  .next (
    let b := val &&& 0xBF
    let now : Byte := Tbl.get 0 (s.calendar cal).staged entry
    let ok : Bool := match wr with
      | .fw => true
      | .dm k => ((entryVd b).isNone || s.entryOf k b) && ((entryVd now).isNone || s.entryOf k now)
    if ok && CalId.real cal && decide (entry < 64) then s.modCal cal (fun c => { c with staged := Tbl.set c.staged entry b }) else s)

/-! ### Buckets and contracts (R314, R320, R322) -/

/-- A bucket with new RHO and SIGMA (R314). -/
def Bucket.write (b : Bucket) (rho : BitVec 10) (sigma : BitVec 12) : Bucket :=
  { rho := rho, sigma := sigma, level := BitVec.ofNat 12 (min b.level.toNat sigma.toNat) }

/-- A bucket that there is. -/
def BktId.real : BktId → Bool
  | .core c _ => decide (c < coreCount)
  | .link l _ => decide (l < linkCount)
  | .l1 _ | .l2 _ | .msc _ => true

/-- The levels of a fill bucket in the instances that `p` selects, after a write of SIGMA (R310, R314). -/
def State.clipFills (s : State) (p : Nat → Bool) (v : Nat) (sigma : BitVec 12) : State :=
  { s with fills := Tbl.mapVals (fun k n =>
      if k % 64 = v ∧ p (k / 64) then BitVec.ofNat 12 (min n.toNat sigma.toNat) else n) s.fills }

/-- An instance of the fill buckets is a memory-side cache bank; the others are L2 slices and RDC parts. -/
def isMscInst (i : Nat) : Bool := decide (mscInst 0 ≤ i) && decide (i < rdcInst 0)

/-- The VD of a bucket. -/
def BktId.vd : BktId → Nat
  | .core _ v | .link _ v | .l1 v | .l2 v | .msc v => v

/-- BUCKET_WRITE (R310, R314). -/
def execBucketWrite (wr : Writer) (bkt : BktId) (rho : BitVec 10) (sigma : BitVec 12) (s : State) :
    Host.Outcome State Fault Refusal :=
  .next (
    if !(s.reaches wr (BktId.vd bkt) && BktId.real bkt) then s
    else match bkt with
      | .core c v => s.modCore c (fun k => { k with bkt := Tbl.upd resetBucket k.bkt v (fun b => b.write rho sigma) })
      | .link l v => s.setLink l { s.link l with
          bkt := Tbl.upd resetBucket (s.link l).bkt v (fun b => b.write rho sigma) }
      | .l1 v =>
        let s := s.modVD v (fun d => { d with bktL1 := d.bktL1.write rho sigma })
        { s with cores := Tbl.mapVals (fun _ (k : Core) => { k with
            fill := Tbl.upd 0 k.fill v (fun n => BitVec.ofNat 12 (min n.toNat sigma.toNat)) }) s.cores }
      | .l2 v =>
        (s.modVD v (fun d => { d with bktL2 := d.bktL2.write rho sigma })).clipFills (fun i => !isMscInst i) v sigma
      | .msc v => (s.modVD v (fun d => { d with bktMsc := d.bktMsc.write rho sigma })).clipFills isMscInst v sigma)

/-- The sum of GUAR on a channel when VD `v` has guarantee `g` (R322). -/
def State.guarSum (s : State) (p v g : Nat) : Nat :=
  (Tbl.upd resetContract (s.chan p).contract v (fun e => { e with guar := BitVec.ofNat 10 g })).foldl
    (fun a e => a + e.2.guar.toNat) 0

/-- CONTRACT_WRITE (R320, R322). -/
def execContractWrite (wr : Writer) (ch vd : Nat) (guar rho : BitVec 10) (sigma : BitVec 12) (s : State) :
    Host.Outcome State Fault Refusal :=
  .next (
    if !(s.reaches wr vd && decide (ch < chanCount)) then s
    else if (s.chanOwner ch).elim false (fun k => k != s.domOf vd) && (guar != 0 || rho != 0) then s
    else if 768 < s.guarSum ch vd guar.toNat ∨ 384 < s.guarA ch vd (s.vd vd).clsNext guar.toNat then
      s.modDomain (s.statusDomain wr vd) (fun k => { k with contract := true })
    else s.setChan ch { s.chan ch with
      contract := Tbl.upd resetContract (s.chan ch).contract vd (fun e => { e with
        guar := guar, rho := rho, sigma := sigma, level := BitVec.ofNat 12 (min e.level.toNat sigma.toNat) }) })

/-! ### The channel controller (R321, R323) -/

/-- The bank and row of a sector within its pseudo-channel (R252). -/
def secBank (r : ChanReq) : Nat := r.sector * 128 / 1024 % 16
def secRow (r : ChanReq) : Nat := r.sector * 128 % 2 ^ 30 / 16384

/-- A request hits an open row. -/
def Channel.hits (c : Channel) (r : ChanReq) : Bool := Tbl.get? c.openRow (secBank r) == some (secRow r)

/-- Two requests are to overlapping bytes. -/
def ChanReq.overlaps (a b : ChanReq) : Bool := a.sector == b.sector && a.offs.any (fun o => b.offs.contains o)

/-- The request that the controller issues first (R321), by its place in the queue, among the 64 oldest. Two
requests to overlapping bytes keep their order. -/
def State.firstRequest (s : State) (c : Channel) : Option Nat :=
  let win := (c.queue.take 64).zip (List.range 64)
  let aged (r : ChanReq) : Bool := c.credited r && decide (c.cap (s.clsOf r.vd) ≤ s.clock - r.time)
  let isA (r : ChanReq) : Bool := s.clsOf r.vd == 0
  let before (x : ChanReq × Nat) : List ChanReq := c.queue.take x.2
  let hit (x : ChanReq × Nat) : Bool := c.hits x.1 &&
    !(before x).any (fun y => aged y && !isA y && secBank y == secBank x.1)
  let free := win.filter (fun x => !(before x).any (fun y => y.overlaps x.1))
  let cred := free.filter (fun x => c.credited x.1)
  let first (l : List (ChanReq × Nat)) : Option Nat := l.head?.map (fun x => x.2)
  let byRow (l : List (ChanReq × Nat)) : Option Nat := (first (l.filter hit)).orElse (fun _ => first l)
  -- a request without a deadline comes after those that have one
  ((leastBy (fun x => x.1.due.getD (2 ^ 64)) (cred.filter (fun x => isA x.1 && aged x.1))).map
      (fun x => x.2)).orElse fun _ =>
  (first (cred.filter (fun x => aged x.1))).orElse fun _ =>
  (byRow cred).orElse fun _ =>
  byRow (free.filter (fun x => c.funded x.1))

/-- CHANNEL_REQUEST_ISSUE (R321): credit or tokens are spent, the row opens, the bytes count for the VD (R394), and what
is read goes on its way. -/
def execChannelRequestIssue (ch : Nat) (s : State) : Host.Outcome State Fault Refusal :=
  .next (
    let c := s.chan ch
    -- an active all-bank session holds ordinary requests (R251)
    let held := c.session.elim false (fun x => x.st == .active)
    match if held then none else (s.firstRequest c).bind (fun i => (c.queue[i]?).map (fun r => (i, r))) with
    | none => s
    | some (i, r) =>
      let pay (e : Contract) : Contract :=
        if c.credited r then { e with credit := e.credit - r.beats }
        else { e with level := e.level - BitVec.ofNat 12 r.beats }
      let s := s.setChan ch { c with
        queue := dropAt i c.queue
        contract := Tbl.upd resetContract c.contract r.vd pay
        openRow := Tbl.set c.openRow (secBank r) (secRow r) }
      let s := s.modVD r.vd (fun d => { d with usage := { d.usage with
        bytes := d.usage.bytes + BitVec.ofNat 64 (32 * r.beats) } })
      if r.read then s.chanRead ch r else s)

end Sys2Proof.Machine
end

