-- ==== Sys2Proof/Machine/Preempt.lean ====
section
/-! DEFINITION. Pre-emption (02 R69; 18 R337, R341 to R345): the decision on a gang instance, flush, save,
and restore. -/

namespace Sys2Proof.Machine

/-! ### Gang instances -/

/-- Change a gang instance. -/
def State.modGang (s : State) (a : Nat) (f : Gang → Gang) : State := s.setGang a (f (s.gang a))

/-- The gang instance stands in the machine. -/
def State.hasGang (s : State) (a : Nat) : Bool := (Tbl.get? s.gangs a).isSome

/-- The teams of a gang instance. -/
def State.gangTeams (s : State) (a : Nat) : List Team :=
  let ms := (s.gang a).members
  s.allTeams.filter (fun t => ms.contains t.group)

/-- The launched teams of a gang instance that have not ended. -/
def State.gangFams (s : State) (a : Nat) : List Nat :=
  let ms := (s.gang a).members
  (s.fams.filter (fun e => ms.contains e.2.group && !e.2.ended)).map (fun e => e.1)

/-- The cores of a gang instance. -/
def State.gangCores (s : State) (a : Nat) : List Nat := (s.gang a).members.map (fun g => (s.group g).core)

/-- The pseudo-channels of the open sessions of a gang instance (R251). -/
def State.gangSessions (s : State) (a : Nat) : List Nat :=
  (s.gangFams a).filterMap (fun f => (s.sessionOf f).map (fun x => x.1))

/-! ### The decision (R341) -/

/-- E of R341: EXPCL times the teams that the instance runs over its life. -/
def Launch.expected (l : Launch) : Nat :=
  l.expcl * (l.members * product l.groupSerial * product l.teamExts)

/-- D of R341: the clauses that the teams of the instance have retired. -/
def State.retiredOf (s : State) (a : Nat) : Nat :=
  (s.gangTeams a).foldl (fun n t => n + t.retired)
    ((s.gangFams a).foldl (fun n f => n + (s.fam f).retired) (s.gang a).retired)

/-- What R341 decides. -/
inductive Verdict where
  | forced | drain | flush | save
deriving DecidableEq, Repr

/-- The decision on an instance (R341). -/
def State.verdict (s : State) (a : Nat) (forced : Bool) : Verdict :=
  let ga := s.gang a
  let l := s.launch ga.launch
  let e := l.expected
  let d := s.retiredOf a
  if forced then .forced
  else if l.expcl ≠ 0 ∧ (e : Int) - (d : Int) < ((s.vd ga.vd).drainb.toNat : Int) then .drain
  else if l.idemp ∧ l.expcl ≠ 0 ∧ 4 * d < e then .flush
  else .save

/-- An instance leaves the machine with its groups, launched teams and race records. -/
def State.dropGang (s : State) (a : Nat) : State :=
  let ms := (s.gang a).members
  let s := s.dropFams ms
  { s with gangs := Tbl.del s.gangs a, groups := s.groups.filter (fun e => !ms.contains e.1) }

/-- FLUSH AND RESTART (R341): every team is killed without ABANDONED, and the instance returns to the
undispatched groups. -/
def State.flush (s : State) (a : Nat) : State :=
  let ga := s.gang a
  let s := (s.gangFams a).foldl (fun s f => s.killFam f .fault false) s
  let s := s.dropGang a
  let l := s.launch ga.launch
  s.setLaunch ga.launch { l with live := l.live.filter (fun x => x != a), todo := insertNat ga.no l.todo }

/-- A decision is noted, and open sessions meet it (R251, R347): a forced save breaks them as their limit
does, and otherwise their deadline starts. -/
def State.order (s : State) (a : Nat) (d : Decision) (forced : Bool) : State :=
  let s := s.modGang a (fun g => { g with decision := d, asked := some s.clock })
  (s.gangSessions a).foldl (fun s ch =>
    if forced then s.breakSession ch 6 6
    else s.setChan ch { s.chan ch with session := (s.chan ch).session.map (fun x => { x with deadline := some s.clock }) }) s

/-- A pre-emption request reaches an instance (R341), once; a forced save overrides what was decided before
(R347). -/
def State.preempt (s : State) (a : Nat) (forced : Bool) : State :=
  let ga := s.gang a
  if !s.hasGang a || ga.saved || (ga.decision != .none && !forced) then s
  else
    let s := (s.gangCores a).foldl (fun s c => s.wakeCause c 6) s
    match s.verdict a forced with
    | .forced => s.order a .forced true
    | .drain => s.order a .drain false
    | .flush => s.flush a
    | .save => s.order a .save false

/-- A zone evacuates (R369): STATE 3 to 9. -/
def State.evacuates (s : State) (z : Nat) : Bool := within 3 9 (s.zone z).state.toNat

/-- PREEMPTION_REQUEST (R341). A forced one needs an evacuation or a switch past its second deadline. -/
def execPreemptionRequest (a : Nat) (forced : Bool) (s : State) : Host.Outcome State Fault Refusal :=
  .next (
    let may := !forced || s.sw.forced || (s.gangCores a).any (fun c => s.evacuates (zoneOf c))
    if may then s.preempt a forced else s)

/-! ### The save (R342) -/

/-- A path of a fallback as its image gives it back: its clause is fetched again, and waits that have been
met are not tested again (R97). -/
def PathSt.refetch (p : PathSt) : PathSt :=
  { p with clause := [], loaded := false, tested := p.loaded || p.tested }

/-- A team as its image gives it back. -/
def Team.refetch (t : Team) : Team :=
  { t with
    clause := [], loaded := false, tested := t.loaded || t.tested, waiting := false
    div := t.div.map (fun e => match e with
      | .fallback ps => .fallback (ps.map PathSt.refetch)
      | e => e) }

/-- The mask words of a team that a lane-shaped instruction sweeps, in their order (R10). -/
def Team.sweepWords (t : Team) : List Nat := sortBy id ((t.current.map (fun l => l.slot / 32)).eraseDups)

/-- A save may find a team in the middle of a lane-shaped instruction at the core, though never of one of the cross-lane
group (R69): after how many of its mask words is open. Those are swept, and the others stand in the replay set as a
packet, which raises no counter. -/
def State.cutSweep (s : State) (t : Team) : State :=
  match t.here.bind (fun i => (descOf i).map (fun d => (i, d))) with
  | none => s
  | some (i, d) =>
    if (s.core (s.coreOf t)).running != some t.ctx || t.parked != .no || t.waiting || within 0x60 0x67 (opcOf i)
        || (s.descCause t d).isSome || s.execLoc t d != .lane || !(s.descFetches t d).isEmpty then s
    else
      let (k, s) := s.pick t.sweepWords.length
      let (vals, s) := s.readSrcs t false d.srcs
      let e0 := (s.launchOf t).e0
      let (swept, rest) := (lanesIn t d false vals).partition (fun l => (t.sweepWords.take k).contains (l.slot / 32))
      match d.run false e0 swept with
      | none => s
      | some out =>
        if k = 0 then s
        else
          let pk := t.packet i .core .pl false (rest.map pLaneOf) []
          (s.writeOut t d false e0 swept out).modTeam t.ctx (fun t =>
            { t.advance 1 with seq := t.seq + 1, replay := t.replay ++ [pk] })

/-- A team is saved (R337, R342, R344): halted, unless a fault has halted it; the state in its image, where a resume
that was held counts as given. -/
def State.saveTeam (s : State) (t : Team) : State :=
  let img : ImgState := match t.parked with
    | .fault => if t.hold then .resumed else .faulted
    | .hcall => .hcall
    | _ => .running
  let s := if t.parked = .fault then s else (s.cutSweep t).halt t.ctx .halted
  s.modTeam t.ctx (fun t => { t.refetch with img := img, hold := false })

/-- A quadrant as a save leaves it: no engine-issued entry is under way there (R216). -/
def Quad.rest (q : Quad) : Quad :=
  { q with queue := q.queue.map (fun e =>
      match e.issuer with
      | .engine _ _ => e.rest
      | .team _ _ _ => e) }

/-- What a group's engine programs have under way is held in its image (R240, R245). -/
def State.saveEngines (s : State) (g : Nat) : State :=
  let m := s.group g
  let mine (c : CEnt) : Bool := match c.issuer with
    | .engine h _ => h == g
    | .team _ _ _ => false
  let lace := (s.core m.core).lace
  let copies := lace.flatMap (fun e => (e.2.filter mine).map (fun c =>
    (e.1, { c with started := false, rows := [], read := [], bytes := [], fault := none })))
  let s := s.setGroup g { m with
    copies := copies
    quads := m.quads.map (fun e => (e.1, e.2.rest)) }
  let s := s.dropLeave (fun w => match w with
    | .loop h _ _ => h == g
    | .session _ => false)
  s.modCore m.core (fun k => { k with lace := k.lace.map (fun e => (e.1, e.2.filter (fun c => !mine c))) })

/-- A matrix instruction of an engine program that is not parked, other than a loop, has started and must complete first
(R216). -/
def State.midEngine (s : State) (g : Nat) : Bool :=
  (s.group g).quads.any (fun q => q.2.queue.any (fun e => e.mid && (match e.issuer with
    | .engine h k => !(s.engine h k).parked
    | .team _ _ _ => false)))

/-- The dirty sectors of a VD leave the L1 of a core. -/
def State.flushVd (s : State) (c v : Nat) : State :=
  ((s.core c).l1.filter (fun e => keyVd e.1 == v)).foldl (fun s e => s.flushSector c e.1) s

/-- A team that a forced save may halt (R347): at a clause boundary, or where it stands, parked, waiting or stalled
within a clause. -/
def Team.atRest (t : Team) : Bool := !t.loaded || t.parked != .no || t.waiting || t.stall.isSome

/-- An instance may be halted and saved (R342): a save was decided, and no session, no started matrix
instruction holds the halt. A forced save finds every team at rest (R347). -/
def State.savable (s : State) (a : Nat) : Bool :=
  let ga := s.gang a
  s.hasGang a && !ga.saved && (ga.decision == .save || ga.decision == .forced)
  && (s.gangSessions a).isEmpty && !(s.gangTeams a).any (fun t => s.midMatrix t)
  && !ga.members.any s.midEngine
  && (ga.decision != .forced || (s.gangTeams a).all Team.atRest)

/-- The teams and engine programs of an instance are halted, and the dirty sectors of its VD leave the L1 caches of its
cores. -/
def State.haltGang (s : State) (a : Nat) : State :=
  let ga := s.gang a
  let s := (s.gangTeams a).foldl (fun s t => s.saveTeam t) s
  ga.members.foldl (fun s g => (s.saveEngines g).flushVd (s.group g).core ga.vd) s

/-- SAVE_COMPLETE (R342): the instance is halted, its images are written (R344, R345), and its units are free. -/
def execSaveComplete (a : Nat) (s : State) : Host.Outcome State Fault Refusal :=
  .next (
    if !s.savable a then s
    else
      let ga := s.gang a
      let zone := if ga.decision = .forced then
          ((s.gangCores a).map zoneOf).find? (fun z => s.evacuates z) else none
      let s := ga.members.foldl (fun s g => s.writeImages g) (s.haltGang a)
      s.modGang a (fun g => { g with saved := true, decision := .none, asked := none, zone := zone }))

/-! ### The restore (R343) -/

/-- A team of an image goes on (R336, R337, R343): where a record still waits for its answer, parked. -/
def State.restoreTeam (s : State) (t : Team) : State :=
  let s := s.wakeCause (s.coreOf t) 9
  match t.img with
  | .faulted => s
  | .hcall => s.setTeam { t with parked := .hcall }
  | _ => s.resume t.ctx

/-- The engine-issued copies of a group enter the queues of its new core (R245). -/
def State.restoreCopies (s : State) (g : Nat) : State :=
  let m := s.group g
  let s := s.setGroup g { m with copies := [] }
  m.copies.foldl (fun s c => s.pushCopy m.core c.1 c.2.id c.2.issuer c.2.op c.2.landed c.2.counted) s

/-- The team slots that a group held become the lowest free ones of its core, as for a placement (log entry 55). -/
def State.seatTeams (s : State) (g : Nat) : State :=
  let used := s.slotsOf ((s.coreGroups (s.group g).core).filter (fun h => h != g))
  let news := (s.slotsOf [g]).eraseDups.zip ((List.range 64).filter (fun n => !used.contains n))
  let seat (n : Nat) : Nat := (Tbl.get? news n).getD n
  { s with
    teams := s.teams.map (fun e => (e.1, if e.2.group = g then { e.2 with slot := seat e.2.slot } else e.2))
    fams := s.fams.map (fun e => (e.1, if e.2.group = g then { e.2 with slot := seat e.2.slot } else e.2)) }

/-- An instance is restored: its members stand on their cores already (R343). What those cores hold from before is no
longer read, as after an acquire, so that what the teams have acquired elsewhere holds here (log entry 54). -/
def State.restoreGang (s : State) (a : Nat) : State :=
  let ga := s.gang a
  let s := s.modGang a (fun g => { g with saved := false, zone := none })
  let s := ga.members.foldl (fun s g => ((s.acquireL1 (s.group g).core .system).seatTeams g).restoreCopies g) s
  (s.gangTeams a).foldl (fun s t => match s.team? t.ctx with
    | some t => s.restoreTeam t
    | none => s) s

end Sys2Proof.Machine
end

