-- ==== Sys2Proof/Machine/Distribute.lean ====
section
/-! DEFINITION. The distributor (01 R25, R26, R31, R32; 10 R261; 21 R383) and switches of dies between virtual
devices (18 R346, R347). -/

namespace Sys2Proof.Machine

/-! ### What a group needs of a core (R25, R303) -/

/-- The groups whose units a core holds: resident, not ended. -/
def State.liveGroups (s : State) (c : Nat) : List Nat := s.coreGroups c

/-- The groups whose scratchpad allocation a core holds, ended members among them (R28). -/
def State.spadGroups (s : State) (c : Nat) : List Nat :=
  (s.groups.filter (fun e => e.2.core == c && !s.isSaved e.1)).map (fun e => e.1)

/-- Units of a kind that a domain owns on a core, from unit `lo`. -/
def State.unitCount (s : State) (c k lo : Nat) : Nat :=
  ((List.range 16).filter (fun i => s.ownsUnit c k (lo + i))).length

/-- Lane registers of a group (R25, R55). -/
def Launch.laneRegs (l : Launch) : Nat := l.lmax * l.e0 * l.teamCount

/-- The sum of a measure over the launches of some groups of a domain. -/
def State.usedBy (s : State) (k : Nat) (gs : List Nat) (f : Launch → Nat) : Nat :=
  gs.foldl (fun a g => if s.domOf (s.group g).vd == k then a + f (s.launch (s.group g).launch) else a) 0

/-- Where a scratchpad allocation of `n` bytes may begin in a domain's space on a core (R261): multiples of
4·|K| that meet no other allocation. -/
def State.spadBases (s : State) (c k n : Nat) : List Nat :=
  let units := s.unitCount c k 8
  if n = 0 then [0]
  else if units = 0 then []
  else
    let step := 4 * (8 * units)
    let total := units * 32768
    let taken := ((s.spadGroups c).filter (fun g => s.domOf (s.group g).vd == k)).map (fun g =>
      ((s.group g).spadBase, (s.group g).spadLen))
    ((List.range (total / step)).map (fun i => i * step)).filter (fun b =>
      decide (b + n ≤ total) && taken.all (fun x => x.2 == 0 || decide (b + n ≤ x.1) || decide (x.1 + x.2 ≤ b)))

/-- The domain owns the units that a group asks for by mask, quadrants from 0, Lace engines from 4. -/
def State.ownsMask (s : State) (c k lo : Nat) (m : BitVec 4) : Bool :=
  (List.range 4).all (fun i => !m.getLsbD i || s.ownsUnit c k (lo + i))

/-- A core on which the VD's domain owns enough for a whole group, whatever is in use (R382, code 3). -/
def State.couldHold (s : State) (c v : Nat) (l : Launch) : Bool :=
  let k := s.domOf v
  (s.vd v).cores.getLsbD c && s.ownsMask c k 0 l.qmask && s.ownsMask c k 4 l.lmask
  && decide (l.spad * 256 ≤ s.unitCount c k 8 * 32768) && decide (l.laneRegs ≤ s.unitCount c k 40 * 8192)
  && decide (l.tregs * l.teamCount ≤ s.unitCount c k 56 * 256)

/-- No drain of the VD holds its cores (R341), and no switch keeps the VD off the die (R346). -/
def State.openFor (s : State) (c v : Nat) : Bool :=
  !s.gangs.any (fun e => e.2.vd == v && e.2.decision == .drain && (s.gangCores e.1).contains c)
  && !(s.sw.go && s.sw.begun && s.sw.dies.getLsbD (dieOf c) && s.sw.outvd.toNat == v) && !s.awaitsSwitch c v

/-- A core grants everything that a group of a launch needs now (R25). -/
def State.canGrant (s : State) (c v : Nat) (l : Launch) : Bool :=
  let k := s.domOf v
  let live := s.liveGroups c
  let free (f : Group → BitVec 4) (m : BitVec 4) : Bool := live.all (fun g => f (s.group g) &&& m == 0)
  s.couldHold c v l && s.openFor c v && !s.coreOff c && !s.evacuates (zoneOf c)
  && decide (live.length < 16) && decide ((s.slotsOf live).eraseDups.length + l.teamCount ≤ 64)
  && free (fun g => g.qmask) l.qmask && free (fun g => g.lmask) l.lmask
  && decide (s.usedBy k live Launch.laneRegs + l.laneRegs ≤ s.unitCount c k 40 * 8192)
  && decide (s.usedBy k live (fun x => x.tregs * x.teamCount) + l.tregs * l.teamCount ≤ s.unitCount c k 56 * 256)
  && !(s.spadBases c k (l.spad * 256)).isEmpty

/-- The group slot that a placed group takes (R25). The spec leaves open which free one; the model takes the lowest
(log entry 55, DESIGN CHOICE). -/
def State.freeGroupSlot (s : State) (c : Nat) : Nat :=
  (lowestFree ((s.liveGroups c).map (fun g => (s.group g).slot)) 16).getD 0

/-! ### Levels above the groups (R31, R32) -/

/-- Levels of a launch above its gang instances, with their places in the tuple of a gang instance. -/
def Launch.outerAt (l : Launch) : List (Nat × Level) :=
  let n := l.gangExts.length - l.outer.length
  (List.range l.outer.length |>.map (fun i => n + i)).zip l.outer

/-- The instance of the highest CLUSTER level in which a gang instance lies: its number, extent first
(R31). -/
def Launch.clusterKey (l : Launch) (no : Nat) : Option (Nat × Nat) :=
  match (l.outerAt.filter (fun x => x.2.binding == .cluster)).getLast? with
  | none => none
  | some (j, v) => some (tupleNo ((tupleOf no l.gangExts).drop j) (l.gangExts.drop j), v.extent)

/-- A gang instance stands after another at a level whose next level binds the same domain (R32). -/
def Launch.follows (l : Launch) (no other : Nat) : Bool :=
  let t := tupleOf no l.gangExts
  let u := tupleOf other l.gangExts
  l.outerAt.any (fun x =>
    let j := x.1
    l.outerAt.any (fun y => y.1 == j + 1 && y.2.binding == x.2.binding)
    && t.drop (j + 1) == u.drop (j + 1) && decide (u.getD j 0 < t.getD j 0))

/-- The die of a gang instance suits its CLUSTER level (R31). -/
def Launch.dieSuits (l : Launch) (no die : Nat) : Bool :=
  match l.clusterKey no with
  | none => true
  | some (key, ext) =>
    match Tbl.get? l.clusters key with
    | some d => d == die
    | none => !(l.clusters.any (fun e => e.1 / max ext 1 == key / max ext 1 && e.2 == die))

/-- Every instance before a gang instance in its serial levels has ended (R32). -/
def State.turnCame (s : State) (l : Launch) (no : Nat) : Bool :=
  !((l.todo ++ l.live.map (fun a => (s.gang a).no)).any (fun o => l.follows no o))

/-! ### Where an instance fits (R26) -/

/-- A packet comes before another in its ring; indices count modulo 2^32 (R376). -/
def earlierPkt (a b : Nat) : Bool := a != b && decide ((b + 2 ^ 32 - a) % 2 ^ 32 < 2 ^ 31)

/-- An early consumer whose BARRIER is not met (R383). -/
def State.earlyUnmet (s : State) (l : Launch) : Bool :=
  l.early && l.barrier && (s.queue l.queue).taken.any (fun p => earlierPkt p.index l.index)

/-- The forward-progress reserve keeps an early consumer out of a core's last group slot (R383). -/
def State.reserved (s : State) (c v : Nat) (l : Launch) : Bool :=
  s.earlyUnmet l && decide (15 ≤ (s.liveGroups c).length)
  && s.launches.any (fun e => e.2.vd == v && !e.2.todo.isEmpty && !s.earlyUnmet e.2)

/-- Context indices suffice for the teams of an instance (R344). -/
def State.ctxSuffice (s : State) (v n : Nat) : Bool := decide ((s.ctxInUse v).length + n ≤ 2 ^ 14)

/-- Distinct cores, of one cluster where there is a GANG level, take the members of an instance. -/
def State.fits (s : State) (v : Nat) (l : Launch) (no : Option Nat) (cores : List Nat) (grant : Nat → Bool) : Bool :=
  decide (cores.length = l.members) && decide cores.Nodup && cores.all (fun c => decide (c < 1024) && grant c)
  && cores.all (fun c => dieOf c == dieOf (cores.headD 0))
  && no.elim true (fun n => l.dieSuits n (dieOf (cores.headD 0)) && s.turnCame l n
      && s.ctxSuffice v (l.members * l.teamCount))

/-- Some cores take an instance. -/
def State.anyFits (s : State) (v : Nat) (l : Launch) (no : Nat) (grant : Nat → Bool) : Bool :=
  s.turnCame l no && s.ctxSuffice v (l.members * l.teamCount) && (List.range 4).any (fun d =>
    l.dieSuits no d && decide (l.members ≤ ((List.range 256).filter (fun i => grant (256 * d + i))).length))

/-! ### Placement (R383) -/

/-- A group of a gang instance takes its place on a core. -/
def State.seatGroup (s : State) (a l no o c : Nat) : Nat × State :=
  let la := s.launch l
  let v := la.vd
  let lvl := la.groupLvl (la.groupSerial.map (fun _ => 0)) no o
  let bases := s.spadBases c (s.domOf v) (la.spad * 256)
  let (b, s) := s.pick bases.length
  let (g, s) := s.fresh
  let gr : Group := { resetGroup with
    gang := a, launch := l, vd := v, incarn := (s.vd v).incarn, core := c, slot := s.freeGroupSlot c, member := o
    lin := la.linear lvl, lvl := lvl, spadBase := bases.getD b 0, spadLen := la.spad * 256
    qmask := la.qmask, lmask := la.lmask }
  (g, s.setGroup g gr)

/-- The members of an instance take their places. -/
def State.seatAll (s : State) (a l no : Nat) : Nat → List Nat → List Nat × State
  | _, [] => ([], s)
  | o, c :: cs =>
    let (g, s) := s.seatGroup a l no o c
    let (gs, s) := s.seatAll a l no (o + 1) cs
    (g :: gs, s)

/-- The acquire of a launch packet, for the agents of its groups (R381, R383). -/
def State.packetAcquire (s : State) (l : Launch) (cores : List Nat) : State :=
  match l.acq with
  | some sc => cores.foldl (fun s c => s.acquireL1 c sc) s
  | none => s

/-- A gang instance is placed on some cores and starts, whole, in one step (R25, R26). -/
def State.placeGang (s : State) (l no : Nat) (cores : List Nat) : State :=
  let la := s.launch l
  let (a, s) := s.fresh
  let (gs, s) := s.seatAll a l no 0 cores
  let s := s.setGang a { resetGang with launch := l, no := no, vd := la.vd, members := gs }
  let clusters := match la.clusterKey no with
    | some (key, _) => Tbl.set la.clusters key (dieOf (cores.headD 0))
    | none => la.clusters
  let s := s.setLaunch l { la with
    todo := la.todo.filter (fun n => n != no), live := la.live ++ [a], clusters := clusters }
  let s := s.packetAcquire la cores
  gs.foldl (fun s g => s.startGroup g) s

/-- The members of a saved instance move to other cores (R343). -/
def State.moveGang (s : State) (a : Nat) (cores : List Nat) : State :=
  ((s.gang a).members.zip cores).foldl (fun s x =>
    let g := s.group x.1
    let la := s.launch g.launch
    let bases := s.spadBases x.2 (s.domOf g.vd) (la.spad * 256)
    let (b, s) := s.pick bases.length
    s.setGroup x.1 { g with core := x.2, slot := s.freeGroupSlot x.2, spadBase := bases.getD b 0 }) s

/-- A saved instance may be restored (R346, R370): no switch to or from its VD runs, and the zone whose
evacuation saved it is through. -/
def State.eligible (s : State) (a : Nat) : Bool :=
  let ga := s.gang a
  ga.saved && ga.zone.elim true (fun z => !s.evacuates z)
  && !(s.sw.go && s.sw.begun && (s.sw.invd.toNat == ga.vd || s.sw.outvd.toNat == ga.vd))

/-- Launches of a VD with groups to place, in the order of R383: priority of the queue, notify write, queue;
each with its lowest gang instance. -/
def State.candidates (s : State) (v : Nat) : List (Nat × Nat) :=
  let rank (e : Nat × Launch) : Nat :=
    ((7 - (s.queue e.2.queue).prio.toNat) * 2 ^ 80 + e.2.time) * 2 ^ 48 + e.2.queue * 2 ^ 33 + e.2.index
  (sortBy rank (s.launches.filter (fun e => e.2.vd == v && !e.2.todo.isEmpty))).map (fun e => (e.1, e.2.todo.headD 0))

/-- The first instance that the order allows and that fits on the cores named (R383). -/
def State.placeFirst (s : State) (v : Nat) (cores : List Nat) : List (Nat × Nat) → State
  | [] => s
  | (l, no) :: rest =>
    let la := s.launch l
    let grant (c : Nat) : Bool := s.canGrant c v la
    let full (c : Nat) : Bool := grant c && !s.reserved c v la
    if s.fits v la (some no) cores full then s.placeGang l no cores
    else if s.earlyUnmet la && !s.anyFits v la no full && s.anyFits v la no grant then s.placeFirst v cores rest
    else s

/-- The cores of a saved instance have team slots for all that its groups hold, split children included (R343). -/
def State.slotsSuffice (s : State) (a : Nat) (cores : List Nat) : Bool :=
  ((s.gang a).members.zip cores).all (fun x => decide ((s.slotsOf (s.liveGroups x.2)).eraseDups.length
    + (s.slotsOf [x.1]).eraseDups.length ≤ 64))

/-- PLACEMENT_STEP (R343, R383): the first eligible saved instance, or else the first group in order, takes
the cores named, if it fits there. -/
def execPlacementStep (vd : Nat) (cores : List Nat) (s : State) : Host.Outcome State Fault Refusal :=
  .next (
    if !((s.vd vd).valid && (s.domain (s.domOf vd)).valid) then s
    else match (s.gangs.filter (fun e => e.2.vd == vd && s.eligible e.1)).head? with
    | some (a, ga) =>
      let la := s.launch ga.launch
      if s.fits vd la none cores (fun c => s.canGrant c vd la) && s.slotsSuffice a cores then (s.moveGang a cores).restoreGang a else s
    | none => s.placeFirst vd cores (s.candidates vd))

/-! ### Switches (R346, R347) -/

/-- The instances of the outgoing VD resident on a die. -/
def State.outgoing (s : State) (die : Nat) : List Nat :=
  (s.gangs.filter (fun e => e.2.vd == s.sw.outvd.toNat && !e.2.saved &&
    (s.gangCores e.1).any (fun c => dieOf c == die))).map (fun e => e.1)

/-- The dies that take part in the switch. -/
def Switch.diesOf (w : Switch) : List Nat := bitList w.dies 0 4

/-- SWITCH_START (R325, R346): GO is set. -/
def execSwitchStart (wr : Writer) (outVd inVd : Nat) (dies : BitVec 4) (s : State) : Host.Outcome State Fault Refusal :=
  .next (
    if s.sw.go || !(s.reaches wr outVd && s.reaches wr inVd) then s
    else { s with sw := { s.sw with
      outvd := BitVec.ofNat 6 outVd, invd := BitVec.ofNat 6 inVd, dies := dies, go := true, forced := false
      done := 0, late := 0, begun := false, doneAt := [] } })

/-- At the first frame boundary after GO, each named die asks its instances of OUTVD to go (R346). -/
def State.switchBegin (s : State) : State :=
  if s.sw.go && !s.sw.begun then
    let s := { s with sw := { s.sw with begun := true, start := s.clock } }
    let gs := (s.sw.diesOf.flatMap (fun d => s.outgoing d)).eraseDups
    gs.foldl (fun s a => s.preempt a false) s
  else s

/-- An element of a quadrant proves uncorrectable (R351): its tile, or the plane that holds it, is poisoned. -/
def Quad.struck (q : Quad) (n : Nat) : Quad :=
  if n < 8 then q.poisonTile n false
  else if n = 8 then { q with active := { q.active with poison := true } }
  else { q with shadow := { q.shadow with poison := true } }

/-- What a core holds of a group proves uncorrectable (R351): granule `k` of its scratchpad, or an element of quadrant
`q`. -/
def Group.struck (g : Group) (deep : Bool) (k q n : Nat) : Group :=
  if deep then { g with quads := g.quads.map (fun e => if e.1 = q then (e.1, e.2.struck n) else e) }
  else if g.spadLen = 0 then g else { g with bad := insertNat k g.bad }

/-- Soft errors may strike a symbol of a stored sector, and what a core holds of a group (R351). The spec says neither
when nor where; in the model it may happen at each frame boundary (log entry 65, DESIGN CHOICE). -/
def State.strike (s : State) : State :=
  let (hit, s) := s.flip
  let (i, s) := s.pick s.sound.length
  let (hurt, s) := s.flip
  let here := (s.groups.filter (fun e => !e.2.ended && !s.isSaved e.1)).map (fun e => e.1)
  let (j, s) := s.pick here.length
  let g := here[j]?
  let (deep, s) := s.flip
  let (k, s) := s.pick ((s.group (g.getD 0)).spadLen / 16)
  let (q, s) := s.pick 4
  let (n, s) := s.pick 10
  { s with
    errs := if hit && !s.sound.isEmpty then Tbl.upd 0 s.errs (s.sound.getD i 0) (fun n => n + 1) else s.errs
    groups := s.groups.map (fun e => (e.1, if hurt && g == some e.1 then e.2.struck deep k q n else e.2)) }

/-- A die on which no instance of OUTVD is left sets DONE (R346). -/
def State.switchDone (s : State) : State :=
  if s.sw.go && s.sw.begun then
    s.sw.diesOf.foldl (fun s d =>
      if s.sw.done.getLsbD d || !(s.outgoing d).isEmpty then s
      else { s with sw := { s.sw with
        done := s.sw.done ||| (1#4 <<< d), doneAt := Tbl.set s.sw.doneAt d s.clock } }) s
  else s

/-- FRAME_BOUNDARY (R313): `sr.clock` reaches the next multiple of 1,024; a switch whose GO is set begins, and dies that
were done before the boundary have set DONE (R346). -/
def execFrameBoundary (s : State) : Host.Outcome State Fault Refusal :=
  .next ({ s.switchDone with clock := (s.clock / 1024 + 1) * 1024 }.boundary.switchBegin.strike)

/-- A deadline of the switch, in µs, has passed. -/
def State.past (s : State) (us : BitVec 16) : Bool :=
  s.sw.go && s.sw.begun && decide (s.sw.start + 2250 * us.toNat ≤ s.clock)

/-- SWITCH_DEADLINE_1 (R347): a die without DONE sets OVER. -/
def execSwitchDeadline1 (s : State) : Host.Outcome State Fault Refusal :=
  .next (
    let s := s.switchDone
    if s.past s.sw.dl1 then { s with sw := { s.sw with late := s.sw.late ||| (s.sw.dies &&& ~~~s.sw.done) } } else s)

/-- SWITCH_DEADLINE_2 (R347): idempotent instances are flushed, the others saved forced. -/
def execSwitchDeadline2 (s : State) : Host.Outcome State Fault Refusal :=
  .next (
    let s := s.switchDone
    let left := ((s.sw.diesOf.filter (fun d => !s.sw.done.getLsbD d)).flatMap (fun d => s.outgoing d)).eraseDups
    if s.past s.sw.dl2 && !left.isEmpty then
      let s := { s with sw := { s.sw with forced := true } }
      left.foldl (fun s a =>
        if (s.launch (s.gang a).launch).idemp then s.flush a else s.preempt a true) s
    else s)

/-- The overrun records of a switch that has ended (R334, R347): TYPE 2, of the die in CORE, and a journal record. -/
def State.overruns (s : State) : State :=
  let w := s.sw
  let v := w.outvd.toNat
  (w.diesOf.filter (fun d => w.late.getLsbD d)).foldl (fun s d =>
    let cycles := Tbl.get 0 w.doneAt d - (w.start + 2250 * w.dl1.toNat)
    let r : FRec := { acc := 0, eng := false, level := 7, kind := 0, gen := 0, seq := 0, ctx := 0, typ := 2, va := 0,
                      pc := 0, word := 0, engid := 0, core := 256 * d, pos := 0, fcount := 0, fsum := 0, code := 0
                      late := cycles }
    let inc := (s.vd v).incarn
    let s := s.faultRecord v inc (s.faultBytes v inc r)
    s.journal (s.domOf v) 3 v inc [cycles, d] []) s

/-- SWITCH_FINISH (R346): every named die is DONE, and a frame begins: the staged calendars of the dies' cores
become active, INVD starts, GO clears. -/
def execSwitchFinish (s : State) : Host.Outcome State Fault Refusal :=
  .next (
    let s := s.switchDone
    if s.sw.go && s.sw.begun && s.sw.dies &&& ~~~s.sw.done == 0 && s.clock % 1024 == 0 then
      let s := s.overruns
      let named (c : Nat) : Bool := s.sw.dies.getLsbD (dieOf c)
      { s with
        sw := { s.sw with go := false }
        cores := Tbl.mapVals (fun c (k : Core) =>
          if named c then { k with cal := { k.cal with active := k.cal.staged, swap := false } } else k) s.cores }
    else s)

end Sys2Proof.Machine
end

