-- ==== Sys2Proof/Machine/Queues.lean ====
section
/-! DEFINITION. Queues, packets, launch records, completion (21 R376 to R384). -/

namespace Sys2Proof.Machine

/-! ### The Lasting unit in virtual memory (R379, R380) -/

/-- The Lasting unit acts for a VD from the die of its HOMEDIE (R325). -/
def State.unitWho (s : State) (v : Nat) : Who :=
  { coreWho (256 * (s.vd v).homedie.toNat) v with incarn := (s.vd v).incarn }

/-- A sector that the Lasting unit reads proves uncorrectable (R353). -/
def State.unitFound (s : State) (v a : Nat) (h : Home) (found : Bool) : State :=
  if found then s.reportPoisoned v (s.vd v).incarn 0 a 0 0 0 h.stack h.ch else s

/-- Some bytes of one sector, read by the Lasting unit for a VD; none where the address does not translate or
the sector is poisoned. -/
def State.unitRead (s : State) (v : Nat) (va : DWord) (n : Nat) : Option (List Byte) × State :=
  if (va >>> 56) != 0 then (none, s)
  else
    let a := va.toNat
    match s.askHome (s.unitWho v) a 0 with
    | (.error _, s) => (none, s)
    | (.ok h, s) =>
      match s.readHome v h.pa (s.tagOf v a h.pa h.leaf) with
      | (some b, _, s) => (some ((b.drop (a % 128)).take n), s)
      | (none, found, s) => (none, s.unitFound v a h found)

/-- An indivisible update of eight bytes by the Lasting unit (R184); whether the address translates. -/
def State.unitUpdate (s : State) (v : Nat) (va : DWord) (acc : BitVec 2) (f : DWord → DWord) : Bool × State :=
  if (va >>> 56) != 0 then (false, s)
  else
    let a := va.toNat
    let w := s.unitWho v
    let put (s : State) (h : Home) (x : DWord) : State := s.putHome w a h (bytesAt (a % 128) (leBytes 8 x.toNat))
    match s.askHome w a acc with
    | (.error _, s) => (false, s)
    | (.ok h, s) =>
      if acc = 1 then (true, put s h (f 0))
      else match s.readHome v h.pa (s.tagOf v a h.pa h.leaf) with
        | (some b, _, s) => (true, put s h (f (BitVec.ofNat 64 (leNat ((b.drop (a % 128)).take 8)))))
        | (none, found, s) => (true, s.unitFound v a h found)

/-- The low bits of a packet's address that its alignment excludes are not used. -/
def alignTo (n : Nat) (a : DWord) : DWord := a &&& ~~~(BitVec.ofNat 64 (n - 1))

/-! ### Queues (R376, R377) -/

/-- Slots of a ring. -/
def Queue.slots (q : Queue) : Nat := ringSize 4 q.log2

/-- QERR is set, with its event (R376, R386). -/
def State.setQerr (s : State) (q code index : Nat) : State :=
  let x := s.queue q
  let v := x.vd.toNat
  (s.setQueue q { x with qerr := BitVec.ofNat 8 code }).postEvent v (s.vd v).incarn 5 q index

/-- NOTIFY_WRITE (R377): WR, and the time at which it covers its packets. -/
def execNotifyWrite (wr : Writer) (q : Nat) (val : Word) (s : State) : Host.Outcome State Fault Refusal :=
  .next (
    let x := s.queue q
    if !ofDomain wr (s.domOf x.vd.toNat) || decide (4096 ≤ q) then s
    else
      let s := s.setQueue q { x with wr := val, notify := x.notify ++ [(val.toNat, s.clock)] }
      if x.slots < (val - x.rd).toNat then s.setQerr q 3 x.rd.toNat else s)

/-- The time of the notify write that covers a packet: the first whose WR lies past it. -/
def Queue.coveredAt (q : Queue) (index : Nat) : Nat :=
  ((q.notify.find? (fun n => earlierPkt index n.1)).map (fun n => n.2)).getD 0

/-! ### Packets (R379) -/

/-- A packet: its words. -/
structure Pkt where
  hdr : Nat
  a   : DWord
  b   : DWord
  c   : DWord
  d   : DWord
deriving DecidableEq, Repr

def Pkt.typ (p : Pkt) : Nat := bitsAt p.hdr 0 4
def Pkt.acq (p : Pkt) : Nat := bitsAt p.hdr 4 3
def Pkt.bar (p : Pkt) : Bool := bitsAt p.hdr 7 1 == 1
def Pkt.rel (p : Pkt) : Nat := bitsAt p.hdr 8 3
def Pkt.event (p : Pkt) : Bool := bitsAt p.hdr 11 1 == 1
def Pkt.cond (p : Pkt) : Nat := bitsAt p.hdr 12 3
def Pkt.sysidx (p : Pkt) : Nat := bitsAt p.hdr 32 12

/-- A scope as ACQ and REL code it. -/
def pktScope : Nat → Option Scope
  | 3 => some .package
  | 4 => some .system
  | _ => none

/-- The QERR that a header earns (R376, R379). -/
def Pkt.bad (p : Pkt) : Option Nat :=
  if !within 1 4 p.typ then some 1
  else if !List.contains [0, 3, 4] p.acq || !List.contains [0, 3, 4] p.rel || decide (4 ≤ p.cond) || (p.typ != 2 && p.cond != 0) then some 2
  else none

/-- The head packet of a ring; none where the ring is unreadable. -/
def State.headPkt (s : State) (q : Nat) : Option Pkt × State :=
  let x := s.queue q
  let at_ := x.base.toNat + 64 * (x.rd.toNat % x.slots)
  if !s.readable at_ 64 then (none, s)
  else
    let (bs, s) := s.rdBytes at_ 64
    let w (i : Nat) : Nat := leNat ((bs.drop (8 * i)).take 8)
    (some { hdr := w 0, a := BitVec.ofNat 64 (w 1), b := BitVec.ofNat 64 (w 2), c := BitVec.ofNat 64 (w 3)
            d := BitVec.ofNat 64 (w 4) }, s)

/-- The condition of a WAITVAL (R379, R380). -/
def Pkt.holds (p : Pkt) (w : DWord) : Bool :=
  let x := w &&& p.c
  match p.cond with
  | 0 => x == p.b
  | 1 => x != p.b
  | 2 => decide (p.b.toNat ≤ x.toNat)
  | _ => decide (x.toNat < p.b.toNat)

/-! ### Launch records (R382) -/

/-- A binding by its code. -/
def bindingOf : Nat → Option Binding
  | 0 => some .lane
  | 1 => some .team
  | 2 => some .group
  | 3 => some .gang
  | 4 => some .cluster
  | 5 => some .package
  | 6 => some .system
  | _ => none

/-- Bindings in order (R30). -/
def Binding.rank : Binding → Nat
  | .lane => 0
  | .team => 1
  | .group => 2
  | .gang => 3
  | .cluster => 4
  | .package => 5
  | .system => 6

/-- The scope of a binding, as F-MEM codes it (R30, R106). -/
def Binding.scopeCode : Binding → Nat
  | .lane | .team => 0
  | .group => 1
  | .gang | .cluster => 2
  | .package => 3
  | .system => 4

/-- The words of a launch record: word 0 and word 1 of each level. -/
abbrev Rec := List (Nat × Nat)

/-- A launch record in virtual memory, 16 bytes at a time. -/
def State.readRecord (s : State) (v : Nat) : Nat → DWord → Option Rec × State
  | 0, _ => (some [], s)
  | n + 1, va =>
    match s.unitRead v va 16 with
    | (none, s) => (none, s)
    | (some bs, s) =>
      match s.readRecord v n (va + 16) with
      | (none, s) => (none, s)
      | (some r, s) => (some ((leNat (bs.take 8), leNat (bs.drop 8)) :: r), s)

/-- The levels present. -/
def levelsOf (r : Rec) : List Level :=
  (r.takeWhile (fun x => bitsAt x.1 0 16 != 0)).map (fun x =>
    { extent := bitsAt x.1 0 16, binding := (bindingOf (bitsAt x.1 16 3)).getD .lane })

/-- Reserved bits of a record are zero, and no level stands beyond a missing one (R382). -/
def recClean (r : Rec) : Bool :=
  let n := (levelsOf r).length
  (r.zip (List.range 8)).all (fun x =>
    bitsAt x.1.1 19 1 == 0 && bitsAt x.1.1 23 41 == 0
    && (if x.2 = 0 then bitsAt x.1.2 34 30 == 0
        else if x.2 = 1 then bitsAt x.1.2 18 2 == 0 && bitsAt x.1.2 40 24 == 0
        else x.1.2 == 0)
    && (decide (x.2 < n) || (bitsAt x.1.1 0 23 == 0)))

/-- Scopes and bindings of a record (R30). -/
def recScopes (r : Rec) : Bool :=
  (r.take (levelsOf r).length).all (fun x => match bindingOf (bitsAt x.1 16 3) with
    | some b => bitsAt x.1 20 3 == b.scopeCode
    | none => false)

/-- Bindings do not decrease; LANE is level 0 alone, TEAM level 1 (R29, R30). -/
def levelsOrdered (ls : List Level) : Bool :=
  (ls.zip (ls.drop 1)).all (fun x => decide (x.1.binding.rank ≤ x.2.binding.rank))
  && (match ls with
    | a :: b :: rest => a.binding == .lane && b.binding == .team && rest.all (fun x => x.binding != .lane)
    | _ => false)

/-- A launch with the levels of a record. -/
def levelLaunch (ls : List Level) : Launch := { resetLaunch with levels := ls }

/-- Extent limits (R26, R30, R31). -/
def extentsOk (ls : List Level) : Bool :=
  let l := levelLaunch ls
  decide (l.e0 ≤ 1024) && decide (l.teamCount ≤ 8) && decide (l.members ≤ 256)
  && ls.all (fun x => match x.binding with
    | .cluster => decide (x.extent ≤ 4)
    | .package => x.extent == 1
    | .system => decide (x.extent ≤ 4096)
    | _ => true)

/-- SYSIDX lies below the SYSTEM extent, or is zero without one (R382). -/
def sysidxOk (ls : List Level) (sysidx : Nat) : Bool :=
  match ls.filter (fun x => x.binding == .system) with
  | [] => sysidx == 0
  | xs => decide (sysidx < product (xs.map (fun x => x.extent)))

/-- The bytes of the images of a launch's first team (R344, R345). -/
def Launch.imageBytes (l : Launch) : Nat :=
  let team := 0x400 + 0x1DC0 + l.lmax * 4096 + (Config.replayMax l.e0).toNat
  let quads := (bitList l.qmask 0 4).length
  let group := 0x13C0 + 65536 * quads + l.spad * 256 + l.spad * 2 + 256
  (team + 4095) / 4096 * 4096 + group

/-- The cores that could hold a group suffice: one, or as many in a cluster as a gang instance has groups; and
the dies that hold one suffice for a CLUSTER level (R382, code 3). -/
def State.grantOk (s : State) (v : Nat) (l : Launch) : Bool :=
  let on (d : Nat) : Nat := ((List.range 256).filter (fun i => s.couldHold (256 * d + i) v l)).length
  let dies := ((List.range 4).filter (fun d => decide (0 < on d))).length
  (List.range 4).any (fun d => decide (l.members ≤ on d))
  && l.levels.all (fun x => x.binding != .cluster || decide (x.extent ≤ dies))

/-- The rejection code of a launch, 0 where it is accepted (R382). -/
def State.rejects (s : State) (v : Nat) (r : Rec) (l : Launch) : Nat :=
  let ls := l.levels
  if !(recClean r && recScopes r && levelsOrdered ls && extentsOk ls && sysidxOk ls l.sysidx) then 1
  else if !(within 1 253 l.lmax && within 4 256 l.tregs && decide (l.spad ≤ 2048) && decide (l.lmax * l.e0 ≤ 131072)) then 2
  else if !s.grantOk v l then 3
  else if (s.vd v).stride < l.imageBytes then 4
  else 0

/-- The launch that a packet and its record ask for. -/
def launchOfRec (p : Pkt) (r : Rec) (q index v time prio : Nat) : Launch :=
  let x0 := (r.getD 0 (0, 0)).2
  let x1 := (r.getD 1 (0, 0)).2
  let l : Launch := { resetLaunch with
    queue := q, index := index, vd := v, code := alignTo 8 p.a, args := p.c, signal := alignTo 16 p.d
    sysidx := p.sysidx, acq := pktScope p.acq, rel := pktScope p.rel, event := p.event
    early := bitsAt x0 33 1 == 1, barrier := p.bar, levels := levelsOf r
    expcl := bitsAt x0 0 32, idemp := bitsAt x0 32 1 == 1
    lmax := bitsAt x1 0 8, tregs := bitsAt x1 8 10, spad := bitsAt x1 20 12
    qmask := BitVec.ofNat 4 (bitsAt x1 32 4), lmask := BitVec.ofNat 4 (bitsAt x1 36 4), prio := prio, time := time }
  l

/-! ### Completion (R381, R384) -/

/-- KCODE of a kill (R384). -/
def KillCode.code : KillCode → Nat
  | .double => 1
  | .unhandled => 2
  | .fault => 3
  | .poison => 4
  | .coolant => 5
  | .stitch => 6

/-- The status word of a completion signal (R384). -/
def Launch.status (l : Launch) : DWord :=
  BitVec.ofNat 64 ((l.killed.elim 0 (fun k => 1 + 16 * k.code)) + (if l.rejected = 0 then 0 else 2 + 256 * l.rejected))

/-- A release at a scope covers what the cores of the package hold (R381). -/
def State.releaseAll (s : State) (sc : Option Scope) : State :=
  match sc with
  | some sc => (s.cores.map (fun e => e.1)).foldl (fun s c => s.releaseL1 c sc) s
  | none => s

/-- A packet completes: it leaves the packets in work, with its COMPLETE event (R378, R386). -/
def State.packetDone (s : State) (q index : Nat) (event : Bool) : State :=
  let x := s.queue q
  let s := s.setQueue q { x with taken := x.taken.filter (fun p => p.index != index) }
  if event then s.postEvent x.vd.toNat (s.vd x.vd.toNat).incarn 1 q index else s

/-- A launch completes: release, completion signal, event (R381, R384). -/
def State.completeLaunch (s : State) (id : Nat) : State :=
  let l := s.launch id
  let s := s.releaseAll l.rel
  let s :=
    if l.signal = 0 then s
    else
      let (ok1, s) := s.unitUpdate l.vd l.signal 2 (fun w => w + 1)
      let (ok2, s) := s.unitUpdate l.vd (l.signal + 8) 2 (fun w => w ||| l.status)
      if ok1 && ok2 then s else s.setQerr l.queue 4 l.index
  { s.packetDone l.queue l.index l.event with launches := Tbl.del s.launches id }

/-- LAUNCH_COMPLETE (R384): every group of the launch has ended. -/
def execLaunchComplete (id : Nat) (s : State) : Host.Outcome State Fault Refusal :=
  .next (match Tbl.get? s.launches id with
    | some l => if l.todo.isEmpty && l.live.isEmpty then s.unlessHeld (fun s => s.completeLaunch id) else s
    | none => s)

/-! ### Taking packets (R378, R380) -/

/-- RD advances over the head packet, which is in work until it completes. -/
def State.takeHead (s : State) (q : Nat) (launch : Option Nat) : State :=
  let x := s.queue q
  s.setQueue q { x with
    rd := x.rd + 1, ready := false, taken := x.taken ++ [{ index := x.rd.toNat, launch := launch }]
    notify := x.notify.filter (fun n => earlierPkt (x.rd + 1).toNat n.1) }

/-- A LAUNCH is taken (R380, R382): its groups go to the distributor, or it is rejected and completes. -/
def State.takeLaunch (s : State) (q : Nat) (p : Pkt) (r : Option Rec) : State :=
  let x := s.queue q
  let v := x.vd.toNat
  let (id, s) := s.fresh
  let l := launchOfRec p (r.getD []) q x.rd.toNat v (x.coveredAt x.rd.toNat) x.prio.toNat
  let code := match r with
    | some r => s.rejects v r l
    | none => 5
  let l := { l with rejected := code, todo := if code = 0 then
    (List.range l.gangCount).filter (fun n => n % l.gangSerial == 0) else [] }
  let s := (s.takeHead q (some id)).setLaunch id l
  if code = 0 then s else s.completeLaunch id

/-- A WRITEVAL or MARK is taken: it stores, releases and completes; where its address does not translate the
packet stays (R380). -/
def State.takeStore (s : State) (q : Nat) (p : Pkt) (val : DWord) : State :=
  let x := s.queue q
  let i := x.rd.toNat
  match s.unitUpdate x.vd.toNat (alignTo 8 p.a) 1 (fun _ => val) with
  | (false, s) => s.setQerr q 4 i
  | (true, s) => ((s.releaseAll (pktScope p.rel)).takeHead q none).packetDone q i p.event

/-- Every earlier packet of the queue has completed (R378). -/
def Queue.clear (q : Queue) : Bool := q.taken.isEmpty

/-- The queue may take a packet, its condition aside (R378). -/
def State.serving (s : State) (q : Nat) : Bool :=
  let x := s.queue q
  let d := s.vd x.vd.toNat
  x.enable && x.qerr == 0 && x.rd != x.wr && d.valid && (s.domain d.domain.toNat).valid

/-- PACKET_TAKE (R378 to R382). -/
def execPacketTake (q : Nat) (s : State) : Host.Outcome State Fault Refusal :=
  .next (s.unlessHeld (fun s => 
    if !s.serving q then s
    else
      let x := s.queue q
      let i := x.rd.toNat
      match s.headPkt q with
      | (none, s) => s.setQerr q 4 i
      | (some p, s) =>
        match p.bad with
        | some code => s.setQerr q code i
        | none =>
          let met := !p.bar || x.clear
          (match p.typ with
          | 1 =>
            let (r, s) := s.readRecord x.vd.toNat 8 (alignTo 16 p.b)
            let early := r.elim false (fun r => bitsAt (r.getD 0 (0, 0)).2 33 1 == 1)
            if met || early then s.takeLaunch q p r else s
          | 2 => if met && x.ready then
              ((s.releaseAll (pktScope p.rel)).takeHead q none).packetDone q i p.event else s
          | 3 => if met then s.takeStore q p p.b else s
          | _ => if met then s.takeStore q p (BitVec.ofNat 64 s.clock) else s)))

/-- WAITVAL_POLL (R380): the word at ADDR of a WAITVAL at the head. -/
def execWaitvalPoll (q : Nat) (s : State) : Host.Outcome State Fault Refusal :=
  .next (s.unlessHeld (fun s => 
    if !s.serving q then s
    else match s.headPkt q with
      | (none, s) => s.setQerr q 4 (s.queue q).rd.toNat
      | (some p, s) =>
        if p.typ != 2 || p.bad.isSome then s
        else
          let x := s.queue q
          match s.unitRead x.vd.toNat (alignTo 8 p.a) 8 with
          | (none, s) => s.setQerr q 4 x.rd.toNat
          | (some bs, s) => s.setQueue q { s.queue q with ready := p.holds (BitVec.ofNat 64 (leNat bs)) }))

/-! ### The host (R373, R387) -/

/-- PAUSE_CLEAR (R385, R387): one message where events wait. -/
def execPauseClear (wr : Writer) (vd : Nat) (s : State) : Host.Outcome State Fault Refusal :=
  .next (
    let d := s.vd vd
    if !s.isManager wr vd then s
    else
      let s := s.setVD vd { d with pause := false }
      if d.pause && d.evq.wr != d.evq.rd then s.sendMsix vd else s)

/-- HOST_SNOOP (R373): no cache of the package holds host memory, and the host agent finishes each operation
within one step, so that every snoop misses. -/
def execHostSnoop (_pa : Nat) (s : State) : Host.Outcome State Fault Refusal := .next s

/-- HOST_MEM_ACCESS (R373): a host access by CXL.mem to bytes of one sector at its home; a read changes
nothing. -/
def execHostMemAccess (pa : Nat) (wr : Option (List Byte)) (s : State) : Host.Outcome State Fault Refusal :=
  .next (match wr with
    | none => s
    | some bs => if pa < 2 ^ 40 ∧ pa % 128 + bs.length ≤ 128 then s.wrBytes pa bs else s)

end Sys2Proof.Machine
end

