-- ==== Sys2Proof/Machine/Coolant.lean ====
section
/-! DEFINITION. Coolant (20 R362 to R372): zones, leave, sensor states, evacuation, the coolant block. -/

namespace Sys2Proof.Machine

/-! ### Zones (R362) -/

/-- The cores that a zone cools. -/
def zoneCores (z : Nat) : List Nat := if z < 64 then (List.range 16).map (fun i => 16 * z + i) else []

/-- The die whose purge valve serves a zone: a stack lies on the edge of die STACK div 4. -/
def zoneDie (z : Nat) : Nat := if z < 64 then z / 16 else (z - 64) / 4

/-- Change a zone. -/
def State.modZone (s : State) (z : Nat) (f : Zone → Zone) : State := s.setZone z (f (s.zone z))

/-- The resident groups of a zone. -/
def State.zoneGroups (s : State) (z : Nat) : List Nat :=
  (s.groups.filter (fun e => zoneOf e.2.core == z && !e.2.ended && !s.isSaved e.1)).map (fun e => e.1)

/-- The VDs with a group resident in a zone. -/
def State.zoneVds (s : State) (z : Nat) : List Nat := ((s.zoneGroups z).map (fun g => (s.group g).vd)).eraseDups

/-- The gang instances with a group resident in a zone. -/
def State.zoneGangs (s : State) (z : Nat) : List Nat := ((s.zoneGroups z).map (fun g => (s.group g).gang)).eraseDups

/-- An event of each of some VDs about a zone (R386). -/
def State.zoneEvent (s : State) (z kind : Nat) (vs : List Nat) : State :=
  vs.foldl (fun s v => s.postEvent v (s.vd v).incarn kind z 0) s

/-! ### Leave (R365) -/

/-- The budget of a zone, in mW. -/
def Zone.budget (z : Zone) : Nat :=
  if z.setpt = 0 ∨ 2 ≤ z.state.toNat then 0
  else
    let b := min z.capw.toNat (z.capw.toNat * z.flow.toNat / z.setpt.toNat)
    if z.state.toNat = 1 then b / 2 else b

/-- OCLS admits a class; 3 acts as 0. -/
def Zone.admits (z : Zone) (cls : Nat) : Bool := decide (cls ≤ (if z.ocls = 3 then 0 else z.ocls.toNat))

/-- A request fits. -/
def State.fitsLeave (s : State) (z : Nat) (w : Leave) : Bool :=
  let x := s.zone z
  let need := x.granted.toNat + w.power + (if w.cls = 0 then 0 else x.resa.toNat)
  x.setpt != 0 && decide (x.state.toNat ≤ 1) && decide (need ≤ x.budget) && x.admits w.cls
  && decide (s.coolant.pkgpwr.toNat * 1000 + w.power ≤ s.coolant.pkglim.toNat * 1000)

/-- The request that the governor takes next: class order, the oldest first within a class. -/
def Zone.nextLeave (z : Zone) : Option Leave := leastBy (fun w => w.cls) z.waiting

/-- LCLASS of a loop. -/
def loopClass : Instr → BitVec 4
  | .mloop o => o.lclass
  | _ => 0

/-- The one who asked has leave (R225, R234, R251, R366). -/
def State.takeLeave (s : State) (who : LeaveBy) : State :=
  match who with
  | .loop g quads id =>
    let cls := ((s.group g).quads.findSome? (fun q => q.2.ent? id)).elim 0 (fun e => loopClass e.op.instr)
    let s := s.modEnt g id (fun e => { e with granted := true })
    let s := quads.foldl (fun s q => s.modQuad g q (fun k => { k with lclass := cls })) s
    s.wakeCause (s.group g).core 5
  | .session ch =>
    match (s.chan ch).session with
    | none => s
    | some x =>
      let s := s.setChan ch { s.chan ch with session := some { x with st := .active, granted := true } }
      s.answerOn ch 0

/-- A request is granted. -/
def State.grantLeave (s : State) (z : Nat) (w : Leave) : State :=
  let s := s.modZone z (fun x => { x with
    waiting := x.waiting.filter (fun y => y.who != w.who)
    grants := x.grants ++ [{ w with time := s.clock }]
    granted := x.granted + BitVec.ofNat 16 w.power })
  s.takeLeave w.who

/-- The governor's scan: it stops at the first request that does not fit. -/
def State.scanLeave (s : State) (z : Nat) : Nat → State
  | 0 => s
  | fuel + 1 =>
    match (s.zone z).nextLeave with
    | none => s
    | some w => if s.fitsLeave z w then (s.grantLeave z w).scanLeave z fuel else s

/-- LEAVE_GRANT (R365). -/
def execLeaveGrant (z : Nat) (s : State) : Host.Outcome State Fault Refusal :=
  .next (s.scanLeave z (s.zone z).waiting.length)

/-! ### Sensor states (R368) -/

/-- STATE of a zone that is not evacuating or fenced: a HOT zone stays so until TEMP is below TWARN. -/
def Zone.sensed (z : Zone) : Nat :=
  if z.tcrit.toNat ≤ z.temp.toNat ∨ (z.state = 2 ∧ z.twarn.toNat ≤ z.temp.toNat) then 2
  else if z.twarn.toNat ≤ z.temp.toNat ∨ z.flow.toNat < z.flwarn.toNat ∨ z.pres.toNat < z.plow.toNat ∨
      z.phigh.toNat < z.pres.toNat then 1
  else 0

/-- The thresholds that a zone stands beyond, as the bits 0 to 4 of TRAP. -/
def Zone.beyond (z : Zone) : BitVec 6 :=
  let bit (n : Nat) (b : Bool) : Nat := if b then 2 ^ n else 0
  BitVec.ofNat 6 (bit 0 (decide (z.twarn.toNat ≤ z.temp.toNat)) + bit 1 (decide (z.tcrit.toNat ≤ z.temp.toNat))
    + bit 2 (decide (z.flow.toNat < z.flwarn.toNat)) + bit 3 (decide (z.pres.toNat < z.plow.toNat))
    + bit 4 (decide (z.phigh.toNat < z.pres.toNat)))

/-- The sensors give new values: TRAP takes the thresholds crossed. -/
def Zone.measure (z : Zone) (flow temp pres : Nat) : Zone :=
  let y := { z with flow := BitVec.ofNat 8 flow, temp := BitVec.ofNat 8 temp, pres := BitVec.ofNat 8 pres }
  { y with trap := y.trap ||| (y.beyond &&& ~~~z.beyond) }

/-- The flow that verification asks (R369, step 7). -/
def Zone.verified (z : Zone) (flow : Nat) : Bool := decide (z.setpt.toNat * 4 ≤ flow * 5)

/-- A flow too low for the zone (R369). -/
def Zone.low (z : Zone) : Bool := decide (z.flow.toNat * 5 < z.setpt.toNat)

/-- The firmware takes a trap for a zone whose TRAP has become non-zero (R364); `old` is what TRAP was. -/
def State.tellTrap (s : State) (z : Nat) (old : BitVec 6) : State :=
  if old = 0 ∧ (s.zone z).trap ≠ 0 then { s with log := s.log ++ [.zoneTrap z] } else s

/-- How long FLOW has been too low, or good enough, is kept (R369). -/
def Zone.watchFlow (z : Zone) (now : Nat) : Zone :=
  { z with
    lowAt := if z.low then some (z.lowAt.getD now) else none
    okAt := if z.verified z.flow.toNat then some (z.okAt.getD now) else none }

/-- A reading of the flow sensor. -/
def Zone.readFlow (z : Zone) (now flow : Nat) : Zone := { z with flow := BitVec.ofNat 8 flow }.watchFlow now

/-- STATE changes between NORMAL, THROTTLE and HOT, with the notices. -/
def State.setSensed (s : State) (z new : Nat) : State :=
  let old := (s.zone z).state.toNat
  let s := s.modZone z (fun x => { x with state := BitVec.ofNat 4 new })
  if old = new then s
  else
    let vs := s.zoneVds z
    let s := if old = 0 then s else s.zoneEvent z 3 vs
    if new = 0 then s else s.zoneEvent z 2 vs

/-- ZONE_EVALUATION (R367, R368): the readings come from the sensors; the heat removed meanwhile and the
package's power are open (log entry 8). -/
def execZoneEvaluation (z flow temp pres : Nat) (s : State) : Host.Outcome State Fault Refusal :=
  .next (
    if 80 ≤ z then s
    else
    let heat := Config.freeVal s.free
    let power := (Config.freeVal (s.free + 1)).extractLsb' 0 16
    let s := { s with free := s.free + 2, coolant := { s.coolant with pkgpwr := power } }
    let old := (s.zone z).trap
    let s := s.modZone z (fun x =>
      let y := (x.measure flow temp pres).watchFlow s.clock
      { y with energy := y.energy + heat })
    let s := s.tellTrap z old
    if (s.zone z).state.toNat ≤ 2 then s.setSensed z (s.zone z).sensed else s)

/-! ### Evacuation (R369 to R372) -/

/-- The loops of a group stop at their step boundary (R216, R369): each asks leave again when it may start. -/
def Quad.stopLoops (q : Quad) : Quad :=
  { q with queue := q.queue.map (fun e =>
      if isLoop e.op.instr && e.granted then { e with started := false, asked := false, granted := false } else e) }

/-- Step 2: loops stop, sessions of a stack zone are aborted or withdrawn, every grant ends. -/
def State.stopLeave (s : State) (z : Nat) : State :=
  let s := (s.zoneGroups z).foldl (fun s g =>
    s.modGroup g (fun m => { m with quads := m.quads.map (fun q => (q.1, q.2.stopLoops)) })) s
  let s := if z < 64 then s
    else (List.range 64).foldl (fun s i => s.breakSession (64 * (z - 64) + i) 7 7) s
  let held := (s.zone z).grants.map (fun w => w.who)
  s.dropLeave (fun w => held.contains w)

/-- Cycles of some microseconds at 2.25 GHz (R2). -/
def usCycles (n : Nat) : Nat := 2250 * n

/-- A flow that has stood since a time has done so for some microseconds. -/
def State.stood (s : State) (at_ : Option Nat) (us : Nat) : Bool :=
  at_.elim false (fun t => decide (t + usCycles us ≤ s.clock))

/-- A zone enters a step of its evacuation. -/
def Zone.enter (z : Zone) (step : BitVec 4) (valve : Byte) (now : Nat) : Zone :=
  { z with state := step, valve := valve, since := now }

/-- DRY_DECLARATION (R369): the flow has been too low for 200 µs; steps 1 to 3 begin. In a compute zone every instance is to be saved forced; at a
stack new requests are held. -/
def execDryDeclaration (z : Nat) (s : State) : Host.Outcome State Fault Refusal :=
  .next (
    let x := s.zone z
    if decide (80 ≤ z) || x.setpt = 0 || decide (3 ≤ x.state.toNat) || !x.low || !s.stood x.lowAt 200 then s
    else
      let s := if x.state = 0 then s else s.zoneEvent z 3 (s.zoneVds z)
      let s := s.modZone z (fun x => { x.enter 5 x.valve s.clock with
        trap := x.trap ||| 0x20, repeats := 0, dryAt := s.clock })
      let s := (s.tellTrap z x.trap).stopLeave z
      (s.zoneGangs z).foldl (fun s a => s.preempt a true) s)

/-- Step 3 is complete: no instance is resident in a compute zone; what was outstanding at a stack is done. -/
def State.emptied (s : State) (z : Nat) : Bool :=
  if z < 64 then (s.zoneGroups z).isEmpty
  else (List.range 64).all (fun i => (s.chan (64 * (z - 64) + i)).queue.isEmpty)

/-- EVACUATION_SAVE_TIMEOUT (R369): 250 µs after the declaration, the clock of each core with a group that is not saved stops, and its
groups are killed with COOLANT. -/
def execEvacuationSaveTimeout (z : Nat) (s : State) : Host.Outcome State Fault Refusal :=
  .next (
    if (s.zone z).state != 5 || !s.stood (some (s.zone z).dryAt) 250 then s
    else
      let gs := s.zoneGroups z
      let cores := (gs.map (fun g => (s.group g).core)).eraseDups
      let fams := (s.fams.filter (fun e => gs.contains e.2.group && !e.2.ended)).map (fun e => e.1)
      let s := cores.foldl (fun s c => s.modCore c (fun k => { k with stopped := true })) s
      fams.foldl (fun s f => s.kill f .coolant) s)

/-- EVACUATION_PURGE (R369, R372): step 4, once step 3 is complete and no other zone has the die's purge
valve; a stack is in self-refresh. -/
def execEvacuationPurge (z : Nat) (s : State) : Host.Outcome State Fault Refusal :=
  .next (
    let d := zoneDie z
    if (s.zone z).state != 5 || !s.emptied z || (s.die d).purge.isSome then s
    else
      let s := s.setDie d { s.die d with purge := some z }
      let s := if z < 64 then s else s.setWelt (z - 64) { s.welt (z - 64) with refresh := true }
      s.modZone z (fun x => x.enter 6 x.setpt s.clock))

/-- A zone has been in a step of its evacuation for some microseconds. -/
def State.stepOver (s : State) (z : Nat) (step : BitVec 4) (us : Nat) : Bool :=
  (s.zone z).state == step && s.stood (some (s.zone z).since) us

/-- EVACUATION_PULSE (R369): step 5, after 2 ms of step 4. -/
def execEvacuationPulse (z : Nat) (s : State) : Host.Outcome State Fault Refusal :=
  .next (if s.stepOver z 6 2000 then s.modZone z (fun x => x.enter 7 255 s.clock) else s)

/-- EVACUATION_REPRIME (R369, R372): step 6, after 500 µs of step 5; the purge valve is free for another zone. -/
def execEvacuationReprime (z : Nat) (s : State) : Host.Outcome State Fault Refusal :=
  .next (
    if s.stepOver z 7 500 then
      (s.setDie (zoneDie z) { s.die (zoneDie z) with purge := none }).modZone z (fun x => x.enter 8 x.setpt s.clock)
    else s)

/-- A domain owns a unit in a zone. -/
def State.ownsInZone (s : State) (z k : Nat) : Bool :=
  let d := s.domain k
  d.valid && (if z < 64 then (zoneCores z).any (fun c => (List.range 72).any (fun i => s.ownsUnit c k i))
    else !(bitList d.chan (64 * (z - 64)) 64).isEmpty || !(bitList d.mscb (32 * (z - 64)) 32).isEmpty)

/-- A zone that leaves its evacuation gives the die's purge valve up. -/
def State.freePurge (s : State) (z : Nat) : State :=
  let d := s.die (zoneDie z)
  if d.purge = some z then s.setDie (zoneDie z) { d with purge := none } else s

/-- ZONE_FENCE (R371): the valve closes, the units go offline, and each domain with a unit there is told, by
its VDs' events and its journal. -/
def State.fenceZone (s : State) (z : Nat) : State :=
  let s := (s.freePurge z).modZone z (fun x => { x with fence := true, state := 10, valve := 0, repeats := 0 })
  let s := if z < 64 then s else s.setWelt (z - 64) { s.welt (z - 64) with refresh := true }
  ((List.range 16).filter (s.ownsInZone z)).foldl (fun s k =>
    (s.zoneEvent z 4 ((s.vdsOf k).filter (fun v => (s.vd v).valid))).journal k 4 0 0 [z] []) s

/-- A zone returns to NORMAL (R370): its cores' clocks run, its stack leaves self-refresh. -/
def State.zoneNormal (s : State) (z : Nat) : State :=
  let s := s.modZone z (fun x => { x with fence := false, state := 0, valve := x.setpt, repeats := 0 })
  if z < 64 then
    ((zoneCores z).filter (fun c => (s.core c).stopped)).foldl (fun s c => s.modCore c (fun k => { k with stopped := false })) s
  else s.setWelt (z - 64) { s.welt (z - 64) with refresh := false }

/-- Verification fails (R370, R371): steps 4 to 7 again, up to RETRY times, or a fence. -/
def State.failVerify (s : State) (z : Nat) : State :=
  if (s.zone z).repeats < s.coolant.retry.toNat then
    s.modZone z (fun x => { x.enter 5 x.valve s.clock with repeats := x.repeats + 1 })
  else s.fenceZone z

/-- EVACUATION_VERIFY (R369 to R371): a reading of the flow. After 5 ms of step 6, step 7 begins, which looks at the
flow from then on; it succeeds where the flow has been good for 1 ms, and fails after 5 ms. -/
def execEvacuationVerify (z flow : Nat) (s : State) : Host.Outcome State Fault Refusal :=
  .next (
    let read (s : State) : State := s.modZone z (fun x => x.readFlow s.clock flow)
    if s.stepOver z 8 5000 then
      read (s.modZone z (fun x => { x.enter 9 x.valve s.clock with okAt := none }))
    else if (s.zone z).state = 9 then
      let s := read s
      if s.stood (s.zone z).okAt 1000 then s.zoneNormal z
      else if s.stood (some (s.zone z).since) 5000 then s.failVerify z
      else s
    else s)

/-- FENCE_CLEAR (R371): the firmware lifts a fence; where the flow fails step 7 it is set again. -/
def execFenceClear (wr : Writer) (z flow : Nat) (s : State) : Host.Outcome State Fault Refusal :=
  .next (
    if !isFw wr || !(s.zone z).fence then s
    else
      let s := s.modZone z (fun x => x.readFlow s.clock flow)
      if (s.zone z).verified (flow % 256) then s.zoneNormal z else s.fenceZone z)

/-! ### The coolant block (R363, R364) -/

/-- The sum of SETPT over all zones but one. -/
def State.otherSetpts (s : State) (z : Nat) : Nat :=
  ((List.range 80).filter (fun y => y != z)).foldl (fun a y => a + (s.zone y).setpt.toNat) 0

/-- A write of the first dword of an entry, FENCE aside; none where it is discarded (R364). -/
def State.zoneWord0 (s : State) (z : Nat) (val : DWord) : Option Zone :=
  let x := s.zone z
  let set := val.extractLsb' 0 8
  let minfl := val.extractLsb' 8 8
  let resa := val.extractLsb' 32 16
  let capw := val.extractLsb' 48 16
  if set.toNat < minfl.toNat ∨ capw.toNat < resa.toNat ∨ 800 < s.otherSetpts z + set.toNat then none
  else some { x with
    setpt := set, minfl := minfl, ocls := val.extractLsb' 16 2, resa := resa, capw := capw
    valve := if x.state = 7 ∨ x.state = 10 then x.valve else set }

/-- COOLANT_ZONE_WRITE (R363, R364, R371): the firmware writes an entry; a write of TRAP clears bits. -/
def execCoolantZoneWrite (wr : Writer) (z off : Nat) (val : DWord) (s : State) :
    Host.Outcome State Fault Refusal :=
  .next (
    if !isFw wr || decide (80 ≤ z) then s
    else match off with
      | 0x00 =>
        (match s.zoneWord0 z val with
        | none => s
        | some x =>
          let s := s.setZone z (x.watchFlow s.clock)
          if val.getLsbD 20 then (if x.fence then s else s.fenceZone z)
          else if !x.fence then s
          else if x.verified x.flow.toNat then s.zoneNormal z else s.fenceZone z)
      | 0x08 =>
        let warn := val.extractLsb' 0 8
        let crit := val.extractLsb' 8 8
        if 95 < warn.toNat ∨ 95 < crit.toNat then s
        else s.modZone z (fun x => { x with
          twarn := warn, tcrit := crit, flwarn := val.extractLsb' 16 8, plow := val.extractLsb' 24 8
          phigh := val.extractLsb' 32 8 })
      | 0x10 => s.modZone z (fun x => { x with trap := x.trap &&& ~~~(val.extractLsb' 48 6) })
      | _ => s)

end Sys2Proof.Machine
end

