-- ==== Sys2Proof/Machine/Cross.lean ====
section
/-! DEFINITION. The cross-lane group (06 R159 to R165): the meaning of each
instruction is its description, issued by the agent whose turn it is. -/

namespace Sys2Proof.Machine

/-- XCHG (R160). -/
def execXchg (m : XMode) (o : F3) (s : State) : Host.Outcome State Fault Refusal :=
  .next (s.issueDesc (.xchg m o) (descXchg m o))

/-- VOTE (R161). -/
def execVote (m : VMode) (o : F3) (s : State) : Host.Outcome State Fault Refusal :=
  .next (s.issueDesc (.vote m o) (descVote m o))

/-- MATCH (R162). -/
def execMatchOp (all : Bool) (o : F3) (s : State) : Host.Outcome State Fault Refusal :=
  .next (s.issueDesc (.matchOp all o) (descMatch all o))

/-- REDUX (R163). -/
def execRedux (op : ROp) (o : F3) (s : State) : Host.Outcome State Fault Refusal :=
  .next (s.issueDesc (.redux op o) (descRedux op o))

/-- PREFIX (R163). -/
def execPrefixOp (op : ROp) (excl : Bool) (o : F3) (s : State) : Host.Outcome State Fault Refusal :=
  .next (s.issueDesc (.prefixOp op excl o) (descPrefix op excl o))

/-- PICK (R164). -/
def execPick (o : F3) (s : State) : Host.Outcome State Fault Refusal :=
  .next (s.issueDesc (.pick o) (descPick o))

/-- LID (R165). -/
def execLid (m : LidMode) (o : F3) (s : State) : Host.Outcome State Fault Refusal :=
  .next (s.issueDesc (.lid m o) (descLid m o))

/-- SEGM (R163). -/
def execSegm (op : ROp) (tot : Bool) (o : F3) (s : State) : Host.Outcome State Fault Refusal :=
  .next (s.issueDesc (.segm op tot o) (descSegm op tot o))

end Sys2Proof.Machine
end

