-- ==== Sys2Proof/Machine/Floating.lean ====
section
/-! DEFINITION. The floating and conversion groups (05 R148 to R157): the meaning of each
instruction is its description, issued by the agent whose turn it is. -/

namespace Sys2Proof.Machine

/-- FADD (R148). -/
def execFadd (o : F3) (s : State) : Host.Outcome State Fault Refusal :=
  .next (s.issueDesc (.fadd o) (descFadd o))

/-- FSUB (R148). -/
def execFsub (o : F3) (s : State) : Host.Outcome State Fault Refusal :=
  .next (s.issueDesc (.fsub o) (descFsub o))

/-- FMUL (R148). -/
def execFmul (o : F3) (s : State) : Host.Outcome State Fault Refusal :=
  .next (s.issueDesc (.fmul o) (descFmul o))

/-- FFMA (R148). -/
def execFfma (o : F3) (s : State) : Host.Outcome State Fault Refusal :=
  .next (s.issueDesc (.ffma o) (descFfma o))

/-- FMIN (R80). -/
def execFmin (o : F3) (s : State) : Host.Outcome State Fault Refusal :=
  .next (s.issueDesc (.fmin o) (descFmin o))

/-- FMAX (R80). -/
def execFmax (o : F3) (s : State) : Host.Outcome State Fault Refusal :=
  .next (s.issueDesc (.fmax o) (descFmax o))

/-- FDIV (R148). -/
def execFdiv (o : F3) (s : State) : Host.Outcome State Fault Refusal :=
  .next (s.issueDesc (.fdiv o) (descFdiv o))

/-- FSCALE (R148). -/
def execFscale (o : F3) (s : State) : Host.Outcome State Fault Refusal :=
  .next (s.issueDesc (.fscale o) (descFscale o))

/-- FROUND (R150). -/
def execFround (exact : Bool) (o : F3) (s : State) : Host.Outcome State Fault Refusal :=
  .next (s.issueDesc (.fround exact o) (descFround exact o))

/-- FCLASS (R151). -/
def execFclass (o : F3) (s : State) : Host.Outcome State Fault Refusal :=
  .next (s.issueDesc (.fclass o) (descFclass o))

/-- FDOT2 (R149). -/
def execFdot2 (o : F3) (s : State) : Host.Outcome State Fault Refusal :=
  .next (s.issueDesc (.fdot2 o) (descFdot2 o))

/-- FRCP (R153). -/
def execFrcp (o : F3) (s : State) : Host.Outcome State Fault Refusal :=
  .next (s.issueDesc (.frcp o) (descFrcp o))

/-- FRSQ (R153). -/
def execFrsq (o : F3) (s : State) : Host.Outcome State Fault Refusal :=
  .next (s.issueDesc (.frsq o) (descFrsq o))

/-- FSQRT (R153). -/
def execFsqrt (o : F3) (s : State) : Host.Outcome State Fault Refusal :=
  .next (s.issueDesc (.fsqrt o) (descFsqrt o))

/-- FEXP2 (R153). -/
def execFexp2 (o : F3) (s : State) : Host.Outcome State Fault Refusal :=
  .next (s.issueDesc (.fexp2 o) (descFexp2 o))

/-- FLOG2 (R153). -/
def execFlog2 (o : F3) (s : State) : Host.Outcome State Fault Refusal :=
  .next (s.issueDesc (.flog2 o) (descFlog2 o))

/-- FSIN (R153). -/
def execFsin (o : F3) (s : State) : Host.Outcome State Fault Refusal :=
  .next (s.issueDesc (.fsin o) (descFsin o))

/-- FCOS (R153). -/
def execFcos (o : F3) (s : State) : Host.Outcome State Fault Refusal :=
  .next (s.issueDesc (.fcos o) (descFcos o))

/-- FTANH (R153). -/
def execFtanh (o : F3) (s : State) : Host.Outcome State Fault Refusal :=
  .next (s.issueDesc (.ftanh o) (descFtanh o))

/-- CVT (R154). -/
def execCvt (k : CvtVar) (o : F3) (s : State) : Host.Outcome State Fault Refusal :=
  .next (s.issueDesc (.cvt k o) (descCvt k o))

/-- PACK (R155). -/
def execPack (e5m2 : Bool) (o : F3) (s : State) : Host.Outcome State Fault Refusal :=
  .next (s.issueDesc (.pack e5m2 o) (descPack e5m2 o))

/-- PACK_OX4 (R156). -/
def execPackOx4 (o : F3) (s : State) : Host.Outcome State Fault Refusal :=
  .next (s.issueDesc (.packOx4 o) (descPackOx4 o))

/-- UNPACK (R157). -/
def execUnpack (e5m2 : Bool) (o : F3) (s : State) : Host.Outcome State Fault Refusal :=
  .next (s.issueDesc (.unpack e5m2 o) (descUnpack e5m2 o))

/-- UNPACK_OX4 (R157). -/
def execUnpackOx4 (o : F3) (s : State) : Host.Outcome State Fault Refusal :=
  .next (s.issueDesc (.unpackOx4 o) (descUnpackOx4 o))

end Sys2Proof.Machine
end

