-- ==== Sys2Proof/Machine/Integer.lean ====
section
/-! DEFINITION. The integer and logic groups (05 R116 to R128): the meaning of each
instruction is its description, issued by the agent whose turn it is. -/

namespace Sys2Proof.Machine

/-- ADD (R116). -/
def execAdd (o : F3) (s : State) : Host.Outcome State Fault Refusal :=
  .next (s.issueDesc (.add o) (descAdd o))

/-- SUB (R116). -/
def execSub (o : F3) (s : State) : Host.Outcome State Fault Refusal :=
  .next (s.issueDesc (.sub o) (descSub o))

/-- MUL (R116). -/
def execMul (o : F3) (s : State) : Host.Outcome State Fault Refusal :=
  .next (s.issueDesc (.mul o) (descMul o))

/-- MULH (R116). -/
def execMulh (o : F3) (s : State) : Host.Outcome State Fault Refusal :=
  .next (s.issueDesc (.mulh o) (descMulh o))

/-- MAD (R116). -/
def execMad (wide : Bool) (o : F3) (s : State) : Host.Outcome State Fault Refusal :=
  .next (s.issueDesc (.mad wide o) (descMad wide o))

/-- DIV (R116). -/
def execDiv (o : F3) (s : State) : Host.Outcome State Fault Refusal :=
  .next (s.issueDesc (.div o) (descDiv o))

/-- REM (R116). -/
def execRem (o : F3) (s : State) : Host.Outcome State Fault Refusal :=
  .next (s.issueDesc (.rem o) (descRem o))

/-- MIN (R116). -/
def execMin (o : F3) (s : State) : Host.Outcome State Fault Refusal :=
  .next (s.issueDesc (.min o) (descMin o))

/-- MAX (R116). -/
def execMax (o : F3) (s : State) : Host.Outcome State Fault Refusal :=
  .next (s.issueDesc (.max o) (descMax o))

/-- ADD64 (R117). -/
def execAdd64 (x32 : Bool) (o : F3) (s : State) : Host.Outcome State Fault Refusal :=
  .next (s.issueDesc (.add64 x32 o) (descAdd64 x32 o))

/-- SUB64 (R117). -/
def execSub64 (x32 : Bool) (o : F3) (s : State) : Host.Outcome State Fault Refusal :=
  .next (s.issueDesc (.sub64 x32 o) (descSub64 x32 o))

/-- MUL64 (R117). -/
def execMul64 (wide : Bool) (o : F3) (s : State) : Host.Outcome State Fault Refusal :=
  .next (s.issueDesc (.mul64 wide o) (descMul64 wide o))

/-- LEA (R118). -/
def execLea (o : F3) (s : State) : Host.Outcome State Fault Refusal :=
  .next (s.issueDesc (.lea o) (descLea o))

/-- DP4 (R119). -/
def execDp4 (su : Bool) (o : F3) (s : State) : Host.Outcome State Fault Refusal :=
  .next (s.issueDesc (.dp4 su o) (descDp4 su o))

/-- LI (R120). -/
def execLi (o : FRI) (s : State) : Host.Outcome State Fault Refusal :=
  .next (s.issueDesc (.li o) (descLi o))

/-- LI_SX (R120). -/
def execLiSx (o : FRI) (s : State) : Host.Outcome State Fault Refusal :=
  .next (s.issueDesc (.liSx o) (descLiSx o))

/-- LI_ZX (R120). -/
def execLiZx (o : FRI) (s : State) : Host.Outcome State Fault Refusal :=
  .next (s.issueDesc (.liZx o) (descLiZx o))

/-- AND (R123). -/
def execAnd (o : F3) (s : State) : Host.Outcome State Fault Refusal :=
  .next (s.issueDesc (.and o) (descAnd o))

/-- OR (R123). -/
def execOr (o : F3) (s : State) : Host.Outcome State Fault Refusal :=
  .next (s.issueDesc (.or o) (descOr o))

/-- XOR (R123). -/
def execXor (o : F3) (s : State) : Host.Outcome State Fault Refusal :=
  .next (s.issueDesc (.xor o) (descXor o))

/-- ANDN (R123). -/
def execAndn (o : F3) (s : State) : Host.Outcome State Fault Refusal :=
  .next (s.issueDesc (.andn o) (descAndn o))

/-- SHL (R124). -/
def execShl (clamp : Bool) (o : F3) (s : State) : Host.Outcome State Fault Refusal :=
  .next (s.issueDesc (.shl clamp o) (descShl clamp o))

/-- SHR (R124). -/
def execShr (clamp : Bool) (o : F3) (s : State) : Host.Outcome State Fault Refusal :=
  .next (s.issueDesc (.shr clamp o) (descShr clamp o))

/-- SAR (R124). -/
def execSar (clamp : Bool) (o : F3) (s : State) : Host.Outcome State Fault Refusal :=
  .next (s.issueDesc (.sar clamp o) (descSar clamp o))

/-- ROT (R124). -/
def execRot (o : F3) (s : State) : Host.Outcome State Fault Refusal :=
  .next (s.issueDesc (.rot o) (descRot o))

/-- POPC (R125). -/
def execPopc (o : F3) (s : State) : Host.Outcome State Fault Refusal :=
  .next (s.issueDesc (.popc o) (descPopc o))

/-- CLZ (R125). -/
def execClz (o : F3) (s : State) : Host.Outcome State Fault Refusal :=
  .next (s.issueDesc (.clz o) (descClz o))

/-- FFS (R125). -/
def execFfs (o : F3) (s : State) : Host.Outcome State Fault Refusal :=
  .next (s.issueDesc (.ffs o) (descFfs o))

/-- BREV (R125). -/
def execBrev (o : F3) (s : State) : Host.Outcome State Fault Refusal :=
  .next (s.issueDesc (.brev o) (descBrev o))

/-- BFE (R126). -/
def execBfe (o : F3) (s : State) : Host.Outcome State Fault Refusal :=
  .next (s.issueDesc (.bfe o) (descBfe o))

/-- BFI (R126). -/
def execBfi (o : F3) (s : State) : Host.Outcome State Fault Refusal :=
  .next (s.issueDesc (.bfi o) (descBfi o))

/-- CLMUL (R127). -/
def execClmul (o : F3) (s : State) : Host.Outcome State Fault Refusal :=
  .next (s.issueDesc (.clmul o) (descClmul o))

/-- SEL (R128). -/
def execSel (o : F3) (s : State) : Host.Outcome State Fault Refusal :=
  .next (s.issueDesc (.sel o) (descSel o))

end Sys2Proof.Machine
end

