-- ==== Sys2Proof/Machine/Links.lean ====
section
/-! DEFINITION. Links, rails and lanes, the scrub, and repair bytes (19 R355 to R361). -/

namespace Sys2Proof.Machine

/-! ### Flits (R312, R358) -/

/-- Flits that a slot of a direction carries (R312). -/
def slotFlits (l : Nat) : Nat := if l < 8 then 3555 else if l < 40 then 100 else 12

/-- Flits sent in the present slot. -/
def Link.inSlot (k : Link) (clock : Nat) : Nat := if k.sent.1 = clock / 16 then k.sent.2 else 0

/-- A VD has a flit that waits. -/
def Link.hasFlit (k : Link) (v : Nat) : Bool := k.flits.any (fun f => f.vd == v)

/-- The VD to which the present slot belongs (R315, R316): the one that it was given to, for the whole slot; else the
owner, where a flit of its waits, or one borrower. The second component says that it is lent now. -/
def State.flitVd (s : State) (l : Nat) : Option (Nat × Bool) :=
  let k := s.link l
  let owner := entryVd (Tbl.get 0 k.cal.active (windowNo s.clock))
  match k.slot with
  | some (v, n) => if n = s.clock / 16 then some (v, false) else fresh k owner
  | none => fresh k owner
where
  /-- The choice for a slot that is not given yet. -/
  fresh (k : Link) (owner : Option Nat) : Option (Nat × Bool) :=
    if owner.elim false k.hasFlit then owner.map (fun v => (v, false))
    else (s.borrower owner k.borrowed (fun v => (Tbl.get resetBucket k.bkt v).level.toNat) k.hasFlit).map (fun v => (v, true))

/-- The present slot is given to a VD: where it is lent, for one token (R314). -/
def State.giveSlot (s : State) (l v : Nat) (lent : Bool) : State :=
  let (now, s) := s.fresh
  let k := { s.link l with slot := some (v, s.clock / 16) }
  s.setLink l (if lent then { k with bkt := spendToken k.bkt v, borrowed := Tbl.set k.borrowed v now } else k)

/-- The rail of a beat: a failed rail's travels on the parity rail (R359). -/
def Link.railOf (k : Link) (beat : Nat) : Nat := if k.failed.contains beat then 4 else beat

/-- The erased beats of a flit that count: the parity beat is sent only while no rail has failed. -/
def Link.lostBeats (k : Link) (erased : List Nat) : List Nat :=
  (erased.eraseDups).filter (fun b => decide (b < if k.failed.isEmpty then 5 else 4))

/-- The flit must be sent again (R358 to R360): two beats lost, or one without parity; at a die boundary, a
CRC error. -/
def Link.mustRetry (k : Link) (l : Nat) (lost : List Nat) : Bool :=
  if l < 8 || !k.failed.isEmpty then !lost.isEmpty else decide (2 ≤ lost.length)

/-- Erased beats are noted by rail, for a millisecond. -/
def noteErased (clock : Nat) (rails : List Nat) (t : Tbl (List Nat)) : Tbl (List Nat) :=
  rails.foldl (fun t r => Tbl.upd [] t r (fun ts => clock :: ts.filter (fun x => decide (clock < x + msCycles)))) t

/-- FLIT_RECEIVE (R312, R358): the oldest flit of the slot's VD arrives, with beats erased, and what it carries goes on.
A retry that delivers a flit twice shows nothing else: the second has no effect (R361). -/
def execFlitReceive (l : Nat) (erased : List Nat) (s : State) : Host.Outcome State Fault Refusal :=
  .next (
    let k := s.link l
    if decide (linkCount ≤ l) || !k.up || decide (slotFlits l ≤ k.inSlot s.clock) || decide (16 < k.tries) then s
    else match s.flitVd l with
      | none => s
      | some (v, lent) =>
        let s := s.giveSlot l v lent
        let k := s.link l
        match k.flits.find? (fun f => f.vd == v) with
        | none => s
        | some f =>
          let lost := k.lostBeats erased
          let errs := if l < 8 then k.errs else noteErased s.clock (lost.map k.railOf) k.errs
          if k.mustRetry l lost then
            s.setLink l { k with errs := errs, tries := k.tries + 1, retry := k.retry + 1 }
          else
            let s := s.setLink l { k with
              errs := errs
              tries := 0
              flits := k.flits.erase f
              sent := (s.clock / 16, k.inSlot s.clock + 1) }
            let s := if l < 40 then s
              else s.modVD v (fun d => { d with usage := { d.usage with bytes := d.usage.bytes + 256 } })
            s.cross l f)

/-- RAIL_FAILURE (R359): a rail that erased more than 16 beats within a millisecond. -/
def execRailFailure (l rail : Nat) (s : State) : Host.Outcome State Fault Refusal :=
  .next (
    let k := s.link l
    let recent := (Tbl.get [] k.errs rail).filter (fun x => decide (s.clock < x + msCycles))
    if decide (linkCount ≤ l) || decide (l < 8) || decide (5 ≤ rail) || k.failed.contains rail || decide (recent.length ≤ 16) then s
    else (s.setLink l { k with failed := k.failed ++ [rail] }).logPkg (.rail l rail))

/-- LANE_CALIBRATION (R360): the spare lane is calibrated, and the assignment turns; a weak one stays spare,
and a second is logged. -/
def execLaneCalibration (grp : Nat) (weak : Bool) (s : State) : Host.Outcome State Fault Refusal :=
  .next (
    let g := Tbl.get (resetLanes grp) s.laneGrps grp
    let put (x : LaneGroup) : State := { s with laneGrps := Tbl.set s.laneGrps grp x }
    match g.weak, weak with
    | some _, true => s.logPkg (.weakLane grp)
    | some _, false => s
    | none, true => put { g with weak := some g.spare }
    | none, false => put { g with spare := (g.spare + 1) % 33 })

/-! ### A link goes down (R361) -/

/-- The link has failed: 16 retries of a flit, or a second rail. -/
def Link.broken (k : Link) : Bool := decide (16 < k.tries) || decide (2 ≤ k.failed.length)

/-- The instruction of a lost request stops its team (R361). -/
def State.linkStop (s : State) (ctx : Nat) (p : Packet → Bool) : State :=
  let stop (t : Team) : Team := { t with replay := t.replay.map (fun x =>
    if p x && !x.complete && x.stop.isNone then
      { x with stop := some (.linkdown (x.lanes.head?.elim 0 (fun y => y.addr.toNat))) } else x) }
  s.modTeam ctx stop

/-- Home accesses that are lost with a link. A write-back is not: no agent asks for it again, and it waits for the link
(log entry 80). -/
def State.lostTrips (s : State) (l : Nat) : List Trip := s.trips.filter (fun t => waitsOn l t.route && !t.wb)

/-- LINK_DOWN (R361): the requests, answers and home accesses that the link holds are lost, and stop the teams of whose
packets they are; others, as a clause fetch, are asked afresh. A link that is down loses what enters it. -/
def execLinkDown (l : Nat) (s : State) : Host.Outcome State Fault Refusal :=
  .next (
    let k := s.link l
    if decide (linkCount ≤ l) || (k.up && !k.broken) then s
    else
      let trips := s.lostTrips l
      let reqs := s.reqs.filter (fun r => waitsOn l r.route && !r.orphan)
      let answers := s.answers.filter (fun a => waitsOn l a.route)
      let hit := reqs.map (fun r => (r.ctx, r.seq)) ++ answers.map (fun a => (a.ctx, a.seq))
      let gone := trips.map (fun t => t.id)
      let kept := (s.trips.filter (fun t => t.wb)).map (fun t => t.id)
      let s := { s with
        reqs := s.reqs.filter (fun r => !waitsOn l r.route)
        answers := s.answers.filter (fun a => !waitsOn l a.route)
        trips := s.trips.filter (fun t => !gone.contains t.id) }
      let s := s.setLink l { k with up := false, flits := k.flits.filter (fun f => kept.contains f.id) }
      let s := hit.foldl (fun s x => s.linkStop x.1 (fun p => p.seq == x.2)) s
      trips.foldl (fun s t => s.linkStop t.ctx (fun p => p.pc.toNat == t.pc && p.word == t.word)) s)

/-- LINK_UP (R361): the firmware has brought the link back. A link that has lost two rails needs the
retraining of a warm reset (R359). -/
def execLinkUp (l : Nat) (s : State) : Host.Outcome State Fault Refusal :=
  .next (
    let k := s.link l
    if decide (linkCount ≤ l) || k.up || decide (2 ≤ k.failed.length) then s else s.setLink l { k with up := true, tries := 0 })

/-! ### The scrub (R355) -/

/-- SCRUB_SECTOR (R355): of a channel in no all-bank session. A corrected sector is rewritten; an uncorrectable one is
poisoned and reported to the package log, because no transaction owns it. -/
def execScrubSector (sector : Nat) (s : State) : Host.Outcome State Fault Refusal :=
  .next (
    let pa := 128 * sector
    if !s.isSound pa || decide (2 ^ 40 ≤ pa) || (s.chan (64 * (pa / 2 ^ 36) + bitsAt pa 30 6)).session.isSome then s
    else if s.isBroken pa then (s.poison pa).logPkg (.scrub sector)
    else s.mend pa)

/-! ### Repair bytes (R356) -/

/-- REPAIR_BYTE_WRITE (R356): while no group holds the quadrant. -/
def execRepairByteWrite (wr : Writer) (c q : Nat) (val : Byte) (s : State) : Host.Outcome State Fault Refusal :=
  .next (
    let held := s.groups.any (fun g => g.2.core == c && !g.2.ended && !s.isSaved g.1 && g.2.qmask.getLsbD q)
    if !isFw wr || held || decide (4 ≤ q) || decide (1024 ≤ c) then s
    else s.modCore c (fun k => { k with repair := Tbl.set k.repair q (val &&& 0x9F) }))

end Sys2Proof.Machine
end

