-- ==== Sys2Proof/Machine/Mapping.lean ====
section
/-! DEFINITION. Home-map commits, invalidations, frame releases, and the hot-page tracker (18 R327, R332,
R333, R338, R339). -/

namespace Sys2Proof.Machine

/-! ### Home maps (R326, R327) -/

/-- An entry of a range table as its 16 bytes give it: the range, and whether a reserved bit is set. -/
def rangeOf (e : Nat) : HomeRange × Bool :=
  ({ gran := bitsAt e 0 40, ngran := bitsAt e 64 24 + 1, stack := bitsAt e 88 4, firstch := bitsAt e 92 6
     log2ch := bitsAt e 98 3 },
   bitsAt e 40 24 != 0 || bitsAt e 101 27 != 0)

/-- An entry fails the check (R327); `floor` is the first granule past the entries before it. -/
def State.rangeBad (s : State) (k floor : Nat) (r : HomeRange) (reserved : Bool) : Bool :=
  reserved || decide (r.gran < floor) || decide (63 < r.firstch + 2 ^ r.log2ch - 1)
  || (s.slicesOf k (r.stack / 4)).isEmpty || r.chans.any (fun p => !s.mayUse k p)

/-- The `n` entries of a table from the `i`th on, or the index of the first that fails. -/
def State.checkRanges (s : State) (k : Nat) : Nat → Nat → Nat → List Byte → Except Nat (List HomeRange)
  | 0, _, _, _ => .ok []
  | n + 1, i, floor, bs =>
    let (r, reserved) := rangeOf (leNat (bs.take 16))
    if s.rangeBad k floor r reserved then .error i
    else (s.checkRanges k n (i + 1) (r.gran + r.ngran) (bs.drop 16)).map (fun l => r :: l)

/-- Home caches drop some of their entries of an address space. -/
def State.dropHomes (s : State) (asid : Nat) (p : HomeEnt → Bool) : State :=
  let drop (d : Die) : Die := { d with home := d.home.filter (fun e => !(e.asid == asid && p e)) }
  { s with dies := Tbl.mapVals (fun _ d => drop d) s.dies }

/-- HOME_MAP_COMMIT (R327): the table is checked and comes into force, or is refused. -/
def execHomeMapCommit (wr : Writer) (v : Nat) (s : State) : Host.Outcome State Fault Refusal :=
  .next (
    if !s.isManager wr v then s
    else
      let d := s.vd v
      let n := d.count.toNat
      let (bs, s) := s.rdBytes d.hmapBase.toNat (16 * n)
      match s.checkRanges d.domain.toNat n 0 0 bs with
      | .error i => s.modVD v (fun d => { d with refused := true, badidx := BitVec.ofNat 12 i, commit := false })
      | .ok m => (s.modVD v (fun d => { d with map := m, commit := false })).dropHomes (s.asid v) (fun _ => true))

/-! ### Invalidation (R333) -/

/-- Granules that a SIZE spans, as a power of two; the whole address space for 3. -/
def sizeLog : Nat → Nat
  | 0 => 0
  | 1 => 5
  | 2 => 14
  | _ => 40

/-- The address space of a TLB key, and the first granule of its page. -/
def tlbAsid (key : Nat) : Nat := key / 4 / 2 ^ 40
def tlbGran (key : Nat) : Nat := key / 4 % 2 ^ 40 * 2 ^ (leafLog (key % 4) - 16)

/-- An L1 sector knows no longer that its page may be written. -/
def Core.forgetWrite (c : Core) (p : Nat → Bool) : Core :=
  { c with l1 := c.l1.map (fun (e : Nat × Sector) => (e.1, if p e.1 then { e.2 with write := false } else e.2)) }

/-- Every Welt unit drops the TLB entries that meet a span of granules, every home cache its moved granules
there. Accesses translated through them have been performed: the home slices keep no sector of the span, what is on its
way is translated afresh, and no L1 uses what it knew of a page (log entry 22). -/
def State.invalidate (s : State) (asid gran size : Nat) : State :=
  let meets (lg g : Nat) : Bool := g / 2 ^ max lg (sizeLog size) == gran / 2 ^ max lg (sizeLog size)
  let inSpan (key : Nat) : Bool := key / 2 ^ 49 == asid && meets 0 (key % 2 ^ 49 / 512)
  let pas := s.l2.flatMap (fun e => e.2.flatMap (fun l =>
    (l.secs.filter (fun x => inSpan (8 * l.line + x.1))).map (fun x => x.2.pa / 128)))
  let s := s.lowerLines (fun _ pa => pas.contains (pa / 128))
  let s := s.resetTrips (fun t => s.asid t.vd == asid && meets 0 (t.va / 2 ^ 16))
  let s := { s with
    welts := Tbl.mapVals (fun _ (w : Welt) => { w with
      tlb := w.tlb.filter (fun e => !(tlbAsid e.1 == asid && meets (leafLog (e.1 % 4) - 16) (tlbGran e.1))) }) s.welts
    cores := Tbl.mapVals (fun _ (c : Core) => c.forgetWrite inSpan) s.cores }
  s.dropHomes asid (fun e => e.moved && meets 0 e.gran)

/-- TLB_INVALIDATE (R333): a manager invalidates in its own address spaces (R325). -/
def execTlbInvalidate (wr : Writer) (va : BitVec 40) (asid : BitVec 10) (size : BitVec 2) (s : State) :
    Host.Outcome State Fault Refusal :=
  .next (
    if !ofDomain wr (asid.toNat / 64) then s
    else
      let s := { s with pkg := { s.pkg with va := va, asid := asid, size := size, invGo := false } }
      s.invalidate asid.toNat va.toNat size.toNat)

/-! ### Frame release (R332, R392) -/

/-- The registry entry of a frame, whichever stack holds it. -/
def State.frameEnt (s : State) (f : Nat) : Option FrameEnt := s.welts.findSome? (fun w => Tbl.get? w.2.frames f)

/-- The frames that a FRAME names (R332): in the scratch of a manager's domain, of every domain for the firmware. -/
def scratchFrames (wr : Writer) (f : Nat) : List Nat :=
  match wr with
  | .dm k => [ownScratch k (f * 2 ^ 16) / 2 ^ 16]
  | .fw => (List.range 16).map (fun k => ownScratch k (f * 2 ^ 16) / 2 ^ 16)

/-- A manager may release the frame: one that its address spaces reached, or of its domain's scratch or channels. -/
def State.mayRelease (s : State) (wr : Writer) (f : Nat) : Bool :=
  match wr with
  | .fw => true
  | .dm k => s.inScratch k (ownScratch k (f * 2 ^ 16)) || (match s.frameEnt f with
    | some e => e.asid / 64 == k
    | none => decide (f < 2 ^ 24) && s.chanOwner (frameChan f) == some k)

/-- A TLB entry maps a frame: the page of its leaf holds it. -/
def tlbMaps (key : Nat) (l : Leaf) (f : Nat) : Bool :=
  let lo := ownScratch (tlbAsid key / 64) l.addr / 2 ^ 16
  decide (lo ≤ f) && decide (f < lo + 2 ^ (leafLog l.level - 16))

/-- A frame is released: its registry entry and the TLB entries that map it go; a CLEAR frame is scrubbed. -/
def State.releaseFrame (s : State) (f : Nat) : State :=
  let s := if (s.frameEnt f).elim false (fun e => e.clear) then s.zeroFrame f else s
  { s with welts := Tbl.mapVals (fun _ (w : Welt) => { w with
      frames := Tbl.del w.frames f
      tlb := w.tlb.filter (fun e => !tlbMaps e.1 e.2 f) }) s.welts }

/-- FRAME_RELEASE (R332, R392). -/
def execFrameRelease (wr : Writer) (frame : BitVec 32) (s : State) : Host.Outcome State Fault Refusal :=
  .next (
    let f := frame.toNat
    if !s.mayRelease wr f then s
    else
      let fs := (scratchFrames wr f).eraseDups
      let s := fs.foldl (fun s f => s.releaseFrame f) s
      { s with pkg := { s.pkg with frame := frame, frameGo := false } })

/-! ### The hot-page tracker (R338, R339) -/

/-- A page that a Welt unit has counted, with its accesses by die. -/
structure PageCount where
  gran : Nat
  dies : List Nat
deriving DecidableEq, Repr

/-- All accesses to a page. -/
def PageCount.total (p : PageCount) : Nat := p.dies.foldl (fun a n => a + n) 0

/-- The pages of a VD among those that a Welt unit keeps counts of: the 1,024 most often touched, whosever they are. -/
def State.pageCounts (s : State) (stack v : Nat) : List PageCount :=
  let counts := (s.welt stack).counts
  let all := ((counts.map (fun e => e.1 / 4)).eraseDups).map (fun page =>
    (page, ({ gran := page % 2 ^ 40, dies := (List.range 4).map (fun d => Tbl.get 0 counts (page * 4 + d)) } : PageCount)))
  let most := all.foldl (fun a p => max a p.2.total) 0
  (((sortBy (fun p => most - p.2.total) all).take 1024).filter (fun p => p.1 / 2 ^ 40 == v)).map (fun p => p.2)

/-- The die other than the home's that touches a page most, with its count. -/
def PageCount.user (p : PageCount) (home : Nat) : Nat × Nat :=
  ((List.range 4).filter (fun d => d != home)).foldl (fun a d =>
    if a.2 < p.dies.getD d 0 then (d, p.dies.getD d 0) else a) (if home = 0 then 1 else 0, 0)

/-- The candidates of a VD at a stack, in falling order of count: granule and using die. -/
def State.candidates' (s : State) (stack v : Nat) : List (Nat × Nat) :=
  let home := stack / 4
  let all := (s.pageCounts stack v).map (fun p => (p, p.user home))
  let hot := all.filter (fun x =>
    decide ((s.vd v).thresh.toNat ≤ x.2.2 / 16) && decide (x.1.dies.getD home 0 < x.2.2))
  let most := hot.foldl (fun a x => max a x.2.2) 0
  (sortBy (fun x => most - x.2.2) hot).map (fun x => (x.1.gran, x.2.1))

/-- The table entry of a page of 64 KiB, by physical address. -/
def State.leafAt (s : State) (v gran : Nat) : Option Nat × State :=
  let va := gran * 2 ^ 16
  let step (table level : Nat) (s : State) : Nat × State :=
    s.rdNum (table + 8 * bitsAt va (levelBits level).1 (levelBits level).2) 8
  let next_ (e : Nat) : Nat := bitsAt e 8 40 * 256
  let (e3, s) := step ((s.vd v).root.toNat * 2 ^ 16) 3 s
  let (e2, s) := step (next_ e3) 2 s
  let (e1, s) := step (next_ e2) 1 s
  (some (next_ e1 + 8 * bitsAt va 16 5), s)

/-- The lowest FREE entry of a die in a frame pool whose frame lies in a channel that the domain may use
there: its number and frame. -/
def State.poolFree (s : State) (v die : Nat) : List Nat → Option (Nat × Nat) × State
  | [] => (none, s)
  | i :: is =>
    let (e, s) := s.rdNum ((s.vd v).pool.toNat + 8 * i) 8
    let f := bitsAt e 16 32
    let ok := bitsAt e 63 1 == 1 && decide (f < 2 ^ 24) && frameChan f / 256 == die
      && s.mayUse (s.vd v).domain.toNat (frameChan f) && decide (f % 2 ^ 20 < 2 ^ 20 - 2 ^ 8)
    if ok then (some (i, f), s) else s.poolFree v die is

/-- The slot of the moved-granule table for a granule: its own, or a free one of its eight. -/
def State.movedFree (s : State) (base g : Nat) : List Nat → Option Nat → Option Nat × State
  | [], free => (free, s)
  | j :: js, free =>
    let slot := (g + j) % 4096
    let (e, s) := s.rdNum (base + 16 * slot) 8
    if bitsAt e 63 1 = 1 ∧ bitsAt e 0 40 = g then (some slot, s)
    else s.movedFree base g js (if free.isNone ∧ bitsAt e 63 1 = 0 then some slot else free)

/-- A page's cached copies are written back and dropped (R339); accesses on their way to it are held, and ask its new
home. -/
def State.dropPage (s : State) (v g old : Nat) : State :=
  let inPage (key : Nat) : Bool := key / 2 ^ 49 == s.asid v && keyVa key / 2 ^ 16 == g
  let held := s.cores.flatMap (fun c => (c.2.l1.filter (fun e => inPage e.1)).map (fun e => (c.1, e.1)))
  let s := held.foldl (fun s x => s.flushSector x.1 x.2) s
  let s := s.lowerLines (fun _ pa => pa / 2 ^ 16 == old)
  { s with
    trips := s.trips.filter (fun t => t.wb || !(s.asid t.vd == s.asid v && t.va / 2 ^ 16 == g))
    cores := Tbl.mapVals (fun _ (c : Core) => { c with
      const := c.const.filter (fun e => !inPage e.1), tile := c.tile.filter (fun e => !inPage e.1) }) s.cores
    dies := Tbl.mapVals (fun _ (d : Die) => { d with rdc := d.rdc.filter (fun e => !inPage e.1) }) s.dies }

/-- A frame is copied: bytes, poison, symbols in error and tags. -/
def State.copyFrame (s : State) (old new : Nat) : State :=
  let s := s.lowerLines (fun _ pa => pa / 2 ^ 16 == new)
  let inside (f a : Nat) : Bool := a / 2 ^ 16 == f
  let dest (a : Nat) : Nat := new * 2 ^ 16 + a % 2 ^ 16
  let mem := (s.mem.filter (fun e => inside old e.1)).foldl (fun m e => Mem.write m (dest e.1) e.2)
    (s.mem.filter (fun e => !inside new e.1))
  let sec (q : Nat) : Nat := new * 512 + q % 512
  let sound := (s.sound.filter (fun q => q / 512 == old)).foldl (fun l q => insertNat (sec q) l)
    (s.sound.filter (fun q => q / 512 != new))
  let tags := (s.tags.filter (fun e => e.1 / 512 == old)).foldl (fun t e => Tbl.set t (sec e.1) e.2)
    (s.tags.filter (fun e => e.1 / 512 != new))
  let errs := (s.errs.filter (fun e => e.1 / 512 == old)).foldl (fun t e => Tbl.set t (sec e.1) e.2)
    (s.errs.filter (fun e => e.1 / 512 != new))
  { s with mem := mem, sound := sound, tags := tags, errs := errs }

/-- A registry entry moves with its frame (R339). -/
def State.moveEnt (s : State) (old new : Nat) : State :=
  match s.frameEnt old with
  | none => s
  | some e =>
    let s := { s with welts := Tbl.mapVals (fun _ (w : Welt) => { w with frames := Tbl.del w.frames old }) s.welts }
    let t := frameChan new / 64
    s.setWelt t { s.welt t with frames := Tbl.set (s.welt t).frames new e }

/-- PAGE_MOVE (R339): pool entry `i` gives frame `new`, table slot `slot` takes the granule. -/
def State.movePage (s : State) (v g old i new slot : Nat) : State :=
  let d := s.vd v
  let s := (s.dropPage v g old).copyFrame old new |>.moveEnt old new
  let s := match s.leafAt v g with
    | (some a, s) =>
      let (e, s) := s.rdNum a 8
      s.wrBytes a (leBytes 8 (e % 2 ^ 8 + new * 2 ^ 16 + e / 2 ^ 48 * 2 ^ 48))
    | (none, s) => s
  let s := s.wrBytes (d.moved.toNat + 16 * slot) (leBytes 8 (2 ^ 63 + g))
  let s := s.wrBytes (d.moved.toNat + 16 * slot + 8) (leBytes 8 (frameChan new / 64 + frameChan new % 64 * 16))
  let s := s.invalidate (s.asid v) g 0
  s.wrBytes (d.pool.toNat + 8 * i) (leBytes 8 (2 ^ 62 + old * 2 ^ 16))

/-- What a candidate comes to. -/
inductive Tracked where
  | pin | skip | noframe | move (old i new slot : Nat)
deriving DecidableEq, Repr

/-- A candidate is judged (R338, R339). -/
def State.judge (s : State) (stack v g die : Nat) : Tracked × State :=
  match s.walkVd v (g * 2 ^ 16) with
  | (.error _, s) => (.skip, s)
  | (.ok l, s) =>
    let ch := frameChan (l.addr / 2 ^ 16)
    let lace := s.laceRegs.any (fun r => decide (r.place = .dir) && r.gran / 2 ^ 12 == s.asid v * 2 ^ 40 + g)
    if l.pin then (.pin, s)
    else if l.shared || l.level != 0 || decide (2 ^ 40 ≤ l.addr) || (s.chan ch).session.isSome || lace
        || ch / 64 != stack then (.skip, s)
    else match s.poolFree v die ((List.range 256).map (fun i => 256 * die + i)) with
      | (none, s) => (.noframe, s)
      | (some (i, f), s) =>
        match s.movedFree (s.vd v).moved.toNat g (List.range 8) none with
        | (none, s) => (.skip, s)
        | (some slot, s) => (.move (l.addr / 2 ^ 16) i f slot, s)

/-- The frame of a VD's period that ends now. -/
def State.frameNow (s : State) : Nat := s.clock / 1024

/-- The candidates are handled in order; one page of a VD moves at most, whichever unit counted it (R338). -/
def State.track (s : State) (stack v : Nat) : List (Nat × Nat) → State
  | [] => s
  | (g, die) :: rest =>
    let count (f : Welt → Welt) (s : State) : State := s.setWelt stack (f (s.welt stack))
    match s.judge stack v g die with
    | (.pin, s) => (count (fun w => { w with pinskip := w.pinskip + 1 }) s).track stack v rest
    | (.skip, s) => (count (fun w => { w with skip := w.skip + 1 }) s).track stack v rest
    | (.noframe, s) => (count (fun w => { w with noframe := w.noframe + 1 }) s).track stack v rest
    | (.move old i f slot, s) =>
      if (s.vd v).movedAt = some s.frameNow then s
      else
        let s := count (fun w => { w with moved := w.moved + 1 }) (s.movePage v g old i f slot)
        s.setVD v { s.vd v with movedAt := some s.frameNow }

/-- TRACKER_PERIOD_END (R338): of a VD at a stack, in the frame that ends a period; the counts restart. -/
def execTrackerPeriodEnd (stack v : Nat) (s : State) : Host.Outcome State Fault Refusal :=
  .next (
    let d := s.vd v
    if !d.migr || d.moved == 0 || decide (s.frameNow % max d.period.toNat 1 ≠ 0) then s
    else
      let cs := s.candidates' stack v
      let s := s.track stack v cs
      s.setWelt stack { s.welt stack with
        counts := (s.welt stack).counts.filter (fun e => e.1 / 4 / 2 ^ 40 != v) })

end Sys2Proof.Machine
end

