-- ==== Sys2Proof/Machine/Memory.lean ====
section
/-! DEFINITION. Loads, stores and atomics (07 R173 to R183): the meaning of each instruction is the
issue of its access by the agent whose turn it is. -/

namespace Sys2Proof.Machine

/-- LD (R173). -/
def execLd (w : Width) (o : FMem) (s : State) : Host.Outcome State Fault Refusal :=
  .next (s.issueMem (.ld w o) (loadDesc w o .gen .lane))

/-- ST (R173). -/
def execSt (w : Width) (o : FMem) (s : State) : Host.Outcome State Fault Refusal :=
  .next (s.issueMem (.st w o) (storeDesc w o .gen .lane))

/-- LDU (R174). -/
def execLdu (w : Width) (o : FMem) (s : State) : Host.Outcome State Fault Refusal :=
  .next (s.issueMem (.ldu w o) (loadDesc w o .gen .uniform))

/-- STU (R174). -/
def execStu (w : Width) (o : FMem) (s : State) : Host.Outcome State Fault Refusal :=
  .next (s.issueMem (.stu w o) (storeDesc w o .gen .uniform))

/-- LDS (R177). -/
def execLds (w : Width) (o : FMem) (s : State) : Host.Outcome State Fault Refusal :=
  .next (s.issueMem (.lds w o) (loadDesc w o .own .core))

/-- STS (R177). -/
def execSts (w : Width) (o : FMem) (s : State) : Host.Outcome State Fault Refusal :=
  .next (s.issueMem (.sts w o) (storeDesc w o .own .core))

/-- LDC (R175). -/
def execLdc (w : Width) (o : FMem) (s : State) : Host.Outcome State Fault Refusal :=
  .next (s.issueMem (.ldc w o) (loadDesc w o .member .core))

/-- STC (R175). -/
def execStc (w : Width) (o : FMem) (s : State) : Host.Outcome State Fault Refusal :=
  .next (s.issueMem (.stc w o) (storeDesc w o .member .core))

/-- LDK (R176). -/
def execLdk (w : Width) (o : FMem) (s : State) : Host.Outcome State Fault Refusal :=
  .next (s.issueMem (.ldk w o) (loadDesc w o .const .core))

/-- SETFE (R178). -/
def execSetfe (o : FMem) (s : State) : Host.Outcome State Fault Refusal :=
  .next (s.issueMem (.setfe o) { o := o, size := 1, regs := 0, kind := .fe true, form := .own, rule := .none })

/-- CLRFE (R178). -/
def execClrfe (o : FMem) (s : State) : Host.Outcome State Fault Refusal :=
  .next (s.issueMem (.clrfe o) { o := o, size := 1, regs := 0, kind := .fe false, form := .own, rule := .none })

/-- ATOM (R181). -/
def execAtom (op : AOp) (o : FMem) (s : State) : Host.Outcome State Fault Refusal :=
  .next (s.issueMem (.atom op o) (atomDesc op true o))

/-- ATOMCAS (R182). -/
def execAtomcas (w : Bool) (o : FMem) (s : State) : Host.Outcome State Fault Refusal :=
  .next (s.issueMem (.atomcas w o) { o := o, size := if w then 8 else 4, regs := if w then 4 else 2, kind := .cas w, form := .gen, rule := .any })

/-- RED (R181). -/
def execRed (op : AOp) (o : FMem) (s : State) : Host.Outcome State Fault Refusal :=
  .next (s.issueMem (.red op o) (atomDesc op false o))

/-- ATOMF (R183). -/
def execAtomf (bf : Bool) (o : FMem) (s : State) : Host.Outcome State Fault Refusal :=
  .next (s.issueMem (.atomf bf o) { o := o, size := 4, regs := 1, kind := .addf bf true, form := .gen, rule := .any })

/-- REDF (R183). -/
def execRedf (bf : Bool) (o : FMem) (s : State) : Host.Outcome State Fault Refusal :=
  .next (s.issueMem (.redf bf o) { o := o, size := 4, regs := 1, kind := .addf bf false, form := .gen, rule := .any })

end Sys2Proof.Machine
end

