-- ==== Sys2Proof/Machine/Predicates.lean ====
section
/-! DEFINITION. Compares and predicate logic (05 R131 to R134): the meaning of each
instruction is its description, issued by the agent whose turn it is. -/

namespace Sys2Proof.Machine

/-- ICMP (R131). -/
def execIcmp (c : ICond) (o : F3) (s : State) : Host.Outcome State Fault Refusal :=
  .next (s.issueDesc (.icmp c o) (descIcmp c o))

/-- FCMP (R132). -/
def execFcmp (c : FCond) (o : F3) (s : State) : Host.Outcome State Fault Refusal :=
  .next (s.issueDesc (.fcmp c o) (descFcmp c o))

/-- PAND (R133). -/
def execPand (o : F3) (s : State) : Host.Outcome State Fault Refusal :=
  .next (s.issueDesc (.pand o) (descPand o))

/-- POR (R133). -/
def execPor (o : F3) (s : State) : Host.Outcome State Fault Refusal :=
  .next (s.issueDesc (.por o) (descPor o))

/-- PXOR (R133). -/
def execPxor (o : F3) (s : State) : Host.Outcome State Fault Refusal :=
  .next (s.issueDesc (.pxor o) (descPxor o))

/-- PNOT (R133). -/
def execPnot (o : F3) (s : State) : Host.Outcome State Fault Refusal :=
  .next (s.issueDesc (.pnot o) (descPnot o))

/-- PSET (R134). -/
def execPset (bit : Bool) (o : F3) (s : State) : Host.Outcome State Fault Refusal :=
  .next (s.issueDesc (.pset bit o) (descPset bit o))

end Sys2Proof.Machine
end

