-- ==== Sys2Proof/Machine/Secure.lean ====
section
/-! DEFINITION. Attestation, wrapped keys, journal periods and checkpoints, resets (22 R389 to R399). -/

namespace Sys2Proof.Machine

/-- A structure can be written at a physical address. -/
def canWrite (pa : Nat) : Bool := outside pa || decide (pa < 2 ^ 40)

/-- KERR is set (R393). -/
def State.setKerr (s : State) (k code : Nat) : State := s.modDomain k (fun d => { d with kerr := BitVec.ofNat 4 code })

/-! ### Attestation (R390) -/

/-- The ownership registers of a domain, as bytes. -/
def Domain.ownership (d : Domain) : List Byte :=
  leBytes 32 d.slices.toNat ++ leBytes 64 d.mscb.toNat ++ leBytes 128 d.chan.toNat

/-- What a report holds before its signature: 140 bytes. -/
def Domain.report (d : Domain) (k : Nat) (nonce : List Byte) : List Byte :=
  nonce ++ leBytes 32 Config.measurement.toNat ++ leBytes 4 (Config.domainField k d.sealed).toNat
    ++ leBytes 32 (Config.sha3 d.ownership).toNat ++ leBytes 8 d.nvcount.toNat ++ leBytes 32 d.head.toNat

/-- The signature of a message, 2,420 bytes. -/
def signature (msg : List Byte) : List Byte := (List.range 2420).map (fun i => Config.sign msg i)

/-- ATTESTATION (R390): the nonce at ATTOUT becomes the report. -/
def execAttestation (wr : Writer) (k : Nat) (s : State) : Host.Outcome State Fault Refusal :=
  .next (
    if !ofDomain wr k then s
    else
      let d := s.domain k
      let at_ := d.attout.toNat
      if !canWrite at_ || !s.readable at_ 32 then (s.setKerr k 2).modDomain k (fun d => { d with attgo := false })
      else
        let (nonce, s) := s.rdBytes at_ 32
        let body := d.report k nonce
        (s.wrBytes at_ (body ++ signature body)).modDomain k (fun d => { d with attgo := false }))

/-! ### Wrapped keys (R391) -/

/-- KEY_WRAP (R391): the blob of 1,160 bytes, with a KEY record. -/
def execKeyWrap (wr : Writer) (k : Nat) (s : State) : Host.Outcome State Fault Refusal :=
  .next (
    if !ofDomain wr k then s
    else
      let d := s.domain k
      let s := s.modDomain k (fun d => { d with wrapgo := false })
      if !d.keylive then s
      else if !s.readable d.ownerek.toNat 1184 then s.setKerr k 1
      else if !canWrite d.wrapout.toNat then s.setKerr k 2
      else
        let (ek, s) := s.rdBytes d.ownerek.toNat 1184
        let s := s.wrBytes d.wrapout.toNat ((List.range 1160).map (fun i => Config.wrap d.key ek i))
        s.journal k 6 0 0 [4] [])

/-! ### Journal periods (R367, R394 to R396) -/

/-- A journal period, in cycles: 10 seconds. -/
def periodCycles : Nat := 22500000000

/-- The sum of two counts. -/
def Usage.plus (a b : Usage) : Usage :=
  { windows := a.windows + b.windows, bytes := a.bytes + b.bytes, leave := a.leave + b.leave
    energy := a.energy + b.energy, posted := a.posted + b.posted, lost := a.lost + b.lost
    dropped := a.dropped + b.dropped }

/-- The ring of a domain has no room for a record, or records wait for it. -/
def Domain.ringFull (d : Domain) : Bool := d.jnlBase != 0 && (!d.held.isEmpty || decide (d.freeSlots < 1))

/-- Grants in force are charged to date (R367). -/
def State.chargeToDate (s : State) : State :=
  let all := s.zones.flatMap (fun e => e.2.grants)
  let zones : Tbl Zone := Tbl.mapVals (fun _ (z : Zone) => { z with
    charges := z.grants.foldl (fun t g => Tbl.upd 0 t g.vd (fun n => n + g.charge s.clock)) z.charges
    grants := z.grants.map (fun g => { g with time := g.time + (s.clock - g.time) / 2250 * 2250 }) }) s.zones
  { s with zones := zones }.chargeLeave all

/-- The heat that a zone has removed in the period is shared out in proportion to its charges (R367). -/
def State.shareEnergy (s : State) : State :=
  s.zones.foldl (fun s e =>
    let z := e.2
    let heat := (z.energy - z.shared).toNat
    let total := z.charges.foldl (fun a c => a + c.2) 0
    let s := z.charges.foldl (fun s c =>
      s.modVD c.1 (fun d => { d with usage := { d.usage with
        energy := d.usage.energy + BitVec.ofNat 64 (heat * c.2 / max total 1) } })) s
    s.setZone e.1 { z with charges := [], shared := z.energy }) s

/-- The USAGE and ERRORS records of a VD; while the ring is full its counts are folded into a summary. -/
def State.vdRecords (s : State) (k v : Nat) : State :=
  let d := s.vd v
  let u := d.usage
  if u = resetUsage then s
  else
    let errs (s : State) : State :=
      s.journal k 2 v d.incarn [u.posted.toNat, u.lost.toNat, u.dropped.toNat] []
    let s := s.modVD v (fun d => { d with usage := resetUsage })
    if (s.domain k).ringFull then
      errs (s.modVD v (fun d => { d with summary := some ((d.summary.getD resetUsage).plus u) }))
    else
      errs (s.journal k 1 v d.incarn [u.windows.toNat, u.bytes.toNat, u.leave.toNat, u.energy.toNat] [])

/-- Summaries are appended once there is room (R396). -/
def State.summaries (s : State) (k : Nat) : State :=
  (s.vdsOf k).foldl (fun s v =>
    match (s.vd v).summary with
    | none => s
    | some u =>
      if (s.domain k).ringFull then s
      else (s.modVD v (fun d => { d with summary := none })).journal k 7 v (s.vd v).incarn
        [u.windows.toNat, u.bytes.toNat, u.leave.toNat, u.energy.toNat] []) s

/-- The signature slots of a checkpoint: 38 slots of 64 bytes. -/
def ckptSlots (k : Nat) (nv seq : DWord) (head : BitVec 256) (clock : Nat) : List Byte :=
  let msg := leBytes 8 k ++ leBytes 8 nv.toNat ++ leBytes 8 seq.toNat ++ leBytes 32 head.toNat ++ leBytes 8 clock
  signature (leBytes 32 (Config.sha3 msg).toNat) ++ List.replicate 12 0

/-- A checkpoint (R395, R398): NVCOUNT rises, the CKPT record is chained, SEQ and HEAD are stored; a retained
key that has not been claimed by its second checkpoint is destroyed. -/
def State.checkpoint (s : State) (k : Nat) : State :=
  let nv := (s.domain k).nvcount + 1
  let old := (s.domain k).kept
  let kept := old.bind (fun x => if 1 ≤ x.2.2 then none else some (x.1, x.2.1, x.2.2 + 1))
  let s := if old.isSome && kept.isNone then s.journal k 6 0 0 [3] [] else s
  let s := s.modDomain k (fun d => { d with nvcount := nv, kept := kept })
  let ahead := (s.journal k 8 0 0 [nv.toNat, 38] []).domain k
  let s := s.journal k 8 0 0 [nv.toNat, 38] (ckptSlots k nv ahead.seq ahead.head s.clock)
  s.modDomain k (fun d => { d with ckSeq := ahead.seq, ckHead := ahead.head })

/-- What a period appends, for every domain slot. -/
def State.appendPeriod (s : State) : State :=
  let s := s.chargeToDate.shareEnergy
  (List.range 16).foldl (fun s k =>
    (((s.vdsOf k).foldl (fun s v => s.vdRecords k v) (s.summaries k))).checkpoint k) s

/-- JOURNAL_PERIOD (R395): every 10 seconds of sr.clock, at a frame boundary. -/
def execJournalPeriod (s : State) : Host.Outcome State Fault Refusal :=
  .next (
    if s.clock % 1024 = 0 ∧ s.periodAt < s.clock / periodCycles then
      { s.appendPeriod with periodAt := s.clock / periodCycles }
    else s)

/-- JOURNAL_RD_WRITE (R396): records held for want of room are written. -/
def execJournalRdWrite (wr : Writer) (k : Nat) (rd : BitVec 16) (s : State) : Host.Outcome State Fault Refusal :=
  .next (
    if !ofDomain wr k then s
    else
      let s := s.modDomain k (fun d => { d with jnlRd := rd })
      (s.drainJournal k ((s.domain k).held.length)).summaries k)

/-! ### Resets (R389, R397 to R399) -/

/-- The first record of each domain slot after a reset, with the records lost (R397). -/
def State.resetRecords (s : State) (warm : Bool) (lost : Nat → Nat) : State :=
  (List.range 16).foldl (fun s k => s.journal k 5 0 0 [(Config.resetCode warm).toNat, lost k] []) s

/-- What every reset leaves (R389, R397, R399): reset values, what the model keeps of its own, and what the
package has sent out. -/
def State.resetCommon (s : State) : State :=
  { State.reset with
    inputs := s.inputs, free := s.free, stamp := s.stamp, resets := s.resets + 1
    inReset := !Config.firmwareOk (s.resets + 1), msix := s.msix, log := s.log }

/-- COLD_RESET (R397): SEQ, HEAD and NVCOUNT come from the last checkpoint; every key and all memory of the
package are gone. -/
def execColdReset (s : State) : Host.Outcome State Fault Refusal :=
  .next (
    let kept (d : Domain) : Domain := { resetDomain with
      seq := d.ckSeq, head := d.ckHead, nvcount := d.nvcount, ckSeq := d.ckSeq, ckHead := d.ckHead }
    let doms := Tbl.mapVals (fun _ d => kept d) s.domains
    { s.resetCommon with domains := doms, mem := s.mem.filter (fun e => outside e.1) }.resetRecords false
      (fun k => ((s.domain k).seq - (s.domain k).ckSeq).toNat))

/-- Before a warm reset a key with RETAIN is wrapped with the digest of its OWNEREK contents (R398). -/
def State.retainKey (s : State) (k : Nat) : State :=
  let d := s.domain k
  if d.keylive && d.retain then
    let (ek, s) := s.rdBytes d.ownerek.toNat 1184
    s.modDomain k (fun d => { d with kept := some (d.key, Config.sha3 ek, 0) })
  else s

/-- The data keys that a warm reset destroys, with their KEY records (R394, R397). -/
def State.endKeys (s : State) : State :=
  (List.range 16).foldl (fun s k =>
    let d := s.domain k
    if d.keylive && !d.retain then s.journal k 6 0 0 [3] [] else s) s

/-- WARM_RESET (R397, R398): pending records are completed and checkpointed first; memory is kept under
retention, as its memory side holds it, since the memory-side caches are written back first; what stands dirty in other
caches is lost, and so is MSC scratch. -/
def execWarmReset (retention : Bool) (s : State) : Host.Outcome State Fault Refusal :=
  .next (
    let s := (List.range 16).foldl (fun s k => s.retainKey k) s.endKeys.appendPeriod
    let s := s.under.foldl (fun s e => s.putImage e.1 e.2) s
    let kept (d : Domain) : Domain := { resetDomain with
      seq := d.seq, head := d.head, nvcount := d.nvcount, ckSeq := d.ckSeq, ckHead := d.ckHead, kept := d.kept }
    let t := s.resetCommon
    let cores : Tbl Core := Tbl.mapVals (fun _ (c : Core) => { resetCore with repair := c.repair }) s.cores
    let zones : Tbl Zone := s.zones.map (fun (e : Nat × Zone) =>
      (e.1, { resetZone e.1 with energy := e.2.energy, shared := e.2.shared }))
    let t := { t with
      clock := s.clock, periodAt := s.periodAt, domains := Tbl.mapVals (fun _ d => kept d) s.domains
      cores := cores, zones := zones, laneGrps := s.laneGrps }
    let t := if retention then { t with
        mem := s.mem.filter (fun e => decide (e.1 < 2 ^ 40) || outside e.1)
        sound := s.sound.filter (fun q => decide (q < 2 ^ 33))
        errs := s.errs.filter (fun e => decide (e.1 < 2 ^ 33))
        tags := s.tags.filter (fun e => decide (e.1 < 2 ^ 33)) } else { t with
        mem := s.mem.filter (fun e => outside e.1) }
    t.resetRecords true (fun _ => 0))

end Sys2Proof.Machine
end

