-- ==== Sys2Proof/Machine/Regs.lean ====
section
/-! DEFINITION. Writes to registers without behaviour of their own (17 R301 to R320; 18 R325; 19 R349; 20
R363; 21 R374 to R388; 22 R393). A bit whose setting is a step of its own is not written here. -/

namespace Sys2Proof.Machine

/-- An entry of a block and the offset in it. -/
def entryAt (base stride off : Nat) : Nat × Nat := ((off - base) / stride, (off - base) % stride)

/-- A field of a register. -/
def fld {w : Nat} (n lo : Nat) (v : BitVec w) : BitVec n := v.extractLsb' lo n

/-- RD and LOG2SZ of a ring are written. -/
def Ring.config (r : Ring) (val : DWord) : Ring := { r with log2 := fld 5 0 val, rd := fld 16 16 val }

/-- Domain registers (R304, R393). -/
def State.writeDomainReg (s : State) (wr : Writer) (k o : Nat) (val : DWord) : State :=
  if !ofDomain wr k then s
  else match o with
    | 0x008 => s.modDomain k (fun d => { d with
        conflict := d.conflict && !val.getLsbD 0, busy := d.busy && !val.getLsbD 1
        contract := d.contract && !val.getLsbD 2 })
    | 0x100 => s.modDomain k (fun d => { d with jnlBase := val })
    | 0x108 => s.modDomain k (fun d => { d with jnlLog := fld 5 0 val })
    | 0x140 => s.modDomain k (fun d => { d with retain := val.getLsbD 0, kerr := d.kerr &&& ~~~(fld 4 4 val) })
    | 0x148 => s.modDomain k (fun d => { d with ownerek := val })
    | 0x150 => s.modDomain k (fun d => { d with wrapout := val })
    | 0x158 => s.modDomain k (fun d => { d with attout := val })
    | _ => s

/-- VD registers of the tenancy block (R310); masks take effect at the next frame boundary (R319). -/
def State.writeVdReg (s : State) (wr : Writer) (v o : Nat) (val : BitVec 1024) : State :=
  if !s.reaches wr v then s
  else match o with
    | 0x08 => s.modVD v (fun d => { d with waysNext := fld 48 0 val })
    | 0x80 => s.modVD v (fun d => { d with cores := val })
    | _ => s

/-- The tenancy block (R301): age caps are the firmware's (R320). -/
def State.writeTenancy (s : State) (wr : Writer) (off : Nat) (val : BitVec 1024) : State :=
  if off < 0x4000 then
    let (k, o) := entryAt 0 0x400 off
    s.writeDomainReg wr k o (val.setWidth 64)
  else if 0x10000 ≤ off ∧ off < 0x14000 then
    let (v, o) := entryAt 0x10000 0x100 off
    s.writeVdReg wr v o val
  else if 0x500000 ≤ off ∧ off < 0x600000 then
    let (p, o) := entryAt 0x500000 0x400 off
    let val : DWord := val.setWidth 64
    if isFw wr && o == 0x200 then
      s.setChan p { s.chan p with capA := fld 12 0 val, capB := fld 12 12 val, capC := fld 12 24 val }
    else s
  else s

/-- VD entries of the context block (R325). -/
def VD.writeCtx (d : VD) (o : Nat) (val : DWord) : VD :=
  match o with
  | 0x00 => { d with hmapBase := val }
  | 0x08 => { d with count := fld 12 0 val, refused := d.refused && !val.getLsbD 17 }
  | 0x10 => { d with moved := val }
  | 0x18 => { d with root := fld 32 16 val }
  | 0x20 => { d with fq := { d.fq with base := val } }
  | 0x28 => { d with fq := { d.fq with log2 := fld 5 0 val }, stale := d.stale && !val.getLsbD 49 }
  | 0x38 => { d with ctxBase := val }
  | 0x40 => { d with log2str := fld 5 0 val, drainb := fld 16 16 val }
  | 0x48 => { d with pool := val }
  | 0x50 => { d with migr := val.getLsbD 0, thresh := fld 8 8 val, period := fld 16 16 val }
  | _ => d

/-- The writer may write the switch registers for two VDs (R325). -/
def State.maySwitch (s : State) (wr : Writer) (a b : Nat) : Bool :=
  match wr with
  | .fw => true
  | .dm k => s.domOf a == k && s.domOf b == k

/-- The context block (R325). -/
def State.writeContext (s : State) (wr : Writer) (off : Nat) (val : DWord) : State :=
  if off < 0x4000 then
    let (v, o) := entryAt 0 0x100 off
    if s.isManager wr v then s.modVD v (fun d => d.writeCtx o val) else s
  else match off with
    | 0xA000 =>
      if s.sw.go || !s.maySwitch wr (fld 6 0 val).toNat (fld 6 6 val).toNat then s
      else { s with sw := { s.sw with outvd := fld 6 0 val, invd := fld 6 6 val, dies := fld 4 12 val } }
    | 0xA008 =>
      if s.sw.go || !s.maySwitch wr s.sw.outvd.toNat s.sw.invd.toNat then s
      else { s with sw := { s.sw with dl1 := fld 16 0 val, dl2 := fld 16 16 val } }
    | 0xC000 => if ofDomain wr (s.pkg.asid.toNat / 64) then { s with pkg := { s.pkg with va := fld 40 16 val } } else s
    | 0xC008 =>
      if ofDomain wr ((fld 10 0 val).toNat / 64) then
        { s with pkg := { s.pkg with asid := fld 10 0 val, size := fld 2 12 val } }
      else s
    | 0xC010 =>
      if s.mayRelease wr (fld 32 16 val).toNat then { s with pkg := { s.pkg with frame := fld 32 16 val } } else s
    | _ => s

/-- The reliability block (R349): error queues, by their manager. -/
def State.writeReliability (s : State) (wr : Writer) (off : Nat) (val : DWord) : State :=
  let (v, o) := entryAt 0 0x40 off
  if decide (0x1000 ≤ off) || !s.isManager wr v then s
  else match o with
    | 0x00 => s.modVD v (fun d => { d with eq := { d.eq with base := val } })
    | 0x08 => s.modVD v (fun d => { d with eq := d.eq.config val })
    | _ => s

/-- The package registers of the coolant block (R363), by the firmware. -/
def State.writeCoolant (s : State) (wr : Writer) (off : Nat) (val : DWord) : State :=
  if !isFw wr then s
  else if 0xA02 ≤ off ∧ off ≤ 0xA1E ∧ off % 2 = 0 then
    { s with coolant := { s.coolant with clspwr := Tbl.set s.coolant.clspwr ((off - 0xA00) / 2) (fld 16 0 val) } }
  else if off = 0xA40 then { s with coolant := { s.coolant with pkglim := fld 16 0 val, retry := fld 4 32 val } }
  else s

/-- A queue descriptor (R376): QBASE, LOG2SZ and VD only while ENABLE is 0. -/
def State.writeQueueReg (s : State) (wr : Writer) (q o : Nat) (val : DWord) : State :=
  let x := s.queue q
  let mine := s.reaches wr x.vd.toNat
  match o with
  | 0x00 => if mine && !x.enable then s.setQueue q { x with base := val } else s
  | 0x08 =>
    let vd : BitVec 6 := fld 6 8 val
    let prio : BitVec 3 := fld 3 16 val
    if x.enable then (if mine then s.setQueue q { x with prio := prio, enable := val.getLsbD 24 } else s)
    else if s.reaches wr vd.toNat then
      s.setQueue q { x with log2 := fld 5 0 val, vd := vd, prio := prio, enable := val.getLsbD 24 }
    else s
  | 0x18 => if mine then s.setQueue q { x with qerr := x.qerr &&& ~~~(fld 8 0 val) } else s
  | _ => s

/-- Event registers (R385, R387): clearing PAUSE sends one message where events wait. -/
def State.writeEventReg (s : State) (wr : Writer) (v o : Nat) (val : DWord) : State :=
  let d := s.vd v
  let mine := s.reaches wr v
  match o with
  | 0x00 => if mine then s.setVD v { d with evq := { d.evq with base := val } } else s
  | 0x08 => if mine then s.setVD v { d with evq := d.evq.config val } else s
  | 0x18 =>
    let s := if isFw wr then s.modVD v (fun d => { d with homedie := fld 2 0 val }) else s
    if !mine then s
    else
      let s := s.modVD v (fun d => { d with pause := val.getLsbD 8 })
      if d.pause && !val.getLsbD 8 && d.evq.wr != d.evq.rd then s.sendMsix v else s
  | _ => s

/-- The queue block (R376, R385). -/
def State.writeQueueBlk (s : State) (wr : Writer) (off : Nat) (val : DWord) : State :=
  if off < 0x20000 then
    let (q, o) := entryAt 0 0x20 off
    s.writeQueueReg wr q o val
  else if off < 0x21000 then
    let (v, o) := entryAt 0x20000 0x40 off
    s.writeEventReg wr v o val
  else s

/-- The peer block (R388): routes, by the firmware. -/
def State.writePeer (s : State) (wr : Writer) (off : Nat) (val : DWord) : State :=
  let r : Route := { pkg := fld 12 0 val, links := fld 12 12 val, domain := fld 4 24 val, valid := val.getLsbD 63 }
  if isFw wr && decide (off < 0x200) && off % 8 == 0 then { s with routes := Tbl.set s.routes (off / 8) r } else s

/-- REGISTER_WRITE (R301, R374): a register is written at its own width, of which `val` holds that many low bits. -/
def execRegisterWrite (wr : Writer) (blk : Blk) (off : Nat) (val : BitVec 1024) (s : State) :
    Host.Outcome State Fault Refusal :=
  let v : DWord := val.setWidth 64
  .next (match blk with
    | .tenancy => s.writeTenancy wr off val
    | .context => s.writeContext wr off v
    | .reliability => s.writeReliability wr off v
    | .coolant => s.writeCoolant wr off v
    | .queue => s.writeQueueBlk wr off v
    | .peer => s.writePeer wr off v)

end Sys2Proof.Machine
end

