-- ==== Sys2Proof/Machine/Dispatch.lean ====
section
/-! DEFINITION. The meaning of every instruction and of every step of the package. -/

namespace Sys2Proof.Machine
open Sys2Proof

def exec (i : Instr) (s : State) : Host.Outcome State Fault Refusal :=
  match i with
  | .add o => Sys2Proof.Machine.execAdd o s
  | .sub o => Sys2Proof.Machine.execSub o s
  | .mul o => Sys2Proof.Machine.execMul o s
  | .mulh o => Sys2Proof.Machine.execMulh o s
  | .mad wide o => Sys2Proof.Machine.execMad wide o s
  | .div o => Sys2Proof.Machine.execDiv o s
  | .rem o => Sys2Proof.Machine.execRem o s
  | .min o => Sys2Proof.Machine.execMin o s
  | .max o => Sys2Proof.Machine.execMax o s
  | .add64 x32 o => Sys2Proof.Machine.execAdd64 x32 o s
  | .sub64 x32 o => Sys2Proof.Machine.execSub64 x32 o s
  | .mul64 wide o => Sys2Proof.Machine.execMul64 wide o s
  | .lea o => Sys2Proof.Machine.execLea o s
  | .dp4 su o => Sys2Proof.Machine.execDp4 su o s
  | .li o => Sys2Proof.Machine.execLi o s
  | .liSx o => Sys2Proof.Machine.execLiSx o s
  | .liZx o => Sys2Proof.Machine.execLiZx o s
  | .and o => Sys2Proof.Machine.execAnd o s
  | .or o => Sys2Proof.Machine.execOr o s
  | .xor o => Sys2Proof.Machine.execXor o s
  | .andn o => Sys2Proof.Machine.execAndn o s
  | .shl clamp o => Sys2Proof.Machine.execShl clamp o s
  | .shr clamp o => Sys2Proof.Machine.execShr clamp o s
  | .sar clamp o => Sys2Proof.Machine.execSar clamp o s
  | .rot o => Sys2Proof.Machine.execRot o s
  | .popc o => Sys2Proof.Machine.execPopc o s
  | .clz o => Sys2Proof.Machine.execClz o s
  | .ffs o => Sys2Proof.Machine.execFfs o s
  | .brev o => Sys2Proof.Machine.execBrev o s
  | .bfe o => Sys2Proof.Machine.execBfe o s
  | .bfi o => Sys2Proof.Machine.execBfi o s
  | .clmul o => Sys2Proof.Machine.execClmul o s
  | .sel o => Sys2Proof.Machine.execSel o s
  | .icmp c o => Sys2Proof.Machine.execIcmp c o s
  | .fcmp c o => Sys2Proof.Machine.execFcmp c o s
  | .pand o => Sys2Proof.Machine.execPand o s
  | .por o => Sys2Proof.Machine.execPor o s
  | .pxor o => Sys2Proof.Machine.execPxor o s
  | .pnot o => Sys2Proof.Machine.execPnot o s
  | .pset bit o => Sys2Proof.Machine.execPset bit o s
  | .br o => Sys2Proof.Machine.execBr o s
  | .brdiv o => Sys2Proof.Machine.execBrdiv o s
  | .join o => Sys2Proof.Machine.execJoin o s
  | .call o => Sys2Proof.Machine.execCall o s
  | .ret o => Sys2Proof.Machine.execRet o s
  | .exit o => Sys2Proof.Machine.execExit o s
  | .brx o => Sys2Proof.Machine.execBrx o s
  | .wait o => Sys2Proof.Machine.execWait o s
  | .nop o => Sys2Proof.Machine.execNop o s
  | .tfence o => Sys2Proof.Machine.execTfence o s
  | .getf o => Sys2Proof.Machine.execGetf o s
  | .getfClr o => Sys2Proof.Machine.execGetfClr o s
  | .clrf o => Sys2Proof.Machine.execClrf o s
  | .clrfFen o => Sys2Proof.Machine.execClrfFen o s
  | .clrfLoad o => Sys2Proof.Machine.execClrfLoad o s
  | .rdsr o => Sys2Proof.Machine.execRdsr o s
  | .fadd o => Sys2Proof.Machine.execFadd o s
  | .fsub o => Sys2Proof.Machine.execFsub o s
  | .fmul o => Sys2Proof.Machine.execFmul o s
  | .ffma o => Sys2Proof.Machine.execFfma o s
  | .fmin o => Sys2Proof.Machine.execFmin o s
  | .fmax o => Sys2Proof.Machine.execFmax o s
  | .fdiv o => Sys2Proof.Machine.execFdiv o s
  | .fscale o => Sys2Proof.Machine.execFscale o s
  | .fround exact o => Sys2Proof.Machine.execFround exact o s
  | .fclass o => Sys2Proof.Machine.execFclass o s
  | .fdot2 o => Sys2Proof.Machine.execFdot2 o s
  | .frcp o => Sys2Proof.Machine.execFrcp o s
  | .frsq o => Sys2Proof.Machine.execFrsq o s
  | .fsqrt o => Sys2Proof.Machine.execFsqrt o s
  | .fexp2 o => Sys2Proof.Machine.execFexp2 o s
  | .flog2 o => Sys2Proof.Machine.execFlog2 o s
  | .fsin o => Sys2Proof.Machine.execFsin o s
  | .fcos o => Sys2Proof.Machine.execFcos o s
  | .ftanh o => Sys2Proof.Machine.execFtanh o s
  | .cvt k o => Sys2Proof.Machine.execCvt k o s
  | .pack e5m2 o => Sys2Proof.Machine.execPack e5m2 o s
  | .packOx4 o => Sys2Proof.Machine.execPackOx4 o s
  | .unpack e5m2 o => Sys2Proof.Machine.execUnpack e5m2 o s
  | .unpackOx4 o => Sys2Proof.Machine.execUnpackOx4 o s
  | .xchg m o => Sys2Proof.Machine.execXchg m o s
  | .vote m o => Sys2Proof.Machine.execVote m o s
  | .matchOp all o => Sys2Proof.Machine.execMatchOp all o s
  | .redux op o => Sys2Proof.Machine.execRedux op o s
  | .prefixOp op excl o => Sys2Proof.Machine.execPrefixOp op excl o s
  | .pick o => Sys2Proof.Machine.execPick o s
  | .lid m o => Sys2Proof.Machine.execLid m o s
  | .segm op tot o => Sys2Proof.Machine.execSegm op tot o s
  | .ld w o => Sys2Proof.Machine.execLd w o s
  | .st w o => Sys2Proof.Machine.execSt w o s
  | .ldu w o => Sys2Proof.Machine.execLdu w o s
  | .stu w o => Sys2Proof.Machine.execStu w o s
  | .lds w o => Sys2Proof.Machine.execLds w o s
  | .sts w o => Sys2Proof.Machine.execSts w o s
  | .ldc w o => Sys2Proof.Machine.execLdc w o s
  | .stc w o => Sys2Proof.Machine.execStc w o s
  | .ldk w o => Sys2Proof.Machine.execLdk w o s
  | .setfe o => Sys2Proof.Machine.execSetfe o s
  | .clrfe o => Sys2Proof.Machine.execClrfe o s
  | .atom op o => Sys2Proof.Machine.execAtom op o s
  | .atomcas wide o => Sys2Proof.Machine.execAtomcas wide o s
  | .red op o => Sys2Proof.Machine.execRed op o s
  | .atomf bf o => Sys2Proof.Machine.execAtomf bf o s
  | .redf bf o => Sys2Proof.Machine.execRedf bf o s
  | .tbeg o => Sys2Proof.Machine.execTbeg o s
  | .tend o => Sys2Proof.Machine.execTend o s
  | .transactionCommit ctx => Sys2Proof.Machine.execTransactionCommit ctx s
  | .tabt o => Sys2Proof.Machine.execTabt o s
  | .tstat o => Sys2Proof.Machine.execTstat o s
  | .fence o => Sys2Proof.Machine.execFence o s
  | .pathf ps o => Sys2Proof.Machine.execPathf ps o s
  | .placef o => Sys2Proof.Machine.execPlacef o s
  | .barinit o => Sys2Proof.Machine.execBarinit o s
  | .arrive o => Sys2Proof.Machine.execArrive o s
  | .arriveInb o => Sys2Proof.Machine.execArriveInb o s
  | .arriveOutb o => Sys2Proof.Machine.execArriveOutb o s
  | .barwait ph1 o => Sys2Proof.Machine.execBarwait ph1 o s
  | .bwatch slot o => Sys2Proof.Machine.execBwatch slot o s
  | .decl k o => Sys2Proof.Machine.execDecl k o s
  | .redecl k o => Sys2Proof.Machine.execRedecl k o s
  | .undecl o => Sys2Proof.Machine.execUndecl o s
  | .placeq o => Sys2Proof.Machine.execPlaceq o s
  | .mlds o => Sys2Proof.Machine.execMlds o s
  | .mldsBar o bar => Sys2Proof.Machine.execMldsBar o bar s
  | .mswap qset => Sys2Proof.Machine.execMswap qset s
  | .mloop o => Sys2Proof.Machine.execMloop o s
  | .mdrain o => Sys2Proof.Machine.execMdrain o s
  | .mzero o => Sys2Proof.Machine.execMzero o s
  | .mcomp o => Sys2Proof.Machine.execMcomp o s
  | .mfuse qset => Sys2Proof.Machine.execMfuse qset s
  | .mread o => Sys2Proof.Machine.execMread o s
  | .mstat qset dst => Sys2Proof.Machine.execMstat qset dst s
  | .quadrantStart g q => Sys2Proof.Machine.execQuadrantStart g q s
  | .mloopStep g q bad => Sys2Proof.Machine.execMloopStep g q bad s
  | .matrixComplete g q => Sys2Proof.Machine.execMatrixComplete g q s
  | .nest op ty n => Sys2Proof.Machine.execNest op ty n s
  | .ragged pr n => Sys2Proof.Machine.execRagged pr n s
  | .fork o => Sys2Proof.Machine.execFork o s
  | .rdv o => Sys2Proof.Machine.execRdv o s
  | .engineProgramEnd g e => Sys2Proof.Machine.execEngineProgramEnd g e s
  | .lace o => Sys2Proof.Machine.execLace o s
  | .laceg o => Sys2Proof.Machine.execLaceg o s
  | .laceCopyStart core k => Sys2Proof.Machine.execLaceCopyStart core k s
  | .laceSourceRead core k granule => Sys2Proof.Machine.execLaceSourceRead core k granule s
  | .laceGranuleLanding core k granule => Sys2Proof.Machine.execLaceGranuleLanding core k granule s
  | .laceCopyComplete core k => Sys2Proof.Machine.execLaceCopyComplete core k s
  | .awlmodeOn cls o => Sys2Proof.Machine.execAwlmodeOn cls o s
  | .awlmodeOff o => Sys2Proof.Machine.execAwlmodeOff o s
  | .sessionDrainDone ch => Sys2Proof.Machine.execSessionDrainDone ch s
  | .sessionDeadline ch => Sys2Proof.Machine.execSessionDeadline ch s
  | .awlbc all o => Sys2Proof.Machine.execAwlbc all o s
  | .awlmac o => Sys2Proof.Machine.execAwlmac o s
  | .awlrd o => Sys2Proof.Machine.execAwlrd o s
  | .trap o => Sys2Proof.Machine.execTrap o s
  | .brk o => Sys2Proof.Machine.execBrk o s
  | .hcall o => Sys2Proof.Machine.execHcall o s
  | .rfh o => Sys2Proof.Machine.execRfh o s
  | .rfhSkip o => Sys2Proof.Machine.execRfhSkip o s
  | .tmaskOff o => Sys2Proof.Machine.execTmaskOff o s
  | .tmaskOn o => Sys2Proof.Machine.execTmaskOn o s
  | .hset o => Sys2Proof.Machine.execHset o s
  | .clauseStart => Sys2Proof.Machine.execClauseStart s
  | .issueWindowStart core => Sys2Proof.Machine.execIssueWindowStart core s
  | .issueWindowEnd core => Sys2Proof.Machine.execIssueWindowEnd core s
  | .windowReclaim core => Sys2Proof.Machine.execWindowReclaim core s
  | .teamStreamWake core => Sys2Proof.Machine.execTeamStreamWake core s
  | .placementStep vd cores => Sys2Proof.Machine.execPlacementStep vd cores s
  | .teamEnd ctx => Sys2Proof.Machine.execTeamEnd ctx s
  | .requestAtTarget n => Sys2Proof.Machine.execRequestAtTarget n s
  | .completionReceive n => Sys2Proof.Machine.execCompletionReceive n s
  | .faultHalt ctx => Sys2Proof.Machine.execFaultHalt ctx s
  | .generationHoldExpiry ctx => Sys2Proof.Machine.execGenerationHoldExpiry ctx s
  | .frameBoundary => Sys2Proof.Machine.execFrameBoundary s
  | .channelRequestIssue ch => Sys2Proof.Machine.execChannelRequestIssue ch s
  | .leaveGrant zone => Sys2Proof.Machine.execLeaveGrant zone s
  | .preemptionRequest gang forced => Sys2Proof.Machine.execPreemptionRequest gang forced s
  | .saveComplete gang => Sys2Proof.Machine.execSaveComplete gang s
  | .trackerPeriodEnd stack vd => Sys2Proof.Machine.execTrackerPeriodEnd stack vd s
  | .scrubSector sector => Sys2Proof.Machine.execScrubSector sector s
  | .flitReceive link erased => Sys2Proof.Machine.execFlitReceive link erased s
  | .railFailure link rail => Sys2Proof.Machine.execRailFailure link rail s
  | .laneCalibration grp weak => Sys2Proof.Machine.execLaneCalibration grp weak s
  | .linkDown link => Sys2Proof.Machine.execLinkDown link s
  | .zoneEvaluation zone flow temp pres => Sys2Proof.Machine.execZoneEvaluation zone flow temp pres s
  | .dryDeclaration zone => Sys2Proof.Machine.execDryDeclaration zone s
  | .evacuationSaveTimeout zone => Sys2Proof.Machine.execEvacuationSaveTimeout zone s
  | .evacuationPurge zone => Sys2Proof.Machine.execEvacuationPurge zone s
  | .evacuationPulse zone => Sys2Proof.Machine.execEvacuationPulse zone s
  | .evacuationReprime zone => Sys2Proof.Machine.execEvacuationReprime zone s
  | .evacuationVerify zone flow => Sys2Proof.Machine.execEvacuationVerify zone flow s
  | .switchStart wr outVd inVd dies => Sys2Proof.Machine.execSwitchStart wr outVd inVd dies s
  | .switchDeadline1 => Sys2Proof.Machine.execSwitchDeadline1 s
  | .switchDeadline2 => Sys2Proof.Machine.execSwitchDeadline2 s
  | .switchFinish => Sys2Proof.Machine.execSwitchFinish s
  | .homeMapCommit wr vd => Sys2Proof.Machine.execHomeMapCommit wr vd s
  | .faultQueueRdWrite wr vd rd => Sys2Proof.Machine.execFaultQueueRdWrite wr vd rd s
  | .faultResume wr vd ctx => Sys2Proof.Machine.execFaultResume wr vd ctx s
  | .faultKill wr vd ctx => Sys2Proof.Machine.execFaultKill wr vd ctx s
  | .tlbInvalidate wr va asid size => Sys2Proof.Machine.execTlbInvalidate wr va asid size s
  | .frameRelease wr frame => Sys2Proof.Machine.execFrameRelease wr frame s
  | .ownershipWrite wr dom reg val => Sys2Proof.Machine.execOwnershipWrite wr dom reg val s
  | .domainControlWrite wr dom val => Sys2Proof.Machine.execDomainControlWrite wr dom val s
  | .mscScratchWrite wr dom w => Sys2Proof.Machine.execMscScratchWrite wr dom w s
  | .vdControlWrite wr vd val => Sys2Proof.Machine.execVdControlWrite wr vd val s
  | .calendarSwap wr cal => Sys2Proof.Machine.execCalendarSwap wr cal s
  | .calendarEntryWrite wr cal entry val => Sys2Proof.Machine.execCalendarEntryWrite wr cal entry val s
  | .bucketWrite wr bkt rho sigma => Sys2Proof.Machine.execBucketWrite wr bkt rho sigma s
  | .contractWrite wr ch vd guar rho sigma => Sys2Proof.Machine.execContractWrite wr ch vd guar rho sigma s
  | .repairByteWrite wr core q val => Sys2Proof.Machine.execRepairByteWrite wr core q val s
  | .coolantZoneWrite wr zone off val => Sys2Proof.Machine.execCoolantZoneWrite wr zone off val s
  | .fenceClear wr zone flow => Sys2Proof.Machine.execFenceClear wr zone flow s
  | .notifyWrite wr q val => Sys2Proof.Machine.execNotifyWrite wr q val s
  | .packetTake q => Sys2Proof.Machine.execPacketTake q s
  | .waitvalPoll q => Sys2Proof.Machine.execWaitvalPoll q s
  | .launchComplete l => Sys2Proof.Machine.execLaunchComplete l s
  | .pauseClear wr vd => Sys2Proof.Machine.execPauseClear wr vd s
  | .hostSnoop pa => Sys2Proof.Machine.execHostSnoop pa s
  | .hostMemAccess pa wr => Sys2Proof.Machine.execHostMemAccess pa wr s
  | .attestation wr dom => Sys2Proof.Machine.execAttestation wr dom s
  | .keyWrap wr dom => Sys2Proof.Machine.execKeyWrap wr dom s
  | .journalPeriod => Sys2Proof.Machine.execJournalPeriod s
  | .journalRdWrite wr dom rd => Sys2Proof.Machine.execJournalRdWrite wr dom rd s
  | .coldReset => Sys2Proof.Machine.execColdReset s
  | .warmReset retention => Sys2Proof.Machine.execWarmReset retention s
  | .registerWrite wr blk off val => Sys2Proof.Machine.execRegisterWrite wr blk off val s
  | .completionAcknowledgement n => Sys2Proof.Machine.execCompletionAcknowledgement n s
  | .linkUp link => Sys2Proof.Machine.execLinkUp link s

end Sys2Proof.Machine
end

