-- ==== Sys2Proof/Machine/Run.lean ====
section
/-! DEFINITION. One step of the package: an input taken, the instruction of the agent whose turn it is
fetched and run, and, where the schedule says nothing, the order in which the model lets things happen
(log entry 1). -/

namespace Sys2Proof.Machine

/-- An outcome. -/
abbrev Out := Host.Outcome State Fault Refusal

/-- A row of the table that is a step of the package, not an instruction of a program. -/
def isEvent (i : Instr) : Bool := (encode i).isEmpty

/-! ### The next instruction of an agent (R36, R95, R240) -/

/-- A team may issue: it has its core, in the window that runs. -/
def State.teamMay (s : State) (t : Team) : Bool :=
  let c := s.coreOf t
  (s.core c).running == some t.ctx && !(s.core c).gated && !s.windowOver c && !s.coreOff c && !s.isSaved t.group
  && decide (t.parked = .no) && !t.lanes.isEmpty

/-- An engine program may issue. -/
def State.engineMayRun (s : State) (g k : Nat) : Bool :=
  let e := s.engine g k
  e.running && !e.stopped && !e.parked && !e.rdv && !s.famHalted e.fam && !s.isSaved g && !s.coreOff (s.group g).core

/-- A team's next instruction: its clause is fetched first; a word that is none is ILLEGAL there (R99), with
the length its opcode has (R102). -/
def State.runTeam (s : State) (t : Team) : Out :=
  if !t.loaded then exec .clauseStart s
  else match decode (t.clause.drop t.word) with
    | .ok i => exec i s
    | .error _ => .next (s.takeTrap t.ctx (wordCount (t.clause.getD t.word 0)) (plainTrap .illegal))

/-- An engine program's next instruction (R240). -/
def State.runEngine (s : State) (g k : Nat) : Out :=
  let e := s.engine g k
  if !e.loaded then exec .clauseStart s
  else match decode (e.clause.drop e.word) with
    | .ok i => exec i s
    | .error _ => .next (s.engineStop g k)

/-- The agent whose turn it is may issue. -/
def State.turnMay (s : State) : Bool :=
  match s.turn with
  | .none => false
  | .team ctx => (s.team? ctx).elim false s.teamMay
  | .engine g k => s.engineMayRun g k

/-- The agent whose turn it is issues. -/
def State.runTurn (s : State) : Out :=
  match s.turn with
  | .none => .next s
  | .engine g k => s.runEngine g k
  | .team ctx => match s.team? ctx with
    | some t => s.runTeam t
    | none => .next s

/-! ### Time -/

/-- A cycle passes; a frame boundary is a step of its own (R313). -/
def State.tick (s : State) : Out :=
  if (s.clock + 1) % 1024 = 0 then exec .frameBoundary s else .next { s with clock := s.clock + 1 }

/-! ### The schedule of the inputs -/

/-- An agent gets its turn; where its core has no running team, the scheduler picks first (R36). -/
def State.give' (s : State) (a : Agent) : State :=
  let s := { s with turn := a }
  match a with
  | .team ctx => (match s.team? ctx with
    | some t => if (s.core (s.coreOf t)).running.isNone then s.schedule (s.coreOf t) else s
    | none => s)
  | _ => s

/-- An input is taken: an event happens, or an agent's next instruction is run. -/
def State.takeInput (s : State) : Input → Out
  | .event e => if isEvent e then exec e s else .next s
  | .issue .none => s.tick
  | .issue a =>
    let s := s.give' a
    if s.turnMay then s.runTurn else .next s

/-! ### The default schedule -/

/-- Steps that may be due: messages first, then what runs in the units of the package. -/
def State.due (s : State) : List Instr :=
  let groups := s.groups.filter (fun g => !g.2.ended && !s.isSaved g.1)
  let cores := (groups.map (fun g => g.2.core)).eraseDups
  (if s.answers.isEmpty then [] else [.completionReceive 0])
  ++ (if s.acks.isEmpty then [] else [.completionAcknowledgement 0])
  ++ (List.range s.reqs.length).map .requestAtTarget
  ++ groups.flatMap (fun g => g.2.quads.flatMap (fun q =>
      [.quadrantStart g.1 q.1, .mloopStep g.1 q.1 [], .matrixComplete g.1 q.1]))
  ++ (s.zones.filter (fun z => !z.2.waiting.isEmpty)).map (fun z => .leaveGrant z.1)
  ++ s.cores.flatMap (fun c => c.2.lace.flatMap (fun l => match l.2 with
    | [] => []
    | e :: _ =>
      [.laceCopyStart c.1 l.1] ++ (e.read.head?.elim [] (fun n => [.laceGranuleLanding c.1 l.1 n]))
      ++ (((List.range e.op.count).find? (fun n => !e.read.contains n && !e.landed.contains n)).elim []
          (fun n => [.laceSourceRead c.1 l.1 n]))
      ++ [.laceCopyComplete c.1 l.1]))
  ++ groups.flatMap (fun g => g.2.engines.map (fun e => .engineProgramEnd g.1 e.1))
  ++ (s.chans.filter (fun p => p.2.session.isSome)).map (fun p => .sessionDrainDone p.1)
  ++ (s.chans.filter (fun p => !p.2.queue.isEmpty)).map (fun p => .channelRequestIssue p.1)
  ++ (s.links.filter (fun l => !l.2.flits.isEmpty)).map (fun l => .flitReceive l.1 [])
  ++ s.teams.flatMap (fun t => [.faultHalt t.1, .generationHoldExpiry t.1, .transactionCommit t.1, .teamEnd t.1])
  ++ s.gangs.map (fun a => .saveComplete a.1)
  ++ s.launches.map (fun l => .launchComplete l.1)
  ++ (s.queues.filter (fun q => q.2.enable)).flatMap (fun q => [.waitvalPoll q.1, .packetTake q.1])
  ++ s.vds.flatMap (fun d =>
      let n := (s.candidates d.1).head?.elim 1 (fun l => (s.launch l.1).members)
      if (s.candidates d.1).isEmpty && !(s.gangs.any (fun a => a.2.vd == d.1 && a.2.saved)) then []
      else (bitList d.2.cores 0 1024).map (fun c => .placementStep d.1 ((List.range n).map (fun i => c + i))))
  ++ cores.flatMap (fun c => [.teamStreamWake c, .windowReclaim c, .issueWindowEnd c, .issueWindowStart c])
  ++ [.journalPeriod]

/-- The first due step that changes anything but the count of free values. -/
def State.firstDue (s : State) : List Instr → Option Out
  | [] => none
  | e :: es => match exec e s with
    | .next t => if { t with free := s.free, stamp := s.stamp } = s then s.firstDue es else some (.next t)
    | r => some r

/-- The agents that a core offers: the team it picks, which for want of any other may be one that waits. -/
def State.offer (s : State) (c : Nat) (waiting : Bool) : Option State :=
  let s := if (s.core c).running.isNone && !s.windowOver c then s.schedule c else s
  match (s.core c).running.bind s.team? with
  | some t => if s.teamMay t && (waiting || !t.waiting) then some { s with turn := .team t.ctx } else none
  | none => none

/-- The engine programs that may run. -/
def State.engines (s : State) : List (Nat × Nat) :=
  s.groups.flatMap (fun g => (g.2.engines.filter (fun e => s.engineMayRun g.1 e.1)).map (fun e => (g.1, e.1)))

/-- The cores on which teams stand. -/
def State.busyCores (s : State) : List Nat :=
  ((s.groups.filter (fun g => !g.2.ended && !s.isSaved g.1)).map (fun g => g.2.core)).eraseDups

/-- A cycle passes, after which a team that waits tries again. -/
def State.idle (s : State) : Out :=
  match s.tick with
  | .next t => .next ((t.busyCores.findSome? (fun c => t.offer c true)).getD t)
  | r => r

/-- The states in which an agent that may issue has its turn: the one that has it, those of the cores, and
the engine programs. -/
def State.agents (s : State) : List State :=
  (if s.turnMay then [s] else []) ++ s.busyCores.filterMap (fun c => s.offer c false)
  ++ s.engines.map (fun e => { s with turn := .engine e.1 e.2 })

/-- Cores whose teams all wait are gated (R39). -/
def State.gateIdle (s : State) : State :=
  s.busyCores.foldl (fun s c => if s.windowOver c then s else s.schedule c) s

/-- Nothing is ready: a due step, or a cycle. -/
def State.waits (s : State) : Out :=
  let s := s.gateIdle
  (s.firstDue s.due).getD s.idle

/-- Instructions between two things that are not instructions. -/
def paceLen : Nat := 64

/-- An instruction is run; where it stalls, the agent standing where it stood and no home access setting out, what is due
comes instead. -/
def State.tryRun (s : State) : Out :=
  match s.runTurn with
  | .next t => if t.teams = s.teams ∧ t.groups = s.groups ∧ t.trips = s.trips then s.waits else .next t
  | r => r

/-- Without an input: the agent whose turn it is runs on, or another one that is ready, or what is due; after
every `paceLen` instructions a due step, a cycle or another agent has its turn all the same. -/
def State.byDefault (s : State) : Out :=
  let n := s.pace % (4 * paceLen) + 1
  let s := { s with pace := n }
  match s.agents with
  | [] => { s with pace := 0 }.waits
  | t :: ts =>
    if n % paceLen != 0 then t.tryRun
    else if n = 2 * paceLen then s.tick
    else if n = 4 * paceLen then ((ts.getLast?).getD t).tryRun
    else (s.firstDue s.due).getD t.tryRun

/-- One step: nothing happens in reset but a cold reset (R389); an input is taken where there is one. -/
def State.stepOnce (s : State) : Out :=
  match s.inputs with
  | [] => if s.inReset then .fault .heldInReset else s.byDefault
  | i :: rest =>
    if s.inReset && i != .event .coldReset then .fault .heldInReset
    else { s with inputs := rest }.takeInput i

/-! ### A program's next word, for the host -/

/-- A number that no entry of a table has. -/
def freshKey {α : Type} (t : Tbl α) : Nat := t.foldl (fun n e => max n (e.1 + 1)) 0

/-- The words of an instruction whose bits are `w`. -/
def fetchWordsOf (nbits w : Nat) : List DWord :=
  let ws := tableWords (w % 2 ^ nbits)
  ws.take (wordCount (ws.headD 0))

/-- A lane of a team that stands at its start. -/
def seedLane : Lane :=
  { slot := 0, vid := 0, regs := [], p := 1, tx := noTx, opened := [], blind := [] }

/-- A launched team of one lane of VD 0, running on core 0, with the clause of one instruction fetched. -/
def State.seed (s : State) (ws : List DWord) : State :=
  let l := freshKey s.launches
  let a := freshKey s.gangs
  let g := freshKey s.groups
  let f := freshKey s.fams
  let ctx := freshKey s.teams
  let team : Team := { resetTeam with ctx := ctx, fam := f, group := g, clause := ws, loaded := true, tested := true,
                                      lanes := [seedLane] }
  let gang : Gang := { resetGang with launch := l, members := [g] }
  let s := { s with
    launches := Tbl.set s.launches l { resetLaunch with live := [a] }
    gangs := Tbl.set s.gangs a gang
    groups := Tbl.set s.groups g { resetGroup with gang := a, launch := l }
    fams := Tbl.set s.fams f { resetFamily with ctx := ctx, group := g }
    teams := Tbl.set s.teams ctx team
    inputs := []
    pace := 0
    turn := .team ctx
    inReset := false }
  let s := if (s.zone 0).state = 10 then s.setZone 0 { s.zone 0 with state := 0 } else s
  s.modCore 0 (fun k => { k with
    running := some ctx, curVd := some 0, window := s.clock / 16 + 1, gated := false, stopped := false })

end Sys2Proof.Machine
end

