-- ==== Sys2Proof/Machine/Step.lean ====
section
/-! DEFINITION. The step of the machine, and the placing of an instruction where the next step runs it. -/

namespace Sys2Proof.Machine

/-- One step of the package. -/
def step (s : State) : Host.Outcome State Fault Refusal := s.stepOnce

/-- The machine with a team about to run the instruction whose bits are `w` (log entry 26). -/
def State.withFetchWord (s : State) (nbits w : Nat) : State := s.seed (fetchWordsOf nbits w)

end Sys2Proof.Machine
end

