-- ==== Sys2Proof/Safety.lean ====
section
/-! DEFINITION. What claims about the machine are stated in: an agent that has its turn, the operands of an
instruction as the agent sees them, the conditions under which a register instruction raises no trap, its
effect with its frame, and the invariants of a run. -/

namespace Sys2Proof.Machine

/-! ### Invariants -/

/-- Keys rise strictly. -/
def Tbl.rising {α : Type} (t : Tbl α) : Prop := t.Pairwise (fun a b => a.1 < b.1)

/-- The memory of the package and every scratchpad are in canonical form. -/
def State.memOk (s : State) : Prop := s.mem.wf = true ∧ ∀ e ∈ s.groups, e.2.spad.wf = true

/-- The table of teams is in ascending order of context ids, and every team stands under its own. -/
def State.teamsOk (s : State) : Prop := Tbl.rising s.teams ∧ ∀ e ∈ s.teams, e.2.ctx = e.1

/-! ### A team that has its turn -/

/-- Team `t` has its turn. -/
structure State.Runs (s : State) (t : Team) : Prop where
  turn : s.turn = .team t.ctx
  here : s.team? t.ctx = some t

/-- Engine program `k` of group `g` has its turn. -/
def State.EngineRuns (s : State) (g k : Nat) : Prop := s.turn = .engine g k

/-- The place-map entry of register number `k` of a team (R43). -/
def State.entry (s : State) (t : Team) (k : Nat) : PlaceEnt := Tbl.get noPlace (s.fam t.fam).map k

/-- A register operand is `z` or the literal. -/
def Reg.noName (r : Reg) : Bool := r = Reg.z || r = Reg.lit

/-- Uniform register number `k` as a team sees it while no sibling has written it since the split (R17). -/
def State.uni (s : State) (t : Team) (k : Nat) : Word :=
  (Tbl.get zeroCell (s.fam t.fam).cells k).view t.ctx 0

/-- `n` uniform registers as one value, low half first (R42). -/
def State.uniVal (s : State) (t : Team) (r : Reg) (n : Nat) : DWord :=
  if r = Reg.z then 0
  else if n = 2 then s.uni t (r.toNat + 1) ++ s.uni t r.toNat
  else (s.uni t r.toNat).setWidth 64

/-- q predicate `n` as a team sees it; q0 reads true (R109). -/
def State.qVal (s : State) (t : Team) (n : Nat) : Bool :=
  n == 0 || (Tbl.get zeroCell (s.fam t.fam).q n).view t.ctx 0 != 0

/-- PRED as a q predicate (R109). -/
def State.qHolds (s : State) (t : Team) (p : Pred) : Bool := s.qVal t p.num.toNat != p.neg

/-- No sibling has written a uniform register or q predicate of the launched team since the split, so that
each of them has one value to read (R17). -/
structure State.Quiet (s : State) (t : Team) : Prop where
  cells : ∀ k, (Tbl.get zeroCell (s.fam t.fam).cells k).isOpen t.ctx = false
  q     : ∀ k, (Tbl.get zeroCell (s.fam t.fam).q k).isOpen t.ctx = false

/-! ### What an instruction names -/

/-- An instruction that computes on registers and predicates: PRED, its destination, its sources. -/
structure Form where
  pred : Pred
  dst  : Dst
  srcs : List Src
deriving DecidableEq, Repr

/-- The register operands of a form, destination first. -/
def Form.regs (f : Form) : List (Reg × Nat) := f.dst.regs ++ f.srcs.flatMap Src.regs

/-- The lane predicate code, if any, and else nothing: p predicates lie at LANE, q predicates at TEAM (R42). -/
def srcAtLane (s : State) (t : Team) : Src → Bool
  | .reg r _ _ => !Reg.noName r && (s.entry t r.toNat).kind == .lane
  | .pcode c => !pcodeQ c
  | .sel _ => false

/-- Where a form executes: at LANE or at a uniform place (R48). -/
def Form.atLane (s : State) (t : Team) (f : Form) : Bool :=
  match f.dst with
  | .pcode c => !pcodeQ c
  | .reg r _ => if r = Reg.z then (f.srcs.head?).elim false (srcAtLane s t)
    else (s.entry t r.toNat).kind == .lane

/-- The predicates that a form reads or writes: PRED and a selector are p at LANE and q elsewhere (R109,
R128). -/
def Form.preds (uni : Bool) (f : Form) : List (Bool × Nat) :=
  let code (c : Byte) : Bool × Nat := (pcodeQ c, pcodeNum c)
  (uni, f.pred.num.toNat)
    :: (match f.dst with
        | .pcode c => [code c]
        | .reg _ _ => [])
    ++ f.srcs.flatMap (fun x => match x with
        | .pcode c => [code c]
        | .sel p => [(uni, p.num.toNat)]
        | .reg _ _ _ => [])

/-- Nothing that the form names makes it trap or wait (R51), and it executes at the core: every register it
names is placed at LANE or at TEAM, the two halves of a pair at the same of them (R42); none is pending, nor a
predicate (R59, R114); a uniform destination has no source at LANE (R50); and each uniform value that it reads
has one value (R17). -/
structure Form.Clear (s : State) (t : Team) (f : Form) : Prop where
  placed : ∀ x ∈ f.regs, ∀ k ∈ regNums x.1 x.2, k < 254 ∧ (s.entry t k).kind = (s.entry t x.1.toNat).kind
    ∧ ((s.entry t k).kind = .lane ∨ (s.entry t k).kind = .team)
  ready  : ∀ e ∈ t.pend, t.own e.1 = true → ∀ x ∈ f.regs, e.2.toNat ∉ regNums x.1 x.2
  readyP : ∀ e ∈ t.pendP, t.own e.1 = true → ∀ p ∈ f.preds (!f.atLane s t), e.2 ≠ predKey p.1 p.2
  shape  : f.atLane s t = false → ∀ x ∈ f.srcs, srcAtLane s t x = false
  quiet  : s.Quiet t

/-- A source as a uniform place sees it (R104, R109, R128, R130). -/
def State.uniSrc (s : State) (t : Team) : Src → DWord
  | .reg r n lit => if r = Reg.lit then lit else s.uniVal t r n
  | .pcode c => boolOp (s.qVal t (pcodeNum c) != pcodeNeg c)
  | .sel p => boolOp (s.qHolds t p)

/-- A source as a lane sees it: a uniform value is the same for every lane (R50). -/
def State.laneSrc (s : State) (t : Team) (l : Lane) : Src → DWord
  | .reg r n lit =>
    if srcAtLane s t (.reg r n lit) then laneRegs l r n
    else if r = Reg.lit then lit else s.uniVal t r n
  | .pcode c => boolOp ((if pcodeQ c then s.qVal t (pcodeNum c) else laneP l (pcodeNum c)) != pcodeNeg c)
  | .sel p => boolOp (lanePred l p)

/-! ### Effects -/

/-- Everything but teams, uniform registers of launched teams, the pick of cores and the model's stamp is as it
was, every byte of memory among it; of those only team `t`, its launched team and whether its core runs it or keeps
it for a clause that was cut have changed. -/
structure State.Frame (s s' : State) (t : Team) : Prop where
  rest  : s' = { s with teams := s'.teams, fams := s'.fams, cores := s'.cores, stamp := s'.stamp }
  bytes : ∀ a, s'.mem.read a = s.mem.read a
  teams : ∀ c, c ≠ t.ctx → s'.team? c = s.team? c
  fams  : ∀ f, f ≠ t.fam → s'.fam f = s.fam f
  fam   : s'.fam t.fam =
    { s.fam t.fam with cells := (s'.fam t.fam).cells, q := (s'.fam t.fam).q }
  cores : ∀ c, s'.core c = { s.core c with running := (s'.core c).running, cut := (s'.core c).cut }

/-- Every uniform register and q predicate of a launched team is as it was, but for the registers `rs` and the
q predicates `qs`. -/
structure State.KeepsUni (s s' : State) (t : Team) (rs qs : List Nat) : Prop where
  cells : ∀ k, k ∉ rs → Tbl.get zeroCell (s'.fam t.fam).cells k = Tbl.get zeroCell (s.fam t.fam).cells k
  q     : ∀ k, k ∉ qs → Tbl.get zeroCell (s'.fam t.fam).q k = Tbl.get zeroCell (s.fam t.fam).q k

/-- The team is now `t'`, one word further (R95, R98). -/
def State.MovedOn (s s' : State) (t t' : Team) : Prop :=
  s'.team? t.ctx = some { t'.advance 1 with last := s.stamp }

/-- The low 32 bits where a value takes one register. -/
def cut (n : Nat) (v : DWord) : DWord := if n = 2 then v else v &&& 0xFFFF_FFFF

/-- A uniform destination holds `v` (R42, R109, R130): `z`, p0 and q0 discard it. -/
def State.UniHolds (s' : State) (t : Team) (d : Dst) (v : DWord) : Prop :=
  match d with
  | .reg r n => r = Reg.z ∨ s'.uniVal t r n = cut n v
  | .pcode c => pcodeNum c = 0 ∨ s'.qVal t (pcodeNum c) = (v != 0)

/-- Registers and q predicates that a uniform destination names. -/
def Dst.uniRegs : Dst → List Nat
  | .reg r n => regNums r n
  | .pcode _ => []
def Dst.uniQs : Dst → List Nat
  | .pcode c => if pcodeQ c then [pcodeNum c] else []
  | .reg _ _ => []

/-- A lane with a destination written (R42, R109, R130). -/
def Lane.put (l : Lane) (d : Dst) (v : DWord) : Lane :=
  match d with
  | .reg r n => setLaneRegs l r n v
  | .pcode c => setLaneP l (pcodeNum c) (v != 0)

/-- The active lane with the virtual id of `l` (R10). -/
def Team.activeLike (t : Team) (p : Pred) (l : Lane) : Option Lane := (t.active p).find? (fun a => a.vid == l.vid)

/-- The lanes of a team with a destination written in each active one, from what it holds (R10). -/
def Team.lanesPut (t : Team) (p : Pred) (d : Dst) (f : Lane → DWord) : List Lane :=
  t.lanes.map (fun l => match t.activeLike p l with
    | some a => l.put d (f a)
    | none => l)

/-- Flags joined over lanes (R84). -/
def joinFlags (l : List Flags) : Flags := l.foldl (fun a b => a ||| b) 0

/-- The effect of an instruction that each active lane, or the uniform place, carries out on its own operands
(R10, R48, R109): `g` gives the value and the flags. -/
structure Form.Done (f : Form) (g : List DWord → DWord × Flags) (s s' : State) (t : Team) : Prop where
  frame : s.Frame s' t
  lanes : f.atLane s t = true → s.KeepsUni s' t [] [] ∧
    s.MovedOn s' t { t with
      lanes := t.lanesPut f.pred f.dst (fun l => (g (f.srcs.map (s.laneSrc t l))).1)
      flags := t.flags ||| joinFlags ((t.active f.pred).map (fun l => (g (f.srcs.map (s.laneSrc t l))).2)) }
  off   : f.atLane s t = false → s.qHolds t f.pred = false → s.KeepsUni s' t [] [] ∧ s.MovedOn s' t t
  on    : f.atLane s t = false → s.qHolds t f.pred = true →
    s.KeepsUni s' t f.dst.uniRegs f.dst.uniQs
    ∧ s'.UniHolds t f.dst (g (f.srcs.map (s.uniSrc t))).1
    ∧ s.MovedOn s' t { t with flags := t.flags ||| (g (f.srcs.map (s.uniSrc t))).2 }

/-! ### Instructions over the lanes of a team (R159) -/

/-- An instruction that reads lanes of its team: its form, a second destination (the flag predicate of R160 and
R164, or the absent mask of R161), whether its destination must lie at LANE, whether it gathers lanes for a
uniform destination, and which of its sources must be uniform. -/
structure Cross where
  form    : Form
  dst2    : Option Dst
  lane    : Bool
  gathers : Bool
  uniform : List Nat
deriving DecidableEq, Repr

/-- The register operands. -/
def Cross.regs (x : Cross) : List (Reg × Nat) := x.form.dst.regs ++ x.dst2.elim [] Dst.regs ++ x.form.srcs.flatMap Src.regs

/-- Where it executes (R48). -/
def Cross.atLane (s : State) (t : Team) (x : Cross) : Bool :=
  match x.form.dst with
  | .pcode c => !pcodeQ c
  | .reg r _ => if r = Reg.z then (x.form.srcs.head?).elim false (srcAtLane s t)
    else (s.entry t r.toNat).kind == .lane

/-- The predicates that it reads or writes. -/
def Cross.preds (uni : Bool) (x : Cross) : List (Bool × Nat) :=
  let code (d : Dst) : List (Bool × Nat) := match d with
    | .pcode c => [(pcodeQ c, pcodeNum c)]
    | .reg _ _ => []
  (uni, x.form.pred.num.toNat) :: code x.form.dst ++ x.dst2.elim [] code ++ x.form.srcs.flatMap (fun y => match y with
    | .pcode c => [(pcodeQ c, pcodeNum c)]
    | .sel p => [(uni, p.num.toNat)]
    | .reg _ _ _ => [])

/-- Nothing that it names makes it trap or wait (R51, R159), and it executes at the core. -/
structure Cross.Clear (s : State) (t : Team) (x : Cross) : Prop where
  placed : ∀ y ∈ x.regs, ∀ k ∈ regNums y.1 y.2, k < 254 ∧ (s.entry t k).kind = (s.entry t y.1.toNat).kind
    ∧ ((s.entry t k).kind = .lane ∨ (s.entry t k).kind = .team)
  ready  : ∀ e ∈ t.pend, t.own e.1 = true → ∀ y ∈ x.regs, e.2.toNat ∉ regNums y.1 y.2
  readyP : ∀ e ∈ t.pendP, t.own e.1 = true → ∀ p ∈ x.preds (!x.atLane s t), e.2 ≠ predKey p.1 p.2
  dest   : x.lane = true → x.atLane s t = true
  shape  : x.atLane s t = false → x.gathers = false → ∀ y ∈ x.form.srcs, srcAtLane s t y = false
  unis   : ∀ i ∈ x.uniform, ∀ y, x.form.srcs[i]? = some y → srcAtLane s t y = false
  mask   : ∀ r n, x.dst2 = some (.reg r n) → Reg.noName r = true ∨ (s.entry t r.toNat).kind = .team
  quiet  : s.Quiet t

/-- The present lanes as an instruction sees them (R159): those of Active(T) take part, or all of them where
the destination is uniform. -/
def State.seen (s : State) (t : Team) (x : Cross) (uni : Bool) : List LaneIn :=
  t.current.map (fun l => { vid := l.vid, slot := l.slot, act := uni || lanePred l x.form.pred
                            ops := x.form.srcs.map (s.laneSrc t l) })

/-- A lane with its result and its flag written. -/
def Lane.putOut (l : Lane) (x : Cross) (o : LaneOut) : Lane :=
  let l := l.put x.form.dst o.val
  match x.dst2 with
  | some (.pcode c) => if pcodeQ c then l else setLaneP l (pcodeNum c) o.flag
  | _ => l

/-- Registers and q predicates that the second destination names. -/
def Cross.regs2 (x : Cross) : List Nat := x.dst2.elim [] Dst.uniRegs
def Cross.qs2 (x : Cross) : List Nat := x.dst2.elim [] Dst.uniQs

/-- The second destination, where it is uniform, holds the flag or the absent mask. -/
def State.Holds2 (s' : State) (t : Team) (x : Cross) (flag : Bool) (absent : DWord) : Prop :=
  match x.dst2 with
  | none => True
  | some (.pcode c) => pcodeQ c = false ∨ pcodeNum c = 0 ∨ s'.qVal t (pcodeNum c) = flag
  | some (.reg r _) => r = Reg.z ∨ s'.uniVal t r 1 = cut 1 absent

/-- The effect of an instruction over lanes: `out` gives, from what it sees, the result and flag of each lane that
takes part, the uniform result and flag, and sticky flags; `absent` the absent mask (R159, R161). With no active lane
at LANE there is no effect (R109). -/
structure Cross.Done (x : Cross) (out : Bool → List LaneIn → CrossOut) (absent : List LaneIn → DWord) (s s' : State)
    (t : Team) : Prop where
  frame : s.Frame s' t
  idle  : x.atLane s t = true → (∀ l ∈ s.seen t x false, l.act = false) → s.KeepsUni s' t [] [] ∧ s.MovedOn s' t t
  lanes : x.atLane s t = true → (∃ l ∈ s.seen t x false, l.act = true) → s.KeepsUni s' t x.regs2 x.qs2
    ∧ s'.Holds2 t x (out false (s.seen t x false)).flag (absent (s.seen t x false))
    ∧ s.MovedOn s' t { t with
      lanes := t.lanes.map (fun l => match (out false (s.seen t x false)).lanes.find? (fun o => o.vid == l.vid) with
        | some o => l.putOut x o
        | none => l)
      flags := t.flags ||| (out false (s.seen t x false)).flags }
  off   : x.atLane s t = false → s.qHolds t x.form.pred = false → s.KeepsUni s' t [] [] ∧ s.MovedOn s' t t
  on    : x.atLane s t = false → s.qHolds t x.form.pred = true →
    s.KeepsUni s' t (x.form.dst.uniRegs ++ x.regs2) (x.form.dst.uniQs ++ x.qs2)
    ∧ ((∀ k ∈ x.form.dst.uniRegs, k ∉ x.regs2) → (∀ k ∈ x.form.dst.uniQs, k ∉ x.qs2) →
      s'.UniHolds t x.form.dst (out true (s.seen t x true)).val)
    ∧ s'.Holds2 t x (out true (s.seen t x true)).flag (absent (s.seen t x true))
    ∧ s.MovedOn s' t { t with flags := t.flags ||| (out true (s.seen t x true)).flags }

end Sys2Proof.Machine
end

