-- ==== Sys2Proof/Certificates/Slice0/Obligations.lean ====
section
/-! DEFINITION. What is to be proved of the machine: statements from the numbered rules of spec/, and the
value formulas they are written with. -/

namespace Sys2Proof.Claims
open Sys2Proof.Machine

/-! ### Values -/

/-- Element `e` of `w` bits (R71). -/
def el (w e : Nat) (v : DWord) : BitVec w := v.extractLsb' (w * e) w

/-- The number that a bit pattern stands for (R116). -/
def num (sgn : Bool) {w : Nat} (b : BitVec w) : Int := if sgn then b.toInt else b.toNat

/-- The least and the greatest number of an integer type. -/
def least (w : Nat) (sgn : Bool) : Int := if sgn then -(2 : Int) ^ (w - 1) else 0
def greatest (w : Nat) (sgn : Bool) : Int := if sgn then (2 : Int) ^ (w - 1) - 1 else (2 : Int) ^ w - 1

/-- An exact result in a type: clamped with IOV under SAT, else modulo 2^w (R83, R116). -/
def fit (w : Nat) (sgn sat : Bool) (x : Int) : BitVec w × Flags :=
  if sat && decide (x < least w sgn) then (BitVec.ofInt w (least w sgn), fIOV)
  else if sat && decide (greatest w sgn < x) then (BitVec.ofInt w (greatest w sgn), fIOV)
  else (BitVec.ofInt w x, 0)

/-- A value of `n` elements of `w` bits, element 0 lowest (R71), with the flags of them all (R84). -/
def each (w n : Nat) (h : Nat → BitVec w × Flags) : DWord × Flags :=
  ((List.range n).foldl (fun v e => v ||| ((h e).1.setWidth 64 <<< (w * e))) 0,
    joinFlags ((List.range n).map (fun e => (h e).2)))

/-- One value of `w` bits. -/
def one {w : Nat} (x : BitVec w × Flags) : DWord × Flags := (x.1.setWidth 64, x.2)

/-- An operation on the elements of an integer type (R116). -/
def elemwise (ty : Ty) (sat : Bool) (x : Int → Int → Int → Int) (l : List DWord) : DWord × Flags :=
  let w := Ty.elemBits ty
  let v (i e : Nat) : Int := num (Ty.signed ty) (el w e (opAt l i))
  each w (Ty.elems ty) (fun e => fit w (Ty.signed ty) sat (x (v 0 e) (v 1 e) (v 2 e)))

/-- An exact 64-bit result of operands of the widths `wa`, `wb` and 64 (R117). -/
def wide (sgn sat : Bool) (wa wb : Nat) (x : Int → Int → Int → Int) (l : List DWord) : DWord × Flags :=
  one (fit 64 sgn sat (x (num sgn (el wa 0 (opAt l 0))) (num sgn (el wb 0 (opAt l 1))) (num sgn (opAt l 2))))

/-- Quotient rounded towards zero and remainder, with the cases of R83. -/
def divided (w : Nat) (sgn : Bool) (a b : BitVec w) : BitVec w × BitVec w × Flags :=
  if b = 0 then (BitVec.allOnes w, a, fDZ)
  else if sgn then
    if a = BitVec.intMin w ∧ b = BitVec.allOnes w then (a, 0, fIOV) else (a.sdiv b, a.srem b, 0)
  else (a.udiv b, a.umod b, 0)

/-- A shift of one element by the number `n` (R124). -/
inductive Shift where
  | shl | shr | sar | rot

def Shift.of (k : Shift) (clamp : Bool) {w : Nat} (a : BitVec w) (n : Nat) : BitVec w :=
  let n := if clamp then min n w else n % w
  match k with
  | .shl => a <<< n
  | .shr => a >>> n
  | .sar => a.sshiftRight n
  | .rot => a.rotateLeft n

/-- A shift of every element: the count is B's element, or all of B for a 32-bit or 64-bit type (R124). -/
def shifted (k : Shift) (clamp : Bool) (ty : Ty) (l : List DWord) : DWord × Flags :=
  let w := Ty.elemBits ty
  let wb := if Ty.elems ty = 1 then 32 else w
  each w (Ty.elems ty) (fun e => (k.of clamp (el w e (opAt l 0)) (el wb e (opAt l 1)).toNat, 0))

/-- The number of set bits. -/
def ones {w : Nat} (b : BitVec w) : Nat := (List.range w).countP (fun i => b.getLsbD i)

/-- Bits `f` of a value of `w` bits. -/
def ofBits (w : Nat) (f : Nat → Bool) : BitVec w := BitVec.ofNat w ((List.range w).foldl (fun n i => n + if f i then 2 ^ i else 0) 0)

/-- The field of `bfe` (R126). -/
def extracted (ty : Ty) (l : List DWord) : DWord × Flags :=
  let w := Ty.elemBits ty
  let a := el w 0 (opAt l 0)
  let pos := (el 8 0 (opAt l 1)).toNat
  let len := min (el 8 0 (opAt l 2)).toNat w
  let f (i : Nat) : Bool := decide (pos + i < w) && a.getLsbD (pos + i)
  let top (i : Nat) : Nat := if Ty.signed ty && decide (len ≤ i) then len - 1 else i
  one (ofBits w (fun i => decide (0 < len) && decide (top i < len) && f (top i)), 0)

/-- The result of `bfi`; operand 3 is D (R126). -/
def inserted (ty : Ty) (l : List DWord) : DWord × Flags :=
  let w := Ty.elemBits ty
  let a := el w 0 (opAt l 0)
  let pos := (el 8 0 (opAt l 1)).toNat
  let len := min (el 8 0 (opAt l 2)).toNat w
  one (ofBits w (fun i => if pos ≤ i ∧ i < pos + len then a.getLsbD (i - pos) else (el w 0 (opAt l 3)).getLsbD i), 0)

/-- The carry-less product (R127). -/
def carryless (l : List DWord) : DWord × Flags :=
  ((List.range 32).foldl (fun x i => if (opAt l 1).getLsbD i then x ^^^ (((opAt l 0).setWidth 32).setWidth 64 <<< i) else x)
    0, 0)

/-- The comparison of `icmp` (R131). -/
def compared (c : ICond) (ty : Ty) (l : List DWord) : Bool :=
  let w := Ty.elemBits ty
  let a := el w 0 (opAt l 0)
  let b := el w 0 (opAt l 1)
  let x := num (Ty.signed ty) a
  let y := num (Ty.signed ty) b
  match c with
  | .eq => a == b
  | .ne => a != b
  | .lt => decide (x < y)
  | .le => decide (x ≤ y)
  | .gt => decide (y < x)
  | .ge => decide (y ≤ x)
  | .tst => a &&& b != 0
  | .ntst => a &&& b == 0

/-- A truth value as a result. -/
def truth (b : Bool) : DWord := if b then 1 else 0

/-! ### Floating point -/

/-- The rational number of a finite value. -/
def rat : FVal → ℚ
  | .fin neg m e => (if neg then -1 else 1) * (m : ℚ) * (2 : ℚ) ^ e
  | _ => 0

/-- A value is finite. -/
def finite : FVal → Bool
  | .fin _ _ _ => true
  | _ => false

/-- The comparison of `fcmp` with its NV (R132). -/
def fcompared (c : FCond) (ty : Ty) (l : List DWord) : DWord × Flags :=
  let a := (tyFmt ty).val (el (Ty.elemBits ty) 0 (opAt l 0)).toNat
  let b := (tyFmt ty).val (el (Ty.elemBits ty) 0 (opAt l 1)).toNat
  let un := a.isNan || b.isNan
  let sig := Flags.when (a.isSig || b.isSig) fNV
  let any := Flags.when un fNV
  let lt (a b : FVal) : Bool := match a, b with
    | .inf s, .inf t => s && !t
    | .inf s, _ => s
    | _, .inf t => !t
    | a, b => decide (rat a < rat b)
  let eq : Bool := match a, b with
    | .inf s, .inf t => s == t
    | .fin _ _ _, .fin _ _ _ => decide (rat a = rat b)
    | _, _ => false
  match c with
  | .eq => (truth (!un && eq), sig)
  | .ne => (truth (un || !eq), sig)
  | .lt => (truth (!un && lt a b), any)
  | .le => (truth (!un && (lt a b || eq)), any)
  | .gt => (truth (!un && lt b a), any)
  | .ge => (truth (!un && (lt b a || eq)), any)
  | .ord => (truth (!un), sig)
  | .uno => (truth un, sig)

/-- `a` stands before `b` in the order of R80, where −0 stands before +0. -/
def before (a b : FVal) : Bool := match a, b with
  | .inf s, .inf t => s && !t
  | .inf s, _ => s
  | _, .inf t => !t
  | a, b => decide (rat a < rat b) || (decide (rat a = rat b) && a.neg? && !b.neg?)

/-- The integer next to a number in the sense of a mode; RN takes the even one of two (R77). -/
def toInteger (r : Rnd) (x : ℚ) : Int :=
  match r with
  | .rz => if x < 0 then ⌈x⌉ else ⌊x⌋
  | .ru => ⌈x⌉
  | .rd => ⌊x⌋
  | .rn => if x - ⌊x⌋ < 1 / 2 ∨ (x - ⌊x⌋ = 1 / 2 ∧ ⌊x⌋ % 2 = 0) then ⌊x⌋ else ⌊x⌋ + 1

/-- The bits `x` rounded to an integral value (R150): NaN is made quiet, infinities and integers stay. -/
def Integral (f : FFmt) (r : Rnd) (exact : Bool) (x : Nat) (o : Nat × Flags) : Prop :=
  let a := f.val x
  (∀ sig, a = .nan sig → o = (f.nanBits, Flags.when sig fNV))
  ∧ (∀ s, a = .inf s → o = (x, 0))
  ∧ (finite a = true → (rat a = toInteger r (rat a) → o = (x, 0))
    ∧ (rat a ≠ toInteger r (rat a) → finite (f.val o.1) = true ∧ rat (f.val o.1) = toInteger r (rat a)
      ∧ (f.val o.1).neg? = a.neg? ∧ o.2 = Flags.when exact fNX))

/-- The class mask of R151. -/
def classOf (f : FFmt) (a : FVal) : Nat :=
  match a with
  | .nan sig => if sig then 2 ^ 0 else 2 ^ 1
  | .inf s => if s then 2 ^ 2 else 2 ^ 9
  | a => if rat a = 0 then (if a.neg? then 2 ^ 5 else 2 ^ 6)
    else if |rat a| < 2 ^ f.emin then (if a.neg? then 2 ^ 4 else 2 ^ 7)
    else if a.neg? then 2 ^ 3 else 2 ^ 8

/-- What R88's table says of a special function at the bits `x`: NaN and special values, exact cases, and for the
reciprocal where NX is set. -/
def Special (fn : SFn) (f : FFmt) (x : Nat) (o : Nat × Flags) : Prop :=
  let a := f.val x
  let q := rat a
  let invalid : Prop := o = (f.nanBits, fNV)
  let is (v : ℚ) : Prop := finite (f.val o.1) = true ∧ rat (f.val o.1) = v ∧ o.2 = 0
  let zero (s : Bool) : Prop := is 0 ∧ (f.val o.1).neg? = s
  let infinite (s : Bool) (fl : Flags) : Prop := f.val o.1 = .inf s ∧ o.2 = fl
  let top : Int := f.bias
  (∀ sig, a = .nan sig → o = (f.nanBits, Flags.when sig fNV))
  ∧ match fn with
    | .rcp => (finite a = true → q = 0 → infinite a.neg? fDZ) ∧ (∀ s, a = .inf s → zero s)
      ∧ (finite a = true → ∀ k : ℤ, |q| = 2 ^ k → -top < k → k < top → is (1 / q))
      ∧ (finite a = true → finite (f.val o.1) = true → (o.2 &&& fNX = 0 ↔ rat (f.val o.1) * q = 1))
    | .rsq => (finite a = true → q = 0 → infinite a.neg? fDZ) ∧ (finite a = true → q < 0 → invalid)
      ∧ (a = .inf true → invalid) ∧ (a = .inf false → zero false)
      ∧ (finite a = true → ∀ k : ℤ, q = 4 ^ k → is (2 ^ (-k)))
    | .sqrt => (finite a = true → q = 0 → o = (x, 0)) ∧ (finite a = true → q < 0 → invalid)
      ∧ (a = .inf true → invalid) ∧ (a = .inf false → infinite false 0)
      ∧ (finite a = true → ∀ v : ℚ, 0 ≤ v → q = v * v → is v)
    | .exp2 => (a = .inf true → zero false) ∧ (a = .inf false → infinite false 0)
      ∧ (finite a = true → ∀ k : ℤ, q = k → f.qmin ≤ k → k ≤ top → is (2 ^ k))
      ∧ (finite a = true → top + 1 ≤ q → infinite false (fOF ||| fNX))
    | .log2 => (finite a = true → q = 0 → infinite true fDZ) ∧ (finite a = true → q < 0 → invalid)
      ∧ (a = .inf true → invalid) ∧ (a = .inf false → infinite false 0)
      ∧ (finite a = true → ∀ k : ℤ, q = 2 ^ k → is k ∧ (k = 0 → (f.val o.1).neg? = false))
    | .sin => (∀ s, a = .inf s → invalid) ∧ (finite a = true → q = 0 → o = (x, 0))
    | .cos => (∀ s, a = .inf s → invalid) ∧ (finite a = true → q = 0 → is 1)
    | .tanh => (∀ s, a = .inf s → is (if s then -1 else 1)) ∧ (finite a = true → q = 0 → o = (x, 0))

/-- Elements of a floating-point type (R148). -/
def feach (ty : Ty) (h : FFmt → (Nat → FVal) → Nat × Flags) (l : List DWord) : DWord × Flags :=
  let w := Ty.elemBits ty
  each w (Ty.elems ty) (fun e =>
    let r := h (tyFmt ty) (fun i => (tyFmt ty).val (el w e (opAt l i)).toNat)
    (BitVec.ofNat w r.1, r.2))

/-- Elements of a floating-point type, on the bits of A. -/
def feachBits (ty : Ty) (h : FFmt → Nat → Nat × Flags) (l : List DWord) : DWord × Flags :=
  let w := Ty.elemBits ty
  each w (Ty.elems ty) (fun e =>
    let r := h (tyFmt ty) (el w e (opAt l 0)).toNat
    (BitVec.ofNat w r.1, r.2))

/-! ### Forms -/

/-- D, A and B of one type (R115, R122, R147). -/
def bin (o : F3) : Form :=
  ⟨o.p, .reg o.d (Ty.regs o.ty), [.reg o.a (Ty.regs o.ty) (litVal o.ty o.imm), .reg o.b (Ty.regs o.ty) (litVal o.ty o.imm)]⟩

/-- D, A, B and C of one type. -/
def tern (o : F3) : Form := { bin o with srcs := (bin o).srcs ++ [.reg o.c (Ty.regs o.ty) (litVal o.ty o.imm)] }

/-- D of `n` registers, A of the type. -/
def unary (o : F3) (n : Nat) : Form := ⟨o.p, .reg o.d n, [.reg o.a (Ty.regs o.ty) (litVal o.ty o.imm)]⟩

/-- A literal that stands for one 32-bit register, whatever TYPE is (R104, R117, R124). -/
def word32 (o : F3) : DWord := litVal (if Ty.elems o.ty = 1 then (if Ty.signed o.ty then .i32 else .n32) else o.ty) o.imm

/-- The 64-bit type of the signedness of TYPE. -/
def pairTy (o : F3) : Ty := if Ty.signed o.ty then .i64 else .n64

/-- An instruction whose effect is that of its form with the values `g`: wherever nothing makes it trap, a
team that has its turn completes it. -/
def Computes (i : Instr) (f : Form) (g : List DWord → DWord × Flags) : Prop :=
  ∀ s t, i.wf = true → s.Runs t → f.Clear s t → ∃ s', exec i s = .next s' ∧ f.Done g s s' t

/-! ### Over the lanes of a team -/

/-- An instruction over lanes completes with the results `out`, wherever nothing makes it trap. -/
def Sweeps (i : Instr) (x : Cross) (ok : State → Team → Prop) (out : Bool → List LaneIn → CrossOut) : Prop :=
  ∀ s t, i.wf = true → s.Runs t → x.Clear s t → ok s t → ∃ s', exec i s = .next s'
    ∧ x.Done out (fun ls =>
      let e0 := (s.launchOf t).e0
      ofBits 64 (fun w => decide (w < 32) && (List.range 32).any (fun j =>
        decide (32 * w + j < e0) && !ls.any (fun l => l.vid == 32 * w + j)))) s s' t

/-- No condition beyond `Cross.Clear`. -/
def always (_ : State) (_ : Team) : Prop := True

/-- Results of the lanes that take part. -/
def acting (h : LaneIn → DWord × Bool) (fl : Flags) (ls : List LaneIn) : CrossOut :=
  ⟨(ls.filter (fun l => l.act)).map (fun l => ⟨l.vid, (h l).1, (h l).2⟩), 0, false, fl⟩

/-- One result, for the uniform destination or for every lane that takes part. -/
def alike (v : DWord) (b : Bool) (fl : Flags) (ls : List LaneIn) : CrossOut :=
  { acting (fun _ => (v, b)) fl ls with val := v, flag := b }

/-- The value of operand 0 in the lane of virtual id `q`, where it is present. -/
def ofMember (ls : List LaneIn) (q : Nat) : Option DWord := (ls.find? (fun l => l.vid == q)).map (fun l => opAt l.ops 0)

/-- The members 32·(v div 32) + j of a lane's group with a property, as bits j. -/
def among (ls : List LaneIn) (v : Nat) (p : LaneIn → Bool) : DWord :=
  ofBits 64 (fun j => decide (j < 32) && ((ls.find? (fun l => l.vid == 32 * (v / 32) + j)).map p).getD false)

/-- A combination of values in their order (R163); a float value that stands alone is a result as well (R79). -/
def combined (op : ROp) (ty : Ty) (rnd : Rnd) (sat : Bool) (vs : List DWord) : DWord × Flags :=
  let w := Ty.elemBits ty
  match vs.map (fun v => el w 0 v) with
  | [] => match op with
    | .add | .or | .xor => (0, 0)
    | .and => ((BitVec.allOnes w).setWidth 64, 0)
    | .min => (if Ty.isFloat ty then 0x7F80_0000 else (BitVec.ofInt w (greatest w (Ty.signed ty))).setWidth 64, 0)
    | .max => (if Ty.isFloat ty then 0xFF80_0000 else (BitVec.ofInt w (least w (Ty.signed ty))).setWidth 64, 0)
  | x :: xs =>
    if Ty.isFloat ty then
      let r := xs.foldl (fun (a : Nat × Flags) y =>
        let z := match op with
          | .add => ffF32.roundX rnd false (FVal.sum rnd [ffF32.val a.1, ffF32.val y.toNat])
          | .min => ffF32.minmax false a.1 y.toNat
          | _ => ffF32.minmax true a.1 y.toNat
        (z.1, a.2 ||| z.2)) (ffF32.canon x.toNat)
      (BitVec.ofNat 64 r.1, r.2)
    else
      let n (y : BitVec w) : Int := num (Ty.signed ty) y
      match op with
      | .add => one (fit w (Ty.signed ty) sat (xs.foldl (fun a y => a + n y) (n x)))
      | .min => one (fit w (Ty.signed ty) false (xs.foldl (fun a y => min a (n y)) (n x)))
      | .max => one (fit w (Ty.signed ty) false (xs.foldl (fun a y => max a (n y)) (n x)))
      | .and => one (xs.foldl (fun a y => a &&& y) x, 0)
      | .or => one (xs.foldl (fun a y => a ||| y) x, 0)
      | .xor => one (xs.foldl (fun a y => a ^^^ y) x, 0)

/-- Results at the participants in ascending virtual id, each a combination of the values of those at the
places `part` names for it. -/
def scanned (op : ROp) (ty : Ty) (rnd : Rnd) (sat : Bool) (part : List LaneIn → Nat → List LaneIn) (ls : List LaneIn) :
    CrossOut :=
  let ps := participants false ls
  let v (k : Nat) : DWord × Flags := combined op ty rnd sat ((part ps k).map (fun l => opAt l.ops 0))
  ⟨ps.zipIdx.map (fun x => ⟨x.1.vid, (v x.2).1, false⟩), 0, false, joinFlags ((List.range ps.length).map (fun k => (v k).2))⟩

/-- The place where the segment of place `k` starts, and the place where the next one starts (R163). -/
def segStart (head : LaneIn → Bool) (ps : List LaneIn) (k : Nat) : Nat :=
  ((List.range (k + 1)).reverse.find? (fun j => j == 0 || (ps[j]?).elim false head)).getD 0
def segEnd (head : LaneIn → Bool) (ps : List LaneIn) (k : Nat) : Nat :=
  ((List.range ps.length).find? (fun j => decide (k < j) && (ps[j]?).elim false head)).getD ps.length

/-! ### A team at its next instruction -/

/-- What a control instruction reads makes it neither trap nor wait (R146): its registers lie at TEAM and are not
pending, nor is its q predicate, and each has one value to read (R17). -/
structure UniClear (s : State) (t : Team) (rs : List (Reg × Nat)) (p : Pred) : Prop where
  placed : ∀ x ∈ rs, ∀ k ∈ regNums x.1 x.2, k < 254 ∧ (s.entry t k).kind = .team
  ready  : ∀ e ∈ t.pend, t.own e.1 = true → ∀ x ∈ rs, e.2.toNat ∉ regNums x.1 x.2
  readyP : ∀ e ∈ t.pendP, t.own e.1 = true → e.2 ≠ predKey true p.num.toNat
  quiet  : s.Quiet t

/-- The address of the clause header after the present clause (R95). -/
def nextClause (t : Team) : DWord := t.pc + 8 * BitVec.ofNat 64 (1 + t.clause.length)

/-- The target of a branch (R107). -/
def target (t : Team) (off : Word) : DWord := t.pc + 8 * off.signExtend 64

/-- The team about to fetch the clause at `pc`, the one it was in retired (R95, R98). -/
def atClause (s : State) (t : Team) (pc : DWord) : Team :=
  { t with pc := pc, word := 0, clause := [], loaded := false, tested := false, waiting := false, stall := none
           bar := none, retired := t.retired + 1, last := s.stamp }

/-- Only the team itself changes: it is now `t'`. -/
structure Alone (s s' : State) (t t' : Team) (rs : List Nat) : Prop where
  frame : s.Frame s' t
  uni   : s.KeepsUni s' t rs []
  team  : s'.team? t.ctx = some t'

/-- The team waits at its instruction (R37); in a serial fallback its path gives way to the next one, where that may
run (R21). -/
def Waits (s s' : State) (t : Team) : Prop :=
  (t.inFallback = false → Alone s s' t { t with waiting := true } [])
  ∧ ∀ p q ps d, t.div = .fallback (p :: q :: ps) :: d → q.done = false → q.few = none → Alone s s' t { t with
      pc := q.pc, word := q.word, clause := q.clause, loaded := q.loaded, tested := q.tested, waiting := q.held
      stall := none, bar := q.bar
      div := .fallback (q :: ps ++ [{ p with
        pc := t.pc, word := t.word, clause := t.clause, loaded := t.loaded, tested := t.tested, held := true, bar := t.bar }]) :: d } []

/-- The machine as it was, but for what the model keeps of a step that is tried (log entry 22). -/
def untried (s s' : State) : State := { s with holds := s'.holds, trips := s'.trips }

/-- A team without what it awaits of barrier objects (R199). -/
def unbarred (t : Team) : Team := { t with
  bar := none
  div := t.div.map (fun e => match e with
    | .fallback ps => .fallback (ps.map (fun p => { p with bar := none }))
    | .split i k => .split i k) }

/-- The team is in the middle of an instruction that sweeps its lanes, where a halt may cut it (R69). -/
def Sweeping (s : State) (t : Team) : Prop :=
  (s.core (s.coreOf t)).running = some t.ctx ∧ t.parked = .no ∧ t.waiting = false
  ∧ ∃ i d, t.here = some i ∧ descOf i = some d ∧ s.execLoc t d = .lane

/-- A zone whose flow sensor gives a value (R369). -/
def watched (k : Zone) (now flow : Nat) : Zone := { k with
  flow := BitVec.ofNat 8 flow
  lowAt := if 5 * flow < k.setpt.toNat then some (k.lowAt.getD now) else none
  okAt := if 4 * k.setpt.toNat ≤ 5 * flow then some (k.okAt.getD now) else none }

/-- The position past an instruction of one word (R256). -/
def pastWord (t : Team) : DWord × Nat :=
  if t.loaded = true ∧ t.clause.length ≤ t.word + 1 then (nextClause t, 0) else (t.pc, t.word + 1)

/-- A user trap is taken (R255): `pc` and `word` are those of the record and of `rfh`, `spc` and `sword` those of
`rfh.skip`. Every byte of memory, and of scratchpads outside the 160 bytes of the record, is as it was. -/
structure Trapped (s s' : State) (t : Team) (c : Cause) (cause : Nat) (addr : DWord) (code : Word) (pc : DWord) (word : Nat)
    (spc : DWord) (sword : Nat) (tested : Bool) : Prop where
  team : s'.team? t.ctx = some { t with
    pc := t.handler.addr, word := 0, clause := [], loaded := false, tested := false, waiting := false, parked := .no
    stall := none, bar := none, last := s.stamp
    handler := { t.handler with
      mode := true, mask := true, nest := t.handler.mode, pc := pc, word := word, spc := spc, sword := sword
      tested := tested, lanes := t.lanes.map (fun l => l.slot), cause := some c, taddr := addr, code := code
      eng := false, kept := none } }
  record : (s'.group t.group).spadNum t.handler.off.toNat 160 =
    (pc.toNat + word % 256 * 2 ^ 64 + cause * 2 ^ 80 + (if t.handler.mode then 2 ^ 88 else 0) + code.toNat * 2 ^ 96
      + addr.toNat * 2 ^ 128 + (t.lanes.map (fun l => 2 ^ l.slot)).sum * 2 ^ 256) % 2 ^ 1280
  outside : ∀ a, (a < t.handler.off.toNat ∨ t.handler.off.toNat + 160 ≤ a) →
    (s'.group t.group).spad.read a = (s.group t.group).spad.read a
  groups : ∀ g, g ≠ t.group → s'.group g = s.group g
  teams : ∀ k, k ≠ t.ctx → s'.team? k = s.team? k
  rest : s' = { s with teams := s'.teams, groups := s'.groups, cores := s'.cores, stamp := s'.stamp }

/-! ### Memory instructions -/

/-- A memory instruction executes at LANE: where DATA lies, at TEAM with DATA `z`, or where BASE lies for one without
DATA (R48, R171, R174). -/
def memAtLane (s : State) (t : Team) (m : MemDesc) : Bool :=
  let r := if m.rule = .none then m.o.base else m.o.data
  !Reg.noName r && (s.entry t r.toNat).kind == .lane

/-- Nothing that a memory instruction names makes it trap or wait (R51, R171), and it issues at the core. -/
structure MemClear (s : State) (t : Team) (m : MemDesc) : Prop where
  placed : ∀ x ∈ m.names, ∀ k ∈ regNums x.1 x.2, k < 254 ∧ (s.entry t k).kind = (s.entry t x.1.toNat).kind
    ∧ ((s.entry t k).kind = .lane ∨ (s.entry t k).kind = .team)
  ready  : ∀ e ∈ t.pend, t.own e.1 = true → ∀ x ∈ m.names, e.2.toNat ∉ regNums x.1 x.2
  readyP : ∀ e ∈ t.pendP, t.own e.1 = true → e.2 ≠ predKey (!memAtLane s t m) m.o.p.num.toNat
  data   : (m.rule = .lane → Reg.noName m.o.data = true ∨ memAtLane s t m = true) ∧ (m.rule = .uniform → memAtLane s t m = false)
  shape  : memAtLane s t m = false → Reg.noName m.o.base = true ∨ (s.entry t m.o.base.toNat).kind = .team
  quiet  : s.Quiet t

/-- BASE as a lane sees it, and as the uniform unit does (R106, R175). -/
def baseOf (s : State) (t : Team) (m : MemDesc) (l : Lane) : DWord :=
  if !Reg.noName m.o.base && (s.entry t m.o.base.toNat).kind == .lane then laneRegs l m.o.base m.baseRegs
  else s.uniVal t m.o.base m.baseRegs

/-- An address that neither ALIGN nor CPEER stops (R168, R175). -/
def reachable (s : State) (t : Team) (m : MemDesc) (base : DWord) : Prop :=
  (m.ea base).toNat % 2 ^ 32 % m.size = 0 ∧ s.peerBad t.group m base = none

/-- A memory instruction has issued for the lanes `ls` (R57, R59, R61, R65): its counter is raised, it takes a
sequence number and joins the replay set, the registers that it will write are pending, its requests are on their
way, and a FEW load parks the team (R177). Nothing else has changed: no register, no byte of memory. -/
def Sent (i : Instr) (m : MemDesc) (uni : Bool) (ls : List PLane) (s s' : State) (t : Team) : Prop :=
  let few := m.o.few && m.kind.reads
  (∃ sends k, s'.team? t.ctx = some { (t.raise (m.ctr false)).advance 1 with
    seq := t.seq + 1
    replay := t.replay ++ [t.packet i .core (m.ctr false) uni ls []]
    pend := t.pend ++ m.pend.map (fun r => ([], BitVec.ofNat 8 r))
    sends := sends
    parked := if few then .few else t.parked
    last := k })
  ∧ (∃ rs, s'.reqs = s.reqs ++ rs ∧ (rs.flatMap (fun r => r.lanes)).Perm ls ∧ ∀ r ∈ rs,
      r.orphan = false ∧ r.instr = i ∧ r.ctx = t.ctx ∧ r.fam = t.fam ∧ r.group = t.group ∧ r.gen = t.gen ∧ r.seq = t.seq
      ∧ r.op = .access ∧ r.uniform = uni ∧ r.inst = .core)
  ∧ s'.mem = s.mem ∧ s'.groups = s.groups ∧ s'.fams = s.fams ∧ ∀ c, c ≠ t.ctx → s'.team? c = s.team? c

/-- Nothing holds request number `n`, which is `r`, of packet `pk` of team `t`, at its target (R52, R62, R63). -/
structure Taken (s : State) (n : Nat) (r : Req) (t : Team) (pk : Packet) : Prop where
  req    : s.reqs[n]? = some r
  mine   : r.orphan = false
  team   : s.team? r.ctx = some t
  own    : t.ctx = r.ctx
  packet : t.pk? r.seq = some pk
  young  : s.outdated t r = false
  kept   : s.discarded r = false
  way    : r.route = []
  fresh  : s.recordsOf r = []
  room   : s.windowOf r < 256
  order  : s.heldByOrder n r = false
  lace   : s.heldByLace r = false
  group  : r.group = t.group

/-- The last lane in ascending order that covers an offset (R169). -/
def coveredBy (off : PLane → Nat) (size : Nat) (ls : List PLane) (a : Nat) : Option PLane :=
  ls.reverse.find? (fun l => decide (off l ≤ a) && decide (a < off l + size))

/-! ### Synchronisation -/

/-- The team has gone on past a synchronising instruction: its lanes have opened new regions of race detection,
and nothing else of it has changed (R273). -/
def SyncedOn (_ s' : State) (t : Team) : Prop := ∃ ls k a, s'.team? t.ctx = some { t.advance 1 with lanes := ls, acq := a, last := k }
  ∧ ls.map (fun l => { l with opened := [], blind := [] }) = t.lanes.map (fun l => { l with opened := [], blind := [] })

/-- So it has past a change of a barrier object, which its own paths may await too (R199). -/
def ChangedOn (_ s' : State) (t : Team) : Prop := ∃ u ls k a, s'.team? t.ctx = some u
  ∧ unbarred u = unbarred { t.advance 1 with lanes := ls, acq := a, last := k }
  ∧ ls.map (fun l => { l with opened := [], blind := [] }) = t.lanes.map (fun l => { l with opened := [], blind := [] })

/-- Other teams are as they were but for their waits at barrier objects. -/
def OthersKept (s s' : State) (t : Team) : Prop :=
  ∀ c, c ≠ t.ctx → (s'.team? c).map unbarred = (s.team? c).map unbarred

/-- A release of a scope finds no dirty sector that it must write back (R263). -/
def Written (s : State) (c : Nat) (sc : Scope) : Prop :=
  scopeRank sc < 2 ∨ ∀ e ∈ (s.core c).l1, e.2.dirty = [] ∨ scopeRank sc ≤ scopeRank e.2.scope

/-- Fields of a barrier object's 128 bits (R196). -/
structure Object where
  gen : Nat
  expect : Nat
  pend : Nat
  abandoned : Nat
  init : Nat
  inb : Nat
  outb : Nat
deriving DecidableEq, Repr

def Object.of (v : Nat) : Object :=
  { gen := v / 2 ^ 124 % 16, expect := v / 2 ^ 112 % 2 ^ 12, pend := v / 2 ^ 100 % 2 ^ 12, abandoned := v / 2 ^ 99 % 2
    init := v / 2 ^ 98 % 2, inb := v / 2 ^ 48 % 2 ^ 48, outb := v % 2 ^ 48 }

/-- The test that follows every change (R196). -/
def Object.tested (o : Object) : Object :=
  if o.pend = 0 ∧ o.inb = 0 ∧ o.outb = 0 then { o with gen := (o.gen + 1) % 16, pend := o.expect } else o

/-- The object at an offset of the team's scratchpad. -/
def objectAt (s : State) (t : Team) (off : Nat) : Object := Object.of (leNat (Mem.readN (s.group t.group).spad off 16))

/-- Outside the 16 bytes of an object, and in the scratchpads of other groups, every byte is as it was. -/
def SpadElsewhere (s s' : State) (t : Team) (off : Nat) : Prop :=
  (∀ a, (a < off ∨ off + 16 ≤ a) → (s'.group t.group).spad.read a = (s.group t.group).spad.read a)
  ∧ ∀ h, h ≠ t.group → s'.group h = s.group h

/-- Every register but those of `rs` lives where it did. -/
def PlacesKept (s s' : State) (t : Team) (rs : List Nat) : Prop :=
  ∀ k, k ∉ rs → s'.entry t k = s.entry t k

/-! ### Rounding -/

/-- The six formats (R70). -/
def formats : List FFmt := [ffF64, ffF32, ffF16, ffBF16, ffE5M2, ffE4M3]

/-- `o` is the number `x`, which is not 0, rounded once to a format (R77, R78, R81): without overflow the
nearest number of the format in the sense of the mode, of two that are equally near the one with an even last
place, NX where it is not exact; with overflow what the table of R81 gives, and only beyond the largest number. -/
structure RoundedTo (f : FFmt) (r : Rnd) (sat : Bool) (x : ℚ) (o : Nat × Flags) : Prop where
  width    : o.1 < 2 ^ f.width
  near     : o.2 &&& fOF = 0 → finite (f.val o.1) = true ∧ o.1 / 2 ^ (f.width - 1) = (if x < 0 then 1 else 0)
    ∧ (o.2 &&& fNX = 0 ↔ rat (f.val o.1) = x) ∧ ∀ b, finite (f.val b) = true →
    let v := rat (f.val o.1)
    let y := rat (f.val b)
    match r with
    | .rn => |x - v| ≤ |x - y| ∧ (|x - v| = |x - y| → y ≠ v → o.1 % 2 = 0)
    | .rz => |v| ≤ |x| ∧ (|y| ≤ |x| → |y| ≤ |v|)
    | .ru => x ≤ v ∧ (x ≤ y → v ≤ y)
    | .rd => v ≤ x ∧ (y ≤ x → y ≤ v)
  beyond   : o.2 &&& fOF ≠ 0 → rat (f.val f.maxBits) < |x| ∧ o.2 &&& fNX ≠ 0
    ∧ o.1 = (if sat then f.maxBits + (if x < 0 then 2 ^ (f.width - 1) else 0)
      else if f.e4m3 then f.nanBits
      else (if r = .rn ∨ (r = .ru ∧ 0 < x) ∨ (r = .rd ∧ x < 0) then f.infBits else f.maxBits)
        + (if x < 0 then 2 ^ (f.width - 1) else 0))

/-- A team that may issue (R35, R36): its core runs it in a window, it is not parked and has a lane. -/
structure Issues (s : State) (t : Team) : Prop where
  running : (s.core (s.coreOf t)).running = some t.ctx
  window  : s.windowOver (s.coreOf t) = false
  clocked : s.coreOff (s.coreOf t) = false
  woken   : (s.core (s.coreOf t)).gated = false
  resides : s.isSaved t.group = false
  parked  : t.parked = .no
  lanes   : t.lanes ≠ []

/-! ### The matrix array -/

/-- A matrix instruction. -/
def isMatrix : Instr → Bool
  | .mlds _ | .mldsBar _ _ | .mswap _ | .mloop _ | .mdrain _ | .mzero _ | .mcomp _ | .mfuse _ | .mread _ | .mstat _ _ => true
  | _ => false

/-- No register of a matrix instruction makes it trap or wait (R51, R211, R233, R234). -/
structure MatClear (s : State) (t : Team) (i : Instr) : Prop where
  addrs : ∀ n, some n ∈ matRegs i → (s.entry t n.toNat).kind = .team ∧ (s.entry t (n.toNat + 1)).kind = .team
  dest  : ∀ d, matDst i = some d → ∀ k ∈ regNums d.1 d.2, k < 254 ∧ (s.entry t k).kind = (s.entry t d.1.toNat).kind
    ∧ ((s.entry t k).kind = .lane ∨ (s.entry t k).kind = .team ∧ ∃ q, i = .mstat q d.1)
  ready : ∀ e ∈ t.pend, t.own e.1 = true → (∀ n, some n ∈ matRegs i → e.2.toNat ≠ n.toNat ∧ e.2.toNat ≠ n.toNat + 1)
    ∧ ∀ d, matDst i = some d → e.2.toNat ∉ regNums d.1 d.2
  quiet : s.Quiet t
  held  : s.holds = .off

/-- The addresses in the registers of a matrix instruction. -/
def matAddrVals (s : State) (t : Team) (i : Instr) : List DWord :=
  (matRegs i).map (fun r => r.elim 0 (fun n => s.uniVal t (n.setWidth 8) 2))

/-- An address of the local window, at offset `off` of a scratchpad (R167). -/
def localAddr (off : Nat) : DWord := 0xFE00_0000_0000_0000 ||| BitVec.ofNat 64 off

/-- `n` bytes at offset `off` lie in the allocation, and none is poisoned (R353). -/
def Sound (m : Group) (off n : Nat) : Prop := off + n ≤ m.spadLen ∧ off < 2 ^ 32 ∧ m.poisoned off n = false

/-- The entry at the head of quadrant `q`'s queue, whose instruction has issued, started and met no fault; no access
of its team is in flight (R215). -/
structure Working (s : State) (g q : Nat) (e : QEnt) (x : Quad) : Prop where
  quad    : Tbl.get? (s.group g).quads q = some x
  head    : x.queue.head? = some e
  started : e.started = true
  free    : s.entHeld e = false
  held    : s.holds = .off
  first   : ∀ r ∈ s.reqs, ∀ c n k, e.issuer = .team c n k → r.ctx ≠ c

/-- An instruction of a team has completed (R65, R214): its counter has fallen, its packet is gone from the replay set,
and no entry of it stands in any queue. -/
def MatDone (_ s' : State) (g : Nat) (e : QEnt) (t : Team) (p : Packet) : Prop :=
  (∃ t', s'.team? t.ctx = some t' ∧ t'.replay = t.replay.filter (fun x => x.seq != p.seq) ∧ t'.ctr p.ctr = t.ctr p.ctr - 1)
  ∧ ∀ k y, Tbl.get? (s'.group g).quads k = some y → ∀ x ∈ y.queue, x.id ≠ e.id

/-! ### Nests, engine programs, copies -/

/-- A team has issued an instruction of `n` words whose packet is `pk` (R57, R61, R65): its requests are `xs`. No register
and no byte of memory has changed. -/
def Packed (s s' : State) (t : Team) (n : Nat) (pk : Packet) (pend : List Nat) (pendP : List Nat) (xs : List Send) : Prop :=
  (∃ k, s'.team? t.ctx = some { (t.raise pk.ctr).advance n with
    seq := t.seq + 1, replay := t.replay ++ [pk], sends := noteSend t.gen s.clock t.sends, last := k
    pend := t.pend ++ pend.map (fun r => (pk.path, BitVec.ofNat 8 r)), pendP := t.pendP ++ pendP.map (fun p => (pk.path, p)) })
  ∧ (∃ rs, s'.reqs = s.reqs ++ rs
    ∧ rs.map (fun r => { r with id := 0, route := [] }) = xs.map (fun x => t.req s.clock pk x))
  ∧ s'.mem = s.mem ∧ s'.groups = s.groups ∧ s'.fams = s.fams ∧ ∀ c, c ≠ t.ctx → s'.team? c = s.team? c

/-- Index `k` of tuple number `i` of a nest, level 0 varying fastest (R247). -/
def nestIndex (n : FN) (i k : Nat) : Nat :=
  i / ((List.range k).map (fun j => (n.extent j).toNat + 1)).prod % ((n.extent k).toNat + 1)

/-- The first position from (row, column) on in a row that has not ended (R249). -/
def rowAt (len : Nat → Nat) (n : Nat) : Nat → Nat × Nat → Nat × Nat
  | 0, rc => rc
  | k + 1, rc => if n ≤ rc.1 then rc else if len rc.1 ≤ rc.2 then rowAt len n k (rc.1 + 1, 0) else rc

/-- The positions handed out to some lanes, one after another (R249). -/
def handed (len : Nat → Nat) (n : Nat) : Nat → Nat × Nat → List (Nat × Nat)
  | 0, _ => []
  | k + 1, rc =>
    let r := rowAt len n (n + 1) rc
    r :: handed len n k (if n ≤ r.1 then r else (r.1, r.2 + 1))

/-- The object at an offset of a group's scratchpad. -/
def objectIn (s : State) (g off : Nat) : Object := Object.of (leNat (Mem.readN (s.group g).spad off 16))

/-- The copy at the head of a Lace engine's queue, which a team issued and no fault has stopped. -/
structure Copying (s : State) (core k : Nat) (e : CEnt) (rest : List CEnt) (t : Team) (seq : BitVec 16) : Prop where
  queue  : s.laceQueue core k = e :: rest
  issuer : ∃ gen, e.issuer = .team t.ctx seq gen
  team   : s.team? t.ctx = some t
  fault  : e.fault = none
  held   : s.holds = .off

/-! ### Banks -/

/-- Register `r` lies at BANK, at the awl units of pseudo-channel `ch`. -/
def AtBank (s : State) (t : Team) (r : Reg) (ch : Nat) : Prop :=
  r.toNat < 254 ∧ (s.entry t r.toNat).kind = .bank ∧ (s.entry t r.toNat).index.toNat = ch

/-- The register `r` lies at LANE. -/
def AtLane (s : State) (t : Team) (r : Reg) : Prop := r.toNat < 254 ∧ (s.entry t r.toNat).kind = .lane

/-- None of some registers is pending, nor is the predicate of an instruction at a place (R59, R114). -/
def Settled (t : Team) (rs : List (Reg × Nat)) (q : Bool) (p : Pred) : Prop :=
  (∀ e ∈ t.pend, t.own e.1 = true → ∀ x ∈ rs, e.2.toNat ∉ regNums x.1 x.2)
  ∧ ∀ e ∈ t.pendP, t.own e.1 = true → e.2 ≠ predKey q p.num.toNat

/-! ### Windows, launches, faults -/

/-- The team that a window of VD `v` on core `c` goes to (R36): one cut within a clause continues; else the ready
team that issued least recently, the lower slot first. No switch that gives the die to the VD is under way (R346). -/
def FirstTeam (s : State) (c v : Nat) (t : Team) : Prop :=
  s.awaitsSwitch c v = false ∧ (s.suspended c v = some t ∨ (s.suspended c v = none ∧ s.heldUp c v = false ∧ t ∈ s.vdTeams c v ∧ s.ready t = true ∧ t.slot < 64
    ∧ ∀ u ∈ s.vdTeams c v, s.ready u = true → u = t ∨ t.last < u.last ∨ (t.last = u.last ∧ t.slot < u.slot)))

/-- Core `c` with its running team parted from it: one within a clause is the one that its VD goes on with (R36). -/
def parted (s : State) (c : Nat) : State := s.setCore c { s.core c with
  running := none
  cut := match (s.core c).running.bind s.team? with
    | some t => if t.loaded = true then Tbl.set (s.core c).cut (s.vdOf t) t.ctx else (s.core c).cut
    | none => (s.core c).cut }

/-- Core `c` between two windows. -/
def between (s : State) (c : Nat) : State :=
  s.setCore c { (parted s c).core c with window := 0, curVd := none, lent := false, used := none }

/-- The window of core `c` goes to team `t` of VD `v`, and counts as used by it once (R36, R394); `k` is the core
before. Nothing else changes, no byte of memory and no register. -/
structure Given (s s' : State) (c v : Nat) (t : Team) (k : Core) : Prop where
  core  : s'.core c = { k with running := some t.ctx, used := some v, cut := Tbl.del k.cut v }
  team  : ∃ u, s'.team? t.ctx = some u ∧ u.parked = .no ∧ u.waiting = false ∧ u.lanes = t.lanes
    ∧ (t.inFallback = false → u = { t with parked := .no, waiting := false })
  vd    : s'.vd v = (if k.used = some v then s.vd v else
    { s.vd v with usage := { (s.vd v).usage with windows := (s.vd v).usage.windows + 1 } })
  rest  : s' = { s with cores := s'.cores, teams := s'.teams, vds := s'.vds, stamp := s'.stamp }
  cores : ∀ d, d ≠ c → s'.core d = s.core d
  teams : ∀ x, x ≠ t.ctx → s'.team? x = s.team? x
  vds   : ∀ w, w ≠ v → s'.vd w = s.vd w

/-- A team at a clause header that it may start: the header `h` with the words `ws` is fetched. -/
structure AtHeader (s : State) (t : Team) (h : DWord) (ws : List DWord) : Prop where
  turn  : s.turn = .team t.ctx
  here  : s.team? t.ctx = some t
  open_ : t.loaded = false ∧ t.clause = h :: ws
  held  : s.holds = .off

/-- The counters let a clause with header `h` start (R96): LD, PL and ST, each at most its bound, 63 being none; on a
path of a serial fallback those of the path (R21). -/
def counted (h : DWord) (t : Team) : Prop :=
  ∀ x ∈ [(46, t.out .ld), (40, t.out .pl), (34, t.out .st)], (h.extractLsb' x.1 6 : BitVec 6) = 63 ∨ x.2 ≤ (h.extractLsb' x.1 6 : BitVec 6).toNat

/-- No save has cut the sweep of an instruction of the team (R69). -/
def Whole (t : Team) : Prop := ∀ p ∈ t.replay, p.inst ≠ .core ∨ p.fetches ≠ [] ∨ descOf p.instr = none

/-- A team goes on from its halt (R65, R336): its packets that are not complete carry its generation. -/
def Resumed (s s' : State) (t : Team) : Prop :=
  ∃ t', s'.team? t.ctx = some t' ∧ t'.parked = (if t.fewLeft then .few else .no) ∧ t'.hold = false ∧ t'.pc = t.pc ∧ t'.word = t.word
    ∧ t'.lanes = t.lanes ∧ t'.gen = t.gen ∧ t'.seq = t.seq ∧ t'.flags = t.flags ∧ t'.handler = t.handler
    ∧ t'.replay.map (fun p => p.seq) = t.replay.map (fun p => p.seq)
    ∧ (∀ p ∈ t'.replay, p.complete = false → p.gen = t.gen) ∧ s'.mem = s.mem ∧ s'.fams = s.fams
    ∧ ∀ c, c ≠ t.ctx → s'.team? c = s.team? c

/-- A field of a record of bytes. -/
def field (r : List Byte) (lo n : Nat) : Nat := leNat r / 2 ^ lo % 2 ^ n

/-- Two ranges of numbers meet. -/
def meet (a n b m : Nat) : Bool := decide (a < b + m) && decide (b < a + n)

/-- The condition of a WAITVAL on the masked word (R379). -/
def waited (cond : Nat) (x b : DWord) : Bool :=
  if cond = 0 then x == b else if cond = 1 then x != b else if cond = 2 then decide (b ≤ x) else decide (x < b)

/-! ### Images -/

/-- No image of a team, and none of a group behind it, reaches this address (R344, R345): a team image with its lane rows
and packets, each below 65,727 bytes, then a group image with four quadrants, aligned to 4 KiB and filled to a sector. -/
def imageEnd (s : State) (t : Team) : Nat :=
  s.ctxArea t + 0x21C0 + 4096 * (s.launchOf t).lmax + 65727 * (t.replay.length + 1) + 4096 + 0x13C0 + 4 * 65536 +
    2 * (s.group t.group).spadLen + 256 + 128

end Sys2Proof.Claims

open Sys2Proof Sys2Proof.Machine Sys2Proof.Claims

/-! ## Register instructions -/

/-- Sums, differences, products, minima and maxima of the elements of each active lane, or of the uniform
place: exact results, wrapped or clamped (R115, R116, R83, R10, R48, R109). -/
def Obligations.IntegerElements : Prop := ∀ o : F3,
  Computes (.add o) (bin o) (elemwise o.ty o.sat (fun a b _ => a + b))
  ∧ Computes (.sub o) (bin o) (elemwise o.ty o.sat (fun a b _ => a - b))
  ∧ Computes (.mul o) (bin o) (elemwise o.ty o.sat (fun a b _ => a * b))
  ∧ Computes (.min o) (bin o) (elemwise o.ty false (fun a b _ => min a b))
  ∧ Computes (.max o) (bin o) (elemwise o.ty false (fun a b _ => max a b))

/-- The widening and the 64-bit forms, the high half of a product, addresses and sums of byte products (R116 to
R119). -/
def Obligations.WideIntegers : Prop := ∀ o : F3,
  Computes (.mulh o) (bin o)
    (fun l => ((BitVec.ofInt 64 (num (Ty.signed o.ty) (el 32 0 (opAt l 0)) * num (Ty.signed o.ty) (el 32 0 (opAt l 1)))) >>> 32, 0))
  ∧ Computes (.mad false o) (tern o) (elemwise o.ty o.sat (fun a b c => a * b + c))
  ∧ Computes (.mad true o)
    ⟨o.p, .reg o.d 2, [.reg o.a 1 (word32 o), .reg o.b 1 (word32 o), .reg o.c 2 (litVal (pairTy o) o.imm)]⟩
    (wide (Ty.signed o.ty) o.sat 32 32 (fun a b c => a * b + c))
  ∧ Computes (.add64 false o) (bin o) (wide (Ty.signed o.ty) o.sat 64 64 (fun a b _ => a + b))
  ∧ Computes (.sub64 false o) (bin o) (wide (Ty.signed o.ty) o.sat 64 64 (fun a b _ => a - b))
  ∧ Computes (.add64 true o) ⟨o.p, .reg o.d 2, [.reg o.a 2 (litVal o.ty o.imm), .reg o.b 1 (word32 o)]⟩
    (wide (Ty.signed o.ty) o.sat 64 32 (fun a b _ => a + b))
  ∧ Computes (.sub64 true o) ⟨o.p, .reg o.d 2, [.reg o.a 2 (litVal o.ty o.imm), .reg o.b 1 (word32 o)]⟩
    (wide (Ty.signed o.ty) o.sat 64 32 (fun a b _ => a - b))
  ∧ Computes (.mul64 false o) (bin o) (wide (Ty.signed o.ty) o.sat 64 64 (fun a b _ => a * b))
  ∧ Computes (.mul64 true o) ⟨o.p, .reg o.d 2, [.reg o.a 1 (word32 o), .reg o.b 1 (word32 o)]⟩
    (wide (Ty.signed o.ty) false 32 32 (fun a b _ => a * b))
  ∧ Computes (.lea o) ⟨o.p, .reg o.d 2, [.reg o.a 2 (litVal (pairTy o) o.imm), .reg o.b 1 0]⟩
    (fun l => (opAt l 0 + (if Ty.signed o.ty then (el 32 0 (opAt l 1)).signExtend 64 else (el 32 0 (opAt l 1)).setWidth 64)
      <<< (o.imm.extractLsb' 0 3).toNat, 0))
  ∧ ∀ su, Computes (.dp4 su o)
    ⟨o.p, .reg o.d 1, [.reg o.a 1 (litVal o.ty o.imm), .reg o.b 1 (litVal o.ty o.imm),
      .reg o.c 1 (litVal (if Ty.signed o.ty then .i32 else .n32) o.imm)]⟩
    (fun l =>
      let p (e : Nat) : Int := num (Ty.signed o.ty) (el 8 e (opAt l 0)) * num (Ty.signed o.ty && !su) (el 8 e (opAt l 1))
      one (fit 32 (Ty.signed o.ty) o.sat (num (Ty.signed o.ty) (el 32 0 (opAt l 2)) + (p 0 + p 1 + p 2 + p 3))))

/-- Division: the quotient is rounded towards zero, a zero divisor gives all ones and the dividend with DZ,
and MIN by −1 gives MIN and 0 with IOV (R83, R116). -/
def Obligations.Division : Prop := ∀ o : F3,
  let d (l : List DWord) := divided (Ty.elemBits o.ty) (Ty.signed o.ty) (el (Ty.elemBits o.ty) 0 (opAt l 0))
    (el (Ty.elemBits o.ty) 0 (opAt l 1))
  Computes (.div o) (bin o) (fun l => one ((d l).1, (d l).2.2))
  ∧ Computes (.rem o) (bin o) (fun l => one ((d l).2.1, (d l).2.2))

/-- Constants, bitwise logic and selection (R120, R123, R128). -/
def Obligations.ConstantsAndLogic : Prop := (∀ o : FRI,
  Computes (.li o) ⟨o.p, .reg o.d 1, []⟩ (fun _ => (o.imm.setWidth 64, 0))
  ∧ Computes (.liSx o) ⟨o.p, .reg o.d 2, []⟩ (fun _ => (o.imm.signExtend 64, 0))
  ∧ Computes (.liZx o) ⟨o.p, .reg o.d 2, []⟩ (fun _ => (o.imm.setWidth 64, 0)))
  ∧ ∀ o : F3, let a (l : List DWord) := el (Ty.elemBits o.ty) 0 (opAt l 0)
    let b (l : List DWord) := el (Ty.elemBits o.ty) 0 (opAt l 1)
    Computes (.and o) (bin o) (fun l => one (a l &&& b l, 0))
    ∧ Computes (.or o) (bin o) (fun l => one (a l ||| b l, 0))
    ∧ Computes (.xor o) (bin o) (fun l => one (a l ^^^ b l, 0))
    ∧ Computes (.andn o) (bin o) (fun l => one (a l &&& ~~~(b l), 0))
    ∧ Computes (.sel o)
      ⟨o.p, .reg o.d (Ty.regs o.ty), [.reg o.a (Ty.regs o.ty) 0, .reg o.b (Ty.regs o.ty) 0,
        .sel ⟨o.imm.getLsbD 3, o.imm.extractLsb' 0 3⟩]⟩
      (fun l => (if opAt l 2 = 1 then opAt l 0 else opAt l 1, 0))

/-- Shifts and rotations of every element: a count at or beyond the width is taken modulo it, or clamps (R122,
R124). -/
def Obligations.Shifts : Prop := ∀ o : F3,
  let f : Form := ⟨o.p, .reg o.d (Ty.regs o.ty), [.reg o.a (Ty.regs o.ty) (litVal o.ty o.imm), .reg o.b 1 (word32 o)]⟩
  (∀ c, Computes (.shl c o) f (shifted .shl c o.ty))
  ∧ (∀ c, Computes (.shr c o) f (shifted .shr c o.ty))
  ∧ (∀ c, Computes (.sar c o) f (shifted .sar c o.ty))
  ∧ Computes (.rot o) f (shifted .rot false o.ty)

/-- Counts of bits, bit reversal, fields and the carry-less product (R125 to R127). -/
def Obligations.BitFields : Prop := ∀ o : F3,
  let w := Ty.elemBits o.ty
  let a (l : List DWord) := el w 0 (opAt l 0)
  let bc : List Src := [.reg o.a (Ty.regs o.ty) (litVal o.ty o.imm), .reg o.b 1 (word32 o), .reg o.c 1 (word32 o)]
  Computes (.popc o) (unary o 1) (fun l => (BitVec.ofNat 64 (ones (a l)), 0))
  ∧ Computes (.clz o) (unary o 1)
    (fun l => (BitVec.ofNat 64 (((List.range w).find? (fun i => (a l).getLsbD (w - 1 - i))).getD w), 0))
  ∧ Computes (.ffs o) (unary o 1)
    (fun l => (BitVec.ofNat 64 (((List.range w).find? (fun i => (a l).getLsbD i)).getD 0xFFFF_FFFF), 0))
  ∧ Computes (.brev o) (unary o (Ty.regs o.ty)) (fun l => one (ofBits w (fun i => (a l).getLsbD (w - 1 - i)), 0))
  ∧ Computes (.bfe o) ⟨o.p, .reg o.d (Ty.regs o.ty), bc⟩ (extracted o.ty)
  ∧ Computes (.bfi o) ⟨o.p, .reg o.d (Ty.regs o.ty), bc ++ [.reg o.d (Ty.regs o.ty) 0]⟩ (inserted o.ty)
  ∧ Computes (.clmul o) ⟨o.p, .reg o.d 2, (bin o).srcs⟩ carryless

/-- Compares, predicate logic and predicates from registers (R130 to R134). -/
def Obligations.Predicates : Prop := ∀ o : F3,
  (∀ c, Computes (.icmp c o) { bin o with dst := .pcode o.d } (fun l => (truth (compared c o.ty l), 0)))
  ∧ (∀ c, Computes (.fcmp c o) { bin o with dst := .pcode o.d } (fcompared c o.ty))
  ∧ Computes (.pand o) ⟨o.p, .pcode o.d, [.pcode o.a, .pcode o.b]⟩ (fun l => (truth (opAt l 0 == 1 && opAt l 1 == 1), 0))
  ∧ Computes (.por o) ⟨o.p, .pcode o.d, [.pcode o.a, .pcode o.b]⟩ (fun l => (truth (opAt l 0 == 1 || opAt l 1 == 1), 0))
  ∧ Computes (.pxor o) ⟨o.p, .pcode o.d, [.pcode o.a, .pcode o.b]⟩ (fun l => (truth (opAt l 0 != opAt l 1), 0))
  ∧ Computes (.pnot o) ⟨o.p, .pcode o.d, [.pcode o.a]⟩ (fun l => (truth (opAt l 0 != 1), 0))
  ∧ Computes (.pset false o) { unary o 1 with dst := .pcode o.d } (fun l => (truth (el 32 0 (opAt l 0) != 0), 0))
  ∧ Computes (.pset true o) { bin o with dst := .pcode o.d }
    (fun l => (truth ((opAt l 0).getLsbD ((el 5 0 (opAt l 1)).toNat)), 0))

/-- Floating-point arithmetic: each element is the exact result rounded once to its format, with the flags of
that rounding (R77 to R81, R148, R149). What the exact results and the rounding are, ExactArithmetic and
RoundingIsCorrect say. -/
def Obligations.FloatArithmetic : Prop := ∀ o : F3,
  Computes (.fadd o) (bin o) (feach o.ty (fun f v => f.roundX o.rnd o.sat (FVal.sum o.rnd [v 0, v 1])))
  ∧ Computes (.fsub o) (bin o) (feach o.ty (fun f v => f.roundX o.rnd o.sat (FVal.sum o.rnd [v 0, (v 1).negate])))
  ∧ Computes (.fmul o) (bin o) (feach o.ty (fun f v => f.roundX o.rnd o.sat (FVal.mul (v 0) (v 1))))
  ∧ Computes (.ffma o) (tern o) (feach o.ty (fun f v => f.dot o.rnd o.sat [(v 0, v 1)] (v 2)))
  ∧ Computes (.fdiv o) (bin o) (feach o.ty (fun f v => f.div o.rnd o.sat (v 0) (v 1)))
  ∧ Computes (.fscale o)
    ⟨o.p, .reg o.d (Ty.regs o.ty), [.reg o.a (Ty.regs o.ty) (litVal o.ty o.imm),
      .reg o.b 1 (litVal (if Ty.elems o.ty = 2 then .i16x2 else .i32) o.imm)]⟩
    (fun l => each (Ty.elemBits o.ty) (Ty.elems o.ty) (fun e =>
      let wb := if Ty.elems o.ty = 2 then 16 else 32
      let r := (tyFmt o.ty).scale o.rnd o.sat ((tyFmt o.ty).val (el (Ty.elemBits o.ty) e (opAt l 0)).toNat)
        (el wb e (opAt l 1)).toInt
      (BitVec.ofNat _ r.1, r.2)))
  ∧ Computes (.fdot2 o)
    ⟨o.p, .reg o.d 1, [.reg o.a 1 (litVal o.ty o.imm), .reg o.b 1 (litVal o.ty o.imm), .reg o.c 1 (litVal .f32 o.imm)]⟩
    (fun l =>
      let v (i e : Nat) : FVal := (tyFmt o.ty).val (el 16 e (opAt l i)).toNat
      let r := ffF32.dot o.rnd o.sat [(v 0 0, v 1 0), (v 0 1, v 1 1)] (ffF32.val (el 32 0 (opAt l 2)).toNat)
      one ((BitVec.ofNat 32 r.1 : Word), r.2))

/-- Minima and maxima in the order of R80, integral values (R150) and classes (R151) of floating-point elements, and the
special functions (R88, R153): each is a fixed function of its input that has the exact cases and special values of R88's
table, and NX where a reciprocal is not exact. Which value within its bound it has elsewhere is open (log entry 15). -/
def Obligations.FloatFunctions : Prop := ∀ o : F3,
  let f := tyFmt o.ty
  let w := Ty.elemBits o.ty
  let mm (mx : Bool) (l : List DWord) : DWord × Flags := each w (Ty.elems o.ty) (fun e =>
    let a := f.val (el w e (opAt l 0)).toNat
    let b := f.val (el w e (opAt l 1)).toNat
    (if a.isNan && b.isNan then BitVec.ofNat w f.nanBits
      else if b.isNan || (!a.isNan && before a b != mx) then el w e (opAt l 0) else el w e (opAt l 1),
      Flags.when (a.isSig || b.isSig) fNV))
  let u := unary o (Ty.regs o.ty)
  let computes (i : Instr) (ok : Nat → Nat × Flags → Prop) : Prop :=
    i.wf = true → ∃ h : Nat → Nat × Flags, Computes i u (feachBits o.ty (fun _ => h)) ∧ ∀ x, x < 2 ^ w → ok x (h x)
  Computes (.fmin o) (bin o) (mm false)
  ∧ Computes (.fmax o) (bin o) (mm true)
  ∧ (∀ ex, computes (.fround ex o) (Integral f o.rnd ex))
  ∧ Computes (.fclass o) (unary o 1) (fun l => each 16 (Ty.elems o.ty) (fun e =>
      (BitVec.ofNat 16 (classOf f (f.val (el w e (opAt l 0)).toNat)), 0)))
  ∧ computes (.frcp o) (Special .rcp f)
  ∧ computes (.frsq o) (Special .rsq f)
  ∧ computes (.fsqrt o) (Special .sqrt f)
  ∧ computes (.fexp2 o) (Special .exp2 f)
  ∧ computes (.flog2 o) (Special .log2 f)
  ∧ computes (.fsin o) (Special .sin f)
  ∧ computes (.fcos o) (Special .cos f)
  ∧ computes (.ftanh o) (Special .tanh f)

/-- Conversions between numbers, and between f32 and packed formats (R82, R154, R155, R157). -/
def Obligations.Conversions : Prop := ∀ o : F3,
  let src := (Ty.ofCode (o.imm.extractLsb' 0 4)).getD .i32
  let ws := Ty.elemBits src
  let wd := Ty.elemBits o.ty
  let fl (f : FFmt) (x : Nat × Flags) : BitVec f.width × Flags := (BitVec.ofNat _ x.1, x.2)
  let toInt (v : FVal) : BitVec wd × Flags :=
    let clamp (neg : Bool) := BitVec.ofInt wd (if neg then least wd (Ty.signed o.ty) else greatest wd (Ty.signed o.ty))
    match v with
    | .nan _ => (0, fNV)
    | .inf neg => (clamp neg, fNV)
    | .fin neg m e =>
      let r := roundAt o.rnd neg m e 0
      let x : Int := if neg then -(r.1 : Int) else r.1
      if x < least wd (Ty.signed o.ty) ∨ greatest wd (Ty.signed o.ty) < x then (clamp neg, fNV)
      else (BitVec.ofInt wd x, Flags.when r.2 fNX)
  Computes (.cvt .scalar o) ⟨o.p, .reg o.d (Ty.regs o.ty), [.reg o.a (Ty.regs src) 0]⟩ (fun l =>
    let a := el ws 0 (opAt l 0)
    let n := num (Ty.signed src) a
    match Ty.isFloat o.ty, Ty.isFloat src with
    | false, false => one (fit wd (Ty.signed o.ty) o.sat n)
    | true, false => one (fl (tyFmt o.ty) ((tyFmt o.ty).round o.rnd o.sat (FVal.ofInt n)))
    | false, true => one (toInt ((tyFmt src).val a.toNat))
    | true, true => one (fl (tyFmt o.ty) ((tyFmt o.ty).round o.rnd o.sat ((tyFmt src).val a.toNat))))
  ∧ Computes (.cvt .narrow o) ⟨o.p, .reg o.d 1, [.reg o.a 1 0, .reg o.b 1 0]⟩ (fun l => each 16 2 (fun e =>
      let r := (tyFmt o.ty).round o.rnd o.sat (ffF32.val (el 32 0 (opAt l e)).toNat)
      (BitVec.ofNat 16 r.1, r.2)))
  ∧ Computes (.cvt .widen o) ⟨o.p, .reg o.d 1, [.reg o.a 1 0]⟩ (fun l =>
      one (fl ffF32 (ffF32.round .rn false
        ((tyFmt src).val (el 16 (if o.imm.getLsbD 4 then 1 else 0) (opAt l 0)).toNat))))
  ∧ ∀ e5m2, let f8 := if e5m2 then ffE5M2 else ffE4M3
    Computes (.pack e5m2 o) ⟨o.p, .reg o.d 1, [.reg o.a 1 0, .reg o.b 1 0, .reg o.d 1 0]⟩ (fun l => each 8 4 (fun e =>
      let h := if o.imm.getLsbD 0 then 1 else 0
      if e / 2 = h then
        let r := f8.round o.rnd o.sat (ffF32.val (el 32 0 (opAt l (e % 2))).toNat)
        (BitVec.ofNat 8 r.1, r.2)
      else (el 8 e (opAt l 2), 0)))
    ∧ Computes (.unpack e5m2 o) ⟨o.p, .reg o.d 1, [.reg o.a 1 0]⟩ (fun l =>
        one (fl ffF32 (ffF32.round .rn false (f8.val (el 8 (o.imm.toNat % 4) (opAt l 0)).toNat))))

/-- OX4 blocks out of lanes and into them: element j of block w is physical slot 32w + j (R75, R76, R156, R157). -/
def Obligations.Ox4Lanes : Prop := ∀ o : F3,
  let f : Form := ⟨o.p, .reg o.d 1, [.reg o.a 1 (litVal .f32 o.imm), .reg o.b 1 (litVal .i32 o.imm)]⟩
  let x : Cross := ⟨f, none, true, false, [1]⟩
  let scale (ls : List LaneIn) : Nat := (el 8 0 (ls.head?.elim 0 (fun l => opAt l.ops 1))).toNat
  let slot (ls : List LaneIn) (j : Nat) : Option LaneIn := ls.find? (fun l => l.slot == j)
  let blocks (ls : List LaneIn) : List Nat := (List.range 32).filter (fun w => ls.any (fun l => l.slot / 32 == w))
  let enc (ls : List LaneIn) (w : Nat) := encodeOx4 ((List.range 32).map (fun j =>
    (slot ls (32 * w + j)).elim (FVal.fin false 0 0) (fun l =>
      if l.act then ffF32.val (el 32 0 (opAt l.ops 0)).toNat else .fin false 0 0))) (scale ls)
  let byte (ls : List LaneIn) (n i : Nat) : Nat := (el 8 i ((slot ls n).elim 0 (fun l => opAt l.ops 0))).toNat
  let dec (ls : List LaneIn) (w : Nat) := decodeOx4 ((List.range 16).map (fun i => byte ls (32 * w + i / 4) (i % 4)))
    (byte ls (32 * w + 4) 0) (scale ls)
  let value (ls : List LaneIn) (l : LaneIn) := ffF32.round o.rnd o.sat ((dec ls (l.slot / 32)).getD (l.slot % 32) (.fin false 0 0))
  (∀ s t, (∀ l ∈ t.lanes, l.slot < 1024) → (Instr.packOx4 o).wf = true → s.Runs t → x.Clear s t →
    ∃ s', exec (.packOx4 o) s = .next s' ∧ x.Done (fun _ ls => acting (fun l =>
      let b := enc ls (l.slot / 32)
      let j := l.slot % 32
      (if j < 4 then (List.range 4).foldl (fun v i => v ||| (BitVec.ofNat 64 (b.1.getD (4 * j + i) 0) <<< (8 * i))) 0
        else if j = 4 then BitVec.ofNat 64 b.2.1 else 0, false))
      (joinFlags ((blocks ls).map (fun w => (enc ls w).2.2))) ls) (fun _ => 0) s s' t)
  ∧ ∀ s t, (∀ l ∈ t.lanes, l.slot < 1024) → (Instr.unpackOx4 o).wf = true → s.Runs t → x.Clear s t →
    ∃ s', exec (.unpackOx4 o) s = .next s' ∧ x.Done (fun _ ls => acting (fun l => (BitVec.ofNat 64 (value ls l).1, false))
      (joinFlags ((ls.filter (fun l => l.act)).map (fun l => (value ls l).2))) ls) (fun _ => 0) s s' t

/-- The exchange of values between lanes, the value of one lane, and lane ids, ranks and counts (R160, R164, R165). -/
def Obligations.LaneExchange : Prop := ∀ o : F3,
  let size := 2 ^ (o.imm.extractLsb' 0 4).toNat
  let c (l : LaneIn) : Nat := (el 32 0 (opAt l.ops 1)).toNat
  let x (m : XMode) : Cross :=
    ⟨⟨o.p, .reg o.d 1, [.reg o.a 1 (litVal .i32 o.imm), .reg o.b 1 ((o.imm.extractLsb' 4 4).setWidth 64)]⟩,
      some (.pcode o.c), true, false, if m = .idx then [] else [1]⟩
  let swap (q : LaneIn → Nat) (ok : LaneIn → Bool) (ls : List LaneIn) : CrossOut := acting (fun l =>
    match if ok l then ofMember ls (q l) else none with
    | some v => (v, true)
    | none => (opAt l.ops 0, false)) 0 ls
  let small (s : State) (t : Team) : Prop :=
    (el 32 0 (s.uniSrc t (.reg o.b 1 ((o.imm.extractLsb' 4 4).setWidth 64)))).toNat < size
  Sweeps (.xchg .xor o) (x .xor) small (fun _ => swap (fun l => l.vid ^^^ c l) (fun _ => true))
  ∧ Sweeps (.xchg .up o) (x .up) small (fun _ => swap (fun l => l.vid - c l) (fun l => decide (c l ≤ l.vid % size)))
  ∧ Sweeps (.xchg .down o) (x .down) small (fun _ => swap (fun l => l.vid + c l) (fun l => decide (l.vid % size + c l < size)))
  ∧ Sweeps (.xchg .idx o) (x .idx) always
    (fun _ => swap (fun l => l.vid - l.vid % size + c l) (fun l => decide (c l < size)))
  ∧ Sweeps (.pick o)
    ⟨⟨o.p, .reg o.d (Ty.regs o.ty), [.reg o.a (Ty.regs o.ty) (litVal o.ty o.imm), .reg o.b 1 (o.imm.setWidth 64)]⟩,
      some (.pcode o.c), false, true, [1]⟩ always
    (fun _ ls => match ofMember ls (ls.head?.elim 0 c) with
      | some v => alike v true 0 ls
      | none => alike 0 false 0 ls)
  ∧ Sweeps (.lid .id o) ⟨⟨o.p, .reg o.d 1, []⟩, none, true, false, []⟩ always
    (fun _ => acting (fun l => (BitVec.ofNat 64 l.vid, false)) 0)
  ∧ Sweeps (.lid .rank o) ⟨⟨o.p, .reg o.d 1, []⟩, none, true, false, []⟩ always
    (fun _ ls => acting (fun l => (BitVec.ofNat 64 (ls.countP (fun k => k.act && decide (k.vid < l.vid))), false)) 0 ls)
  ∧ Sweeps (.lid .count o) ⟨⟨o.p, .reg o.d 1, []⟩, none, false, false, []⟩ always
    (fun _ ls => alike (BitVec.ofNat 64 (ls.countP (fun l => l.act))) false 0 ls)

/-- Votes and value matches over the participants, with the absent mask (R161, R162). -/
def Obligations.VotesAndMatches : Prop := ∀ o : F3,
  let v (d : Dst) (lane : Bool) : Cross := ⟨⟨o.p, d, [.pcode o.a]⟩, some (.reg o.c 1), lane, true, []⟩
  let holds (l : LaneIn) : Bool := l.act && opAt l.ops 0 != 0
  let m : Cross := ⟨⟨o.p, .reg o.d 1, [.reg o.a (Ty.regs o.ty) (litVal o.ty o.imm)]⟩, some (.reg o.c 1), true, false, []⟩
  let same (ls : List LaneIn) (l : LaneIn) : DWord := among ls l.vid (fun k => k.act && opAt k.ops 0 == opAt l.ops 0)
  Sweeps (.vote .any o) (v (.pcode o.d) false) always (fun _ ls => alike (truth (ls.any holds)) false 0 ls)
  ∧ Sweeps (.vote .all o) (v (.pcode o.d) false) always
    (fun _ ls => alike (truth (ls.all (fun l => !l.act || holds l))) false 0 ls)
  ∧ Sweeps (.vote .count o) (v (.reg o.d 1) false) always (fun _ ls => alike (BitVec.ofNat 64 (ls.countP holds)) false 0 ls)
  ∧ Sweeps (.vote .ballot o) (v (.reg o.d 1) true) always (fun _ ls => acting (fun l => (among ls l.vid holds, false)) 0 ls)
  ∧ Sweeps (.matchOp false o) m always (fun _ ls => acting (fun l => (same ls l, false)) 0 ls)
  ∧ Sweeps (.matchOp true o) m always (fun _ ls => acting (fun l =>
      (if same ls l = among ls l.vid (fun k => k.act) then same ls l else 0, false)) 0 ls)

/-- Reductions, prefix sums and segmented scans in ascending virtual id (R163): each value written is the
rounded or clamped combination of its own participants. -/
def Obligations.Combinations : Prop := ∀ (op : ROp) (o : F3),
  let a : Src := .reg o.a (Ty.regs o.ty) (litVal o.ty o.imm)
  let d : Dst := .reg o.d (Ty.regs o.ty)
  let head (l : LaneIn) : Bool := opAt l.ops 1 != 0
  let lanes (srcs : List Src) : Cross := ⟨⟨o.p, d, srcs⟩, none, true, false, []⟩
  Sweeps (.redux op o) ⟨⟨o.p, d, [a]⟩, none, false, true, []⟩ always (fun _ ls =>
    let r := combined op o.ty o.rnd o.sat ((participants false ls).map (fun l => opAt l.ops 0))
    alike r.1 false r.2 ls)
  ∧ Sweeps (.prefixOp op false o) (lanes [a]) always (fun _ => scanned op o.ty o.rnd o.sat (fun ps k => ps.take (k + 1)))
  ∧ Sweeps (.prefixOp op true o) (lanes [a]) always (fun _ => scanned op o.ty o.rnd o.sat (fun ps k => ps.take k))
  ∧ Sweeps (.segm op false o) (lanes [a, .pcode o.c]) always
    (fun _ => scanned op o.ty o.rnd o.sat (fun ps k => (ps.take (k + 1)).drop (segStart head ps k)))
  ∧ Sweeps (.segm op true o) (lanes [a, .pcode o.c]) always
    (fun _ => scanned op o.ty o.rnd o.sat (fun ps k => (ps.take (segEnd head ps k)).drop (segStart head ps k)))

/-- Branches, calls and returns: the target, or the next clause where the q predicate is false; a lane branch
with one outcome for every lane goes the same two ways (R14, R95, R98, R107, R136, R137, R139, R140). -/
def Obligations.Branches : Prop := ∀ (o : FBR) (s : State) (t : Team), s.Runs t →
  let go (pc : DWord) : Team := atClause s t (if s.qHolds t o.p then pc else nextClause t)
  ((Instr.br o).wf = true → UniClear s t [] o.p → ∃ s', exec (.br o) s = .next s' ∧ Alone s s' t (go (target t o.off)) [])
  ∧ ((Instr.brx o).wf = true → UniClear s t [(o.r, 1)] o.p → ∃ s', exec (.brx o) s = .next s'
    ∧ Alone s s' t (go (target t o.off + 16 * s.uniVal t o.r 1)) [])
  ∧ ((Instr.ret o).wf = true → UniClear s t [(o.r, 2)] o.p → (s.uniVal t o.r 2).extractLsb' 0 3 = 0 →
    ∃ s', exec (.ret o) s = .next s' ∧ Alone s s' t (go (s.uniVal t o.r 2)) [])
  ∧ ((Instr.call o).wf = true → UniClear s t [(o.r, 2)] o.p → ∃ s', exec (.call o) s = .next s'
    ∧ Alone s s' t (go (target t o.off)) (if s.qHolds t o.p then regNums o.r 2 else [])
    ∧ (s.qHolds t o.p = true → o.r ≠ Reg.z → s'.uniVal t o.r 2 = nextClause t))
  ∧ ((Instr.brdiv o).wf = true → UniClear s t [] o.p → (∀ e ∈ t.pendP, t.own e.1 = true → e.2 ≠ predKey false o.cond.num.toNat) →
    ∀ b, (∀ l ∈ t.current, lanePred l o.cond = b) → t.current ≠ [] → ∃ s', exec (.brdiv o) s = .next s'
    ∧ Alone s s' t (go (if b then target t o.off else nextClause t)) [])

/-- A mixed `brdiv` (R14 to R16): with the counters at zero, a slot and a context index free and fewer than 16
splits open, the team becomes two; without them, or in a serial fallback, it runs both paths itself (R21); with a counter
above zero it waits, or its path gives way. The index and slot are the lowest free ones (R344; which slot is the model's choice). -/
def Obligations.DivergentBranches : Prop := ∀ (o : FBR) (s : State) (t : Team), (Instr.brdiv o).wf = true → s.Runs t →
  UniClear s t [] o.p → (∀ e ∈ t.pendP, t.own e.1 = true → e.2 ≠ predKey false o.cond.num.toNat) →
  s.qHolds t o.p = true → divDepth t.div < 32 →
  (∃ l ∈ t.current, lanePred l o.cond = true) → (∃ l ∈ t.current, lanePred l o.cond = false) → s.teamsOk →
  let S := t.current.filter (fun l => lanePred l o.cond)
  let F := t.current.filter (fun l => !lanePred l o.cond)
  let packed (ls : List Lane) : List Lane := ls.zipIdx.map (fun x => { x.1 with slot := x.2 })
  (t.drained = false → ∃ s', exec (.brdiv o) s = .next s' ∧ Waits s s' t)
  ∧ (t.drained = true → ∀ slot ctx, s.freeSlot (s.coreOf t) = some slot → s.freeCtx (s.vdOf t) = some ctx → ctx ≠ t.ctx →
    splitCount t.div < 16 → t.inFallback = false → t.span = none → ∃ s', exec (.brdiv o) s = .next s'
    ∧ s'.team? t.ctx = some { atClause s t (nextClause t) with
        last := s.stamp + 1, ld := 0, pl := 0, st := 0, lanes := packed F, div := .split s.stamp false :: t.div }
    ∧ s'.team? ctx = some { atClause s t (target t o.off) with
        last := t.last, ctx := ctx, slot := slot, ld := 0, pl := 0, st := 0, lanes := packed S, div := .split s.stamp true :: t.div
        seq := 0, gen := 0, replay := [], sends := [], pend := [], pendP := [], retired := 0 }
    ∧ s'.mem = s.mem ∧ s'.groups = s.groups ∧ ∀ c, c ≠ t.ctx → c ≠ ctx → s'.team? c = s.team? c)
  ∧ (t.drained = true →
    (s.freeSlot (s.coreOf t) = none ∨ s.freeCtx (s.vdOf t) = none ∨ 16 ≤ splitCount t.div ∨ t.span.isSome = true) →
    t.inFallback = false → ∃ s', exec (.brdiv o) s = .next s'
    ∧ s'.team? t.ctx = some { atClause s t (target t o.off) with
        last := s.stamp + 1
        div := .fallback [pathAt (S.map Lane.vid) [s.stamp] (target t o.off), pathAt (F.map Lane.vid) [s.stamp] (nextClause t)]
          :: t.div }
    ∧ s'.mem = s.mem ∧ s'.groups = s.groups ∧ s'.fams = s.fams ∧ ∀ c, c ≠ t.ctx → s'.team? c = s.team? c)
  ∧ (t.drained = true → ∀ p ps d, t.div = .fallback (p :: ps) :: d → ∃ s', exec (.brdiv o) s = .next s'
    ∧ s'.team? t.ctx = some { atClause s t (target t o.off) with
        last := s.stamp + 1
        div := .fallback (pathAt (S.map Lane.vid) (s.stamp :: p.trail) (target t o.off)
          :: pathAt (F.map Lane.vid) (s.stamp :: p.trail) (nextClause t) :: ps) :: d }
    ∧ s'.mem = s.mem ∧ s'.groups = s.groups ∧ s'.fams = s.fams ∧ ∀ c, c ≠ t.ctx → s'.team? c = s.team? c)

/-- A `join` at a split record, and lanes that exit (R19, R20, R23, R138, R141): a team whose sibling has ended
goes on alone; one whose sibling still runs parks at the record; one whose sibling is parked there merges with
it, its lanes packed in ascending virtual id. Where the children differ in handler state, flag-enable mask or
watch slots the merged team has either (log entry 18), which is left out here. -/
def Obligations.JoinsAndExits : Prop := ∀ (o : FBR) (s : State) (t : Team), s.Runs t → s.teamsOk →
  (∀ id taken rest, (Instr.join o).wf = true → t.div = .split id taken :: rest →
    (s.otherSide t id taken = [] → ∃ s', exec (.join o) s = .next s'
      ∧ s'.team? t.ctx = some { atClause s t (nextClause t) with div := rest, parked := .no }
      ∧ s'.mem = s.mem ∧ s'.groups = s.groups ∧ ∀ c, c ≠ t.ctx → s'.team? c = s.team? c)
    ∧ (s.otherSide t id taken ≠ [] → t.drained = false → ∃ s', exec (.join o) s = .next s' ∧ Waits s s' t)
    ∧ (∀ u us, s.otherSide t id taken = u :: us → t.drained = true →
      (u.parked ≠ .record id → ∃ s', exec (.join o) s = .next s'
        ∧ Alone s s' t { t with parked := .record id, waiting := true, last := s.stamp } [])
      ∧ (u.parked = .record id → u.ctx ≠ t.ctx → u.fam = t.fam → u.handler = t.handler → u.fen = t.fen → u.watch = t.watch →
        let a := if taken then u else t
        let b := if taken then t else u
        ∃ s', exec (.join o) s = .next s'
        ∧ s'.team? a.ctx = some { atClause s a (nextClause t) with
            lanes := (sortBy (fun l => l.vid) (a.lanes ++ b.lanes)).zipIdx.map (fun x => { x.1 with slot := x.2 })
            flags := a.flags ||| b.flags, acq := max a.acq b.acq, div := a.div.tail, parked := .no, retired := a.retired + b.retired + 1 }
        ∧ s'.team? b.ctx = none ∧ s'.mem = s.mem ∧ ∀ c, c ≠ a.ctx → c ≠ b.ctx → s'.team? c = s.team? c)))
  ∧ ((Instr.exit o).wf = true → (∀ e ∈ t.pendP, t.own e.1 = true → e.2 ≠ predKey false o.p.num.toNat) →
    t.inFallback = false → (t.div = [] ∨ ∃ l ∈ t.lanes, (t.active o.p).any (fun a => a.vid == l.vid) = false) →
    ∃ s', exec (.exit o) s = .next s'
    ∧ Alone s s' t { atClause s t (nextClause t) with
        lanes := t.lanes.filter (fun l => !(t.active o.p).any (fun a => a.vid == l.vid)) } [])

/-- Sticky flags, the flag-enable mask and the special registers (R85, R144, R145). `sr.clock` is read after an
open amount of time (log entry 19). -/
def Obligations.FlagsAndSpecials : Prop := ∀ (o : F3) (s : State) (t : Team), s.Runs t →
  let f (n : Nat) : Form := ⟨o.p, .reg o.d n, []⟩
  let a : BitVec 7 := (s.uniSrc t (.reg o.a 1 (litVal .i32 o.imm))).setWidth 7
  let set (u : Team) : Team := { (if s.qHolds t o.p then u else t).advance 1 with last := s.stamp }
  let n := o.imm.toNat
  let lane : Cross := ⟨f 1, none, true, false, []⟩
  let value : DWord :=
    if n = 0x01 then BitVec.ofNat 64 t.index
    else if n = 0x02 then BitVec.ofNat 64 (s.group t.group).lin
    else if 0x11 ≤ n ∧ n ≤ 0x17 then BitVec.ofNat 64 ((t.lower ++ t.index :: (s.group t.group).lvl).getD (n - 0x11) 0)
    else if 0x18 ≤ n ∧ n ≤ 0x1F then BitVec.ofNat 64 (((s.launchOf t).levels.map (fun v => v.extent)).getD (n - 0x18) 1)
    else if n = 0x20 then BitVec.ofNat 64 (s.group t.group).core
    else if n = 0x21 then (s.group t.group).qmask.setWidth 64
    else if n = 0x22 then BitVec.ofNat 64 ((s.group t.group).vd + 2 ^ 8 * (s.vd (s.group t.group).vd).domain.toNat)
    else if n = 0x28 then t.flags.setWidth 64
    else if n = 0x29 then t.fen.setWidth 64
    else if n = 0x2A then t.gen.setWidth 64
    else (s.core (s.group t.group).core).wake.setWidth 64
  ((Instr.getf o).wf = true → (f 1).Clear s t → ∃ s', exec (.getf o) s = .next s'
    ∧ (f 1).Done (fun _ => (t.flags.setWidth 64, 0)) s s' t)
  ∧ ((Instr.getfClr o).wf = true → (f 1).Clear s t → ∃ s1 s', exec (.getfClr o) s = .next s'
    ∧ (f 1).Done (fun _ => (t.flags.setWidth 64, 0)) s s1 t
    ∧ s'.team? t.ctx = (s1.team? t.ctx).map (fun u =>
        if (if (f 1).atLane s t then !(t.active o.p).isEmpty else s.qHolds t o.p) then { u with flags := 0 } else u)
    ∧ s'.fams = s1.fams ∧ s'.mem = s1.mem)
  ∧ ((Instr.clrf o).wf = true → UniClear s t [(o.a, 1)] o.p → ∃ s', exec (.clrf o) s = .next s'
    ∧ Alone s s' t (set { t with flags := t.flags &&& ~~~a }) [])
  ∧ ((Instr.clrfFen o).wf = true → UniClear s t [(o.a, 1)] o.p → ∃ s', exec (.clrfFen o) s = .next s'
    ∧ Alone s s' t (set { t with fen := a }) [])
  ∧ ((Instr.clrfLoad o).wf = true → UniClear s t [(o.a, 1)] o.p → ∃ s', exec (.clrfLoad o) s = .next s'
    ∧ Alone s s' t (set { t with flags := a }) [])
  ∧ ((Instr.rdsr o).wf = true → n ≠ 0x00 → n ≠ 0x10 → n ≠ 0x24 → (f 1).Clear s t → ∃ s', exec (.rdsr o) s = .next s'
    ∧ (f 1).Done (fun _ => (value, 0)) s s' t)
  ∧ ((Instr.rdsr o).wf = true → n = 0x24 → (f 2).Clear s t → ∃ c k s', exec (.rdsr o) s = .next s' ∧ s.clock ≤ c
    ∧ (f 2).Done (fun _ => (BitVec.ofNat 64 c, 0)) { s with clock := c, free := k } s' t)
  ∧ ((Instr.rdsr o).wf = true → (n = 0x00 ∨ n = 0x10) → lane.Clear s t → ∃ s', exec (.rdsr o) s = .next s'
    ∧ lane.Done (fun _ => acting (fun l => (BitVec.ofNat 64 l.vid, false)) 0) (fun _ => 0) s s' t)

/-- `nop`, a `wait` whose bounds hold and a `tfence` without an enabled flag go on; until then the team stands at
its instruction (R87, R142, R143). -/
def Obligations.WaitsAndFences : Prop := ∀ (s : State) (t : Team), s.Runs t →
  let on : Team := { t.advance 1 with last := s.stamp }
  let met (m : Word) : Prop := t.out .ld ≤ (m.extractLsb' 0 6).toNat ∧ t.out .pl ≤ (m.extractLsb' 6 6).toNat
    ∧ t.out .st ≤ (m.extractLsb' 12 6).toNat
  (∀ o : F3, (Instr.nop o).wf = true → UniClear s t [] o.p → ∃ s', exec (.nop o) s = .next s' ∧ Alone s s' t on [])
  ∧ (∀ o : FRI, (Instr.wait o).wf = true → UniClear s t [] o.p →
    ((s.qHolds t o.p = false ∨ met o.imm) → ∃ s', exec (.wait o) s = .next s' ∧ Alone s s' t on [])
    ∧ (s.qHolds t o.p = true → ¬ met o.imm → ∃ s', exec (.wait o) s = .next s' ∧ Alone s s' t t []))
  ∧ ∀ o : F3, (Instr.tfence o).wf = true → UniClear s t [] o.p →
    ((s.qHolds t o.p = false ∨ (t.drained = true ∧ t.flags &&& t.fen = 0)) →
      ∃ s', exec (.tfence o) s = .next s' ∧ Alone s s' t on [])
    ∧ (s.qHolds t o.p = true → t.drained = false →
      ∃ s', exec (.tfence o) s = .next s' ∧ Waits s s' t)

/-- Taking a user trap with a handler set and traps unmasked (R255): the record is written, the same values are
saved in handler state, traps are masked and the team goes on at the handler address in handler mode. `trap` and
`brk` name the next clause header (R256); `tfence` with an enabled flag raises ARITH at itself (R87). -/
def Obligations.TrapEntry : Prop := ∀ (s : State) (t : Team), s.Runs t → t.handler.isSet = true → t.handler.mask = false →
  t.handler.off.toNat + 160 ≤ (s.group t.group).spadLen →
  (∀ o : FRI, UniClear s t [] o.p → s.qHolds t o.p = true →
    ((Instr.trap o).wf = true → ∃ s', exec (.trap o) s = .next s'
      ∧ Trapped s s' t .swtrap 0x09 0 o.imm (nextClause t) 0 (nextClause t) 0 false)
    ∧ ((Instr.brk o).wf = true → ∃ s', exec (.brk o) s = .next s'
      ∧ Trapped s s' t .brk 0x0A 0 o.imm (nextClause t) 0 (nextClause t) 0 false))
  ∧ ∀ o : F3, (Instr.tfence o).wf = true → UniClear s t [] o.p → s.qHolds t o.p = true → t.drained = true →
    t.flags &&& t.fen ≠ 0 → ∃ s', exec (.tfence o) s = .next s'
    ∧ Trapped s s' t .arith 0x08 0 0 t.pc t.word (pastWord t).1 (pastWord t).2 (t.loaded || t.tested)

/-- Setting a handler, masking traps, returning from a trap to the saved position or past it, and a hypervisor
call, which parks the team (R254, R256, R334). What a kept race instruction adds is left out. -/
def Obligations.TrapReturn : Prop := ∀ (s : State) (t : Team), s.Runs t →
  let on (u : Team) : Team := { u.advance 1 with last := s.stamp }
  let back (pc : DWord) (word : Nat) (tested : Bool) : Team := { t with
    pc := pc, word := word, clause := [], loaded := false, tested := tested, waiting := false, stall := none, bar := none
    retired := t.retired + 1, last := s.stamp, parked := .no, handler := { t.handler with mode := false, mask := false, kept := none } }
  (∀ o : F3, UniClear s t [] o.p → s.qHolds t o.p = true → t.handler.mode = true → pathVids t.div = none →
    (∀ p ∈ t.replay, memOf p.instr = none) →
    ((Instr.rfh o).wf = true → t.handler.kept = none → ∃ s', exec (.rfh o) s = .next s'
      ∧ Alone s s' t (back t.handler.pc t.handler.word t.handler.tested) [])
    ∧ ((Instr.rfhSkip o).wf = true → ∃ s', exec (.rfhSkip o) s = .next s'
      ∧ Alone s s' t (back t.handler.spc t.handler.sword (t.handler.tested && t.handler.sword != 0)) []))
  ∧ (∀ o : F3, UniClear s t [] o.p → s.qHolds t o.p = true →
    ((Instr.tmaskOff o).wf = true → ∃ s', exec (.tmaskOff o) s = .next s'
      ∧ Alone s s' t (on { t with handler := { t.handler with mask := false } }) [])
    ∧ ((Instr.tmaskOn o).wf = true → ∃ s', exec (.tmaskOn o) s = .next s'
      ∧ Alone s s' t (on { t with handler := { t.handler with mask := true } }) []))
  ∧ (∀ o : FBR, (Instr.hset o).wf = true → UniClear s t [(o.r, 1)] o.p → s.qHolds t o.p = true →
    (s.uniVal t o.r 1).extractLsb' 0 5 = 0 → ∃ s', exec (.hset o) s = .next s'
    ∧ Alone s s' t (on { t with handler :=
        if o.r = Reg.z ∧ o.off = 0 then { t.handler with isSet := false }
        else { t.handler with isSet := true, addr := target t o.off, off := (s.uniVal t o.r 1).setWidth 32 } }) [])
  ∧ ∀ o : FRI, (Instr.hcall o).wf = true → UniClear s t [] o.p → s.qHolds t o.p = true → ∃ s', exec (.hcall o) s = .next s'
    ∧ ∃ k, s'.team? t.ctx = some { atClause s t (nextClause t) with parked := .hcall, last := k }
    ∧ s'.groups = s.groups ∧ s'.fams = s.fams ∧ ∀ c, c ≠ t.ctx → s'.team? c = s.team? c

/-- Traps of register instructions in the order of R51: UNDECL before UNWAITED before PLACE before SHAPE, each
taken at the instruction, which has no effect (R47, R50, R59, R255). -/
def Obligations.RegisterTraps : Prop := ∀ (o : F3) (s : State) (t : Team), s.Runs t → t.handler.isSet = true →
  t.handler.mask = false → t.handler.off.toNat + 160 ≤ (s.group t.group).spadLen →
  ∀ i ∈ [Instr.add o, .sub o, .mul o, .min o, .max o, .and o, .or o, .xor o, .andn o, .fadd o, .fsub o, .fmul o],
  i.wf = true →
  let f := bin o
  let named (k : Nat) : Prop := ∃ x ∈ f.regs, k ∈ regNums x.1 x.2
  let undecl : Prop := ∃ k, named k ∧ (253 < k ∨ (s.entry t k).kind = .none)
  let pending : Prop := ∃ e ∈ t.pend, t.own e.1 = true ∧ named e.2.toNat
  let apart : Prop := ∃ x ∈ f.regs, ∃ k ∈ regNums x.1 x.2,
    (s.entry t k).loc ≠ (s.entry t x.1.toNat).loc ∨ (s.entry t k).kind = .bank
  let noPred : Prop := ∀ e ∈ t.pendP, t.own e.1 = false
  let traps (c : Cause) (code : Nat) : Prop := ∃ s', exec i s = .next s'
    ∧ Trapped s s' t c code 0 0 t.pc t.word (pastWord t).1 (pastWord t).2 (t.loaded || t.tested)
  (undecl → traps .undecl 0x03)
  ∧ (¬ undecl → pending → traps .unwaited 0x02)
  ∧ (¬ undecl → ¬ pending → noPred → apart → traps .place 0x04)
  ∧ (¬ undecl → ¬ pending → noPred → ¬ apart → Reg.noName o.d = false → (s.entry t o.d.toNat).kind = .team →
    (∃ x ∈ f.srcs, srcAtLane s t x = true) → traps .shape 0x0C)

/-- Loads, stores, full-empty operations and atomics issue in order at the core, at LANE for each active lane or at
the uniform unit, and with a false predicate do nothing (R57, R61, R167, R169, R171 to R177, R181 to R185). -/
def Obligations.MemoryIssue : Prop := ∀ (i : Instr) (m : MemDesc) (s : State) (t : Team), memOf i = some m → i.wf = true →
  s.Runs t → t.span = none → pathVids t.div = none → t.inFallback = false → MemClear s t m → t.ctr (m.ctr false) < 63 →
  let words (l : Lane) : List DWord := (List.range m.regs).map (fun k =>
    if m.o.data = Reg.z then 0 else (laneReg l (m.o.data.toNat + k)).setWidth 64)
  let uniWords : List DWord := (List.range m.regs).map (fun k =>
    if m.o.data = Reg.z then 0 else (s.uni t (m.o.data.toNat + k)).setWidth 64)
  let act := t.active m.o.p
  (memAtLane s t m = true → (∀ l ∈ act, reachable s t m (baseOf s t m l)) →
    (act ≠ [] → ∃ s', exec i s = .next s' ∧ Sent i m false (act.map (fun l =>
      pLane l.vid ((if m.kind.takes then words l else []) ++ [0]) (m.ea (baseOf s t m l)))) s s' t)
    ∧ (act = [] → ∃ s', exec i s = .next s' ∧ Alone s s' t { t.advance 1 with last := s.stamp } []))
  ∧ (memAtLane s t m = false → reachable s t m (s.uniVal t m.o.base m.baseRegs) →
    (s.qHolds t m.o.p = true → ∃ s', exec i s = .next s' ∧ Sent i m true [pLane 0 ((if m.kind.takes then uniWords else []) ++ [0])
      (m.ea (s.uniVal t m.o.base m.baseRegs))] s s' t)
    ∧ (s.qHolds t m.o.p = false → ∃ s', exec i s = .next s' ∧ Alone s s' t { t.advance 1 with last := s.stamp } []))

/-- What each memory instruction accesses: the bytes, the address, the counter, the registers it gives (R57, R106, R167,
R172, R175, R176, R181 to R184). -/
def Obligations.MemoryForms : Prop := ∀ (o : FMem) (w : Width) (op : AOp) (bf : Bool) (base : DWord),
  let is (i : Instr) (size regs gives : Nat) (c : Ctr) (ea : DWord) : Prop := ∃ m, memOf i = some m ∧ m.o = o ∧ m.size = size
    ∧ m.regs = regs ∧ m.gives = gives ∧ m.ctr false = c ∧ m.ea base = ea
  let gen := base + o.off.signExtend 64
  let low : Word := base.setWidth 32 + o.off.signExtend 32
  let own : DWord := 0xFE00_0000_0000_0000 ||| low.setWidth 64
  let member : DWord := 0xFD00_0000_0000_0000 ||| (base.extractLsb' 32 32).setWidth 64 <<< 32 ||| low.setWidth 64
  let b := Width.bytes w
  let r := Width.regs w
  is (.ld w o) b r r .ld gen ∧ is (.st w o) b r 0 .st gen ∧ is (.ldu w o) b r r .ld gen ∧ is (.stu w o) b r 0 .st gen
  ∧ is (.lds w o) b r r .ld own ∧ is (.sts w o) b r 0 .st own ∧ is (.ldc w o) b r r .ld member
  ∧ is (.stc w o) b r 0 .st member ∧ is (.ldk w o) b r r .ld gen ∧ is (.setfe o) 1 0 0 .st own ∧ is (.clrfe o) 1 0 0 .st own
  ∧ is (.atom op o) (4 * AOp.regs op) (AOp.regs op) (AOp.regs op) .ld gen
  ∧ is (.red op o) (4 * AOp.regs op) (AOp.regs op) 0 .st gen
  ∧ is (.atomcas false o) 4 2 1 .ld gen ∧ is (.atomcas true o) 8 4 2 .ld gen
  ∧ is (.atomf bf o) 4 1 1 .ld gen ∧ is (.redf bf o) 4 1 0 .st gen

/-- What an atomic writes over the old value, from the words of DATA (R181 to R183): signed and unsigned minima
and maxima, sums modulo 2^w, compare and swap, and floating-point sums rounded to nearest. -/
def Obligations.AtomicValues : Prop := ∀ (a b c d : Word),
  let lo (x : Option Nat × Flags) : Option (BitVec 32) := x.1.map (BitVec.ofNat 32)
  let hi (x : Option Nat × Flags) : Option (BitVec 64) := x.1.map (BitVec.ofNat 64)
  let a1 (op : AOp) : Option (BitVec 32) := lo ((AccKind.atom op true).update a.toNat [b.setWidth 64])
  let a2 (op : AOp) : Option (BitVec 64) := hi ((AccKind.atom op true).update (b ++ a).toNat [c.setWidth 64, d.setWidth 64])
  let x : BitVec 64 := b ++ a
  let y : BitVec 64 := d ++ c
  a1 .add32 = some (a + b) ∧ a2 .add64 = some (x + y)
  ∧ a1 .minS32 = some (if b.slt a then b else a) ∧ a2 .minS64 = some (if y.slt x then y else x)
  ∧ a1 .maxS32 = some (if a.slt b then b else a) ∧ a2 .maxS64 = some (if x.slt y then y else x)
  ∧ a1 .minU32 = some (if b.ult a then b else a) ∧ a1 .maxU32 = some (if a.ult b then b else a)
  ∧ a1 .and32 = some (a &&& b) ∧ a2 .and64 = some (x &&& y)
  ∧ a1 .or32 = some (a ||| b) ∧ a2 .or64 = some (x ||| y)
  ∧ a1 .xor32 = some (a ^^^ b) ∧ a2 .xor64 = some (x ^^^ y)
  ∧ a1 .xchg32 = some b ∧ a2 .xchg64 = some y
  ∧ lo ((AccKind.cas false).update a.toNat [b.setWidth 64, c.setWidth 64]) = (if a = b then some c else none)
  ∧ (∀ e f : Word, hi ((AccKind.cas true).update x.toNat [c.setWidth 64, d.setWidth 64, e.setWidth 64, f.setWidth 64])
      = if x = y then some (f ++ e) else none)
  ∧ (let r := ffF32.roundX .rn false (FVal.sum .rn [ffF32.val a.toNat, ffF32.val b.toNat])
    (AccKind.addf false true).update a.toNat [b.setWidth 64] = (some r.1, r.2))
  ∧ (let r (i : Nat) := ffBF16.roundX .rn false
      (FVal.sum .rn [ffBF16.val (a.extractLsb' (16 * i) 16).toNat, ffBF16.val (b.extractLsb' (16 * i) 16).toNat])
    (AccKind.addf true true).update a.toNat [b.setWidth 64] = (some ((r 0).1 % 2 ^ 16 + 2 ^ 16 * ((r 1).1 % 2 ^ 16)), (r 0).2 ||| (r 1).2))

/-- Accesses at a scratchpad that no race and no synchronisation concerns: a load answers with the bytes, a store
writes each byte from the highest lane that covers it, an atomic is one indivisible update; a full-empty operation
sets or clears the bit of its granule (R62, R63, R169, R172, R177, R181, R184, R261). -/
def Obligations.ScratchpadAccesses : Prop := ∀ (m : MemDesc) (s : State) (n g : Nat) (r : Req) (t : Team) (pk : Packet),
  memOf r.instr = some m → Taken s n r t pk → (∃ b, r.target = .spad g b) → r.op = .access → pk.checked = true →
  m.acquires = false → m.releases = false → m.o.fec = false → m.o.few = false →
  let off (l : PLane) : Nat := l.addr.toNat % 2 ^ 32
  let k := s.group g
  (∀ l ∈ r.lanes, s.memSpace t.group m l.addr = .spad g (off l) ∧ k.poisoned (off l) m.size = false) → r.lanes ≠ [] →
  let done (s' : State) (ls : List AnsLane) (fl : Flags) : Prop :=
    s'.reqs = s.reqs.eraseIdx n ∧ s'.mem = s.mem
    ∧ (∃ id way, s'.answers = s.answers ++ [{ ctx := r.ctx, gen := r.gen, seq := r.seq, target := r.target, op := .access
                                              lanes := ls, flags := fl, poison := none, stop := none, id := id, route := way }])
    ∧ ∀ h, h ≠ g → s'.group h = s.group h
  ((∀ sx, m.kind = .load sx → ∃ s', exec (.requestAtTarget n) s = .next s'
    ∧ done s' (r.lanes.map (fun l => ansLane l.vid (loadWords sx (Mem.readN k.spad (off l) m.size)))) 0 ∧ s'.group g = k))
  ∧ (m.kind = .store → (∀ l ∈ r.lanes, m.size ≤ 4 * (l.ops.length)) → ∃ s', exec (.requestAtTarget n) s = .next s'
    ∧ done s' (r.lanes.map (fun l => ansLane l.vid [])) 0
    ∧ ∀ a, (s'.group g).spad.read a = match coveredBy off m.size r.lanes a with
      | some l => BitVec.ofNat 8 ((opAt l.ops ((a - off l) / 4)).toNat / 2 ^ (8 * ((a - off l) % 4)))
      | none => k.spad.read a)
  ∧ (m.kind.isAtomic = true → ∀ l, r.lanes = [l] →
    let u := m.kind.update (leNat (Mem.readN k.spad (off l) m.size)) l.ops
    ∃ s', exec (.requestAtTarget n) s = .next s'
    ∧ done s' [ansLane l.vid (if m.gives = 0 then [] else valWords m.size (leNat (Mem.readN k.spad (off l) m.size)))] u.2
    ∧ (s'.group g).spad = match u.1 with
      | some v => Mem.writeN k.spad (off l) (leBytes m.size v)
      | none => k.spad)
  ∧ (∀ b, m.kind = .fe b → ∃ s', exec (.requestAtTarget n) s = .next s'
    ∧ done s' (r.lanes.map (fun l => ansLane l.vid [])) 0 ∧ (s'.group g).spad = k.spad
    ∧ ∀ gr, (s'.group g).full.contains gr = if r.lanes.any (fun l => off l / 16 == gr) then b else k.full.contains gr)

/-- The core takes the answer of an access that completes its packet: the values reach DATA in each lane, the flags
join, the counter falls, nothing of the packet is pending any more and its acknowledgement is due; the
acknowledgement drops the packet and its records (R57, R59, R61, R62, R65, R173). -/
def Obligations.Completions : Prop := (∀ (m : MemDesc) (s : State) (n : Nat) (a : Answer) (t : Team) (pk : Packet),
  s.answers[n]? = some a → a.route = [] → s.team? a.ctx = some t → t.ctx = a.ctx → t.pk? a.seq = some pk → memOf pk.instr = some m →
  a.gen = t.gen → pk.complete = false → pk.inst = .core → pk.uniform = false → a.op = .access → a.poison = none → a.stop = none →
  descOf pk.instr = none → m.gives ≠ 0 → m.o.few = false →
  (∀ l ∈ a.lanes, l.fault = none ∧ l.vals.length = m.gives) → (∀ l ∈ pk.lanes, a.lanes.any (fun x => x.vid == l.vid) = true) →
  ∃ s', exec (.completionReceive n) s = .next s' ∧ s'.mem = s.mem ∧ s'.groups = s.groups ∧ s'.fams = s.fams
    ∧ s'.answers = s.answers.eraseIdx n ∧ s'.acks = s.acks ++ [(t.ctx, a.seq)]
    ∧ ∃ t', s'.team? t.ctx = some t' ∧ t'.flags = t.flags ||| a.flags ∧ t'.ctr pk.ctr = t.ctr pk.ctr - 1
    ∧ (∀ e ∈ t'.pend, e ∈ t.pend ∧ ¬ (e.1 = pk.path ∧ e.2.toNat ∈ m.pend))
    ∧ t'.lanes = t.lanes.map (fun l => match a.lanes.find? (fun x => x.vid == l.vid) with
      | some x => putLaneWords l m.o.data x.vals
      | none => l))
  ∧ ∀ (s : State) (n ctx : Nat) (seq : BitVec 16) (t : Team), s.acks[n]? = some (ctx, seq) → s.team? ctx = some t →
  ∃ s', exec (.completionAcknowledgement n) s = .next s' ∧ s'.acks = s.acks.eraseIdx n
    ∧ s'.records = s.records.filter (fun r => !(r.ctx == ctx && r.seq == seq))
    ∧ s'.team? ctx = some { t with ctx := ctx, replay := t.replay.filter (fun p => p.seq != seq) } ∧ s'.mem = s.mem

/-- A transaction span opens for the active lanes, aborts them on request, shows their status and waits for its
commit; once earlier accesses have been performed, and with no lane left ACTIVE, the commit closes it (R186, R189 to R191,
R268). -/
def Obligations.TransactionSpans : Prop := ∀ (s : State) (t : Team), s.Runs t →
  let vids (p : Pred) : List Nat := (t.active p).map (fun l => l.vid)
  (∀ o : FMem, (Instr.tbeg o).wf = true → (∀ e ∈ t.pendP, t.own e.1 = true → e.2 ≠ predKey false o.p.num.toNat) →
    t.span = none → (t.active o.p = [] → ∃ s', exec (.tbeg o) s = .next s' ∧ Alone s s' t { t.advance 1 with last := s.stamp } [])
    ∧ (t.active o.p ≠ [] → ∃ s', exec (.tbeg o) s = .next s' ∧ Alone s s' t { t.advance 1 with
      last := s.stamp, span := some { scope := o.scope, depth := divDepth t.div }
      lanes := t.lanes.map (fun l =>
        if (vids o.p).contains l.vid then { l with tx := { st := .active, code := 0, log := [], buf := [] } }
        else if (t.current.map (fun l => l.vid)).contains l.vid then { l with tx := { st := .none, code := 0, log := [], buf := [] } }
        else l) } []))
  ∧ (∀ o : FMem, (Instr.tend o).wf = true → ∀ sp, t.span = some sp → sp.depth = divDepth t.div →
    ∃ s', exec (.tend o) s = .next s' ∧ Alone s s' t { t with waiting := true, tend := true } [])
  ∧ (∀ o : F3, (Instr.tabt o).wf = true → (∀ e ∈ t.pendP, t.own e.1 = true → e.2 ≠ predKey false o.p.num.toNat) →
    ∃ s', exec (.tabt o) s = .next s' ∧ Alone s s' t { t.advance 1 with
      last := s.stamp
      lanes := t.lanes.map (fun l => if t.span.isSome && l.tx.st == .active && (vids o.p).contains l.vid
        then { l with tx := { st := .explicit, code := o.imm, log := [], buf := [] } } else l) } [])
  ∧ (∀ o : F3, let x : Cross := ⟨⟨o.p, .reg o.d 1, []⟩, none, true, false, []⟩
    (Instr.tstat o).wf = true → x.Clear s t → ∃ s', exec (.tstat o) s = .next s'
    ∧ x.Done (fun _ => acting (fun l =>
      let tx := ((t.lanes.find? (fun y => y.vid == l.vid)).map (fun y => y.tx)).getD { st := .none, code := 0, log := [], buf := [] }
      let status : Nat := match tx.st with
        | .none => 0 | .active => 1 | .committed => 2 | .conflict => 3 | .lane => 4 | .capacity => 5 | .fault => 6
        | .halted => 7 | .unsupported => 8 | .explicit => 9
      (BitVec.ofNat 64 (status + (if tx.st = .explicit then tx.code.toNat * 2 ^ 8 else 0) + (if t.span.isSome then 2 ^ 31 else 0)),
        false)) 0) (fun _ => 0) s s' t)
  ∧ (t.tend = true → t.span.isSome = true → t.parked = .no → t.out .ld = 0 → t.out .st = 0 → (∀ l ∈ t.lanes, l.tx.st ≠ .active) →
    ∃ s', exec (.transactionCommit t.ctx) s = .next s'
    ∧ Alone (untried s s') s' t { t.advance 1 with span := none, tend := false, last := s.stamp + 1 } [])

/-- Fences: `fence` waits for LD, and for ST where it releases; an acquire at CLUSTER scope or wider leaves no clean
byte in the core's L1, a release writes back what was recorded at a narrower scope, and completes at once where there is
nothing to be written back; `pathf` empties the constant and tile paths; `placef` waits for all three counters and puts
everything of the team in order (R193 to R195, R262 to R264, R276). -/
def Obligations.Fences : Prop := ∀ (s : State) (t : Team), s.Runs t → t.span = none →
  let c := s.coreOf t
  (∀ o : FMem, (Instr.fence o).wf = true → UniClear s t [] o.p → s.qHolds t o.p = true →
    ((t.out .ld ≠ 0 ∨ (o.ord ≠ .acq ∧ t.out .st ≠ 0)) → ∃ s', exec (.fence o) s = .next s' ∧ Waits (untried s s') s' t)
    ∧ (t.out .ld = 0 → (o.ord = .acq ∨ t.out .st = 0) → Tbl.rising (s.core c).l1 →
      let done (s' : State) : Prop := SyncedOn s s' t ∧ s'.groups = s.groups
        ∧ (o.ord ≠ .rel → 2 ≤ scopeRank o.scope → ∀ e ∈ (s'.core c).l1, e.2.clean = [])
        ∧ (o.ord ≠ .acq → 2 ≤ scopeRank o.scope → ∀ e ∈ (s'.core c).l1, e.2.dirty = [] ∨ scopeRank o.scope ≤ scopeRank e.2.scope)
      ((o.ord = .acq ∨ Written s c o.scope) → ∃ s', exec (.fence o) s = .next s' ∧ done s' ∧ s'.mem = s.mem)
      ∧ ∃ s', exec (.fence o) s = .next s' ∧ (done s' ∨ (s'.teams = s.teams ∧ s'.groups = s.groups ∧ s'.mem = s.mem))))
  ∧ (∀ (ps : PathSel) (o : FMem), (Instr.pathf ps o).wf = true → UniClear s t [] o.p → s.qHolds t o.p = true →
    ((t.out .ld ≠ 0 ∨ t.out .st ≠ 0) → ∃ s', exec (.pathf ps o) s = .next s' ∧ Waits (untried s s') s' t)
    ∧ (t.out .ld = 0 → t.out .st = 0 → Written s c o.scope → ∃ s', exec (.pathf ps o) s = .next s'
      ∧ s'.team? t.ctx = some { t.advance 1 with last := s.stamp } ∧ s'.groups = s.groups ∧ s'.mem = s.mem
      ∧ ∀ k ∈ s.coresIn t o.scope, (ps ≠ .tile → (s'.core k).const = []) ∧ (ps ≠ .const → (s'.core k).tile = [])))
  ∧ ∀ o : F3, (Instr.placef o).wf = true → UniClear s t [] o.p → s.qHolds t o.p = true →
    (t.drained = false → ∃ s', exec (.placef o) s = .next s' ∧ Waits s s' t)
    ∧ (t.drained = true → ∃ s', exec (.placef o) s = .next s' ∧ s'.team? t.ctx = some { t.advance 1 with last := s.stamp }
      ∧ s'.mem = s.mem ∧ s'.groups = s.groups ∧ s'.fams = s.fams
      ∧ ∀ r ∈ s'.races, r.ctx = t.ctx → r.kin.contains t.ctx = true)

/-- Barrier objects: `barinit` writes an object and its registry entry; an arrival counts once, adds its bytes and is
followed by the phase test, which releases a `barwait` that awaits the phase; one whose phase is full waits; `barwait` goes
on when the phase is there, parks when it is not, and goes on whatever the object has become once it has been released;
`bwatch` loads a watch slot (R196 to R200). -/
def Obligations.Barriers : Prop := ∀ (o : FMem) (s : State) (t : Team), s.Runs t → t.span = none → s.qHolds t o.p = true →
  let off := ((s.uniVal t o.base 1).setWidth 32 + o.off.signExtend 32 : Word).toNat
  let g := s.group t.group
  let x := objectAt s t off
  let n := (s.uniVal t o.data 1).toNat
  let free : Prop := t.out .ld = 0 ∧ t.out .st = 0
  off % 16 = 0 → off + 16 ≤ g.spadLen → UniClear s t [(o.base, 1)] o.p →
  ((Instr.barinit o).wf = true → UniClear s t [(o.data, 1)] o.p →
    (n % 4096 = 0 ∨ g.registry.contains off = true ∨ g.registry.length < 64) → ∃ s' u, exec (.barinit o) s = .next s'
    ∧ s'.team? t.ctx = some u ∧ unbarred u = unbarred { t.advance 1 with last := s.stamp }
    ∧ s'.mem = s.mem ∧ s'.fams = s.fams ∧ OthersKept s s' t ∧ SpadElsewhere s s' t off
    ∧ objectAt s' t off = { gen := 0, expect := n % 4096, pend := n % 4096, abandoned := 0, init := if n % 4096 = 0 then 0 else 1
                            inb := 0, outb := 0 }
    ∧ ∀ a, a ∈ (s'.group t.group).registry ↔ if n % 4096 = 0 then a ∈ g.registry ∧ a ≠ off else a ∈ g.registry ∨ a = off)
  ∧ (free → x.init = 1 → x.pend ≠ 0 →
    let came (i : Instr) (inb outb : Nat) : Prop := ∃ s', exec i s = .next s' ∧ ChangedOn s s' t ∧ OthersKept s s' t
      ∧ SpadElsewhere s s' t off
      ∧ objectAt s' t off = ({ x with pend := x.pend - 1, inb := (x.inb + inb) % 2 ^ 48, outb := (x.outb + outb) % 2 ^ 48 } : Object).tested
      ∧ s'.mem = s.mem
      ∧ (∀ c u ph1, s.team? c = some u → c ≠ t.ctx → u.group = t.group → u.loaded = true → u.bar = some ⟨off, ph1, none⟩ →
        let y := objectAt s' t off
        (s'.team? c).map (fun u => u.bar) = some (some ⟨off, ph1,
          if y.abandoned = 1 ∨ (y.gen % 2 = 1 ↔ ph1 = true) then some (y.abandoned == 1) else none⟩))
    ((Instr.arrive o).wf = true → came (.arrive o) 0 0)
    ∧ ((Instr.arriveInb o).wf = true → UniClear s t [(o.data, 1)] o.p → came (.arriveInb o) n 0)
    ∧ ((Instr.arriveOutb o).wf = true → UniClear s t [(o.data, 1)] o.p → came (.arriveOutb o) 0 n))
  ∧ ((¬ free ∨ (x.init = 1 ∧ x.pend = 0)) → (Instr.arrive o).wf = true → ∃ s', exec (.arrive o) s = .next s' ∧ Waits s s' t)
  ∧ (∀ ph1, (Instr.barwait ph1 o).wf = true → (∀ e ∈ t.pendP, t.own e.1 = true → e.2 ≠ predKey true (pcodeNum o.data)) →
    let there : Bool := x.abandoned == 1 || (x.gen % 2 == if ph1 then 1 else 0)
    let on (abandoned : Bool) : Prop := ∃ s', exec (.barwait ph1 o) s = .next s' ∧ SyncedOn s s' t ∧ s'.mem = s.mem
      ∧ s'.groups = s.groups ∧ (pcodeNum o.data ≠ 0 → s'.qVal t (pcodeNum o.data) = abandoned)
    (x.init = 1 → t.bar = none → there = true → on (x.abandoned == 1))
    ∧ (∀ b ab, t.bar = some b → b.met = some ab → on ab)
    ∧ (x.init = 1 → t.bar = none → there = false → t.inFallback = false → ∃ s', exec (.barwait ph1 o) s = .next s'
      ∧ Alone s s' t { t with parked := .barwait, bar := some ⟨off, ph1, none⟩ } []))
  ∧ (∀ k, (Instr.bwatch k o).wf = true → ∃ s', exec (.bwatch k o) s = .next s'
    ∧ Alone s s' t { t.advance 1 with watch := t.watch.set k.toNat (some off), last := s.stamp } [])

/-- Declaring a register at LANE or TEAM gives it a row of its own and the value zero; at MEM it is bound to its
address's stack, at BANK to its channel; budgets bound LANE and TEAM; a declared register raises PLACE (R43, R45, R47,
R55, R56, R202). Which row is taken is open (log entry 16). -/
def Obligations.Declarations : Prop := ∀ (k : DKind) (o : FMem) (s : State) (t : Team), s.Runs t → t.span = none →
  (Instr.decl k o).wf = true → s.qHolds t o.p = true → t.div = [] → (s.entry t o.data.toNat).kind = .none →
  UniClear s t (if k = .mem ∨ k = .bank then [(o.base, 2)] else []) o.p →
  let held (p : PKind) : List Nat := (s.fam t.fam).held p
  let lmax := (s.launchOf t).lmax
  let tregs := (s.launchOf t).tregs
  let a := s.uniVal t o.base 2 + o.off.signExtend 64
  let v := (s.group t.group).vd
  let gr := a.toNat / 2 ^ 16 % 2 ^ 40
  let home := ((s.vd v).map.find? (fun r => decide (r.gran ≤ gr) && decide (gr < r.gran + r.ngran))).map (fun r =>
    (r.stack, r.firstch + (gr - r.gran) % 2 ^ r.log2ch))
  let cached : List HomeEnt := (s.die (s.coreOf t / 256)).home.filter (fun e => !e.moved && e.holds (s.asid v) gr)
  (k = .lane → (held .lane).length < lmax → lmax ≤ 1024 → ∃ s', exec (.decl k o) s = .next s' ∧ PlacesKept s s' t [o.data.toNat]
    ∧ (∃ row, row < lmax ∧ row ∉ held .lane
      ∧ s'.entry t o.data.toNat = { kind := .lane, pend := false, index := BitVec.ofNat 10 row, bound := 0 })
    ∧ s'.team? t.ctx = some { t.advance 1 with
        last := s.stamp, lanes := t.lanes.map (fun l => { l with regs := Tbl.set l.regs o.data.toNat 0 }) }
    ∧ s'.mem = s.mem ∧ s'.groups = s.groups)
  ∧ (k = .team → (held .team).length < tregs → tregs ≤ 1024 → ∃ s', exec (.decl k o) s = .next s' ∧ PlacesKept s s' t [o.data.toNat]
    ∧ (∃ row, row < tregs ∧ row ∉ held .team
      ∧ s'.entry t o.data.toNat = { kind := .team, pend := false, index := BitVec.ofNat 10 row, bound := 0 })
    ∧ s'.uni t o.data.toNat = 0 ∧ s'.team? t.ctx = some { t.advance 1 with last := s.stamp }
    ∧ s'.mem = s.mem ∧ s'.groups = s.groups)
  ∧ (∀ stack ch, home = some (stack, ch) → (∀ e ∈ cached, e.place gr = (stack, ch)) → a.extractLsb' 56 8 = 0 →
    (s.vd v).moved = 0 → t.pl < 63 →
    let sent (p : PKind) (index : Nat) (at_ : Target) (i : PInst) : Prop := ∃ s', exec (.decl k o) s = .next s'
      ∧ PlacesKept s s' t [o.data.toNat]
      ∧ s'.entry t o.data.toNat = { kind := p, pend := false, index := BitVec.ofNat 10 index, bound := a }
      ∧ (∃ q n, s'.team? t.ctx = some { t.advance 1 with
          last := n, pl := t.pl + 1, seq := t.seq + 1, sends := q
          replay := t.replay ++ [t.packet (.decl k o) i .pl true [pLane 0 [1] 0] []] })
      ∧ (∃ r, s'.reqs = s.reqs ++ [r] ∧ r.target = at_ ∧ r.op = .exec ∧ r.seq = t.seq ∧ r.ctx = t.ctx ∧ r.instr = .decl k o)
      ∧ s'.mem = s.mem ∧ s'.groups = s.groups
    (k = .mem → sent .mem stack (.welt stack) (.welt stack))
    ∧ (k = .bank → s.holdsSession t (64 * stack + ch) = true → (held .bank).length < 8 →
      sent .bank (64 * stack + ch) (.awl (64 * stack + ch)) (.awl (64 * stack + ch))))

/-- Moving a register from TEAM to LANE broadcasts its value, moving it to where it is does nothing; `undecl` returns
it to NONE; `placeq` gives its map entry (R43, R47, R53, R203 to R205). -/
def Obligations.Moves : Prop := ∀ (s : State) (t : Team), s.Runs t → t.span = none →
  (∀ o : FMem, UniClear s t [] o.p → s.qHolds t o.p = true → t.div = [] →
    (∀ e ∈ t.pend, t.own e.1 = true → e.2 ≠ o.data) → s.Quiet t → o.data.toNat < 254 →
    ((Instr.redecl .lane o).wf = true → (s.entry t o.data.toNat).kind = .team → ((s.fam t.fam).held .lane).length < (s.launchOf t).lmax →
      ∃ s', exec (.redecl .lane o) s = .next s' ∧ PlacesKept s s' t [o.data.toNat] ∧ (s'.entry t o.data.toNat).kind = .lane
      ∧ s'.team? t.ctx = some { t.advance 1 with
          last := s.stamp
          lanes := t.lanes.map (fun l => { l with regs := Tbl.set l.regs o.data.toNat (s.uni t o.data.toNat) }) }
      ∧ s'.mem = s.mem ∧ s'.groups = s.groups)
    ∧ ∀ k, (k = .lane ∧ (s.entry t o.data.toNat).kind = .lane ∨ k = .team ∧ (s.entry t o.data.toNat).kind = .team) →
      (Instr.redecl k o).wf = true → ∃ s', exec (.redecl k o) s = .next s' ∧ Alone s s' t { t.advance 1 with last := s.stamp } [])
  ∧ (∀ o : F3, (Instr.undecl o).wf = true → UniClear s t [] o.p → s.qHolds t o.p = true → t.div = [] → o.d.toNat < 254 →
    (∀ e ∈ t.pend, t.own e.1 = true → e.2 ≠ o.d) →
    ((s.entry t o.d.toNat).kind = .lane → ∃ s', exec (.undecl o) s = .next s' ∧ PlacesKept s s' t [o.d.toNat]
      ∧ (s'.entry t o.d.toNat).kind = .none
      ∧ s'.team? t.ctx = some { t.advance 1 with
          last := s.stamp, lanes := t.lanes.map (fun l => { l with regs := Tbl.del l.regs o.d.toNat }) }
      ∧ s'.mem = s.mem ∧ s'.groups = s.groups)
    ∧ ((s.entry t o.d.toNat).kind = .team → ∃ s', exec (.undecl o) s = .next s' ∧ PlacesKept s s' t [o.d.toNat]
      ∧ (s'.entry t o.d.toNat).kind = .none ∧ s'.team? t.ctx = some { t.advance 1 with last := s.stamp }
      ∧ s'.mem = s.mem ∧ s'.groups = s.groups))
  ∧ ∀ o : F3, let f : Form := ⟨o.p, .reg o.d 1, []⟩
    let e := s.entry t o.a.toNat
    let code : Nat := match e.kind with
      | .none => 0 | .lane => 1 | .team => 2 | .mem => 3 | .bank => 4
    (Instr.placeq o).wf = true → f.Clear s t → ∃ s', exec (.placeq o) s = .next s'
    ∧ f.Done (fun _ => (if code = 0 then 0
        else BitVec.ofNat 64 (code * 2 ^ 12 + (if e.pend then 2 ^ 11 else 0) + e.index.toNat), 0)) s s' t

/-! ## Arithmetic, exactly -/

/-- The result of an operation is the exact result rounded once, and so is a quotient (R77, R78, R81, R148). -/
def Obligations.RoundingIsCorrect : Prop := ∀ f ∈ formats, ∀ (r : Rnd) (sat : Bool),
  (∀ neg m e, m ≠ 0 → RoundedTo f r sat (rat (.fin neg m e)) (f.round r sat (.fin neg m e)))
  ∧ ∀ a b, finite a = true → finite b = true → rat a ≠ 0 → rat b ≠ 0 → RoundedTo f r sat (rat a / rat b) (f.div r sat a b)

/-- Products and sums before rounding are exact; an exact zero sum of numbers that are not all zero is +0, and −0
under RD; ∞·0 and ∞ − ∞ are invalid, a number by zero is ∞ with DZ; the array and the awl units round after every
product that they add (R79, R81, R89, R90, R148, R149, R253). -/
def Obligations.ExactArithmetic : Prop :=
  (∀ a b, finite a = true → finite b = true →
    finite (FVal.mul a b).1 = true ∧ rat (FVal.mul a b).1 = rat a * rat b ∧ (FVal.mul a b).2 = false)
  ∧ (∀ (r : Rnd) (l : List FVal), (∀ x ∈ l, finite x = true) →
    finite (FVal.sum r l).1 = true ∧ rat (FVal.sum r l).1 = (l.map rat).sum ∧ (FVal.sum r l).2 = false
    ∧ ((∃ x ∈ l, rat x ≠ 0) → (l.map rat).sum = 0 → (FVal.sum r l).1 = .fin (r == .rd) 0 0))
  ∧ (∀ (r : Rnd) (x : FVal) (s : Bool), finite x = true →
    FVal.mul (.inf s) x = (if rat x = 0 then (.nan false, true) else (.inf (s != x.neg?), false))
    ∧ FVal.sum r [.inf s, x] = (.inf s, false) ∧ FVal.sum r [.inf s, .inf s] = (.inf s, false)
    ∧ FVal.sum r [.inf s, .inf (!s)] = (.nan false, true))
  ∧ (∀ (acc : Nat) (a b : FVal), finite (ffF32.val acc) = true → finite a = true → finite b = true →
    rat (ffF32.val acc) + rat a * rat b ≠ 0 →
    RoundedTo ffF32 .rn false (rat (ffF32.val acc) + rat a * rat b) (AccKind'.f32.mac acc (.real a) (.real b)))
  ∧ ∀ f ∈ formats, ∀ (r : Rnd) (x : FVal) (s : Bool), finite x = true → rat x ≠ 0 →
    f.div r false x (.fin s 0 0) = ((f.round r false (.inf (x.neg? != s))).1, fDZ ||| (f.round r false (.inf (x.neg? != s))).2)

/-! ## Encoding -/

/-- Decoding the words of a well-formed instruction gives it back, whatever stands after them (R101, R102, R111,
R112). -/
def Obligations.DecodeEncode : Prop := ∀ (i : Instr) (rest : List DWord), i.wf = true → isEvent i = false →
  decode (encode i ++ rest) = .ok i

/-- What decodes is well-formed, and is the one instruction with these words (R112). -/
def Obligations.DecodeSound : Prop := ∀ (ws : List DWord) (i : Instr), decode ws = .ok i →
  i.wf = true ∧ isEvent i = false ∧ encode i = ws.take (wordCount (ws.headD 0)) ∧ ∀ j, decode (encode i) = .ok j → j = i

/-- Words of the spec's worked examples decode to the instructions that they stand for. -/
def Obligations.WordsDecode : Prop :=
  decode [0x0100_302F_E000_0001] = .ok (.add { p := .always, d := 3, a := 2, b := 254, c := 0, ty := .i32, rnd := .rn, sat := false, imm := 1 })
  ∧ decode [0x4200_403F_E002_4430] = .ok (.fmul
    { p := ⟨false, 2⟩, d := 4, a := 3, b := 254, c := 0, ty := .f32, rnd := .rz, sat := false, imm := 0x30 })
  ∧ decode [0x3500_0001_0000_0000] = .ok (.exit { p := ⟨false, 1⟩, cond := .always, r := 0, off := 0 })
  ∧ decode [0xA216_0400_3000_0000, 0x0002_0000_0004_0000] = .ok (.mloop
    { qset := 6, df := .ip, acc := 0, areg := 8, breg := 0, oreg := 0, mreg := 0, steps := 1, ovw := true, sout := false
      ainc := 4, fba := 2, fbb := 0, binc := 0, lclass := 2 })
  ∧ decode [0xA606_0000_0000_0000, 0] = .ok (.mfuse 6)
  ∧ decode [0x0000_0000_0000_0000] = .error .opcode ∧ decode [0xFF00_0000_0000_0000] = .error .opcode

/-! ## A step -/

/-- A step in which a team has its turn runs the instruction that its clause holds there; a word that is none is
ILLEGAL; before that, its clause is fetched. So does a step of an engine program (R36, R95, R99, R100, R240). That the
surroundings choose whose turn it is is log entry 1. -/
def Obligations.StepRunsDecoded : Prop := ∀ (s : State) (rest : List Input), s.inReset = false →
  (∀ t, s.inputs = .issue (.team t.ctx) :: rest → s.team? t.ctx = some t → Issues s t →
    let s0 : State := { s with inputs := rest, turn := .team t.ctx }
    (t.loaded = false → step s = exec .clauseStart s0)
    ∧ (∀ i, t.loaded = true → decode (t.clause.drop t.word) = .ok i → step s = exec i s0)
    ∧ (∀ e, t.loaded = true → t.handler.isSet = true → t.handler.mask = false →
      t.handler.off.toNat + 160 ≤ (s.group t.group).spadLen → decode (t.clause.drop t.word) = .error e →
      ∃ s' spc sword, step s = .next s' ∧ Trapped s0 s' t .illegal 0x01 0 0 t.pc t.word spc sword true))
  ∧ (∀ g k, s.inputs = .issue (.engine g k) :: rest → s.engineMayRun g k = true →
    let e := s.engine g k
    let s0 : State := { s with inputs := rest, turn := .engine g k }
    (e.loaded = false → step s = exec .clauseStart s0)
    ∧ ∀ i, e.loaded = true → decode (e.clause.drop e.word) = .ok i → step s = exec i s0)

/-- A step in which an event is due performs it; in reset nothing but a cold reset happens (R389); otherwise a cycle
passes, and each frame of 1024 cycles ends with its boundary (R313). -/
def Obligations.StepTakesEvent : Prop := ∀ (s : State) (rest : List Input),
  (∀ e, s.inputs = .event e :: rest → isEvent e = true → (s.inReset = false ∨ e = .coldReset) →
    step s = exec e { s with inputs := rest } ∧ ∃ t, exec e { s with inputs := rest } = .next t)
  ∧ (∀ i, s.inputs = i :: rest → s.inReset = true → i ≠ .event .coldReset → step s = .fault .heldInReset)
  ∧ (s.inputs = .issue .none :: rest → s.inReset = false →
    ((s.clock + 1) % 1024 ≠ 0 → step s = .next { s with inputs := rest, clock := s.clock + 1 })
    ∧ ((s.clock + 1) % 1024 = 0 → step s = exec .frameBoundary { s with inputs := rest }))

/-- Every step keeps the memory of the package and every scratchpad in canonical form. -/
def Obligations.StepKeepsMemory : Prop := ∀ (s s' : State), s.memOk → step s = .next s' → s'.memOk

/-- Every step keeps each team under its own context id, no id being held twice (R25). -/
def Obligations.StepKeepsTeams : Prop := ∀ (s s' : State), s.teamsOk → step s = .next s' → s'.teamsOk

/-- After reset memory and teams are in canonical form, there are none; every sector of memory is poisoned; and
registers have the values that the spec's tables give them (R303, R304, R309 to R312, R320, R325, R349, R363, R376,
R388, R393, R397). -/
def Obligations.ResetValues : Prop := let s := State.reset
  s.memOk ∧ s.teamsOk ∧ s.teams = [] ∧ s.groups = [] ∧ s.launches = [] ∧ (∀ q, q ∉ s.sound)
  ∧ (∀ k, (s.domain k).valid = false ∧ (s.domain k).keylive = false ∧ (s.domain k).jnlLog = 8)
  ∧ (∀ v, (s.vd v).valid = false ∧ (s.vd v).cls = 2 ∧ (s.vd v).log2str = 20 ∧ (s.vd v).fq.log2 = 4)
  ∧ (∀ p, (s.chan p).capA = 32 ∧ (s.chan p).capB = 128 ∧ (s.chan p).capC = 512 ∧ (s.chan p).session = none)
  ∧ s.sw.dl1 = 100 ∧ s.sw.dl2 = 200
  ∧ (∀ z, z < 64 → (s.zone z).setpt = 0x0C ∧ (s.zone z).flwarn = 9 ∧ (s.zone z).ocls = 2 ∧ (s.zone z).twarn = 85)
  ∧ (∀ q, (s.queue q).enable = false ∧ (s.queue q).log2 = 4) ∧ ∀ r, (s.route r).valid = false

/-! ## The matrix array -/

/-- A matrix instruction that the checks at issue pass enters the queue of every quadrant of its set, takes a sequence
number, joins the replay set and raises its counter, and changes nothing else but the state as issued; where a queue
is full it waits (R57, R65, R210, R212 to R214, R221, R228). Where the checks find a trap, that trap is taken, QUAD
first (R51, R210). -/
def Obligations.MatrixIssue : Prop := ∀ (i : Instr) (s : State) (t : Team), isMatrix i = true → i.wf = true → s.Runs t →
  t.span = none → MatClear s t i →
  let m := s.group t.group
  let qs := matQuads i m.fuseI
  let c := matCtr i
  let op0 := matOpOf i (matAddrVals s t i)
  let put (op : MatOp) : MatOp :=
    { op with no := s.stamp, quads := qs, fam := t.fam, pc := t.pc, word := t.word, seq := t.seq }
  (m.quadBad i = false → ∀ op, s.matCheck t.group i op0 = .ok op → m.programOn qs = false → t.ctr c < 63 →
    ((∀ e ∈ m.quads, e.1 ∈ qs → e.2.queue.length < 16) → ∃ s', exec i s = .next s'
      ∧ s'.team? t.ctx = some { (t.raise c).advance 2 with
          seq := t.seq + 1
          replay := t.replay ++ [{ t.packet i .core c true (matLanes t i) [] with mat := some (put op) }]
          pend := t.pend ++ ((matDst i).elim [] (fun d => regNums d.1 d.2)).map (fun r => ((pathVids t.div).getD [], BitVec.ofNat 8 r))
          last := s.stamp + 1 }
      ∧ (∀ q x, Tbl.get? m.quads q = some x → ∃ y, Tbl.get? (s'.group t.group).quads q = some y
        ∧ y.queue = x.queue ++ (if q ∈ qs then [{ id := s.stamp, issuer := .team t.ctx t.seq t.gen, op := put op, qset := qsetOf i
                                                  started := false, asked := false, granted := false, loop := noLoop }] else [])
        ∧ y.tiles = x.tiles ∧ y.active = x.active ∧ y.shadow = x.shadow)
      ∧ (s'.group t.group).spad = m.spad ∧ (s'.group t.group).fuse = m.fuse
      ∧ (s'.group t.group).fuseI = (match i with
        | .mfuse q => fuseWith q.toNat m.fuseI
        | _ => m.fuseI)
      ∧ s'.mem = s.mem ∧ s'.fams = s.fams ∧ s'.reqs = s.reqs ∧ (∀ g, g ≠ t.group → s'.group g = s.group g)
      ∧ ∀ k, k ≠ t.ctx → s'.team? k = s.team? k)
    ∧ ((∃ e ∈ m.quads, e.1 ∈ qs ∧ 16 ≤ e.2.queue.length) → ∃ s', exec i s = .next s'
      ∧ s'.team? t.ctx = some { t with stall := some (.quads qs) } ∧ s'.groups = s.groups ∧ s'.mem = s.mem))
  ∧ (m.programOn qs = true → ∃ s', exec i s = .next s' ∧ s'.team? t.ctx = some { t with stall := some (.quads qs) }
    ∧ s'.groups = s.groups ∧ s'.mem = s.mem)
  ∧ (t.handler.isSet = true → t.handler.mask = false → t.handler.off.toNat + 160 ≤ m.spadLen → m.programOn qs = false →
    let traps (tr : Trap) : Prop := ∃ s' spc sword, exec i s = .next s'
      ∧ Trapped (untried s s') s' t tr.cause tr.cause.code tr.addr tr.code t.pc t.word spc sword (t.loaded || t.tested)
    (m.quadBad i = true → traps ⟨.quad, 0, 0⟩)
    ∧ (m.quadBad i = false → ∀ tr, s.matCheck t.group i op0 = .trap tr → traps tr))

/-- An instruction at the head of its queues starts: a loop asks for leave of p = CLSPWR · quadrants, `mswap` exchanges
the planes, `mzero` clears tiles, `mfuse` forms its shape; that an `mldsBar` starts acquires (R213, R225, R228, R229,
R365). -/
def Obligations.MatrixStarts : Prop := ∀ (s : State) (g q : Nat) (e : QEnt), let m := s.group g
  (∃ x, Tbl.get? m.quads q = some x ∧ x.queue.head? = some e) → e.started = false → s.entHeld e = false →
  s.barReady g e = true → s.holds = .off →
  (∀ k ∈ m.quadsWith e.id, (m.quad k).held = [] ∧ ((m.quad k).queue.head?).map (fun y => y.id) = some e.id) →
  let start (x : Quad) (asked : Bool) : Quad := { x with
    queue := x.queue.map (fun y => if y.id = e.id then { y with started := true, asked := asked || y.asked } else y) }
  let becomes (s' : State) (f : Nat → Quad → Quad) : Prop := ∀ k x, Tbl.get? m.quads k = some x →
    Tbl.get? (s'.group g).quads k = some (f k x)
  (∀ o, e.op.instr = .mloop o → ∃ s', exec (.quadrantStart g q) s = .next s' ∧ becomes s' (fun _ x => start x true)
    ∧ s'.zone (m.core / 16) = { s.zone (m.core / 16) with waiting := (s.zone (m.core / 16)).waiting ++
        [{ who := .loop g (quadsOf o.qset.toNat) e.id, vd := m.vd, cls := (s.vd m.vd).cls.toNat
           power := (Tbl.get 0 s.coolant.clspwr o.lclass.toNat).toNat * (quadsOf o.qset.toNat).length, time := s.clock }] }
    ∧ s'.mem = s.mem ∧ s'.teams = s.teams)
  ∧ (∀ n, e.op.instr = .mswap n → ∃ s', exec (.quadrantStart g q) s = .next s' ∧ s'.mem = s.mem ∧ s'.teams = s.teams
    ∧ becomes s' (fun k x =>
      if k ∈ quadsOf n.toNat then { start x false with active := x.shadow, shadow := x.active } else start x false))
  ∧ (∀ o, e.op.instr = .mzero o → ∃ s', exec (.quadrantStart g q) s = .next s' ∧ s'.mem = s.mem ∧ s'.teams = s.teams
    ∧ becomes s' (fun k x => if k ∈ quadsOf o.qset.toNat
      then { start x false with tiles := if o.all then [] else Tbl.set x.tiles o.acc.toNat { words := [], poison := false } }
      else start x false))
  ∧ (∀ n, e.op.instr = .mfuse n → ∃ s', exec (.quadrantStart g q) s = .next s' ∧ s'.mem = s.mem ∧ s'.teams = s.teams
    ∧ (s'.group g).fuse = fuseWith n.toNat m.fuse
    ∧ becomes s' (fun k x => { start x false with
        shape := ((fuseWith n.toNat m.fuse).find? (fun sh => (quadsOf sh).contains k)).getD k }))
  ∧ (∀ o b t p, e.op.instr = .mldsBar o b → s.entPacket e = some (t, p) → ∃ s', exec (.quadrantStart g q) s = .next s'
    ∧ s'.mem = s.mem ∧ becomes s' (fun _ x => start x false) ∧ (∃ u, s'.team? t.ctx = some u ∧ u.acq = s.stamp)
    ∧ ∀ k, k ≠ t.ctx → s'.team? k = s.team? k)
  ∧ ((∀ o b, e.op.instr ≠ .mldsBar o b) → (∀ o, e.op.instr ≠ .mloop o) → (∀ n, e.op.instr ≠ .mswap n) → (∀ o, e.op.instr ≠ .mzero o) → (∀ n, e.op.instr ≠ .mfuse n) →
    m.readsPoison e = false → ∃ s', exec (.quadrantStart g q) s = .next s' ∧ s'.mem = s.mem ∧ s'.teams = s.teams
    ∧ becomes s' (fun _ x => start x false))

/-- A step of an inner-product loop of one quadrant, INT8 by INT8 from the local window: element (k mod 32, n) of the
accumulator gains the sum of the products of A row k with plane column n, or takes it, modulo 2^32; nothing else of the
tile changes (R90, R93, R209, R220, R221). -/
def Obligations.MatrixLoopStep : Prop := ∀ (s : State) (g q off : Nat) (e : QEnt) (x : Quad) (o : MloopOps) (fa fb : FmtBlk),
  let m := s.group g
  q < 4 → Working s g q e x → e.granted = true → e.op.instr = .mloop o → o.qset.toNat = q → o.df = .ip →
  e.loop.step < o.steps.toNat → e.op.fa = some fa → fa.fmt = .i8 → fa.skind = false → fa.sparse = 0 →
  x.active.fmt = some fb → fb.fmt = .i8 → fb.sparse = 0 → x.active.poison = false → (o.ovw = true ∨ x.isPoisoned o.acc.toNat false = false) →
  pitched e.op.a o.ainc e.loop.step = localAddr off → off % 32 = 0 → Sound m off 32 →
  let a (k : Nat) : Int := (m.spad.read (off + k)).toInt
  let b (n k : Nat) : Int :=
    (((Tbl.get { elems := [], scales := [], exts := [], metas := [] : PVec } x.active.cols n).elems.getD k 0).setWidth 8).toInt
  let at_ (y : Quad) (r n : Nat) : Word := BitVec.ofNat 32 (y.elem o.acc.toNat false r n)
  ∃ s' y, exec (.mloopStep g q []) s = .next s' ∧ Tbl.get? (s'.group g).quads q = some y
    ∧ (∀ n, n < 32 → at_ y (e.loop.step % 32) n = (if o.ovw then 0 else at_ x (e.loop.step % 32) n)
      + BitVec.ofInt 32 (((List.range 32).map (fun k => a k * b n k)).sum))
    ∧ (∀ r n, r < 32 → n < 32 → r ≠ e.loop.step % 32 → at_ y r n = at_ x r n)
    ∧ y.pass = x.pass + 1 ∧ y.active = x.active ∧ y.shadow = x.shadow
    ∧ (y.queue.head?).map (fun z => z.loop.step) = some (e.loop.step + 1) ∧ s'.mem = s.mem ∧ s'.teams = s.teams
    ∧ (s'.group g).spad = m.spad ∧ ∀ h, h ≠ g → s'.group h = s.group h

/-- The instructions of a team complete: those whose effect came at their start leave the queues; a loop that has made
its steps ends; `mread` gives lane v element (v mod 32, (col + v / 32) mod 32), `mstat` the status word; `mdrain` writes its
rows, `mlds` fills the shadow plane (R214, R219, R221, R229, R231, R233, R234). -/
def Obligations.MatrixCompletes : Prop := ∀ (s : State) (g q : Nat) (e : QEnt) (x : Quad) (t : Team) (p : Packet) (seq : BitVec 16)
    (gen : BitVec 8), let m := s.group g
  Working s g q e x → e.issuer = .team t.ctx seq gen → s.team? t.ctx = some t → t.pk? seq = some p → p.complete = false →
  p.inst = .core → p.instr = e.op.instr → p.seq = seq →
  let step := exec (.matrixComplete g q) s
  (∀ n o, (e.op.instr = .mswap n ∨ e.op.instr = .mfuse n ∨ e.op.instr = .mzero o) →
    ∃ s', step = .next s' ∧ MatDone s s' g e t p ∧ s'.mem = s.mem ∧ s'.fams = s.fams ∧ (s'.group g).spad = m.spad)
  ∧ (∀ o, e.op.instr = .mloop o → e.granted = true → e.loop.step = o.steps.toNat → o.df = .ip → o.sout = false →
    ∃ s', step = .next s' ∧ MatDone s s' g e t p ∧ s'.mem = s.mem ∧ s'.fams = s.fams ∧ (s'.group g).spad = m.spad)
  ∧ (∀ o, e.op.instr = .mread o → o.qset.toNat = q → ∃ s', step = .next s' ∧ MatDone s s' g e t p ∧ s'.mem = s.mem
    ∧ (s'.team? t.ctx).map (fun t => t.lanes) = some (t.lanes.map (fun l =>
      if p.lanes.any (fun y => y.vid == l.vid) then setLaneRegs l o.dst (if o.w64 then 2 else 1)
        (BitVec.ofNat 64 (x.elem o.acc.toNat o.w64 (l.vid % 32) ((o.col.toNat + l.vid / 32) % 32))) else l)))
  ∧ (∀ n d, e.op.instr = .mstat n d → n.toNat = q → d ≠ Reg.z → (s.entry t d.toNat).kind = .team → ∃ s', step = .next s'
    ∧ MatDone s s' g e t p ∧ s'.mem = s.mem ∧ s'.uni t d.toNat = BitVec.ofNat 32
      (((List.range 8).map (fun a => if (x.tile a).poison then 2 ^ a else 0)).sum + (if s.isMapped m.core q then 2 ^ 8 else 0)
        + (if (s.zone (m.core / 16)).state ∈ [1, 2, 3, 4, 5, 6, 7, 8, 9] then 2 ^ 9 else 0) + x.shape % 16 * 2 ^ 10
        + x.lclass.toNat * 2 ^ 14 + x.scol.toNat * 2 ^ 18 + x.srow.toNat * 2 ^ 23 + x.mism.toNat * 2 ^ 28))
  ∧ (∀ o off, e.op.instr = .mdrain o → (Instr.mdrain o).wf = true → o.qset.toNat = q → o.add = false → o.ikind = .i32 →
    o.ofmt = .i32 → e.loop = noLoop → e.op.o = localAddr off → off % 128 = 0 → o.pitch.toNat % 8 = 0 →
    off + 31 * (16 * o.pitch.toNat) + 128 ≤ m.spadLen → m.spadLen < 2 ^ 32 → ∃ s', step = .next s' ∧ MatDone s s' g e t p
    ∧ s'.mem = s.mem
    ∧ (∀ r n, r < 32 → n < 32 → (s'.group g).spadNum (off + r * (16 * o.pitch.toNat) + 4 * n) 4 = x.elem o.acc.toNat false r n)
    ∧ ∀ a, (∀ r, r < 32 → a < off + r * (16 * o.pitch.toNat) ∨ off + r * (16 * o.pitch.toNat) + 128 ≤ a) →
      (s'.group g).spad.read a = m.spad.read a)
  ∧ ∀ o off f, e.op.instr = .mlds o → o.qset.toNat = q → q < 4 → e.op.fb = some f → f.fmt = .i8 → f.skind = false → f.sparse = 0 →
    e.op.b = localAddr off → off % 32 = 0 → o.pitch.toNat % 2 = 0 →
    Sound m off (31 * (16 * o.pitch.toNat) + 32) → m.spadLen < 2 ^ 32 → ∃ s' y, step = .next s' ∧ MatDone s s' g e t p ∧ s'.mem = s.mem
    ∧ Tbl.get? (s'.group g).quads q = some y ∧ y.shadow.fmt = some f ∧ y.active = x.active ∧ y.tiles = x.tiles
    ∧ ∀ n, n < 32 → ∃ v, Tbl.get? y.shadow.cols n = some v
      ∧ v.elems = (List.range 32).map (fun k => (m.spad.read (off + n * (16 * o.pitch.toNat) + k)).setWidth 64)

/-! ## Nests, engine programs, copies -/

/-- `nest` and `ragged` issue as one packet each (R59, R246, R249). The addresses of a nest at tuple i are
base + Σ z·2^shift·stride·i_k, its values those of its operation (R246, R247); a `ragged` hands out positions in ascending
virtual id, skipping rows that have ended, and (n, 0, true) past the last (R249). -/
def Obligations.Nests : Prop :=
  (∀ (op : NestOp) (ty : Ty) (n : FN) (s : State) (t : Team), let i : Instr := .nest op ty n
    i.wf = true → s.Runs t → t.span = none → UniClear s t (nestRegs op n) n.p → t.st < 63 →
    let d := s.uniVal t n.bd 2
    let a := s.uniVal t n.ba 2
    let b := if NestOp.usesB op (FN.reduces n) then s.uniVal t n.bb 2 else 0
    (∀ x ∈ [d, a, b], x.toNat % nestBytes ty = 0) →
    (∀ k, k < FN.count n → ∀ x ∈ nestAddrs op ty n [d, a, b] k, x.2 >>> 56 ≠ 0xFD) →
    (s.qHolds t n.p = true → ∃ s', exec i s = .next s' ∧ Packed s s' t 4
      (t.packet i .core .st true [pLane 0 [d, a, b, 0] 0] []) [] []
      [{ target := .core (s.coreOf t), op := .access, lanes := [pLane 0 [d, a, b, 0] 0] }])
    ∧ (s.qHolds t n.p = false → ∃ s', exec i s = .next s' ∧ Alone s s' t { t.advance 4 with last := s.stamp } []))
  ∧ (∀ (ty : Ty) (n : FN) (base : DWord) (i x : Nat), x < 3 → n.depth.toNat ≤ 5 →
    FN.adr n (nestBytes ty) x base (tupleOf i (FN.exts n)) = base + BitVec.ofInt 64 (((List.range n.depth.toNat).map (fun k =>
      ((nestBytes ty * 2 ^ (if x = 0 then n.shd else if x = 1 then n.sha else n.shb).toNat : Nat) : Int)
        * (n.strides.extractLsb' (8 * (3 * k + x)) 8).toInt * (nestIndex n i k : Int))).sum))
  ∧ (∀ (ty : Ty) (d a b : DWord),
    (∀ red, Ty.isFloat ty = false → NestOp.apply .mac ty red d a b = elemwise ty false (fun d a b => d + a * b) [d, a, b])
    ∧ (Ty.isFloat ty = false →
      NestOp.apply .copy ty false d a b = (a, 0) ∧ NestOp.apply .add ty false d a b = elemwise ty false (fun _ a b => a + b) [d, a, b]
      ∧ NestOp.apply .sub ty false d a b = elemwise ty false (fun _ a b => a - b) [d, a, b]
      ∧ NestOp.apply .mul ty false d a b = elemwise ty false (fun _ a b => a * b) [d, a, b]
      ∧ NestOp.apply .min ty false d a b = elemwise ty false (fun _ a b => min a b) [d, a, b]
      ∧ NestOp.apply .max ty false d a b = elemwise ty false (fun _ a b => max a b) [d, a, b]
      ∧ NestOp.apply .add ty true d a b = elemwise ty false (fun d a _ => d + a) [d, a, b]
      ∧ NestOp.apply .min ty true d a b = elemwise ty false (fun d a _ => min d a) [d, a, b]
      ∧ NestOp.apply .max ty true d a b = elemwise ty false (fun d a _ => max d a) [d, a, b])
    ∧ NestOp.apply .and ty false d a b = (a &&& b, 0) ∧ NestOp.apply .and ty true d a b = (d &&& a, 0)
    ∧ NestOp.apply .or ty false d a b = (a ||| b, 0) ∧ NestOp.apply .xor ty true d a b = (d ^^^ a, 0)
    ∧ (Ty.isFloat ty = true → ∀ red,
      NestOp.apply .mac ty red d a b = feach ty (fun f v => f.dot .rn false [(v 1, v 2)] (v 0)) [d, a, b]))
  ∧ (∀ (pr : BitVec 3) (n : FN) (s : State) (t : Team), let i : Instr := .ragged pr n
    i.wf = true → s.Runs t → t.span = none → UniClear s t [(n.ba, 2), (n.bb, 2)] .always → t.ld < 63 →
    (∀ k ∈ regNums n.bd 2, k < 254 ∧ (s.entry t k).kind = .lane) →
    (∀ e ∈ t.pend, t.own e.1 = true → e.2.toNat ∉ regNums n.bd 2) →
    (∀ e ∈ t.pendP, t.own e.1 = true → e.2 ≠ predKey false n.p.num.toNat ∧ e.2 ≠ predKey false pr.toNat) →
    let a := s.uniVal t n.ba 2
    let lanes := (sortBy (fun l => l.vid) (t.active n.p)).map (fun l => pLane l.vid [a, s.uniVal t n.bb 2] a)
    a.toNat % 4 = 0 → (∀ r, r ≤ n.x0.toNat → (a + BitVec.ofNat 64 (4 * r)) >>> 56 ≠ 0xFD) →
    (t.active n.p ≠ [] → ∃ s', exec i s = .next s' ∧ Packed s s' t 4 (t.packet i .core .ld false lanes [])
      (regNums n.bd 2 ++ regNums n.bb 2) [predKey false pr.toNat]
      [{ target := .core (s.coreOf t), op := .access, lanes := lanes }])
    ∧ (t.active n.p = [] → ∃ s', exec i s = .next s' ∧ Alone s s' t { t.advance 4 with last := s.stamp } []))
  ∧ ∀ (s : State) (t : Team) (w : Who) (off n : Nat) (ls : List PLane) (rc : Nat × Nat), off % 4 = 0 → n ≤ 4096 →
    Sound (s.group t.group) off (4 * n) → off + 4 * n ≤ 2 ^ 32 → rc.2 < 2 ^ 32 →
    let len (r : Nat) : Nat := (s.group t.group).spadNum (off + 4 * r) 4
    (s.ragHand t w (localAddr off) n ls rc { lens := [], stop := none }).1 =
      List.zipWith (fun l r => ansLane l.vid (if n ≤ r.1 then [BitVec.ofNat 64 n, 0, 1]
        else [BitVec.ofNat 64 r.1, BitVec.ofNat 64 r.2, boolOp (r.2 == 0)])) ls (handed len n ls.length rc)

/-- `fork` starts an engine program with the TEAM registers that it names, the team going on; it waits for an older
program of its target until that has reached its `rdv`. `rdv` parks the team until every program that it forked has ended, and an engine program that
reaches its own ends once nothing of its engine is outstanding, with those before it that wait so (R237 to R239). -/
def Obligations.ForksAndMeetings : Prop := ∀ (s : State),
  (∀ (o : ForkOps) (t : Team), (Instr.fork o).wf = true → s.Runs t → t.span = none → s.qHolds t o.p = true →
    UniClear s t ((ForkOps.regs o).map (fun r => (BitVec.ofNat 8 r, 1))) o.p → (s.group t.group).forkBad o = false →
    let k := match o.tgt with
      | .matrix => 8 + o.qset.toNat
      | .lace n => 1 + n.toNat
    let old := s.engine t.group k
    ((s.group t.group).forkHeld o = false → ∃ s', exec (.fork o) s = .next s'
      ∧ s'.engine t.group k = { resetEngine with
          running := true, fam := t.fam, qset := o.qset.toNat, pc := target t o.off
          regs := (ForkOps.regs o).zipIdx.map (fun x => (x.2, s.uni t x.1))
          draining := if old.running then old.draining ++ [old.fam] else old.draining, out := old.out, seq := old.seq }
      ∧ k ∈ (s'.fam t.fam).forks ∧ (∀ j, j ≠ k → s'.engine t.group j = s.engine t.group j)
      ∧ s'.team? t.ctx = some { t.advance 2 with last := s.stamp } ∧ s'.mem = s.mem
      ∧ (s'.group t.group).spad = (s.group t.group).spad)
    ∧ ((s.group t.group).forkHeld o = true → ∃ s', exec (.fork o) s = .next s' ∧ Waits s s' t))
  ∧ (∀ (o : F3) (t : Team), (Instr.rdv o).wf = true → s.Runs t → t.span = none → s.qHolds t o.p = true → UniClear s t [] o.p →
    ((s.fam t.fam).forks ≠ [] → ∃ s', exec (.rdv o) s = .next s' ∧ Alone s s' t { t with parked := .rdv } [])
    ∧ ((s.fam t.fam).forks = [] → (s.fam t.fam).stops = [] → ∃ s', exec (.rdv o) s = .next s' ∧ SyncedOn s s' t
      ∧ s'.mem = s.mem ∧ s'.groups = s.groups ∧ s'.fams = s.fams))
  ∧ (∀ (o : F3) (g k : Nat), (Instr.rdv o).wf = true → s.EngineRuns g k → o.p = .always → ∃ s', exec (.rdv o) s = .next s'
    ∧ s'.engine g k = { s.engine g k with rdv := true } ∧ s'.mem = s.mem ∧ s'.teams = s.teams ∧ s'.fams = s.fams)
  ∧ ∀ g k, let e := s.engine g k
    e.running = true → e.rdv = true → e.out = 0 → ∃ s', exec (.engineProgramEnd g k) s = .next s'
    ∧ s'.engine g k = { e with running := false, draining := [] }
    ∧ (∀ f j, ((s'.fam f).forks.count j) = (s.fam f).forks.count j - if j = k then (e.draining ++ [e.fam]).count f else 0)
    ∧ s'.mem = s.mem ∧ s'.teams = s.teams ∧ (s'.group g).spad = (s.group g).spad

/-- `lace` and `laceg` put a copy at the tail of their engine's queue and register its destination granules; a full
queue stalls the clause (R241, R243, R244). -/
def Obligations.Copies : Prop := ∀ (i : Instr) (s : State) (t : Team), ((∃ o, i = .lace o) ∨ ∃ o, i = .laceg o) → i.wf = true →
  s.Runs t → t.span = none → let f := copyForm i
  UniClear s t f.regs f.p → (s.group t.group).lmask.getLsbD f.le = true →
  let c := { copyOf i (f.regs.map (fun x => s.uniVal t x.1 x.2)) with fam := t.fam, pc := t.pc, word := t.word, seq := t.seq }
  let core := s.coreOf t
  let new : CEnt := { id := s.stamp, issuer := .team t.ctx t.seq t.gen, op := c, started := false, rows := [], counted := []
                      read := [], bytes := [], landed := [], fault := none }
  s.copyCheck (s.whoOf t t.pc t.word) t.group (copyOf i (f.regs.map (fun x => s.uniVal t x.1 x.2))) = .ok → t.st < 63 →
  (s.qHolds t f.p = false → ∃ s', exec i s = .next s' ∧ Alone s s' t { t.advance 2 with last := s.stamp } [])
  ∧ (s.qHolds t f.p = true → (s.laceQueue core f.le).length < 16 → ∃ s', exec i s = .next s'
    ∧ s'.laceQueue core f.le = s.laceQueue core f.le ++ [new]
    ∧ s'.laceRegs = s.laceRegs ++ (List.range c.count).filterMap (fun n => s.granReg t.group core f.le s.stamp (c.granDst n))
    ∧ s'.team? t.ctx = some { (t.raise .st).advance 2 with
        seq := t.seq + 1, last := s.stamp + 1
        replay := t.replay ++ [{ t.packet i .core .st true [pLane 0 [] 0] [] with copy := some c, progress := s.stamp }] }
    ∧ s'.mem = s.mem ∧ s'.groups = s.groups ∧ s'.fams = s.fams ∧ ∀ k, k ≠ t.ctx → s'.team? k = s.team? k)
  ∧ (s.qHolds t f.p = true → 16 ≤ (s.laceQueue core f.le).length → ∃ s', exec i s = .next s'
    ∧ s'.team? t.ctx = some { t with stall := some (.lace f.le) } ∧ s'.groups = s.groups ∧ s'.cores = s.cores ∧ s'.mem = s.mem)

/-- A copy at work in scratchpads: its rows are fixed at the start, a gather taking them from its index list; a granule
is read, and lands with its 16 bytes and its count on the object, the rows of a gather in ascending order; once all
have landed the copy completes (R242 to R244). -/
def Obligations.CopyRuns : Prop := ∀ (s : State) (core k : Nat) (e : CEnt) (rest : List CEnt) (t : Team) (seq : BitVec 16),
  Copying s core k e rest t seq → let c := e.op
  let m := s.group t.group
  (∀ o, c.instr = .lace o → e.started = false → ∃ s', exec (.laceCopyStart core k) s = .next s' ∧ s'.mem = s.mem
    ∧ s'.groups = s.groups ∧ s'.teams = s.teams
    ∧ s'.laceQueue core k = { e with started := true, rows := (List.range ((c.x1 + 1) * (c.x2 + 1))).map (fun r =>
        (c.src + BitVec.ofNat 64 (r / (c.x1 + 1)) * c.sp + BitVec.ofNat 64 (r % (c.x1 + 1)) * c.sr,
          c.dst + BitVec.ofNat 64 (r / (c.x1 + 1)) * c.dp + BitVec.ofNat 64 (r % (c.x1 + 1)) * c.dr)) } :: rest)
  ∧ (∀ o off, c.instr = .laceg o → e.started = false → c.idx = localAddr off → off % 128 = 0 → c.rows ≤ 32 →
    Sound m off (4 * c.rows) → let ix (r : Nat) : Nat := m.spadNum (off + 4 * r) 4
    (∀ r, r < c.rows → ix r ≠ 0xFFFF_FFFF) → ∃ s', exec (.laceCopyStart core k) s = .next s' ∧ s'.mem = s.mem
    ∧ s'.groups = s.groups ∧ s'.teams = s.teams
    ∧ s'.laceQueue core k = { e with started := true, rows := (List.range c.rows).map (fun r =>
        (c.src + BitVec.ofNat 64 (ix r * c.pitch.toNat), c.dst + BitVec.ofNat 64 (r * c.rowb))) } :: rest)
  ∧ (∀ n off, e.started = true → n < c.count → n ∉ e.read → n ∉ e.landed → c.outc = false →
    (e.rows.getD (n / c.rowGrans) (0, 0)).1 + BitVec.ofNat 64 (16 * (n % c.rowGrans)) = localAddr off → Sound m off 16 →
    e.rows.length = c.rows → ∃ s' e', exec (.laceSourceRead core k n) s = .next s' ∧ s'.laceQueue core k = e' :: rest
    ∧ n ∈ e'.read ∧ Tbl.get [] e'.bytes n = m.spadRead off 16 ∧ e'.landed = e.landed ∧ s'.mem = s.mem ∧ s'.groups = s.groups
    ∧ s'.teams = s.teams)
  ∧ (∀ n off boff, e.started = true → n ∈ e.read → (Tbl.get [] e.bytes n).length = 16 → c.setfe = false →
    c.granDst n = localAddr off → Sound m off 16 → c.bar = localAddr boff → boff % 16 = 0 → Sound m boff 16 →
    (off + 16 ≤ boff ∨ boff + 16 ≤ off) → (objectIn s t.group boff).init = 1 →
    (∀ o, c.instr = .laceg o → ∀ j, j < n / c.rowGrans * c.rowGrans → j ∈ e.landed) →
    let x := objectIn s t.group boff
    ∃ s', exec (.laceGranuleLanding core k n) s = .next s' ∧ s'.mem = s.mem
    ∧ (∀ y, (s'.team? y).map unbarred = (s.team? y).map unbarred)
    ∧ (s'.group t.group).spadRead off 16 = Tbl.get [] e.bytes n
    ∧ objectIn s' t.group boff = (if c.inc then ({ x with inb := (x.inb + 2 ^ 48 - 16) % 2 ^ 48 } : Object).tested else x)
    ∧ (∀ a, (a < off ∨ off + 16 ≤ a) → (a < boff ∨ boff + 16 ≤ a) → (s'.group t.group).spad.read a = m.spad.read a)
    ∧ (∀ g, g ≠ t.group → s'.group g = s.group g)
    ∧ s'.laceQueue core k = { e with
        read := e.read.filter (fun j => j != n), bytes := Tbl.del e.bytes n, landed := e.landed ++ [n] } :: rest)
  ∧ ∀ p, e.started = true → (∀ n, n < c.count → n ∈ e.landed) → t.pk? seq = some p → p.complete = false → p.inst = .core →
    p.instr = c.instr → p.seq = seq → ∃ s' t', exec (.laceCopyComplete core k) s = .next s' ∧ s'.laceQueue core k = rest
    ∧ s'.team? t.ctx = some t' ∧ t'.replay = t.replay.filter (fun x => x.seq != seq) ∧ t'.ctr p.ctr = t.ctr p.ctr - 1
    ∧ s'.mem = s.mem ∧ s'.groups = s.groups

/-! ## All-bank sessions -/

/-- `awlmode` goes to the Welt unit of its address's stack; an `.on` gets status 1, 3, 2 or 4, the first that applies, or
opens a session in DRAIN; when nothing is outstanding, the session asks leave of its class; 50 µs (112,500 cycles) after
a pre-emption request, not before, it is withdrawn with status 9, or aborted (R250, R251). -/
def Obligations.Sessions : Prop :=
  (∀ (i : Instr) (o : FMem) (s : State) (t : Team) (stack ch : Nat), ((∃ cls, i = .awlmodeOn cls o) ∨ i = .awlmodeOff o) →
    i.wf = true → s.Runs t → t.span = none → t.div = [] → UniClear s t [(o.data, 1), (o.base, 2)] o.p → t.pl < 63 →
    let a := s.uniVal t o.base 2 + o.off.signExtend 64
    let v := (s.group t.group).vd
    let d := s.vd v
    let gr := a.toNat / 2 ^ 16 % 2 ^ 40
    a.extractLsb' 56 8 = 0 → d.moved = 0 →
    (d.map.find? (fun r => decide (r.gran ≤ gr) && decide (gr < r.gran + r.ngran))).map (fun r =>
      (r.stack, r.firstch + (gr - r.gran) % 2 ^ r.log2ch)) = some (stack, ch) →
    (∀ e ∈ (s.die (s.coreOf t / 256)).home, e.moved = false → e.holds (s.asid v) gr = true → e.place gr = (stack, ch)) →
    let lane := pLane 0 [boolOp (s.qHolds t o.p), BitVec.ofNat 64 (64 * stack + ch)] a
    ∃ s', exec i s = .next s' ∧ Packed s s' t 1 (t.packet i (.welt stack) .pl true [lane] [])
      (if s.qHolds t o.p then regNums o.data 1 else []) [] [{ target := .welt stack, op := .exec, lanes := [lane] }])
  ∧ (∀ (s s1 : State) (t : Team) (cls ch va : Nat) (r : Req) (page : Bool),
    (∀ x, (s.chan ch).session = some x → x.ctx ≠ r.ctx ∨ x.seq ≠ r.seq) → s.clearPage (s.vdOf t) va = (page, s1) →
    let own : Prop := s.chanOwner ch = some (s.vd (s.vdOf t)).domain.toNat
    let out := s.awlOn t cls r ch va
    (¬own → out.1 = some (statusPerf 1)) ∧ (own → (s.fam t.fam).session ≠ none → out.1 = some (statusPerf 3))
    ∧ (own → (s.fam t.fam).session = none → (s.chan ch).session ≠ none → out.1 = some (statusPerf 2))
    ∧ (own → (s.fam t.fam).session = none → (s.chan ch).session = none → page = false → out.1 = some (statusPerf 4))
    ∧ (own → (s.fam t.fam).session = none → (s.chan ch).session = none → page = true → out.1 = none
      ∧ (out.2.fam t.fam).session = some ch
      ∧ (out.2.chan ch).session = some { fam := t.fam, ctx := r.ctx, seq := r.seq, gen := r.gen, st := .drain, cls := cls
                                         macs := 0, deadline := (s.gang (s.group t.group).gang).asked, granted := false, code := 0 }))
  ∧ (∀ (s : State) (ch : Nat) (x : Session), (s.chan ch).session = some x → x.st = .drain → (s.chan ch).queue = [] →
    (∀ e ∈ s.cores, e.2.l1 = []) → (∀ d, d < 4 → (s.die d).rdc = []) → let z := 64 + ch / 64
    let v := (s.group (s.fam x.fam).group).vd
    let ask : Leave := { who := .session ch, vd := v, cls := (s.vd v).cls.toNat
                         power := (Tbl.get 0 s.coolant.clspwr x.cls).toNat, time := s.clock }
    ∃ s', exec (.sessionDrainDone ch) s = .next s' ∧ (s'.chan ch).session = some { x with st := .leave } ∧ s'.mem = s.mem
      ∧ s'.zone z = { s.zone z with waiting := (s.zone z).waiting ++ [ask] } ∧ s'.teams = s.teams)
  ∧ (∀ (s : State) (ch : Nat) (x : Session), (s.chan ch).session = some x →
    (∀ t, x.deadline = some t → s.clock < t + 112500) → exec (.sessionDeadline ch) s = .next s)
  ∧ ∀ (s : State) (ch : Nat) (x : Session) (t : Nat), (s.chan ch).session = some x → x.deadline = some t → t + 112500 ≤ s.clock →
    let gone (s' : State) : Prop := (s'.chan ch).session = none ∧ (s'.fam x.fam).session = none ∧ (s'.fam x.fam).banks = []
      ∧ (∀ e ∈ (s'.fam x.fam).map, e.2.kind ≠ .bank) ∧ s'.mem = s.mem ∧ s'.teams = s.teams
      ∧ ∀ z ∈ s'.zones, ∀ w ∈ z.2.waiting ++ z.2.grants, w.who ≠ .session ch
    let ans (id : Nat) (way : List Nat) : Answer :=
      { ctx := x.ctx, gen := x.gen, seq := x.seq, target := .welt (ch / 64), op := .exec
        lanes := [{ vid := 0, vals := [9], fault := none }], flags := 0, poison := none, stop := none, id := id, route := way }
    (x.st = .drain ∨ x.st = .leave → ∃ s', exec (.sessionDeadline ch) s = .next s' ∧ gone s'
      ∧ ∃ id way, s'.answers = s.answers ++ [ans id way])
    ∧ (x.st = .active → ∃ s', exec (.sessionDeadline ch) s = .next s' ∧ gone s' ∧ (s'.fam x.fam).abort = some 9
      ∧ s'.answers = s.answers)

/-- The awl instructions go to the awl units of their register's pseudo-channel; there `awlbc` writes word w of bank k
from lane 8k + w or w, 0 for absent ones, and `awlrd` gives lane 8k + j word j of bank k (R252, R253). -/
def Obligations.BankInstructions : Prop := ∀ (o : F3) (s : State) (t : Team) (ch : Nat),
  (s.Runs t → t.span = none → s.Quiet t →
    let on := boolOp (s.qHolds t o.p)
    (∀ all, let i : Instr := .awlbc all o
      let lanes := pLane 1024 [on] 0 :: t.current.map (fun l => pLane l.vid [laneRegs l o.a 1] 0)
      i.wf = true → AtBank s t o.d ch → AtLane s t o.a → Settled t [(o.d, 1), (o.a, 1)] true o.p → t.pl < 63 → ∃ s', exec i s = .next s'
        ∧ Packed s s' t 1 (t.packet i (.awl ch) .pl true lanes []) [] [] [{ target := .awl ch, op := .exec, lanes := lanes }])
    ∧ (let i : Instr := .awlmac o
      let lanes := [pLane 0 [on] (s.uniVal t o.b 2)]
      i.wf = true → AtBank s t o.d ch → AtBank s t o.a ch → Settled t [(o.d, 1), (o.a, 1), (o.b, 2)] true o.p →
      (∀ k ∈ regNums o.b 2, k < 254 ∧ (s.entry t k).kind = .team) → (s.uniVal t o.b 2).toNat % 32 = 0 → t.pl < 63 →
      ∃ s', exec i s = .next s' ∧ Packed s s' t 1 (t.packet i (.awl ch) .pl true lanes []) [] []
        [{ target := .awl ch, op := .exec, lanes := lanes }])
    ∧ (let i : Instr := .awlrd o
      let lanes := (t.active o.p).map (fun l => pLane l.vid [] 0)
      i.wf = true → AtLane s t o.d → AtBank s t o.a ch → Settled t [(o.d, 1), (o.a, 1)] false o.p → t.ld < 63 →
      t.active o.p ≠ [] → ∃ s', exec i s = .next s' ∧ Packed s s' t 1 (t.packet i (.awl ch) .ld false lanes [])
        (regNums o.d 1) [] [{ target := .awl ch, op := .exec, lanes := lanes }]))
  ∧ ∀ (n : Nat) (r : Req) (pk : Packet), Taken s n r t pk → r.target = .awl ch → s.holdsSession t ch = true →
    (∀ all l ls, r.instr = .awlbc all o → r.lanes = l :: ls → opAt l.ops 0 ≠ 0 → o.d ≠ Reg.z → ∃ s',
      exec (.requestAtTarget n) s = .next s' ∧ s'.mem = s.mem ∧ s'.teams = s.teams ∧ s'.reqs = s.reqs.eraseIdx n
      ∧ ∀ k w, k < 16 → w < 8 → bankWord ((s'.fam t.fam).bank o.d) k w =
        ((ls.find? (fun x => x.vid == if all then w else 8 * k + w)).map (fun x => (opAt x.ops 0).setWidth 32)).getD 0)
    ∧ (r.instr = .awlrd o →
      let ans (id : Nat) (way : List Nat) : Answer :=
        { ctx := r.ctx, gen := r.gen, seq := r.seq, target := .awl ch, op := r.op
          lanes := r.lanes.map (fun l => ansLane l.vid
            (if l.vid < 128 then [(bankWord ((s.fam t.fam).bank o.a) (l.vid / 8) (l.vid % 8)).setWidth 64] else []))
          flags := 0, poison := none, stop := none, id := id, route := way }
      (∀ x, x ∉ (s.fam t.fam).bankBad) → ∃ s', exec (.requestAtTarget n) s = .next s' ∧ s'.mem = s.mem
      ∧ s'.teams = s.teams ∧ ∃ id way, s'.answers = s.answers ++ [ans id way])

/-! ## Windows and clauses -/

/-- A clause starts once its counters and its barrier watch let it, and the team waits at it until then (R96, R97,
R99). Windows start and end every 16 cycles; the window goes to its owner's first team, or for a token to a borrower
(R35, R36, R315); a class A owner takes a lent one back (R316); a gated stream wakes with its reasons (R39, R40); a
frame boundary refills buckets and takes staged values over (R309, R311, R313, R314, R319, R321). -/
def Obligations.IssueWindows : Prop :=
  (∀ (s : State) (t : Team) (h : DWord) (ws : List DWord), AtHeader s t h ws → clauseBad 0 16 ws = false →
    let started : Team := { t with
      clause := ws, loaded := true, tested := true, waiting := false, bar := if t.tested = true then t.bar else none }
    (h.getLsbD 33 = false → t.tested = true ∨ counted h t →
      exec .clauseStart s = .next { s.setTeam started with trips := s.trips.filter (fun x => !x.used) })
    ∧ (h.getLsbD 33 = false → t.tested = false → ¬counted h t →
      ∃ s', exec .clauseStart s = .next s' ∧ Waits (untried s s') s' t)
    ∧ ∀ off, h.getLsbD 33 = true → (t.watch[(h.extractLsb' 30 3 : BitVec 3).toNat]?).join = some off → t.tested = false →
      let there : Prop := ((s.group t.group).barrier off).abandoned = true
        ∨ decide (((s.group t.group).barrier off).gen % 2 = 1) = h.getLsbD 29 ∨ ∃ b, t.bar = some b ∧ b.met.isSome = true
      (counted h t → there → ∃ s' ls, exec .clauseStart s = .next s'
        ∧ s'.team? t.ctx = some { started with lanes := ls, acq := s.stamp }
        ∧ ls.map (fun l => { l with opened := [], blind := [] }) = t.lanes.map (fun l => { l with opened := [], blind := [] })
        ∧ s'.mem = s.mem ∧ s'.groups = s.groups ∧ s'.fams = s.fams)
      ∧ (¬(counted h t ∧ there) → t.bar = none → ∃ s', exec .clauseStart s = .next s'
        ∧ Waits (untried s s') s' { t with bar := some ⟨off, h.getLsbD 29, none⟩ }))
  ∧ (∀ (s s1 : State) (t : Team) (h : DWord) (ws : List DWord), s.turn = .team t.ctx → s.team? t.ctx = some t → t.loaded = false →
    t.clause = [] → ({ s with holds := .on }).fetchClause (s.whoOf t t.pc t.word) 0 t.pc = (.words (h :: ws), s1) →
    s1.holds = .on → clauseBad 0 16 ws = false → h.getLsbD 33 = false → t.tested = true ∨ counted h t →
    exec .clauseStart s = .next { s1.setTeam { t with
        clause := ws, loaded := true, tested := true, waiting := false, bar := if t.tested = true then t.bar else none } with
      holds := .off, trips := s1.trips.filter (fun x => !x.used) })
  ∧ (∀ (s : State) (c v : Nat) (t : Team), c < 1024 → (s.core c).gated = false → s.coreOff c = false → s.zoneHot c = false →
    (let s0 := between s c
      let k := s0.core c
      let new := { k with window := s.clock / 16 + 1, curVd := some v }
      FirstTeam s0 c v t → (s.core c).window ≠ s.clock / 16 + 1 →
      (entryVd (Tbl.get 0 k.cal.active (s.clock / 16 % 64)) = some v →
        (∃ i, i < 16 ∧ s.ownsUnit c (s.domOf v) (24 + i) = true) → (∃ i, i < 16 ∧ s.ownsUnit c (s.domOf v) (40 + i) = true) →
        ∃ s', exec (.issueWindowStart c) s = .next s' ∧ Given s0 s' c v t new)
      ∧ (entryVd (Tbl.get 0 k.cal.active (s.clock / 16 % 64)) = none →
        s0.borrower none k.borrowed (fun w => (Tbl.get resetBucket k.bkt w).level.toNat) (s0.hasReady c) = some v →
        ∃ s', exec (.issueWindowStart c) s = .next s' ∧ Given s0 s' c v t
          { new with
            lent := true
            bkt := Tbl.upd resetBucket k.bkt v (fun b => { b with level := b.level - 1 }), borrowed := Tbl.set k.borrowed v s.stamp }))
    ∧ (let s0 := parted s c
      FirstTeam s0 c v t → (s.core c).window ≠ 0 → (s.core c).lent = true → (s.vd v).cls = 0 → s.windowOwner c = some v →
      s.hasReady c v = true → ∃ s', exec (.windowReclaim c) s = .next s'
        ∧ Given s0 s' c v t { s0.core c with curVd := some v, lent := false }))
  ∧ (∀ (s : State) (owner : Option Nat) (b : Tbl Nat) (level : Nat → Nat) (wants : Nat → Bool) (v : Nat),
    s.borrower owner b level wants = some v →
    let able (w : Nat) : Prop := w < 64 ∧ wants w = true ∧ 1 ≤ level w ∧ owner ≠ some w
    let sealed_ (w : Nat) : Prop := (s.domain (s.domOf w)).sealed = true
    able v ∧ ∀ o, owner = some o → s.domOf v = s.domOf o ∨
      (¬sealed_ o ∧ ¬sealed_ v ∧ ∀ w, able w → s.domOf w ≠ s.domOf o))
  ∧ (∀ (s : State) (c : Nat), let k := s.core c
    (k.window ≠ 0 → k.window ≠ s.clock / 16 + 1 → exec (.issueWindowEnd c) s = .next (between s c))
    ∧ (k.gated = true → k.acc ≠ 0 ∨ (∃ t ∈ s.coreTeams c, s.ready t = true) →
      exec (.teamStreamWake c) s = .next (s.setCore c { k with wake := k.acc ||| 0x100, acc := 0, gated := false })))
  ∧ ∀ (s : State), s.sw.go = false ∨ s.sw.begun = true → ∃ s', exec .frameBoundary s = .next s'
    ∧ s'.clock = (s.clock / 1024 + 1) * 1024 ∧ s' = { s with
        clock := s'.clock, cores := s'.cores, links := s'.links, chans := s'.chans, vds := s'.vds, fills := s'.fills
        errs := s'.errs, free := s'.free, sw := s'.sw, groups := s'.groups }
    ∧ (s.sw.go = false → s'.sw = s.sw)
    ∧ (∀ g, s'.group g = { s.group g with bad := (s'.group g).bad, quads := (s'.group g).quads })
    ∧ let full (b : Bucket) : Bucket := { b with level := BitVec.ofNat 12 (min b.sigma.toNat (b.level.toNat + b.rho.toNat)) }
      let staged (k : Calendar) : Calendar := if k.swap then { k with active := k.staged, swap := false } else k
      (∀ v, s'.vd v = { s.vd v with
        cls := (s.vd v).clsNext, ways := (s.vd v).waysNext
        bktL1 := full (s.vd v).bktL1, bktL2 := full (s.vd v).bktL2, bktMsc := full (s.vd v).bktMsc })
      ∧ (∀ c, c < 1024 → (s'.core c).cal = staged (s.core c).cal ∧ (s'.core c).own = (s.core c).own
        ∧ ∀ v, Tbl.get resetBucket (s'.core c).bkt v = full (Tbl.get resetBucket (s.core c).bkt v))
      ∧ (∀ l, (s'.link l).cal = staged (s.link l).cal
        ∧ ∀ v, Tbl.get resetBucket (s'.link l).bkt v = full (Tbl.get resetBucket (s.link l).bkt v))
      ∧ (∀ p v, let e := Tbl.get resetContract (s.chan p).contract v
        Tbl.get resetContract (s'.chan p).contract v =
          { e with level := BitVec.ofNat 12 (min e.sigma.toNat (e.level.toNat + e.rho.toNat)), credit := e.guar.toNat })
      ∧ (∀ key n, Tbl.get? s.fills key = some n → let d := s.vd (key % 64)
        let b := if 256 ≤ key / 64 ∧ key / 64 < 768 then d.bktMsc else d.bktL2
        Tbl.get? s'.fills key = some (BitVec.ofNat 12 (min b.sigma.toNat (n.toNat + b.rho.toNat))))
      ∧ ∀ q, q ∉ s.sound → Tbl.get 0 s'.errs q = Tbl.get 0 s.errs q

/-! ## Queues and launches -/

/-- A queue's WR is written (R377), its head packet polled and taken (R378 to R382); a group is placed (R25, R26,
R383); a team without lanes ends when its counters are zero (R23); a launch completes with its signal (R384). -/
def Obligations.QueuesAndLaunches : Prop :=
  (∀ (wr : Writer) (q : Nat) (val : Word) (s : State), let x := s.queue q
    q < 4096 → wr = .fw ∨ wr = .dm (s.domOf x.vd.toNat) → (val - x.rd).toNat ≤ 2 ^ (if 4 ≤ x.log2.toNat ∧ x.log2.toNat ≤ 16 then x.log2.toNat else 4) →
    exec (.notifyWrite wr q val) s = .next (s.setQueue q { x with wr := val, notify := x.notify ++ [(val.toNat, s.clock)] }))
  ∧ (∀ (wr : Writer) (v : Nat) (s : State), let d := s.vd v
    v < 64 → wr = .dm d.domain.toNat → exec (.pauseClear wr v) s = .next { s.setVD v { d with pause := false } with
      msix := if d.pause = true ∧ d.evq.wr ≠ d.evq.rd then Tbl.upd 0 s.msix v (fun n => n + 1) else s.msix })
  ∧ (∀ (q : Nat) (s : State), let x := s.queue q
    let n := 2 ^ (if 4 ≤ x.log2.toNat ∧ x.log2.toNat ≤ 16 then x.log2.toNat else 4)
    let at_ := x.base.toNat + 64 * (x.rd.toNat % n)
    let w (i : Nat) : Nat := leNat (Mem.readN s.mem (at_ + 8 * i) 8)
    at_ % 64 = 0 → s.readable at_ 64 = true → s.headPkt q = (some { hdr := w 0, a := BitVec.ofNat 64 (w 1), b := BitVec.ofNat 64 (w 2)
                                                                    c := BitVec.ofNat 64 (w 3), d := BitVec.ofNat 64 (w 4) }, s))
  ∧ (∀ (q : Nat) (s s1 : State) (p : Pkt), s.holds = .off → s.serving q = true →
    ({ s with holds := .on }).headPkt q = (some p, s1) → p.bad = none →
    let v := (s1.queue q).vd.toNat
    let i := (s1.queue q).rd.toNat
    let met : Prop := p.bar = false ∨ (s.queue q).taken = []
    s1.queue q = s.queue q →
    -- a queue goes past packet `i`, which stays in work where `more` says so
    let past (s2 s' : State) (more : List TakenPkt) : Prop :=
      s'.mem = s2.mem ∧ s'.teams = s2.teams ∧ (∀ r, r ≠ q → s'.queue r = s2.queue r)
      ∧ s'.queue q = { s2.queue q with
          rd := (s2.queue q).rd + 1, ready := false
          taken := (s2.queue q).taken.filter (fun y => decide (more ≠ []) || y.index != (s2.queue q).rd.toNat) ++ more
          notify := (s2.queue q).notify.filter (fun y => earlierPkt ((s2.queue q).rd + 1).toNat y.1) }
    (p.typ = 2 → ∀ bs s2, s1.unitRead v (p.a &&& ~~~7#64) 8 = (some bs, s2) → s2.holds = .on →
      ∃ s', exec (.waitvalPoll q) s = .next s' ∧ s'.mem = s2.mem ∧ s'.teams = s2.teams ∧ s'.queue q =
        { s2.queue q with ready := waited p.cond (BitVec.ofNat 64 (leNat bs) &&& p.c) p.b })
    ∧ (p.typ = 2 → met → (s.queue q).ready = true → p.rel = 0 → p.event = false →
      ∃ s', exec (.packetTake q) s = .next s' ∧ past s1 s' [])
    ∧ (p.typ = 3 ∨ p.typ = 4 → met → p.rel = 0 → p.event = false →
      ∀ s2, s1.unitUpdate v (p.a &&& ~~~7#64) 1 (fun _ => if p.typ = 3 then p.b else BitVec.ofNat 64 s1.clock) = (true, s2) →
      s2.holds = .on → ∃ s', exec (.packetTake q) s = .next s' ∧ past s2 s' [])
    ∧ (p.typ = 1 → met → ∀ r s2, s1.readRecord v 8 (p.b &&& ~~~15#64) = (some r, s2) → s2.holds = .on → s2.queue q = s1.queue q →
      let la := launchOfRec p r q i v ((s1.queue q).coveredAt i) (s1.queue q).prio.toNat
      s2.rejects v r la = 0 → ∃ s', exec (.packetTake q) s = .next s' ∧ past s2 s' [{ index := i, launch := some s2.stamp }]
        ∧ s'.launch s2.stamp = { la with
          rejected := 0, todo := (List.range la.gangCount).filter (fun n => n % la.gangSerial == 0) }))
  ∧ (∀ (v l no : Nat) (cores : List Nat) (rest : List (Nat × Nat)) (s : State), let la := s.launch l
    (s.vd v).valid = true → (s.domain (s.vd v).domain.toNat).valid = true → (∀ e ∈ s.gangs, e.2.vd = v → s.eligible e.1 = false) →
    s.candidates v = (l, no) :: rest → s.earlyUnmet la = false → s.fits v la (some no) cores (fun c => s.canGrant c v la) = true →
    la.vd = v → la.acq = none → ∃ s' a gs, exec (.placementStep v cores) s = .next s' ∧ s'.mem = s.mem ∧ gs.length = cores.length
      ∧ s'.gang a = { resetGang with launch := l, no := no, vd := v, members := gs }
      ∧ (s'.launch l).todo = la.todo.filter (fun n => n != no) ∧ (s'.launch l).live = la.live ++ [a]
      ∧ ∀ i, i < cores.length → let g := s'.group (gs.getD i 0)
        g.gang = a ∧ g.launch = l ∧ g.vd = v ∧ g.core = cores.getD i 0 ∧ g.member = i ∧ g.spad = [] ∧ g.full = []
        ∧ g.spadLen = 256 * la.spad ∧ g.qmask = la.qmask ∧ g.lmask = la.lmask ∧ g.ended = false ∧ g.registry = [])
  ∧ (∀ (ctx : Nat) (s : State) (t : Team), s.team? ctx = some t → t.ctx = ctx → t.lanes = [] → t.ld = 0 → t.pl = 0 → t.st = 0 →
    ((∃ u ∈ s.allTeams, u.fam = t.fam ∧ u.ctx ≠ ctx) → s.teamsOk → ∃ s', exec (.teamEnd ctx) s = .next s'
      ∧ s'.team? ctx = none ∧ (∀ c, c ≠ ctx → s'.team? c = s.team? c) ∧ s'.mem = s.mem
      ∧ s'.fam t.fam = { s.fam t.fam with retired := (s.fam t.fam).retired + t.retired }
      ∧ ∀ g, (s'.group g).spad = (s.group g).spad)
    ∧ ((∀ u ∈ s.allTeams, u.fam = t.fam → u.ctx = ctx) → s.teamsOk → (s.fam t.fam).session = none →
      (s.fam t.fam).group = t.group → (s.launch (s.group t.group).launch).teamSerial = [] →
      (∃ u ∈ s.allTeams, u.group = t.group ∧ u.ctx ≠ ctx) → ∃ s', exec (.teamEnd ctx) s = .next s' ∧ s'.team? ctx = none
      ∧ (∀ c, c ≠ ctx → s'.team? c = s.team? c) ∧ s'.mem = s.mem ∧ (s'.fam t.fam).ended = true
      ∧ ∀ g, (s'.group g).spad = (s.group g).spad))
  ∧ ∀ (id : Nat) (s : State) (l : Launch), Tbl.get? s.launches id = some l → l.todo = [] → l.live = [] → l.rel = none → l.event = false →
    let done (s2 s' : State) : Prop := s'.launches = Tbl.del s2.launches id ∧ s'.mem = s2.mem ∧ s'.teams = s2.teams
      ∧ s'.queue l.queue = { s2.queue l.queue with taken := (s2.queue l.queue).taken.filter (fun p => p.index != l.index) }
    (l.signal = 0 → ∃ s', exec (.launchComplete id) s = .next s' ∧ done s s')
    ∧ ∀ s1 s2, l.signal ≠ 0 → ({ s with holds := .on }).unitUpdate l.vd l.signal 2 (fun w => w + 1) = (true, s1) →
      s1.unitUpdate l.vd (l.signal + 8) 2 (fun w => w ||| BitVec.ofNat 64 ((match l.killed with
        | none => 0
        | some .double => 0x11
        | some .unhandled => 0x21
        | some .fault => 0x31
        | some .poison => 0x41
        | some .coolant => 0x51
        | some .stitch => 0x61) + (if l.rejected = 0 then 0 else 2 + 256 * l.rejected))) = (true, s2) → s2.holds = .on →
      ∃ s', exec (.launchComplete id) s = .next s' ∧ done s2 s'

/-! ## Faults and their service -/

/-- A team halts at its oldest faulting instruction once every older one has completed; its generation rises and a
record is sent, or held while the queue is full (R66, R67, R334, R335). A resume lets it go on under its new
generation, held while a generation 64 older may be in use (R64, R65, R336); a kill ends its launched team with status
FAULT (R24, R336); a name that fits no parked team sets STALE; records held go out as RD advances (R335). -/
def Obligations.FaultsAndService : Prop :=
  (∀ (ctx : Nat) (s : State) (t : Team) (before after : List Packet) (p : Packet) (l : PLane) (f : MFault) (rest : List (PLane × MFault)),
    s.team? ctx = some t → t.ctx = ctx → t.parked = .no → s.midMatrix t = false → t.replay = before ++ p :: after →
    (∀ x ∈ before, x.complete = true) → p.faulted = true → p.stop = none → p.faulty = (l, f) :: rest →
    let v := s.vdOf t
    let q := (s.vd v).fq
    let n := 2 ^ (if 4 ≤ q.log2.toNat ∧ q.log2.toNat ≤ 16 then q.log2.toNat else 4)
    let full : Prop := (q.wr.toNat + 1) % n = q.rd.toNat % n
    ∃ s' t', exec (.faultHalt ctx) s = .next s' ∧ s'.team? ctx = some t' ∧ t'.parked = .fault ∧ t'.gen = t.gen + 1 ∧ t'.pc = t.pc
      ∧ t'.word = t.word ∧ t'.seq = t.seq ∧ t'.lanes.map (fun l => (l.vid, l.regs, l.p)) = t.lanes.map (fun l => (l.vid, l.regs, l.p))
      ∧ (∀ c, c ≠ ctx → s'.team? c = s.team? c) ∧ s'.fams = s.fams
      ∧ (full ∨ (s.vd v).fqHeld ≠ [] → s'.mem = s.mem ∧ ∃ r, (s'.vd v).fqHeld = (s.vd v).fqHeld ++ [r] ∧ r.length = 64
        ∧ field r 0 2 = f.acc.toNat ∧ field r 4 3 = f.level.toNat ∧ field r 8 8 = f.kind.code ∧ field r 16 8 = p.gen.toNat
        ∧ field r 24 16 = p.seq.toNat ∧ field r 40 20 = ctx % 2 ^ 20 ∧ field r 60 4 = 0 ∧ field r 64 64 = f.va.toNat
        ∧ field r 128 64 = p.pc.toNat ∧ field r 192 8 = p.word % 256 ∧ field r 208 8 = v % 64
        ∧ field r 216 8 = (s.vd v).domain.toNat ∧ field r 224 8 = (s.group t.group).incarn.toNat ∧ field r 256 32 = l.vid % 2 ^ 32)
      ∧ (¬full → (s.vd v).fqHeld = [] → (s'.vd v).fq = { q with wr := BitVec.ofNat 16 ((q.wr.toNat + 1) % n) } ∧ (s'.vd v).fqHeld = []))
  ∧ (∀ (ctx : Nat) (s : State) (t : Team), s.team? ctx = some t → t.ctx = ctx → (t.replay.map (fun p => p.seq)).Nodup →
    Whole t → (∀ e ∈ t.sends, (t.gen - e.1).toNat < 64 ∨ e.2 + 2250000 ≤ s.clock) → t.hold = true →
    ∃ s', exec (.generationHoldExpiry ctx) s = .next s' ∧ Resumed s s' t)
  ∧ (∀ (wr : Writer) (v ctx : Nat) (s : State) (t : Team), v < 64 → wr = .dm (s.vd v).domain.toNat → s.parkedEngines v ctx = [] →
    s.team? ctx = some t → t.ctx = ctx → s.vdOf t = v →
    (t.parked = .fault → t.img ≠ .resumed → s.isSaved t.group = false → (t.replay.map (fun p => p.seq)).Nodup →
      (Whole t → (∀ e ∈ t.sends, (t.gen - e.1).toNat < 64 ∨ e.2 + 2250000 ≤ s.clock) →
        ∃ s', exec (.faultResume wr v ctx) s = .next s' ∧ Resumed s s' t)
      ∧ ((∃ e ∈ t.sends, 64 ≤ (t.gen - e.1).toNat ∧ s.clock < e.2 + 2250000) →
        exec (.faultResume wr v ctx) s = .next (s.setTeam { t with hold := true })))
    ∧ (t.parked = .hcall → t.img ≠ .hcall → s.isSaved t.group = false → ∃ s', exec (.faultResume wr v ctx) s = .next s'
      ∧ s'.team? ctx = some { t with parked := .no } ∧ s' = { s with teams := s'.teams, cores := s'.cores }
      ∧ ∀ c, c ≠ ctx → s'.team? c = s.team? c)
    ∧ (t.parked = .fault ∨ t.parked = .hcall → s.isSaved t.group = true → t.img ≠ .resumed →
      ∃ s', exec (.faultResume wr v ctx) s = .next s' ∧ s'.team? ctx = some { t with img := .resumed } ∧ (∀ c, c ≠ ctx → s'.team? c = s.team? c)
      ∧ s'.fams = s.fams ∧ s'.mem.read (s.ctxArea t + 0x410) = 3
      ∧ ∀ x, x / 128 ≠ (s.ctxArea t + 0x410) / 128 → s'.mem.read x = s.mem.read x)
    ∧ ((t.parked = .fault ∧ t.img ≠ .resumed) ∨ t.parked = .hcall ∨ s.atFence t = true → (s.fam t.fam).ended = false → (s.fam t.fam).group = t.group →
      (s.launchOf t).teamSerial = [] → (∃ u ∈ s.allTeams, u.group = t.group ∧ u.fam ≠ t.fam) → s.teamsOk →
      ∃ s', exec (.faultKill wr v ctx) s = .next s' ∧ s'.mem = s.mem ∧ (s'.fam t.fam).ended = true ∧ (s'.fam t.fam).killed = true
      ∧ (s'.launchOf t).killed = some ((s.launchOf t).killed.getD .fault)
      ∧ (∀ u ∈ s.allTeams, u.fam = t.fam → s'.team? u.ctx = none)
      ∧ ∀ u ∈ s.allTeams, u.fam ≠ t.fam → (s'.team? u.ctx).map unbarred = (s.team? u.ctx).map unbarred)
    ∧ (t.parked = .no → t.img = .running → s.atFence t = false → exec (.faultResume wr v ctx) s = .next (s.setVD v { s.vd v with stale := true })
      ∧ exec (.faultKill wr v ctx) s = .next (s.setVD v { s.vd v with stale := true })))
  ∧ ∀ (wr : Writer) (v : Nat) (rd : BitVec 16) (s : State), v < 64 → wr = .dm (s.vd v).domain.toNat → let d := s.vd v
    let n := 2 ^ (if 4 ≤ d.fq.log2.toNat ∧ d.fq.log2.toNat ≤ 16 then d.fq.log2.toNat else 4)
    (d.fqHeld = [] → exec (.faultQueueRdWrite wr v rd) s =
      .next (s.setVD v { d with fq := { d.fq with rd := BitVec.ofNat 16 (rd.toNat % n) } }))
    ∧ ∃ s', exec (.faultQueueRdWrite wr v rd) s = .next s' ∧ (s'.vd v).fq.rd = BitVec.ofNat 16 (rd.toNat % n)
      ∧ (∃ k, (s'.vd v).fqHeld = d.fqHeld.drop k) ∧ ((s'.vd v).fqHeld = [] ∨ (s'.vd v).fq.full = true) ∧ s'.teams = s.teams

/-! ## Mapping and memory -/

/-- Home maps are checked whole and come into force or are refused (R326, R327); an invalidation drops what meets its
span, and no L1 goes on what it knew of a page there (R333); a frame is released, and scrubbed where it is CLEAR (R332, R392); the tracker's counts restart with a
period (R338); channel requests are issued and paid for (R321, R394); a scrub puts a stored sector right, and poisons
one whose code cannot (R355; which errors those are, log entry 65);
the host reads and writes memory (R373). -/
def Obligations.MappingAndMemory : Prop :=
  (∀ (wr : Writer) (va : BitVec 40) (asid : BitVec 10) (size : BitVec 2) (s : State), wr = .fw ∨ wr = .dm (asid.toNat / 64) →
    let span := 2 ^ (if size = 0 then 0 else if size = 1 then 5 else if size = 2 then 14 else 40)
    let hit (a gran n : Nat) : Bool := a == asid.toNat && meet gran n (va.toNat / span * span) span
    ∃ s', exec (.tlbInvalidate wr va asid size) s = .next s'
      ∧ s' = { s with
          welts := s'.welts, dies := s'.dies, cores := s'.cores, l2 := s'.l2, msc := s'.msc, under := s'.under, lines := s'.lines
          trips := s'.trips, pkg := { s.pkg with va := va, asid := asid, size := size, invGo := false } }
      ∧ (∀ t, s'.welt t = { s.welt t with tlb := (s.welt t).tlb.filter (fun e =>
          let n := 2 ^ (if e.1 % 4 = 2 then 14 else if e.1 % 4 = 1 then 5 else 0)
          !hit (e.1 / 4 / 2 ^ 40) (e.1 / 4 % 2 ^ 40 * n) n) })
      ∧ (∀ d, s'.die d = { s.die d with home := (s.die d).home.filter (fun e => !(e.moved && hit e.asid e.gran 1)) })
      ∧ ∀ c, s'.core c = { s.core c with l1 := (s'.core c).l1 }
        ∧ ∀ e ∈ (s'.core c).l1, hit (e.1 / 2 ^ 49) (e.1 % 2 ^ 49 / 512) 1 = true → e.2.write = false)
  ∧ (∀ (wr : Writer) (frame : BitVec 32) (s : State), let f := frame.toNat
    wr = .fw ∨ (∃ k e, wr = .dm k ∧ s.frameEnt f = some e ∧ e.asid / 64 = k) → s.mem.wf = true →
    let fs : List Nat := if 2 ^ 24 ≤ f ∧ f < 2 ^ 25 then (match wr with
      | .fw => (List.range 16).map (fun k => f + 2 ^ 25 * k)
      | .dm k => [f + 2 ^ 25 * k]) else [f]
    let clear (x : Nat) : Prop := ∃ e, s.frameEnt x = some e ∧ e.clear = true
    ∃ s', exec (.frameRelease wr frame) s = .next s' ∧ s'.teams = s.teams ∧ s'.groups = s.groups
      ∧ (∀ x ∈ fs, s'.frameEnt x = none ∧ ∀ t, ∀ e ∈ (s'.welt t).tlb,
        let lo := (if 2 ^ 40 ≤ e.2.addr ∧ e.2.addr < 2 ^ 41 then e.2.addr + 2 ^ 41 * (e.1 / 4 / 2 ^ 40 / 64) else e.2.addr) / 2 ^ 16
        x < lo ∨ lo + 2 ^ (leafLog e.2.level - 16) ≤ x)
      ∧ ∀ a, (a / 2 ^ 16 ∈ fs → clear (a / 2 ^ 16) → s'.mem.read a = 0)
        ∧ (a / 2 ^ 16 ∉ fs ∨ ¬clear (a / 2 ^ 16) → s'.mem.read a = s.mem.read a))
  ∧ (∀ (wr : Writer) (v : Nat) (s s1 : State) (bs : List Byte), v < 64 → wr = .dm (s.vd v).domain.toNat → let d := s.vd v
    s.rdBytes d.hmapBase.toNat (16 * d.count.toNat) = (bs, s1) → s1.vd v = d →
    let entry (i : Nat) : HomeRange × Bool := rangeOf (leNat ((bs.drop (16 * i)).take 16))
    let floor (i : Nat) : Nat := if i = 0 then 0 else (entry (i - 1)).1.gran + (entry (i - 1)).1.ngran
    let bad (i : Nat) : Prop := s1.rangeBad d.domain.toNat (floor i) (entry i).1 (entry i).2 = true
    ((∀ i, i < d.count.toNat → ¬bad i) → ∃ s', exec (.homeMapCommit wr v) s = .next s'
      ∧ s'.vd v = { d with map := (List.range d.count.toNat).map (fun i => (entry i).1), commit := false }
      ∧ (∀ x, ∀ e ∈ (s'.die x).home, e.asid ≠ s.asid v) ∧ s'.mem = s1.mem ∧ s'.teams = s1.teams)
    ∧ ∀ i, i < d.count.toNat → bad i → (∀ j, j < i → ¬bad j) →
      exec (.homeMapCommit wr v) s = .next (s1.setVD v { d with refused := true, badidx := BitVec.ofNat 12 i, commit := false }))
  ∧ (∀ (wr : Writer) (k : Nat) (w : BitVec 4) (s : State), k < 16 → wr = .fw ∨ wr = .dm k → (s.domain k).scrw.toNat ≤ w.toNat →
    (∀ e ∈ s.mem, s.inScratch k e.1 = false) → ∃ s', exec (.mscScratchWrite wr k w) s = .next s' ∧ (s'.domain k).scrw = w
      ∧ s'.mem = s.mem ∧ s'.teams = s.teams ∧ (∀ j, j ≠ k → s'.domain j = s.domain j)
      ∧ ((s.domain k).scrw.toNat < w.toNat → ∀ t, t < 16 → ∀ b ∈ s.banksOf k t, ∀ l ∈ Tbl.get [] s'.msc (32 * t + b),
        l.way + w.toNat < 16))
  ∧ (∀ (s : State) (pa : Nat), exec (.hostSnoop pa) s = .next s ∧ exec (.hostMemAccess pa none) s = .next s)
  ∧ (∀ (s : State) (pa : Nat) (bs : List Byte), pa < 2 ^ 40 → pa % 128 + bs.length ≤ 128 → s.mem.wf = true → s.inClear pa = true →
    ∃ s', exec (.hostMemAccess pa (some bs)) s = .next s' ∧ s' = { s with mem := s'.mem, sound := s'.sound, tags := s'.tags, errs := s'.errs }
      ∧ ∀ a, s'.mem.read a = if pa ≤ a ∧ a < pa + bs.length then bs.getD (a - pa) 0 else s.mem.read a)
  ∧ (∀ (s : State) (ch i : Nat) (r : ChanReq), let c := s.chan ch
    (∀ x, c.session = some x → x.st ≠ .active) → s.firstRequest c = some i → c.queue[i]? = some r →
    let paid := Tbl.upd resetContract c.contract r.vd (fun e => if r.beats ≤ (c.of r.vd).credit
      then { e with credit := e.credit - r.beats } else { e with level := e.level - BitVec.ofNat 12 r.beats })
    let opened := Tbl.set c.openRow (secBank r) (secRow r)
    let used : VD := { s.vd r.vd with
      usage := { (s.vd r.vd).usage with bytes := (s.vd r.vd).usage.bytes + BitVec.ofNat 64 (32 * r.beats) } }
    (r.read = false → exec (.channelRequestIssue ch) s = .next ((s.setChan ch { c with
      queue := c.queue.eraseIdx i, contract := paid, openRow := opened }).setVD r.vd used))
    ∧ (r.read = true → ∃ s', exec (.channelRequestIssue ch) s = .next s' ∧ (s'.chan ch).contract = paid
      ∧ (s'.chan ch).openRow = opened ∧ s'.vd r.vd = used ∧ s'.mem = s.mem ∧ s'.teams = s.teams ∧ s'.groups = s.groups))
  ∧ (∀ (s : State) (stack v : Nat), (s.vd v).migr = true → (s.vd v).moved ≠ 0 →
    s.clock / 1024 % max (s.vd v).period.toNat 1 = 0 →
    let anew (w : Welt) : Welt := { w with counts := w.counts.filter (fun e => e.1 / 4 / 2 ^ 40 != v) }
    (s.candidates' stack v = [] → exec (.trackerPeriodEnd stack v) s = .next (s.setWelt stack (anew (s.welt stack))))
    ∧ ∀ g d, s.candidates' stack v = [(g, d)] → s.judge stack v g d = (.pin, s) → ∃ s', exec (.trackerPeriodEnd stack v) s = .next s'
      ∧ s' = { s with welts := s'.welts }
      ∧ s'.welt stack = anew { s.welt stack with pinskip := (s.welt stack).pinskip + 1 })
  ∧ ∀ (s : State) (n : Nat), 128 * n < 2 ^ 40 → n ∈ s.sound → (s.chan (n / 2 ^ 23)).session = none →
    ∃ s', exec (.scrubSector n) s = .next s' ∧ s'.mem = s.mem ∧ s'.teams = s.teams ∧ Tbl.get 0 s'.errs n = 0
      ∧ (Tbl.get 0 s.errs n < 2 → s'.sound = s.sound ∧ s'.log = s.log)
      ∧ (2 ≤ Tbl.get 0 s.errs n → s'.sound = s.sound.filter (fun q => q != n) ∧ s'.log = s.log ++ [.scrub n])

/-! ## Tenancy -/

/-- The tenancy block (R301): ownership without conflict of quiesced domains (R303 to R305; where dirty lines stand in a
domain's L2 slices or memory-side cache banks, the firmware may have flushed them first, log entry 79), domains and virtual devices
(R304, R307, R309, R391), calendars (R311), buckets (R310, R314), contracts (R320, R322) and repair bytes (R356). -/
def Obligations.Tenancy : Prop :=
  (∀ (c u val : Nat) (s : State) (k : Nat), c < 1024 → u < 72 → k < 16 →
    let old := Tbl.get 0 (s.core c).own u
    let b : Byte := BitVec.ofNat 8 val &&& 0x8F
    let ko := old.toNat % 16
    let kn := b.toNat % 16
    let held : Prop := old.getLsbD 7 = true ∧ (s.domain ko).valid = true
    let busy := s.setDomain ko { s.domain ko with busy := true }
    let put := s.setCore c { s.core c with own := Tbl.set (s.core c).own u b }
    (b.getLsbD 7 = true → held → ko ≠ kn → exec (.ownershipWrite .fw k (.core c u) val) s =
      .next (s.setDomain kn { s.domain kn with conflict := true }))
    ∧ (¬(b.getLsbD 7 = true ∧ held ∧ ko ≠ kn) → ¬(held ∧ b.getLsbD 7 = false) ∨ s.unquiet ko = false →
      exec (.ownershipWrite .fw k (.core c u) val) s = .next put)
    ∧ (held → b.getLsbD 7 = false → s.unquiet ko = true → s.soiled ko = false →
      exec (.ownershipWrite .fw k (.core c u) val) s = .next busy)
    ∧ (held → b.getLsbD 7 = false → s.soiled ko = true → ∃ s', exec (.ownershipWrite .fw k (.core c u) val) s = .next s'
      ∧ s'.mem = s.mem ∧ s'.teams = s.teams ∧ ((s'.core c).own = (s.core c).own ∧ (s'.domain ko).busy = true
        ∨ (s'.core c).own = Tbl.set (s.core c).own u b ∧ s'.domain ko = s.domain ko)))
  ∧ (∀ (val : Nat) (s : State) (k : Nat), k < 16 → let d := s.domain k
    let clash {n : Nat} (old : BitVec n) (f : Domain → BitVec n) : Prop :=
      ∃ i, i < n ∧ val.testBit i = true ∧ old.getLsbD i = false ∧ ∃ e ∈ s.domains, e.1 ≠ k ∧ e.2.valid = true ∧ (f e.2).getLsbD i = true
    let loses {n : Nat} (old : BitVec n) : Prop := d.valid = true ∧ ∃ i, i < n ∧ old.getLsbD i = true ∧ val.testBit i = false
    let busy := s.setDomain k { d with busy := true }
    let conflict := s.setDomain k { d with conflict := true }
    (clash d.slices (fun x => x.slices) → exec (.ownershipWrite .fw k .slices val) s = .next conflict)
    ∧ (¬clash d.slices (fun x => x.slices) → loses d.slices → s.unquiet k = true → s.soiled k = false →
      exec (.ownershipWrite .fw k .slices val) s = .next busy)
    ∧ (¬clash d.slices (fun x => x.slices) → loses d.slices → s.soiled k = true →
      ∃ s', exec (.ownershipWrite .fw k .slices val) s = .next s' ∧ s'.mem = s.mem ∧ s'.teams = s.teams
      ∧ (s'.domain k = { d with busy := true } ∨ s'.domain k = { d with slices := BitVec.ofNat 256 val }))
    ∧ (¬clash d.slices (fun x => x.slices) → ¬loses d.slices ∨ s.unquiet k = false →
      exec (.ownershipWrite .fw k .slices val) s = .next (s.setDomain k { d with slices := BitVec.ofNat 256 val }))
    ∧ (clash d.mscb (fun x => x.mscb) → exec (.ownershipWrite .fw k .mscb val) s = .next conflict)
    ∧ (¬clash d.mscb (fun x => x.mscb) → loses d.mscb → s.unquiet k = true → s.soiled k = false →
      exec (.ownershipWrite .fw k .mscb val) s = .next busy)
    ∧ (¬clash d.mscb (fun x => x.mscb) → ¬loses d.mscb ∨ s.unquiet k = false →
      exec (.ownershipWrite .fw k .mscb val) s = .next (s.setDomain k { d with mscb := BitVec.ofNat 512 val }))
    ∧ (clash d.chan (fun x => x.chan) → exec (.ownershipWrite .fw k .chan val) s = .next conflict)
    ∧ (¬clash d.chan (fun x => x.chan) → s.mem.wf = true → ∃ s', exec (.ownershipWrite .fw k .chan val) s = .next s'
      ∧ s'.domain k = { d with chan := BitVec.ofNat 1024 val } ∧ s'.teams = s.teams ∧ s'.groups = s.groups
      ∧ ∀ a, let f := a / 2 ^ 16
        let gone : Prop := d.chan.getLsbD (frameChan f) = true ∧ (BitVec.ofNat 1024 val).getLsbD (frameChan f) = false
        let clear : Prop := ∃ w ∈ s.welts, ∃ e ∈ w.2.frames, e.1 = f ∧ e.2.clear = true ∧ f < 2 ^ 24
        (gone → clear → s'.mem.read a = 0) ∧ (¬(gone ∧ clear) → s'.mem.read a = s.mem.read a)))
  ∧ (∀ (k : Nat) (val : Word) (s : State), k < 16 → let d := s.domain k
    (val.getLsbD 1 = true → d.sealed = false → s.reachesShared k = true →
      exec (.domainControlWrite .fw k val) s = .next (s.setDomain k { d with busy := true }))
    ∧ (val.getLsbD 1 = false ∨ d.sealed = true ∨ s.reachesShared k = false → d.valid = val.getLsbD 0 →
      exec (.domainControlWrite .fw k val) s = .next (s.setDomain k { d with sealed := val.getLsbD 1 }))
    ∧ (val.getLsbD 1 = false ∨ d.sealed = true ∨ s.reachesShared k = false → d.valid = true → val.getLsbD 0 = false →
      (s.ownsAny k = true → exec (.domainControlWrite .fw k val) s = .next (s.setDomain k { d with busy := true }))
      ∧ (s.ownsAny k = false → ∃ s', exec (.domainControlWrite .fw k val) s = .next s' ∧ (s'.domain k).valid = false
        ∧ (s'.domain k).keylive = false ∧ (s'.domain k).seq = d.seq + 1 ∧ s'.teams = s.teams ∧ (∀ j, j ≠ k → s'.domain j = s.domain j)
        ∧ ∀ v, (s.vd v).domain.toNat = k → (s'.vd v).valid = false))
    ∧ (val.getLsbD 1 = false ∨ d.sealed = true ∨ s.reachesShared k = false → d.valid = false → val.getLsbD 0 = true →
      let twice : Prop := ∃ e ∈ s.domains, e.1 ≠ k ∧ e.2.valid = true
        ∧ (d.slices &&& e.2.slices ≠ 0 ∨ d.mscb &&& e.2.mscb ≠ 0 ∨ d.chan &&& e.2.chan ≠ 0)
      (twice → exec (.domainControlWrite .fw k val) s = .next (s.setDomain k { d with conflict := true }))
      ∧ (¬twice → ∃ s', exec (.domainControlWrite .fw k val) s = .next s' ∧ (s'.domain k).valid = true ∧ (s'.domain k).sealed = val.getLsbD 1
        ∧ (s'.domain k).keylive = true ∧ (d.kept = none → (s'.domain k).seq = d.seq + 1) ∧ s'.teams = s.teams
        ∧ ∀ j, j ≠ k → s'.domain j = s.domain j)))
  ∧ (∀ (wr : Writer) (v : Nat) (val : Word) (s : State), v < 64 → let d := s.vd v
    let cls : BitVec 2 := val.extractLsb' 1 2
    let dom := if wr = .fw ∧ d.valid = false then val.extractLsb' 8 4 else d.domain
    let valid := val.getLsbD 0 && (s.domain dom.toNat).valid
    wr = .fw ∨ wr = .dm d.domain.toNat →
    cls = 3 ∨ (∀ p ∈ s.chans, s.guarA p.1 v cls (Tbl.get resetContract p.2.contract v).guar.toNat ≤ 384) →
    exec (.vdControlWrite wr v val) s = .next (s.setVD v { d with
      valid := valid
      clsNext := if cls = 3 then d.clsNext else cls
      domain := dom
      incarn := if valid = true ∧ d.valid = false then d.incarn + 1 else d.incarn }))
  ∧ (∀ (wr : Writer) (c l : Nat) (s : State), c < 1024 → l < 52 →
    let of (e : Byte) (k : Nat) : Prop := e.getLsbD 7 = true ∧ s.domOf (e.toNat % 64) = k
    let named (cal : Calendar) (k : Nat) : Prop := ∃ e ∈ cal.active ++ cal.staged, of e.2 k
    let atCore : Prop := wr = .fw ∨ ∃ k, wr = .dm k ∧ (named (s.core c).cal k ∨ ∃ i, i < 72 ∧ s.ownsUnit c k i = true)
    let atLink : Prop := wr = .fw ∨ ∃ k, wr = .dm k ∧ named (s.link l).cal k
    (atCore → exec (.calendarSwap wr (.core c)) s =
      .next (s.setCore c { s.core c with cal := { (s.core c).cal with swap := true } }))
    ∧ (atLink → exec (.calendarSwap wr (.link l)) s =
      .next (s.setLink l { s.link l with cal := { (s.link l).cal with swap := true } }))
    ∧ (¬atCore → exec (.calendarSwap wr (.core c)) s = .next s) ∧ (¬atLink → exec (.calendarSwap wr (.link l)) s = .next s)
    ∧ ∀ (n : Nat) (val : Byte), n < 64 →
      let put (k : Calendar) : Calendar := { k with staged := Tbl.set k.staged n (val &&& 0xBF) }
      let may (cal : Calendar) : Prop := wr = .fw ∨ ∃ k, wr = .dm k ∧ (val.getLsbD 7 = false ∨ of val k)
        ∧ ((Tbl.get 0 cal.staged n).getLsbD 7 = false ∨ of (Tbl.get 0 cal.staged n) k)
      (may (s.core c).cal → exec (.calendarEntryWrite wr (.core c) n val) s =
        .next (s.setCore c { s.core c with cal := put (s.core c).cal }))
      ∧ (may (s.link l).cal → exec (.calendarEntryWrite wr (.link l) n val) s =
        .next (s.setLink l { s.link l with cal := put (s.link l).cal }))
      ∧ (¬may (s.core c).cal → exec (.calendarEntryWrite wr (.core c) n val) s = .next s))
  ∧ (∀ (wr : Writer) (c l v : Nat) (rho : BitVec 10) (sigma : BitVec 12) (s : State), c < 1024 → l < 52 → v < 64 → let d := s.vd v
    wr = .fw ∨ wr = .dm d.domain.toNat →
    let put (b : Bucket) : Bucket := { rho := rho, sigma := sigma, level := BitVec.ofNat 12 (min b.level.toNat sigma.toNat) }
    let clipped (s' : State) (p : Nat → Prop) : Prop := ∀ key n, Tbl.get? s.fills key = some n →
      ∃ m, Tbl.get? s'.fills key = some m ∧ (key % 64 = v ∧ p (key / 64) → m = BitVec.ofNat 12 (min n.toNat sigma.toNat))
        ∧ (¬(key % 64 = v ∧ p (key / 64)) → m = n)
    exec (.bucketWrite wr (.core c v) rho sigma) s = .next (s.setCore c { s.core c with bkt := Tbl.upd resetBucket (s.core c).bkt v put })
    ∧ exec (.bucketWrite wr (.link l v) rho sigma) s = .next (s.setLink l { s.link l with bkt := Tbl.upd resetBucket (s.link l).bkt v put })
    ∧ (∃ s', exec (.bucketWrite wr (.l2 v) rho sigma) s = .next s' ∧ s' = { s.setVD v { d with bktL2 := put d.bktL2 } with fills := s'.fills }
      ∧ clipped s' (fun i => i < 256 ∨ 768 ≤ i))
    ∧ (∃ s', exec (.bucketWrite wr (.msc v) rho sigma) s = .next s' ∧ s' = { s.setVD v { d with bktMsc := put d.bktMsc } with fills := s'.fills }
      ∧ clipped s' (fun i => 256 ≤ i ∧ i < 768))
    ∧ ∃ s', exec (.bucketWrite wr (.l1 v) rho sigma) s = .next s' ∧ s' = { s with vds := s'.vds, cores := s'.cores }
      ∧ s'.vd v = { d with bktL1 := put d.bktL1 } ∧ (∀ w, w ≠ v → s'.vd w = s.vd w)
      ∧ ∀ x, (Tbl.get 0 (s'.core x).fill v).toNat = min (Tbl.get 0 (s.core x).fill v).toNat sigma.toNat)
  ∧ (∀ (wr : Writer) (ch v : Nat) (guar rho : BitVec 10) (sigma : BitVec 12) (s : State), ch < 1024 → v < 64 →
    let d := s.vd v
    wr = .fw ∨ wr = .dm d.domain.toNat →
    (∀ k, s.chanOwner ch = some k → k = d.domain.toNat ∨ (guar = 0 ∧ rho = 0)) →
    let fits : Prop := s.guarSum ch v guar.toNat ≤ 768 ∧ s.guarA ch v d.clsNext guar.toNat ≤ 384
    (fits → exec (.contractWrite wr ch v guar rho sigma) s = .next (s.setChan ch { s.chan ch with
      contract := Tbl.upd resetContract (s.chan ch).contract v (fun e => { e with
        guar := guar, rho := rho, sigma := sigma, level := BitVec.ofNat 12 (min e.level.toNat sigma.toNat) }) }))
    ∧ (¬fits → ∃ k, (wr = .dm k ∨ wr = .fw ∧ k = d.domain.toNat) ∧
      exec (.contractWrite wr ch v guar rho sigma) s = .next (s.setDomain k { s.domain k with contract := true })))
  ∧ ∀ (c q : Nat) (val : Byte) (s : State), c < 1024 → q < 4 →
    (∀ g ∈ s.groups, g.2.core = c → g.2.ended = false → s.isSaved g.1 = false → g.2.qmask.getLsbD q = false) →
    exec (.repairByteWrite .fw c q val) s = .next (s.setCore c { s.core c with repair := Tbl.set (s.core c).repair q (val &&& 0x9F) })

/-! ## Pre-emption, switches, links -/

/-- A pre-emption request is decided once for an instance (R341), and its save halts its teams, writes their images into
their context areas (R344, what its layout leaves open being free values of log entry 42) and frees its units (R342,
R343). A switch begins with GO, marks late dies, forces what is left, and ends at a frame boundary when every die
is done (R346, R347). Flits, retries, rails, lanes, and links that go down and come up (R358 to R361). -/
def Obligations.SwitchesAndLinks : Prop :=
  (∀ (a : Nat) (s : State), let g := s.gang a
    let l := s.launch g.launch
    s.hasGang a = true → g.saved = false → g.decision = .none → s.gangSessions a = [] →
    let d := s.retiredOf a
    let drains : Prop := l.expcl ≠ 0 ∧ (l.expected : Int) - d < (s.vd g.vd).drainb.toNat
    let flushes : Prop := l.idemp = true ∧ l.expcl ≠ 0 ∧ 4 * d < l.expected
    (drains ∨ ¬flushes → ∃ s', exec (.preemptionRequest a false) s = .next s'
      ∧ s' = { s with gangs := s'.gangs, cores := s'.cores }
      ∧ s'.gang a = { g with
          decision := if l.expcl ≠ 0 ∧ (l.expected : Int) - d < (s.vd g.vd).drainb.toNat then .drain else .save, asked := some s.clock }
      ∧ ∀ b, b ≠ a → s'.gang b = s.gang b)
    ∧ (¬drains → flushes → s.gangFams a = [] → ∃ s', exec (.preemptionRequest a false) s = .next s' ∧ s'.hasGang a = false
      ∧ s'.launch g.launch = { l with live := l.live.filter (fun x => x != a), todo := insertNat g.no l.todo }
      ∧ s'.mem = s.mem ∧ s'.teams = s.teams)
    ∧ (s.sw.forced = true → ∃ s', exec (.preemptionRequest a true) s = .next s'
      ∧ s' = { s with gangs := s'.gangs, cores := s'.cores } ∧ s'.gang a = { g with decision := .forced, asked := some s.clock }))
  ∧ (∀ (a : Nat) (s : State), s.savable a = true → s.teamsOk → (s.gang a).decision = .save → (∀ t ∈ s.gangTeams a, ¬Sweeping s t) →
    (∀ g ∈ (s.gang a).members, (s.core (s.group g).core).l1 = []) → (∀ t ∈ s.gangTeams a, s.ctxArea t % 4096 = 0) →
    ∃ s', exec (.saveComplete a) s = .next s'
      ∧ (∀ x, (∀ t ∈ s'.gangTeams a, x < s'.ctxArea t ∨ imageEnd s' t ≤ x) → s'.mem.read x = s.mem.read x)
      ∧ s'.gang a = { s.gang a with saved := true, decision := .none, asked := none, zone := none }
      ∧ (∀ g, (s'.group g).spad = (s.group g).spad ∧ (s'.group g).core = (s.group g).core) ∧ s'.fams = s.fams
      ∧ ∀ t ∈ s.allTeams, (t.group ∉ (s.gang a).members → s'.team? t.ctx = some t)
        ∧ (t.group ∈ (s.gang a).members → ∃ t', s'.team? t.ctx = some t' ∧ t'.pc = t.pc ∧ t'.word = t.word ∧ t'.clause = []
          ∧ t'.loaded = false ∧ t'.tested = (t.loaded || t.tested) ∧ t'.flags = t.flags ∧ t'.seq = t.seq
          ∧ t'.lanes.map (fun l => (l.slot, l.vid, l.regs, l.p)) = t.lanes.map (fun l => (l.slot, l.vid, l.regs, l.p))
          ∧ t'.parked = (if t.parked = .fault then .fault else .halted) ∧ t'.gen = (if t.parked = .fault then t.gen else t.gen + 1)
          ∧ t'.hold = false
          ∧ t'.img = (if t.parked = .fault then (if t.hold then .resumed else .faulted) else if t.parked = .hcall then .hcall else .running)))
  ∧ (∀ (a g : Nat) (s : State) (t : Team), s.savable a = true → s.teamsOk → (s.gang a).decision = .save → (s.gang a).members = [g] →
    s.gangTeams a = [t] → t.slot < 64 → ¬Sweeping s t → (s.core (s.group g).core).l1 = [] → s.ctxArea t % 4096 = 0 → (t.lanes.map (fun l => l.slot)).Nodup →
    let m := s.fam t.fam
    let place (r : Nat) : PlaceEnt := Tbl.get noPlace m.map r
    let cell (r : Nat) : Cell := Tbl.get zeroCell m.cells r
    let image := s.ctxArea t + 0x400
    ∃ s' t', exec (.saveComplete a) s = .next s' ∧ s'.team? t.ctx = some t'
      ∧ (∀ i, i < 8 → s'.mem.read (image + i) = t.pc.extractLsb' (8 * i) 8) ∧ s'.mem.read (image + 8) = BitVec.ofNat 8 t.word
      ∧ s'.mem.read (image + 9) = t'.gen ∧ s'.mem.read (image + 10) = BitVec.ofNat 8 t.ld ∧ s'.mem.read (image + 11) = BitVec.ofNat 8 t.pl
      ∧ s'.mem.read (image + 12) = BitVec.ofNat 8 t.st ∧ s'.mem.read (image + 14) = t.flags.setWidth 8
      ∧ s'.mem.read (image + 16) = (if t.parked = .fault then (if t.hold then 3 else 1) else if t.parked = .hcall then 2 else 0)
      ∧ (∀ w i, w < 32 → i < 4 → s'.mem.read (image + 0x40 + 4 * w + i) = (t.maskWord w).extractLsb' (8 * i) 8)
      ∧ (∀ l ∈ t.lanes, l.slot < 1024 → s'.mem.read (image + 0x15C0 + l.slot) = l.p ||| 1)
      ∧ (∀ r i, r < 256 → i < 4 → (place r).kind = .team → (cell r).isOpen t.ctx = false →
          s'.mem.read (image + 0x19C0 + 4 * r + i) = ((cell r).view t.ctx 0).extractLsb' (8 * i) 8)
      ∧ (∀ l ∈ t.lanes, ∀ r e i, l.slot < 1024 → i < 4 → (r, e) ∈ m.map → e.kind = .lane → e.index.toNat < (s.launchOf t).lmax →
          (∀ x ∈ m.map, x.2.kind = .lane → x.2.index = e.index → x.1 = r) →
          s'.mem.read (image + 0x1DC0 + 4096 * e.index.toNat + 4 * l.slot + i) = (laneReg l r).extractLsb' (8 * i) 8)
      ∧ (∀ r i, t.ctx = m.ctx → r < 256 → i < 4 → (place r).kind = .mem → (cell r).isOpen t.ctx = false →
          s'.mem.read (s.ctxArea t + 4 * r + i) = ((cell r).view t.ctx 0).extractLsb' (8 * i) 8))
  ∧ (∀ (a : Nat) (s : State) (t : Team), s.savable a = true → s.teamsOk → (s.gang a).decision = .save → Sweeping s t →
    s.gangTeams a = [t] → s.Quiet t → (∀ g ∈ (s.gang a).members, (s.core (s.group g).core).l1 = []) →
    ∃ s' t', exec (.saveComplete a) s = .next s' ∧ s'.team? t.ctx = some t'
      ∧ (t'.pc = t.pc ∧ t'.word = t.word ∧ t'.seq = t.seq ∧ t'.replay.length = t.replay.length
          ∧ t'.lanes.map (fun l => l.regs) = t.lanes.map (fun l => l.regs)
        ∨ t'.seq = t.seq + 1 ∧ t'.ld = t.ld ∧ t'.pl = t.pl ∧ t'.st = t.st
          ∧ ∃ p, t'.replay.getLast? = some p ∧ t.here = some p.instr ∧ p.pc = t.pc ∧ p.word = t.word ∧ p.seq = t.seq
            ∧ p.complete = false ∧ ∀ l ∈ t.lanes, (∃ x ∈ p.lanes, x.vid = l.vid) →
              ∃ l' ∈ t'.lanes, l'.slot = l.slot ∧ l'.regs = l.regs ∧ l'.p = l.p))
  ∧ (∀ (wr : Writer) (v w : Nat) (dies : BitVec 4) (s : State), s.sw.go = false → v < 64 → w < 64 →
    wr = .fw ∨ wr = .dm (s.domOf v) ∧ wr = .dm (s.domOf w) →
    exec (.switchStart wr v w dies) s = .next { s with sw := { s.sw with
      outvd := BitVec.ofNat 6 v, invd := BitVec.ofNat 6 w, dies := dies, go := true, forced := false, done := 0, late := 0
      begun := false, doneAt := [] } })
  ∧ (∀ (s : State), s.sw.go = true → s.sw.begun = true →
    let named (d : Nat) : Prop := s.sw.dies.getLsbD d = true
    let turned (k : Calendar) : Calendar := { k with active := k.staged, swap := false }
    let waits (d : Nat) : Prop := named d ∧ s.sw.done.getLsbD d = false ∧ s.outgoing d ≠ []
    let left := ((s.sw.diesOf.filter (fun d => !s.sw.done.getLsbD d)).flatMap (fun d => s.outgoing d)).eraseDups
    (∃ s', exec .switchDeadline1 s = .next s' ∧ s' = { s with sw := s'.sw } ∧ s'.sw.forced = s.sw.forced ∧ s'.sw.go = true ∧ ∀ d, d < 4 →
      (s'.sw.done.getLsbD d = true ↔ s.sw.done.getLsbD d = true ∨ named d ∧ s.outgoing d = [])
      ∧ (s'.sw.late.getLsbD d = true ↔ s.sw.late.getLsbD d = true ∨ waits d ∧ s.sw.start + 2250 * s.sw.dl1.toNat ≤ s.clock))
    ∧ (left = [] ∨ s.clock < s.sw.start + 2250 * s.sw.dl2.toNat → ∃ s', exec .switchDeadline2 s = .next s'
      ∧ s' = { s with sw := s'.sw } ∧ s'.sw.forced = s.sw.forced)
    ∧ (∀ a, left = [a] → s.sw.start + 2250 * s.sw.dl2.toNat ≤ s.clock → s.gangSessions a = [] → s.hasGang a = true →
      (s.gang a).saved = false → (s.launch (s.gang a).launch).idemp = false →
      ∃ s', exec .switchDeadline2 s = .next s' ∧ s' = { s with sw := s'.sw, gangs := s'.gangs, cores := s'.cores }
        ∧ s'.sw.forced = true ∧ s'.gang a = { s.gang a with decision := .forced, asked := some s.clock })
    ∧ ((∀ d, d < 4 → named d → s.sw.done.getLsbD d = true ∨ s.outgoing d = []) → s.sw.late = 0 → s.clock % 1024 = 0 →
      ∃ s', exec .switchFinish s = .next s' ∧ s'.sw.go = false ∧ s' = { s with sw := s'.sw, cores := s'.cores }
        ∧ ∀ c, s'.core c = if s.sw.dies.getLsbD (c / 256) then { s.core c with cal := turned (s.core c).cal } else s.core c))
  ∧ (∀ (l v : Nat) (f : Flit) (lost : List Nat) (s : State), let k := s.link l
    l < 52 → k.up = true → k.tries ≤ 16 → (s.flitVd l).map (fun x => x.1) = some v → k.flits.find? (fun x => x.vd == v) = some f →
    lost.Nodup → (∀ b ∈ lost, b < 5) → k.failed = [] →
    k.inSlot s.clock < (if l < 8 then 3555 else if l < 40 then 100 else 12) →
    let crosses (s' : State) (way : List Nat) : Prop := (s'.link l).flits = k.flits.erase f ∧ (s'.link l).tries = 0
      ∧ (s'.link l).sent = (s.clock / 16, k.inSlot s.clock + 1) ∧ (s'.link l).retry = k.retry ∧ (s'.link l).slot = some (v, s.clock / 16)
      ∧ (∀ m, way.head? = some m → (s'.link m).flits = (s.link m).flits ++ [f])
      ∧ s'.vd v = (if l < 40 then s.vd v else
          { s.vd v with usage := { (s.vd v).usage with bytes := (s.vd v).usage.bytes + 256 } })
    ((if l < 8 then lost = [] else lost.length ≤ 1) → ∀ way, way.head? ≠ some l →
      (∀ x, s.reqs = [x] → x.id = f.id → x.route = l :: way → ∃ s', exec (.flitReceive l lost) s = .next s' ∧ crosses s' way
        ∧ s' = { s with links := s'.links, vds := s'.vds, stamp := s'.stamp, reqs := [{ x with route := way }] })
      ∧ (∀ x, s.reqs = [] → s.answers = [x] → x.id = f.id → x.route = l :: way → ∃ s', exec (.flitReceive l lost) s = .next s'
        ∧ crosses s' way ∧ s' = { s with links := s'.links, vds := s'.vds, stamp := s'.stamp, answers := [{ x with route := way }] }))
    ∧ ((if l < 8 then lost ≠ [] else 2 ≤ lost.length) → ∃ s', exec (.flitReceive l lost) s = .next s'
      ∧ s' = { s with links := s'.links, stamp := s'.stamp } ∧ (s'.link l).flits = k.flits ∧ (s'.link l).tries = k.tries + 1
      ∧ (s'.link l).retry = k.retry + 1 ∧ (s'.link l).sent = k.sent))
  ∧ (∀ (l r : Nat) (s : State), let k := s.link l
    8 ≤ l → l < 52 → r < 5 → r ∉ k.failed → 16 < ((Tbl.get [] k.errs r).filter (fun x => decide (s.clock < x + 2250000))).length →
    exec (.railFailure l r) s = .next { s.setLink l { k with failed := k.failed ++ [r] } with
      log := s.log ++ [.rail l r], msix := Tbl.upd 0 s.msix 64 (fun n => n + 1) })
  ∧ (∀ (n : Nat) (s : State), let g := Tbl.get (resetLanes n) s.laneGrps n
    (g.weak = none → exec (.laneCalibration n false) s = .next { s with laneGrps := Tbl.set s.laneGrps n { g with spare := (g.spare + 1) % 33 } }
      ∧ exec (.laneCalibration n true) s = .next { s with laneGrps := Tbl.set s.laneGrps n { g with weak := some g.spare } })
    ∧ ∀ w, g.weak = some w → exec (.laneCalibration n false) s = .next s
      ∧ exec (.laneCalibration n true) s = .next { s with log := s.log ++ [.weakLane n], msix := Tbl.upd 0 s.msix 64 (fun n => n + 1) })
  ∧ ∀ (l : Nat) (s : State), let k := s.link l
    l < 52 →
    (k.up = false ∨ 16 < k.tries ∨ 2 ≤ k.failed.length →
      let off := { k with up := false, flits := [] }
      (s.reqs = [] → s.answers = [] → s.trips = [] → exec (.linkDown l) s = .next (s.setLink l off))
      ∧ (∀ x, s.reqs = [] → s.answers = [] → s.trips = [x] → x.wb = true → x.route.head? = some l →
        exec (.linkDown l) s = .next (s.setLink l { k with up := false, flits := k.flits.filter (fun f => f.id == x.id) }))
      ∧ ∀ t p, s.team? t.ctx = some t → t.pk? p.seq = some p → p.complete = false → p.stop = none →
        (∃ r, s.reqs = [r] ∧ s.answers = [] ∧ s.trips = [] ∧ r.route.head? = some l ∧ r.orphan = false ∧ r.ctx = t.ctx ∧ r.seq = p.seq)
        ∨ (∃ x, s.reqs = [] ∧ s.answers = [x] ∧ s.trips = [] ∧ x.route.head? = some l ∧ x.ctx = t.ctx ∧ x.seq = p.seq)
        ∨ (∃ x, s.reqs = [] ∧ s.answers = [] ∧ s.trips = [x] ∧ x.route.head? = some l ∧ x.wb = false ∧ x.ctx = t.ctx
          ∧ x.pc = p.pc.toNat ∧ x.word = p.word) →
        ∃ s', exec (.linkDown l) s = .next s' ∧ s'.reqs = [] ∧ s'.answers = [] ∧ s'.trips = [] ∧ s'.mem = s.mem ∧ s'.link l = off
        ∧ ∃ t' p', s'.team? t.ctx = some t' ∧ t'.pk? p.seq = some p' ∧ t'.lanes = t.lanes
          ∧ ∃ va, p' = { p with stop := some (.linkdown va) } ∧ ∀ x, p.lanes.head? = some x → va = x.addr.toNat)
    ∧ (k.up = false → k.failed.length < 2 → exec (.linkUp l) s = .next (s.setLink l { k with up := true, tries := 0 }))

/-! ## Coolant -/

/-- Leave goes to the oldest request of the first class while it fits the zone's budget and the package's (R365); the
sensors set a zone's STATE (R368); a zone run dry is evacuated in seven steps, ending NORMAL, tried again, or fenced
(R369 to R372); the coolant table is written within its limits (R363, R364). -/
def Obligations.CoolantAndLeave : Prop :=
  (∀ (z ch : Nat) (s : State) (w : Leave) (x : Session), let k := s.zone z
    k.waiting = [w] → w.who = .session ch → (s.chan ch).session = some x →
    let fits : Prop := k.setpt ≠ 0 ∧ k.state.toNat ≤ 1
      ∧ k.granted.toNat + w.power + (if w.cls = 0 then 0 else k.resa.toNat) ≤
        min k.capw.toNat (k.capw.toNat * k.flow.toNat / k.setpt.toNat) / (if k.state = 1 then 2 else 1)
      ∧ w.cls ≤ (if k.ocls = 3 then 0 else k.ocls.toNat)
      ∧ s.coolant.pkgpwr.toNat * 1000 + w.power ≤ s.coolant.pkglim.toNat * 1000
    (fits → ∃ s', exec (.leaveGrant z) s = .next s'
      ∧ s'.zone z = { k with
          waiting := [], grants := k.grants ++ [{ w with time := s.clock }], granted := k.granted + BitVec.ofNat 16 w.power }
      ∧ (s'.chan ch).session = some { x with st := .active, granted := true }
      ∧ (∃ y, s'.answers = s.answers ++ [y] ∧ y.ctx = x.ctx ∧ y.seq = x.seq ∧ y.gen = x.gen ∧ y.lanes.map (fun l => l.vals) = [[0]])
      ∧ s' = { s with zones := s'.zones, chans := s'.chans, answers := s'.answers, records := s'.records, links := s'.links
                      stamp := s'.stamp, free := s'.free })
    ∧ (¬fits → exec (.leaveGrant z) s = .next s))
  ∧ (∀ (z g id : Nat) (qs : List Nat) (s : State) (w : Leave) (q : Nat × Quad) (e : QEnt), s.fitsLeave z w = true →
    (s.zone z).waiting = [w] → w.who = .loop g qs id → q ∈ (s.group g).quads → q.2.queue = [e] → e.id = id →
    ∃ s', exec (.leaveGrant z) s = .next s' ∧ (∃ r ∈ (s'.group g).quads, r.1 = q.1 ∧ r.2.queue = [{ e with granted := true }])
      ∧ s'.mem = s.mem ∧ s'.teams = s.teams)
  ∧ (∀ (z flow temp pres : Nat) (s : State), let k := s.zone z
    z < 80 → flow < 256 → temp < 256 → pres < 256 → k.state.toNat ≤ 2 →
    let hot : Prop := k.tcrit.toNat ≤ temp ∨ k.state = 2 ∧ k.twarn.toNat ≤ temp
    let warm : Prop := k.twarn.toNat ≤ temp ∨ flow < k.flwarn.toNat ∨ pres < k.plow.toNat ∨ k.phigh.toNat < pres
    ∃ s', ∃ y : Zone, exec (.zoneEvaluation z flow temp pres) s = .next s' ∧ s'.teams = s.teams ∧ s'.zone z = { watched y s.clock flow with
        temp := BitVec.ofNat 8 temp, pres := BitVec.ofNat 8 pres }
      ∧ (hot → y.state = 2) ∧ (¬hot → warm → y.state = 1) ∧ (¬hot → ¬warm → y.state = 0)
      ∧ y = { k with state := y.state, trap := y.trap, energy := y.energy } ∧ (y.state = k.state → s'.mem = s.mem)
      ∧ ∀ n, n < 6 → y.trap.getLsbD n = (k.trap.getLsbD n ||
          ([(decide (k.twarn.toNat ≤ temp), decide (k.twarn.toNat ≤ k.temp.toNat)), (decide (k.tcrit.toNat ≤ temp), decide (k.tcrit.toNat ≤ k.temp.toNat)),
            (decide (flow < k.flwarn.toNat), decide (k.flow.toNat < k.flwarn.toNat)), (decide (pres < k.plow.toNat), decide (k.pres.toNat < k.plow.toNat)),
            (decide (k.phigh.toNat < pres), decide (k.phigh.toNat < k.pres.toNat))].map (fun x => x.1 && !x.2)).getD n false))
  ∧ (∀ (z : Nat) (s : State), let k := s.zone z
    z < 80 → k.setpt ≠ 0 → 5 * k.flow.toNat < k.setpt.toNat → k.state = 0 →
    (∀ a, k.lowAt = some a → s.clock < a + 450000 → exec (.dryDeclaration z) s = .next s)
    ∧ ∀ a, k.lowAt = some a → a + 450000 ≤ s.clock →
    (z < 64 → s.zoneGroups z = [] → ∃ s', exec (.dryDeclaration z) s = .next s' ∧ (s'.zone z).state = 5
      ∧ (s'.zone z).trap = k.trap ||| 0x20 ∧ (s'.zone z).grants = [] ∧ (s'.zone z).dryAt = s.clock ∧ s'.mem = s.mem ∧ s'.teams = s.teams)
    ∧ ∀ a, z < 64 → s.zoneGangs z = [a] → s.hasGang a = true → (s.gang a).saved = false → s.gangSessions a = [] →
      ∃ s', exec (.dryDeclaration z) s = .next s' ∧ (s'.zone z).state = 5 ∧ (s'.gang a).decision = .forced ∧ s'.mem = s.mem
        ∧ s'.teams = s.teams)
  ∧ (∀ (z : Nat) (s : State), let k := s.zone z
    let d := zoneDie z
    (k.state = 5 → s.zoneGroups z = [] ∨ s.clock < k.dryAt + 562500 → exec (.evacuationSaveTimeout z) s = .next s)
    ∧ (∀ f, k.state = 5 → k.dryAt + 562500 ≤ s.clock → ((s.fams.filter (fun e => (s.zoneGroups z).contains e.2.group && !e.2.ended)).map (fun e => e.1)) = [f] →
      (s.fam f).ended = false → ∃ s', exec (.evacuationSaveTimeout z) s = .next s' ∧ s'.mem = s.mem
      ∧ (∀ g ∈ s.zoneGroups z, (s'.core (s.group g).core).stopped = true)
      ∧ (let l := (s.group (s.fam f).group).launch
        (s'.launch l).killed = some ((s.launch l).killed.getD .coolant)))
    ∧ (k.state = 5 → s.emptied z = true → (s.die d).purge = none → ∃ s', exec (.evacuationPurge z) s = .next s'
      ∧ s' = { s with zones := s'.zones, dies := s'.dies, welts := s'.welts } ∧ s'.zone z = { k with state := 6, valve := k.setpt, since := s.clock }
      ∧ s'.die d = { s.die d with purge := some z } ∧ (64 ≤ z → (s'.welt (z - 64)).refresh = true))
    ∧ (k.state = 6 → exec (.evacuationPulse z) s = .next (if k.since + 4500000 ≤ s.clock
        then s.setZone z { k with state := 7, valve := 255, since := s.clock } else s))
    ∧ (k.state = 7 → exec (.evacuationReprime z) s = .next (if k.since + 1125000 ≤ s.clock
        then (s.setDie d { s.die d with purge := none }).setZone z { k with state := 8, valve := k.setpt, since := s.clock } else s))
    ∧ ∀ flow, flow < 256 → let y := watched k s.clock flow
      let good : Prop := ∃ a, y.okAt = some a ∧ a + 2250000 ≤ s.clock
      (k.state = 8 → exec (.evacuationVerify z flow) s = .next (if k.since + 11250000 ≤ s.clock
        then s.setZone z { watched { k with okAt := none } s.clock flow with state := 9, since := s.clock } else s))
      ∧ (k.state = 9 → good → ∃ s', exec (.evacuationVerify z flow) s = .next s'
        ∧ s'.zone z = { y with state := 0, fence := false, valve := k.setpt, repeats := 0 }
        ∧ s' = { s with zones := s'.zones, cores := s'.cores, welts := s'.welts }
        ∧ (z < 64 → ∀ c, c / 16 = z → (s'.core c).stopped = false) ∧ (64 ≤ z → (s'.welt (z - 64)).refresh = false))
      ∧ (k.state = 9 → ¬good → s.clock < k.since + 11250000 → exec (.evacuationVerify z flow) s = .next (s.setZone z y))
      ∧ (k.state = 9 → ¬good → k.since + 11250000 ≤ s.clock → k.repeats < s.coolant.retry.toNat →
        exec (.evacuationVerify z flow) s = .next ((s.setZone z y).setZone z
          { y with state := 5, since := s.clock, repeats := k.repeats + 1 }))
      ∧ (k.state = 9 → ¬good → k.since + 11250000 ≤ s.clock → s.coolant.retry.toNat ≤ k.repeats →
        ∃ s', exec (.evacuationVerify z flow) s = .next s'
        ∧ s'.zone z = { y with state := 10, fence := true, valve := 0, repeats := 0 } ∧ s'.teams = s.teams)
      ∧ (k.fence = true → 4 * k.setpt.toNat ≤ 5 * flow → ∃ s', exec (.fenceClear .fw z flow) s = .next s'
        ∧ s'.zone z = { y with state := 0, fence := false, valve := k.setpt, repeats := 0 }
        ∧ s' = { s with zones := s'.zones, cores := s'.cores, welts := s'.welts })
      ∧ (k.fence = true → 5 * flow < 4 * k.setpt.toNat → ∃ s', exec (.fenceClear .fw z flow) s = .next s'
        ∧ s'.zone z = { y with state := 10, fence := true, valve := 0, repeats := 0 } ∧ s'.teams = s.teams))
  ∧ ∀ (z : Nat) (val : DWord) (s : State), z < 80 → let k := s.zone z
    let b (lo : Nat) : Byte := val.extractLsb' lo 8
    let lawful : Prop := (b 8).toNat ≤ (b 0).toNat ∧ (val.extractLsb' 32 16 : BitVec 16).toNat ≤ (val.extractLsb' 48 16 : BitVec 16).toNat
      ∧ (((List.range 80).filter (fun y => y != z)).map (fun y => (s.zone y).setpt.toNat)).sum + (b 0).toNat ≤ 800
    (lawful → k.fence = false → val.getLsbD 20 = false → exec (.coolantZoneWrite .fw z 0 val) s = .next (s.setZone z (watched { k with
      setpt := b 0, minfl := b 8, ocls := val.extractLsb' 16 2, resa := val.extractLsb' 32 16, capw := val.extractLsb' 48 16
      valve := if k.state = 7 ∨ k.state = 10 then k.valve else b 0 } s.clock k.flow.toNat)))
    ∧ (¬lawful → exec (.coolantZoneWrite .fw z 0 val) s = .next s)
    ∧ ((b 0).toNat ≤ 95 → (b 8).toNat ≤ 95 → exec (.coolantZoneWrite .fw z 8 val) s = .next (s.setZone z { k with
      twarn := b 0, tcrit := b 8, flwarn := b 16, plow := b 24, phigh := b 32 }))
    ∧ ((95 < (b 0).toNat ∨ 95 < (b 8).toNat) → exec (.coolantZoneWrite .fw z 8 val) s = .next s)
    ∧ exec (.coolantZoneWrite .fw z 0x10 val) s = .next (s.setZone z { k with trap := k.trap &&& ~~~(val.extractLsb' 48 6) })

/-! ## Keys, journals, resets, registers -/

/-- Attestation reports and wrapped keys (R390, R391), journal periods with their checkpoints (R394, R395), the ring's RD
(R396), resets (R397 to R399), and the registers without behaviour of their own (R304, R310, R325, R349, R363, R376,
R385, R388, R393). -/
def Obligations.KeysJournalsAndResets : Prop :=
  (∀ (wr : Writer) (k : Nat) (s : State), k < 16 → wr = .fw ∨ wr = .dm k → s.mem.wf = true → let d := s.domain k
    let at_ := d.attout.toNat
    (canWrite at_ = true → s.readable at_ 32 = true → (∀ a, at_ ≤ a → a < at_ + 2560 → s.inClear a = true) →
      let nonce := s.mem.readN at_ 32
      let own := leBytes 32 d.slices.toNat ++ leBytes 64 d.mscb.toNat ++ leBytes 128 d.chan.toNat
      let body := nonce ++ leBytes 32 Config.measurement.toNat ++ leBytes 4 (Config.domainField k d.sealed).toNat
        ++ leBytes 32 (Config.sha3 own).toNat ++ leBytes 8 d.nvcount.toNat ++ leBytes 32 d.head.toNat
      ∃ s', exec (.attestation wr k) s = .next s' ∧ s'.domain k = { d with attgo := false } ∧ s'.teams = s.teams
        ∧ (∀ i, i < 140 → s'.mem.read (at_ + i) = body.getD i 0)
        ∧ (∀ i, i < 2420 → s'.mem.read (at_ + 140 + i) = Config.sign body i)
        ∧ ∀ a, a < at_ ∨ at_ + 2560 ≤ a → s'.mem.read a = s.mem.read a)
    ∧ (d.jnlBase = 0 → d.held = [] → d.keylive = true → s.readable d.ownerek.toNat 1184 = true → canWrite d.wrapout.toNat = true →
      (∀ a, d.wrapout.toNat ≤ a → a < d.wrapout.toNat + 1160 → s.inClear a = true) →
      ∃ s', exec (.keyWrap wr k) s = .next s' ∧ (s'.domain k).wrapgo = false ∧ (s'.domain k).seq = d.seq + 1 ∧ s'.teams = s.teams
        ∧ (∀ i, i < 1160 → s'.mem.read (d.wrapout.toNat + i) = Config.wrap d.key (s.mem.readN d.ownerek.toNat 1184) i)
        ∧ ∀ a, a < d.wrapout.toNat ∨ d.wrapout.toNat + 1160 ≤ a → s'.mem.read a = s.mem.read a)
    ∧ (d.keylive = false → exec (.keyWrap wr k) s = .next (s.setDomain k { d with wrapgo := false })))
  ∧ (∀ (s : State), s.clock % 1024 = 0 → s.periodAt < s.clock / 22500000000 → ∃ s', exec .journalPeriod s = .next s'
    ∧ s'.periodAt = s.clock / 22500000000 ∧ s'.teams = s.teams ∧ s'.groups = s.groups
    ∧ (∀ k, k < 16 → (s'.domain k).nvcount = (s.domain k).nvcount + 1 ∧ (s'.domain k).ckSeq = (s'.domain k).seq
      ∧ (s'.domain k).ckHead = (s'.domain k).head)
    ∧ ∀ v, (s'.vd v).usage = resetUsage)
  ∧ (∀ (wr : Writer) (k : Nat) (rd : BitVec 16) (s : State), k < 16 → wr = .fw ∨ wr = .dm k → (s.domain k).held = [] →
    (∀ v, (s.vd v).summary = none) → exec (.journalRdWrite wr k rd) s = .next (s.setDomain k { s.domain k with jnlRd := rd }))
  ∧ (∀ (s : State), s.mem.wf = true →
    (∃ s', exec .coldReset s = .next s' ∧ s'.resets = s.resets + 1 ∧ s'.inReset = !Config.firmwareOk (s.resets + 1) ∧ s'.clock = 0
      ∧ s'.teams = [] ∧ s'.groups = [] ∧ s'.launches = [] ∧ s'.vds = [] ∧ s'.queues = [] ∧ s'.cores = [] ∧ s'.zones = [] ∧ s'.sound = []
      ∧ (∀ a, s'.mem.read a = if 0x8000_0000_0000 ≤ a then s.mem.read a else 0)
      ∧ ∀ k, k < 16 → (s'.domain k).valid = false ∧ (s'.domain k).keylive = false ∧ (s'.domain k).kept = none
        ∧ (s'.domain k).nvcount = (s.domain k).nvcount ∧ (s'.domain k).seq = (s.domain k).ckSeq + 1)
    ∧ ∀ kept, (∀ k, (s.domain k).jnlBase = 0) → (s.under.map (fun e => e.1)).Nodup →
      (∀ e ∈ s.under, e.1 < 2 ^ 33 ∧ e.2.bytes.length = 128) →
      let side (a : Nat) : Byte := match s.under.find? (fun e => e.1 == a / 128) with
        | some e => e.2.bytes.getD (a % 128) 0
        | none => s.mem.read a
      ∃ s', exec (.warmReset kept) s = .next s' ∧ s'.resets = s.resets + 1
      ∧ s'.inReset = !Config.firmwareOk (s.resets + 1) ∧ s'.clock = s.clock ∧ s'.teams = [] ∧ s'.groups = [] ∧ s'.launches = []
      ∧ s'.vds = [] ∧ s'.queues = [] ∧ (∀ c, (s'.core c).repair = (s.core c).repair ∧ (s'.core c).own = [])
      ∧ (∀ a, s'.mem.read a = if 0x8000_0000_0000 ≤ a ∨ kept = true ∧ a < 2 ^ 40 then side a else 0)
      ∧ ∀ k, k < 16 → (s'.domain k).valid = false ∧ (s'.domain k).keylive = false ∧ (s'.domain k).nvcount = (s.domain k).nvcount + 1
        ∧ ((s.domain k).keylive = true → (s.domain k).retain = true → ∃ h, (s'.domain k).kept = some ((s.domain k).key, h, 0)))
  ∧ (∀ (wr : Writer) (k : Nat) (val : BitVec 1024) (s : State), k < 16 → wr = .fw ∨ wr = .dm k → let d := s.domain k
    let f (n lo : Nat) : BitVec n := val.extractLsb' lo n
    let put (o : Nat) (e : Domain) : Prop := exec (.registerWrite wr .tenancy (0x400 * k + o) val) s = .next (s.setDomain k e)
    put 0x008 { d with
      conflict := d.conflict && !val.getLsbD 0, busy := d.busy && !val.getLsbD 1, contract := d.contract && !val.getLsbD 2 }
    ∧ put 0x100 { d with jnlBase := f 64 0 } ∧ put 0x108 { d with jnlLog := val.extractLsb' 0 5 }
    ∧ put 0x140 { d with retain := val.getLsbD 0, kerr := d.kerr &&& ~~~(val.extractLsb' 4 4) }
    ∧ put 0x148 { d with ownerek := f 64 0 } ∧ put 0x150 { d with wrapout := f 64 0 } ∧ put 0x158 { d with attout := f 64 0 })
  ∧ (∀ (wr : Writer) (v : Nat) (val : BitVec 1024) (s : State), v < 64 → let d := s.vd v
    let f (n lo : Nat) : BitVec n := val.extractLsb' lo n
    (wr = .fw ∨ wr = .dm d.domain.toNat →
      exec (.registerWrite wr .tenancy (0x10000 + 0x100 * v + 8) val) s = .next (s.setVD v { d with waysNext := f 48 0 })
      ∧ exec (.registerWrite wr .tenancy (0x10000 + 0x100 * v + 0x80) val) s = .next (s.setVD v { d with cores := val })
      ∧ exec (.registerWrite wr .queue (0x20000 + 0x40 * v) val) s = .next (s.setVD v { d with evq := { d.evq with base := f 64 0 } })
      ∧ exec (.registerWrite wr .queue (0x20000 + 0x40 * v + 8) val) s =
        .next (s.setVD v { d with evq := { d.evq with log2 := f 5 0, rd := f 16 16 } })
      ∧ ∃ s', exec (.registerWrite wr .queue (0x20000 + 0x40 * v + 0x18) val) s = .next s'
        ∧ s'.vd v = { d with homedie := if wr = .fw then f 2 0 else d.homedie, pause := val.getLsbD 8 }
        ∧ (∀ w, w ≠ v → s'.vd w = s.vd w) ∧ s' = { s with
            vds := s'.vds, msix := if d.pause = true ∧ val.getLsbD 8 = false ∧ d.evq.wr ≠ d.evq.rd then Tbl.upd 0 s.msix v (fun n => n + 1)
              else s.msix })
    ∧ (wr = .dm d.domain.toNat →
      let put (o : Nat) (e : VD) : Prop := exec (.registerWrite wr .context (0x100 * v + o) val) s = .next (s.setVD v e)
      put 0x00 { d with hmapBase := f 64 0 } ∧ put 0x08 { d with count := f 12 0, refused := d.refused && !val.getLsbD 17 }
      ∧ put 0x10 { d with moved := f 64 0 } ∧ put 0x18 { d with root := f 32 16 } ∧ put 0x20 { d with fq := { d.fq with base := f 64 0 } }
      ∧ put 0x28 { d with fq := { d.fq with log2 := f 5 0 }, stale := d.stale && !val.getLsbD 49 } ∧ put 0x38 { d with ctxBase := f 64 0 }
      ∧ put 0x40 { d with log2str := f 5 0, drainb := f 16 16 } ∧ put 0x48 { d with pool := f 64 0 }
      ∧ put 0x50 { d with migr := val.getLsbD 0, thresh := f 8 8, period := f 16 16 }
      ∧ exec (.registerWrite wr .reliability (0x40 * v) val) s = .next (s.setVD v { d with eq := { d.eq with base := f 64 0 } })
      ∧ exec (.registerWrite wr .reliability (0x40 * v + 8) val) s =
        .next (s.setVD v { d with eq := { d.eq with log2 := f 5 0, rd := f 16 16 } })))
  ∧ (∀ (p : Nat) (val : BitVec 1024) (s : State), let f (n lo : Nat) : BitVec n := val.extractLsb' lo n
    (p < 1024 → exec (.registerWrite .fw .tenancy (0x500000 + 0x400 * p + 0x200) val) s =
      .next (s.setChan p { s.chan p with capA := f 12 0, capB := f 12 12, capC := f 12 24 }))
    ∧ (let route : Route := { pkg := f 12 0, links := f 12 12, domain := f 4 24, valid := val.getLsbD 63 }
      p < 64 → exec (.registerWrite .fw .peer (8 * p) val) s = .next { s with routes := Tbl.set s.routes p route })
    ∧ (1 ≤ p → p < 16 → exec (.registerWrite .fw .coolant (0xA00 + 2 * p) val) s =
      .next { s with coolant := { s.coolant with clspwr := Tbl.set s.coolant.clspwr p (f 16 0) } })
    ∧ exec (.registerWrite .fw .coolant 0xA40 val) s = .next { s with coolant := { s.coolant with pkglim := f 16 0, retry := f 4 32 } }
    ∧ (s.sw.go = false → exec (.registerWrite .fw .context 0xA000 val) s =
        .next { s with sw := { s.sw with outvd := f 6 0, invd := f 6 6, dies := f 4 12 } }
      ∧ exec (.registerWrite .fw .context 0xA008 val) s = .next { s with sw := { s.sw with dl1 := f 16 0, dl2 := f 16 16 } })
    ∧ exec (.registerWrite .fw .context 0xC000 val) s = .next { s with pkg := { s.pkg with va := f 40 16 } }
    ∧ exec (.registerWrite .fw .context 0xC008 val) s = .next { s with pkg := { s.pkg with asid := f 10 0, size := f 2 12 } }
    ∧ exec (.registerWrite .fw .context 0xC010 val) s = .next { s with pkg := { s.pkg with frame := f 32 16 } })
  ∧ ∀ (wr : Writer) (q : Nat) (val : BitVec 1024) (s : State), q < 4096 → let x := s.queue q
    let f (n lo : Nat) : BitVec n := val.extractLsb' lo n
    let put (o : Nat) (y : Queue) : Prop := exec (.registerWrite wr .queue (0x20 * q + o) val) s = .next (s.setQueue q y)
    (wr = .fw ∨ wr = .dm (s.domOf x.vd.toNat) →
      (x.enable = false → put 0x00 { x with base := f 64 0 }) ∧ put 0x18 { x with qerr := x.qerr &&& ~~~(f 8 0) }
      ∧ (x.enable = true → put 0x08 { x with prio := f 3 16, enable := val.getLsbD 24 }))
    ∧ (wr = .fw ∨ wr = .dm (s.domOf (f 6 8).toNat) → x.enable = false →
      put 0x08 { x with log2 := f 5 0, vd := f 6 8, prio := f 3 16, enable := val.getLsbD 24 })
end

