-- ==== Sys2Proof/Laws/Tables.lean ====
section
/-! SUPPORT. Laws of the tables of State and of memory: a read after a write, and the canonical form of
memory. -/

namespace Sys2Proof

/-! ### Tables -/

@[simp] theorem Tbl.get_nil {α : Type} (d : α) (n : Nat) : Tbl.get d ([] : Tbl α) n = d := rfl

theorem Tbl.get_set {α : Type} (d : α) (t : Tbl α) (k n : Nat) (v : α) :
    Tbl.get d (Tbl.set t k v) n = if k = n then v else Tbl.get d t n := by
  induction t with
  | nil => simp [Tbl.set, Tbl.get]
  | cons e t ih =>
    obtain ⟨j, w⟩ := e
    simp only [Tbl.set]
    split
    · simp [Tbl.get]
    · split
      · subst_vars; simp only [Tbl.get]; split <;> rfl
      · simp only [Tbl.get, ih]; split <;> split <;> first | rfl | omega

@[simp] theorem Tbl.get_set_same {α : Type} (d : α) (t : Tbl α) (k : Nat) (v : α) :
    Tbl.get d (Tbl.set t k v) k = v := by simp [Tbl.get_set]

theorem Tbl.get_set_ne {α : Type} (d : α) (t : Tbl α) {k n : Nat} (v : α) (h : n ≠ k) :
    Tbl.get d (Tbl.set t k v) n = Tbl.get d t n := by simp [Tbl.get_set, Ne.symm h]

theorem Tbl.get?_set {α : Type} (t : Tbl α) (k n : Nat) (v : α) :
    Machine.Tbl.get? (Tbl.set t k v) n = if k = n then some v else Machine.Tbl.get? t n := by
  induction t with
  | nil => simp [Tbl.set, Machine.Tbl.get?]
  | cons e t ih =>
    obtain ⟨j, w⟩ := e
    simp only [Tbl.set]
    split
    · simp [Machine.Tbl.get?]
    · split
      · subst_vars; simp only [Machine.Tbl.get?]; split <;> rfl
      · simp only [Machine.Tbl.get?, ih]; split <;> split <;> first | rfl | omega

@[simp] theorem Tbl.get_upd_same {α : Type} (d : α) (t : Tbl α) (k : Nat) (f : α → α) :
    Tbl.get d (Tbl.upd d t k f) k = f (Tbl.get d t k) := by simp [Tbl.upd]

theorem Tbl.get_upd_ne {α : Type} (d : α) (t : Tbl α) {k n : Nat} (f : α → α) (h : n ≠ k) :
    Tbl.get d (Tbl.upd d t k f) n = Tbl.get d t n := by simp [Tbl.upd, Tbl.get_set_ne, h]

theorem Tbl.get?_del {α : Type} (t : Tbl α) (k n : Nat) :
    Machine.Tbl.get? (Tbl.del t k) n = if n = k then none else Machine.Tbl.get? t n := by
  induction t with
  | nil => simp [Tbl.del, Machine.Tbl.get?]
  | cons e t ih =>
    obtain ⟨j, w⟩ := e
    simp only [Tbl.del] at ih
    by_cases hj : j = k
    · subst hj
      simp only [Tbl.del, List.filter, bne_self_eq_false, ih, Machine.Tbl.get?]
      by_cases hn : n = j
      · simp [hn]
      · simp [hn, Ne.symm hn]
    · have hb : (j != k) = true := by simpa using hj
      simp only [Tbl.del, List.filter, hb, Machine.Tbl.get?, ih]
      split <;> split <;> first | rfl | omega

/-! ### Memory -/

@[simp] theorem Mem.read_nil (a : Nat) : Mem.read [] a = Mem.unlisted := rfl

/-- Below its first address a canonical memory lists nothing. -/
theorem Mem.read_below {m : Mem} {lo a : Nat} (h : Mem.wfFrom lo m = true) (ha : a < lo) :
    Mem.read m a = Mem.unlisted := by
  cases m with
  | nil => rfl
  | cons e m =>
    obtain ⟨k, b⟩ := e
    simp only [Mem.wfFrom, Bool.and_eq_true, decide_eq_true_eq] at h
    have : ¬k = a := by omega
    simp [Mem.read, this, show a < k by omega]

theorem Mem.wfFrom_mono {m : Mem} {lo lo' : Nat} (h : Mem.wfFrom lo' m = true) (hl : lo ≤ lo') :
    Mem.wfFrom lo m = true := by
  cases m with
  | nil => rfl
  | cons e m =>
    obtain ⟨k, b⟩ := e
    simp only [Mem.wfFrom, Bool.and_eq_true, decide_eq_true_eq] at h ⊢
    exact ⟨⟨by omega, h.1.2⟩, h.2⟩

/-- A write keeps the canonical form. -/
theorem Mem.wfFrom_write {m : Mem} {lo a : Nat} (b : Byte) (h : Mem.wfFrom lo m = true) (ha : lo ≤ a) :
    Mem.wfFrom lo (Mem.write m a b) = true := by
  induction m generalizing lo with
  | nil => simp only [Mem.write]; split <;> simp [Mem.wfFrom, *]
  | cons e m ih =>
    obtain ⟨k, c⟩ := e
    have h' := h
    simp only [Mem.wfFrom, Bool.and_eq_true, decide_eq_true_eq] at h
    obtain ⟨⟨hk, hc⟩, hm⟩ := h
    simp only [Mem.write]
    split
    · split
      · exact h'
      · simp only [Mem.wfFrom, Bool.and_eq_true, decide_eq_true_eq]
        exact ⟨⟨ha, ‹_›⟩, ⟨by omega, hc⟩, hm⟩
    · split
      · split
        · exact Mem.wfFrom_mono hm (by omega)
        · simp only [Mem.wfFrom, Bool.and_eq_true, decide_eq_true_eq]
          exact ⟨⟨ha, ‹_›⟩, by subst_vars; exact hm⟩
      · simp only [Mem.wfFrom, Bool.and_eq_true, decide_eq_true_eq]
        exact ⟨⟨hk, hc⟩, ih hm (by omega)⟩

theorem Mem.wf_write {m : Mem} (a : Nat) (b : Byte) (h : m.wf = true) : (m.write a b).wf = true :=
  Mem.wfFrom_write b h (Nat.zero_le _)

theorem Mem.wf_writeN {m : Mem} (a : Nat) (bs : List Byte) (h : m.wf = true) : (m.writeN a bs).wf = true := by
  induction bs generalizing m a with
  | nil => exact h
  | cons b bs ih => exact ih _ (Mem.wf_write a b h)

/-- Dropping entries keeps the canonical form. -/
theorem Mem.wfFrom_filter {m : Mem} {lo : Nat} (p : Host.Cell → Bool) (h : Mem.wfFrom lo m = true) :
    Mem.wfFrom lo (m.filter p) = true := by
  induction m generalizing lo with
  | nil => rfl
  | cons e m ih =>
    obtain ⟨k, b⟩ := e
    simp only [Mem.wfFrom, Bool.and_eq_true, decide_eq_true_eq] at h
    simp only [List.filter]
    split
    · simp only [Mem.wfFrom, Bool.and_eq_true, decide_eq_true_eq]; exact ⟨h.1, ih h.2⟩
    · exact Mem.wfFrom_mono (ih h.2) (by omega)

theorem Mem.wf_filter {m : Mem} (p : Host.Cell → Bool) (h : m.wf = true) : Mem.wf (m.filter p) = true :=
  Mem.wfFrom_filter p h

/-- A list of bytes written at scattered addresses keeps the canonical form. -/
theorem Mem.wf_foldl {α : Type} {m : Mem} (l : List α) (f : Mem → α → Mem)
    (hf : ∀ m x, m.wf = true → (f m x).wf = true) (h : m.wf = true) : (l.foldl f m).wf = true := by
  induction l generalizing m with
  | nil => exact h
  | cons x l ih => exact ih (hf m x h)

/-- A byte read after a byte written, in canonical memory. -/
theorem Mem.read_write_from {m : Mem} {lo : Nat} (a x : Nat) (b : Byte) (h : Mem.wfFrom lo m = true) :
    Mem.read (Mem.write m a b) x = if a = x then b else Mem.read m x := by
  induction m generalizing lo with
  | nil =>
    simp only [Mem.write]
    split
    · subst_vars; split <;> rfl
    · simp only [Mem.read]; split
      · rfl
      · split <;> rfl
  | cons e m ih =>
    obtain ⟨k, c⟩ := e
    simp only [Mem.wfFrom, Bool.and_eq_true, decide_eq_true_eq] at h
    obtain ⟨⟨hk, hc⟩, hm⟩ := h
    simp only [Mem.write]
    split
    · split
      · split
        · subst_vars; simp only [Mem.read]
          rw [if_neg (by omega), if_pos ‹_›]
        · rfl
      · simp only [Mem.read]
        split
        · rfl
        · split
          · rw [if_neg (by omega), if_pos (by omega)]
          · rfl
    · split
      · subst_vars
        split
        · subst_vars
          simp only [Mem.read]
          split
          · subst_vars; exact Mem.read_below hm (by omega)
          · split
            · exact Mem.read_below hm (by omega)
            · rfl
        · simp only [Mem.read]; split <;> rfl
      · simp only [Mem.read, ih hm]
        split
        · rw [if_neg (by omega)]
        · split
          · rw [if_neg (by omega)]
          · rfl

@[simp] theorem Mem.read_write_same {m : Mem} (a : Nat) (b : Byte) (h : m.wf = true) :
    (m.write a b).read a = b := by simp [Mem.read_write_from a a b h]

theorem Mem.read_write_ne {m : Mem} {a x : Nat} (b : Byte) (h : m.wf = true) (hx : x ≠ a) :
    (m.write a b).read x = m.read x := by
  rw [Mem.read_write_from a x b h, if_neg (Ne.symm hx)]

/-- Bytes outside those written read as before. -/
theorem Mem.read_writeN_out {m : Mem} {a x : Nat} (bs : List Byte) (h : m.wf = true)
    (hx : x < a ∨ a + bs.length ≤ x) : (m.writeN a bs).read x = m.read x := by
  induction bs generalizing m a with
  | nil => rfl
  | cons b bs ih =>
    simp only [List.length_cons] at hx
    rw [Mem.writeN, ih (Mem.wf_write a b h) (by omega), Mem.read_write_ne b h (by omega)]

/-- Bytes written read back. -/
theorem Mem.readN_writeN {m : Mem} (a : Nat) (bs : List Byte) (h : m.wf = true) :
    (m.writeN a bs).readN a bs.length = bs := by
  induction bs generalizing m a with
  | nil => rfl
  | cons b bs ih =>
    have hw := Mem.wf_write a b h
    simp only [Mem.writeN, List.length_cons, Mem.readN]
    rw [Mem.read_writeN_out bs hw (by omega), Mem.read_write_same a b h, ih (a + 1) hw]

/-! ### Little-endian numbers -/

theorem leNat_leBytes (n v : Nat) : leNat (leBytes n v) = v % 256 ^ n := by
  induction n generalizing v with
  | zero => simp [leBytes, leNat, Nat.mod_one]
  | succ n ih =>
    simp only [leBytes, leNat, ih, BitVec.toNat_ofNat]
    rw [show (2 : Nat) ^ 8 = 256 from rfl, Nat.pow_succ, Nat.mul_comm (256 ^ n) 256, Nat.mod_mul]

@[simp] theorem length_leBytes (n v : Nat) : (leBytes n v).length = n := by
  induction n generalizing v with
  | zero => rfl
  | succ n ih => simp [leBytes, ih]

end Sys2Proof
end

