-- ==== Sys2Proof/Laws/State.lean ====
section
/-! SUPPORT. What each update of State leaves alone, field by field, and what the readers of its parts
give after it. -/

namespace Sys2Proof.Machine

variable (s : State)

@[simp] theorem State.setDomain_inputs (k : Nat) (d : Domain) : (s.setDomain k d).inputs = s.inputs := rfl
@[simp] theorem State.setDomain_turn (k : Nat) (d : Domain) : (s.setDomain k d).turn = s.turn := rfl
@[simp] theorem State.setDomain_pace (k : Nat) (d : Domain) : (s.setDomain k d).pace = s.pace := rfl
@[simp] theorem State.setDomain_holds (k : Nat) (d : Domain) : (s.setDomain k d).holds = s.holds := rfl
@[simp] theorem State.setDomain_free (k : Nat) (d : Domain) : (s.setDomain k d).free = s.free := rfl
@[simp] theorem State.setDomain_stamp (k : Nat) (d : Domain) : (s.setDomain k d).stamp = s.stamp := rfl
@[simp] theorem State.setDomain_clock (k : Nat) (d : Domain) : (s.setDomain k d).clock = s.clock := rfl
@[simp] theorem State.setDomain_resets (k : Nat) (d : Domain) : (s.setDomain k d).resets = s.resets := rfl
@[simp] theorem State.setDomain_inReset (k : Nat) (d : Domain) : (s.setDomain k d).inReset = s.inReset := rfl
@[simp] theorem State.setDomain_mem (k : Nat) (d : Domain) : (s.setDomain k d).mem = s.mem := rfl
@[simp] theorem State.setDomain_sound (k : Nat) (d : Domain) : (s.setDomain k d).sound = s.sound := rfl
@[simp] theorem State.setDomain_errs (k : Nat) (d : Domain) : (s.setDomain k d).errs = s.errs := rfl
@[simp] theorem State.setDomain_tags (k : Nat) (d : Domain) : (s.setDomain k d).tags = s.tags := rfl
@[simp] theorem State.setDomain_vds (k : Nat) (d : Domain) : (s.setDomain k d).vds = s.vds := rfl
@[simp] theorem State.setDomain_cores (k : Nat) (d : Domain) : (s.setDomain k d).cores = s.cores := rfl
@[simp] theorem State.setDomain_links (k : Nat) (d : Domain) : (s.setDomain k d).links = s.links := rfl
@[simp] theorem State.setDomain_laneGrps (k : Nat) (d : Domain) : (s.setDomain k d).laneGrps = s.laneGrps := rfl
@[simp] theorem State.setDomain_chans (k : Nat) (d : Domain) : (s.setDomain k d).chans = s.chans := rfl
@[simp] theorem State.setDomain_welts (k : Nat) (d : Domain) : (s.setDomain k d).welts = s.welts := rfl
@[simp] theorem State.setDomain_dies (k : Nat) (d : Domain) : (s.setDomain k d).dies = s.dies := rfl
@[simp] theorem State.setDomain_lines (k : Nat) (d : Domain) : (s.setDomain k d).lines = s.lines := rfl
@[simp] theorem State.setDomain_l2 (k : Nat) (d : Domain) : (s.setDomain k d).l2 = s.l2 := rfl
@[simp] theorem State.setDomain_msc (k : Nat) (d : Domain) : (s.setDomain k d).msc = s.msc := rfl
@[simp] theorem State.setDomain_under (k : Nat) (d : Domain) : (s.setDomain k d).under = s.under := rfl
@[simp] theorem State.setDomain_fills (k : Nat) (d : Domain) : (s.setDomain k d).fills = s.fills := rfl
@[simp] theorem State.setDomain_trips (k : Nat) (d : Domain) : (s.setDomain k d).trips = s.trips := rfl
@[simp] theorem State.setDomain_sw (k : Nat) (d : Domain) : (s.setDomain k d).sw = s.sw := rfl
@[simp] theorem State.setDomain_pkg (k : Nat) (d : Domain) : (s.setDomain k d).pkg = s.pkg := rfl
@[simp] theorem State.setDomain_zones (k : Nat) (d : Domain) : (s.setDomain k d).zones = s.zones := rfl
@[simp] theorem State.setDomain_coolant (k : Nat) (d : Domain) : (s.setDomain k d).coolant = s.coolant := rfl
@[simp] theorem State.setDomain_queues (k : Nat) (d : Domain) : (s.setDomain k d).queues = s.queues := rfl
@[simp] theorem State.setDomain_routes (k : Nat) (d : Domain) : (s.setDomain k d).routes = s.routes := rfl
@[simp] theorem State.setDomain_launches (k : Nat) (d : Domain) : (s.setDomain k d).launches = s.launches := rfl
@[simp] theorem State.setDomain_gangs (k : Nat) (d : Domain) : (s.setDomain k d).gangs = s.gangs := rfl
@[simp] theorem State.setDomain_groups (k : Nat) (d : Domain) : (s.setDomain k d).groups = s.groups := rfl
@[simp] theorem State.setDomain_fams (k : Nat) (d : Domain) : (s.setDomain k d).fams = s.fams := rfl
@[simp] theorem State.setDomain_teams (k : Nat) (d : Domain) : (s.setDomain k d).teams = s.teams := rfl
@[simp] theorem State.setDomain_reqs (k : Nat) (d : Domain) : (s.setDomain k d).reqs = s.reqs := rfl
@[simp] theorem State.setDomain_answers (k : Nat) (d : Domain) : (s.setDomain k d).answers = s.answers := rfl
@[simp] theorem State.setDomain_records (k : Nat) (d : Domain) : (s.setDomain k d).records = s.records := rfl
@[simp] theorem State.setDomain_newest (k : Nat) (d : Domain) : (s.setDomain k d).newest = s.newest := rfl
@[simp] theorem State.setDomain_discards (k : Nat) (d : Domain) : (s.setDomain k d).discards = s.discards := rfl
@[simp] theorem State.setDomain_acks (k : Nat) (d : Domain) : (s.setDomain k d).acks = s.acks := rfl
@[simp] theorem State.setDomain_races (k : Nat) (d : Domain) : (s.setDomain k d).races = s.races := rfl
@[simp] theorem State.setDomain_laceRegs (k : Nat) (d : Domain) : (s.setDomain k d).laceRegs = s.laceRegs := rfl
@[simp] theorem State.setDomain_periodAt (k : Nat) (d : Domain) : (s.setDomain k d).periodAt = s.periodAt := rfl
@[simp] theorem State.setDomain_msix (k : Nat) (d : Domain) : (s.setDomain k d).msix = s.msix := rfl
@[simp] theorem State.setDomain_log (k : Nat) (d : Domain) : (s.setDomain k d).log = s.log := rfl

@[simp] theorem State.setVD_inputs (k : Nat) (d : VD) : (s.setVD k d).inputs = s.inputs := rfl
@[simp] theorem State.setVD_turn (k : Nat) (d : VD) : (s.setVD k d).turn = s.turn := rfl
@[simp] theorem State.setVD_pace (k : Nat) (d : VD) : (s.setVD k d).pace = s.pace := rfl
@[simp] theorem State.setVD_holds (k : Nat) (d : VD) : (s.setVD k d).holds = s.holds := rfl
@[simp] theorem State.setVD_free (k : Nat) (d : VD) : (s.setVD k d).free = s.free := rfl
@[simp] theorem State.setVD_stamp (k : Nat) (d : VD) : (s.setVD k d).stamp = s.stamp := rfl
@[simp] theorem State.setVD_clock (k : Nat) (d : VD) : (s.setVD k d).clock = s.clock := rfl
@[simp] theorem State.setVD_resets (k : Nat) (d : VD) : (s.setVD k d).resets = s.resets := rfl
@[simp] theorem State.setVD_inReset (k : Nat) (d : VD) : (s.setVD k d).inReset = s.inReset := rfl
@[simp] theorem State.setVD_mem (k : Nat) (d : VD) : (s.setVD k d).mem = s.mem := rfl
@[simp] theorem State.setVD_sound (k : Nat) (d : VD) : (s.setVD k d).sound = s.sound := rfl
@[simp] theorem State.setVD_errs (k : Nat) (d : VD) : (s.setVD k d).errs = s.errs := rfl
@[simp] theorem State.setVD_tags (k : Nat) (d : VD) : (s.setVD k d).tags = s.tags := rfl
@[simp] theorem State.setVD_domains (k : Nat) (d : VD) : (s.setVD k d).domains = s.domains := rfl
@[simp] theorem State.setVD_cores (k : Nat) (d : VD) : (s.setVD k d).cores = s.cores := rfl
@[simp] theorem State.setVD_links (k : Nat) (d : VD) : (s.setVD k d).links = s.links := rfl
@[simp] theorem State.setVD_laneGrps (k : Nat) (d : VD) : (s.setVD k d).laneGrps = s.laneGrps := rfl
@[simp] theorem State.setVD_chans (k : Nat) (d : VD) : (s.setVD k d).chans = s.chans := rfl
@[simp] theorem State.setVD_welts (k : Nat) (d : VD) : (s.setVD k d).welts = s.welts := rfl
@[simp] theorem State.setVD_dies (k : Nat) (d : VD) : (s.setVD k d).dies = s.dies := rfl
@[simp] theorem State.setVD_lines (k : Nat) (d : VD) : (s.setVD k d).lines = s.lines := rfl
@[simp] theorem State.setVD_l2 (k : Nat) (d : VD) : (s.setVD k d).l2 = s.l2 := rfl
@[simp] theorem State.setVD_msc (k : Nat) (d : VD) : (s.setVD k d).msc = s.msc := rfl
@[simp] theorem State.setVD_under (k : Nat) (d : VD) : (s.setVD k d).under = s.under := rfl
@[simp] theorem State.setVD_fills (k : Nat) (d : VD) : (s.setVD k d).fills = s.fills := rfl
@[simp] theorem State.setVD_trips (k : Nat) (d : VD) : (s.setVD k d).trips = s.trips := rfl
@[simp] theorem State.setVD_sw (k : Nat) (d : VD) : (s.setVD k d).sw = s.sw := rfl
@[simp] theorem State.setVD_pkg (k : Nat) (d : VD) : (s.setVD k d).pkg = s.pkg := rfl
@[simp] theorem State.setVD_zones (k : Nat) (d : VD) : (s.setVD k d).zones = s.zones := rfl
@[simp] theorem State.setVD_coolant (k : Nat) (d : VD) : (s.setVD k d).coolant = s.coolant := rfl
@[simp] theorem State.setVD_queues (k : Nat) (d : VD) : (s.setVD k d).queues = s.queues := rfl
@[simp] theorem State.setVD_routes (k : Nat) (d : VD) : (s.setVD k d).routes = s.routes := rfl
@[simp] theorem State.setVD_launches (k : Nat) (d : VD) : (s.setVD k d).launches = s.launches := rfl
@[simp] theorem State.setVD_gangs (k : Nat) (d : VD) : (s.setVD k d).gangs = s.gangs := rfl
@[simp] theorem State.setVD_groups (k : Nat) (d : VD) : (s.setVD k d).groups = s.groups := rfl
@[simp] theorem State.setVD_fams (k : Nat) (d : VD) : (s.setVD k d).fams = s.fams := rfl
@[simp] theorem State.setVD_teams (k : Nat) (d : VD) : (s.setVD k d).teams = s.teams := rfl
@[simp] theorem State.setVD_reqs (k : Nat) (d : VD) : (s.setVD k d).reqs = s.reqs := rfl
@[simp] theorem State.setVD_answers (k : Nat) (d : VD) : (s.setVD k d).answers = s.answers := rfl
@[simp] theorem State.setVD_records (k : Nat) (d : VD) : (s.setVD k d).records = s.records := rfl
@[simp] theorem State.setVD_newest (k : Nat) (d : VD) : (s.setVD k d).newest = s.newest := rfl
@[simp] theorem State.setVD_discards (k : Nat) (d : VD) : (s.setVD k d).discards = s.discards := rfl
@[simp] theorem State.setVD_acks (k : Nat) (d : VD) : (s.setVD k d).acks = s.acks := rfl
@[simp] theorem State.setVD_races (k : Nat) (d : VD) : (s.setVD k d).races = s.races := rfl
@[simp] theorem State.setVD_laceRegs (k : Nat) (d : VD) : (s.setVD k d).laceRegs = s.laceRegs := rfl
@[simp] theorem State.setVD_periodAt (k : Nat) (d : VD) : (s.setVD k d).periodAt = s.periodAt := rfl
@[simp] theorem State.setVD_msix (k : Nat) (d : VD) : (s.setVD k d).msix = s.msix := rfl
@[simp] theorem State.setVD_log (k : Nat) (d : VD) : (s.setVD k d).log = s.log := rfl

@[simp] theorem State.setCore_inputs (k : Nat) (d : Core) : (s.setCore k d).inputs = s.inputs := rfl
@[simp] theorem State.setCore_turn (k : Nat) (d : Core) : (s.setCore k d).turn = s.turn := rfl
@[simp] theorem State.setCore_pace (k : Nat) (d : Core) : (s.setCore k d).pace = s.pace := rfl
@[simp] theorem State.setCore_holds (k : Nat) (d : Core) : (s.setCore k d).holds = s.holds := rfl
@[simp] theorem State.setCore_free (k : Nat) (d : Core) : (s.setCore k d).free = s.free := rfl
@[simp] theorem State.setCore_stamp (k : Nat) (d : Core) : (s.setCore k d).stamp = s.stamp := rfl
@[simp] theorem State.setCore_clock (k : Nat) (d : Core) : (s.setCore k d).clock = s.clock := rfl
@[simp] theorem State.setCore_resets (k : Nat) (d : Core) : (s.setCore k d).resets = s.resets := rfl
@[simp] theorem State.setCore_inReset (k : Nat) (d : Core) : (s.setCore k d).inReset = s.inReset := rfl
@[simp] theorem State.setCore_mem (k : Nat) (d : Core) : (s.setCore k d).mem = s.mem := rfl
@[simp] theorem State.setCore_sound (k : Nat) (d : Core) : (s.setCore k d).sound = s.sound := rfl
@[simp] theorem State.setCore_errs (k : Nat) (d : Core) : (s.setCore k d).errs = s.errs := rfl
@[simp] theorem State.setCore_tags (k : Nat) (d : Core) : (s.setCore k d).tags = s.tags := rfl
@[simp] theorem State.setCore_domains (k : Nat) (d : Core) : (s.setCore k d).domains = s.domains := rfl
@[simp] theorem State.setCore_vds (k : Nat) (d : Core) : (s.setCore k d).vds = s.vds := rfl
@[simp] theorem State.setCore_links (k : Nat) (d : Core) : (s.setCore k d).links = s.links := rfl
@[simp] theorem State.setCore_laneGrps (k : Nat) (d : Core) : (s.setCore k d).laneGrps = s.laneGrps := rfl
@[simp] theorem State.setCore_chans (k : Nat) (d : Core) : (s.setCore k d).chans = s.chans := rfl
@[simp] theorem State.setCore_welts (k : Nat) (d : Core) : (s.setCore k d).welts = s.welts := rfl
@[simp] theorem State.setCore_dies (k : Nat) (d : Core) : (s.setCore k d).dies = s.dies := rfl
@[simp] theorem State.setCore_lines (k : Nat) (d : Core) : (s.setCore k d).lines = s.lines := rfl
@[simp] theorem State.setCore_l2 (k : Nat) (d : Core) : (s.setCore k d).l2 = s.l2 := rfl
@[simp] theorem State.setCore_msc (k : Nat) (d : Core) : (s.setCore k d).msc = s.msc := rfl
@[simp] theorem State.setCore_under (k : Nat) (d : Core) : (s.setCore k d).under = s.under := rfl
@[simp] theorem State.setCore_fills (k : Nat) (d : Core) : (s.setCore k d).fills = s.fills := rfl
@[simp] theorem State.setCore_trips (k : Nat) (d : Core) : (s.setCore k d).trips = s.trips := rfl
@[simp] theorem State.setCore_sw (k : Nat) (d : Core) : (s.setCore k d).sw = s.sw := rfl
@[simp] theorem State.setCore_pkg (k : Nat) (d : Core) : (s.setCore k d).pkg = s.pkg := rfl
@[simp] theorem State.setCore_zones (k : Nat) (d : Core) : (s.setCore k d).zones = s.zones := rfl
@[simp] theorem State.setCore_coolant (k : Nat) (d : Core) : (s.setCore k d).coolant = s.coolant := rfl
@[simp] theorem State.setCore_queues (k : Nat) (d : Core) : (s.setCore k d).queues = s.queues := rfl
@[simp] theorem State.setCore_routes (k : Nat) (d : Core) : (s.setCore k d).routes = s.routes := rfl
@[simp] theorem State.setCore_launches (k : Nat) (d : Core) : (s.setCore k d).launches = s.launches := rfl
@[simp] theorem State.setCore_gangs (k : Nat) (d : Core) : (s.setCore k d).gangs = s.gangs := rfl
@[simp] theorem State.setCore_groups (k : Nat) (d : Core) : (s.setCore k d).groups = s.groups := rfl
@[simp] theorem State.setCore_fams (k : Nat) (d : Core) : (s.setCore k d).fams = s.fams := rfl
@[simp] theorem State.setCore_teams (k : Nat) (d : Core) : (s.setCore k d).teams = s.teams := rfl
@[simp] theorem State.setCore_reqs (k : Nat) (d : Core) : (s.setCore k d).reqs = s.reqs := rfl
@[simp] theorem State.setCore_answers (k : Nat) (d : Core) : (s.setCore k d).answers = s.answers := rfl
@[simp] theorem State.setCore_records (k : Nat) (d : Core) : (s.setCore k d).records = s.records := rfl
@[simp] theorem State.setCore_newest (k : Nat) (d : Core) : (s.setCore k d).newest = s.newest := rfl
@[simp] theorem State.setCore_discards (k : Nat) (d : Core) : (s.setCore k d).discards = s.discards := rfl
@[simp] theorem State.setCore_acks (k : Nat) (d : Core) : (s.setCore k d).acks = s.acks := rfl
@[simp] theorem State.setCore_races (k : Nat) (d : Core) : (s.setCore k d).races = s.races := rfl
@[simp] theorem State.setCore_laceRegs (k : Nat) (d : Core) : (s.setCore k d).laceRegs = s.laceRegs := rfl
@[simp] theorem State.setCore_periodAt (k : Nat) (d : Core) : (s.setCore k d).periodAt = s.periodAt := rfl
@[simp] theorem State.setCore_msix (k : Nat) (d : Core) : (s.setCore k d).msix = s.msix := rfl
@[simp] theorem State.setCore_log (k : Nat) (d : Core) : (s.setCore k d).log = s.log := rfl

@[simp] theorem State.setLink_inputs (k : Nat) (d : Link) : (s.setLink k d).inputs = s.inputs := rfl
@[simp] theorem State.setLink_turn (k : Nat) (d : Link) : (s.setLink k d).turn = s.turn := rfl
@[simp] theorem State.setLink_pace (k : Nat) (d : Link) : (s.setLink k d).pace = s.pace := rfl
@[simp] theorem State.setLink_holds (k : Nat) (d : Link) : (s.setLink k d).holds = s.holds := rfl
@[simp] theorem State.setLink_free (k : Nat) (d : Link) : (s.setLink k d).free = s.free := rfl
@[simp] theorem State.setLink_stamp (k : Nat) (d : Link) : (s.setLink k d).stamp = s.stamp := rfl
@[simp] theorem State.setLink_clock (k : Nat) (d : Link) : (s.setLink k d).clock = s.clock := rfl
@[simp] theorem State.setLink_resets (k : Nat) (d : Link) : (s.setLink k d).resets = s.resets := rfl
@[simp] theorem State.setLink_inReset (k : Nat) (d : Link) : (s.setLink k d).inReset = s.inReset := rfl
@[simp] theorem State.setLink_mem (k : Nat) (d : Link) : (s.setLink k d).mem = s.mem := rfl
@[simp] theorem State.setLink_sound (k : Nat) (d : Link) : (s.setLink k d).sound = s.sound := rfl
@[simp] theorem State.setLink_errs (k : Nat) (d : Link) : (s.setLink k d).errs = s.errs := rfl
@[simp] theorem State.setLink_tags (k : Nat) (d : Link) : (s.setLink k d).tags = s.tags := rfl
@[simp] theorem State.setLink_domains (k : Nat) (d : Link) : (s.setLink k d).domains = s.domains := rfl
@[simp] theorem State.setLink_vds (k : Nat) (d : Link) : (s.setLink k d).vds = s.vds := rfl
@[simp] theorem State.setLink_cores (k : Nat) (d : Link) : (s.setLink k d).cores = s.cores := rfl
@[simp] theorem State.setLink_laneGrps (k : Nat) (d : Link) : (s.setLink k d).laneGrps = s.laneGrps := rfl
@[simp] theorem State.setLink_chans (k : Nat) (d : Link) : (s.setLink k d).chans = s.chans := rfl
@[simp] theorem State.setLink_welts (k : Nat) (d : Link) : (s.setLink k d).welts = s.welts := rfl
@[simp] theorem State.setLink_dies (k : Nat) (d : Link) : (s.setLink k d).dies = s.dies := rfl
@[simp] theorem State.setLink_lines (k : Nat) (d : Link) : (s.setLink k d).lines = s.lines := rfl
@[simp] theorem State.setLink_l2 (k : Nat) (d : Link) : (s.setLink k d).l2 = s.l2 := rfl
@[simp] theorem State.setLink_msc (k : Nat) (d : Link) : (s.setLink k d).msc = s.msc := rfl
@[simp] theorem State.setLink_under (k : Nat) (d : Link) : (s.setLink k d).under = s.under := rfl
@[simp] theorem State.setLink_fills (k : Nat) (d : Link) : (s.setLink k d).fills = s.fills := rfl
@[simp] theorem State.setLink_trips (k : Nat) (d : Link) : (s.setLink k d).trips = s.trips := rfl
@[simp] theorem State.setLink_sw (k : Nat) (d : Link) : (s.setLink k d).sw = s.sw := rfl
@[simp] theorem State.setLink_pkg (k : Nat) (d : Link) : (s.setLink k d).pkg = s.pkg := rfl
@[simp] theorem State.setLink_zones (k : Nat) (d : Link) : (s.setLink k d).zones = s.zones := rfl
@[simp] theorem State.setLink_coolant (k : Nat) (d : Link) : (s.setLink k d).coolant = s.coolant := rfl
@[simp] theorem State.setLink_queues (k : Nat) (d : Link) : (s.setLink k d).queues = s.queues := rfl
@[simp] theorem State.setLink_routes (k : Nat) (d : Link) : (s.setLink k d).routes = s.routes := rfl
@[simp] theorem State.setLink_launches (k : Nat) (d : Link) : (s.setLink k d).launches = s.launches := rfl
@[simp] theorem State.setLink_gangs (k : Nat) (d : Link) : (s.setLink k d).gangs = s.gangs := rfl
@[simp] theorem State.setLink_groups (k : Nat) (d : Link) : (s.setLink k d).groups = s.groups := rfl
@[simp] theorem State.setLink_fams (k : Nat) (d : Link) : (s.setLink k d).fams = s.fams := rfl
@[simp] theorem State.setLink_teams (k : Nat) (d : Link) : (s.setLink k d).teams = s.teams := rfl
@[simp] theorem State.setLink_reqs (k : Nat) (d : Link) : (s.setLink k d).reqs = s.reqs := rfl
@[simp] theorem State.setLink_answers (k : Nat) (d : Link) : (s.setLink k d).answers = s.answers := rfl
@[simp] theorem State.setLink_records (k : Nat) (d : Link) : (s.setLink k d).records = s.records := rfl
@[simp] theorem State.setLink_newest (k : Nat) (d : Link) : (s.setLink k d).newest = s.newest := rfl
@[simp] theorem State.setLink_discards (k : Nat) (d : Link) : (s.setLink k d).discards = s.discards := rfl
@[simp] theorem State.setLink_acks (k : Nat) (d : Link) : (s.setLink k d).acks = s.acks := rfl
@[simp] theorem State.setLink_races (k : Nat) (d : Link) : (s.setLink k d).races = s.races := rfl
@[simp] theorem State.setLink_laceRegs (k : Nat) (d : Link) : (s.setLink k d).laceRegs = s.laceRegs := rfl
@[simp] theorem State.setLink_periodAt (k : Nat) (d : Link) : (s.setLink k d).periodAt = s.periodAt := rfl
@[simp] theorem State.setLink_msix (k : Nat) (d : Link) : (s.setLink k d).msix = s.msix := rfl
@[simp] theorem State.setLink_log (k : Nat) (d : Link) : (s.setLink k d).log = s.log := rfl

@[simp] theorem State.setChan_inputs (k : Nat) (d : Channel) : (s.setChan k d).inputs = s.inputs := rfl
@[simp] theorem State.setChan_turn (k : Nat) (d : Channel) : (s.setChan k d).turn = s.turn := rfl
@[simp] theorem State.setChan_pace (k : Nat) (d : Channel) : (s.setChan k d).pace = s.pace := rfl
@[simp] theorem State.setChan_holds (k : Nat) (d : Channel) : (s.setChan k d).holds = s.holds := rfl
@[simp] theorem State.setChan_free (k : Nat) (d : Channel) : (s.setChan k d).free = s.free := rfl
@[simp] theorem State.setChan_stamp (k : Nat) (d : Channel) : (s.setChan k d).stamp = s.stamp := rfl
@[simp] theorem State.setChan_clock (k : Nat) (d : Channel) : (s.setChan k d).clock = s.clock := rfl
@[simp] theorem State.setChan_resets (k : Nat) (d : Channel) : (s.setChan k d).resets = s.resets := rfl
@[simp] theorem State.setChan_inReset (k : Nat) (d : Channel) : (s.setChan k d).inReset = s.inReset := rfl
@[simp] theorem State.setChan_mem (k : Nat) (d : Channel) : (s.setChan k d).mem = s.mem := rfl
@[simp] theorem State.setChan_sound (k : Nat) (d : Channel) : (s.setChan k d).sound = s.sound := rfl
@[simp] theorem State.setChan_errs (k : Nat) (d : Channel) : (s.setChan k d).errs = s.errs := rfl
@[simp] theorem State.setChan_tags (k : Nat) (d : Channel) : (s.setChan k d).tags = s.tags := rfl
@[simp] theorem State.setChan_domains (k : Nat) (d : Channel) : (s.setChan k d).domains = s.domains := rfl
@[simp] theorem State.setChan_vds (k : Nat) (d : Channel) : (s.setChan k d).vds = s.vds := rfl
@[simp] theorem State.setChan_cores (k : Nat) (d : Channel) : (s.setChan k d).cores = s.cores := rfl
@[simp] theorem State.setChan_links (k : Nat) (d : Channel) : (s.setChan k d).links = s.links := rfl
@[simp] theorem State.setChan_laneGrps (k : Nat) (d : Channel) : (s.setChan k d).laneGrps = s.laneGrps := rfl
@[simp] theorem State.setChan_welts (k : Nat) (d : Channel) : (s.setChan k d).welts = s.welts := rfl
@[simp] theorem State.setChan_dies (k : Nat) (d : Channel) : (s.setChan k d).dies = s.dies := rfl
@[simp] theorem State.setChan_lines (k : Nat) (d : Channel) : (s.setChan k d).lines = s.lines := rfl
@[simp] theorem State.setChan_l2 (k : Nat) (d : Channel) : (s.setChan k d).l2 = s.l2 := rfl
@[simp] theorem State.setChan_msc (k : Nat) (d : Channel) : (s.setChan k d).msc = s.msc := rfl
@[simp] theorem State.setChan_under (k : Nat) (d : Channel) : (s.setChan k d).under = s.under := rfl
@[simp] theorem State.setChan_fills (k : Nat) (d : Channel) : (s.setChan k d).fills = s.fills := rfl
@[simp] theorem State.setChan_trips (k : Nat) (d : Channel) : (s.setChan k d).trips = s.trips := rfl
@[simp] theorem State.setChan_sw (k : Nat) (d : Channel) : (s.setChan k d).sw = s.sw := rfl
@[simp] theorem State.setChan_pkg (k : Nat) (d : Channel) : (s.setChan k d).pkg = s.pkg := rfl
@[simp] theorem State.setChan_zones (k : Nat) (d : Channel) : (s.setChan k d).zones = s.zones := rfl
@[simp] theorem State.setChan_coolant (k : Nat) (d : Channel) : (s.setChan k d).coolant = s.coolant := rfl
@[simp] theorem State.setChan_queues (k : Nat) (d : Channel) : (s.setChan k d).queues = s.queues := rfl
@[simp] theorem State.setChan_routes (k : Nat) (d : Channel) : (s.setChan k d).routes = s.routes := rfl
@[simp] theorem State.setChan_launches (k : Nat) (d : Channel) : (s.setChan k d).launches = s.launches := rfl
@[simp] theorem State.setChan_gangs (k : Nat) (d : Channel) : (s.setChan k d).gangs = s.gangs := rfl
@[simp] theorem State.setChan_groups (k : Nat) (d : Channel) : (s.setChan k d).groups = s.groups := rfl
@[simp] theorem State.setChan_fams (k : Nat) (d : Channel) : (s.setChan k d).fams = s.fams := rfl
@[simp] theorem State.setChan_teams (k : Nat) (d : Channel) : (s.setChan k d).teams = s.teams := rfl
@[simp] theorem State.setChan_reqs (k : Nat) (d : Channel) : (s.setChan k d).reqs = s.reqs := rfl
@[simp] theorem State.setChan_answers (k : Nat) (d : Channel) : (s.setChan k d).answers = s.answers := rfl
@[simp] theorem State.setChan_records (k : Nat) (d : Channel) : (s.setChan k d).records = s.records := rfl
@[simp] theorem State.setChan_newest (k : Nat) (d : Channel) : (s.setChan k d).newest = s.newest := rfl
@[simp] theorem State.setChan_discards (k : Nat) (d : Channel) : (s.setChan k d).discards = s.discards := rfl
@[simp] theorem State.setChan_acks (k : Nat) (d : Channel) : (s.setChan k d).acks = s.acks := rfl
@[simp] theorem State.setChan_races (k : Nat) (d : Channel) : (s.setChan k d).races = s.races := rfl
@[simp] theorem State.setChan_laceRegs (k : Nat) (d : Channel) : (s.setChan k d).laceRegs = s.laceRegs := rfl
@[simp] theorem State.setChan_periodAt (k : Nat) (d : Channel) : (s.setChan k d).periodAt = s.periodAt := rfl
@[simp] theorem State.setChan_msix (k : Nat) (d : Channel) : (s.setChan k d).msix = s.msix := rfl
@[simp] theorem State.setChan_log (k : Nat) (d : Channel) : (s.setChan k d).log = s.log := rfl

@[simp] theorem State.setWelt_inputs (k : Nat) (d : Welt) : (s.setWelt k d).inputs = s.inputs := rfl
@[simp] theorem State.setWelt_turn (k : Nat) (d : Welt) : (s.setWelt k d).turn = s.turn := rfl
@[simp] theorem State.setWelt_pace (k : Nat) (d : Welt) : (s.setWelt k d).pace = s.pace := rfl
@[simp] theorem State.setWelt_holds (k : Nat) (d : Welt) : (s.setWelt k d).holds = s.holds := rfl
@[simp] theorem State.setWelt_free (k : Nat) (d : Welt) : (s.setWelt k d).free = s.free := rfl
@[simp] theorem State.setWelt_stamp (k : Nat) (d : Welt) : (s.setWelt k d).stamp = s.stamp := rfl
@[simp] theorem State.setWelt_clock (k : Nat) (d : Welt) : (s.setWelt k d).clock = s.clock := rfl
@[simp] theorem State.setWelt_resets (k : Nat) (d : Welt) : (s.setWelt k d).resets = s.resets := rfl
@[simp] theorem State.setWelt_inReset (k : Nat) (d : Welt) : (s.setWelt k d).inReset = s.inReset := rfl
@[simp] theorem State.setWelt_mem (k : Nat) (d : Welt) : (s.setWelt k d).mem = s.mem := rfl
@[simp] theorem State.setWelt_sound (k : Nat) (d : Welt) : (s.setWelt k d).sound = s.sound := rfl
@[simp] theorem State.setWelt_errs (k : Nat) (d : Welt) : (s.setWelt k d).errs = s.errs := rfl
@[simp] theorem State.setWelt_tags (k : Nat) (d : Welt) : (s.setWelt k d).tags = s.tags := rfl
@[simp] theorem State.setWelt_domains (k : Nat) (d : Welt) : (s.setWelt k d).domains = s.domains := rfl
@[simp] theorem State.setWelt_vds (k : Nat) (d : Welt) : (s.setWelt k d).vds = s.vds := rfl
@[simp] theorem State.setWelt_cores (k : Nat) (d : Welt) : (s.setWelt k d).cores = s.cores := rfl
@[simp] theorem State.setWelt_links (k : Nat) (d : Welt) : (s.setWelt k d).links = s.links := rfl
@[simp] theorem State.setWelt_laneGrps (k : Nat) (d : Welt) : (s.setWelt k d).laneGrps = s.laneGrps := rfl
@[simp] theorem State.setWelt_chans (k : Nat) (d : Welt) : (s.setWelt k d).chans = s.chans := rfl
@[simp] theorem State.setWelt_dies (k : Nat) (d : Welt) : (s.setWelt k d).dies = s.dies := rfl
@[simp] theorem State.setWelt_lines (k : Nat) (d : Welt) : (s.setWelt k d).lines = s.lines := rfl
@[simp] theorem State.setWelt_l2 (k : Nat) (d : Welt) : (s.setWelt k d).l2 = s.l2 := rfl
@[simp] theorem State.setWelt_msc (k : Nat) (d : Welt) : (s.setWelt k d).msc = s.msc := rfl
@[simp] theorem State.setWelt_under (k : Nat) (d : Welt) : (s.setWelt k d).under = s.under := rfl
@[simp] theorem State.setWelt_fills (k : Nat) (d : Welt) : (s.setWelt k d).fills = s.fills := rfl
@[simp] theorem State.setWelt_trips (k : Nat) (d : Welt) : (s.setWelt k d).trips = s.trips := rfl
@[simp] theorem State.setWelt_sw (k : Nat) (d : Welt) : (s.setWelt k d).sw = s.sw := rfl
@[simp] theorem State.setWelt_pkg (k : Nat) (d : Welt) : (s.setWelt k d).pkg = s.pkg := rfl
@[simp] theorem State.setWelt_zones (k : Nat) (d : Welt) : (s.setWelt k d).zones = s.zones := rfl
@[simp] theorem State.setWelt_coolant (k : Nat) (d : Welt) : (s.setWelt k d).coolant = s.coolant := rfl
@[simp] theorem State.setWelt_queues (k : Nat) (d : Welt) : (s.setWelt k d).queues = s.queues := rfl
@[simp] theorem State.setWelt_routes (k : Nat) (d : Welt) : (s.setWelt k d).routes = s.routes := rfl
@[simp] theorem State.setWelt_launches (k : Nat) (d : Welt) : (s.setWelt k d).launches = s.launches := rfl
@[simp] theorem State.setWelt_gangs (k : Nat) (d : Welt) : (s.setWelt k d).gangs = s.gangs := rfl
@[simp] theorem State.setWelt_groups (k : Nat) (d : Welt) : (s.setWelt k d).groups = s.groups := rfl
@[simp] theorem State.setWelt_fams (k : Nat) (d : Welt) : (s.setWelt k d).fams = s.fams := rfl
@[simp] theorem State.setWelt_teams (k : Nat) (d : Welt) : (s.setWelt k d).teams = s.teams := rfl
@[simp] theorem State.setWelt_reqs (k : Nat) (d : Welt) : (s.setWelt k d).reqs = s.reqs := rfl
@[simp] theorem State.setWelt_answers (k : Nat) (d : Welt) : (s.setWelt k d).answers = s.answers := rfl
@[simp] theorem State.setWelt_records (k : Nat) (d : Welt) : (s.setWelt k d).records = s.records := rfl
@[simp] theorem State.setWelt_newest (k : Nat) (d : Welt) : (s.setWelt k d).newest = s.newest := rfl
@[simp] theorem State.setWelt_discards (k : Nat) (d : Welt) : (s.setWelt k d).discards = s.discards := rfl
@[simp] theorem State.setWelt_acks (k : Nat) (d : Welt) : (s.setWelt k d).acks = s.acks := rfl
@[simp] theorem State.setWelt_races (k : Nat) (d : Welt) : (s.setWelt k d).races = s.races := rfl
@[simp] theorem State.setWelt_laceRegs (k : Nat) (d : Welt) : (s.setWelt k d).laceRegs = s.laceRegs := rfl
@[simp] theorem State.setWelt_periodAt (k : Nat) (d : Welt) : (s.setWelt k d).periodAt = s.periodAt := rfl
@[simp] theorem State.setWelt_msix (k : Nat) (d : Welt) : (s.setWelt k d).msix = s.msix := rfl
@[simp] theorem State.setWelt_log (k : Nat) (d : Welt) : (s.setWelt k d).log = s.log := rfl

@[simp] theorem State.setDie_inputs (k : Nat) (d : Die) : (s.setDie k d).inputs = s.inputs := rfl
@[simp] theorem State.setDie_turn (k : Nat) (d : Die) : (s.setDie k d).turn = s.turn := rfl
@[simp] theorem State.setDie_pace (k : Nat) (d : Die) : (s.setDie k d).pace = s.pace := rfl
@[simp] theorem State.setDie_holds (k : Nat) (d : Die) : (s.setDie k d).holds = s.holds := rfl
@[simp] theorem State.setDie_free (k : Nat) (d : Die) : (s.setDie k d).free = s.free := rfl
@[simp] theorem State.setDie_stamp (k : Nat) (d : Die) : (s.setDie k d).stamp = s.stamp := rfl
@[simp] theorem State.setDie_clock (k : Nat) (d : Die) : (s.setDie k d).clock = s.clock := rfl
@[simp] theorem State.setDie_resets (k : Nat) (d : Die) : (s.setDie k d).resets = s.resets := rfl
@[simp] theorem State.setDie_inReset (k : Nat) (d : Die) : (s.setDie k d).inReset = s.inReset := rfl
@[simp] theorem State.setDie_mem (k : Nat) (d : Die) : (s.setDie k d).mem = s.mem := rfl
@[simp] theorem State.setDie_sound (k : Nat) (d : Die) : (s.setDie k d).sound = s.sound := rfl
@[simp] theorem State.setDie_errs (k : Nat) (d : Die) : (s.setDie k d).errs = s.errs := rfl
@[simp] theorem State.setDie_tags (k : Nat) (d : Die) : (s.setDie k d).tags = s.tags := rfl
@[simp] theorem State.setDie_domains (k : Nat) (d : Die) : (s.setDie k d).domains = s.domains := rfl
@[simp] theorem State.setDie_vds (k : Nat) (d : Die) : (s.setDie k d).vds = s.vds := rfl
@[simp] theorem State.setDie_cores (k : Nat) (d : Die) : (s.setDie k d).cores = s.cores := rfl
@[simp] theorem State.setDie_links (k : Nat) (d : Die) : (s.setDie k d).links = s.links := rfl
@[simp] theorem State.setDie_laneGrps (k : Nat) (d : Die) : (s.setDie k d).laneGrps = s.laneGrps := rfl
@[simp] theorem State.setDie_chans (k : Nat) (d : Die) : (s.setDie k d).chans = s.chans := rfl
@[simp] theorem State.setDie_welts (k : Nat) (d : Die) : (s.setDie k d).welts = s.welts := rfl
@[simp] theorem State.setDie_lines (k : Nat) (d : Die) : (s.setDie k d).lines = s.lines := rfl
@[simp] theorem State.setDie_l2 (k : Nat) (d : Die) : (s.setDie k d).l2 = s.l2 := rfl
@[simp] theorem State.setDie_msc (k : Nat) (d : Die) : (s.setDie k d).msc = s.msc := rfl
@[simp] theorem State.setDie_under (k : Nat) (d : Die) : (s.setDie k d).under = s.under := rfl
@[simp] theorem State.setDie_fills (k : Nat) (d : Die) : (s.setDie k d).fills = s.fills := rfl
@[simp] theorem State.setDie_trips (k : Nat) (d : Die) : (s.setDie k d).trips = s.trips := rfl
@[simp] theorem State.setDie_sw (k : Nat) (d : Die) : (s.setDie k d).sw = s.sw := rfl
@[simp] theorem State.setDie_pkg (k : Nat) (d : Die) : (s.setDie k d).pkg = s.pkg := rfl
@[simp] theorem State.setDie_zones (k : Nat) (d : Die) : (s.setDie k d).zones = s.zones := rfl
@[simp] theorem State.setDie_coolant (k : Nat) (d : Die) : (s.setDie k d).coolant = s.coolant := rfl
@[simp] theorem State.setDie_queues (k : Nat) (d : Die) : (s.setDie k d).queues = s.queues := rfl
@[simp] theorem State.setDie_routes (k : Nat) (d : Die) : (s.setDie k d).routes = s.routes := rfl
@[simp] theorem State.setDie_launches (k : Nat) (d : Die) : (s.setDie k d).launches = s.launches := rfl
@[simp] theorem State.setDie_gangs (k : Nat) (d : Die) : (s.setDie k d).gangs = s.gangs := rfl
@[simp] theorem State.setDie_groups (k : Nat) (d : Die) : (s.setDie k d).groups = s.groups := rfl
@[simp] theorem State.setDie_fams (k : Nat) (d : Die) : (s.setDie k d).fams = s.fams := rfl
@[simp] theorem State.setDie_teams (k : Nat) (d : Die) : (s.setDie k d).teams = s.teams := rfl
@[simp] theorem State.setDie_reqs (k : Nat) (d : Die) : (s.setDie k d).reqs = s.reqs := rfl
@[simp] theorem State.setDie_answers (k : Nat) (d : Die) : (s.setDie k d).answers = s.answers := rfl
@[simp] theorem State.setDie_records (k : Nat) (d : Die) : (s.setDie k d).records = s.records := rfl
@[simp] theorem State.setDie_newest (k : Nat) (d : Die) : (s.setDie k d).newest = s.newest := rfl
@[simp] theorem State.setDie_discards (k : Nat) (d : Die) : (s.setDie k d).discards = s.discards := rfl
@[simp] theorem State.setDie_acks (k : Nat) (d : Die) : (s.setDie k d).acks = s.acks := rfl
@[simp] theorem State.setDie_races (k : Nat) (d : Die) : (s.setDie k d).races = s.races := rfl
@[simp] theorem State.setDie_laceRegs (k : Nat) (d : Die) : (s.setDie k d).laceRegs = s.laceRegs := rfl
@[simp] theorem State.setDie_periodAt (k : Nat) (d : Die) : (s.setDie k d).periodAt = s.periodAt := rfl
@[simp] theorem State.setDie_msix (k : Nat) (d : Die) : (s.setDie k d).msix = s.msix := rfl
@[simp] theorem State.setDie_log (k : Nat) (d : Die) : (s.setDie k d).log = s.log := rfl

@[simp] theorem State.setZone_inputs (k : Nat) (d : Zone) : (s.setZone k d).inputs = s.inputs := rfl
@[simp] theorem State.setZone_turn (k : Nat) (d : Zone) : (s.setZone k d).turn = s.turn := rfl
@[simp] theorem State.setZone_pace (k : Nat) (d : Zone) : (s.setZone k d).pace = s.pace := rfl
@[simp] theorem State.setZone_holds (k : Nat) (d : Zone) : (s.setZone k d).holds = s.holds := rfl
@[simp] theorem State.setZone_free (k : Nat) (d : Zone) : (s.setZone k d).free = s.free := rfl
@[simp] theorem State.setZone_stamp (k : Nat) (d : Zone) : (s.setZone k d).stamp = s.stamp := rfl
@[simp] theorem State.setZone_clock (k : Nat) (d : Zone) : (s.setZone k d).clock = s.clock := rfl
@[simp] theorem State.setZone_resets (k : Nat) (d : Zone) : (s.setZone k d).resets = s.resets := rfl
@[simp] theorem State.setZone_inReset (k : Nat) (d : Zone) : (s.setZone k d).inReset = s.inReset := rfl
@[simp] theorem State.setZone_mem (k : Nat) (d : Zone) : (s.setZone k d).mem = s.mem := rfl
@[simp] theorem State.setZone_sound (k : Nat) (d : Zone) : (s.setZone k d).sound = s.sound := rfl
@[simp] theorem State.setZone_errs (k : Nat) (d : Zone) : (s.setZone k d).errs = s.errs := rfl
@[simp] theorem State.setZone_tags (k : Nat) (d : Zone) : (s.setZone k d).tags = s.tags := rfl
@[simp] theorem State.setZone_domains (k : Nat) (d : Zone) : (s.setZone k d).domains = s.domains := rfl
@[simp] theorem State.setZone_vds (k : Nat) (d : Zone) : (s.setZone k d).vds = s.vds := rfl
@[simp] theorem State.setZone_cores (k : Nat) (d : Zone) : (s.setZone k d).cores = s.cores := rfl
@[simp] theorem State.setZone_links (k : Nat) (d : Zone) : (s.setZone k d).links = s.links := rfl
@[simp] theorem State.setZone_laneGrps (k : Nat) (d : Zone) : (s.setZone k d).laneGrps = s.laneGrps := rfl
@[simp] theorem State.setZone_chans (k : Nat) (d : Zone) : (s.setZone k d).chans = s.chans := rfl
@[simp] theorem State.setZone_welts (k : Nat) (d : Zone) : (s.setZone k d).welts = s.welts := rfl
@[simp] theorem State.setZone_dies (k : Nat) (d : Zone) : (s.setZone k d).dies = s.dies := rfl
@[simp] theorem State.setZone_lines (k : Nat) (d : Zone) : (s.setZone k d).lines = s.lines := rfl
@[simp] theorem State.setZone_l2 (k : Nat) (d : Zone) : (s.setZone k d).l2 = s.l2 := rfl
@[simp] theorem State.setZone_msc (k : Nat) (d : Zone) : (s.setZone k d).msc = s.msc := rfl
@[simp] theorem State.setZone_under (k : Nat) (d : Zone) : (s.setZone k d).under = s.under := rfl
@[simp] theorem State.setZone_fills (k : Nat) (d : Zone) : (s.setZone k d).fills = s.fills := rfl
@[simp] theorem State.setZone_trips (k : Nat) (d : Zone) : (s.setZone k d).trips = s.trips := rfl
@[simp] theorem State.setZone_sw (k : Nat) (d : Zone) : (s.setZone k d).sw = s.sw := rfl
@[simp] theorem State.setZone_pkg (k : Nat) (d : Zone) : (s.setZone k d).pkg = s.pkg := rfl
@[simp] theorem State.setZone_coolant (k : Nat) (d : Zone) : (s.setZone k d).coolant = s.coolant := rfl
@[simp] theorem State.setZone_queues (k : Nat) (d : Zone) : (s.setZone k d).queues = s.queues := rfl
@[simp] theorem State.setZone_routes (k : Nat) (d : Zone) : (s.setZone k d).routes = s.routes := rfl
@[simp] theorem State.setZone_launches (k : Nat) (d : Zone) : (s.setZone k d).launches = s.launches := rfl
@[simp] theorem State.setZone_gangs (k : Nat) (d : Zone) : (s.setZone k d).gangs = s.gangs := rfl
@[simp] theorem State.setZone_groups (k : Nat) (d : Zone) : (s.setZone k d).groups = s.groups := rfl
@[simp] theorem State.setZone_fams (k : Nat) (d : Zone) : (s.setZone k d).fams = s.fams := rfl
@[simp] theorem State.setZone_teams (k : Nat) (d : Zone) : (s.setZone k d).teams = s.teams := rfl
@[simp] theorem State.setZone_reqs (k : Nat) (d : Zone) : (s.setZone k d).reqs = s.reqs := rfl
@[simp] theorem State.setZone_answers (k : Nat) (d : Zone) : (s.setZone k d).answers = s.answers := rfl
@[simp] theorem State.setZone_records (k : Nat) (d : Zone) : (s.setZone k d).records = s.records := rfl
@[simp] theorem State.setZone_newest (k : Nat) (d : Zone) : (s.setZone k d).newest = s.newest := rfl
@[simp] theorem State.setZone_discards (k : Nat) (d : Zone) : (s.setZone k d).discards = s.discards := rfl
@[simp] theorem State.setZone_acks (k : Nat) (d : Zone) : (s.setZone k d).acks = s.acks := rfl
@[simp] theorem State.setZone_races (k : Nat) (d : Zone) : (s.setZone k d).races = s.races := rfl
@[simp] theorem State.setZone_laceRegs (k : Nat) (d : Zone) : (s.setZone k d).laceRegs = s.laceRegs := rfl
@[simp] theorem State.setZone_periodAt (k : Nat) (d : Zone) : (s.setZone k d).periodAt = s.periodAt := rfl
@[simp] theorem State.setZone_msix (k : Nat) (d : Zone) : (s.setZone k d).msix = s.msix := rfl
@[simp] theorem State.setZone_log (k : Nat) (d : Zone) : (s.setZone k d).log = s.log := rfl

@[simp] theorem State.setQueue_inputs (k : Nat) (d : Queue) : (s.setQueue k d).inputs = s.inputs := rfl
@[simp] theorem State.setQueue_turn (k : Nat) (d : Queue) : (s.setQueue k d).turn = s.turn := rfl
@[simp] theorem State.setQueue_pace (k : Nat) (d : Queue) : (s.setQueue k d).pace = s.pace := rfl
@[simp] theorem State.setQueue_holds (k : Nat) (d : Queue) : (s.setQueue k d).holds = s.holds := rfl
@[simp] theorem State.setQueue_free (k : Nat) (d : Queue) : (s.setQueue k d).free = s.free := rfl
@[simp] theorem State.setQueue_stamp (k : Nat) (d : Queue) : (s.setQueue k d).stamp = s.stamp := rfl
@[simp] theorem State.setQueue_clock (k : Nat) (d : Queue) : (s.setQueue k d).clock = s.clock := rfl
@[simp] theorem State.setQueue_resets (k : Nat) (d : Queue) : (s.setQueue k d).resets = s.resets := rfl
@[simp] theorem State.setQueue_inReset (k : Nat) (d : Queue) : (s.setQueue k d).inReset = s.inReset := rfl
@[simp] theorem State.setQueue_mem (k : Nat) (d : Queue) : (s.setQueue k d).mem = s.mem := rfl
@[simp] theorem State.setQueue_sound (k : Nat) (d : Queue) : (s.setQueue k d).sound = s.sound := rfl
@[simp] theorem State.setQueue_errs (k : Nat) (d : Queue) : (s.setQueue k d).errs = s.errs := rfl
@[simp] theorem State.setQueue_tags (k : Nat) (d : Queue) : (s.setQueue k d).tags = s.tags := rfl
@[simp] theorem State.setQueue_domains (k : Nat) (d : Queue) : (s.setQueue k d).domains = s.domains := rfl
@[simp] theorem State.setQueue_vds (k : Nat) (d : Queue) : (s.setQueue k d).vds = s.vds := rfl
@[simp] theorem State.setQueue_cores (k : Nat) (d : Queue) : (s.setQueue k d).cores = s.cores := rfl
@[simp] theorem State.setQueue_links (k : Nat) (d : Queue) : (s.setQueue k d).links = s.links := rfl
@[simp] theorem State.setQueue_laneGrps (k : Nat) (d : Queue) : (s.setQueue k d).laneGrps = s.laneGrps := rfl
@[simp] theorem State.setQueue_chans (k : Nat) (d : Queue) : (s.setQueue k d).chans = s.chans := rfl
@[simp] theorem State.setQueue_welts (k : Nat) (d : Queue) : (s.setQueue k d).welts = s.welts := rfl
@[simp] theorem State.setQueue_dies (k : Nat) (d : Queue) : (s.setQueue k d).dies = s.dies := rfl
@[simp] theorem State.setQueue_lines (k : Nat) (d : Queue) : (s.setQueue k d).lines = s.lines := rfl
@[simp] theorem State.setQueue_l2 (k : Nat) (d : Queue) : (s.setQueue k d).l2 = s.l2 := rfl
@[simp] theorem State.setQueue_msc (k : Nat) (d : Queue) : (s.setQueue k d).msc = s.msc := rfl
@[simp] theorem State.setQueue_under (k : Nat) (d : Queue) : (s.setQueue k d).under = s.under := rfl
@[simp] theorem State.setQueue_fills (k : Nat) (d : Queue) : (s.setQueue k d).fills = s.fills := rfl
@[simp] theorem State.setQueue_trips (k : Nat) (d : Queue) : (s.setQueue k d).trips = s.trips := rfl
@[simp] theorem State.setQueue_sw (k : Nat) (d : Queue) : (s.setQueue k d).sw = s.sw := rfl
@[simp] theorem State.setQueue_pkg (k : Nat) (d : Queue) : (s.setQueue k d).pkg = s.pkg := rfl
@[simp] theorem State.setQueue_zones (k : Nat) (d : Queue) : (s.setQueue k d).zones = s.zones := rfl
@[simp] theorem State.setQueue_coolant (k : Nat) (d : Queue) : (s.setQueue k d).coolant = s.coolant := rfl
@[simp] theorem State.setQueue_routes (k : Nat) (d : Queue) : (s.setQueue k d).routes = s.routes := rfl
@[simp] theorem State.setQueue_launches (k : Nat) (d : Queue) : (s.setQueue k d).launches = s.launches := rfl
@[simp] theorem State.setQueue_gangs (k : Nat) (d : Queue) : (s.setQueue k d).gangs = s.gangs := rfl
@[simp] theorem State.setQueue_groups (k : Nat) (d : Queue) : (s.setQueue k d).groups = s.groups := rfl
@[simp] theorem State.setQueue_fams (k : Nat) (d : Queue) : (s.setQueue k d).fams = s.fams := rfl
@[simp] theorem State.setQueue_teams (k : Nat) (d : Queue) : (s.setQueue k d).teams = s.teams := rfl
@[simp] theorem State.setQueue_reqs (k : Nat) (d : Queue) : (s.setQueue k d).reqs = s.reqs := rfl
@[simp] theorem State.setQueue_answers (k : Nat) (d : Queue) : (s.setQueue k d).answers = s.answers := rfl
@[simp] theorem State.setQueue_records (k : Nat) (d : Queue) : (s.setQueue k d).records = s.records := rfl
@[simp] theorem State.setQueue_newest (k : Nat) (d : Queue) : (s.setQueue k d).newest = s.newest := rfl
@[simp] theorem State.setQueue_discards (k : Nat) (d : Queue) : (s.setQueue k d).discards = s.discards := rfl
@[simp] theorem State.setQueue_acks (k : Nat) (d : Queue) : (s.setQueue k d).acks = s.acks := rfl
@[simp] theorem State.setQueue_races (k : Nat) (d : Queue) : (s.setQueue k d).races = s.races := rfl
@[simp] theorem State.setQueue_laceRegs (k : Nat) (d : Queue) : (s.setQueue k d).laceRegs = s.laceRegs := rfl
@[simp] theorem State.setQueue_periodAt (k : Nat) (d : Queue) : (s.setQueue k d).periodAt = s.periodAt := rfl
@[simp] theorem State.setQueue_msix (k : Nat) (d : Queue) : (s.setQueue k d).msix = s.msix := rfl
@[simp] theorem State.setQueue_log (k : Nat) (d : Queue) : (s.setQueue k d).log = s.log := rfl

@[simp] theorem State.setLaunch_inputs (k : Nat) (d : Launch) : (s.setLaunch k d).inputs = s.inputs := rfl
@[simp] theorem State.setLaunch_turn (k : Nat) (d : Launch) : (s.setLaunch k d).turn = s.turn := rfl
@[simp] theorem State.setLaunch_pace (k : Nat) (d : Launch) : (s.setLaunch k d).pace = s.pace := rfl
@[simp] theorem State.setLaunch_holds (k : Nat) (d : Launch) : (s.setLaunch k d).holds = s.holds := rfl
@[simp] theorem State.setLaunch_free (k : Nat) (d : Launch) : (s.setLaunch k d).free = s.free := rfl
@[simp] theorem State.setLaunch_stamp (k : Nat) (d : Launch) : (s.setLaunch k d).stamp = s.stamp := rfl
@[simp] theorem State.setLaunch_clock (k : Nat) (d : Launch) : (s.setLaunch k d).clock = s.clock := rfl
@[simp] theorem State.setLaunch_resets (k : Nat) (d : Launch) : (s.setLaunch k d).resets = s.resets := rfl
@[simp] theorem State.setLaunch_inReset (k : Nat) (d : Launch) : (s.setLaunch k d).inReset = s.inReset := rfl
@[simp] theorem State.setLaunch_mem (k : Nat) (d : Launch) : (s.setLaunch k d).mem = s.mem := rfl
@[simp] theorem State.setLaunch_sound (k : Nat) (d : Launch) : (s.setLaunch k d).sound = s.sound := rfl
@[simp] theorem State.setLaunch_errs (k : Nat) (d : Launch) : (s.setLaunch k d).errs = s.errs := rfl
@[simp] theorem State.setLaunch_tags (k : Nat) (d : Launch) : (s.setLaunch k d).tags = s.tags := rfl
@[simp] theorem State.setLaunch_domains (k : Nat) (d : Launch) : (s.setLaunch k d).domains = s.domains := rfl
@[simp] theorem State.setLaunch_vds (k : Nat) (d : Launch) : (s.setLaunch k d).vds = s.vds := rfl
@[simp] theorem State.setLaunch_cores (k : Nat) (d : Launch) : (s.setLaunch k d).cores = s.cores := rfl
@[simp] theorem State.setLaunch_links (k : Nat) (d : Launch) : (s.setLaunch k d).links = s.links := rfl
@[simp] theorem State.setLaunch_laneGrps (k : Nat) (d : Launch) : (s.setLaunch k d).laneGrps = s.laneGrps := rfl
@[simp] theorem State.setLaunch_chans (k : Nat) (d : Launch) : (s.setLaunch k d).chans = s.chans := rfl
@[simp] theorem State.setLaunch_welts (k : Nat) (d : Launch) : (s.setLaunch k d).welts = s.welts := rfl
@[simp] theorem State.setLaunch_dies (k : Nat) (d : Launch) : (s.setLaunch k d).dies = s.dies := rfl
@[simp] theorem State.setLaunch_lines (k : Nat) (d : Launch) : (s.setLaunch k d).lines = s.lines := rfl
@[simp] theorem State.setLaunch_l2 (k : Nat) (d : Launch) : (s.setLaunch k d).l2 = s.l2 := rfl
@[simp] theorem State.setLaunch_msc (k : Nat) (d : Launch) : (s.setLaunch k d).msc = s.msc := rfl
@[simp] theorem State.setLaunch_under (k : Nat) (d : Launch) : (s.setLaunch k d).under = s.under := rfl
@[simp] theorem State.setLaunch_fills (k : Nat) (d : Launch) : (s.setLaunch k d).fills = s.fills := rfl
@[simp] theorem State.setLaunch_trips (k : Nat) (d : Launch) : (s.setLaunch k d).trips = s.trips := rfl
@[simp] theorem State.setLaunch_sw (k : Nat) (d : Launch) : (s.setLaunch k d).sw = s.sw := rfl
@[simp] theorem State.setLaunch_pkg (k : Nat) (d : Launch) : (s.setLaunch k d).pkg = s.pkg := rfl
@[simp] theorem State.setLaunch_zones (k : Nat) (d : Launch) : (s.setLaunch k d).zones = s.zones := rfl
@[simp] theorem State.setLaunch_coolant (k : Nat) (d : Launch) : (s.setLaunch k d).coolant = s.coolant := rfl
@[simp] theorem State.setLaunch_queues (k : Nat) (d : Launch) : (s.setLaunch k d).queues = s.queues := rfl
@[simp] theorem State.setLaunch_routes (k : Nat) (d : Launch) : (s.setLaunch k d).routes = s.routes := rfl
@[simp] theorem State.setLaunch_gangs (k : Nat) (d : Launch) : (s.setLaunch k d).gangs = s.gangs := rfl
@[simp] theorem State.setLaunch_groups (k : Nat) (d : Launch) : (s.setLaunch k d).groups = s.groups := rfl
@[simp] theorem State.setLaunch_fams (k : Nat) (d : Launch) : (s.setLaunch k d).fams = s.fams := rfl
@[simp] theorem State.setLaunch_teams (k : Nat) (d : Launch) : (s.setLaunch k d).teams = s.teams := rfl
@[simp] theorem State.setLaunch_reqs (k : Nat) (d : Launch) : (s.setLaunch k d).reqs = s.reqs := rfl
@[simp] theorem State.setLaunch_answers (k : Nat) (d : Launch) : (s.setLaunch k d).answers = s.answers := rfl
@[simp] theorem State.setLaunch_records (k : Nat) (d : Launch) : (s.setLaunch k d).records = s.records := rfl
@[simp] theorem State.setLaunch_newest (k : Nat) (d : Launch) : (s.setLaunch k d).newest = s.newest := rfl
@[simp] theorem State.setLaunch_discards (k : Nat) (d : Launch) : (s.setLaunch k d).discards = s.discards := rfl
@[simp] theorem State.setLaunch_acks (k : Nat) (d : Launch) : (s.setLaunch k d).acks = s.acks := rfl
@[simp] theorem State.setLaunch_races (k : Nat) (d : Launch) : (s.setLaunch k d).races = s.races := rfl
@[simp] theorem State.setLaunch_laceRegs (k : Nat) (d : Launch) : (s.setLaunch k d).laceRegs = s.laceRegs := rfl
@[simp] theorem State.setLaunch_periodAt (k : Nat) (d : Launch) : (s.setLaunch k d).periodAt = s.periodAt := rfl
@[simp] theorem State.setLaunch_msix (k : Nat) (d : Launch) : (s.setLaunch k d).msix = s.msix := rfl
@[simp] theorem State.setLaunch_log (k : Nat) (d : Launch) : (s.setLaunch k d).log = s.log := rfl

@[simp] theorem State.setGang_inputs (k : Nat) (d : Gang) : (s.setGang k d).inputs = s.inputs := rfl
@[simp] theorem State.setGang_turn (k : Nat) (d : Gang) : (s.setGang k d).turn = s.turn := rfl
@[simp] theorem State.setGang_pace (k : Nat) (d : Gang) : (s.setGang k d).pace = s.pace := rfl
@[simp] theorem State.setGang_holds (k : Nat) (d : Gang) : (s.setGang k d).holds = s.holds := rfl
@[simp] theorem State.setGang_free (k : Nat) (d : Gang) : (s.setGang k d).free = s.free := rfl
@[simp] theorem State.setGang_stamp (k : Nat) (d : Gang) : (s.setGang k d).stamp = s.stamp := rfl
@[simp] theorem State.setGang_clock (k : Nat) (d : Gang) : (s.setGang k d).clock = s.clock := rfl
@[simp] theorem State.setGang_resets (k : Nat) (d : Gang) : (s.setGang k d).resets = s.resets := rfl
@[simp] theorem State.setGang_inReset (k : Nat) (d : Gang) : (s.setGang k d).inReset = s.inReset := rfl
@[simp] theorem State.setGang_mem (k : Nat) (d : Gang) : (s.setGang k d).mem = s.mem := rfl
@[simp] theorem State.setGang_sound (k : Nat) (d : Gang) : (s.setGang k d).sound = s.sound := rfl
@[simp] theorem State.setGang_errs (k : Nat) (d : Gang) : (s.setGang k d).errs = s.errs := rfl
@[simp] theorem State.setGang_tags (k : Nat) (d : Gang) : (s.setGang k d).tags = s.tags := rfl
@[simp] theorem State.setGang_domains (k : Nat) (d : Gang) : (s.setGang k d).domains = s.domains := rfl
@[simp] theorem State.setGang_vds (k : Nat) (d : Gang) : (s.setGang k d).vds = s.vds := rfl
@[simp] theorem State.setGang_cores (k : Nat) (d : Gang) : (s.setGang k d).cores = s.cores := rfl
@[simp] theorem State.setGang_links (k : Nat) (d : Gang) : (s.setGang k d).links = s.links := rfl
@[simp] theorem State.setGang_laneGrps (k : Nat) (d : Gang) : (s.setGang k d).laneGrps = s.laneGrps := rfl
@[simp] theorem State.setGang_chans (k : Nat) (d : Gang) : (s.setGang k d).chans = s.chans := rfl
@[simp] theorem State.setGang_welts (k : Nat) (d : Gang) : (s.setGang k d).welts = s.welts := rfl
@[simp] theorem State.setGang_dies (k : Nat) (d : Gang) : (s.setGang k d).dies = s.dies := rfl
@[simp] theorem State.setGang_lines (k : Nat) (d : Gang) : (s.setGang k d).lines = s.lines := rfl
@[simp] theorem State.setGang_l2 (k : Nat) (d : Gang) : (s.setGang k d).l2 = s.l2 := rfl
@[simp] theorem State.setGang_msc (k : Nat) (d : Gang) : (s.setGang k d).msc = s.msc := rfl
@[simp] theorem State.setGang_under (k : Nat) (d : Gang) : (s.setGang k d).under = s.under := rfl
@[simp] theorem State.setGang_fills (k : Nat) (d : Gang) : (s.setGang k d).fills = s.fills := rfl
@[simp] theorem State.setGang_trips (k : Nat) (d : Gang) : (s.setGang k d).trips = s.trips := rfl
@[simp] theorem State.setGang_sw (k : Nat) (d : Gang) : (s.setGang k d).sw = s.sw := rfl
@[simp] theorem State.setGang_pkg (k : Nat) (d : Gang) : (s.setGang k d).pkg = s.pkg := rfl
@[simp] theorem State.setGang_zones (k : Nat) (d : Gang) : (s.setGang k d).zones = s.zones := rfl
@[simp] theorem State.setGang_coolant (k : Nat) (d : Gang) : (s.setGang k d).coolant = s.coolant := rfl
@[simp] theorem State.setGang_queues (k : Nat) (d : Gang) : (s.setGang k d).queues = s.queues := rfl
@[simp] theorem State.setGang_routes (k : Nat) (d : Gang) : (s.setGang k d).routes = s.routes := rfl
@[simp] theorem State.setGang_launches (k : Nat) (d : Gang) : (s.setGang k d).launches = s.launches := rfl
@[simp] theorem State.setGang_groups (k : Nat) (d : Gang) : (s.setGang k d).groups = s.groups := rfl
@[simp] theorem State.setGang_fams (k : Nat) (d : Gang) : (s.setGang k d).fams = s.fams := rfl
@[simp] theorem State.setGang_teams (k : Nat) (d : Gang) : (s.setGang k d).teams = s.teams := rfl
@[simp] theorem State.setGang_reqs (k : Nat) (d : Gang) : (s.setGang k d).reqs = s.reqs := rfl
@[simp] theorem State.setGang_answers (k : Nat) (d : Gang) : (s.setGang k d).answers = s.answers := rfl
@[simp] theorem State.setGang_records (k : Nat) (d : Gang) : (s.setGang k d).records = s.records := rfl
@[simp] theorem State.setGang_newest (k : Nat) (d : Gang) : (s.setGang k d).newest = s.newest := rfl
@[simp] theorem State.setGang_discards (k : Nat) (d : Gang) : (s.setGang k d).discards = s.discards := rfl
@[simp] theorem State.setGang_acks (k : Nat) (d : Gang) : (s.setGang k d).acks = s.acks := rfl
@[simp] theorem State.setGang_races (k : Nat) (d : Gang) : (s.setGang k d).races = s.races := rfl
@[simp] theorem State.setGang_laceRegs (k : Nat) (d : Gang) : (s.setGang k d).laceRegs = s.laceRegs := rfl
@[simp] theorem State.setGang_periodAt (k : Nat) (d : Gang) : (s.setGang k d).periodAt = s.periodAt := rfl
@[simp] theorem State.setGang_msix (k : Nat) (d : Gang) : (s.setGang k d).msix = s.msix := rfl
@[simp] theorem State.setGang_log (k : Nat) (d : Gang) : (s.setGang k d).log = s.log := rfl

@[simp] theorem State.setGroup_inputs (k : Nat) (d : Group) : (s.setGroup k d).inputs = s.inputs := rfl
@[simp] theorem State.setGroup_turn (k : Nat) (d : Group) : (s.setGroup k d).turn = s.turn := rfl
@[simp] theorem State.setGroup_pace (k : Nat) (d : Group) : (s.setGroup k d).pace = s.pace := rfl
@[simp] theorem State.setGroup_holds (k : Nat) (d : Group) : (s.setGroup k d).holds = s.holds := rfl
@[simp] theorem State.setGroup_free (k : Nat) (d : Group) : (s.setGroup k d).free = s.free := rfl
@[simp] theorem State.setGroup_stamp (k : Nat) (d : Group) : (s.setGroup k d).stamp = s.stamp := rfl
@[simp] theorem State.setGroup_clock (k : Nat) (d : Group) : (s.setGroup k d).clock = s.clock := rfl
@[simp] theorem State.setGroup_resets (k : Nat) (d : Group) : (s.setGroup k d).resets = s.resets := rfl
@[simp] theorem State.setGroup_inReset (k : Nat) (d : Group) : (s.setGroup k d).inReset = s.inReset := rfl
@[simp] theorem State.setGroup_mem (k : Nat) (d : Group) : (s.setGroup k d).mem = s.mem := rfl
@[simp] theorem State.setGroup_sound (k : Nat) (d : Group) : (s.setGroup k d).sound = s.sound := rfl
@[simp] theorem State.setGroup_errs (k : Nat) (d : Group) : (s.setGroup k d).errs = s.errs := rfl
@[simp] theorem State.setGroup_tags (k : Nat) (d : Group) : (s.setGroup k d).tags = s.tags := rfl
@[simp] theorem State.setGroup_domains (k : Nat) (d : Group) : (s.setGroup k d).domains = s.domains := rfl
@[simp] theorem State.setGroup_vds (k : Nat) (d : Group) : (s.setGroup k d).vds = s.vds := rfl
@[simp] theorem State.setGroup_cores (k : Nat) (d : Group) : (s.setGroup k d).cores = s.cores := rfl
@[simp] theorem State.setGroup_links (k : Nat) (d : Group) : (s.setGroup k d).links = s.links := rfl
@[simp] theorem State.setGroup_laneGrps (k : Nat) (d : Group) : (s.setGroup k d).laneGrps = s.laneGrps := rfl
@[simp] theorem State.setGroup_chans (k : Nat) (d : Group) : (s.setGroup k d).chans = s.chans := rfl
@[simp] theorem State.setGroup_welts (k : Nat) (d : Group) : (s.setGroup k d).welts = s.welts := rfl
@[simp] theorem State.setGroup_dies (k : Nat) (d : Group) : (s.setGroup k d).dies = s.dies := rfl
@[simp] theorem State.setGroup_lines (k : Nat) (d : Group) : (s.setGroup k d).lines = s.lines := rfl
@[simp] theorem State.setGroup_l2 (k : Nat) (d : Group) : (s.setGroup k d).l2 = s.l2 := rfl
@[simp] theorem State.setGroup_msc (k : Nat) (d : Group) : (s.setGroup k d).msc = s.msc := rfl
@[simp] theorem State.setGroup_under (k : Nat) (d : Group) : (s.setGroup k d).under = s.under := rfl
@[simp] theorem State.setGroup_fills (k : Nat) (d : Group) : (s.setGroup k d).fills = s.fills := rfl
@[simp] theorem State.setGroup_trips (k : Nat) (d : Group) : (s.setGroup k d).trips = s.trips := rfl
@[simp] theorem State.setGroup_sw (k : Nat) (d : Group) : (s.setGroup k d).sw = s.sw := rfl
@[simp] theorem State.setGroup_pkg (k : Nat) (d : Group) : (s.setGroup k d).pkg = s.pkg := rfl
@[simp] theorem State.setGroup_zones (k : Nat) (d : Group) : (s.setGroup k d).zones = s.zones := rfl
@[simp] theorem State.setGroup_coolant (k : Nat) (d : Group) : (s.setGroup k d).coolant = s.coolant := rfl
@[simp] theorem State.setGroup_queues (k : Nat) (d : Group) : (s.setGroup k d).queues = s.queues := rfl
@[simp] theorem State.setGroup_routes (k : Nat) (d : Group) : (s.setGroup k d).routes = s.routes := rfl
@[simp] theorem State.setGroup_launches (k : Nat) (d : Group) : (s.setGroup k d).launches = s.launches := rfl
@[simp] theorem State.setGroup_gangs (k : Nat) (d : Group) : (s.setGroup k d).gangs = s.gangs := rfl
@[simp] theorem State.setGroup_fams (k : Nat) (d : Group) : (s.setGroup k d).fams = s.fams := rfl
@[simp] theorem State.setGroup_teams (k : Nat) (d : Group) : (s.setGroup k d).teams = s.teams := rfl
@[simp] theorem State.setGroup_reqs (k : Nat) (d : Group) : (s.setGroup k d).reqs = s.reqs := rfl
@[simp] theorem State.setGroup_answers (k : Nat) (d : Group) : (s.setGroup k d).answers = s.answers := rfl
@[simp] theorem State.setGroup_records (k : Nat) (d : Group) : (s.setGroup k d).records = s.records := rfl
@[simp] theorem State.setGroup_newest (k : Nat) (d : Group) : (s.setGroup k d).newest = s.newest := rfl
@[simp] theorem State.setGroup_discards (k : Nat) (d : Group) : (s.setGroup k d).discards = s.discards := rfl
@[simp] theorem State.setGroup_acks (k : Nat) (d : Group) : (s.setGroup k d).acks = s.acks := rfl
@[simp] theorem State.setGroup_races (k : Nat) (d : Group) : (s.setGroup k d).races = s.races := rfl
@[simp] theorem State.setGroup_laceRegs (k : Nat) (d : Group) : (s.setGroup k d).laceRegs = s.laceRegs := rfl
@[simp] theorem State.setGroup_periodAt (k : Nat) (d : Group) : (s.setGroup k d).periodAt = s.periodAt := rfl
@[simp] theorem State.setGroup_msix (k : Nat) (d : Group) : (s.setGroup k d).msix = s.msix := rfl
@[simp] theorem State.setGroup_log (k : Nat) (d : Group) : (s.setGroup k d).log = s.log := rfl

@[simp] theorem State.setFam_inputs (k : Nat) (d : Family) : (s.setFam k d).inputs = s.inputs := rfl
@[simp] theorem State.setFam_turn (k : Nat) (d : Family) : (s.setFam k d).turn = s.turn := rfl
@[simp] theorem State.setFam_pace (k : Nat) (d : Family) : (s.setFam k d).pace = s.pace := rfl
@[simp] theorem State.setFam_holds (k : Nat) (d : Family) : (s.setFam k d).holds = s.holds := rfl
@[simp] theorem State.setFam_free (k : Nat) (d : Family) : (s.setFam k d).free = s.free := rfl
@[simp] theorem State.setFam_stamp (k : Nat) (d : Family) : (s.setFam k d).stamp = s.stamp := rfl
@[simp] theorem State.setFam_clock (k : Nat) (d : Family) : (s.setFam k d).clock = s.clock := rfl
@[simp] theorem State.setFam_resets (k : Nat) (d : Family) : (s.setFam k d).resets = s.resets := rfl
@[simp] theorem State.setFam_inReset (k : Nat) (d : Family) : (s.setFam k d).inReset = s.inReset := rfl
@[simp] theorem State.setFam_mem (k : Nat) (d : Family) : (s.setFam k d).mem = s.mem := rfl
@[simp] theorem State.setFam_sound (k : Nat) (d : Family) : (s.setFam k d).sound = s.sound := rfl
@[simp] theorem State.setFam_errs (k : Nat) (d : Family) : (s.setFam k d).errs = s.errs := rfl
@[simp] theorem State.setFam_tags (k : Nat) (d : Family) : (s.setFam k d).tags = s.tags := rfl
@[simp] theorem State.setFam_domains (k : Nat) (d : Family) : (s.setFam k d).domains = s.domains := rfl
@[simp] theorem State.setFam_vds (k : Nat) (d : Family) : (s.setFam k d).vds = s.vds := rfl
@[simp] theorem State.setFam_cores (k : Nat) (d : Family) : (s.setFam k d).cores = s.cores := rfl
@[simp] theorem State.setFam_links (k : Nat) (d : Family) : (s.setFam k d).links = s.links := rfl
@[simp] theorem State.setFam_laneGrps (k : Nat) (d : Family) : (s.setFam k d).laneGrps = s.laneGrps := rfl
@[simp] theorem State.setFam_chans (k : Nat) (d : Family) : (s.setFam k d).chans = s.chans := rfl
@[simp] theorem State.setFam_welts (k : Nat) (d : Family) : (s.setFam k d).welts = s.welts := rfl
@[simp] theorem State.setFam_dies (k : Nat) (d : Family) : (s.setFam k d).dies = s.dies := rfl
@[simp] theorem State.setFam_lines (k : Nat) (d : Family) : (s.setFam k d).lines = s.lines := rfl
@[simp] theorem State.setFam_l2 (k : Nat) (d : Family) : (s.setFam k d).l2 = s.l2 := rfl
@[simp] theorem State.setFam_msc (k : Nat) (d : Family) : (s.setFam k d).msc = s.msc := rfl
@[simp] theorem State.setFam_under (k : Nat) (d : Family) : (s.setFam k d).under = s.under := rfl
@[simp] theorem State.setFam_fills (k : Nat) (d : Family) : (s.setFam k d).fills = s.fills := rfl
@[simp] theorem State.setFam_trips (k : Nat) (d : Family) : (s.setFam k d).trips = s.trips := rfl
@[simp] theorem State.setFam_sw (k : Nat) (d : Family) : (s.setFam k d).sw = s.sw := rfl
@[simp] theorem State.setFam_pkg (k : Nat) (d : Family) : (s.setFam k d).pkg = s.pkg := rfl
@[simp] theorem State.setFam_zones (k : Nat) (d : Family) : (s.setFam k d).zones = s.zones := rfl
@[simp] theorem State.setFam_coolant (k : Nat) (d : Family) : (s.setFam k d).coolant = s.coolant := rfl
@[simp] theorem State.setFam_queues (k : Nat) (d : Family) : (s.setFam k d).queues = s.queues := rfl
@[simp] theorem State.setFam_routes (k : Nat) (d : Family) : (s.setFam k d).routes = s.routes := rfl
@[simp] theorem State.setFam_launches (k : Nat) (d : Family) : (s.setFam k d).launches = s.launches := rfl
@[simp] theorem State.setFam_gangs (k : Nat) (d : Family) : (s.setFam k d).gangs = s.gangs := rfl
@[simp] theorem State.setFam_groups (k : Nat) (d : Family) : (s.setFam k d).groups = s.groups := rfl
@[simp] theorem State.setFam_teams (k : Nat) (d : Family) : (s.setFam k d).teams = s.teams := rfl
@[simp] theorem State.setFam_reqs (k : Nat) (d : Family) : (s.setFam k d).reqs = s.reqs := rfl
@[simp] theorem State.setFam_answers (k : Nat) (d : Family) : (s.setFam k d).answers = s.answers := rfl
@[simp] theorem State.setFam_records (k : Nat) (d : Family) : (s.setFam k d).records = s.records := rfl
@[simp] theorem State.setFam_newest (k : Nat) (d : Family) : (s.setFam k d).newest = s.newest := rfl
@[simp] theorem State.setFam_discards (k : Nat) (d : Family) : (s.setFam k d).discards = s.discards := rfl
@[simp] theorem State.setFam_acks (k : Nat) (d : Family) : (s.setFam k d).acks = s.acks := rfl
@[simp] theorem State.setFam_races (k : Nat) (d : Family) : (s.setFam k d).races = s.races := rfl
@[simp] theorem State.setFam_laceRegs (k : Nat) (d : Family) : (s.setFam k d).laceRegs = s.laceRegs := rfl
@[simp] theorem State.setFam_periodAt (k : Nat) (d : Family) : (s.setFam k d).periodAt = s.periodAt := rfl
@[simp] theorem State.setFam_msix (k : Nat) (d : Family) : (s.setFam k d).msix = s.msix := rfl
@[simp] theorem State.setFam_log (k : Nat) (d : Family) : (s.setFam k d).log = s.log := rfl

@[simp] theorem State.setTeam_inputs (t : Team) : (s.setTeam t).inputs = s.inputs := rfl
@[simp] theorem State.setTeam_turn (t : Team) : (s.setTeam t).turn = s.turn := rfl
@[simp] theorem State.setTeam_pace (t : Team) : (s.setTeam t).pace = s.pace := rfl
@[simp] theorem State.setTeam_holds (t : Team) : (s.setTeam t).holds = s.holds := rfl
@[simp] theorem State.setTeam_free (t : Team) : (s.setTeam t).free = s.free := rfl
@[simp] theorem State.setTeam_stamp (t : Team) : (s.setTeam t).stamp = s.stamp := rfl
@[simp] theorem State.setTeam_clock (t : Team) : (s.setTeam t).clock = s.clock := rfl
@[simp] theorem State.setTeam_resets (t : Team) : (s.setTeam t).resets = s.resets := rfl
@[simp] theorem State.setTeam_inReset (t : Team) : (s.setTeam t).inReset = s.inReset := rfl
@[simp] theorem State.setTeam_mem (t : Team) : (s.setTeam t).mem = s.mem := rfl
@[simp] theorem State.setTeam_sound (t : Team) : (s.setTeam t).sound = s.sound := rfl
@[simp] theorem State.setTeam_errs (t : Team) : (s.setTeam t).errs = s.errs := rfl
@[simp] theorem State.setTeam_tags (t : Team) : (s.setTeam t).tags = s.tags := rfl
@[simp] theorem State.setTeam_domains (t : Team) : (s.setTeam t).domains = s.domains := rfl
@[simp] theorem State.setTeam_vds (t : Team) : (s.setTeam t).vds = s.vds := rfl
@[simp] theorem State.setTeam_cores (t : Team) : (s.setTeam t).cores = s.cores := rfl
@[simp] theorem State.setTeam_links (t : Team) : (s.setTeam t).links = s.links := rfl
@[simp] theorem State.setTeam_laneGrps (t : Team) : (s.setTeam t).laneGrps = s.laneGrps := rfl
@[simp] theorem State.setTeam_chans (t : Team) : (s.setTeam t).chans = s.chans := rfl
@[simp] theorem State.setTeam_welts (t : Team) : (s.setTeam t).welts = s.welts := rfl
@[simp] theorem State.setTeam_dies (t : Team) : (s.setTeam t).dies = s.dies := rfl
@[simp] theorem State.setTeam_lines (t : Team) : (s.setTeam t).lines = s.lines := rfl
@[simp] theorem State.setTeam_l2 (t : Team) : (s.setTeam t).l2 = s.l2 := rfl
@[simp] theorem State.setTeam_msc (t : Team) : (s.setTeam t).msc = s.msc := rfl
@[simp] theorem State.setTeam_under (t : Team) : (s.setTeam t).under = s.under := rfl
@[simp] theorem State.setTeam_fills (t : Team) : (s.setTeam t).fills = s.fills := rfl
@[simp] theorem State.setTeam_trips (t : Team) : (s.setTeam t).trips = s.trips := rfl
@[simp] theorem State.setTeam_sw (t : Team) : (s.setTeam t).sw = s.sw := rfl
@[simp] theorem State.setTeam_pkg (t : Team) : (s.setTeam t).pkg = s.pkg := rfl
@[simp] theorem State.setTeam_zones (t : Team) : (s.setTeam t).zones = s.zones := rfl
@[simp] theorem State.setTeam_coolant (t : Team) : (s.setTeam t).coolant = s.coolant := rfl
@[simp] theorem State.setTeam_queues (t : Team) : (s.setTeam t).queues = s.queues := rfl
@[simp] theorem State.setTeam_routes (t : Team) : (s.setTeam t).routes = s.routes := rfl
@[simp] theorem State.setTeam_launches (t : Team) : (s.setTeam t).launches = s.launches := rfl
@[simp] theorem State.setTeam_gangs (t : Team) : (s.setTeam t).gangs = s.gangs := rfl
@[simp] theorem State.setTeam_groups (t : Team) : (s.setTeam t).groups = s.groups := rfl
@[simp] theorem State.setTeam_fams (t : Team) : (s.setTeam t).fams = s.fams := rfl
@[simp] theorem State.setTeam_reqs (t : Team) : (s.setTeam t).reqs = s.reqs := rfl
@[simp] theorem State.setTeam_answers (t : Team) : (s.setTeam t).answers = s.answers := rfl
@[simp] theorem State.setTeam_records (t : Team) : (s.setTeam t).records = s.records := rfl
@[simp] theorem State.setTeam_newest (t : Team) : (s.setTeam t).newest = s.newest := rfl
@[simp] theorem State.setTeam_discards (t : Team) : (s.setTeam t).discards = s.discards := rfl
@[simp] theorem State.setTeam_acks (t : Team) : (s.setTeam t).acks = s.acks := rfl
@[simp] theorem State.setTeam_races (t : Team) : (s.setTeam t).races = s.races := rfl
@[simp] theorem State.setTeam_laceRegs (t : Team) : (s.setTeam t).laceRegs = s.laceRegs := rfl
@[simp] theorem State.setTeam_periodAt (t : Team) : (s.setTeam t).periodAt = s.periodAt := rfl
@[simp] theorem State.setTeam_msix (t : Team) : (s.setTeam t).msix = s.msix := rfl
@[simp] theorem State.setTeam_log (t : Team) : (s.setTeam t).log = s.log := rfl

@[simp] theorem State.dropTeam_inputs (c : Nat) : (s.dropTeam c).inputs = s.inputs := rfl
@[simp] theorem State.dropTeam_turn (c : Nat) : (s.dropTeam c).turn = s.turn := rfl
@[simp] theorem State.dropTeam_pace (c : Nat) : (s.dropTeam c).pace = s.pace := rfl
@[simp] theorem State.dropTeam_holds (c : Nat) : (s.dropTeam c).holds = s.holds := rfl
@[simp] theorem State.dropTeam_free (c : Nat) : (s.dropTeam c).free = s.free := rfl
@[simp] theorem State.dropTeam_stamp (c : Nat) : (s.dropTeam c).stamp = s.stamp := rfl
@[simp] theorem State.dropTeam_clock (c : Nat) : (s.dropTeam c).clock = s.clock := rfl
@[simp] theorem State.dropTeam_resets (c : Nat) : (s.dropTeam c).resets = s.resets := rfl
@[simp] theorem State.dropTeam_inReset (c : Nat) : (s.dropTeam c).inReset = s.inReset := rfl
@[simp] theorem State.dropTeam_mem (c : Nat) : (s.dropTeam c).mem = s.mem := rfl
@[simp] theorem State.dropTeam_sound (c : Nat) : (s.dropTeam c).sound = s.sound := rfl
@[simp] theorem State.dropTeam_errs (c : Nat) : (s.dropTeam c).errs = s.errs := rfl
@[simp] theorem State.dropTeam_tags (c : Nat) : (s.dropTeam c).tags = s.tags := rfl
@[simp] theorem State.dropTeam_domains (c : Nat) : (s.dropTeam c).domains = s.domains := rfl
@[simp] theorem State.dropTeam_vds (c : Nat) : (s.dropTeam c).vds = s.vds := rfl
@[simp] theorem State.dropTeam_cores (c : Nat) : (s.dropTeam c).cores = s.cores := rfl
@[simp] theorem State.dropTeam_links (c : Nat) : (s.dropTeam c).links = s.links := rfl
@[simp] theorem State.dropTeam_laneGrps (c : Nat) : (s.dropTeam c).laneGrps = s.laneGrps := rfl
@[simp] theorem State.dropTeam_chans (c : Nat) : (s.dropTeam c).chans = s.chans := rfl
@[simp] theorem State.dropTeam_welts (c : Nat) : (s.dropTeam c).welts = s.welts := rfl
@[simp] theorem State.dropTeam_dies (c : Nat) : (s.dropTeam c).dies = s.dies := rfl
@[simp] theorem State.dropTeam_lines (c : Nat) : (s.dropTeam c).lines = s.lines := rfl
@[simp] theorem State.dropTeam_l2 (c : Nat) : (s.dropTeam c).l2 = s.l2 := rfl
@[simp] theorem State.dropTeam_msc (c : Nat) : (s.dropTeam c).msc = s.msc := rfl
@[simp] theorem State.dropTeam_under (c : Nat) : (s.dropTeam c).under = s.under := rfl
@[simp] theorem State.dropTeam_fills (c : Nat) : (s.dropTeam c).fills = s.fills := rfl
@[simp] theorem State.dropTeam_trips (c : Nat) : (s.dropTeam c).trips = s.trips := rfl
@[simp] theorem State.dropTeam_sw (c : Nat) : (s.dropTeam c).sw = s.sw := rfl
@[simp] theorem State.dropTeam_pkg (c : Nat) : (s.dropTeam c).pkg = s.pkg := rfl
@[simp] theorem State.dropTeam_zones (c : Nat) : (s.dropTeam c).zones = s.zones := rfl
@[simp] theorem State.dropTeam_coolant (c : Nat) : (s.dropTeam c).coolant = s.coolant := rfl
@[simp] theorem State.dropTeam_queues (c : Nat) : (s.dropTeam c).queues = s.queues := rfl
@[simp] theorem State.dropTeam_routes (c : Nat) : (s.dropTeam c).routes = s.routes := rfl
@[simp] theorem State.dropTeam_launches (c : Nat) : (s.dropTeam c).launches = s.launches := rfl
@[simp] theorem State.dropTeam_gangs (c : Nat) : (s.dropTeam c).gangs = s.gangs := rfl
@[simp] theorem State.dropTeam_groups (c : Nat) : (s.dropTeam c).groups = s.groups := rfl
@[simp] theorem State.dropTeam_fams (c : Nat) : (s.dropTeam c).fams = s.fams := rfl
@[simp] theorem State.dropTeam_reqs (c : Nat) : (s.dropTeam c).reqs = s.reqs := rfl
@[simp] theorem State.dropTeam_answers (c : Nat) : (s.dropTeam c).answers = s.answers := rfl
@[simp] theorem State.dropTeam_records (c : Nat) : (s.dropTeam c).records = s.records := rfl
@[simp] theorem State.dropTeam_newest (c : Nat) : (s.dropTeam c).newest = s.newest := rfl
@[simp] theorem State.dropTeam_discards (c : Nat) : (s.dropTeam c).discards = s.discards := rfl
@[simp] theorem State.dropTeam_acks (c : Nat) : (s.dropTeam c).acks = s.acks := rfl
@[simp] theorem State.dropTeam_races (c : Nat) : (s.dropTeam c).races = s.races := rfl
@[simp] theorem State.dropTeam_laceRegs (c : Nat) : (s.dropTeam c).laceRegs = s.laceRegs := rfl
@[simp] theorem State.dropTeam_periodAt (c : Nat) : (s.dropTeam c).periodAt = s.periodAt := rfl
@[simp] theorem State.dropTeam_msix (c : Nat) : (s.dropTeam c).msix = s.msix := rfl
@[simp] theorem State.dropTeam_log (c : Nat) : (s.dropTeam c).log = s.log := rfl

@[simp] theorem State.modCore_inputs (c : Nat) (f : Core → Core) : (s.modCore c f).inputs = s.inputs := rfl
@[simp] theorem State.modCore_turn (c : Nat) (f : Core → Core) : (s.modCore c f).turn = s.turn := rfl
@[simp] theorem State.modCore_pace (c : Nat) (f : Core → Core) : (s.modCore c f).pace = s.pace := rfl
@[simp] theorem State.modCore_holds (c : Nat) (f : Core → Core) : (s.modCore c f).holds = s.holds := rfl
@[simp] theorem State.modCore_free (c : Nat) (f : Core → Core) : (s.modCore c f).free = s.free := rfl
@[simp] theorem State.modCore_stamp (c : Nat) (f : Core → Core) : (s.modCore c f).stamp = s.stamp := rfl
@[simp] theorem State.modCore_clock (c : Nat) (f : Core → Core) : (s.modCore c f).clock = s.clock := rfl
@[simp] theorem State.modCore_resets (c : Nat) (f : Core → Core) : (s.modCore c f).resets = s.resets := rfl
@[simp] theorem State.modCore_inReset (c : Nat) (f : Core → Core) : (s.modCore c f).inReset = s.inReset := rfl
@[simp] theorem State.modCore_mem (c : Nat) (f : Core → Core) : (s.modCore c f).mem = s.mem := rfl
@[simp] theorem State.modCore_sound (c : Nat) (f : Core → Core) : (s.modCore c f).sound = s.sound := rfl
@[simp] theorem State.modCore_errs (c : Nat) (f : Core → Core) : (s.modCore c f).errs = s.errs := rfl
@[simp] theorem State.modCore_tags (c : Nat) (f : Core → Core) : (s.modCore c f).tags = s.tags := rfl
@[simp] theorem State.modCore_domains (c : Nat) (f : Core → Core) : (s.modCore c f).domains = s.domains := rfl
@[simp] theorem State.modCore_vds (c : Nat) (f : Core → Core) : (s.modCore c f).vds = s.vds := rfl
@[simp] theorem State.modCore_links (c : Nat) (f : Core → Core) : (s.modCore c f).links = s.links := rfl
@[simp] theorem State.modCore_laneGrps (c : Nat) (f : Core → Core) : (s.modCore c f).laneGrps = s.laneGrps := rfl
@[simp] theorem State.modCore_chans (c : Nat) (f : Core → Core) : (s.modCore c f).chans = s.chans := rfl
@[simp] theorem State.modCore_welts (c : Nat) (f : Core → Core) : (s.modCore c f).welts = s.welts := rfl
@[simp] theorem State.modCore_dies (c : Nat) (f : Core → Core) : (s.modCore c f).dies = s.dies := rfl
@[simp] theorem State.modCore_lines (c : Nat) (f : Core → Core) : (s.modCore c f).lines = s.lines := rfl
@[simp] theorem State.modCore_l2 (c : Nat) (f : Core → Core) : (s.modCore c f).l2 = s.l2 := rfl
@[simp] theorem State.modCore_msc (c : Nat) (f : Core → Core) : (s.modCore c f).msc = s.msc := rfl
@[simp] theorem State.modCore_under (c : Nat) (f : Core → Core) : (s.modCore c f).under = s.under := rfl
@[simp] theorem State.modCore_fills (c : Nat) (f : Core → Core) : (s.modCore c f).fills = s.fills := rfl
@[simp] theorem State.modCore_trips (c : Nat) (f : Core → Core) : (s.modCore c f).trips = s.trips := rfl
@[simp] theorem State.modCore_sw (c : Nat) (f : Core → Core) : (s.modCore c f).sw = s.sw := rfl
@[simp] theorem State.modCore_pkg (c : Nat) (f : Core → Core) : (s.modCore c f).pkg = s.pkg := rfl
@[simp] theorem State.modCore_zones (c : Nat) (f : Core → Core) : (s.modCore c f).zones = s.zones := rfl
@[simp] theorem State.modCore_coolant (c : Nat) (f : Core → Core) : (s.modCore c f).coolant = s.coolant := rfl
@[simp] theorem State.modCore_queues (c : Nat) (f : Core → Core) : (s.modCore c f).queues = s.queues := rfl
@[simp] theorem State.modCore_routes (c : Nat) (f : Core → Core) : (s.modCore c f).routes = s.routes := rfl
@[simp] theorem State.modCore_launches (c : Nat) (f : Core → Core) : (s.modCore c f).launches = s.launches := rfl
@[simp] theorem State.modCore_gangs (c : Nat) (f : Core → Core) : (s.modCore c f).gangs = s.gangs := rfl
@[simp] theorem State.modCore_groups (c : Nat) (f : Core → Core) : (s.modCore c f).groups = s.groups := rfl
@[simp] theorem State.modCore_fams (c : Nat) (f : Core → Core) : (s.modCore c f).fams = s.fams := rfl
@[simp] theorem State.modCore_teams (c : Nat) (f : Core → Core) : (s.modCore c f).teams = s.teams := rfl
@[simp] theorem State.modCore_reqs (c : Nat) (f : Core → Core) : (s.modCore c f).reqs = s.reqs := rfl
@[simp] theorem State.modCore_answers (c : Nat) (f : Core → Core) : (s.modCore c f).answers = s.answers := rfl
@[simp] theorem State.modCore_records (c : Nat) (f : Core → Core) : (s.modCore c f).records = s.records := rfl
@[simp] theorem State.modCore_newest (c : Nat) (f : Core → Core) : (s.modCore c f).newest = s.newest := rfl
@[simp] theorem State.modCore_discards (c : Nat) (f : Core → Core) : (s.modCore c f).discards = s.discards := rfl
@[simp] theorem State.modCore_acks (c : Nat) (f : Core → Core) : (s.modCore c f).acks = s.acks := rfl
@[simp] theorem State.modCore_races (c : Nat) (f : Core → Core) : (s.modCore c f).races = s.races := rfl
@[simp] theorem State.modCore_laceRegs (c : Nat) (f : Core → Core) : (s.modCore c f).laceRegs = s.laceRegs := rfl
@[simp] theorem State.modCore_periodAt (c : Nat) (f : Core → Core) : (s.modCore c f).periodAt = s.periodAt := rfl
@[simp] theorem State.modCore_msix (c : Nat) (f : Core → Core) : (s.modCore c f).msix = s.msix := rfl
@[simp] theorem State.modCore_log (c : Nat) (f : Core → Core) : (s.modCore c f).log = s.log := rfl

@[simp] theorem State.modGroup_inputs (g : Nat) (f : Group → Group) : (s.modGroup g f).inputs = s.inputs := rfl
@[simp] theorem State.modGroup_turn (g : Nat) (f : Group → Group) : (s.modGroup g f).turn = s.turn := rfl
@[simp] theorem State.modGroup_pace (g : Nat) (f : Group → Group) : (s.modGroup g f).pace = s.pace := rfl
@[simp] theorem State.modGroup_holds (g : Nat) (f : Group → Group) : (s.modGroup g f).holds = s.holds := rfl
@[simp] theorem State.modGroup_free (g : Nat) (f : Group → Group) : (s.modGroup g f).free = s.free := rfl
@[simp] theorem State.modGroup_stamp (g : Nat) (f : Group → Group) : (s.modGroup g f).stamp = s.stamp := rfl
@[simp] theorem State.modGroup_clock (g : Nat) (f : Group → Group) : (s.modGroup g f).clock = s.clock := rfl
@[simp] theorem State.modGroup_resets (g : Nat) (f : Group → Group) : (s.modGroup g f).resets = s.resets := rfl
@[simp] theorem State.modGroup_inReset (g : Nat) (f : Group → Group) : (s.modGroup g f).inReset = s.inReset := rfl
@[simp] theorem State.modGroup_mem (g : Nat) (f : Group → Group) : (s.modGroup g f).mem = s.mem := rfl
@[simp] theorem State.modGroup_sound (g : Nat) (f : Group → Group) : (s.modGroup g f).sound = s.sound := rfl
@[simp] theorem State.modGroup_errs (g : Nat) (f : Group → Group) : (s.modGroup g f).errs = s.errs := rfl
@[simp] theorem State.modGroup_tags (g : Nat) (f : Group → Group) : (s.modGroup g f).tags = s.tags := rfl
@[simp] theorem State.modGroup_domains (g : Nat) (f : Group → Group) : (s.modGroup g f).domains = s.domains := rfl
@[simp] theorem State.modGroup_vds (g : Nat) (f : Group → Group) : (s.modGroup g f).vds = s.vds := rfl
@[simp] theorem State.modGroup_cores (g : Nat) (f : Group → Group) : (s.modGroup g f).cores = s.cores := rfl
@[simp] theorem State.modGroup_links (g : Nat) (f : Group → Group) : (s.modGroup g f).links = s.links := rfl
@[simp] theorem State.modGroup_laneGrps (g : Nat) (f : Group → Group) : (s.modGroup g f).laneGrps = s.laneGrps := rfl
@[simp] theorem State.modGroup_chans (g : Nat) (f : Group → Group) : (s.modGroup g f).chans = s.chans := rfl
@[simp] theorem State.modGroup_welts (g : Nat) (f : Group → Group) : (s.modGroup g f).welts = s.welts := rfl
@[simp] theorem State.modGroup_dies (g : Nat) (f : Group → Group) : (s.modGroup g f).dies = s.dies := rfl
@[simp] theorem State.modGroup_lines (g : Nat) (f : Group → Group) : (s.modGroup g f).lines = s.lines := rfl
@[simp] theorem State.modGroup_l2 (g : Nat) (f : Group → Group) : (s.modGroup g f).l2 = s.l2 := rfl
@[simp] theorem State.modGroup_msc (g : Nat) (f : Group → Group) : (s.modGroup g f).msc = s.msc := rfl
@[simp] theorem State.modGroup_under (g : Nat) (f : Group → Group) : (s.modGroup g f).under = s.under := rfl
@[simp] theorem State.modGroup_fills (g : Nat) (f : Group → Group) : (s.modGroup g f).fills = s.fills := rfl
@[simp] theorem State.modGroup_trips (g : Nat) (f : Group → Group) : (s.modGroup g f).trips = s.trips := rfl
@[simp] theorem State.modGroup_sw (g : Nat) (f : Group → Group) : (s.modGroup g f).sw = s.sw := rfl
@[simp] theorem State.modGroup_pkg (g : Nat) (f : Group → Group) : (s.modGroup g f).pkg = s.pkg := rfl
@[simp] theorem State.modGroup_zones (g : Nat) (f : Group → Group) : (s.modGroup g f).zones = s.zones := rfl
@[simp] theorem State.modGroup_coolant (g : Nat) (f : Group → Group) : (s.modGroup g f).coolant = s.coolant := rfl
@[simp] theorem State.modGroup_queues (g : Nat) (f : Group → Group) : (s.modGroup g f).queues = s.queues := rfl
@[simp] theorem State.modGroup_routes (g : Nat) (f : Group → Group) : (s.modGroup g f).routes = s.routes := rfl
@[simp] theorem State.modGroup_launches (g : Nat) (f : Group → Group) : (s.modGroup g f).launches = s.launches := rfl
@[simp] theorem State.modGroup_gangs (g : Nat) (f : Group → Group) : (s.modGroup g f).gangs = s.gangs := rfl
@[simp] theorem State.modGroup_fams (g : Nat) (f : Group → Group) : (s.modGroup g f).fams = s.fams := rfl
@[simp] theorem State.modGroup_teams (g : Nat) (f : Group → Group) : (s.modGroup g f).teams = s.teams := rfl
@[simp] theorem State.modGroup_reqs (g : Nat) (f : Group → Group) : (s.modGroup g f).reqs = s.reqs := rfl
@[simp] theorem State.modGroup_answers (g : Nat) (f : Group → Group) : (s.modGroup g f).answers = s.answers := rfl
@[simp] theorem State.modGroup_records (g : Nat) (f : Group → Group) : (s.modGroup g f).records = s.records := rfl
@[simp] theorem State.modGroup_newest (g : Nat) (f : Group → Group) : (s.modGroup g f).newest = s.newest := rfl
@[simp] theorem State.modGroup_discards (g : Nat) (f : Group → Group) : (s.modGroup g f).discards = s.discards := rfl
@[simp] theorem State.modGroup_acks (g : Nat) (f : Group → Group) : (s.modGroup g f).acks = s.acks := rfl
@[simp] theorem State.modGroup_races (g : Nat) (f : Group → Group) : (s.modGroup g f).races = s.races := rfl
@[simp] theorem State.modGroup_laceRegs (g : Nat) (f : Group → Group) : (s.modGroup g f).laceRegs = s.laceRegs := rfl
@[simp] theorem State.modGroup_periodAt (g : Nat) (f : Group → Group) : (s.modGroup g f).periodAt = s.periodAt := rfl
@[simp] theorem State.modGroup_msix (g : Nat) (f : Group → Group) : (s.modGroup g f).msix = s.msix := rfl
@[simp] theorem State.modGroup_log (g : Nat) (f : Group → Group) : (s.modGroup g f).log = s.log := rfl

@[simp] theorem State.modFam_inputs (g : Nat) (f : Family → Family) : (s.modFam g f).inputs = s.inputs := rfl
@[simp] theorem State.modFam_turn (g : Nat) (f : Family → Family) : (s.modFam g f).turn = s.turn := rfl
@[simp] theorem State.modFam_pace (g : Nat) (f : Family → Family) : (s.modFam g f).pace = s.pace := rfl
@[simp] theorem State.modFam_holds (g : Nat) (f : Family → Family) : (s.modFam g f).holds = s.holds := rfl
@[simp] theorem State.modFam_free (g : Nat) (f : Family → Family) : (s.modFam g f).free = s.free := rfl
@[simp] theorem State.modFam_stamp (g : Nat) (f : Family → Family) : (s.modFam g f).stamp = s.stamp := rfl
@[simp] theorem State.modFam_clock (g : Nat) (f : Family → Family) : (s.modFam g f).clock = s.clock := rfl
@[simp] theorem State.modFam_resets (g : Nat) (f : Family → Family) : (s.modFam g f).resets = s.resets := rfl
@[simp] theorem State.modFam_inReset (g : Nat) (f : Family → Family) : (s.modFam g f).inReset = s.inReset := rfl
@[simp] theorem State.modFam_mem (g : Nat) (f : Family → Family) : (s.modFam g f).mem = s.mem := rfl
@[simp] theorem State.modFam_sound (g : Nat) (f : Family → Family) : (s.modFam g f).sound = s.sound := rfl
@[simp] theorem State.modFam_errs (g : Nat) (f : Family → Family) : (s.modFam g f).errs = s.errs := rfl
@[simp] theorem State.modFam_tags (g : Nat) (f : Family → Family) : (s.modFam g f).tags = s.tags := rfl
@[simp] theorem State.modFam_domains (g : Nat) (f : Family → Family) : (s.modFam g f).domains = s.domains := rfl
@[simp] theorem State.modFam_vds (g : Nat) (f : Family → Family) : (s.modFam g f).vds = s.vds := rfl
@[simp] theorem State.modFam_cores (g : Nat) (f : Family → Family) : (s.modFam g f).cores = s.cores := rfl
@[simp] theorem State.modFam_links (g : Nat) (f : Family → Family) : (s.modFam g f).links = s.links := rfl
@[simp] theorem State.modFam_laneGrps (g : Nat) (f : Family → Family) : (s.modFam g f).laneGrps = s.laneGrps := rfl
@[simp] theorem State.modFam_chans (g : Nat) (f : Family → Family) : (s.modFam g f).chans = s.chans := rfl
@[simp] theorem State.modFam_welts (g : Nat) (f : Family → Family) : (s.modFam g f).welts = s.welts := rfl
@[simp] theorem State.modFam_dies (g : Nat) (f : Family → Family) : (s.modFam g f).dies = s.dies := rfl
@[simp] theorem State.modFam_lines (g : Nat) (f : Family → Family) : (s.modFam g f).lines = s.lines := rfl
@[simp] theorem State.modFam_l2 (g : Nat) (f : Family → Family) : (s.modFam g f).l2 = s.l2 := rfl
@[simp] theorem State.modFam_msc (g : Nat) (f : Family → Family) : (s.modFam g f).msc = s.msc := rfl
@[simp] theorem State.modFam_under (g : Nat) (f : Family → Family) : (s.modFam g f).under = s.under := rfl
@[simp] theorem State.modFam_fills (g : Nat) (f : Family → Family) : (s.modFam g f).fills = s.fills := rfl
@[simp] theorem State.modFam_trips (g : Nat) (f : Family → Family) : (s.modFam g f).trips = s.trips := rfl
@[simp] theorem State.modFam_sw (g : Nat) (f : Family → Family) : (s.modFam g f).sw = s.sw := rfl
@[simp] theorem State.modFam_pkg (g : Nat) (f : Family → Family) : (s.modFam g f).pkg = s.pkg := rfl
@[simp] theorem State.modFam_zones (g : Nat) (f : Family → Family) : (s.modFam g f).zones = s.zones := rfl
@[simp] theorem State.modFam_coolant (g : Nat) (f : Family → Family) : (s.modFam g f).coolant = s.coolant := rfl
@[simp] theorem State.modFam_queues (g : Nat) (f : Family → Family) : (s.modFam g f).queues = s.queues := rfl
@[simp] theorem State.modFam_routes (g : Nat) (f : Family → Family) : (s.modFam g f).routes = s.routes := rfl
@[simp] theorem State.modFam_launches (g : Nat) (f : Family → Family) : (s.modFam g f).launches = s.launches := rfl
@[simp] theorem State.modFam_gangs (g : Nat) (f : Family → Family) : (s.modFam g f).gangs = s.gangs := rfl
@[simp] theorem State.modFam_groups (g : Nat) (f : Family → Family) : (s.modFam g f).groups = s.groups := rfl
@[simp] theorem State.modFam_teams (g : Nat) (f : Family → Family) : (s.modFam g f).teams = s.teams := rfl
@[simp] theorem State.modFam_reqs (g : Nat) (f : Family → Family) : (s.modFam g f).reqs = s.reqs := rfl
@[simp] theorem State.modFam_answers (g : Nat) (f : Family → Family) : (s.modFam g f).answers = s.answers := rfl
@[simp] theorem State.modFam_records (g : Nat) (f : Family → Family) : (s.modFam g f).records = s.records := rfl
@[simp] theorem State.modFam_newest (g : Nat) (f : Family → Family) : (s.modFam g f).newest = s.newest := rfl
@[simp] theorem State.modFam_discards (g : Nat) (f : Family → Family) : (s.modFam g f).discards = s.discards := rfl
@[simp] theorem State.modFam_acks (g : Nat) (f : Family → Family) : (s.modFam g f).acks = s.acks := rfl
@[simp] theorem State.modFam_races (g : Nat) (f : Family → Family) : (s.modFam g f).races = s.races := rfl
@[simp] theorem State.modFam_laceRegs (g : Nat) (f : Family → Family) : (s.modFam g f).laceRegs = s.laceRegs := rfl
@[simp] theorem State.modFam_periodAt (g : Nat) (f : Family → Family) : (s.modFam g f).periodAt = s.periodAt := rfl
@[simp] theorem State.modFam_msix (g : Nat) (f : Family → Family) : (s.modFam g f).msix = s.msix := rfl
@[simp] theorem State.modFam_log (g : Nat) (f : Family → Family) : (s.modFam g f).log = s.log := rfl

/-! ### Readers -/

theorem State.domain_setDomain (k n : Nat) (d : Domain) : (s.setDomain k d).domain n = if k = n then d else s.domain n := by
  simp [State.domain, State.setDomain, Tbl.get_set]
@[simp] theorem State.domain_setDomain_same (k : Nat) (d : Domain) : (s.setDomain k d).domain k = d := by simp [State.domain_setDomain]
theorem State.vd_setVD (k n : Nat) (d : VD) : (s.setVD k d).vd n = if k = n then d else s.vd n := by
  simp [State.vd, State.setVD, Tbl.get_set]
@[simp] theorem State.vd_setVD_same (k : Nat) (d : VD) : (s.setVD k d).vd k = d := by simp [State.vd_setVD]
theorem State.core_setCore (k n : Nat) (d : Core) : (s.setCore k d).core n = if k = n then d else s.core n := by
  simp [State.core, State.setCore, Tbl.get_set]
@[simp] theorem State.core_setCore_same (k : Nat) (d : Core) : (s.setCore k d).core k = d := by simp [State.core_setCore]
theorem State.link_setLink (k n : Nat) (d : Link) : (s.setLink k d).link n = if k = n then d else s.link n := by
  simp [State.link, State.setLink, Tbl.get_set]
@[simp] theorem State.link_setLink_same (k : Nat) (d : Link) : (s.setLink k d).link k = d := by simp [State.link_setLink]
theorem State.chan_setChan (k n : Nat) (d : Channel) : (s.setChan k d).chan n = if k = n then d else s.chan n := by
  simp [State.chan, State.setChan, Tbl.get_set]
@[simp] theorem State.chan_setChan_same (k : Nat) (d : Channel) : (s.setChan k d).chan k = d := by simp [State.chan_setChan]
theorem State.welt_setWelt (k n : Nat) (d : Welt) : (s.setWelt k d).welt n = if k = n then d else s.welt n := by
  simp [State.welt, State.setWelt, Tbl.get_set]
@[simp] theorem State.welt_setWelt_same (k : Nat) (d : Welt) : (s.setWelt k d).welt k = d := by simp [State.welt_setWelt]
theorem State.die_setDie (k n : Nat) (d : Die) : (s.setDie k d).die n = if k = n then d else s.die n := by
  simp [State.die, State.setDie, Tbl.get_set]
@[simp] theorem State.die_setDie_same (k : Nat) (d : Die) : (s.setDie k d).die k = d := by simp [State.die_setDie]
theorem State.zone_setZone (k n : Nat) (d : Zone) : (s.setZone k d).zone n = if k = n then d else s.zone n := by
  simp [State.zone, State.setZone, Tbl.get_set]
@[simp] theorem State.zone_setZone_same (k : Nat) (d : Zone) : (s.setZone k d).zone k = d := by simp [State.zone_setZone]
theorem State.queue_setQueue (k n : Nat) (d : Queue) : (s.setQueue k d).queue n = if k = n then d else s.queue n := by
  simp [State.queue, State.setQueue, Tbl.get_set]
@[simp] theorem State.queue_setQueue_same (k : Nat) (d : Queue) : (s.setQueue k d).queue k = d := by simp [State.queue_setQueue]
theorem State.launch_setLaunch (k n : Nat) (d : Launch) : (s.setLaunch k d).launch n = if k = n then d else s.launch n := by
  simp [State.launch, State.setLaunch, Tbl.get_set]
@[simp] theorem State.launch_setLaunch_same (k : Nat) (d : Launch) : (s.setLaunch k d).launch k = d := by simp [State.launch_setLaunch]
theorem State.gang_setGang (k n : Nat) (d : Gang) : (s.setGang k d).gang n = if k = n then d else s.gang n := by
  simp [State.gang, State.setGang, Tbl.get_set]
@[simp] theorem State.gang_setGang_same (k : Nat) (d : Gang) : (s.setGang k d).gang k = d := by simp [State.gang_setGang]
theorem State.group_setGroup (k n : Nat) (d : Group) : (s.setGroup k d).group n = if k = n then d else s.group n := by
  simp [State.group, State.setGroup, Tbl.get_set]
@[simp] theorem State.group_setGroup_same (k : Nat) (d : Group) : (s.setGroup k d).group k = d := by simp [State.group_setGroup]
theorem State.fam_setFam (k n : Nat) (d : Family) : (s.setFam k d).fam n = if k = n then d else s.fam n := by
  simp [State.fam, State.setFam, Tbl.get_set]
@[simp] theorem State.fam_setFam_same (k : Nat) (d : Family) : (s.setFam k d).fam k = d := by simp [State.fam_setFam]

@[simp] theorem State.vd_setDomain_frame (k : Nat) (d : Domain) (n : Nat) : (s.setDomain k d).vd n = s.vd n := rfl
@[simp] theorem State.core_setDomain_frame (k : Nat) (d : Domain) (n : Nat) : (s.setDomain k d).core n = s.core n := rfl
@[simp] theorem State.chan_setDomain_frame (k : Nat) (d : Domain) (n : Nat) : (s.setDomain k d).chan n = s.chan n := rfl
@[simp] theorem State.welt_setDomain_frame (k : Nat) (d : Domain) (n : Nat) : (s.setDomain k d).welt n = s.welt n := rfl
@[simp] theorem State.die_setDomain_frame (k : Nat) (d : Domain) (n : Nat) : (s.setDomain k d).die n = s.die n := rfl
@[simp] theorem State.zone_setDomain_frame (k : Nat) (d : Domain) (n : Nat) : (s.setDomain k d).zone n = s.zone n := rfl
@[simp] theorem State.queue_setDomain_frame (k : Nat) (d : Domain) (n : Nat) : (s.setDomain k d).queue n = s.queue n := rfl
@[simp] theorem State.launch_setDomain_frame (k : Nat) (d : Domain) (n : Nat) : (s.setDomain k d).launch n = s.launch n := rfl
@[simp] theorem State.gang_setDomain_frame (k : Nat) (d : Domain) (n : Nat) : (s.setDomain k d).gang n = s.gang n := rfl
@[simp] theorem State.group_setDomain_frame (k : Nat) (d : Domain) (n : Nat) : (s.setDomain k d).group n = s.group n := rfl
@[simp] theorem State.fam_setDomain_frame (k : Nat) (d : Domain) (n : Nat) : (s.setDomain k d).fam n = s.fam n := rfl
@[simp] theorem State.link_setDomain_frame (k : Nat) (d : Domain) (n : Nat) : (s.setDomain k d).link n = s.link n := rfl
@[simp] theorem State.team?_setDomain_frame (k : Nat) (d : Domain) (n : Nat) : (s.setDomain k d).team? n = s.team? n := rfl
@[simp] theorem State.domain_setVD_frame (k : Nat) (d : VD) (n : Nat) : (s.setVD k d).domain n = s.domain n := rfl
@[simp] theorem State.core_setVD_frame (k : Nat) (d : VD) (n : Nat) : (s.setVD k d).core n = s.core n := rfl
@[simp] theorem State.chan_setVD_frame (k : Nat) (d : VD) (n : Nat) : (s.setVD k d).chan n = s.chan n := rfl
@[simp] theorem State.welt_setVD_frame (k : Nat) (d : VD) (n : Nat) : (s.setVD k d).welt n = s.welt n := rfl
@[simp] theorem State.die_setVD_frame (k : Nat) (d : VD) (n : Nat) : (s.setVD k d).die n = s.die n := rfl
@[simp] theorem State.zone_setVD_frame (k : Nat) (d : VD) (n : Nat) : (s.setVD k d).zone n = s.zone n := rfl
@[simp] theorem State.queue_setVD_frame (k : Nat) (d : VD) (n : Nat) : (s.setVD k d).queue n = s.queue n := rfl
@[simp] theorem State.launch_setVD_frame (k : Nat) (d : VD) (n : Nat) : (s.setVD k d).launch n = s.launch n := rfl
@[simp] theorem State.gang_setVD_frame (k : Nat) (d : VD) (n : Nat) : (s.setVD k d).gang n = s.gang n := rfl
@[simp] theorem State.group_setVD_frame (k : Nat) (d : VD) (n : Nat) : (s.setVD k d).group n = s.group n := rfl
@[simp] theorem State.fam_setVD_frame (k : Nat) (d : VD) (n : Nat) : (s.setVD k d).fam n = s.fam n := rfl
@[simp] theorem State.link_setVD_frame (k : Nat) (d : VD) (n : Nat) : (s.setVD k d).link n = s.link n := rfl
@[simp] theorem State.team?_setVD_frame (k : Nat) (d : VD) (n : Nat) : (s.setVD k d).team? n = s.team? n := rfl
@[simp] theorem State.domain_setCore_frame (k : Nat) (d : Core) (n : Nat) : (s.setCore k d).domain n = s.domain n := rfl
@[simp] theorem State.vd_setCore_frame (k : Nat) (d : Core) (n : Nat) : (s.setCore k d).vd n = s.vd n := rfl
@[simp] theorem State.chan_setCore_frame (k : Nat) (d : Core) (n : Nat) : (s.setCore k d).chan n = s.chan n := rfl
@[simp] theorem State.welt_setCore_frame (k : Nat) (d : Core) (n : Nat) : (s.setCore k d).welt n = s.welt n := rfl
@[simp] theorem State.die_setCore_frame (k : Nat) (d : Core) (n : Nat) : (s.setCore k d).die n = s.die n := rfl
@[simp] theorem State.zone_setCore_frame (k : Nat) (d : Core) (n : Nat) : (s.setCore k d).zone n = s.zone n := rfl
@[simp] theorem State.queue_setCore_frame (k : Nat) (d : Core) (n : Nat) : (s.setCore k d).queue n = s.queue n := rfl
@[simp] theorem State.launch_setCore_frame (k : Nat) (d : Core) (n : Nat) : (s.setCore k d).launch n = s.launch n := rfl
@[simp] theorem State.gang_setCore_frame (k : Nat) (d : Core) (n : Nat) : (s.setCore k d).gang n = s.gang n := rfl
@[simp] theorem State.group_setCore_frame (k : Nat) (d : Core) (n : Nat) : (s.setCore k d).group n = s.group n := rfl
@[simp] theorem State.fam_setCore_frame (k : Nat) (d : Core) (n : Nat) : (s.setCore k d).fam n = s.fam n := rfl
@[simp] theorem State.link_setCore_frame (k : Nat) (d : Core) (n : Nat) : (s.setCore k d).link n = s.link n := rfl
@[simp] theorem State.team?_setCore_frame (k : Nat) (d : Core) (n : Nat) : (s.setCore k d).team? n = s.team? n := rfl
@[simp] theorem State.domain_setLink_frame (k : Nat) (d : Link) (n : Nat) : (s.setLink k d).domain n = s.domain n := rfl
@[simp] theorem State.vd_setLink_frame (k : Nat) (d : Link) (n : Nat) : (s.setLink k d).vd n = s.vd n := rfl
@[simp] theorem State.core_setLink_frame (k : Nat) (d : Link) (n : Nat) : (s.setLink k d).core n = s.core n := rfl
@[simp] theorem State.chan_setLink_frame (k : Nat) (d : Link) (n : Nat) : (s.setLink k d).chan n = s.chan n := rfl
@[simp] theorem State.welt_setLink_frame (k : Nat) (d : Link) (n : Nat) : (s.setLink k d).welt n = s.welt n := rfl
@[simp] theorem State.die_setLink_frame (k : Nat) (d : Link) (n : Nat) : (s.setLink k d).die n = s.die n := rfl
@[simp] theorem State.zone_setLink_frame (k : Nat) (d : Link) (n : Nat) : (s.setLink k d).zone n = s.zone n := rfl
@[simp] theorem State.queue_setLink_frame (k : Nat) (d : Link) (n : Nat) : (s.setLink k d).queue n = s.queue n := rfl
@[simp] theorem State.launch_setLink_frame (k : Nat) (d : Link) (n : Nat) : (s.setLink k d).launch n = s.launch n := rfl
@[simp] theorem State.gang_setLink_frame (k : Nat) (d : Link) (n : Nat) : (s.setLink k d).gang n = s.gang n := rfl
@[simp] theorem State.group_setLink_frame (k : Nat) (d : Link) (n : Nat) : (s.setLink k d).group n = s.group n := rfl
@[simp] theorem State.fam_setLink_frame (k : Nat) (d : Link) (n : Nat) : (s.setLink k d).fam n = s.fam n := rfl
@[simp] theorem State.team?_setLink_frame (k : Nat) (d : Link) (n : Nat) : (s.setLink k d).team? n = s.team? n := rfl
@[simp] theorem State.domain_setChan_frame (k : Nat) (d : Channel) (n : Nat) : (s.setChan k d).domain n = s.domain n := rfl
@[simp] theorem State.vd_setChan_frame (k : Nat) (d : Channel) (n : Nat) : (s.setChan k d).vd n = s.vd n := rfl
@[simp] theorem State.core_setChan_frame (k : Nat) (d : Channel) (n : Nat) : (s.setChan k d).core n = s.core n := rfl
@[simp] theorem State.welt_setChan_frame (k : Nat) (d : Channel) (n : Nat) : (s.setChan k d).welt n = s.welt n := rfl
@[simp] theorem State.die_setChan_frame (k : Nat) (d : Channel) (n : Nat) : (s.setChan k d).die n = s.die n := rfl
@[simp] theorem State.zone_setChan_frame (k : Nat) (d : Channel) (n : Nat) : (s.setChan k d).zone n = s.zone n := rfl
@[simp] theorem State.queue_setChan_frame (k : Nat) (d : Channel) (n : Nat) : (s.setChan k d).queue n = s.queue n := rfl
@[simp] theorem State.launch_setChan_frame (k : Nat) (d : Channel) (n : Nat) : (s.setChan k d).launch n = s.launch n := rfl
@[simp] theorem State.gang_setChan_frame (k : Nat) (d : Channel) (n : Nat) : (s.setChan k d).gang n = s.gang n := rfl
@[simp] theorem State.group_setChan_frame (k : Nat) (d : Channel) (n : Nat) : (s.setChan k d).group n = s.group n := rfl
@[simp] theorem State.fam_setChan_frame (k : Nat) (d : Channel) (n : Nat) : (s.setChan k d).fam n = s.fam n := rfl
@[simp] theorem State.link_setChan_frame (k : Nat) (d : Channel) (n : Nat) : (s.setChan k d).link n = s.link n := rfl
@[simp] theorem State.team?_setChan_frame (k : Nat) (d : Channel) (n : Nat) : (s.setChan k d).team? n = s.team? n := rfl
@[simp] theorem State.domain_setWelt_frame (k : Nat) (d : Welt) (n : Nat) : (s.setWelt k d).domain n = s.domain n := rfl
@[simp] theorem State.vd_setWelt_frame (k : Nat) (d : Welt) (n : Nat) : (s.setWelt k d).vd n = s.vd n := rfl
@[simp] theorem State.core_setWelt_frame (k : Nat) (d : Welt) (n : Nat) : (s.setWelt k d).core n = s.core n := rfl
@[simp] theorem State.chan_setWelt_frame (k : Nat) (d : Welt) (n : Nat) : (s.setWelt k d).chan n = s.chan n := rfl
@[simp] theorem State.die_setWelt_frame (k : Nat) (d : Welt) (n : Nat) : (s.setWelt k d).die n = s.die n := rfl
@[simp] theorem State.zone_setWelt_frame (k : Nat) (d : Welt) (n : Nat) : (s.setWelt k d).zone n = s.zone n := rfl
@[simp] theorem State.queue_setWelt_frame (k : Nat) (d : Welt) (n : Nat) : (s.setWelt k d).queue n = s.queue n := rfl
@[simp] theorem State.launch_setWelt_frame (k : Nat) (d : Welt) (n : Nat) : (s.setWelt k d).launch n = s.launch n := rfl
@[simp] theorem State.gang_setWelt_frame (k : Nat) (d : Welt) (n : Nat) : (s.setWelt k d).gang n = s.gang n := rfl
@[simp] theorem State.group_setWelt_frame (k : Nat) (d : Welt) (n : Nat) : (s.setWelt k d).group n = s.group n := rfl
@[simp] theorem State.fam_setWelt_frame (k : Nat) (d : Welt) (n : Nat) : (s.setWelt k d).fam n = s.fam n := rfl
@[simp] theorem State.link_setWelt_frame (k : Nat) (d : Welt) (n : Nat) : (s.setWelt k d).link n = s.link n := rfl
@[simp] theorem State.team?_setWelt_frame (k : Nat) (d : Welt) (n : Nat) : (s.setWelt k d).team? n = s.team? n := rfl
@[simp] theorem State.domain_setDie_frame (k : Nat) (d : Die) (n : Nat) : (s.setDie k d).domain n = s.domain n := rfl
@[simp] theorem State.vd_setDie_frame (k : Nat) (d : Die) (n : Nat) : (s.setDie k d).vd n = s.vd n := rfl
@[simp] theorem State.core_setDie_frame (k : Nat) (d : Die) (n : Nat) : (s.setDie k d).core n = s.core n := rfl
@[simp] theorem State.chan_setDie_frame (k : Nat) (d : Die) (n : Nat) : (s.setDie k d).chan n = s.chan n := rfl
@[simp] theorem State.welt_setDie_frame (k : Nat) (d : Die) (n : Nat) : (s.setDie k d).welt n = s.welt n := rfl
@[simp] theorem State.zone_setDie_frame (k : Nat) (d : Die) (n : Nat) : (s.setDie k d).zone n = s.zone n := rfl
@[simp] theorem State.queue_setDie_frame (k : Nat) (d : Die) (n : Nat) : (s.setDie k d).queue n = s.queue n := rfl
@[simp] theorem State.launch_setDie_frame (k : Nat) (d : Die) (n : Nat) : (s.setDie k d).launch n = s.launch n := rfl
@[simp] theorem State.gang_setDie_frame (k : Nat) (d : Die) (n : Nat) : (s.setDie k d).gang n = s.gang n := rfl
@[simp] theorem State.group_setDie_frame (k : Nat) (d : Die) (n : Nat) : (s.setDie k d).group n = s.group n := rfl
@[simp] theorem State.fam_setDie_frame (k : Nat) (d : Die) (n : Nat) : (s.setDie k d).fam n = s.fam n := rfl
@[simp] theorem State.link_setDie_frame (k : Nat) (d : Die) (n : Nat) : (s.setDie k d).link n = s.link n := rfl
@[simp] theorem State.team?_setDie_frame (k : Nat) (d : Die) (n : Nat) : (s.setDie k d).team? n = s.team? n := rfl
@[simp] theorem State.domain_setZone_frame (k : Nat) (d : Zone) (n : Nat) : (s.setZone k d).domain n = s.domain n := rfl
@[simp] theorem State.vd_setZone_frame (k : Nat) (d : Zone) (n : Nat) : (s.setZone k d).vd n = s.vd n := rfl
@[simp] theorem State.core_setZone_frame (k : Nat) (d : Zone) (n : Nat) : (s.setZone k d).core n = s.core n := rfl
@[simp] theorem State.chan_setZone_frame (k : Nat) (d : Zone) (n : Nat) : (s.setZone k d).chan n = s.chan n := rfl
@[simp] theorem State.welt_setZone_frame (k : Nat) (d : Zone) (n : Nat) : (s.setZone k d).welt n = s.welt n := rfl
@[simp] theorem State.die_setZone_frame (k : Nat) (d : Zone) (n : Nat) : (s.setZone k d).die n = s.die n := rfl
@[simp] theorem State.queue_setZone_frame (k : Nat) (d : Zone) (n : Nat) : (s.setZone k d).queue n = s.queue n := rfl
@[simp] theorem State.launch_setZone_frame (k : Nat) (d : Zone) (n : Nat) : (s.setZone k d).launch n = s.launch n := rfl
@[simp] theorem State.gang_setZone_frame (k : Nat) (d : Zone) (n : Nat) : (s.setZone k d).gang n = s.gang n := rfl
@[simp] theorem State.group_setZone_frame (k : Nat) (d : Zone) (n : Nat) : (s.setZone k d).group n = s.group n := rfl
@[simp] theorem State.fam_setZone_frame (k : Nat) (d : Zone) (n : Nat) : (s.setZone k d).fam n = s.fam n := rfl
@[simp] theorem State.link_setZone_frame (k : Nat) (d : Zone) (n : Nat) : (s.setZone k d).link n = s.link n := rfl
@[simp] theorem State.team?_setZone_frame (k : Nat) (d : Zone) (n : Nat) : (s.setZone k d).team? n = s.team? n := rfl
@[simp] theorem State.domain_setQueue_frame (k : Nat) (d : Queue) (n : Nat) : (s.setQueue k d).domain n = s.domain n := rfl
@[simp] theorem State.vd_setQueue_frame (k : Nat) (d : Queue) (n : Nat) : (s.setQueue k d).vd n = s.vd n := rfl
@[simp] theorem State.core_setQueue_frame (k : Nat) (d : Queue) (n : Nat) : (s.setQueue k d).core n = s.core n := rfl
@[simp] theorem State.chan_setQueue_frame (k : Nat) (d : Queue) (n : Nat) : (s.setQueue k d).chan n = s.chan n := rfl
@[simp] theorem State.welt_setQueue_frame (k : Nat) (d : Queue) (n : Nat) : (s.setQueue k d).welt n = s.welt n := rfl
@[simp] theorem State.die_setQueue_frame (k : Nat) (d : Queue) (n : Nat) : (s.setQueue k d).die n = s.die n := rfl
@[simp] theorem State.zone_setQueue_frame (k : Nat) (d : Queue) (n : Nat) : (s.setQueue k d).zone n = s.zone n := rfl
@[simp] theorem State.launch_setQueue_frame (k : Nat) (d : Queue) (n : Nat) : (s.setQueue k d).launch n = s.launch n := rfl
@[simp] theorem State.gang_setQueue_frame (k : Nat) (d : Queue) (n : Nat) : (s.setQueue k d).gang n = s.gang n := rfl
@[simp] theorem State.group_setQueue_frame (k : Nat) (d : Queue) (n : Nat) : (s.setQueue k d).group n = s.group n := rfl
@[simp] theorem State.fam_setQueue_frame (k : Nat) (d : Queue) (n : Nat) : (s.setQueue k d).fam n = s.fam n := rfl
@[simp] theorem State.link_setQueue_frame (k : Nat) (d : Queue) (n : Nat) : (s.setQueue k d).link n = s.link n := rfl
@[simp] theorem State.team?_setQueue_frame (k : Nat) (d : Queue) (n : Nat) : (s.setQueue k d).team? n = s.team? n := rfl
@[simp] theorem State.domain_setLaunch_frame (k : Nat) (d : Launch) (n : Nat) : (s.setLaunch k d).domain n = s.domain n := rfl
@[simp] theorem State.vd_setLaunch_frame (k : Nat) (d : Launch) (n : Nat) : (s.setLaunch k d).vd n = s.vd n := rfl
@[simp] theorem State.core_setLaunch_frame (k : Nat) (d : Launch) (n : Nat) : (s.setLaunch k d).core n = s.core n := rfl
@[simp] theorem State.chan_setLaunch_frame (k : Nat) (d : Launch) (n : Nat) : (s.setLaunch k d).chan n = s.chan n := rfl
@[simp] theorem State.welt_setLaunch_frame (k : Nat) (d : Launch) (n : Nat) : (s.setLaunch k d).welt n = s.welt n := rfl
@[simp] theorem State.die_setLaunch_frame (k : Nat) (d : Launch) (n : Nat) : (s.setLaunch k d).die n = s.die n := rfl
@[simp] theorem State.zone_setLaunch_frame (k : Nat) (d : Launch) (n : Nat) : (s.setLaunch k d).zone n = s.zone n := rfl
@[simp] theorem State.queue_setLaunch_frame (k : Nat) (d : Launch) (n : Nat) : (s.setLaunch k d).queue n = s.queue n := rfl
@[simp] theorem State.gang_setLaunch_frame (k : Nat) (d : Launch) (n : Nat) : (s.setLaunch k d).gang n = s.gang n := rfl
@[simp] theorem State.group_setLaunch_frame (k : Nat) (d : Launch) (n : Nat) : (s.setLaunch k d).group n = s.group n := rfl
@[simp] theorem State.fam_setLaunch_frame (k : Nat) (d : Launch) (n : Nat) : (s.setLaunch k d).fam n = s.fam n := rfl
@[simp] theorem State.link_setLaunch_frame (k : Nat) (d : Launch) (n : Nat) : (s.setLaunch k d).link n = s.link n := rfl
@[simp] theorem State.team?_setLaunch_frame (k : Nat) (d : Launch) (n : Nat) : (s.setLaunch k d).team? n = s.team? n := rfl
@[simp] theorem State.domain_setGang_frame (k : Nat) (d : Gang) (n : Nat) : (s.setGang k d).domain n = s.domain n := rfl
@[simp] theorem State.vd_setGang_frame (k : Nat) (d : Gang) (n : Nat) : (s.setGang k d).vd n = s.vd n := rfl
@[simp] theorem State.core_setGang_frame (k : Nat) (d : Gang) (n : Nat) : (s.setGang k d).core n = s.core n := rfl
@[simp] theorem State.chan_setGang_frame (k : Nat) (d : Gang) (n : Nat) : (s.setGang k d).chan n = s.chan n := rfl
@[simp] theorem State.welt_setGang_frame (k : Nat) (d : Gang) (n : Nat) : (s.setGang k d).welt n = s.welt n := rfl
@[simp] theorem State.die_setGang_frame (k : Nat) (d : Gang) (n : Nat) : (s.setGang k d).die n = s.die n := rfl
@[simp] theorem State.zone_setGang_frame (k : Nat) (d : Gang) (n : Nat) : (s.setGang k d).zone n = s.zone n := rfl
@[simp] theorem State.queue_setGang_frame (k : Nat) (d : Gang) (n : Nat) : (s.setGang k d).queue n = s.queue n := rfl
@[simp] theorem State.launch_setGang_frame (k : Nat) (d : Gang) (n : Nat) : (s.setGang k d).launch n = s.launch n := rfl
@[simp] theorem State.group_setGang_frame (k : Nat) (d : Gang) (n : Nat) : (s.setGang k d).group n = s.group n := rfl
@[simp] theorem State.fam_setGang_frame (k : Nat) (d : Gang) (n : Nat) : (s.setGang k d).fam n = s.fam n := rfl
@[simp] theorem State.link_setGang_frame (k : Nat) (d : Gang) (n : Nat) : (s.setGang k d).link n = s.link n := rfl
@[simp] theorem State.team?_setGang_frame (k : Nat) (d : Gang) (n : Nat) : (s.setGang k d).team? n = s.team? n := rfl
@[simp] theorem State.domain_setGroup_frame (k : Nat) (d : Group) (n : Nat) : (s.setGroup k d).domain n = s.domain n := rfl
@[simp] theorem State.vd_setGroup_frame (k : Nat) (d : Group) (n : Nat) : (s.setGroup k d).vd n = s.vd n := rfl
@[simp] theorem State.core_setGroup_frame (k : Nat) (d : Group) (n : Nat) : (s.setGroup k d).core n = s.core n := rfl
@[simp] theorem State.chan_setGroup_frame (k : Nat) (d : Group) (n : Nat) : (s.setGroup k d).chan n = s.chan n := rfl
@[simp] theorem State.welt_setGroup_frame (k : Nat) (d : Group) (n : Nat) : (s.setGroup k d).welt n = s.welt n := rfl
@[simp] theorem State.die_setGroup_frame (k : Nat) (d : Group) (n : Nat) : (s.setGroup k d).die n = s.die n := rfl
@[simp] theorem State.zone_setGroup_frame (k : Nat) (d : Group) (n : Nat) : (s.setGroup k d).zone n = s.zone n := rfl
@[simp] theorem State.queue_setGroup_frame (k : Nat) (d : Group) (n : Nat) : (s.setGroup k d).queue n = s.queue n := rfl
@[simp] theorem State.launch_setGroup_frame (k : Nat) (d : Group) (n : Nat) : (s.setGroup k d).launch n = s.launch n := rfl
@[simp] theorem State.gang_setGroup_frame (k : Nat) (d : Group) (n : Nat) : (s.setGroup k d).gang n = s.gang n := rfl
@[simp] theorem State.fam_setGroup_frame (k : Nat) (d : Group) (n : Nat) : (s.setGroup k d).fam n = s.fam n := rfl
@[simp] theorem State.link_setGroup_frame (k : Nat) (d : Group) (n : Nat) : (s.setGroup k d).link n = s.link n := rfl
@[simp] theorem State.team?_setGroup_frame (k : Nat) (d : Group) (n : Nat) : (s.setGroup k d).team? n = s.team? n := rfl
@[simp] theorem State.domain_setFam_frame (k : Nat) (d : Family) (n : Nat) : (s.setFam k d).domain n = s.domain n := rfl
@[simp] theorem State.vd_setFam_frame (k : Nat) (d : Family) (n : Nat) : (s.setFam k d).vd n = s.vd n := rfl
@[simp] theorem State.core_setFam_frame (k : Nat) (d : Family) (n : Nat) : (s.setFam k d).core n = s.core n := rfl
@[simp] theorem State.chan_setFam_frame (k : Nat) (d : Family) (n : Nat) : (s.setFam k d).chan n = s.chan n := rfl
@[simp] theorem State.welt_setFam_frame (k : Nat) (d : Family) (n : Nat) : (s.setFam k d).welt n = s.welt n := rfl
@[simp] theorem State.die_setFam_frame (k : Nat) (d : Family) (n : Nat) : (s.setFam k d).die n = s.die n := rfl
@[simp] theorem State.zone_setFam_frame (k : Nat) (d : Family) (n : Nat) : (s.setFam k d).zone n = s.zone n := rfl
@[simp] theorem State.queue_setFam_frame (k : Nat) (d : Family) (n : Nat) : (s.setFam k d).queue n = s.queue n := rfl
@[simp] theorem State.launch_setFam_frame (k : Nat) (d : Family) (n : Nat) : (s.setFam k d).launch n = s.launch n := rfl
@[simp] theorem State.gang_setFam_frame (k : Nat) (d : Family) (n : Nat) : (s.setFam k d).gang n = s.gang n := rfl
@[simp] theorem State.group_setFam_frame (k : Nat) (d : Family) (n : Nat) : (s.setFam k d).group n = s.group n := rfl
@[simp] theorem State.link_setFam_frame (k : Nat) (d : Family) (n : Nat) : (s.setFam k d).link n = s.link n := rfl
@[simp] theorem State.team?_setFam_frame (k : Nat) (d : Family) (n : Nat) : (s.setFam k d).team? n = s.team? n := rfl
@[simp] theorem State.domain_setTeam_frame (t : Team) (n : Nat) : (s.setTeam t).domain n = s.domain n := rfl
@[simp] theorem State.vd_setTeam_frame (t : Team) (n : Nat) : (s.setTeam t).vd n = s.vd n := rfl
@[simp] theorem State.core_setTeam_frame (t : Team) (n : Nat) : (s.setTeam t).core n = s.core n := rfl
@[simp] theorem State.chan_setTeam_frame (t : Team) (n : Nat) : (s.setTeam t).chan n = s.chan n := rfl
@[simp] theorem State.welt_setTeam_frame (t : Team) (n : Nat) : (s.setTeam t).welt n = s.welt n := rfl
@[simp] theorem State.die_setTeam_frame (t : Team) (n : Nat) : (s.setTeam t).die n = s.die n := rfl
@[simp] theorem State.zone_setTeam_frame (t : Team) (n : Nat) : (s.setTeam t).zone n = s.zone n := rfl
@[simp] theorem State.queue_setTeam_frame (t : Team) (n : Nat) : (s.setTeam t).queue n = s.queue n := rfl
@[simp] theorem State.launch_setTeam_frame (t : Team) (n : Nat) : (s.setTeam t).launch n = s.launch n := rfl
@[simp] theorem State.gang_setTeam_frame (t : Team) (n : Nat) : (s.setTeam t).gang n = s.gang n := rfl
@[simp] theorem State.group_setTeam_frame (t : Team) (n : Nat) : (s.setTeam t).group n = s.group n := rfl
@[simp] theorem State.fam_setTeam_frame (t : Team) (n : Nat) : (s.setTeam t).fam n = s.fam n := rfl
@[simp] theorem State.link_setTeam_frame (t : Team) (n : Nat) : (s.setTeam t).link n = s.link n := rfl
@[simp] theorem State.domain_dropTeam_frame (c : Nat) (n : Nat) : (s.dropTeam c).domain n = s.domain n := rfl
@[simp] theorem State.vd_dropTeam_frame (c : Nat) (n : Nat) : (s.dropTeam c).vd n = s.vd n := rfl
@[simp] theorem State.core_dropTeam_frame (c : Nat) (n : Nat) : (s.dropTeam c).core n = s.core n := rfl
@[simp] theorem State.chan_dropTeam_frame (c : Nat) (n : Nat) : (s.dropTeam c).chan n = s.chan n := rfl
@[simp] theorem State.welt_dropTeam_frame (c : Nat) (n : Nat) : (s.dropTeam c).welt n = s.welt n := rfl
@[simp] theorem State.die_dropTeam_frame (c : Nat) (n : Nat) : (s.dropTeam c).die n = s.die n := rfl
@[simp] theorem State.zone_dropTeam_frame (c : Nat) (n : Nat) : (s.dropTeam c).zone n = s.zone n := rfl
@[simp] theorem State.queue_dropTeam_frame (c : Nat) (n : Nat) : (s.dropTeam c).queue n = s.queue n := rfl
@[simp] theorem State.launch_dropTeam_frame (c : Nat) (n : Nat) : (s.dropTeam c).launch n = s.launch n := rfl
@[simp] theorem State.gang_dropTeam_frame (c : Nat) (n : Nat) : (s.dropTeam c).gang n = s.gang n := rfl
@[simp] theorem State.group_dropTeam_frame (c : Nat) (n : Nat) : (s.dropTeam c).group n = s.group n := rfl
@[simp] theorem State.fam_dropTeam_frame (c : Nat) (n : Nat) : (s.dropTeam c).fam n = s.fam n := rfl
@[simp] theorem State.link_dropTeam_frame (c : Nat) (n : Nat) : (s.dropTeam c).link n = s.link n := rfl
@[simp] theorem State.domain_modCore_frame (c : Nat) (f : Core → Core) (n : Nat) : (s.modCore c f).domain n = s.domain n := rfl
@[simp] theorem State.vd_modCore_frame (c : Nat) (f : Core → Core) (n : Nat) : (s.modCore c f).vd n = s.vd n := rfl
@[simp] theorem State.chan_modCore_frame (c : Nat) (f : Core → Core) (n : Nat) : (s.modCore c f).chan n = s.chan n := rfl
@[simp] theorem State.welt_modCore_frame (c : Nat) (f : Core → Core) (n : Nat) : (s.modCore c f).welt n = s.welt n := rfl
@[simp] theorem State.die_modCore_frame (c : Nat) (f : Core → Core) (n : Nat) : (s.modCore c f).die n = s.die n := rfl
@[simp] theorem State.zone_modCore_frame (c : Nat) (f : Core → Core) (n : Nat) : (s.modCore c f).zone n = s.zone n := rfl
@[simp] theorem State.queue_modCore_frame (c : Nat) (f : Core → Core) (n : Nat) : (s.modCore c f).queue n = s.queue n := rfl
@[simp] theorem State.launch_modCore_frame (c : Nat) (f : Core → Core) (n : Nat) : (s.modCore c f).launch n = s.launch n := rfl
@[simp] theorem State.gang_modCore_frame (c : Nat) (f : Core → Core) (n : Nat) : (s.modCore c f).gang n = s.gang n := rfl
@[simp] theorem State.group_modCore_frame (c : Nat) (f : Core → Core) (n : Nat) : (s.modCore c f).group n = s.group n := rfl
@[simp] theorem State.fam_modCore_frame (c : Nat) (f : Core → Core) (n : Nat) : (s.modCore c f).fam n = s.fam n := rfl
@[simp] theorem State.link_modCore_frame (c : Nat) (f : Core → Core) (n : Nat) : (s.modCore c f).link n = s.link n := rfl
@[simp] theorem State.team?_modCore_frame (c : Nat) (f : Core → Core) (n : Nat) : (s.modCore c f).team? n = s.team? n := rfl
@[simp] theorem State.domain_modGroup_frame (g : Nat) (f : Group → Group) (n : Nat) : (s.modGroup g f).domain n = s.domain n := rfl
@[simp] theorem State.vd_modGroup_frame (g : Nat) (f : Group → Group) (n : Nat) : (s.modGroup g f).vd n = s.vd n := rfl
@[simp] theorem State.core_modGroup_frame (g : Nat) (f : Group → Group) (n : Nat) : (s.modGroup g f).core n = s.core n := rfl
@[simp] theorem State.chan_modGroup_frame (g : Nat) (f : Group → Group) (n : Nat) : (s.modGroup g f).chan n = s.chan n := rfl
@[simp] theorem State.welt_modGroup_frame (g : Nat) (f : Group → Group) (n : Nat) : (s.modGroup g f).welt n = s.welt n := rfl
@[simp] theorem State.die_modGroup_frame (g : Nat) (f : Group → Group) (n : Nat) : (s.modGroup g f).die n = s.die n := rfl
@[simp] theorem State.zone_modGroup_frame (g : Nat) (f : Group → Group) (n : Nat) : (s.modGroup g f).zone n = s.zone n := rfl
@[simp] theorem State.queue_modGroup_frame (g : Nat) (f : Group → Group) (n : Nat) : (s.modGroup g f).queue n = s.queue n := rfl
@[simp] theorem State.launch_modGroup_frame (g : Nat) (f : Group → Group) (n : Nat) : (s.modGroup g f).launch n = s.launch n := rfl
@[simp] theorem State.gang_modGroup_frame (g : Nat) (f : Group → Group) (n : Nat) : (s.modGroup g f).gang n = s.gang n := rfl
@[simp] theorem State.fam_modGroup_frame (g : Nat) (f : Group → Group) (n : Nat) : (s.modGroup g f).fam n = s.fam n := rfl
@[simp] theorem State.link_modGroup_frame (g : Nat) (f : Group → Group) (n : Nat) : (s.modGroup g f).link n = s.link n := rfl
@[simp] theorem State.team?_modGroup_frame (g : Nat) (f : Group → Group) (n : Nat) : (s.modGroup g f).team? n = s.team? n := rfl
@[simp] theorem State.domain_modFam_frame (g : Nat) (f : Family → Family) (n : Nat) : (s.modFam g f).domain n = s.domain n := rfl
@[simp] theorem State.vd_modFam_frame (g : Nat) (f : Family → Family) (n : Nat) : (s.modFam g f).vd n = s.vd n := rfl
@[simp] theorem State.core_modFam_frame (g : Nat) (f : Family → Family) (n : Nat) : (s.modFam g f).core n = s.core n := rfl
@[simp] theorem State.chan_modFam_frame (g : Nat) (f : Family → Family) (n : Nat) : (s.modFam g f).chan n = s.chan n := rfl
@[simp] theorem State.welt_modFam_frame (g : Nat) (f : Family → Family) (n : Nat) : (s.modFam g f).welt n = s.welt n := rfl
@[simp] theorem State.die_modFam_frame (g : Nat) (f : Family → Family) (n : Nat) : (s.modFam g f).die n = s.die n := rfl
@[simp] theorem State.zone_modFam_frame (g : Nat) (f : Family → Family) (n : Nat) : (s.modFam g f).zone n = s.zone n := rfl
@[simp] theorem State.queue_modFam_frame (g : Nat) (f : Family → Family) (n : Nat) : (s.modFam g f).queue n = s.queue n := rfl
@[simp] theorem State.launch_modFam_frame (g : Nat) (f : Family → Family) (n : Nat) : (s.modFam g f).launch n = s.launch n := rfl
@[simp] theorem State.gang_modFam_frame (g : Nat) (f : Family → Family) (n : Nat) : (s.modFam g f).gang n = s.gang n := rfl
@[simp] theorem State.group_modFam_frame (g : Nat) (f : Family → Family) (n : Nat) : (s.modFam g f).group n = s.group n := rfl
@[simp] theorem State.link_modFam_frame (g : Nat) (f : Family → Family) (n : Nat) : (s.modFam g f).link n = s.link n := rfl
@[simp] theorem State.team?_modFam_frame (g : Nat) (f : Family → Family) (n : Nat) : (s.modFam g f).team? n = s.team? n := rfl

theorem State.team?_setTeam (t : Team) (c : Nat) :
    (s.setTeam t).team? c = if t.ctx = c then some t else s.team? c := by
  simp [State.team?, State.setTeam, Tbl.get?_set]

@[simp] theorem State.team?_setTeam_same (t : Team) : (s.setTeam t).team? t.ctx = some t := by
  simp [State.team?_setTeam]

theorem State.team?_setTeam_ne (t : Team) {c : Nat} (h : c ≠ t.ctx) :
    (s.setTeam t).team? c = s.team? c := by simp [State.team?_setTeam, Ne.symm h]

theorem State.team?_dropTeam (k c : Nat) :
    (s.dropTeam k).team? c = if c = k then none else s.team? c := by
  simp [State.team?, State.dropTeam, Tbl.get?_del]

theorem State.core_modCore (c n : Nat) (f : Core → Core) :
    (s.modCore c f).core n = if c = n then f (s.core c) else s.core n := by
  simp [State.modCore, State.core_setCore]

theorem State.group_modGroup (c n : Nat) (f : Group → Group) :
    (s.modGroup c f).group n = if c = n then f (s.group c) else s.group n := by
  simp [State.modGroup, State.group_setGroup]

theorem State.fam_modFam (c n : Nat) (f : Family → Family) :
    (s.modFam c f).fam n = if c = n then f (s.fam c) else s.fam n := by
  simp [State.modFam, State.fam_setFam]

@[simp] theorem State.group_modGroup_same (c : Nat) (f : Group → Group) :
    (s.modGroup c f).group c = f (s.group c) := by simp [State.group_modGroup]

@[simp] theorem State.fam_modFam_same (c : Nat) (f : Family → Family) :
    (s.modFam c f).fam c = f (s.fam c) := by simp [State.fam_modFam]

@[simp] theorem State.core_modCore_same (c : Nat) (f : Core → Core) :
    (s.modCore c f).core c = f (s.core c) := by simp [State.core_modCore]

end Sys2Proof.Machine
end

