-- ==== Sys2Proof/Laws/Frame.lean ====
section
/-! SUPPORT. Frames: what the shared operations on a team and its launched team leave alone, and how frames
compose. -/

namespace Sys2Proof.Machine

variable {s s' s'' : State} {t t' : Team}

/-! ### Teams and position -/

@[simp] theorem advance_ctx (t : Team) (n : Nat) : (t.advance n).ctx = t.ctx := by
  unfold Team.advance; split <;> rfl
@[simp] theorem advance_fam (t : Team) (n : Nat) : (t.advance n).fam = t.fam := by
  unfold Team.advance; split <;> rfl
@[simp] theorem advance_group (t : Team) (n : Nat) : (t.advance n).group = t.group := by
  unfold Team.advance; split <;> rfl
@[simp] theorem advance_lanes (t : Team) (n : Nat) : (t.advance n).lanes = t.lanes := by
  unfold Team.advance; split <;> rfl
@[simp] theorem advance_flags (t : Team) (n : Nat) : (t.advance n).flags = t.flags := by
  unfold Team.advance; split <;> rfl
@[simp] theorem advance_handler (t : Team) (n : Nat) : (t.advance n).handler = t.handler := by
  unfold Team.advance; split <;> rfl

/-- A core that gives up its team differs in nothing else. -/
theorem yieldCore_eq (s : State) (t : Team) :
    s.yieldCore t = { s with cores := (s.yieldCore t).cores } := rfl

@[simp] theorem yieldCore_team? (s : State) (t : Team) (c : Nat) : (s.yieldCore t).team? c = s.team? c := by
  rw [yieldCore_eq]; rfl

@[simp] theorem yieldCore_fam (s : State) (t : Team) (f : Nat) : (s.yieldCore t).fam f = s.fam f := by
  rw [yieldCore_eq]; rfl

theorem yieldCore_core (s : State) (t : Team) (c : Nat) :
    (s.yieldCore t).core c =
      { s.core c with running := ((s.yieldCore t).core c).running, cut := ((s.yieldCore t).core c).cut } := by
  unfold State.yieldCore
  rw [State.core_modCore]; split
  · subst_vars; rfl
  · rfl

/-- What putting a team back changes: the team, the pick of its core, the model's stamp. -/
theorem settle_eq (s : State) (t : Team) :
    s.settle t = { s with teams := (s.settle t).teams, cores := (s.settle t).cores, stamp := s.stamp + 1 } := by
  unfold State.settle State.stand; dsimp only
  split
  · rfl
  · rw [yieldCore_eq]; rfl

theorem settle_team? (s : State) (t : Team) (c : Nat) :
    (s.settle t).team? c = if t.ctx = c then some { t with last := s.stamp } else s.team? c := by
  have h (x : State) : (x.stand { t with last := s.stamp }).team? c = (x.setTeam { t with last := s.stamp }).team? c := by
    unfold State.stand; dsimp only
    split
    · rfl
    · exact yieldCore_team? _ _ _
  unfold State.settle
  rw [h, State.team?_setTeam]
  rfl

@[simp] theorem settle_fam (s : State) (t : Team) (f : Nat) : (s.settle t).fam f = s.fam f := by
  rw [settle_eq]; rfl

@[simp] theorem settle_group (s : State) (t : Team) (f : Nat) : (s.settle t).group f = s.group f := by
  rw [settle_eq]; rfl

@[simp] theorem settle_mem (s : State) (t : Team) : (s.settle t).mem = s.mem := by rw [settle_eq]

theorem settle_core (s : State) (t : Team) (c : Nat) :
    (s.settle t).core c = { s.core c with running := ((s.settle t).core c).running, cut := ((s.settle t).core c).cut } := by
  unfold State.settle State.stand; dsimp only
  split
  · rfl
  · exact yieldCore_core _ _ _

/-! ### Frames -/

theorem State.Frame.refl (s : State) (t : Team) : s.Frame s t :=
  ⟨rfl, fun _ => rfl, fun _ _ => rfl, fun _ _ => rfl, rfl, fun _ => rfl⟩

theorem State.Frame.trans (h : s.Frame s' t) (k : s'.Frame s'' t) : s.Frame s'' t where
  rest := by
    have h1 := h.rest
    have h2 := k.rest
    generalize s'.teams = a at *; generalize s'.fams = b at *
    generalize s'.cores = c at *; generalize s'.stamp = d at *
    rw [h1] at h2; exact h2
  bytes a := (k.bytes a).trans (h.bytes a)
  teams c hc := (k.teams c hc).trans (h.teams c hc)
  fams f hf := (k.fams f hf).trans (h.fams f hf)
  fam := by
    have h1 := h.fam
    have h2 := k.fam
    generalize (s'.fam t.fam).cells = a at *; generalize (s'.fam t.fam).q = b at *
    rw [h1] at h2; exact h2
  cores c := by
    have h1 := h.cores c
    have h2 := k.cores c
    generalize (s'.core c).running = a at *; generalize (s'.core c).cut = b at *
    rw [h1] at h2; exact h2

theorem State.Frame.setTeam (h : t'.ctx = t.ctx) : s.Frame (s.setTeam t') t :=
  ⟨rfl, fun _ => rfl, fun c hc => State.team?_setTeam_ne s t' (by simpa [h] using hc), fun _ _ => rfl, rfl,
    fun _ => rfl⟩

theorem State.Frame.settle (h : t'.ctx = t.ctx) : s.Frame (s.settle t') t where
  rest := by
    have hs : (s.settle t').stamp = s.stamp + 1 := by rw [settle_eq]
    have hf : (s.settle t').fams = s.fams := by rw [settle_eq]
    rw [hs, hf]
    exact settle_eq s t'
  bytes a := by rw [settle_eq]
  teams c hc := by rw [settle_team?, if_neg]; rw [h]; exact Ne.symm hc
  fams f _ := settle_fam s t' f
  fam := by rw [settle_fam]
  cores c := settle_core s t' c

theorem State.Frame.writeUni (ctx r : Nat) (v : Word) : s.Frame (s.writeUni t.fam ctx r v) t where
  rest := rfl
  bytes _ := rfl
  teams _ _ := rfl
  fams f hf := by simp [State.writeUni, State.fam_modFam, Ne.symm hf]
  fam := by simp [State.writeUni]
  cores _ := rfl

theorem State.Frame.writeRegs (ctx : Nat) (r : Reg) (n : Nat) (v : DWord) :
    s.Frame (s.writeRegs t.fam ctx r n v) t := by
  unfold State.writeRegs
  split
  · exact State.Frame.refl s t
  · dsimp only
    split
    · exact (State.Frame.writeUni ctx _ _).trans (State.Frame.writeUni ctx _ _)
    · exact State.Frame.writeUni ctx _ _

theorem State.Frame.writeQ (ctx n : Nat) (b : Bool) : s.Frame (s.writeQ t.fam ctx n b) t := by
  unfold State.writeQ
  split
  · exact State.Frame.refl s t
  · exact ⟨rfl, fun _ => rfl, fun _ _ => rfl, fun f hf => by simp [State.fam_modFam, Ne.symm hf], by simp,
      fun _ => rfl⟩

/-! ### Uniform registers left alone -/

theorem State.KeepsUni.of_fam (h : s'.fam t.fam = s.fam t.fam) (rs qs : List Nat) : s.KeepsUni s' t rs qs :=
  ⟨fun k _ => by rw [h], fun k _ => by rw [h]⟩

theorem State.KeepsUni.trans {rs qs : List Nat} (h : s.KeepsUni s' t rs qs) (k : s'.KeepsUni s'' t rs qs) :
    s.KeepsUni s'' t rs qs :=
  ⟨fun r hr => (k.cells r hr).trans (h.cells r hr), fun r hr => (k.q r hr).trans (h.q r hr)⟩

theorem State.KeepsUni.writeUni {rs qs : List Nat} {r : Nat} (hr : r ∈ rs) (ctx : Nat) (v : Word) :
    s.KeepsUni (s.writeUni t.fam ctx r v) t rs qs where
  cells k hk := by
    have : r ≠ k := fun h => hk (h ▸ hr)
    simp [State.writeUni, Tbl.upd, Tbl.get_set, this]
  q k _ := by simp [State.writeUni]

theorem State.KeepsUni.writeQ {rs qs : List Nat} {r : Nat} (hr : r ∈ qs) (ctx : Nat) (v : Bool) :
    s.KeepsUni (s.writeQ t.fam ctx r v) t rs qs := by
  unfold State.writeQ
  split
  · exact State.KeepsUni.of_fam rfl _ _
  · refine ⟨fun k _ => by simp, fun k hk => ?_⟩
    have : r ≠ k := fun h => hk (h ▸ hr)
    simp [Tbl.upd, Tbl.get_set, this]

end Sys2Proof.Machine
end

