-- ==== Sys2Proof/Laws/Issue.lean ====
section
/-! SUPPORT. What the issue of a register instruction can do: whose turn it is, reading operands where each
uniform value has one value, the checks of R51, and the effect on registers, flags and position. -/

namespace Sys2Proof.Machine

/-! ### The agent that issues -/

/-- An instruction of a team that has its turn is carried out for that team. -/
theorem byAgent_team {s : State} {t : Team} (h : s.Runs t) (i : Instr) (f : State → Team → State)
    (e : State → Nat → Nat → State) :
    s.byAgent i f e = f (s.setTeam (t.issuing i)) (t.issuing i) := by
  simp [State.byAgent, h.turn, h.here]

theorem byTeam_team {s : State} {t : Team} (h : s.Runs t) (i : Instr) (f : State → Team → State) :
    s.byTeam i f = f (s.setTeam (t.issuing i)) (t.issuing i) := byAgent_team h i f _

/-- Without an open span an instruction aborts no transaction as it issues (R187). -/
theorem issuing_of_no_span {t : Team} (h : t.span = none) (i : Instr) : t.issuing i = t := by
  simp [Team.issuing, h]

/-- An instruction that R187 does not name leaves the transactions of its team alone. -/
theorem issuing_of_opc {t : Team} {i : Instr} (h : abortsSpan (opcOf i) = false) : t.issuing i = t := by
  simp [Team.issuing, h]

/-! ### Reading where there is one value to read -/

@[simp] theorem readUni_quiet {s : State} {t : Team} (h : s.Quiet t) (k : Nat) :
    s.readUni t.fam t.ctx k = (s.uni t k, s) := by
  simp [State.readUni, State.uni, h.cells k]

@[simp] theorem readQ_quiet {s : State} {t : Team} (h : s.Quiet t) (k : Nat) :
    s.readQ t.fam t.ctx k = (s.qVal t k, s) := by
  unfold State.readQ State.qVal
  by_cases hk : k = 0
  · simp [hk]
  · simp [hk, h.q k]

@[simp] theorem qPred_quiet {s : State} {t : Team} (h : s.Quiet t) (p : Pred) :
    s.qPred t p = (s.qHolds t p, s) := by
  simp [State.qPred, State.qHolds, h]

theorem readPair_quiet {s : State} {t : Team} (h : s.Quiet t) (r : Reg) :
    s.readPair t r = (s.uniVal t r 2, s) := by
  unfold State.readPair State.uniVal
  by_cases hr : r = Reg.z
  · simp [hr]
  · simp [hr, h]

theorem readOne_quiet {s : State} {t : Team} (h : s.Quiet t) (r : Reg) :
    s.readOne t r = ((s.uniVal t r 1).setWidth 32, s) := by
  unfold State.readOne State.uniVal
  by_cases hr : r = Reg.z
  · simp [hr]
  · simp [hr, h]

/-- What is quiet stays quiet where registers and q predicates are the same. -/
theorem Quiet.congr {s s' : State} {t : Team} (h : s.Quiet t) (hf : s'.fam t.fam = s.fam t.fam) : s'.Quiet t :=
  ⟨fun k => hf ▸ h.cells k, fun k => hf ▸ h.q k⟩

/-! ### Uniform writes -/

theorem view_put (c : Cell) (ctx : Nat) (sib : Bool) (v : Word) : (c.put ctx sib v).view ctx 0 = v := by
  unfold Cell.put Cell.view
  cases sib <;> simp

theorem fam_writeUni (s : State) (f ctx r : Nat) (v : Word) (n : Nat) (h : n ≠ f) :
    (s.writeUni f ctx r v).fam n = s.fam n := by
  simp [State.writeUni, State.fam_modFam, Ne.symm h]

theorem cell_writeUni (s : State) (f ctx r k : Nat) (v : Word) :
    Tbl.get zeroCell ((s.writeUni f ctx r v).fam f).cells k
      = if r = k then (Tbl.get zeroCell (s.fam f).cells r).put ctx (s.hasSiblings f) v
        else Tbl.get zeroCell (s.fam f).cells k := by
  simp [State.writeUni, Tbl.upd, Tbl.get_set]

theorem fam_writeUni_same (s : State) (f ctx r : Nat) (v : Word) :
    (s.writeUni f ctx r v).fam f
      = { s.fam f with cells := ((s.writeUni f ctx r v).fam f).cells } := by
  simp [State.writeUni]

theorem fam_writeQ (s : State) (f ctx r : Nat) (v : Bool) (n : Nat) (h : n ≠ f) :
    (s.writeQ f ctx r v).fam n = s.fam n := by
  unfold State.writeQ; split
  · rfl
  · simp [State.fam_modFam, Ne.symm h]

theorem q_writeQ (s : State) (f ctx r k : Nat) (v : Bool) (hr : r ≠ 0) :
    Tbl.get zeroCell ((s.writeQ f ctx r v).fam f).q k
      = if r = k then (Tbl.get zeroCell (s.fam f).q r).put ctx (s.hasSiblings f) (if v then 1 else 0)
        else Tbl.get zeroCell (s.fam f).q k := by
  simp [State.writeQ, hr, Tbl.upd, Tbl.get_set]

/-! ### The checks of R51 -/

/-- Nothing that the form names makes it trap (R51). -/
structure OpDesc.Fits (d : OpDesc) (f : Form) (g : List DWord → DWord × Flags) : Prop where
  pred  : d.pred = f.pred
  dst   : d.dst = f.dst
  dst2  : d.dst2 = none
  srcs  : d.srcs = f.srcs
  rule  : d.rule = .anyMem ∨ d.rule = .anyCore
  uni   : d.uniform = []
  core  : d.core = []
  l2u   : d.laneToUni = false
  body  : d.body = .elem g
  noLit : ∀ r n, f.dst = .reg r n → r ≠ Reg.lit
  pos   : ∀ x ∈ f.regs, 0 < x.2

theorem loc_of_kind {e : PlaceEnt} (h : e.kind = .lane ∨ e.kind = .team) :
    e.loc = if e.kind = .lane then .lane else .team := by
  rcases h with h | h <;> simp [PlaceEnt.loc, h]

theorem regs_of_fits {d : OpDesc} {f : Form} {g} (h : d.Fits f g) : d.regs = f.regs := by
  simp [OpDesc.regs, Form.regs, h.dst, h.dst2, h.srcs]

theorem preds_of_fits {d : OpDesc} {f : Form} {g} (h : d.Fits f g) (uni : Bool) : d.preds uni = f.preds uni := by
  simp only [OpDesc.preds, Form.preds, h.dst, h.dst2, h.srcs, h.pred]
  cases f.dst <;> simp <;> congr 1

theorem mem_self_regNums {r : Reg} {n : Nat} (hn : 0 < n) (hr : Reg.noName r = false) :
    r.toNat ∈ regNums r n := by
  have h : ¬(r = Reg.z ∨ r = Reg.lit) := by simpa [Reg.noName] using hr
  simp only [regNums, Bool.or_eq_true, decide_eq_true_eq, h, if_false, List.mem_map, List.mem_range]
  exact ⟨0, hn, by simp⟩

/-- Registers that are placed at the core, none pending (R42, R51, R59). -/
structure AtCore (s : State) (t : Team) (rs : List (Reg × Nat)) : Prop where
  placed : ∀ x ∈ rs, ∀ k ∈ regNums x.1 x.2, k < 254 ∧ (s.entry t k).kind = (s.entry t x.1.toNat).kind
    ∧ ((s.entry t k).kind = .lane ∨ (s.entry t k).kind = .team)
  ready  : ∀ e ∈ t.pend, t.own e.1 = true → ∀ x ∈ rs, e.2.toNat ∉ regNums x.1 x.2
  pos    : ∀ x ∈ rs, 0 < x.2

section
variable {s : State} {t : Team} {rs : List (Reg × Nat)}

theorem locOf_lane (c : AtCore s t rs) {x : Reg × Nat} (hx : x ∈ rs) :
    s.locOf t x.1 = if Reg.noName x.1 then .imm else if (s.entry t x.1.toNat).kind = .lane then .lane else .team := by
  unfold State.locOf Reg.noName
  by_cases h : (x.1 = Reg.z || x.1 = Reg.lit) = true
  · simp [h]
  · have hn : Reg.noName x.1 = false := by simpa [Reg.noName] using h
    have := c.placed x hx _ (mem_self_regNums (c.pos x hx) hn)
    simp only [h]
    exact loc_of_kind this.2.2

theorem anyNone_clear (c : AtCore s t rs) : s.anyNone t rs = false := by
  refine List.any_eq_false.2 fun x hx => ?_
  simp only [Bool.not_eq_true]
  refine List.any_eq_false.2 fun k hk => ?_
  obtain ⟨hlt, -, hk2⟩ := c.placed x hx k hk
  have hne : (Tbl.get noPlace (s.fam t.fam).map k).kind ≠ .none := by
    intro h
    simp only [State.entry, h] at hk2
    simp at hk2
  simp [hne]
  omega

theorem anyPend_clear (c : AtCore s t rs) : t.anyPend rs = false := by
  refine List.any_eq_false.2 fun x hx => ?_
  simp only [Bool.not_eq_true]
  refine List.any_eq_false.2 fun k hk => ?_
  simp only [Bool.not_eq_true]
  refine List.any_eq_false.2 fun e he => ?_
  have hlt := (c.placed x hx k hk).1
  simp only [Bool.and_eq_true, beq_iff_eq, not_and]
  intro heq ho
  refine c.ready e he ho x hx ?_
  rw [heq]
  simpa [Nat.mod_eq_of_lt (show k < 256 by omega)] using hk

theorem anyApart_clear (c : AtCore s t rs) : s.anyApart t rs = false := by
  refine List.any_eq_false.2 fun x hx => ?_
  simp only [Bool.not_eq_true]
  refine List.any_eq_false.2 fun k hk => ?_
  have hn : Reg.noName x.1 = false := by
    by_contra h
    have h' : Reg.noName x.1 = true := by simpa using h
    simp only [Reg.noName] at h'
    simp [regNums, h'] at hk
  rw [locOf_lane c hx, hn]
  obtain ⟨-, hk1, hk2⟩ := c.placed x hx k hk
  have : (Tbl.get noPlace (s.fam t.fam).map k).loc = (s.entry t k).loc := rfl
  rw [this, loc_of_kind hk2, hk1]
  simp

/-- No predicate of a list is pending (R114). -/
theorem predPend_clear {ps : List (Bool × Nat)}
    (h : ∀ e ∈ t.pendP, t.own e.1 = true → ∀ p ∈ ps, e.2 ≠ predKey p.1 p.2) :
    ps.any (fun p => t.predPend p.1 p.2) = false := by
  refine List.any_eq_false.2 fun p hp => ?_
  simp only [Bool.not_eq_true]
  refine List.any_eq_false.2 fun e he => ?_
  simp only [Bool.and_eq_true, beq_iff_eq, not_and]
  intro heq ho
  exact h e he ho p hp heq

/-- Where a source lives that lies at the core, if not at LANE. -/
def Src.elsewhere : Src → Loc
  | .reg r _ _ => if Reg.noName r then .imm else .team
  | .pcode _ => .team
  | .sel _ => .imm

theorem Src.elsewhere_cases (x : Src) : x.elsewhere = .imm ∨ x.elsewhere = .team := by
  cases x with
  | reg r n l => by_cases h : Reg.noName r = true <;> simp [Src.elsewhere, h]
  | pcode q => simp [Src.elsewhere]
  | sel p => simp [Src.elsewhere]

theorem srcLoc_clear (c : AtCore s t rs) {x : Src} (hx : ∀ y ∈ x.regs, y ∈ rs) :
    s.srcLoc t x = if srcAtLane s t x then .lane else x.elsewhere := by
  cases x with
  | reg r n lit =>
    have hm : (r, n) ∈ rs := hx _ (by simp [Src.regs])
    simp only [State.srcLoc, srcAtLane, locOf_lane c hm, Src.elsewhere]
    by_cases h : Reg.noName r = true <;> simp [h]
  | pcode q => cases h : pcodeQ q <;> simp [State.srcLoc, srcAtLane, Src.elsewhere, h]
  | sel p => simp [State.srcLoc, srcAtLane, Src.elsewhere]

theorem srcs_noBank (c : AtCore s t rs) {l : List Src} (hl : ∀ x ∈ l, ∀ y ∈ x.regs, y ∈ rs) :
    l.any (fun x => (s.srcLoc t x).isBank) = false := by
  refine List.any_eq_false.2 fun x hx => ?_
  rw [srcLoc_clear c (hl x hx)]
  by_cases hl : srcAtLane s t x = true
  · simp [hl, Loc.isBank]
  · rcases x.elsewhere_cases with he | he <;> simp [hl, he, Loc.isBank]

end

theorem Form.mem_regs {f : Form} {x : Src} (hx : x ∈ f.srcs) : ∀ y ∈ x.regs, y ∈ f.regs := by
  intro y hy
  simp only [Form.regs, List.mem_append, List.mem_flatMap]
  exact .inr ⟨x, hx, hy⟩

theorem Form.Clear.atCore {s : State} {t : Team} {f : Form} (c : f.Clear s t) (hp : ∀ x ∈ f.regs, 0 < x.2) :
    AtCore s t f.regs := ⟨c.placed, c.ready, hp⟩

theorem execLoc_clear {s : State} {t : Team} {d : OpDesc} {f : Form} {g} (h : d.Fits f g) (c : f.Clear s t) :
    s.execLoc t d = if f.atLane s t then .lane else .team := by
  unfold State.execLoc Form.atLane
  rw [h.dst, h.srcs]
  cases hd : f.dst with
  | pcode q => cases hq : pcodeQ q <;> simp [hq]
  | reg r n =>
    by_cases hr : r = Reg.z
    · simp only [hr, if_true]
      cases hs : f.srcs with
      | nil => simp
      | cons x xs =>
        simp only [List.head?_cons, Option.elim]
        rw [srcLoc_clear (c.atCore h.pos) (Form.mem_regs (by rw [hs]; simp))]
        by_cases hl : srcAtLane s t x = true
        · simp [hl]
        · rcases x.elsewhere_cases with he | he <;> simp [hl, he]
    · have hm : (r, n) ∈ f.regs := by simp [Form.regs, Dst.regs, hd]
      have hn : Reg.noName r = false := by simp [Reg.noName, hr, h.noLit r n hd]
      simp only [hr, if_false]
      have := locOf_lane (c.atCore h.pos) hm
      simp only [hn] at this
      rw [this]
      simp

theorem descCause_clear {s : State} {t : Team} {d : OpDesc} {f : Form} {g} (h : d.Fits f g) (c : f.Clear s t) :
    s.descCause t d = none := by
  have hex := execLoc_clear h c
  have hu : (s.execLoc t d).uniform = !f.atLane s t := by
    rw [hex]; cases f.atLane s t <;> rfl
  have hplace : s.descPlace t d (s.execLoc t d) = false := by
    have hsrc : d.srcs.any (fun x => (s.srcLoc t x).isBank) = false := by
      rw [h.srcs]; exact srcs_noBank (c.atCore h.pos) (fun x hx => Form.mem_regs hx)
    have hr : (d.rule == DstRule.lanePlace) = false := by rcases h.rule with h | h <;> rw [h] <;> rfl
    simp only [State.descPlace, regs_of_fits h, anyApart_clear (c.atCore h.pos), hsrc, h.core, h.dst2, hex, hr]
    cases f.atLane s t <;> simp [Loc.isMem, Loc.isBank]
  have hshape : s.descShape t d (s.execLoc t d) = false := by
    have hr : (d.rule == DstRule.laneShape) = false := by rcases h.rule with h | h <;> rw [h] <;> rfl
    simp only [State.descShape, h.uni, h.l2u, hr, hu, h.srcs]
    cases hl : f.atLane s t
    · have : f.srcs.any (fun x => s.srcLoc t x == .lane) = false := by
        refine List.any_eq_false.2 fun x hx => ?_
        rw [srcLoc_clear (c.atCore h.pos) (Form.mem_regs hx), c.shape hl x hx]
        rcases x.elsewhere_cases with he | he <;> simp [he]
      simp [this]
    · simp
  simp only [State.descCause, firstCause, regs_of_fits h, anyNone_clear (c.atCore h.pos),
    anyPend_clear (c.atCore h.pos), hu, preds_of_fits h, predPend_clear c.readyP, hplace, hshape]
  simp

/-! ### Operands -/

/-- What is read of a source at issue: nothing where each lane has its own value. -/
def State.atIssue (s : State) (t : Team) (uni : Bool) (x : Src) : Option DWord :=
  match x with
  | .sel p => if uni then some (boolOp (s.qHolds t p)) else none
  | x => if srcAtLane s t x then none else some (s.uniSrc t x)

theorem readSrc_clear {s : State} {t : Team} {rs : List (Reg × Nat)} (c : AtCore s t rs) (hq : s.Quiet t)
    (uni : Bool) {x : Src} (hx : ∀ y ∈ x.regs, y ∈ rs) : s.readSrc t uni x = (s.atIssue t uni x, s) := by
  cases x with
  | sel p => cases uni <;> simp [State.readSrc, State.atIssue, hq]
  | pcode q => cases h : pcodeQ q <;> simp [State.readSrc, State.atIssue, srcAtLane, State.uniSrc, h, hq]
  | reg r n lit =>
    have hl := locOf_lane c (hx (r, n) (by simp [Src.regs]))
    simp only at hl
    by_cases h1 : r = Reg.lit
    · simp [State.readSrc, State.atIssue, srcAtLane, State.uniSrc, Reg.noName, h1]
    by_cases h2 : r = Reg.z
    · simp [State.readSrc, State.atIssue, srcAtLane, State.uniSrc, State.uniVal, Reg.noName, h2, Reg.z, Reg.lit]
    have hn : Reg.noName r = false := by simp [Reg.noName, h1, h2]
    by_cases hk : (s.entry t r.toNat).kind = .lane
    · simp [State.readSrc, State.atIssue, srcAtLane, h1, h2, hl, hn, hk]
    · by_cases h3 : n = 2
      · simp [State.readSrc, State.atIssue, srcAtLane, State.uniSrc, h1, h2, hl, hn, hk, h3, readPair_quiet hq]
      · simp [State.readSrc, State.atIssue, srcAtLane, State.uniSrc, h1, h2, hl, hn, hk, h3,
          readOne_quiet hq, State.uniVal]

theorem readSrcs_clear {s : State} {t : Team} {rs : List (Reg × Nat)} (c : AtCore s t rs) (hq : s.Quiet t)
    (uni : Bool) (l : List Src) (hl : ∀ x ∈ l, ∀ y ∈ x.regs, y ∈ rs) :
    s.readSrcs t uni l = (l.map (s.atIssue t uni), s) := by
  induction l with
  | nil => rfl
  | cons x xs ih =>
    simp only [State.readSrcs, readSrc_clear c hq uni (hl x (by simp)), ih (fun y hy => hl y (by simp [hy])),
      List.map_cons]

/-- The operands that a lane takes into the instruction. -/
theorem laneOps_clear (s : State) (t : Team) (l : Lane) (srcs : List Src) :
    laneOps l srcs (srcs.map (s.atIssue t false)) = srcs.map (s.laneSrc t l) := by
  induction srcs with
  | nil => rfl
  | cons x xs ih =>
    simp only [laneOps, List.map_cons, List.zip_cons_cons] at ih ⊢
    rw [ih]
    congr 1
    cases x with
    | sel p => simp [State.atIssue, laneSrc, State.laneSrc]
    | pcode q => cases h : pcodeQ q <;> simp [State.atIssue, laneSrc, State.laneSrc, srcAtLane, State.uniSrc, h]
    | reg r n lit =>
      cases h : srcAtLane s t (.reg r n lit) <;> simp [State.atIssue, laneSrc, State.laneSrc, State.uniSrc, h]

theorem uniOps_clear {s : State} {t : Team} {f : Form} (c : f.Clear s t) (h : f.atLane s t = false) :
    (f.srcs.map (s.atIssue t true)).map (fun v => v.getD 0) = f.srcs.map (s.uniSrc t) := by
  rw [List.map_map]
  refine List.map_congr_left fun x hx => ?_
  have := c.shape h x hx
  cases x <;> simp_all [State.atIssue, State.uniSrc]

theorem descFetches_clear {s : State} {t : Team} {d : OpDesc} {rs : List (Reg × Nat)} (c : AtCore s t rs)
    (hd : ∀ x ∈ d.srcs, ∀ y ∈ x.regs, y ∈ rs) : s.descFetches t d = [] := by
  simp only [State.descFetches, List.flatMap_eq_nil_iff]
  rintro ⟨x, i⟩ hx
  have hx := (List.of_mem_zip hx).1
  cases x with
  | sel p => rfl
  | pcode q => rfl
  | reg r n lit =>
    have hl := locOf_lane c (hd _ hx (r, n) (by simp [Src.regs]))
    simp only at hl
    simp only [State.fetchesOf, hl]
    by_cases hn : Reg.noName r = true
    · simp [hn]
    · by_cases hk : (s.entry t r.toNat).kind = .lane <;> simp [hn, hk]

/-! ### The effect -/

/-- A team that is there moves on. -/
theorem advance_some {s : State} {t : Team} (h : s.team? t.ctx = some t) (n : Nat) :
    s.advance t.ctx n = s.settle (t.advance n) := by simp [State.advance, h]

theorem State.MovedOn.advance {s s1 : State} {t t1 : Team} (h : s1.team? t.ctx = some t1) (hc : t1.ctx = t.ctx)
    (hs : s1.stamp = s.stamp) : s.MovedOn (s1.advance t.ctx 1) t t1 := by
  simp only [State.MovedOn, State.advance, h, settle_team?, advance_ctx, hc, if_true, hs]

theorem State.Frame.advance {s : State} {t t1 : Team} (h : s.team? t.ctx = some t1) (hc : t1.ctx = t.ctx) (n : Nat) :
    s.Frame (s.advance t.ctx n) t := by
  simp only [State.advance, h]
  exact State.Frame.settle (by simp [hc])

theorem State.KeepsUni.advance {s : State} {t : Team} (ctx n : Nat) (rs qs : List Nat) :
    s.KeepsUni (s.advance ctx n) t rs qs := by
  refine State.KeepsUni.of_fam ?_ rs qs
  unfold State.advance
  split
  · exact settle_fam _ _ _
  · rfl

theorem uni_writeUni (s : State) (t : Team) (r k : Nat) (v : Word) :
    (s.writeUni t.fam t.ctx r v).uni t k = if r = k then v else s.uni t k := by
  unfold State.uni
  rw [cell_writeUni]
  split
  · subst_vars; exact view_put _ _ _ _
  · rfl

theorem halves (v : DWord) : (v >>> 32).setWidth 32 ++ v.setWidth 32 = v := by
  ext i hi
  simp only [BitVec.getElem_append, BitVec.getElem_setWidth, BitVec.getLsbD_ushiftRight]
  split
  · exact BitVec.getLsbD_eq_getElem hi
  · rw [show 32 + (i - 32) = i by omega]; exact BitVec.getLsbD_eq_getElem hi

theorem low_half (v : DWord) : (v.setWidth 32).setWidth 64 = v &&& 0xFFFF_FFFF := by
  apply BitVec.eq_of_toNat_eq
  simp only [BitVec.toNat_setWidth, BitVec.toNat_and]
  have : BitVec.toNat (0xFFFF_FFFF : DWord) = 2 ^ 32 - 1 := rfl
  rw [this, Nat.and_two_pow_sub_one_eq_mod]
  omega

theorem uniVal_writeRegs (s : State) (t : Team) {r : Reg} (hr : r ≠ Reg.z) (n : Nat) (v : DWord) :
    (s.writeRegs t.fam t.ctx r n v).uniVal t r n = cut n v := by
  simp only [State.writeRegs, State.uniVal, hr, if_false, cut]
  by_cases h : n = 2
  · rw [if_pos h, if_pos h, if_pos h, uni_writeUni, if_pos rfl, uni_writeUni, if_neg (Nat.succ_ne_self _),
      uni_writeUni, if_pos rfl]
    exact halves v
  · rw [if_neg h, if_neg h, if_neg h, uni_writeUni, if_pos rfl]
    exact low_half v

theorem qVal_writeQ (s : State) (t : Team) {n : Nat} (hn : n ≠ 0) (b : Bool) :
    (s.writeQ t.fam t.ctx n b).qVal t n = b := by
  unfold State.qVal
  rw [q_writeQ s t.fam t.ctx n n b hn, if_pos rfl, view_put, beq_false_of_ne hn]
  cases b <;> rfl

theorem uniVal_congr {s s' : State} {t : Team} (h : s'.fam t.fam = s.fam t.fam) (r : Reg) (n : Nat) :
    s'.uniVal t r n = s.uniVal t r n := by
  unfold State.uniVal State.uni; rw [h]

theorem qVal_congr {s s' : State} {t : Team} (h : s'.fam t.fam = s.fam t.fam) (n : Nat) :
    s'.qVal t n = s.qVal t n := by
  unfold State.qVal; rw [h]

theorem regNums_eq {r : Reg} (h1 : r ≠ Reg.z) (h2 : r ≠ Reg.lit) (n : Nat) :
    regNums r n = (List.range n).map (fun i => r.toNat + i) := by simp [regNums, h1, h2]

theorem State.KeepsUni.writeRegs {s : State} {t : Team} {r : Reg} {n : Nat} (h2 : r ≠ Reg.lit) (hn : 0 < n)
    (v : DWord) (qs : List Nat) : s.KeepsUni (s.writeRegs t.fam t.ctx r n v) t (regNums r n) qs := by
  unfold State.writeRegs
  split
  · exact State.KeepsUni.of_fam rfl _ _
  · rename_i h1
    rw [regNums_eq h1 h2]
    dsimp only
    split
    · subst_vars
      refine State.KeepsUni.trans (State.KeepsUni.writeUni ?_ _ _) (State.KeepsUni.writeUni ?_ _ _) <;>
        simp [List.range_succ]
    · refine State.KeepsUni.writeUni ?_ _ _
      simp only [List.mem_map, List.mem_range]
      exact ⟨0, hn, by simp⟩

@[simp] theorem writeRegs_team? (s : State) (f ctx : Nat) (r : Reg) (n : Nat) (v : DWord) (c : Nat) :
    (s.writeRegs f ctx r n v).team? c = s.team? c := by
  unfold State.writeRegs; split
  · rfl
  · dsimp only; split <;> rfl

@[simp] theorem writeRegs_stamp (s : State) (f ctx : Nat) (r : Reg) (n : Nat) (v : DWord) :
    (s.writeRegs f ctx r n v).stamp = s.stamp := by
  unfold State.writeRegs; split
  · rfl
  · dsimp only; split <;> rfl

@[simp] theorem writeQ_team? (s : State) (f ctx n : Nat) (b : Bool) (c : Nat) :
    (s.writeQ f ctx n b).team? c = s.team? c := by unfold State.writeQ; split <;> rfl

@[simp] theorem writeQ_stamp (s : State) (f ctx n : Nat) (b : Bool) : (s.writeQ f ctx n b).stamp = s.stamp := by
  unfold State.writeQ; split <;> rfl

theorem advance_fam_eq (s : State) (ctx n f : Nat) : (s.advance ctx n).fam f = s.fam f := by
  unfold State.advance; split
  · exact settle_fam _ _ _
  · rfl

theorem modTeam_some {s : State} {t : Team} (h : s.team? t.ctx = some t) (f : Team → Team) :
    s.modTeam t.ctx f = s.setTeam { f t with ctx := t.ctx } := by simp [State.modTeam, h]

theorem lanesIn_lane {t : Team} {d : OpDesc} {f : Form} {g} (h : d.Fits f g) (s : State) :
    (lanesIn t d false (f.srcs.map (s.atIssue t false))).filter (fun l => l.act)
      = (t.active f.pred).map (fun l => laneInOf d (f.srcs.map (s.atIssue t false)) true l) := by
  simp only [lanesIn, h.body, h.pred, Bool.false_or, List.filter_map, Team.active]
  have : ((fun (l : LaneIn) => l.act) ∘ fun l => laneInOf d (f.srcs.map (s.atIssue t false)) (lanePred l f.pred) l)
      = fun l => lanePred l f.pred := rfl
  rw [this]
  refine List.map_congr_left fun l hl => ?_
  rw [(List.mem_filter.1 hl).2]

theorem run_lane {t : Team} {d : OpDesc} {f : Form} {g} (h : d.Fits f g) (s : State) (e0 : Nat) :
    d.run false e0 (lanesIn t d false (f.srcs.map (s.atIssue t false))) = some
      { lanes := (t.active f.pred).map (fun l => ⟨l.vid, (g (f.srcs.map (s.laneSrc t l))).1, false⟩)
        val := 0, flag := false
        flags := joinFlags ((t.active f.pred).map (fun l => (g (f.srcs.map (s.laneSrc t l))).2)) } := by
  simp only [OpDesc.run, h.body, lanesIn_lane h s, List.map_map, joinFlags, List.foldl_map]
  simp only [laneInOf, h.srcs, Function.comp_def, laneOps_clear]
  simp

theorem writeLaneOut_put {t : Team} {d : OpDesc} {f : Form} {g} (h : d.Fits f g) (v : Lane → DWord) (l : Lane) :
    writeLaneOut d ((t.active f.pred).map (fun l => ⟨l.vid, v l, false⟩)) l
      = match t.activeLike f.pred l with
        | some a => l.put f.dst (v a)
        | none => l := by
  simp only [writeLaneOut, List.find?_map, h.dst2, h.dst, Team.activeLike, Function.comp_def]
  cases (t.active f.pred).find? (fun a => a.vid == l.vid) with
  | none => rfl
  | some a => cases hd : f.dst <;> simp [Lane.put]

/-- Whether a lane of those that a form reads is active. -/
theorem any_lanesIn {t : Team} {d : OpDesc} {f : Form} {g} (h : d.Fits f g) (s : State) :
    (lanesIn t d false (f.srcs.map (s.atIssue t false))).any (fun l => l.act) = !(t.active f.pred).isEmpty := by
  have e := congrArg List.isEmpty (lanesIn_lane (t := t) h s)
  rw [List.isEmpty_map] at e
  rw [← e]
  generalize lanesIn t d false (f.srcs.map (s.atIssue t false)) = ls
  induction ls with
  | nil => rfl
  | cons l ls ih => cases ha : l.act <;> simp [ha, ih]

/-- No lane is active, so that writing what they give changes nothing. -/
theorem Team.lanesPut_none {t : Team} {p : Pred} (h : t.active p = []) (dst : Dst) (v : Lane → DWord) :
    t.lanesPut p dst v = t.lanes := by
  simp [Team.lanesPut, Team.activeLike, h]

/-- The effect of a register instruction whose operands lie at the core (R48, R50, R109, R114). -/
theorem teamDesc_done {s : State} {t : Team} {d : OpDesc} {f : Form} {g} (h : d.Fits f g) (c : f.Clear s t)
    (ht : s.team? t.ctx = some t) (i : Instr) : f.Done g s (s.teamDesc t i d) t := by
  have hsrc : ∀ uni, s.readSrcs t uni f.srcs = (f.srcs.map (s.atIssue t uni), s) := fun uni =>
    readSrcs_clear (c.atCore h.pos) c.quiet uni f.srcs (fun x hx => Form.mem_regs hx)
  have hfe : s.descFetches t d = [] :=
    descFetches_clear (c.atCore h.pos) (fun x hx => Form.mem_regs (h.srcs ▸ hx))
  have hloc := execLoc_clear h c
  unfold State.teamDesc
  rw [descCause_clear h c]
  dsimp only
  cases hl : f.atLane s t with
  | true =>
    rw [hl] at hloc
    rw [hloc, h.srcs]
    simp only [if_true, Loc.uniform, State.guard, Bool.false_eq_true, if_false]
    rw [hsrc false]
    simp only [State.runAtCore]
    rw [run_lane h s, hfe, any_lanesIn h s]
    by_cases ha : t.active f.pred = []
    · simp only [ha, List.isEmpty_nil, Bool.not_true, Bool.not_false, Bool.and_self, Bool.or_true, if_true]
      refine ⟨State.Frame.advance ht rfl 1, fun _ => ⟨State.KeepsUni.advance _ _ _ _, ?_⟩,
        fun h' => by simp [hl] at h', fun h' => by simp [hl] at h'⟩
      rw [Team.lanesPut_none ha, ha]
      have hz : t.flags ||| joinFlags ([].map (fun (l : Lane) => (g (f.srcs.map (s.laneSrc t l))).2)) = t.flags := by
        simp [joinFlags]
      rw [hz]
      exact State.MovedOn.advance ht rfl rfl
    have hne : (t.active f.pred).isEmpty = false := by simpa using ha
    simp only [hne, List.isEmpty_nil, State.writeOut, Bool.not_true, Bool.not_false, Bool.and_false, Bool.or_false,
      Bool.false_eq_true, if_false, if_true, State.writeUni2, h.dst2]
    rw [modTeam_some ht]
    generalize hL : t.lanesPut f.pred f.dst (fun l => (g (f.srcs.map (s.laneSrc t l))).1) = L
    generalize hF : joinFlags ((t.active f.pred).map (fun l => (g (f.srcs.map (s.laneSrc t l))).2)) = F
    have hput : (t.mapLanes (writeLaneOut d ((t.active f.pred).map
          (fun l => ⟨l.vid, (g (f.srcs.map (s.laneSrc t l))).1, false⟩)))).lanes = L := by
      rw [← hL]
      refine List.map_congr_left fun l _ => ?_
      exact writeLaneOut_put h (fun l => (g (f.srcs.map (s.laneSrc t l))).1) l
    obtain ⟨t2, ht2⟩ : ∃ x : Team, x = { t with lanes := L, flags := t.flags ||| F } := ⟨_, rfl⟩
    have heq : ({ ((t.mapLanes (writeLaneOut d ((t.active f.pred).map
          (fun l => ⟨l.vid, (g (f.srcs.map (s.laneSrc t l))).1, false⟩)))).join F) with ctx := t.ctx } : Team)
        = t2 := by rw [ht2, ← hput]; rfl
    rw [heq]
    have hc : t2.ctx = t.ctx := by rw [ht2]
    have h2 : (s.setTeam t2).team? t.ctx = some t2 := hc ▸ State.team?_setTeam_same s t2
    refine ⟨?_, fun _ => ⟨?_, ?_⟩, fun h' => by simp [hl] at h', fun h' => by simp [hl] at h'⟩
    · exact (State.Frame.setTeam hc).trans (State.Frame.advance h2 hc 1)
    · exact (State.KeepsUni.of_fam (s := s) (s' := s.setTeam t2) rfl _ _).trans (State.KeepsUni.advance _ _ _ _)
    · rw [hL, hF, ← ht2]; exact State.MovedOn.advance h2 hc rfl
  | false =>
    rw [hl] at hloc
    rw [hloc, h.srcs, h.pred]
    simp only [Bool.false_eq_true, if_false, Loc.uniform, State.guard, if_true]
    rw [qPred_quiet c.quiet]
    dsimp only
    rw [hsrc true]
    simp only [State.runAtCore]
    have hrun : d.run true (s.launchOf t).e0 (lanesIn t d true (f.srcs.map (s.atIssue t true))) = some
        { lanes := [], val := (g (f.srcs.map (s.uniSrc t))).1, flag := false
          flags := (g (f.srcs.map (s.uniSrc t))).2 } := by
      simp only [OpDesc.run, lanesIn, h.body, if_true, uniOps_clear c hl]
    rw [hrun, hfe]
    cases hp : s.qHolds t f.pred with
    | false =>
      simp only [Bool.not_false]
      exact ⟨State.Frame.advance ht rfl 1, fun h' => by simp [hl] at h',
        fun _ _ => ⟨State.KeepsUni.advance _ _ _ _, State.MovedOn.advance ht rfl rfl⟩, fun _ h' => by simp [hp] at h'⟩
    | true =>
      simp only [Bool.not_true, List.isEmpty_nil, if_true, State.writeOut, State.writeUni2, h.dst2, State.writeUniOut, h.dst]
      rw [modTeam_some ht]
      generalize hv : (g (f.srcs.map (s.uniSrc t))).1 = v
      generalize hF : (g (f.srcs.map (s.uniSrc t))).2 = F
      obtain ⟨t2, ht2⟩ : ∃ x : Team, x = { t with flags := t.flags ||| F } := ⟨_, rfl⟩
      have heq : ({ t.join F with ctx := t.ctx } : Team) = t2 := ht2.symm
      rw [heq]
      have hc : t2.ctx = t.ctx := by rw [ht2]
      have h2 : (s.setTeam t2).team? t.ctx = some t2 := hc ▸ State.team?_setTeam_same s t2
      have fin : ∀ (s3 : State), (s.setTeam t2).Frame s3 t → s3.team? t.ctx = some t2 → s3.stamp = s.stamp →
          (s.setTeam t2).KeepsUni s3 t f.dst.uniRegs f.dst.uniQs →
          s3.UniHolds t f.dst v → f.Done g s (s3.advance t.ctx 1) t := by
        intro s3 k1 k2 k3 k4 k5
        refine ⟨((State.Frame.setTeam hc).trans k1).trans (State.Frame.advance k2 hc 1),
          fun h' => by simp [hl] at h', fun _ h' => by simp [hp] at h', fun _ _ => ⟨?_, ?_, ?_⟩⟩
        · exact (State.KeepsUni.of_fam (s := s) (s' := s.setTeam t2) rfl _ _).trans
            (State.KeepsUni.trans k4 (State.KeepsUni.advance _ _ _ _))
        · rw [hv]
          have hf := advance_fam_eq s3 t.ctx 1 t.fam
          unfold State.UniHolds at k5 ⊢
          cases hd : f.dst <;> simp only [hd] at k5 ⊢
          · rwa [uniVal_congr hf]
          · rwa [qVal_congr hf]
        · rw [hF, ← ht2]; exact State.MovedOn.advance k2 hc k3
      cases hd : f.dst with
      | reg r n =>
        have hm : (r, n) ∈ f.regs := by simp [Form.regs, Dst.regs, hd]
        rw [hd] at fin
        refine fin _ (State.Frame.writeRegs _ _ _ _) (by rw [writeRegs_team?]; exact h2) (by simp) ?_ ?_
        · exact State.KeepsUni.writeRegs (h.noLit r n hd) (h.pos _ hm) _ _
        · by_cases hr : r = Reg.z
          · exact .inl hr
          · exact .inr (uniVal_writeRegs _ t hr n _)
      | pcode q =>
        have hq : pcodeQ q = true := by
          simp only [Form.atLane, hd] at hl
          simpa using hl
        rw [hd] at fin
        refine fin _ (State.Frame.writeQ _ _ _) (by rw [writeQ_team?]; exact h2) (by simp) ?_ ?_
        · exact State.KeepsUni.writeQ (by simp [Dst.uniQs, hq]) _ _
        · by_cases hr : pcodeNum q = 0
          · exact .inl hr
          · exact .inr (qVal_writeQ _ t hr _)

/-- Putting a team back as it is changes nothing that an effect is told by. -/
theorem Form.Done.of_setTeam {s s' : State} {t : Team} {f : Form} {g} (h : f.Done g (s.setTeam t) s' t) :
    f.Done g s s' t where
  frame := (State.Frame.setTeam (t := t) rfl).trans h.frame
  lanes k := ⟨(State.KeepsUni.of_fam (s := s) (s' := s.setTeam t) rfl _ _).trans (h.lanes k).1, (h.lanes k).2⟩
  off k q := ⟨(State.KeepsUni.of_fam (s := s) (s' := s.setTeam t) rfl _ _).trans (h.off k q).1, (h.off k q).2⟩
  on k q := ⟨(State.KeepsUni.of_fam (s := s) (s' := s.setTeam t) rfl _ _).trans (h.on k q).1, (h.on k q).2⟩

/-- A register instruction that a team issues, with its operands at the core. -/
theorem issueDesc_done {s : State} {t : Team} {d : OpDesc} {f : Form} {g} {i : Instr} (hr : s.Runs t)
    (h : d.Fits f g) (c : f.Clear s t) (ho : abortsSpan (opcOf i) = false) : f.Done g s (s.issueDesc i d) t := by
  unfold State.issueDesc
  rw [byAgent_team hr, issuing_of_opc ho]
  have c1 : f.Clear (s.setTeam t) t := ⟨c.placed, c.ready, c.readyP, c.shape, ⟨c.quiet.cells, c.quiet.q⟩⟩
  exact (teamDesc_done h c1 (State.team?_setTeam_same s t) i).of_setTeam

end Sys2Proof.Machine
end

