-- ==== Sys2Proof/Laws/Cross.lean ====
section
/-! SUPPORT. What the issue of an instruction over lanes can do (R159 to R166). -/

namespace Sys2Proof.Machine

/-- A description carries out an instruction over lanes with the computation `f`. -/
structure OpDesc.Crosses (d : OpDesc) (x : Cross) (f : Bool → Nat → List LaneIn → Option CrossOut) : Prop where
  pred  : d.pred = x.form.pred
  dst   : d.dst = x.form.dst
  dst2  : d.dst2 = x.dst2
  srcs  : d.srcs = x.form.srcs
  lane  : x.lane = (d.rule == .laneShape || d.rule == .lanePlace)
  uni   : d.uniform = x.uniform
  l2u   : d.laneToUni = x.gathers
  body  : d.body = .cross f
  noSel : ∀ p, .sel p ∉ x.form.srcs
  noLit : ∀ r n, x.form.dst = .reg r n → r ≠ Reg.lit
  two   : ∀ r n, x.dst2 = some (.reg r n) → n = 1 ∧ r ≠ Reg.lit
  pos   : ∀ y ∈ x.regs, 0 < y.2

variable {s : State} {t : Team} {d : OpDesc} {x : Cross} {f : Bool → Nat → List LaneIn → Option CrossOut}

theorem crossRegs (h : d.Crosses x f) : d.regs = x.regs := by
  simp [OpDesc.regs, Cross.regs, h.dst, h.dst2, h.srcs]

theorem crossPreds (h : d.Crosses x f) (uni : Bool) : d.preds uni = x.preds uni := by
  simp only [OpDesc.preds, Cross.preds, h.dst, h.dst2, h.srcs, h.pred] <;> rfl

theorem Cross.Clear.atCore (c : x.Clear s t) (hp : ∀ y ∈ x.regs, 0 < y.2) : AtCore s t x.regs :=
  ⟨c.placed, c.ready, hp⟩

theorem Cross.mem_regs {x : Cross} {y : Src} (hy : y ∈ x.form.srcs) : ∀ z ∈ y.regs, z ∈ x.regs := by
  intro z hz
  simp only [Cross.regs, List.mem_append, List.mem_flatMap]
  exact .inr ⟨y, hy, hz⟩

theorem crossExecLoc (h : d.Crosses x f) (c : x.Clear s t) :
    s.execLoc t d = if x.atLane s t then .lane else .team := by
  unfold State.execLoc Cross.atLane
  rw [h.dst, h.srcs]
  cases hd : x.form.dst with
  | pcode q => cases hq : pcodeQ q <;> simp [hq]
  | reg r n =>
    by_cases hr : r = Reg.z
    · simp only [hr, if_true]
      cases hs : x.form.srcs with
      | nil => simp
      | cons y ys =>
        simp only [List.head?_cons, Option.elim]
        rw [srcLoc_clear (c.atCore h.pos) (Cross.mem_regs (by rw [hs]; simp))]
        by_cases hl : srcAtLane s t y = true
        · simp [hl]
        · rcases y.elsewhere_cases with he | he <;> simp [hl, he]
    · have hm : (r, n) ∈ x.regs := by simp [Cross.regs, Dst.regs, hd]
      have hn : Reg.noName r = false := by simp [Reg.noName, hr, h.noLit r n hd]
      simp only [hr, if_false]
      have := locOf_lane (c.atCore h.pos) hm
      simp only [hn] at this
      rw [this]
      simp

theorem crossCause (h : d.Crosses x f) (c : x.Clear s t) : s.descCause t d = none := by
  have hc := c.atCore h.pos
  have hex := crossExecLoc h c
  have hu : (s.execLoc t d).uniform = !x.atLane s t := by rw [hex]; cases x.atLane s t <;> rfl
  have hloc : ∀ y ∈ x.form.srcs, s.srcLoc t y = if srcAtLane s t y then .lane else y.elsewhere :=
    fun y hy => srcLoc_clear hc (Cross.mem_regs hy)
  have hget : ∀ i : Nat, (x.form.srcs[i]?).elim .imm (s.srcLoc t) = .lane ∨
      (x.form.srcs[i]?).elim .imm (s.srcLoc t) = .imm ∨ (x.form.srcs[i]?).elim .imm (s.srcLoc t) = .team := by
    intro i
    cases hi : x.form.srcs[i]? with
    | none => simp
    | some y =>
      simp only [Option.elim]
      rw [hloc y (List.mem_of_getElem? hi)]
      by_cases hl : srcAtLane s t y = true
      · simp [hl]
      · rcases y.elsewhere_cases with he | he <;> simp [hl, he]
  have hplace : s.descPlace t d (s.execLoc t d) = false := by
    have h1 : d.srcs.any (fun y => (s.srcLoc t y).isBank) = false := by
      rw [h.srcs]; exact srcs_noBank hc (fun y hy => Cross.mem_regs hy)
    have h2 : d.core.any (fun i => (d.srcs[i]?.elim .imm (s.srcLoc t)).remote) = false := by
      refine List.any_eq_false.2 fun i _ => ?_
      rw [h.srcs]
      rcases hget i with hg | hg | hg <;> rw [hg] <;> simp [Loc.remote]
    have h3 : (match d.dst2 with
        | some (.reg r _) => s.locOf t r != .team && s.locOf t r != .imm
        | _ => false) = false := by
      rw [h.dst2]
      cases h2 : x.dst2 with
      | none => rfl
      | some y =>
        cases y with
        | pcode q => rfl
        | reg r n =>
          have hm : (r, n) ∈ x.regs := by simp [Cross.regs, Dst.regs, h2]
          have hl := locOf_lane hc hm
          simp only at hl
          rcases c.mask r n h2 with hn | hk
          · simp [hl, hn]
          · by_cases hn : Reg.noName r = true <;> simp [hl, hn, hk]
    have h4 : (d.rule == .lanePlace && (if x.atLane s t then Loc.lane else .team) != .lane) = false := by
      cases hr : (d.rule == DstRule.lanePlace) with
      | false => rfl
      | true => rw [c.dest (by rw [h.lane, hr]; simp)]; rfl
    simp only [State.descPlace, crossRegs h, anyApart_clear hc, h1, h2, hex]
    revert h4
    cases x.atLane s t <;> simp only [Loc.isMem, Loc.isBank, Bool.false_and, Bool.or_false, Bool.false_or, if_true,
      Bool.false_eq_true, if_false] <;> exact fun h4 => Bool.or_eq_false_iff.2 ⟨h4, h3⟩
  have hshape : s.descShape t d (s.execLoc t d) = false := by
    have h1 : d.uniform.any (fun i => d.srcs[i]?.elim false (fun y => s.srcLoc t y == .lane)) = false := by
      refine List.any_eq_false.2 fun i hi => ?_
      rw [h.uni] at hi
      rw [h.srcs]
      cases hg : x.form.srcs[i]? with
      | none => simp
      | some y =>
        simp only [Option.elim]
        rw [hloc y (List.mem_of_getElem? hg), c.unis i hi y hg]
        rcases y.elsewhere_cases with he | he <;> simp [he]
    have e : s.descShape t d (s.execLoc t d) = (((s.execLoc t d).uniform && d.srcs.any (fun y => s.srcLoc t y == .lane)
        && !(d.laneToUni && s.execLoc t d == .team))
      || d.uniform.any (fun i => d.srcs[i]?.elim false (fun y => s.srcLoc t y == .lane))
      || (d.rule == .laneShape && (s.execLoc t d).uniform)) := rfl
    rw [e, h1, hu, h.srcs, h.l2u, hex]
    cases hl : x.atLane s t with
    | true => simp
    | false =>
      have hrule : (d.rule == DstRule.laneShape) = false := by
        by_contra hne
        have : x.lane = true := by rw [h.lane]; simp_all
        rw [c.dest this] at hl
        exact absurd hl (by simp)
      cases hg : x.gathers with
      | true => simp [hrule]
      | false =>
        have : x.form.srcs.any (fun y => s.srcLoc t y == .lane) = false := by
          refine List.any_eq_false.2 fun y hy => ?_
          rw [hloc y hy, c.shape hl hg y hy]
          rcases y.elsewhere_cases with he | he <;> simp [he]
        simp [hrule, this]
  simp only [State.descCause, firstCause, crossRegs h, anyNone_clear hc, anyPend_clear hc, hu, crossPreds h,
    predPend_clear c.readyP, hplace, hshape]
  simp

/-- The operands of a lane, none of which is a selector. -/
theorem laneOps_cross (s : State) (t : Team) (l : Lane) (uni : Bool) (srcs : List Src) (hs : ∀ p, .sel p ∉ srcs) :
    laneOps l srcs (srcs.map (s.atIssue t uni)) = srcs.map (s.laneSrc t l) := by
  have : srcs.map (s.atIssue t uni) = srcs.map (s.atIssue t false) := by
    refine List.map_congr_left fun y hy => ?_
    cases y with
    | sel p => exact absurd hy (hs p)
    | pcode q => rfl
    | reg r n l => rfl
  rw [this, laneOps_clear]

theorem lanesIn_cross (h : d.Crosses x f) (uni : Bool) :
    lanesIn t d uni (x.form.srcs.map (s.atIssue t uni)) = s.seen t x uni := by
  simp only [lanesIn, h.body, State.seen, h.pred, laneInOf, h.srcs, laneOps_cross s t _ uni _ h.noSel]

theorem writeUni2_frame (s : State) (t : Team) (d : OpDesc) (flag : Bool) (v : DWord) :
    s.Frame (s.writeUni2 t.fam t.ctx d flag v) t := by
  unfold State.writeUni2
  split
  · split
    · exact State.Frame.writeQ _ _ _
    · exact State.Frame.refl _ _
  · exact State.Frame.writeRegs _ _ _ _
  · exact State.Frame.refl _ _

theorem writeUni2_keeps (h : d.Crosses x f) (flag : Bool) (v : DWord) (rs qs : List Nat) :
    s.KeepsUni (s.writeUni2 t.fam t.ctx d flag v) t (rs ++ x.regs2) (qs ++ x.qs2) := by
  unfold State.writeUni2
  rw [h.dst2]
  cases h2 : x.dst2 with
  | none => exact State.KeepsUni.of_fam rfl _ _
  | some y =>
    cases y with
    | pcode q =>
      dsimp only
      cases hq : pcodeQ q
      · exact State.KeepsUni.of_fam rfl _ _
      · exact State.KeepsUni.writeQ (by simp [Cross.qs2, h2, Dst.uniQs, hq]) _ _
    | reg r n =>
      obtain ⟨rfl, hr⟩ := h.two r n h2
      have k := State.KeepsUni.writeRegs (s := s) (t := t) (n := 1) hr (by omega) v ((qs ++ x.qs2))
      refine ⟨fun j hj => k.cells j (fun hm => hj ?_), fun j hj => k.q j hj⟩
      simp [Cross.regs2, h2, Dst.uniRegs, hm]

theorem writeUni2_holds (h : d.Crosses x f) (flag : Bool) (v : DWord) :
    (s.writeUni2 t.fam t.ctx d flag v).Holds2 t x flag v := by
  unfold State.writeUni2 State.Holds2
  rw [h.dst2]
  cases h2 : x.dst2 with
  | none => trivial
  | some y =>
    cases y with
    | pcode q =>
      dsimp only
      cases hq : pcodeQ q
      · exact .inl rfl
      · by_cases hn : pcodeNum q = 0
        · exact .inr (.inl hn)
        · exact .inr (.inr (qVal_writeQ s t hn flag))
    | reg r n =>
      dsimp only
      by_cases hr : r = Reg.z
      · exact .inl hr
      · exact .inr (uniVal_writeRegs s t hr 1 v)

@[simp] theorem writeUni2_team? (s : State) (f ctx : Nat) (d : OpDesc) (b : Bool) (v : DWord) (c : Nat) :
    (s.writeUni2 f ctx d b v).team? c = s.team? c := by
  unfold State.writeUni2
  split
  · split
    · exact writeQ_team? _ _ _ _ _ _
    · rfl
  · exact writeRegs_team? _ _ _ _ _ _ _
  · rfl

@[simp] theorem writeUni2_stamp (s : State) (f ctx : Nat) (d : OpDesc) (b : Bool) (v : DWord) :
    (s.writeUni2 f ctx d b v).stamp = s.stamp := by
  unfold State.writeUni2
  split
  · split
    · exact writeQ_stamp _ _ _ _ _
    · rfl
  · exact writeRegs_stamp _ _ _ _ _ _
  · rfl

theorem State.Holds2.congr {s s' : State} (hf : s'.fam t.fam = s.fam t.fam) {b : Bool} {v : DWord}
    (h : s.Holds2 t x b v) : s'.Holds2 t x b v := by
  unfold State.Holds2 at h ⊢
  cases h2 : x.dst2 with
  | none => trivial
  | some y =>
    rw [h2] at h
    cases y with
    | pcode q => simp only at h ⊢; rwa [qVal_congr hf]
    | reg r n => simp only at h ⊢; rwa [uniVal_congr hf]

/-- The effect of an instruction over lanes with its operands at the core, where its computation answers. -/
theorem crossDesc_done (h : d.Crosses x f) (c : x.Clear s t) (ht : s.team? t.ctx = some t) (i : Instr)
    {out : Bool → List LaneIn → CrossOut}
    (ho : ∀ uni, f uni (s.launchOf t).e0 (s.seen t x uni) = some (out uni (s.seen t x uni))) :
    x.Done out (absentMask (s.launchOf t).e0) s (s.teamDesc t i d) t := by
  have hc := c.atCore h.pos
  have hsrc : ∀ uni, s.readSrcs t uni x.form.srcs = (x.form.srcs.map (s.atIssue t uni), s) := fun uni =>
    readSrcs_clear hc c.quiet uni x.form.srcs (fun y hy => Cross.mem_regs hy)
  have hfe : s.descFetches t d = [] := descFetches_clear hc (fun y hy => Cross.mem_regs (h.srcs ▸ hy))
  have hloc := crossExecLoc h c
  have hrun : ∀ uni, d.run uni (s.launchOf t).e0 (s.seen t x uni) = some (out uni (s.seen t x uni)) := fun uni => by
    simp only [OpDesc.run, h.body, ho]
  unfold State.teamDesc
  rw [crossCause h c]
  dsimp only
  cases hl : x.atLane s t with
  | true =>
    rw [hl] at hloc
    rw [hloc, h.srcs]
    simp only [if_true, Loc.uniform, State.guard, Bool.false_eq_true, if_false]
    rw [hsrc false]
    simp only [State.runAtCore, lanesIn_cross h]
    rw [hrun false, hfe]
    by_cases ha : ∃ l ∈ s.seen t x false, l.act = true
    swap
    · have hidle : ∀ l ∈ s.seen t x false, l.act = false := by simpa using ha
      have hany : (s.seen t x false).any (fun l => l.act) = false := by simpa using hidle
      simp only [hany, Bool.not_true, Bool.not_false, Bool.and_self, Bool.or_true, if_true]
      exact ⟨State.Frame.advance ht rfl 1, fun _ _ => ⟨State.KeepsUni.advance _ _ _ _, State.MovedOn.advance ht rfl rfl⟩,
        fun _ h' => absurd h' ha, fun h' => by simp [hl] at h', fun h' => by simp [hl] at h'⟩
    have hany : (s.seen t x false).any (fun l => l.act) = true := by simpa using ha
    simp only [hany, List.isEmpty_nil, State.writeOut, Bool.not_true, Bool.and_false, Bool.or_false, Bool.false_eq_true,
      if_false, if_true]
    rw [modTeam_some ht]
    generalize hO : out false (s.seen t x false) = O
    obtain ⟨t2, ht2⟩ : ∃ y : Team, y = { t with
      lanes := t.lanes.map (fun l => match O.lanes.find? (fun o => o.vid == l.vid) with
        | some o => l.putOut x o
        | none => l)
      flags := t.flags ||| O.flags } := ⟨_, rfl⟩
    have heq : ({ ((t.mapLanes (writeLaneOut d O.lanes)).join O.flags) with ctx := t.ctx } : Team) = t2 := by
      rw [ht2]
      simp only [Team.mapLanes, Team.join, Team.mk.injEq, true_and, and_true]
      refine List.map_congr_left fun l _ => ?_
      simp only [writeLaneOut, h.dst, h.dst2]
      cases O.lanes.find? (fun o => o.vid == l.vid) with
      | none => rfl
      | some o => cases hd : x.form.dst <;> simp only [Lane.putOut, Lane.put, hd] <;> rfl
    rw [heq]
    have hctx : t2.ctx = t.ctx := by rw [ht2]
    have h2 : (s.setTeam t2).team? t.ctx = some t2 := hctx ▸ State.team?_setTeam_same s t2
    have h3 : ((s.setTeam t2).writeUni2 t.fam t.ctx d O.flag (absentOf (s.launchOf t).e0 (s.seen t x false))).team? t.ctx
        = some t2 := by rw [writeUni2_team?]; exact h2
    refine ⟨?_, fun _ h' => ?_, fun _ _ => ⟨?_, ?_, ?_⟩, fun h' => by simp [hl] at h', fun h' => by simp [hl] at h'⟩
    · exact ((State.Frame.setTeam hctx).trans (writeUni2_frame _ _ _ _ _)).trans (State.Frame.advance h3 hctx 1)
    · obtain ⟨l, hm, hact⟩ := ha
      simp [h' l hm] at hact
    · exact ((State.KeepsUni.of_fam (s := s) (s' := s.setTeam t2) rfl _ _).trans
        (writeUni2_keeps h _ _ [] [])).trans (State.KeepsUni.advance _ _ _ _)
    · rw [hO]; exact (writeUni2_holds h _ _).congr (advance_fam_eq _ _ _ _)
    · rw [hO]; exact ht2 ▸ State.MovedOn.advance h3 hctx (by rw [writeUni2_stamp]; rfl)
  | false =>
    rw [hl] at hloc
    rw [hloc, h.srcs, h.pred]
    simp only [Bool.false_eq_true, if_false, Loc.uniform, State.guard, if_true]
    rw [qPred_quiet c.quiet]
    dsimp only
    rw [hsrc true]
    simp only [State.runAtCore, lanesIn_cross h]
    rw [hrun true, hfe]
    cases hp : s.qHolds t x.form.pred with
    | false =>
      simp only [Bool.not_false]
      exact ⟨State.Frame.advance ht rfl 1, fun h' => by simp [hl] at h', fun h' => by simp [hl] at h',
        fun _ _ => ⟨State.KeepsUni.advance _ _ _ _, State.MovedOn.advance ht rfl rfl⟩, fun _ h' => by simp [hp] at h'⟩
    | true =>
      simp only [Bool.not_true, List.isEmpty_nil, if_true, State.writeOut]
      rw [modTeam_some ht]
      generalize hO : out true (s.seen t x true) = O
      obtain ⟨t2, ht2⟩ : ∃ y : Team, y = { t with flags := t.flags ||| O.flags } := ⟨_, rfl⟩
      have heq : ({ t.join O.flags with ctx := t.ctx } : Team) = t2 := ht2.symm
      rw [heq]
      have hctx : t2.ctx = t.ctx := by rw [ht2]
      have h2 : (s.setTeam t2).team? t.ctx = some t2 := hctx ▸ State.team?_setTeam_same s t2
      generalize hA : absentOf (s.launchOf t).e0 (s.seen t x true) = A
      have hA' : absentMask (s.launchOf t).e0 (s.seen t x true) = A := hA
      have fin : ∀ (s3 : State), (s.setTeam t2).Frame s3 t → s3.team? t.ctx = some t2 → s3.stamp = s.stamp →
          (s.setTeam t2).KeepsUni s3 t (x.form.dst.uniRegs ++ x.regs2) (x.form.dst.uniQs ++ x.qs2) →
          s3.UniHolds t x.form.dst O.val →
          x.Done out (absentMask (s.launchOf t).e0) s ((s3.writeUni2 t.fam t.ctx d O.flag A).advance t.ctx 1) t := by
        intro s3 k1 k2 k3 k4 k5
        have k6 : (s3.writeUni2 t.fam t.ctx d O.flag A).team? t.ctx = some t2 := by rw [writeUni2_team?]; exact k2
        refine ⟨(((State.Frame.setTeam hctx).trans k1).trans (writeUni2_frame _ _ _ _ _)).trans
          (State.Frame.advance k6 hctx 1), fun h' => by simp [hl] at h', fun h' => by simp [hl] at h', fun _ h' => by simp [hp] at h',
          fun _ _ => ⟨?_, ?_, ?_, ?_⟩⟩
        · exact (((State.KeepsUni.of_fam (s := s) (s' := s.setTeam t2) rfl _ _).trans k4).trans
            (writeUni2_keeps h _ _ _ _)).trans (State.KeepsUni.advance _ _ _ _)
        · intro hr hq
          rw [hO]
          have kk := writeUni2_keeps (s := s3) (t := t) h O.flag A [] []
          have hfam := advance_fam_eq (s3.writeUni2 t.fam t.ctx d O.flag A) t.ctx 1 t.fam
          unfold State.UniHolds at k5 ⊢
          cases hd : x.form.dst with
          | reg r n =>
            rw [hd] at k5 hr
            simp only at k5 ⊢
            rcases k5 with k5 | k5
            · exact .inl k5
            · by_cases hz : r = Reg.z
              · exact .inl hz
              · refine .inr ?_
                rw [uniVal_congr hfam, ← k5]
                have hl' : r ≠ Reg.lit := h.noLit r n hd
                have e0 : Tbl.get zeroCell ((s3.writeUni2 t.fam t.ctx d O.flag A).fam t.fam).cells r.toNat
                    = Tbl.get zeroCell (s3.fam t.fam).cells r.toNat := by
                  refine kk.cells _ ?_
                  have : r.toNat ∈ (Dst.reg r n).uniRegs := mem_self_regNums
                    (h.pos (r, n) (by simp [Cross.regs, Dst.regs, hd])) (by simp [Reg.noName, hz, hl'])
                  simpa using hr _ this
                unfold State.uniVal
                rw [if_neg hz, if_neg hz]
                by_cases hn : n = 2
                · have e1 : Tbl.get zeroCell ((s3.writeUni2 t.fam t.ctx d O.flag A).fam t.fam).cells (r.toNat + 1)
                      = Tbl.get zeroCell (s3.fam t.fam).cells (r.toNat + 1) := by
                    refine kk.cells _ ?_
                    have : r.toNat + 1 ∈ (Dst.reg r n).uniRegs := by
                      simp only [Dst.uniRegs, regNums_eq hz hl', List.mem_map, List.mem_range]
                      exact ⟨1, by omega, rfl⟩
                    simpa using hr _ this
                  rw [if_pos hn, if_pos hn]; unfold State.uni; rw [e0, e1]
                · rw [if_neg hn, if_neg hn]; unfold State.uni; rw [e0]
          | pcode q =>
            rw [hd] at k5 hq
            simp only at k5 ⊢
            have hpq : pcodeQ q = true := by
              have : x.atLane s t = !pcodeQ q := by simp [Cross.atLane, hd]
              rw [hl] at this
              simpa using this.symm
            rcases k5 with k5 | k5
            · exact .inl k5
            · refine .inr ?_
              rw [qVal_congr hfam, ← k5]
              have : pcodeNum q ∉ x.qs2 := hq _ (by simp [Dst.uniQs, hpq])
              unfold State.qVal
              rw [kk.q _ (by simpa using this)]
        · rw [hO, hA']; exact (writeUni2_holds h _ _).congr (advance_fam_eq _ _ _ _)
        · rw [hO]; exact ht2 ▸ State.MovedOn.advance k6 hctx (by rw [writeUni2_stamp, k3])
      have hkeep : ∀ (s3 : State), (s.setTeam t2).KeepsUni s3 t x.form.dst.uniRegs x.form.dst.uniQs →
          (s.setTeam t2).KeepsUni s3 t (x.form.dst.uniRegs ++ x.regs2) (x.form.dst.uniQs ++ x.qs2) := fun s3 k =>
        ⟨fun j hj => k.cells j (fun hm => hj (by simp [hm])), fun j hj => k.q j (fun hm => hj (by simp [hm]))⟩
      unfold State.writeUniOut
      rw [h.dst]
      cases hd : x.form.dst with
      | reg r n =>
        have hm : (r, n) ∈ x.regs := by simp [Cross.regs, Dst.regs, hd]
        have hk := State.KeepsUni.writeRegs (s := s.setTeam t2) (t := t) (h.noLit r n hd) (h.pos _ hm) O.val
          (Dst.reg r n).uniQs
        rw [hd] at fin hkeep
        refine fin _ (State.Frame.writeRegs _ _ _ _) (by rw [writeRegs_team?]; exact h2) (by simp) (hkeep _ hk) ?_
        by_cases hr : r = Reg.z
        · exact .inl hr
        · exact .inr (uniVal_writeRegs _ t hr n _)
      | pcode q =>
        have hq : pcodeQ q = true := by
          simp only [Cross.atLane, hd] at hl
          simpa using hl
        have hk := State.KeepsUni.writeQ (s := s.setTeam t2) (t := t) (rs := (Dst.pcode q).uniRegs)
          (qs := (Dst.pcode q).uniQs) (r := pcodeNum q) (by simp [Dst.uniQs, hq]) t.ctx (O.val != 0)
        rw [hd] at fin hkeep
        refine fin _ (State.Frame.writeQ _ _ _) (by rw [writeQ_team?]; exact h2) (by simp) (hkeep _ hk) ?_
        by_cases hr : pcodeNum q = 0
        · exact .inl hr
        · exact .inr (qVal_writeQ _ t hr _)

/-- Putting a team back as it is changes nothing that an effect over lanes is told by. -/
theorem Cross.Done.of_setTeam {s' : State} {out absent} (h : x.Done out absent (s.setTeam t) s' t) :
    x.Done out absent s s' t where
  frame := (State.Frame.setTeam (t := t) rfl).trans h.frame
  idle k a := ⟨(State.KeepsUni.of_fam (s := s) (s' := s.setTeam t) rfl _ _).trans (h.idle k a).1, (h.idle k a).2⟩
  lanes k a := ⟨(State.KeepsUni.of_fam (s := s) (s' := s.setTeam t) rfl _ _).trans (h.lanes k a).1, (h.lanes k a).2⟩
  off k q := ⟨(State.KeepsUni.of_fam (s := s) (s' := s.setTeam t) rfl _ _).trans (h.off k q).1, (h.off k q).2⟩
  on k q := ⟨(State.KeepsUni.of_fam (s := s) (s' := s.setTeam t) rfl _ _).trans (h.on k q).1, (h.on k q).2⟩

/-- An instruction over lanes that a team issues, with its operands at the core. -/
theorem issueCross_done {i : Instr} (hr : s.Runs t) (h : d.Crosses x f) (c : x.Clear s t)
    (ho : abortsSpan (opcOf i) = false) {out : Bool → List LaneIn → CrossOut}
    (hf : ∀ uni, f uni (s.launchOf t).e0 (s.seen t x uni) = some (out uni (s.seen t x uni))) :
    x.Done out (absentMask (s.launchOf t).e0) s (s.issueDesc i d) t := by
  unfold State.issueDesc
  rw [byAgent_team hr, issuing_of_opc ho]
  have c1 : x.Clear (s.setTeam t) t :=
    ⟨c.placed, c.ready, c.readyP, c.dest, c.shape, c.unis, c.mask, ⟨c.quiet.cells, c.quiet.q⟩⟩
  exact (crossDesc_done h c1 (State.team?_setTeam_same s t) i hf).of_setTeam

end Sys2Proof.Machine
end

