-- ==== Sys2Proof/Laws/PerInstr.lean ====
section
/-! SUPPORT. A fact of every instruction as syntax, one lemma per constructor: its words are as many as the opcode in
its first word says (04 R102). -/

namespace Sys2Proof.Laws.Encoding
open Sys2Proof

/-- An instruction that has words has as many as its opcode says (R102). -/
def Statement (i : Instr) : Prop := ∀ w ws, encode i = w :: ws → ws.length + 1 = wordCount w

/-- The opcode of f3. -/
theorem f3_top (opc : BitVec 8) (sub : BitVec 4) (o : F3) : (o.word opc sub).extractLsb' 56 8 = opc := by
  ext k h
  rw [BitVec.getElem_extractLsb']
  show (opc ++ sub ++ o.d ++ o.a ++ o.b ++ o.c ++ o.p.code ++ o.ty.code ++ o.rnd.code ++ BitVec.ofBool o.sat ++ 0#1 ++ o.imm).getLsbD (56 + k) = _
  simp only [BitVec.getLsbD_append]
  repeat rw [if_neg (by omega)]
  rw [BitVec.getLsbD_eq_getElem (by omega)]
  congr 1
  omega

/-- The opcode of fri. -/
theorem fri_top (opc : BitVec 8) (sub : BitVec 4) (o : FRI) : (o.word opc sub).extractLsb' 56 8 = opc := by
  ext k h
  rw [BitVec.getElem_extractLsb']
  show (opc ++ sub ++ o.d ++ o.a ++ o.p.code ++ o.imm).getLsbD (56 + k) = _
  simp only [BitVec.getLsbD_append]
  repeat rw [if_neg (by omega)]
  rw [BitVec.getLsbD_eq_getElem (by omega)]
  congr 1
  omega

/-- The opcode of fbr. -/
theorem fbr_top (opc : BitVec 8) (o : FBR) : (o.word opc).extractLsb' 56 8 = opc := by
  ext k h
  rw [BitVec.getElem_extractLsb']
  show (opc ++ o.cond.code ++ o.r ++ 0#8 ++ o.p.code ++ o.off).getLsbD (56 + k) = _
  simp only [BitVec.getLsbD_append]
  repeat rw [if_neg (by omega)]
  rw [BitVec.getLsbD_eq_getElem (by omega)]
  congr 1
  omega

/-- The opcode of fmem. -/
theorem fmem_top (opc : BitVec 8) (sub : BitVec 4) (o : FMem) : (o.word opc sub).extractLsb' 56 8 = opc := by
  ext k h
  rw [BitVec.getElem_extractLsb']
  show (opc ++ sub ++ o.data ++ o.base ++ o.p.code ++ o.scope.code ++ o.ord.code
    ++ BitVec.ofBool o.few ++ BitVec.ofBool o.fec ++ BitVec.ofBool o.far ++ o.off).getLsbD (56 + k) = _
  simp only [BitVec.getLsbD_append]
  repeat rw [if_neg (by omega)]
  rw [BitVec.getLsbD_eq_getElem (by omega)]
  congr 1
  omega

/-- The opcode of fn. -/
theorem fn_top (opc : BitVec 8) (sub ty : BitVec 4) (n : FN) : ((n.words opc sub ty).headD 0).extractLsb' 56 8 = opc := by
  ext k h
  rw [BitVec.getElem_extractLsb']
  show (opc ++ sub ++ ty ++ n.depth ++ n.rmask ++ n.p.code ++ n.bd ++ n.ba ++ n.bb
     ++ n.shd ++ n.sha ++ n.shb).getLsbD (56 + k) = _
  simp only [BitVec.getLsbD_append]
  repeat rw [if_neg (by omega)]
  rw [BitVec.getLsbD_eq_getElem (by omega)]
  congr 1
  omega

/-- The opcode of qset. -/
theorem qset_top (opc : BitVec 8) (q : BitVec 4) : ((qsetWords opc q).headD 0).extractLsb' 56 8 = opc := by
  ext k h
  rw [BitVec.getElem_extractLsb']
  show (opc ++ 0#4 ++ q ++ 0#48).getLsbD (56 + k) = _
  simp only [BitVec.getLsbD_append]
  repeat rw [if_neg (by omega)]
  rw [BitVec.getLsbD_eq_getElem (by omega)]
  congr 1
  omega

/-- The opcode of mzero. -/
theorem mzero_top (o : MzeroOps) : (o.words.headD 0).extractLsb' 56 8 = 0xA4#8 := by
  ext k h
  rw [BitVec.getElem_extractLsb']
  show (0xA4#8 ++ 0#4 ++ o.qset ++ o.acc ++ BitVec.ofBool o.all ++ 0#44).getLsbD (56 + k) = _
  simp only [BitVec.getLsbD_append]
  repeat rw [if_neg (by omega)]
  rw [BitVec.getLsbD_eq_getElem (by omega)]
  congr 1
  omega

/-- The opcode of mloop. -/
theorem mloop_top (o : MloopOps) : (o.words.headD 0).extractLsb' 56 8 = 0xA2#8 := by
  ext k h
  rw [BitVec.getElem_extractLsb']
  show (0xA2#8 ++ o.df.code ++ 0#1 ++ BitVec.ofBool o.ovw ++ o.qset ++ o.acc ++ o.lclass ++ o.steps
     ++ o.areg ++ o.breg ++ o.mreg ++ BitVec.ofBool o.sout ++ o.oreg ++ 0#12).getLsbD (56 + k) = _
  simp only [BitVec.getLsbD_append]
  repeat rw [if_neg (by omega)]
  rw [BitVec.getLsbD_eq_getElem (by omega)]
  congr 1
  omega

/-- The opcode of mdrain. -/
theorem mdrain_top (o : MdrainOps) : (o.words.headD 0).extractLsb' 56 8 = 0xA3#8 := by
  ext k h
  rw [BitVec.getElem_extractLsb']
  show (0xA3#8 ++ BitVec.ofBool o.add ++ o.ikind.code ++ 0#1 ++ o.qset ++ o.acc ++ o.ofmt.code
     ++ o.rnd.code ++ BitVec.ofBool o.sat ++ o.dreg ++ 0#34).getLsbD (56 + k) = _
  simp only [BitVec.getLsbD_append]
  repeat rw [if_neg (by omega)]
  rw [BitVec.getLsbD_eq_getElem (by omega)]
  congr 1
  omega

/-- The opcode of mcomp. -/
theorem mcomp_top (o : McompOps) : (o.words.headD 0).extractLsb' 56 8 = 0xA5#8 := by
  ext k h
  rw [BitVec.getElem_extractLsb']
  show (0xA5#8 ++ 0#1 ++ BitVec.ofBool o.p48 ++ 0#2 ++ o.qset ++ o.rows ++ o.len16 ++ o.sreg ++ o.vreg
     ++ o.mreg ++ 0#25).getLsbD (56 + k) = _
  simp only [BitVec.getLsbD_append]
  repeat rw [if_neg (by omega)]
  rw [BitVec.getLsbD_eq_getElem (by omega)]
  congr 1
  omega

/-- The opcode of mread. -/
theorem mread_top (o : MreadOps) : (o.words.headD 0).extractLsb' 56 8 = 0xA7#8 := by
  ext k h
  rw [BitVec.getElem_extractLsb']
  show (0xA7#8 ++ 0#4 ++ o.qset ++ o.acc ++ o.col ++ o.dst ++ BitVec.ofBool o.w64 ++ 0#31).getLsbD (56 + k) = _
  simp only [BitVec.getLsbD_append]
  repeat rw [if_neg (by omega)]
  rw [BitVec.getLsbD_eq_getElem (by omega)]
  congr 1
  omega

/-- The opcode of mstat. -/
theorem mstat_top (q : BitVec 4) (d : Reg) : ((mstatWords q d).headD 0).extractLsb' 56 8 = 0xA8#8 := by
  ext k h
  rw [BitVec.getElem_extractLsb']
  show (0xA8#8 ++ 0#4 ++ q ++ 0#8 ++ d ++ 0#32).getLsbD (56 + k) = _
  simp only [BitVec.getLsbD_append]
  repeat rw [if_neg (by omega)]
  rw [BitVec.getLsbD_eq_getElem (by omega)]
  congr 1
  omega

/-- The opcode of fork. -/
theorem fork_top (o : ForkOps) : (o.words.headD 0).extractLsb' 56 8 = 0xC0#8 := by
  ext k h
  rw [BitVec.getElem_extractLsb']
  show (0xC0#8 ++ o.tgt.code ++ o.qset ++ o.ebase ++ o.ecnt ++ o.p.code ++ 0#31).getLsbD (56 + k) = _
  simp only [BitVec.getLsbD_append]
  repeat rw [if_neg (by omega)]
  rw [BitVec.getLsbD_eq_getElem (by omega)]
  congr 1
  omega

/-- The opcode of lace. -/
theorem lace_top (o : LaceOps) : (o.words.headD 0).extractLsb' 56 8 = 0xC2#8 := by
  ext k h
  rw [BitVec.getElem_extractLsb']
  show (0xC2#8 ++ o.dims ++ o.le ++ o.src ++ o.dst ++ o.bar ++ o.p.code ++ o.rowb).getLsbD (56 + k) = _
  simp only [BitVec.getLsbD_append]
  repeat rw [if_neg (by omega)]
  rw [BitVec.getLsbD_eq_getElem (by omega)]
  congr 1
  omega

/-- The opcode of laceg. -/
theorem laceg_top (o : LacegOps) : (o.words.headD 0).extractLsb' 56 8 = 0xC3#8 := by
  ext k h
  rw [BitVec.getElem_extractLsb']
  show (0xC3#8 ++ 0#2 ++ o.le ++ o.src ++ o.dst ++ o.bar ++ o.p.code ++ o.rowb).getLsbD (56 + k) = _
  simp only [BitVec.getLsbD_append]
  repeat rw [if_neg (by omega)]
  rw [BitVec.getLsbD_eq_getElem (by omega)]
  congr 1
  omega

/-- The opcode of `mlds`. -/
theorem mlds_top (o : MldsOps) (b : Option BarOps) : ((o.words b).headD 0).extractLsb' 56 8 = 0xA0#8 := by
  have top (x : BitVec 1) (y : BitVec 1) (z : BitVec 4) :
      (0xA0#8 ++ x ++ y ++ 0#2 ++ o.qset ++ 0#23 ++ o.breg ++ 0#4 ++ z ++ 0#13 : BitVec 64).extractLsb' 56 8 = 0xA0#8 := by
    ext k h
    rw [BitVec.getElem_extractLsb']
    show (0xA0#8 ++ x ++ y ++ 0#2 ++ o.qset ++ 0#23 ++ o.breg ++ 0#4 ++ z ++ 0#13).getLsbD (56 + k) = _
    simp only [BitVec.getLsbD_append]
    repeat rw [if_neg (by omega)]
    rw [BitVec.getLsbD_eq_getElem (by omega)]
    congr 1
    omega
  cases b with
  | none => exact top 0 0 0
  | some b => exact top 1 (BitVec.ofBool b.wph) b.xreg

/-- An instruction whose first word has an opcode of as many words. -/
theorem of_words (i : Instr) (ws : List DWord) (opc : BitVec 8) (h : encode i = ws) (ht : (ws.headD 0).extractLsb' 56 8 = opc)
    (hn : ws.length = opcodeWords opc.toNat) : Statement i := by
  intro x xs hx
  rw [hx] at h
  subst h
  simp only [List.headD_cons] at ht
  simp only [wordCount, ht, ← hn, List.length_cons]

/-- A step of the package has no words. -/
theorem no_words (i : Instr) (h : encode i = []) : Statement i := by
  intro x xs hx
  rw [h] at hx
  cases hx

theorem add (o : F3) : Statement (.add o) :=
  of_words _ _ 0x01 rfl (f3_top 0x01 _ _) rfl
theorem sub (o : F3) : Statement (.sub o) :=
  of_words _ _ 0x02 rfl (f3_top 0x02 _ _) rfl
theorem mul (o : F3) : Statement (.mul o) :=
  of_words _ _ 0x03 rfl (f3_top 0x03 _ _) rfl
theorem mulh (o : F3) : Statement (.mulh o) :=
  of_words _ _ 0x04 rfl (f3_top 0x04 _ _) rfl
theorem mad (wide : Bool) (o : F3) : Statement (.mad wide o) :=
  of_words _ _ 0x05 rfl (f3_top 0x05 _ _) rfl
theorem div (o : F3) : Statement (.div o) :=
  of_words _ _ 0x06 rfl (f3_top 0x06 _ _) rfl
theorem rem (o : F3) : Statement (.rem o) :=
  of_words _ _ 0x07 rfl (f3_top 0x07 _ _) rfl
theorem min (o : F3) : Statement (.min o) :=
  of_words _ _ 0x08 rfl (f3_top 0x08 _ _) rfl
theorem max (o : F3) : Statement (.max o) :=
  of_words _ _ 0x09 rfl (f3_top 0x09 _ _) rfl
theorem add64 (x32 : Bool) (o : F3) : Statement (.add64 x32 o) :=
  of_words _ _ 0x0A rfl (f3_top 0x0A _ _) rfl
theorem sub64 (x32 : Bool) (o : F3) : Statement (.sub64 x32 o) :=
  of_words _ _ 0x0B rfl (f3_top 0x0B _ _) rfl
theorem mul64 (wide : Bool) (o : F3) : Statement (.mul64 wide o) :=
  of_words _ _ 0x0C rfl (f3_top 0x0C _ _) rfl
theorem lea (o : F3) : Statement (.lea o) :=
  of_words _ _ 0x0D rfl (f3_top 0x0D _ _) rfl
theorem dp4 (su : Bool) (o : F3) : Statement (.dp4 su o) :=
  of_words _ _ 0x0E rfl (f3_top 0x0E _ _) rfl
theorem li (o : FRI) : Statement (.li o) :=
  of_words _ _ 0x0F rfl (fri_top 0x0F _ _) rfl
theorem liSx (o : FRI) : Statement (.liSx o) :=
  of_words _ _ 0x0F rfl (fri_top 0x0F _ _) rfl
theorem liZx (o : FRI) : Statement (.liZx o) :=
  of_words _ _ 0x0F rfl (fri_top 0x0F _ _) rfl
theorem and (o : F3) : Statement (.and o) :=
  of_words _ _ 0x10 rfl (f3_top 0x10 _ _) rfl
theorem or (o : F3) : Statement (.or o) :=
  of_words _ _ 0x11 rfl (f3_top 0x11 _ _) rfl
theorem xor (o : F3) : Statement (.xor o) :=
  of_words _ _ 0x12 rfl (f3_top 0x12 _ _) rfl
theorem andn (o : F3) : Statement (.andn o) :=
  of_words _ _ 0x13 rfl (f3_top 0x13 _ _) rfl
theorem shl (clamp : Bool) (o : F3) : Statement (.shl clamp o) :=
  of_words _ _ 0x14 rfl (f3_top 0x14 _ _) rfl
theorem shr (clamp : Bool) (o : F3) : Statement (.shr clamp o) :=
  of_words _ _ 0x15 rfl (f3_top 0x15 _ _) rfl
theorem sar (clamp : Bool) (o : F3) : Statement (.sar clamp o) :=
  of_words _ _ 0x16 rfl (f3_top 0x16 _ _) rfl
theorem rot (o : F3) : Statement (.rot o) :=
  of_words _ _ 0x17 rfl (f3_top 0x17 _ _) rfl
theorem popc (o : F3) : Statement (.popc o) :=
  of_words _ _ 0x18 rfl (f3_top 0x18 _ _) rfl
theorem clz (o : F3) : Statement (.clz o) :=
  of_words _ _ 0x19 rfl (f3_top 0x19 _ _) rfl
theorem ffs (o : F3) : Statement (.ffs o) :=
  of_words _ _ 0x1A rfl (f3_top 0x1A _ _) rfl
theorem brev (o : F3) : Statement (.brev o) :=
  of_words _ _ 0x1B rfl (f3_top 0x1B _ _) rfl
theorem bfe (o : F3) : Statement (.bfe o) :=
  of_words _ _ 0x1C rfl (f3_top 0x1C _ _) rfl
theorem bfi (o : F3) : Statement (.bfi o) :=
  of_words _ _ 0x1D rfl (f3_top 0x1D _ _) rfl
theorem clmul (o : F3) : Statement (.clmul o) :=
  of_words _ _ 0x1E rfl (f3_top 0x1E _ _) rfl
theorem sel (o : F3) : Statement (.sel o) :=
  of_words _ _ 0x1F rfl (f3_top 0x1F _ _) rfl
theorem icmp (c : ICond) (o : F3) : Statement (.icmp c o) :=
  of_words _ _ 0x20 rfl (f3_top 0x20 _ _) rfl
theorem fcmp (c : FCond) (o : F3) : Statement (.fcmp c o) :=
  of_words _ _ 0x21 rfl (f3_top 0x21 _ _) rfl
theorem pand (o : F3) : Statement (.pand o) :=
  of_words _ _ 0x22 rfl (f3_top 0x22 _ _) rfl
theorem por (o : F3) : Statement (.por o) :=
  of_words _ _ 0x23 rfl (f3_top 0x23 _ _) rfl
theorem pxor (o : F3) : Statement (.pxor o) :=
  of_words _ _ 0x24 rfl (f3_top 0x24 _ _) rfl
theorem pnot (o : F3) : Statement (.pnot o) :=
  of_words _ _ 0x25 rfl (f3_top 0x25 _ _) rfl
theorem pset (bit : Bool) (o : F3) : Statement (.pset bit o) :=
  of_words _ _ 0x26 rfl (f3_top 0x26 _ _) rfl
theorem br (o : FBR) : Statement (.br o) :=
  of_words _ _ 0x30 rfl (fbr_top 0x30 _) rfl
theorem brdiv (o : FBR) : Statement (.brdiv o) :=
  of_words _ _ 0x31 rfl (fbr_top 0x31 _) rfl
theorem join (o : FBR) : Statement (.join o) :=
  of_words _ _ 0x32 rfl (fbr_top 0x32 _) rfl
theorem call (o : FBR) : Statement (.call o) :=
  of_words _ _ 0x33 rfl (fbr_top 0x33 _) rfl
theorem ret (o : FBR) : Statement (.ret o) :=
  of_words _ _ 0x34 rfl (fbr_top 0x34 _) rfl
theorem exit (o : FBR) : Statement (.exit o) :=
  of_words _ _ 0x35 rfl (fbr_top 0x35 _) rfl
theorem brx (o : FBR) : Statement (.brx o) :=
  of_words _ _ 0x3C rfl (fbr_top 0x3C _) rfl
theorem wait (o : FRI) : Statement (.wait o) :=
  of_words _ _ 0x36 rfl (fri_top 0x36 _ _) rfl
theorem nop (o : F3) : Statement (.nop o) :=
  of_words _ _ 0x37 rfl (f3_top 0x37 _ _) rfl
theorem tfence (o : F3) : Statement (.tfence o) :=
  of_words _ _ 0x38 rfl (f3_top 0x38 _ _) rfl
theorem getf (o : F3) : Statement (.getf o) :=
  of_words _ _ 0x39 rfl (f3_top 0x39 _ _) rfl
theorem getfClr (o : F3) : Statement (.getfClr o) :=
  of_words _ _ 0x39 rfl (f3_top 0x39 _ _) rfl
theorem clrf (o : F3) : Statement (.clrf o) :=
  of_words _ _ 0x3A rfl (f3_top 0x3A _ _) rfl
theorem clrfFen (o : F3) : Statement (.clrfFen o) :=
  of_words _ _ 0x3A rfl (f3_top 0x3A _ _) rfl
theorem clrfLoad (o : F3) : Statement (.clrfLoad o) :=
  of_words _ _ 0x3A rfl (f3_top 0x3A _ _) rfl
theorem rdsr (o : F3) : Statement (.rdsr o) :=
  of_words _ _ 0x3B rfl (f3_top 0x3B _ _) rfl
theorem fadd (o : F3) : Statement (.fadd o) :=
  of_words _ _ 0x40 rfl (f3_top 0x40 _ _) rfl
theorem fsub (o : F3) : Statement (.fsub o) :=
  of_words _ _ 0x41 rfl (f3_top 0x41 _ _) rfl
theorem fmul (o : F3) : Statement (.fmul o) :=
  of_words _ _ 0x42 rfl (f3_top 0x42 _ _) rfl
theorem ffma (o : F3) : Statement (.ffma o) :=
  of_words _ _ 0x43 rfl (f3_top 0x43 _ _) rfl
theorem fmin (o : F3) : Statement (.fmin o) :=
  of_words _ _ 0x44 rfl (f3_top 0x44 _ _) rfl
theorem fmax (o : F3) : Statement (.fmax o) :=
  of_words _ _ 0x45 rfl (f3_top 0x45 _ _) rfl
theorem fdiv (o : F3) : Statement (.fdiv o) :=
  of_words _ _ 0x46 rfl (f3_top 0x46 _ _) rfl
theorem fscale (o : F3) : Statement (.fscale o) :=
  of_words _ _ 0x47 rfl (f3_top 0x47 _ _) rfl
theorem fround (exact : Bool) (o : F3) : Statement (.fround exact o) :=
  of_words _ _ 0x48 rfl (f3_top 0x48 _ _) rfl
theorem fclass (o : F3) : Statement (.fclass o) :=
  of_words _ _ 0x49 rfl (f3_top 0x49 _ _) rfl
theorem fdot2 (o : F3) : Statement (.fdot2 o) :=
  of_words _ _ 0x4A rfl (f3_top 0x4A _ _) rfl
theorem frcp (o : F3) : Statement (.frcp o) :=
  of_words _ _ 0x50 rfl (f3_top 0x50 _ _) rfl
theorem frsq (o : F3) : Statement (.frsq o) :=
  of_words _ _ 0x51 rfl (f3_top 0x51 _ _) rfl
theorem fsqrt (o : F3) : Statement (.fsqrt o) :=
  of_words _ _ 0x52 rfl (f3_top 0x52 _ _) rfl
theorem fexp2 (o : F3) : Statement (.fexp2 o) :=
  of_words _ _ 0x53 rfl (f3_top 0x53 _ _) rfl
theorem flog2 (o : F3) : Statement (.flog2 o) :=
  of_words _ _ 0x54 rfl (f3_top 0x54 _ _) rfl
theorem fsin (o : F3) : Statement (.fsin o) :=
  of_words _ _ 0x55 rfl (f3_top 0x55 _ _) rfl
theorem fcos (o : F3) : Statement (.fcos o) :=
  of_words _ _ 0x56 rfl (f3_top 0x56 _ _) rfl
theorem ftanh (o : F3) : Statement (.ftanh o) :=
  of_words _ _ 0x57 rfl (f3_top 0x57 _ _) rfl
theorem cvt (k : CvtVar) (o : F3) : Statement (.cvt k o) :=
  of_words _ _ 0x58 rfl (f3_top 0x58 _ _) rfl
theorem pack (e5m2 : Bool) (o : F3) : Statement (.pack e5m2 o) :=
  of_words _ _ 0x59 rfl (f3_top 0x59 _ _) rfl
theorem packOx4 (o : F3) : Statement (.packOx4 o) :=
  of_words _ _ 0x59 rfl (f3_top 0x59 _ _) rfl
theorem unpack (e5m2 : Bool) (o : F3) : Statement (.unpack e5m2 o) :=
  of_words _ _ 0x5A rfl (f3_top 0x5A _ _) rfl
theorem unpackOx4 (o : F3) : Statement (.unpackOx4 o) :=
  of_words _ _ 0x5A rfl (f3_top 0x5A _ _) rfl
theorem xchg (m : XMode) (o : F3) : Statement (.xchg m o) :=
  of_words _ _ 0x60 rfl (f3_top 0x60 _ _) rfl
theorem vote (m : VMode) (o : F3) : Statement (.vote m o) :=
  of_words _ _ 0x61 rfl (f3_top 0x61 _ _) rfl
theorem matchOp (all : Bool) (o : F3) : Statement (.matchOp all o) :=
  of_words _ _ 0x62 rfl (f3_top 0x62 _ _) rfl
theorem redux (op : ROp) (o : F3) : Statement (.redux op o) :=
  of_words _ _ 0x63 rfl (f3_top 0x63 _ _) rfl
theorem prefixOp (op : ROp) (excl : Bool) (o : F3) : Statement (.prefixOp op excl o) :=
  of_words _ _ 0x64 rfl (f3_top 0x64 _ _) rfl
theorem pick (o : F3) : Statement (.pick o) :=
  of_words _ _ 0x65 rfl (f3_top 0x65 _ _) rfl
theorem lid (m : LidMode) (o : F3) : Statement (.lid m o) :=
  of_words _ _ 0x66 rfl (f3_top 0x66 _ _) rfl
theorem segm (op : ROp) (tot : Bool) (o : F3) : Statement (.segm op tot o) :=
  of_words _ _ 0x67 rfl (f3_top 0x67 _ _) rfl
theorem ld (w : Width) (o : FMem) : Statement (.ld w o) :=
  of_words _ _ 0x70 rfl (fmem_top 0x70 _ _) rfl
theorem st (w : Width) (o : FMem) : Statement (.st w o) :=
  of_words _ _ 0x71 rfl (fmem_top 0x71 _ _) rfl
theorem ldu (w : Width) (o : FMem) : Statement (.ldu w o) :=
  of_words _ _ 0x72 rfl (fmem_top 0x72 _ _) rfl
theorem stu (w : Width) (o : FMem) : Statement (.stu w o) :=
  of_words _ _ 0x73 rfl (fmem_top 0x73 _ _) rfl
theorem lds (w : Width) (o : FMem) : Statement (.lds w o) :=
  of_words _ _ 0x74 rfl (fmem_top 0x74 _ _) rfl
theorem sts (w : Width) (o : FMem) : Statement (.sts w o) :=
  of_words _ _ 0x75 rfl (fmem_top 0x75 _ _) rfl
theorem ldc (w : Width) (o : FMem) : Statement (.ldc w o) :=
  of_words _ _ 0x76 rfl (fmem_top 0x76 _ _) rfl
theorem stc (w : Width) (o : FMem) : Statement (.stc w o) :=
  of_words _ _ 0x77 rfl (fmem_top 0x77 _ _) rfl
theorem ldk (w : Width) (o : FMem) : Statement (.ldk w o) :=
  of_words _ _ 0x78 rfl (fmem_top 0x78 _ _) rfl
theorem setfe (o : FMem) : Statement (.setfe o) :=
  of_words _ _ 0x79 rfl (fmem_top 0x79 _ _) rfl
theorem clrfe (o : FMem) : Statement (.clrfe o) :=
  of_words _ _ 0x7A rfl (fmem_top 0x7A _ _) rfl
theorem atom (op : AOp) (o : FMem) : Statement (.atom op o) :=
  of_words _ _ 0x80 rfl (fmem_top 0x80 _ _) rfl
theorem atomcas (wide : Bool) (o : FMem) : Statement (.atomcas wide o) :=
  of_words _ _ 0x81 rfl (fmem_top 0x81 _ _) rfl
theorem red (op : AOp) (o : FMem) : Statement (.red op o) :=
  of_words _ _ 0x82 rfl (fmem_top 0x82 _ _) rfl
theorem atomf (bf : Bool) (o : FMem) : Statement (.atomf bf o) :=
  of_words _ _ 0x83 rfl (fmem_top 0x83 _ _) rfl
theorem redf (bf : Bool) (o : FMem) : Statement (.redf bf o) :=
  of_words _ _ 0x84 rfl (fmem_top 0x84 _ _) rfl
theorem tbeg (o : FMem) : Statement (.tbeg o) :=
  of_words _ _ 0x85 rfl (fmem_top 0x85 _ _) rfl
theorem tend (o : FMem) : Statement (.tend o) :=
  of_words _ _ 0x86 rfl (fmem_top 0x86 _ _) rfl
theorem transactionCommit (ctx : Nat) : Statement (.transactionCommit ctx) :=
  no_words _ rfl
theorem tabt (o : F3) : Statement (.tabt o) :=
  of_words _ _ 0x87 rfl (f3_top 0x87 _ _) rfl
theorem tstat (o : F3) : Statement (.tstat o) :=
  of_words _ _ 0x88 rfl (f3_top 0x88 _ _) rfl
theorem fence (o : FMem) : Statement (.fence o) :=
  of_words _ _ 0x90 rfl (fmem_top 0x90 _ _) rfl
theorem pathf (s : PathSel) (o : FMem) : Statement (.pathf s o) :=
  of_words _ _ 0x91 rfl (fmem_top 0x91 _ _) rfl
theorem placef (o : F3) : Statement (.placef o) :=
  of_words _ _ 0x92 rfl (f3_top 0x92 _ _) rfl
theorem barinit (o : FMem) : Statement (.barinit o) :=
  of_words _ _ 0x93 rfl (fmem_top 0x93 _ _) rfl
theorem arrive (o : FMem) : Statement (.arrive o) :=
  of_words _ _ 0x94 rfl (fmem_top 0x94 _ _) rfl
theorem arriveInb (o : FMem) : Statement (.arriveInb o) :=
  of_words _ _ 0x94 rfl (fmem_top 0x94 _ _) rfl
theorem arriveOutb (o : FMem) : Statement (.arriveOutb o) :=
  of_words _ _ 0x94 rfl (fmem_top 0x94 _ _) rfl
theorem barwait (ph1 : Bool) (o : FMem) : Statement (.barwait ph1 o) :=
  of_words _ _ 0x95 rfl (fmem_top 0x95 _ _) rfl
theorem bwatch (slot : BitVec 3) (o : FMem) : Statement (.bwatch slot o) :=
  of_words _ _ 0x96 rfl (fmem_top 0x96 _ _) rfl
theorem decl (k : DKind) (o : FMem) : Statement (.decl k o) :=
  of_words _ _ 0x97 rfl (fmem_top 0x97 _ _) rfl
theorem redecl (k : DKind) (o : FMem) : Statement (.redecl k o) :=
  of_words _ _ 0x98 rfl (fmem_top 0x98 _ _) rfl
theorem undecl (o : F3) : Statement (.undecl o) :=
  of_words _ _ 0x99 rfl (f3_top 0x99 _ _) rfl
theorem placeq (o : F3) : Statement (.placeq o) :=
  of_words _ _ 0x9A rfl (f3_top 0x9A _ _) rfl
theorem mlds (o : MldsOps) : Statement (.mlds o) :=
  of_words _ (o.words none) 0xA0 rfl (mlds_top o none) rfl
theorem mldsBar (o : MldsOps) (bar : BarOps) : Statement (.mldsBar o bar) :=
  of_words _ (o.words (some bar)) 0xA0 rfl (mlds_top o (some bar)) rfl
theorem mswap (qset : BitVec 4) : Statement (.mswap qset) :=
  of_words _ _ 0xA1 rfl (qset_top _ _) rfl
theorem mloop (o : MloopOps) : Statement (.mloop o) :=
  of_words _ _ 0xA2 rfl (mloop_top _) rfl
theorem mdrain (o : MdrainOps) : Statement (.mdrain o) :=
  of_words _ _ 0xA3 rfl (mdrain_top _) rfl
theorem mzero (o : MzeroOps) : Statement (.mzero o) :=
  of_words _ _ 0xA4 rfl (mzero_top _) rfl
theorem mcomp (o : McompOps) : Statement (.mcomp o) :=
  of_words _ _ 0xA5 rfl (mcomp_top _) rfl
theorem mfuse (qset : BitVec 4) : Statement (.mfuse qset) :=
  of_words _ _ 0xA6 rfl (qset_top _ _) rfl
theorem mread (o : MreadOps) : Statement (.mread o) :=
  of_words _ _ 0xA7 rfl (mread_top _) rfl
theorem mstat (qset : BitVec 4) (dst : Reg) : Statement (.mstat qset dst) :=
  of_words _ _ 0xA8 rfl (mstat_top _ _) rfl
theorem quadrantStart (g : Nat) (q : Nat) : Statement (.quadrantStart g q) :=
  no_words _ rfl
theorem mloopStep (g : Nat) (q : Nat) (bad : List (Nat × BitVec 5)) : Statement (.mloopStep g q bad) :=
  no_words _ rfl
theorem matrixComplete (g : Nat) (q : Nat) : Statement (.matrixComplete g q) :=
  no_words _ rfl
theorem nest (op : NestOp) (ty : Ty) (n : FN) : Statement (.nest op ty n) :=
  of_words _ _ 0xB0 rfl (fn_top _ _ _ _) rfl
theorem ragged (pr : BitVec 3) (n : FN) : Statement (.ragged pr n) :=
  of_words _ _ 0xB1 rfl (fn_top _ _ _ _) rfl
theorem fork (o : ForkOps) : Statement (.fork o) :=
  of_words _ _ 0xC0 rfl (fork_top _) rfl
theorem rdv (o : F3) : Statement (.rdv o) :=
  of_words _ _ 0xC1 rfl (f3_top 0xC1 _ _) rfl
theorem engineProgramEnd (g : Nat) (e : Nat) : Statement (.engineProgramEnd g e) :=
  no_words _ rfl
theorem lace (o : LaceOps) : Statement (.lace o) :=
  of_words _ _ 0xC2 rfl (lace_top _) rfl
theorem laceg (o : LacegOps) : Statement (.laceg o) :=
  of_words _ _ 0xC3 rfl (laceg_top _) rfl
theorem laceCopyStart (core : Nat) (k : Nat) : Statement (.laceCopyStart core k) :=
  no_words _ rfl
theorem laceSourceRead (core : Nat) (k : Nat) (granule : Nat) : Statement (.laceSourceRead core k granule) :=
  no_words _ rfl
theorem laceGranuleLanding (core : Nat) (k : Nat) (granule : Nat) : Statement (.laceGranuleLanding core k granule) :=
  no_words _ rfl
theorem laceCopyComplete (core : Nat) (k : Nat) : Statement (.laceCopyComplete core k) :=
  no_words _ rfl
theorem awlmodeOn (cls : BitVec 4) (o : FMem) : Statement (.awlmodeOn cls o) :=
  of_words _ _ 0xC4 rfl (fmem_top 0xC4 _ _) rfl
theorem awlmodeOff (o : FMem) : Statement (.awlmodeOff o) :=
  of_words _ _ 0xC4 rfl (fmem_top 0xC4 _ _) rfl
theorem sessionDrainDone (ch : Nat) : Statement (.sessionDrainDone ch) :=
  no_words _ rfl
theorem sessionDeadline (ch : Nat) : Statement (.sessionDeadline ch) :=
  no_words _ rfl
theorem awlbc (all : Bool) (o : F3) : Statement (.awlbc all o) :=
  of_words _ _ 0xC5 rfl (f3_top 0xC5 _ _) rfl
theorem awlmac (o : F3) : Statement (.awlmac o) :=
  of_words _ _ 0xC6 rfl (f3_top 0xC6 _ _) rfl
theorem awlrd (o : F3) : Statement (.awlrd o) :=
  of_words _ _ 0xC7 rfl (f3_top 0xC7 _ _) rfl
theorem trap (o : FRI) : Statement (.trap o) :=
  of_words _ _ 0xD0 rfl (fri_top 0xD0 _ _) rfl
theorem brk (o : FRI) : Statement (.brk o) :=
  of_words _ _ 0xD3 rfl (fri_top 0xD3 _ _) rfl
theorem hcall (o : FRI) : Statement (.hcall o) :=
  of_words _ _ 0xD2 rfl (fri_top 0xD2 _ _) rfl
theorem rfh (o : F3) : Statement (.rfh o) :=
  of_words _ _ 0xD1 rfl (f3_top 0xD1 _ _) rfl
theorem rfhSkip (o : F3) : Statement (.rfhSkip o) :=
  of_words _ _ 0xD1 rfl (f3_top 0xD1 _ _) rfl
theorem tmaskOff (o : F3) : Statement (.tmaskOff o) :=
  of_words _ _ 0xD4 rfl (f3_top 0xD4 _ _) rfl
theorem tmaskOn (o : F3) : Statement (.tmaskOn o) :=
  of_words _ _ 0xD4 rfl (f3_top 0xD4 _ _) rfl
theorem hset (o : FBR) : Statement (.hset o) :=
  of_words _ _ 0xD5 rfl (fbr_top 0xD5 _) rfl
theorem clauseStart : Statement (.clauseStart) :=
  no_words _ rfl
theorem issueWindowStart (core : Nat) : Statement (.issueWindowStart core) :=
  no_words _ rfl
theorem issueWindowEnd (core : Nat) : Statement (.issueWindowEnd core) :=
  no_words _ rfl
theorem windowReclaim (core : Nat) : Statement (.windowReclaim core) :=
  no_words _ rfl
theorem teamStreamWake (core : Nat) : Statement (.teamStreamWake core) :=
  no_words _ rfl
theorem placementStep (vd : Nat) (cores : List Nat) : Statement (.placementStep vd cores) :=
  no_words _ rfl
theorem teamEnd (ctx : Nat) : Statement (.teamEnd ctx) :=
  no_words _ rfl
theorem requestAtTarget (i : Nat) : Statement (.requestAtTarget i) :=
  no_words _ rfl
theorem completionReceive (i : Nat) : Statement (.completionReceive i) :=
  no_words _ rfl
theorem faultHalt (ctx : Nat) : Statement (.faultHalt ctx) :=
  no_words _ rfl
theorem generationHoldExpiry (ctx : Nat) : Statement (.generationHoldExpiry ctx) :=
  no_words _ rfl
theorem frameBoundary : Statement (.frameBoundary) :=
  no_words _ rfl
theorem channelRequestIssue (ch : Nat) : Statement (.channelRequestIssue ch) :=
  no_words _ rfl
theorem leaveGrant (zone : Nat) : Statement (.leaveGrant zone) :=
  no_words _ rfl
theorem preemptionRequest (gang : Nat) (forced : Bool) : Statement (.preemptionRequest gang forced) :=
  no_words _ rfl
theorem saveComplete (gang : Nat) : Statement (.saveComplete gang) :=
  no_words _ rfl
theorem trackerPeriodEnd (stack : Nat) (vd : Nat) : Statement (.trackerPeriodEnd stack vd) :=
  no_words _ rfl
theorem scrubSector (sector : Nat) : Statement (.scrubSector sector) :=
  no_words _ rfl
theorem flitReceive (link : Nat) (erased : List Nat) : Statement (.flitReceive link erased) :=
  no_words _ rfl
theorem railFailure (link : Nat) (rail : Nat) : Statement (.railFailure link rail) :=
  no_words _ rfl
theorem laneCalibration (grp : Nat) (weak : Bool) : Statement (.laneCalibration grp weak) :=
  no_words _ rfl
theorem linkDown (link : Nat) : Statement (.linkDown link) :=
  no_words _ rfl
theorem zoneEvaluation (zone : Nat) (flow : Nat) (temp : Nat) (pres : Nat) : Statement (.zoneEvaluation zone flow temp pres) :=
  no_words _ rfl
theorem dryDeclaration (zone : Nat) : Statement (.dryDeclaration zone) :=
  no_words _ rfl
theorem evacuationSaveTimeout (zone : Nat) : Statement (.evacuationSaveTimeout zone) :=
  no_words _ rfl
theorem evacuationPurge (zone : Nat) : Statement (.evacuationPurge zone) :=
  no_words _ rfl
theorem evacuationPulse (zone : Nat) : Statement (.evacuationPulse zone) :=
  no_words _ rfl
theorem evacuationReprime (zone : Nat) : Statement (.evacuationReprime zone) :=
  no_words _ rfl
theorem evacuationVerify (zone : Nat) (flow : Nat) : Statement (.evacuationVerify zone flow) :=
  no_words _ rfl
theorem switchStart (wr : Writer) (outVd : Nat) (inVd : Nat) (dies : BitVec 4) : Statement (.switchStart wr outVd inVd dies) :=
  no_words _ rfl
theorem switchDeadline1 : Statement (.switchDeadline1) :=
  no_words _ rfl
theorem switchDeadline2 : Statement (.switchDeadline2) :=
  no_words _ rfl
theorem switchFinish : Statement (.switchFinish) :=
  no_words _ rfl
theorem homeMapCommit (wr : Writer) (vd : Nat) : Statement (.homeMapCommit wr vd) :=
  no_words _ rfl
theorem faultQueueRdWrite (wr : Writer) (vd : Nat) (rd : BitVec 16) : Statement (.faultQueueRdWrite wr vd rd) :=
  no_words _ rfl
theorem faultResume (wr : Writer) (vd : Nat) (ctx : Nat) : Statement (.faultResume wr vd ctx) :=
  no_words _ rfl
theorem faultKill (wr : Writer) (vd : Nat) (ctx : Nat) : Statement (.faultKill wr vd ctx) :=
  no_words _ rfl
theorem tlbInvalidate (wr : Writer) (va : BitVec 40) (asid : BitVec 10) (size : BitVec 2) : Statement (.tlbInvalidate wr va asid size) :=
  no_words _ rfl
theorem frameRelease (wr : Writer) (frame : BitVec 32) : Statement (.frameRelease wr frame) :=
  no_words _ rfl
theorem ownershipWrite (wr : Writer) (dom : Nat) (reg : OwnReg) (val : Nat) : Statement (.ownershipWrite wr dom reg val) :=
  no_words _ rfl
theorem domainControlWrite (wr : Writer) (dom : Nat) (val : Word) : Statement (.domainControlWrite wr dom val) :=
  no_words _ rfl
theorem mscScratchWrite (wr : Writer) (dom : Nat) (w : BitVec 4) : Statement (.mscScratchWrite wr dom w) :=
  no_words _ rfl
theorem vdControlWrite (wr : Writer) (vd : Nat) (val : Word) : Statement (.vdControlWrite wr vd val) :=
  no_words _ rfl
theorem calendarSwap (wr : Writer) (cal : CalId) : Statement (.calendarSwap wr cal) :=
  no_words _ rfl
theorem calendarEntryWrite (wr : Writer) (cal : CalId) (entry : Nat) (val : Byte) : Statement (.calendarEntryWrite wr cal entry val) :=
  no_words _ rfl
theorem bucketWrite (wr : Writer) (bkt : BktId) (rho : BitVec 10) (sigma : BitVec 12) : Statement (.bucketWrite wr bkt rho sigma) :=
  no_words _ rfl
theorem contractWrite (wr : Writer) (ch : Nat) (vd : Nat) (guar : BitVec 10) (rho : BitVec 10) (sigma : BitVec 12) : Statement (.contractWrite wr ch vd guar rho sigma) :=
  no_words _ rfl
theorem repairByteWrite (wr : Writer) (core : Nat) (q : Nat) (val : Byte) : Statement (.repairByteWrite wr core q val) :=
  no_words _ rfl
theorem coolantZoneWrite (wr : Writer) (zone : Nat) (off : Nat) (val : DWord) : Statement (.coolantZoneWrite wr zone off val) :=
  no_words _ rfl
theorem fenceClear (wr : Writer) (zone : Nat) (flow : Nat) : Statement (.fenceClear wr zone flow) :=
  no_words _ rfl
theorem notifyWrite (wr : Writer) (q : Nat) (val : Word) : Statement (.notifyWrite wr q val) :=
  no_words _ rfl
theorem packetTake (q : Nat) : Statement (.packetTake q) :=
  no_words _ rfl
theorem waitvalPoll (q : Nat) : Statement (.waitvalPoll q) :=
  no_words _ rfl
theorem launchComplete (l : Nat) : Statement (.launchComplete l) :=
  no_words _ rfl
theorem pauseClear (wr : Writer) (vd : Nat) : Statement (.pauseClear wr vd) :=
  no_words _ rfl
theorem hostSnoop (pa : Nat) : Statement (.hostSnoop pa) :=
  no_words _ rfl
theorem hostMemAccess (pa : Nat) (wr : Option (List Byte)) : Statement (.hostMemAccess pa wr) :=
  no_words _ rfl
theorem attestation (wr : Writer) (dom : Nat) : Statement (.attestation wr dom) :=
  no_words _ rfl
theorem keyWrap (wr : Writer) (dom : Nat) : Statement (.keyWrap wr dom) :=
  no_words _ rfl
theorem journalPeriod : Statement (.journalPeriod) :=
  no_words _ rfl
theorem journalRdWrite (wr : Writer) (dom : Nat) (rd : BitVec 16) : Statement (.journalRdWrite wr dom rd) :=
  no_words _ rfl
theorem coldReset : Statement (.coldReset) :=
  no_words _ rfl
theorem warmReset (retention : Bool) : Statement (.warmReset retention) :=
  no_words _ rfl
theorem registerWrite (wr : Writer) (blk : Blk) (off : Nat) (val : BitVec 1024) : Statement (.registerWrite wr blk off val) :=
  no_words _ rfl
theorem completionAcknowledgement (i : Nat) : Statement (.completionAcknowledgement i) :=
  no_words _ rfl
theorem linkUp (link : Nat) : Statement (.linkUp link) :=
  no_words _ rfl

end Sys2Proof.Laws.Encoding
end

