-- ==== Sys2Proof/Tests/Slice0.lean ====
section
/-! SUPPORT. Tests: words of the spec's encodings, ill-formed terms, single steps with results worked out by hand
from the spec, and for every statement with hypotheses a state and operands that meet them. -/

namespace Sys2Proof.Tests
set_option Elab.async false
open Sys2Proof Sys2Proof.Machine Sys2Proof.Claims

/-! ## Words (the spec's worked examples and encoding tables) -/

/-- An F-3R instruction of 32-bit integers that always executes. -/
def f3 (d a b : Nat) : F3 :=
  { d := BitVec.ofNat 8 d, a := BitVec.ofNat 8 a, b := BitVec.ofNat 8 b, c := 0, p := .always, ty := .i32, rnd := .rn
    sat := false, imm := 0 }
/-- An F-MEM instruction that always executes. -/
def fm (data base : Nat) (off : Nat) : FMem :=
  { data := BitVec.ofNat 8 data, base := BitVec.ofNat 8 base, p := .always, scope := .team, ord := .plain, few := false
    fec := false, far := false, off := BitVec.ofNat 24 off }
def fri (d a : Nat) (imm : Nat) : FRI :=
  { d := BitVec.ofNat 8 d, a := BitVec.ofNat 8 a, p := .always, imm := BitVec.ofNat 32 imm }
def fbr (r : Nat) (off : Nat) : FBR := { cond := .always, r := BitVec.ofNat 8 r, p := .always, off := BitVec.ofNat 32 off }

/-- Words of one word that decode, with what the spec's listings say they are. -/
def words : List (DWord × Instr) := [
  -- R113, the encoded clause of 04
  (0x0100_302F_E000_0001, .add { f3 3 2 254 with imm := 1 }),
  (0x4200_403F_E002_4430, .fmul { f3 4 3 254 with p := ⟨false, 2⟩, ty := .f32, rnd := .rz, imm := 0x30 }),
  (0x3500_0001_0000_0000, .exit { fbr 0 0 with p := ⟨false, 1⟩ }),
  -- 05, the two paths of a branch
  (0x1800_6050_0000_1000, .popc { f3 6 5 0 with ty := .n32 }),
  (0x1000_706F_E000_1001, .and { f3 7 6 254 with ty := .n32, imm := 1 }),
  (0x2010_307F_E000_1000, .icmp .ne { f3 3 7 254 with ty := .n32 }),
  (0x3130_0000_0000_0008, .brdiv { fbr 0 8 with cond := ⟨false, 3⟩ }),
  (0x3200_0000_0000_0000, .join (fbr 0 0)),
  -- 06
  (0x5920_9010_6000_4000, .packOx4 { f3 9 1 6 with ty := .f32 }),
  (0x6000_201F_E052_0012, .xchg .xor { f3 2 1 254 with c := 5, p := ⟨false, 2⟩, imm := 0x12 }),
  -- 07
  (0x8000_5020_6000_0000, .atom .add32 { fm 5 2 0 with scope := .package }),
  (0x9410_C0A0_2000_0000, .arriveInb { fm 12 10 0 with scope := .group }),
  (0x9510_A0A0_2000_0000, .barwait true { fm 10 10 0 with scope := .group }),
  -- 12 to 14
  (0x7240_60E0_0000_0000, .ldu .w32 (fm 6 14 0)),
  (0x0A10_E0EF_E000_3004, .add64 true { f3 14 14 254 with ty := .n64, imm := 4 }),
  (0x9810_5000_0000_0000, .redecl .lane (fm 5 0 0)),
  (0x7141_5160_0000_0000, .st .w32 (fm 21 22 0)),
  (0x7441_6140_2600_0010, .lds .w32 { fm 22 20 0x10 with scope := .group, few := true, fec := true }),
  (0x8203_3343_6100_0000, .red .add32 { fm 51 52 0 with p := ⟨false, 3⟩, scope := .package, far := true }),
  (0x6202_D2C0_0FF1_1000, .matchOp false { f3 45 44 0 with c := 255, p := ⟨false, 1⟩, ty := .n32 }),
  (0x0F03_1000_FE00_0000, .li (fri 49 0 0xFE00_0000)),
  (0x3000_0001_FFFF_FFFC, .br { fbr 0 0xFFFF_FFFC with p := ⟨false, 1⟩ }),
  (0x1E01_00B1_4000_1000, .clmul { f3 16 11 20 with ty := .n32 }),
  -- 16
  (0xC431_0040_0000_0000, .awlmodeOn 3 (fm 16 4 0)),
  (0x9741_C040_0000_0000, .decl .bank (fm 28 4 0)),
  (0xC501_C140_0000_0000, .awlbc false (f3 28 20 0)),
  (0xC601_D1C0_8000_0005, .awlmac { f3 29 28 8 with imm := 5 }),
  (0xC701_F1D0_0000_0000, .awlrd (f3 31 29 0)),
  (0x9901_D000_0000_0000, .undecl (f3 29 0 0)),
  (0x6002_01F1_1000_0007, .xchg .xor { f3 32 31 17 with imm := 7 })]

theorem test_words : words.map (fun x => decode [x.1]) = words.map (fun x => .ok x.2) := rfl

-- words of 15, 08 and 09
theorem test_word_lace : decode [0xC241_8080_A000_0010, 0x01F0_001C_4000_0000] = .ok (.lace
    { dims := 1, le := 0, src := 24, dst := 8, bar := 10, p := .always, rowb := 16, x1 := 31, x2 := 0, str := 28
      setfe := false, inc := true, outc := false }) := rfl
theorem test_word_mlds : decode [0xA006_0000_0140_0000, 0x0002_0000_0000_0008] = .ok (.mlds
    { qset := 6, breg := 10, fbb := 2, pitch := 8 }) := rfl
theorem test_word_mloop : decode [0xA250_2408_04C0_0000, 0x0002_0005_0002_0001] = .ok (.mloop
    { qset := 0, df := .op, acc := 1, areg := 2, breg := 6, oreg := 0, mreg := 0, steps := 64, ovw := true, sout := false
      ainc := 2, fba := 2, fbb := 5, binc := 1, lclass := 2 }) := rfl
theorem test_word_mdrain : decode [0xA302_0030_0000_0000, 0x0008_0000_0000_0000] = .ok (.mdrain
    { add := false, ikind := .f32, qset := 2, acc := 0, ofmt := .f32, rnd := .rn, sat := false, dreg := 12, pitch := 8 }) := rfl
theorem test_word_ragged : decode [0xB120_2000_2080_A000, 0x0003_0000_0000_0000, 0, 0] = .ok (.ragged 2
    { depth := 1, rmask := 0, p := .always, bd := 2, ba := 8, bb := 10, shd := 0, sha := 0, shb := 0, x0 := 3, x1 := 0, x2 := 0
      x3 := 0, x4 := 0, strides := 0 }) := rfl

-- R102, R104, R112: what no word says
theorem test_word_opcodes : decode [0] = .error .opcode ∧ decode [0xFF00_0000_0000_0000] = .error .opcode := ⟨rfl, rfl⟩
theorem test_word_reserved : decode [0x0100_302F_E000_0101] = .error .reserved := rfl
theorem test_word_type : decode [0x0100_302F_E000_C001] = .error .code := rfl
theorem test_word_cut : decode [0xA006_0000_0140_0000] = .error .length := rfl

/-! ## Ill-formed terms, one for each check (R112) -/

def refuses (l : List Instr) : Bool := l.all (fun i => !i.wf)

/-- A type, SAT, MOD or IMM8 that an entry does not take; the literal as a destination; a pair at an odd number. -/
theorem test_wf_f3 : refuses [.add { f3 1 2 3 with ty := .f32 }, .min { f3 1 2 3 with sat := true },
    .add { f3 1 2 3 with rnd := .rz }, .add { f3 1 2 3 with imm := 1 }, .add { f3 1 2 3 with c := 1 }, .add (f3 254 2 3),
    .add64 false { f3 3 2 4 with ty := .i64 }, .add64 true { f3 2 3 4 with ty := .i64 }] = true := by decide +kernel
/-- IMM8 beyond what `lea`, `sel`, `pack`, `unpack`, `awlmac` and `cvt` read; a special register that is none. -/
theorem test_wf_imm : refuses [.lea { f3 2 4 3 with imm := 8 }, .sel { f3 1 2 3 with imm := 16 }, .pack true { f3 1 2 3 with ty := .f32, imm := 2 },
    .unpack true { f3 1 2 0 with ty := .f32, imm := 4 }, .awlmac { f3 1 2 4 with imm := 8 }, .awlmac (f3 2 2 4),
    .cvt .scalar { f3 1 2 0 with imm := 16 }, .cvt .scalar (f3 1 2 0), .cvt .widen { f3 1 2 0 with ty := .f32, imm := 5 },
    .rdsr { f3 1 0 0 with imm := 3 }, .packOx4 { f3 1 2 254 with ty := .f32, imm := 1 }] = true := by decide +kernel
/-- Predicate codes with NEG as a destination, or of the wrong kind; a LOG of 0, a lane mask beyond the segment. -/
theorem test_wf_pred : refuses [.icmp .eq (f3 16 1 2), .pand (f3 1 32 2), .xchg .xor { f3 1 2 254 with imm := 0x10 },
    .xchg .xor { f3 1 2 254 with imm := 0x41 }, .xchg .idx { f3 1 2 254 with imm := 1 }, .pick { f3 1 2 3 with c := 1 },
    .segm .add false { f3 1 2 0 with c := 9 }, .redux .and (f3 1 2 0)] = true := by decide +kernel
/-- Control instructions: fields that must be zero or always. -/
theorem test_wf_control : refuses [.br (fbr 1 0), .join (fbr 0 1), .exit { fbr 0 0 with cond := ⟨false, 1⟩ }, .ret (fbr 3 0),
    .call (fbr 254 0), .wait (fri 0 0 (2 ^ 18)), .trap (fri 1 0 0), .nop (f3 1 0 0), .hset (fbr 254 0), .li (fri 254 0 0),
    .liSx (fri 1 0 0)] = true := by decide +kernel
/-- Memory instructions: ORD, SCOPE, FEW, FEC, FAR and widths that an entry does not take. -/
theorem test_wf_mem : refuses [.ld .w32 { fm 1 2 0 with ord := .rel }, .st .s8 (fm 1 2 0), .ldu .w128 (fm 4 2 0), .ld .w64 (fm 3 2 0),
    .ld .w32 (fm 1 3 0), .ld .w32 { fm 1 2 0 with few := true }, .lds .w32 { fm 1 2 0 with scope := .package },
    .sts .w32 { fm 1 2 0 with few := true }, .ldk .w8 (fm 1 2 0), .setfe (fm 1 2 0), .red .xchg32 (fm 1 2 0),
    .st .w32 { fm 1 2 0 with far := true }, .tbeg (fm 0 0 0), .tend { fm 0 0 0 with p := ⟨false, 1⟩ }, .fence (fm 0 0 0),
    .arrive (fm 0 2 0), .barwait true { fm 1 2 0 with scope := .group }, .decl .lane (fm 255 0 0), .decl .team (fm 1 2 0),
    .undecl (f3 255 0 0), .placeq (f3 1 255 0), .awlmodeOn 0 (fm 1 2 0)] = true := by decide +kernel

def loop : MloopOps :=
  { qset := 0, df := .ip, acc := 0, areg := 2, breg := 0, oreg := 0, mreg := 0, steps := 1, ovw := false, sout := false
    ainc := 2, fba := 2, fbb := 0, binc := 0, lclass := 1 }
def drain : MdrainOps :=
  { add := false, ikind := .i32, qset := 0, acc := 0, ofmt := .i32, rnd := .rn, sat := false, dreg := 2, pitch := 8 }
def comp : McompOps :=
  { p48 := false, qset := 0, rows := 1, len16 := 1, sreg := 0, vreg := 2, mreg := 4, fb := 0, spitch := 4, vpitch := 4 }
/-- Matrix instructions: QSET, CLASS, STEPS, odd address registers, fields of another dataflow, formats, PITCH. -/
theorem test_wf_matrix : refuses [.mloop { loop with qset := 9 }, .mloop { loop with lclass := 0 }, .mloop { loop with steps := 0 },
    .mloop { loop with steps := 33 }, .mloop { loop with areg := 3 }, .mloop { loop with fbb := 1 }, .mloop { loop with df := .op, sout := true },
    .mloop { loop with df := .rw, sout := true, ovw := true }, .mloop { loop with df := .rw, oreg := 2 },
    .mdrain { drain with qset := 4 }, .mdrain { drain with ofmt := .f32 }, .mdrain { drain with pitch := 0 },
    .mdrain { drain with pitch := 7 }, .mdrain { drain with rnd := .rz }, .mdrain { drain with dreg := 3 },
    .mdrain { drain with ikind := .f64, ofmt := .f64, acc := 1, pitch := 16 }, .mcomp { comp with len16 := 0 },
    .mcomp { comp with len16 := 9 }, .mcomp { comp with sreg := 1 }, .mcomp { comp with qset := 4 }, .mswap 9, .mfuse 9,
    .mzero { qset := 0, acc := 1, all := true }, .mlds { qset := 0, breg := 1, fbb := 0, pitch := 2 },
    .mlds { qset := 0, breg := 2, fbb := 0, pitch := 0 }, .mldsBar { qset := 0, breg := 2, fbb := 0, pitch := 2 } { xreg := 1, wph := false },
    .mread { qset := 0, acc := 1, col := 0, dst := 2, w64 := true }, .mread { qset := 0, acc := 0, col := 0, dst := 254, w64 := false },
    .mstat 4 1] = true := by decide +kernel

def tuples : FN :=
  { depth := 1, rmask := 0, p := .always, bd := 0, ba := 2, bb := 4, shd := 0, sha := 0, shb := 0, x0 := 3, x1 := 0, x2 := 0, x3 := 0
    x4 := 0, strides := 0x010101 }
def box : LaceOps :=
  { dims := 0, le := 0, src := 0, dst := 2, bar := 4, p := .always, rowb := 16, x1 := 0, x2 := 0, str := 0, setfe := false, inc := true
    outc := false }
def gather : LacegOps :=
  { le := 0, src := 0, dst := 2, bar := 4, p := .always, rowb := 16, xn := 1, idx := 6, pitch := 8, setfe := false, inc := true
    outc := false }
def launchProg : ForkOps := { tgt := .lace 0, qset := 0, ebase := 0, ecnt := 2, p := .always, off := 4 }
/-- Nests, copies and forks: DEPTH, fields above DEPTH, reductions, B where it is not read, ROWB, BAR, DIMS. -/
theorem test_wf_engines : refuses [.nest .add .i32 { tuples with depth := 0 }, .nest .add .i32 { tuples with depth := 6 },
    .nest .add .i32 { tuples with x1 := 1 }, .nest .and .i32 tuples, .nest .sub .i32 { tuples with rmask := 1 },
    .nest .add .i32 { tuples with rmask := 1 }, .nest .copy .i32 tuples, .nest .add .i32 { tuples with bd := 1 },
    .ragged 0 { tuples with strides := 0 }, .ragged 1 tuples, .lace { box with rowb := 8 }, .lace { box with rowb := 0 },
    .lace { box with inc := false }, .lace { box with dims := 3 }, .lace { box with x1 := 1 }, .lace { box with dims := 1, str := 2 },
    .lace { box with src := 1 }, .laceg { gather with idx := 7 }, .fork { launchProg with qset := 1 }, .fork { launchProg with ecnt := 17 },
    .fork { launchProg with ebase := 254 }] = true := by decide +kernel
/-- The terms these start from are well-formed. -/
theorem test_wf_good : [Instr.mloop loop, .mdrain drain, .mcomp comp, .nest .add .i32 tuples, .lace box, .laceg gather, .fork launchProg,
    .add (f3 1 2 3), .ld .w32 (fm 1 2 0), .br (fbr 0 0), .wait (fri 0 0 63)].all Instr.wf = true := by decide +kernel

/-! ## A small package -/

/-- Lane `v` with LANE registers and p predicates. -/
def lane (v : Nat) (regs : Tbl Word) (p : BitVec 8) : Lane :=
  { slot := v, vid := v, regs := regs, p := p ||| 1, tx := noTx, opened := [], blind := [] }
/-- A place-map entry. -/
def ent (k : PKind) (n : Nat) : PlaceEnt := { kind := k, pend := false, index := BitVec.ofNat 10 n, bound := 0 }
/-- Registers 0 to 15 at TEAM, 16 to 31 at LANE. -/
def places : Tbl PlaceEnt := (List.range 32).map (fun k => (k, if k < 16 then ent .team k else ent .lane (k - 16)))
def cell (v : Word) : Cell := { val := v, log := [] }

/-- Two lanes; p1 holds in lane 0. -/
def T : Team :=
  { resetTeam with
    group := 1, fam := 1, ctx := 1, pc := 0x2000, loaded := true, tested := true, word := 0
    clause := [0x0100_302F_E000_0001, 0x3500_0000_0000_0000]
    lanes := [lane 0 [(16, 5), (17, 3), (18, 0xFFFF_FFFF), (20, 0x3F80_0000), (21, 0x4000_0000)] 2,
      lane 1 [(16, 0xFFFF_FFFF), (17, 2), (18, 7), (20, 0x7F80_0000), (21, 0)] 0] }
/-- A team with a handler and unmasked traps. -/
def TH : Team := { T with handler := { noHandler with isSet := true, addr := 0x3000, off := 0x200 } }
/-- Its uniform registers: t0:t1 an address of the local window, t2 = 7, t4:t5 = 2^32 + 6, t6:t7 = 0x4000. -/
def F : Family :=
  { resetFamily with
    ctx := 1, group := 1, map := places, q := [(1, cell 1)]
    cells := [(0, cell 0x100), (1, cell 0xFE00_0000), (2, cell 7), (3, cell 0), (4, cell 6), (5, cell 1), (6, cell 0x4000)] }
def quads : Tbl Quad := [(0, resetQuad 0 0), (1, resetQuad 1 0), (2, resetQuad 2 0), (3, resetQuad 3 0)]
def G : Group :=
  { resetGroup with gang := 1, launch := 1, vd := 3, core := 2, slot := 0, spadLen := 4096, qmask := 15, lmask := 15, quads := quads
                    fuse := [], fuseI := [] }
def L : Launch := { resetLaunch with vd := 3, levels := [{ extent := 2, binding := .lane }], lmax := 32, tregs := 32, live := [1] }
/-- VD 3 of domain 1. -/
def V : VD := { resetVD with valid := true, domain := 1 }
/-- The package in which team `t` has its turn. -/
def at_ (t : Team) : State :=
  { State.reset with
    turn := .team t.ctx, teams := [(1, t)], fams := [(1, F)], groups := [(1, G)], launches := [(1, L)]
    gangs := [(1, { resetGang with launch := 1, vd := 3, members := [1] })], vds := [(3, V)]
    domains := [(1, { resetDomain with valid := true, keylive := true })]
    cores := [(2, { resetCore with window := 1, curVd := some 3, running := some 1 })] }
/-- Team `T` at its turn. -/
def S : State := at_ T
def SH : State := at_ TH

theorem runs_S : S.Runs T := ⟨by decide +kernel, by decide +kernel⟩
theorem runs_SH : SH.Runs TH := ⟨by decide +kernel, by decide +kernel⟩

/-- What no listed entry of a table has open is not open. -/
theorem closed_of (t : Tbl Cell) (c : Nat) (h : t.all (fun e => !e.2.isOpen c) = true) (k : Nat) :
    (Tbl.get zeroCell t k).isOpen c = false := by
  induction t with
  | nil => rfl
  | cons e t ih =>
    simp only [List.all_cons, Bool.and_eq_true] at h
    unfold Tbl.get
    split
    · simpa using h.1
    · exact ih h.2

theorem quiet_of (s : State) (t : Team) (h : (s.fam t.fam).cells.all (fun e => !e.2.isOpen t.ctx) = true)
    (h' : (s.fam t.fam).q.all (fun e => !e.2.isOpen t.ctx) = true) : s.Quiet t :=
  ⟨closed_of _ _ h, closed_of _ _ h'⟩

theorem quiet_S : S.Quiet T := quiet_of _ _ (by decide +kernel) (by decide +kernel)
theorem quiet_SH : SH.Quiet TH := quiet_of _ _ (by decide +kernel) (by decide +kernel)

/-- The state after an instruction. -/
def after (i : Instr) (s : State) : State :=
  match exec i s with
  | .next s' => s'
  | .fault _ => s
  | .refused _ => s
/-- A team, LANE register `r` in each lane, a uniform register, and the p predicate `n` of each lane after it. -/
def team (s : State) (c : Nat := 1) : Team := (s.team? c).getD resetTeam
def vreg (i : Instr) (r : Nat) (s : State := S) : List Word := (team (after i s)).lanes.map (fun l => Tbl.get 0 l.regs r)
def ureg (i : Instr) (r : Nat) (s : State := S) : Word := (after i s).uni T r
def preds (i : Instr) (n : Nat) (s : State := S) : List Bool := (team (after i s)).lanes.map (fun l => laneP l n)
def flags (i : Instr) (s : State := S) : BitVec 7 := (team (after i s)).flags

/-! ## Register instructions -/

/-- The conditions of `Form.Clear` that can be run. -/
def formOk (s : State) (t : Team) (f : Form) : Bool :=
  decide (∀ x ∈ f.regs, ∀ k ∈ regNums x.1 x.2, k < 254 ∧ (s.entry t k).kind = (s.entry t x.1.toNat).kind
    ∧ ((s.entry t k).kind = .lane ∨ (s.entry t k).kind = .team))
  && decide (∀ e ∈ t.pend, t.own e.1 = true → ∀ x ∈ f.regs, e.2.toNat ∉ regNums x.1 x.2)
  && decide (∀ e ∈ t.pendP, t.own e.1 = true → ∀ p ∈ f.preds (!f.atLane s t), e.2 ≠ predKey p.1 p.2)
  && decide (f.atLane s t = false → ∀ x ∈ f.srcs, srcAtLane s t x = false)

theorem clear_of (s : State) (t : Team) (f : Form) (q : s.Quiet t) (h : formOk s t f = true) : f.Clear s t := by
  simp only [formOk, Bool.and_eq_true, decide_eq_true_eq] at h
  exact ⟨h.1.1.1, h.1.1.2, h.1.2, h.2, q⟩

/-- Instructions with their forms that are well-formed and clear in a state. -/
def meets (s : State) (t : Team) (l : List (Instr × Form)) : Bool := l.all (fun x => x.1.wf && formOk s t x.2)

/-- What `Computes` asks is met. -/
def Met (s : State) (t : Team) (l : List (Instr × Form)) : Prop := ∀ x ∈ l, x.1.wf = true ∧ s.Runs t ∧ x.2.Clear s t

theorem met_of {s : State} {t : Team} (r : s.Runs t) (q : s.Quiet t) {l : List (Instr × Form)} (h : meets s t l = true) :
    Met s t l := by
  intro x hx
  have := List.all_eq_true.mp h x hx
  simp only [Bool.and_eq_true] at this
  exact ⟨this.1, r, clear_of s t x.2 q this.2⟩

def lits (o : F3) : F3 := { o with b := 254, imm := 0xFF }
def op (ty : Ty) (d a b : Nat) : F3 := { f3 d a b with ty := ty }

theorem meets_IntegerElements : Met S T (
    [f3 22 16 17, f3 255 16 17, f3 8 2 6, lits (op .i16x2 22 16 0), { f3 22 2 17 with p := ⟨true, 1⟩ }].flatMap (fun o =>
      [(.add o, bin o), (.sub o, bin o), (.mul o, bin o), (.min o, bin o), (.max o, bin o)])) :=
  met_of runs_S quiet_S (by decide +kernel)

def mixed (o : F3) (n : Nat) : Form := ⟨o.p, .reg o.d 2, [.reg o.a n (litVal o.ty o.imm), .reg o.b 1 (word32 o)]⟩

theorem meets_WideIntegers : Met S T [
    (.mulh (f3 22 16 17), bin (f3 22 16 17)), (.mad false (f3 22 16 17), tern (f3 22 16 17)),
    (.mad true (op .n32 22 16 17), ⟨.always, .reg 22 2, [.reg 16 1 0, .reg 17 1 0, .reg 0 2 0]⟩),
    (.add64 false (op .i64 22 16 18), bin (op .i64 22 16 18)), (.sub64 false (op .n64 8 2 4), bin (op .n64 8 2 4)),
    (.add64 true (op .i64 22 16 18), mixed (op .i64 22 16 18) 2), (.sub64 true (op .n64 8 4 2), mixed (op .n64 8 4 2) 2),
    (.mul64 false (op .i64 22 16 18), bin (op .i64 22 16 18)), (.mul64 true (f3 22 16 17), mixed (f3 22 16 17) 1),
    (.lea { f3 22 16 17 with imm := 7 }, ⟨.always, .reg 22 2, [.reg 16 2 (litVal .i64 7), .reg 17 1 0]⟩),
    (.dp4 true (op .i8x4 22 16 17), ⟨.always, .reg 22 1, [.reg 16 1 0, .reg 17 1 0, .reg 0 1 0]⟩)] :=
  met_of runs_S quiet_S (by decide +kernel)

theorem meets_Division : Met S T ([f3 22 16 17, op .i64 8 2 4].flatMap (fun o => [(.div o, bin o), (.rem o, bin o)])) :=
  met_of runs_S quiet_S (by decide +kernel)

theorem meets_ConstantsAndLogic : Met S T (
    [(.li (fri 22 0 0xFFFF_FFFF), ⟨.always, .reg 22 1, []⟩), (.liSx (fri 8 0 0xFFFF_FFFF), ⟨.always, .reg 8 2, []⟩),
      (.liZx (fri 255 0 1), ⟨.always, .reg 255 2, []⟩),
      (.sel { f3 22 16 17 with imm := 9 }, ⟨.always, .reg 22 1, [.reg 16 1 0, .reg 17 1 0, .sel ⟨true, 1⟩]⟩)]
    ++ [f3 22 16 17, op .n64 8 2 4].flatMap (fun o => [(.and o, bin o), (.or o, bin o), (.xor o, bin o), (.andn o, bin o)])) :=
  met_of runs_S quiet_S (by decide +kernel)

def mixedOp : F3 := { op .i64 8 4 254 with imm := 64 }
theorem meets_Shifts : Met S T ([f3 22 16 17, mixedOp, op .i8x4 22 16 17].flatMap (fun o =>
    let f : Form := ⟨o.p, .reg o.d (Ty.regs o.ty), [.reg o.a (Ty.regs o.ty) (litVal o.ty o.imm), .reg o.b 1 (word32 o)]⟩
    [(.shl true o, f), (.shl false o, f), (.shr true o, f), (.sar false o, f), (.rot o, f)])) :=
  met_of runs_S quiet_S (by decide +kernel)

theorem meets_BitFields : Met S T (
    [op .n32 22 16 0, op .n64 8 4 0].flatMap (fun o => [(.popc o, unary o 1), (.clz o, unary o 1), (.ffs o, unary o 1),
      (.brev o, unary o (Ty.regs o.ty))])
    ++ (let o : F3 := { op .n32 22 16 254 with c := 17, imm := 1 }
      let bc : List Src := [.reg 16 1 (litVal .n32 1), .reg 254 1 (word32 o), .reg 17 1 (word32 o)]
      [(.bfe o, ⟨.always, .reg 22 1, bc⟩), (.bfi o, ⟨.always, .reg 22 1, bc ++ [.reg 22 1 0]⟩)])
    ++ [(.clmul (op .n32 22 16 17), ⟨.always, .reg 22 2, (bin (op .n32 22 16 17)).srcs⟩)]) :=
  met_of runs_S quiet_S (by decide +kernel)

theorem meets_Predicates : Met S T [
    (.icmp .lt (f3 2 16 17), { bin (f3 2 16 17) with dst := .pcode 2 }), (.icmp .ntst (f3 10 2 6), { bin (f3 10 2 6) with dst := .pcode 10 }),
    (.fcmp .uno (op .f32 2 20 21), { bin (op .f32 2 20 21) with dst := .pcode 2 }), (.pand (f3 2 1 17), ⟨.always, .pcode 2, [.pcode 1, .pcode 17]⟩),
    (.por (f3 2 1 9), ⟨.always, .pcode 2, [.pcode 1, .pcode 9]⟩), (.pxor (f3 10 9 25), ⟨.always, .pcode 10, [.pcode 9, .pcode 25]⟩),
    (.pnot (f3 2 1 0), ⟨.always, .pcode 2, [.pcode 1]⟩), (.pset false (f3 10 2 0), { unary (f3 10 2 0) 1 with dst := .pcode 10 }),
    (.pset true (f3 2 16 17), { bin (f3 2 16 17) with dst := .pcode 2 })] :=
  met_of runs_S quiet_S (by decide +kernel)

/-- Operands that round and saturate. -/
def rz (o : F3) : F3 := { o with rnd := .rz, sat := true }
theorem meets_FloatArithmetic : Met S T (
    [rz (op .f32 22 20 21), op .f64 8 2 4, rz (op .bf16x2 22 16 17)].flatMap (fun o => [(.fadd o, bin o), (.fsub o, bin o), (.fmul o, bin o),
      (.fdiv o, bin o)])
    ++ [(.ffma { rz (op .f32 22 20 21) with c := 20 }, tern { rz (op .f32 22 20 21) with c := 20 }),
      (.fscale (op .f32 22 20 16), ⟨.always, .reg 22 1, [.reg 20 1 (litVal .f32 0), .reg 16 1 (litVal .i32 0)]⟩),
      (.fdot2 { rz (op .f16x2 22 16 17) with c := 20 }, ⟨.always, .reg 22 1, [.reg 16 1 (litVal .f16x2 0), .reg 17 1 (litVal .f16x2 0),
        .reg 20 1 (litVal .f32 0)]⟩)]) :=
  met_of runs_S quiet_S (by decide +kernel)

theorem meets_FloatFunctions : Met S T (
    [op .f32 22 20 21, op .f16x2 8 2 6].flatMap (fun o => [(.fmin o, bin o), (.fmax o, bin o)])
    ++ [op .f32 22 20 0, op .bf16x2 8 2 0].flatMap (fun o => [(.fround true o, unary o 1), (.fround false o, unary o 1), (.fclass o, unary o 1),
      (.frcp o, unary o 1), (.frsq o, unary o 1), (.fsqrt o, unary o 1), (.fexp2 o, unary o 1), (.flog2 o, unary o 1), (.fsin o, unary o 1),
      (.fcos o, unary o 1), (.ftanh o, unary o 1)])) :=
  met_of runs_S quiet_S (by decide +kernel)

theorem meets_Conversions : Met S T [
    (.cvt .scalar { rz (op .i32 22 20 0) with imm := 4 }, ⟨.always, .reg 22 1, [.reg 20 1 0]⟩),
    (.cvt .scalar { op .f64 8 2 0 with imm := 0 }, ⟨.always, .reg 8 2, [.reg 2 1 0]⟩),
    (.cvt .narrow (rz (op .f16x2 22 20 21)), ⟨.always, .reg 22 1, [.reg 20 1 0, .reg 21 1 0]⟩),
    (.cvt .widen { op .f32 22 20 0 with imm := 0x17 }, ⟨.always, .reg 22 1, [.reg 20 1 0]⟩),
    (.pack true { rz (op .f32 22 20 21) with imm := 1 }, ⟨.always, .reg 22 1, [.reg 20 1 0, .reg 21 1 0, .reg 22 1 0]⟩),
    (.unpack false { op .f32 22 20 0 with imm := 3 }, ⟨.always, .reg 22 1, [.reg 20 1 0]⟩)] :=
  met_of runs_S quiet_S (by decide +kernel)

/-- The conditions of `Cross.Clear` that can be run. -/
def crossOk (s : State) (t : Team) (x : Cross) : Bool :=
  decide (∀ y ∈ x.regs, ∀ k ∈ regNums y.1 y.2, k < 254 ∧ (s.entry t k).kind = (s.entry t y.1.toNat).kind
    ∧ ((s.entry t k).kind = .lane ∨ (s.entry t k).kind = .team))
  && decide (∀ e ∈ t.pend, t.own e.1 = true → ∀ y ∈ x.regs, e.2.toNat ∉ regNums y.1 y.2)
  && decide (∀ e ∈ t.pendP, t.own e.1 = true → ∀ p ∈ x.preds (!x.atLane s t), e.2 ≠ predKey p.1 p.2)
  && decide (x.lane = true → x.atLane s t = true)
  && decide (x.atLane s t = false → x.gathers = false → ∀ y ∈ x.form.srcs, srcAtLane s t y = false)
  && decide (∀ i ∈ x.uniform, (x.form.srcs[i]?).elim true (fun y => !srcAtLane s t y) = true)
  && (match x.dst2 with
    | some (.reg r _) => Reg.noName r || decide ((s.entry t r.toNat).kind = .team)
    | _ => true)

theorem cross_of (s : State) (t : Team) (x : Cross) (q : s.Quiet t) (h : crossOk s t x = true) : x.Clear s t := by
  simp only [crossOk, Bool.and_eq_true, decide_eq_true_eq] at h
  refine ⟨h.1.1.1.1.1.1, h.1.1.1.1.1.2, h.1.1.1.1.2, h.1.1.1.2, h.1.1.2, fun i hi y hy => ?_, fun r n hr => ?_, q⟩
  · have := h.1.2 i hi
    rw [hy] at this
    simpa using this
  · have := h.2
    rw [hr] at this
    simpa using this

def MetX (s : State) (t : Team) (l : List (Instr × Cross)) : Prop := ∀ x ∈ l, x.1.wf = true ∧ s.Runs t ∧ x.2.Clear s t

theorem metX_of {s : State} {t : Team} (r : s.Runs t) (q : s.Quiet t) {l : List (Instr × Cross)}
    (h : l.all (fun x => x.1.wf && crossOk s t x.2) = true) : MetX s t l := by
  intro x hx
  have := List.all_eq_true.mp h x hx
  simp only [Bool.and_eq_true] at this
  exact ⟨this.1, r, cross_of s t x.2 q this.2⟩

theorem meets_Ox4Lanes : (∀ l ∈ T.lanes, l.slot < 1024) ∧ MetX S T (
    [f3 22 20 6, f3 255 20 254].flatMap (fun o => let o : F3 := { o with ty := .f32 }
      let x : Cross := ⟨⟨o.p, .reg o.d 1, [.reg o.a 1 (litVal .f32 o.imm), .reg o.b 1 (litVal .i32 o.imm)]⟩, none, true, false, [1]⟩
      [(.packOx4 o, x), (.unpackOx4 o, x)])) :=
  ⟨by decide +kernel, metX_of runs_S quiet_S (by decide +kernel)⟩

/-- `xchg`: the mask 1 in a subgroup of 2, the greatest that `small` lets pass. -/
def swaps : F3 := { f3 22 16 254 with c := 2, imm := 0x11 }
def swapX (o : F3) : Cross :=
  ⟨⟨o.p, .reg o.d 1, [.reg o.a 1 (litVal .i32 o.imm), .reg o.b 1 ((o.imm.extractLsb' 4 4).setWidth 64)]⟩, some (.pcode o.c), true, false, [1]⟩
theorem meets_LaneExchange : MetX S T [
    (.xchg .xor swaps, swapX swaps), (.xchg .up swaps, swapX swaps), (.xchg .down swaps, swapX swaps),
    (.xchg .idx { swaps with b := 17, imm := 1 }, { swapX { swaps with b := 17, imm := 1 } with uniform := [] }),
    (.pick { f3 8 16 254 with c := 9, imm := 1 }, ⟨⟨.always, .reg 8 1, [.reg 16 1 (litVal .i32 1), .reg 254 1 1]⟩, some (.pcode 9), false, true, [1]⟩),
    (.lid .id (f3 22 0 0), ⟨⟨.always, .reg 22 1, []⟩, none, true, false, []⟩),
    (.lid .rank (f3 22 0 0), ⟨⟨.always, .reg 22 1, []⟩, none, true, false, []⟩),
    (.lid .count (f3 8 0 0), ⟨⟨.always, .reg 8 1, []⟩, none, false, false, []⟩)]
    ∧ (el 32 0 (S.uniSrc T (.reg 254 1 ((swaps.imm.extractLsb' 4 4).setWidth 64)))).toNat < 2 ^ (swaps.imm.extractLsb' 0 4).toNat :=
  ⟨metX_of runs_S quiet_S (by decide +kernel), by decide +kernel⟩

def votes (d : Dst) (lane : Bool) (a c : Nat) : Cross :=
  ⟨⟨.always, d, [.pcode (BitVec.ofNat 8 a)]⟩, some (.reg (BitVec.ofNat 8 c) 1), lane, true, []⟩
theorem meets_VotesAndMatches : MetX S T (
    [(.vote .any { f3 9 1 0 with c := 8 }, votes (.pcode 9) false 1 8), (.vote .all { f3 9 1 0 with c := 255 }, votes (.pcode 9) false 1 255),
      (.vote .count { f3 8 1 0 with c := 10 }, votes (.reg 8 1) false 1 10),
      (.vote .ballot { f3 22 1 0 with c := 8 }, votes (.reg 22 1) true 1 8)]
    ++ [true, false].map (fun b => (Instr.matchOp b { f3 22 16 0 with c := 8 },
      ⟨⟨.always, .reg 22 1, [.reg 16 1 (litVal .i32 0)]⟩, some (.reg 8 1), true, false, []⟩))) :=
  metX_of runs_S quiet_S (by decide +kernel)

theorem meets_Combinations : MetX S T ([ROp.add, .max].flatMap (fun p => [op .i32 22 16 0, op .f32 22 20 0].flatMap (fun o =>
    let a : Src := .reg o.a 1 (litVal o.ty 0)
    let x (ss : List Src) : Cross := ⟨⟨.always, .reg 22 1, ss⟩, none, true, false, []⟩
    [(.redux p { o with d := 8 }, ⟨⟨.always, .reg 8 1, [a]⟩, none, false, true, []⟩), (.prefixOp p false o, x [a]), (.prefixOp p true o, x [a]),
      (.segm p false { o with c := 1 }, x [a, .pcode 1]), (.segm p true { o with c := 1 }, x [a, .pcode 1])]))) :=
  metX_of runs_S quiet_S (by decide +kernel)

-- Results worked out by hand from R116 to R127, on 5 and −1 in v16, 3 and 2 in v17, −1 and 7 in v18.
theorem test_add : vreg (.add (f3 22 16 17)) 22 = [8, 1] := by decide +kernel
theorem test_add_sat : vreg (.add { op .n32 22 16 17 with sat := true }) 22 = [8, 0xFFFF_FFFF]
  ∧ flags (.add { op .n32 22 16 17 with sat := true }) = fIOV := by decide +kernel
theorem test_sub : vreg (.sub (f3 22 16 17)) 22 = [2, 0xFFFF_FFFD] := by decide +kernel
theorem test_mul_own : vreg (.mul (f3 16 16 17)) 16 = [15, 0xFFFF_FFFE] := by decide +kernel
theorem test_mulh : vreg (.mulh (f3 22 16 17)) 22 = [0, 0xFFFF_FFFF] ∧ vreg (.mulh (op .n32 22 16 17)) 22 = [0, 1] := by decide +kernel
theorem test_mad : vreg (.mad false { f3 22 16 17 with c := 18 }) 22 = [14, 5] := by decide +kernel
theorem test_div : vreg (.div (f3 22 16 17)) 22 = [1, 0] ∧ vreg (.rem (f3 22 16 17)) 22 = [2, 0xFFFF_FFFF] := by decide +kernel
theorem test_div_zero : vreg (.div (op .n32 22 16 21)) 22 = [0, 0xFFFF_FFFF] ∧ flags (.div (op .n32 22 16 21)) = fDZ := by decide +kernel
theorem test_min_signs : vreg (.min (f3 22 16 17)) 22 = [3, 0xFFFF_FFFF] ∧ vreg (.max (op .n32 22 16 17)) 22 = [5, 0xFFFF_FFFF] := by decide +kernel
theorem test_add64_x32 : (after (.add64 true (op .n64 8 4 2)) S).uniVal T 8 2 = 2 ^ 32 + 13 := by decide +kernel
theorem test_sub64 : (after (.sub64 false (op .i64 8 6 4)) S).uniVal T 8 2 = 0x4000 - 2 ^ 32 - 6 := by decide +kernel
theorem test_mul64_wide : vreg (.mul64 true (op .n32 22 16 17)) 23 = [0, 1] := by decide +kernel
theorem test_lea : (after (.lea { op .n32 8 4 2 with imm := 2 }) S).uniVal T 8 2 = 2 ^ 32 + 34 := by decide +kernel
theorem test_dp4 : vreg (.dp4 false { op .i8x4 22 16 17 with c := 255 }) 22 = [15, 0xFFFF_FFFE] := by decide +kernel
theorem test_li_sx : (after (.liSx (fri 8 0 0xFFFF_FFFE)) S).uniVal T 8 2 = 0xFFFF_FFFF_FFFF_FFFE := by decide +kernel
theorem test_logic : vreg (.andn (f3 22 16 17)) 22 = [4, 0xFFFF_FFFD] ∧ vreg (.xor (f3 22 16 17)) 22 = [6, 0xFFFF_FFFD]
  ∧ vreg (.or (f3 22 16 17)) 22 = [7, 0xFFFF_FFFF] ∧ vreg (.and (f3 22 16 17)) 22 = [1, 2] := by decide +kernel
theorem test_sel : vreg (.sel { f3 22 16 17 with imm := 1 }) 22 = [5, 2] := by decide +kernel
theorem test_shift_beyond : vreg (.shl false { op .n32 22 16 254 with imm := 33 }) 22 = [10, 0xFFFF_FFFE]
  ∧ vreg (.shl true { op .n32 22 16 254 with imm := 33 }) 22 = [0, 0] := by decide +kernel
theorem test_shift_right : vreg (.shr false (f3 22 16 17)) 22 = [0, 0x3FFF_FFFF] ∧ vreg (.sar false (f3 22 16 17)) 22 = [0, 0xFFFF_FFFF]
  ∧ vreg (.rot (f3 22 16 17)) 22 = [40, 0xFFFF_FFFF] := by decide +kernel
theorem test_counts : vreg (.popc (op .n32 22 16 0)) 22 = [2, 32] ∧ vreg (.clz (op .n32 22 16 0)) 22 = [29, 0]
  ∧ vreg (.ffs (op .n32 22 21 0)) 22 = [30, 0xFFFF_FFFF] ∧ vreg (.brev (op .n32 22 16 0)) 22 = [0xA000_0000, 0xFFFF_FFFF] := by decide +kernel
theorem test_fields : vreg (.bfe { op .n32 22 16 254 with c := 17, imm := 1 }) 22 = [2, 3]
  ∧ vreg (.bfi { op .n32 18 16 254 with c := 17, imm := 1 }) 18 = [0xFFFF_FFFB, 7] := by decide +kernel
theorem test_clmul : vreg (.clmul (op .n32 22 16 17)) 22 = [15, 0xFFFF_FFFE] ∧ vreg (.clmul (op .n32 22 16 17)) 23 = [0, 1] := by decide +kernel
theorem test_icmp : preds (.icmp .lt (f3 2 16 17)) 2 = [false, true] ∧ preds (.icmp .lt (op .n32 2 16 17)) 2 = [false, false] := by decide +kernel
theorem test_pred_own : preds (.pnot (f3 1 1 0)) 1 = [false, true] ∧ preds (.pxor (f3 2 1 9)) 2 = [false, true]
  ∧ preds (.pset true (f3 2 16 17)) 2 = [false, true] ∧ preds (.pand (f3 2 1 9)) 2 = [true, false]
  ∧ preds (.por (f3 2 1 9)) 2 = [true, true] := by decide +kernel
/-- R10, R109: an inactive lane and a false q predicate keep what they had. -/
theorem test_predicated : vreg (.add { f3 16 16 17 with p := ⟨false, 1⟩ }) 16 = [8, 0xFFFF_FFFF]
  ∧ ureg (.add { f3 2 2 6 with p := ⟨true, 1⟩ }) 2 = 7 ∧ ureg (.add { f3 2 2 6 with p := ⟨false, 1⟩ }) 2 = 0x4007 := by decide +kernel

-- v20 holds 1.0 and ∞, v21 holds 2.0 and +0 (R79 to R81, R148)
theorem test_fadd : vreg (.fadd (op .f32 22 20 21)) 22 = [0x4040_0000, 0x7F80_0000]
  ∧ vreg (.fsub (op .f32 22 20 21)) 22 = [0xBF80_0000, 0x7F80_0000] := by decide +kernel
theorem test_fmul_invalid : vreg (.fmul (op .f32 22 20 21)) 22 = [0x4000_0000, 0x7FC0_0000] ∧ flags (.fmul (op .f32 22 20 21)) = fNV := by decide +kernel
theorem test_fdiv : vreg (.fdiv (op .f32 22 20 21)) 22 = [0x3F00_0000, 0x7F80_0000] := by decide +kernel
theorem test_ffma : vreg (.ffma { op .f32 22 21 21 with c := 21 }) 22 = [0x40C0_0000, 0] := by decide +kernel
theorem test_fminmax : vreg (.fmin (op .f32 22 20 21)) 22 = [0x3F80_0000, 0] ∧ vreg (.fmax (op .f32 22 20 21)) 22 = [0x4000_0000, 0x7F80_0000] := by
  decide +kernel
theorem test_fclass : vreg (.fclass (op .f32 22 20 0)) 22 = [0x100, 0x200] := by decide +kernel
theorem test_fscale : vreg (.fscale (op .f32 22 21 17)) 22 = [0x4180_0000, 0] := by decide +kernel
theorem test_fcmp : preds (.fcmp .gt (op .f32 2 20 21)) 2 = [false, true] := by decide +kernel
theorem test_fround : vreg (.fround false { op .f32 22 20 0 with rnd := .rz }) 22 = [0x3F80_0000, 0x7F80_0000] := by decide +kernel
theorem test_cvt_int : vreg (.cvt .scalar { op .i32 22 20 0 with imm := 4 }) 22 = [1, 0x7FFF_FFFF]
  ∧ flags (.cvt .scalar { op .i32 22 20 0 with imm := 4 }) = fNV := by decide +kernel
theorem test_cvt_float : vreg (.cvt .scalar { op .f32 22 16 0 with imm := 0 }) 22 = [0x40A0_0000, 0xBF80_0000] := by decide +kernel
theorem test_cvt_narrow : vreg (.cvt .narrow (op .f16x2 22 20 21)) 22 = [0x4000_3C00, 0x0000_7C00] := by decide +kernel
theorem test_pack : vreg (.pack false { op .f32 22 20 21 with imm := 1 }) 22 = [0x4038_0000, 0x007F_0000]
  ∧ flags (.pack false { op .f32 22 20 21 with imm := 1 }) = fNV := by decide +kernel
theorem test_unpack : vreg (.unpack true { op .f32 22 20 0 with imm := 3 }) 22 = [0x3FE0_0000, 0x7FC0_0000] := by decide +kernel
/-- The worked conversions to E4M3 of 03 (464, 500, 0.001, −∞ saturated). -/
theorem test_e4m3 : ffE4M3.round .rn false (ffF32.val 0x43E8_0000) = (0x7E, fNX)
  ∧ ffE4M3.round .rn false (ffF32.val 0x43FA_0000) = (0x7F, fOF ||| fNX)
  ∧ ffE4M3.round .rn true (ffF32.val 0x43FA_0000) = (0x7E, fOF ||| fNX)
  ∧ ffE4M3.round .rn false (ffF32.val 0x3A83_126F) = (0x01, fUF ||| fNX)
  ∧ ffE4M3.round .rn true (ffF32.val 0xFF80_0000) = (0xFE, fNX) := by decide +kernel

/-- The worked block of R158: 2, 3, 12, −1, −40 and 5 in lanes 0, 1, 4, 5, 8 and 9. -/
def block : List Lane := (List.range 32).map (fun v => lane v [(20, if v = 0 then 0x4000_0000 else if v = 1 then 0x4040_0000
  else if v = 4 then 0x4140_0000 else if v = 5 then 0xBF80_0000 else if v = 8 then 0xC220_0000 else if v = 9 then 0x40A0_0000 else 0)] 0)
def SO : State := at_ { T with lanes := block }
theorem test_pack_ox4 : (vreg (.packOx4 { op .f32 22 20 254 with b := 2 }) 22 { SO with
    fams := [(1, { F with cells := [(2, cell 0x7F)] })] }).take 6 = [0x0058_0032, 0x0000_00E8, 0, 0, 0x42, 0] := by decide +kernel

/-- The worked butterfly of 06: lane 6 has exited, p2 holds in every lane but lane 3. -/
def SX : State := at_ { T with lanes := [0, 1, 2, 3, 4, 5, 7].map (fun v => lane v [(17, BitVec.ofNat 32 (10 * v))] (if v = 3 then 0 else 4)) }
def butterfly : Instr := .xchg .xor { f3 18 17 254 with c := 5, p := ⟨false, 2⟩, imm := 0x12 }
theorem test_xchg : vreg butterfly 18 SX = [10, 0, 30, 0, 50, 40, 70]
  ∧ preds butterfly 5 SX = [true, true, true, false, true, true, false] := by decide +kernel
/-- R161 to R165 on the same lanes: sums, ballots and ranks pass over the absent lane. -/
theorem test_cross : vreg (.prefixOp .add true { f3 18 17 0 with p := ⟨false, 2⟩ }) 18 SX = [0, 0, 10, 0, 30, 70, 120]
  ∧ ureg (.redux .add (f3 8 17 0)) 8 SX = 220 ∧ vreg (.lid .rank { f3 18 0 0 with p := ⟨false, 2⟩ }) 18 SX = [0, 1, 2, 0, 3, 4, 5]
  ∧ vreg (.vote .ballot { f3 18 2 0 with c := 255 }) 18 SX = List.replicate 7 0xB7
  ∧ ureg (.vote .count { f3 8 2 0 with c := 255 }) 8 SX = 6 := by decide +kernel
theorem test_match : vreg (.matchOp false { f3 18 21 0 with c := 255 }) 18 = [1, 2] := by decide +kernel
theorem test_pick : ureg (.pick { f3 8 16 254 with c := 9, imm := 1 }) 8 = 0xFFFF_FFFF := by decide +kernel
theorem test_segm : vreg (.segm .add true { f3 18 17 0 with c := 2 }) 18 SX = [0, 10, 50, 50, 40, 50, 70] := by decide +kernel

/-! ## Control instructions -/

/-- The conditions of `UniClear` that can be run. -/
def uniOk (s : State) (t : Team) (rs : List (Reg × Nat)) (p : Pred) : Bool :=
  decide (∀ x ∈ rs, ∀ k ∈ regNums x.1 x.2, k < 254 ∧ (s.entry t k).kind = .team)
  && decide (∀ e ∈ t.pend, t.own e.1 = true → ∀ x ∈ rs, e.2.toNat ∉ regNums x.1 x.2)
  && decide (∀ e ∈ t.pendP, t.own e.1 = true → e.2 ≠ predKey true p.num.toNat)

theorem uni_of (s : State) (t : Team) (rs : List (Reg × Nat)) (p : Pred) (q : s.Quiet t) (h : uniOk s t rs p = true) :
    UniClear s t rs p := by
  simp only [uniOk, Bool.and_eq_true, decide_eq_true_eq] at h
  exact ⟨h.1.1, h.1.2, h.2, q⟩

theorem uni_S (rs : List (Reg × Nat)) (p : Pred) (h : uniOk S T rs p = true) : UniClear S T rs p := uni_of S T rs p quiet_S h
theorem uni_SH (rs : List (Reg × Nat)) (p : Pred) (h : uniOk SH TH rs p = true) : UniClear SH TH rs p := uni_of SH TH rs p quiet_SH h

theorem ok_of (s : State) (h : s.teams.map (fun e => e.1) = [1]) (h' : s.teams.all (fun e => e.2.ctx == e.1) = true) : s.teamsOk := by
  refine ⟨?_, fun e he => by simpa using List.all_eq_true.mp h' e he⟩
  rw [Tbl.rising, ← List.pairwise_map (R := fun a b => a < b), h]
  exact List.pairwise_singleton _ _

theorem ok_of2 (s : State) (h : s.teams.map (fun e => e.1) = [1, 2]) (h' : s.teams.all (fun e => e.2.ctx == e.1) = true) : s.teamsOk := by
  refine ⟨?_, fun e he => by simpa using List.all_eq_true.mp h' e he⟩
  rw [Tbl.rising, ← List.pairwise_map (R := fun a b => a < b), h]
  simp

theorem meets_Branches : S.Runs T ∧ (Instr.br (fbr 0 8)).wf = true ∧ UniClear S T [] .always
    ∧ (Instr.brx (fbr 2 8)).wf = true ∧ UniClear S T [(2, 1)] .always
    ∧ (Instr.ret (fbr 6 0)).wf = true ∧ UniClear S T [(6, 2)] .always ∧ (S.uniVal T 6 2).extractLsb' 0 3 = 0
    ∧ (Instr.call (fbr 8 8)).wf = true ∧ UniClear S T [(8, 2)] .always := by
  repeat' with_reducible apply And.intro
  all_goals first
    | decide +kernel
    | exact runs_S
    | exact uni_S _ _ (by decide +kernel)
theorem meets_Branches_lanes : ∀ b, let o : FBR := { fbr 0 8 with cond := ⟨!b, 0⟩ }
    (Instr.brdiv o).wf = true ∧ (∀ e ∈ T.pendP, T.own e.1 = true → e.2 ≠ predKey false o.cond.num.toNat)
    ∧ (∀ l ∈ T.current, lanePred l o.cond = b) ∧ T.current ≠ [] := by decide +kernel
-- R107, R136 to R140: the header of `T` stands at 0x2000, the next one at 0x2018
theorem test_br : (team (after (.br (fbr 0 8)) S)).pc = 0x2040 ∧ (team (after (.br { fbr 0 8 with p := ⟨true, 1⟩ }) S)).pc = 0x2018 := by decide +kernel
theorem test_brx : (team (after (.brx (fbr 2 0xFFFF_FFFF)) S)).pc = 0x2068 := by decide +kernel
theorem test_call : (team (after (.call (fbr 8 8)) S)).pc = 0x2040 ∧ (after (.call (fbr 8 8)) S).uniVal T 8 2 = 0x2018 := by decide +kernel
theorem test_ret : (team (after (.ret (fbr 6 0)) S)).pc = 0x4000 := by decide +kernel

/-- A team whose lanes part at a `brdiv` on p1; one with a load outstanding, and one 16 splits deep. -/
def parts : FBR := { fbr 0 8 with cond := ⟨false, 1⟩ }
def TL : Team := { T with ld := 1 }
def TD : Team := { T with div := List.replicate 16 (.split 9 true) }
/-- On the first path of a serial fallback, with both lanes; a lane that has exited stood on the other. -/
def TFb : Team := { T with div := [.fallback [pathAt [0, 1] [4] 0x2000, pathAt [2] [4] 0x5000]] }
theorem meets_DivergentBranches : [T, TL, TD, TFb, { TFb with ld := 1 }].all (fun t => let s := at_ t
      decide ((Instr.brdiv parts).wf = true ∧ s.turn = .team t.ctx ∧ s.team? t.ctx = some t ∧ s.qHolds t .always = true ∧ divDepth t.div < 32
        ∧ (∃ l ∈ t.current, lanePred l parts.cond = true) ∧ (∃ l ∈ t.current, lanePred l parts.cond = false) ∧ t.pendP = []))
    && decide (TL.drained = false) && decide (T.drained = true ∧ S.freeSlot (S.coreOf T) = some 1 ∧ S.freeCtx (S.vdOf T) = some 49152 ∧ 49152 ≠ T.ctx
      ∧ splitCount T.div < 16 ∧ T.inFallback = false ∧ T.span = none)
    && decide (TD.drained = true ∧ 16 ≤ splitCount TD.div ∧ TD.inFallback = false ∧ TFb.drained = true) = true := by decide +kernel
theorem meets_DivergentBranches_clear : (∀ t ∈ [T, TL, TD, TFb, { TFb with ld := 1 }], UniClear (at_ t) t [] .always ∧ (at_ t).teamsOk) := by
  have q (t : Team) (h : t.fam = 1 ∧ t.ctx = 1 ∧ t.pend = [] ∧ t.pendP = []) : UniClear (at_ t) t [] .always :=
    ⟨by simp, by simp [h.2.2.1], by simp [h.2.2.2], quiet_of _ _ (by rw [h.1, h.2.1]; rfl) (by rw [h.1, h.2.1]; rfl)⟩
  intro t ht
  have h : t.fam = 1 ∧ t.ctx = 1 ∧ t.pend = [] ∧ t.pendP = [] := by
    fin_cases ht <;> decide +kernel
  exact ⟨q t h, ok_of _ rfl (by simp [at_, h])⟩
/-- R16: lane 0 takes the branch as a team of its own, context 3 · 2^14, and lane 1 goes on; both are packed. -/
theorem test_brdiv : let s := after (.brdiv parts) S
    ((team s 49152).pc, (team s 49152).lanes.map (fun l => (l.slot, l.vid))) = (0x2040, [(0, 0)])
    ∧ ((team s 1).pc, (team s 1).lanes.map (fun l => (l.slot, l.vid))) = (0x2018, [(0, 1)]) := by decide +kernel

/-- A team with a split record, alone, and with its sibling, which has its path of lane 1. -/
def TJ : Team := { T with div := [.split 5 true], lanes := T.lanes.take 1 }
def U : Team := { T with ctx := 2, slot := 1, div := [.split 5 false], lanes := T.lanes.drop 1 }
def UP : Team := { U with parked := .record 5, waiting := true }
def with2 (t u : Team) : State := { at_ t with teams := [(1, t), (2, u)] }
theorem meets_JoinsAndExits : (at_ TJ).Runs TJ ∧ (at_ TJ).teamsOk ∧ (Instr.join (fbr 0 0)).wf = true ∧ (at_ TJ).otherSide TJ 5 true = []
    ∧ (with2 TJ U).Runs TJ ∧ (with2 TJ U).teamsOk ∧ (with2 TJ U).otherSide TJ 5 true = [U] ∧ TJ.drained = true ∧ U.parked ≠ .record 5 := by
  repeat' with_reducible apply And.intro
  all_goals first
    | decide +kernel
    | exact ⟨by decide +kernel, by decide +kernel⟩
    | exact ok_of _ (by decide +kernel) (by decide +kernel)
    | exact ok_of2 _ (by decide +kernel) (by decide +kernel)
theorem meets_JoinsAndExits_merge : (with2 TJ UP).Runs TJ ∧ (with2 TJ UP).teamsOk ∧ (with2 TJ UP).otherSide TJ 5 true = [UP] ∧ UP.parked = .record 5
    ∧ UP.ctx ≠ TJ.ctx ∧ UP.fam = TJ.fam ∧ UP.handler = TJ.handler ∧ UP.fen = TJ.fen ∧ UP.watch = TJ.watch := by
  repeat' with_reducible apply And.intro
  all_goals first
    | decide +kernel
    | exact ⟨by decide +kernel, by decide +kernel⟩
    | exact ok_of2 _ (by decide +kernel) (by decide +kernel)
theorem meets_JoinsAndExits_exit : S.Runs T ∧ S.teamsOk ∧ (Instr.exit { fbr 0 0 with p := ⟨false, 1⟩ }).wf = true ∧ T.pendP = [] ∧ T.div = [] := by
  repeat' with_reducible apply And.intro
  all_goals first
    | decide +kernel
    | exact runs_S
    | exact ok_of _ (by decide +kernel) (by decide +kernel)
/-- R19: the merged team has both lanes again, packed by virtual id; R23: an exit takes lane 0 away. -/
theorem test_join : let s := after (.join (fbr 0 0)) (with2 TJ UP)
    (team s 2).lanes.map (fun l => (l.slot, l.vid)) = [(0, 0), (1, 1)] ∧ (team s 2).div = [] ∧ s.team? 1 = none ∧ (team s 2).pc = 0x2018 := by
  decide +kernel
theorem test_exit : (team (after (.exit { fbr 0 0 with p := ⟨false, 1⟩ }) S)).lanes.map (fun l => l.vid) = [1] := by decide +kernel

/-! ## Flags, waits, traps -/

def TF : Team := { T with flags := 0x12, fen := 0x10 }
def SF : State := at_ TF
theorem runs_SF : SF.Runs TF := ⟨by decide +kernel, by decide +kernel⟩
theorem quiet_SF : SF.Quiet TF := quiet_of _ _ (by decide +kernel) (by decide +kernel)
theorem meets_FlagsAndSpecials : Met SF TF [(.getf (f3 22 0 0), ⟨.always, .reg 22 1, []⟩), (.getfClr (f3 8 0 0), ⟨.always, .reg 8 1, []⟩),
      (.rdsr { f3 22 0 0 with imm := 0x2B }, ⟨.always, .reg 22 1, []⟩), (.rdsr { f3 8 0 0 with imm := 0x11 }, ⟨.always, .reg 8 1, []⟩),
      (.rdsr { f3 22 0 0 with imm := 0x24 }, ⟨.always, .reg 22 2, []⟩)]
    ∧ MetX SF TF ([0, 0x10].map (fun n => (.rdsr { f3 22 0 0 with imm := n }, ⟨⟨.always, .reg 22 1, []⟩, none, true, false, []⟩)))
    ∧ (∀ i ∈ [Instr.clrf (f3 0 2 0), .clrfFen (f3 0 254 0), .clrfLoad (f3 0 255 0)], i.wf = true)
    ∧ ∀ a ∈ [2, 254, 255], UniClear SF TF [(a, 1)] .always :=
  ⟨met_of runs_SF quiet_SF (by decide +kernel), metX_of runs_SF quiet_SF (by decide +kernel), by decide +kernel,
    fun a ha => uni_of _ _ _ _ quiet_SF (by fin_cases ha <;> decide +kernel)⟩
theorem test_getf_clr : ureg (.getfClr (f3 8 0 0)) 8 SF = 0x12 ∧ flags (.getfClr (f3 8 0 0)) SF = 0 := by decide +kernel
theorem test_clrf : flags (.clrf { f3 0 254 0 with imm := 2 }) SF = 0x10 ∧ (team (after (.clrfFen { f3 0 254 0 with imm := 3 }) SF)).fen = 3
  ∧ flags (.clrfLoad { f3 0 254 0 with imm := 0x41 }) SF = 0x41 := by decide +kernel
theorem test_rdsr : vreg (.rdsr { f3 22 0 0 with imm := 0 }) 22 SF = [0, 1] ∧ ureg (.rdsr { f3 8 0 0 with imm := 0x22 }) 8 SF = 0x103
  ∧ ureg (.rdsr { f3 8 0 0 with imm := 0x20 }) 8 SF = 2 := by decide +kernel

theorem meets_WaitsAndFences : S.Runs T ∧ (Instr.nop (f3 0 0 0)).wf = true ∧ UniClear S T [] .always
    ∧ (Instr.wait (fri 0 0 0)).wf = true ∧ (Instr.tfence (f3 0 0 0)).wf = true ∧ T.drained = true ∧ T.flags &&& T.fen = 0
    ∧ (at_ TL).Runs TL ∧ UniClear (at_ TL) TL [] .always ∧ TL.drained = false ∧ (at_ TL).qHolds TL .always = true ∧ ¬ TL.out .ld ≤ 0
    ∧ TL.out .ld ≤ 1 := by
  repeat' with_reducible apply And.intro
  all_goals first
    | decide +kernel
    | exact runs_S
    | exact uni_S _ _ (by decide +kernel)
    | exact ⟨by decide +kernel, by decide +kernel⟩
    | exact meets_DivergentBranches_clear TL (by simp) |>.1
theorem test_wait : (team (after (.wait (fri 0 0 0)) (at_ TL))).word = 0 ∧ (team (after (.wait (fri 0 0 1)) (at_ TL))).word = 1
  ∧ (team (after (.nop (f3 0 0 0)) S)).word = 1 := by decide +kernel

/-- A team with a handler, whose flag NV is enabled and raised. -/
def TA : Team := { TH with flags := 0x10, fen := 0x10 }
theorem meets_TrapEntry : SH.Runs TH ∧ TH.handler.isSet = true ∧ TH.handler.mask = false ∧ TH.handler.off.toNat + 160 ≤ (SH.group TH.group).spadLen
    ∧ UniClear SH TH [] .always ∧ SH.qHolds TH .always = true ∧ (Instr.trap (fri 0 0 77)).wf = true ∧ (Instr.brk (fri 0 0 77)).wf = true
    ∧ (at_ TA).Runs TA ∧ UniClear (at_ TA) TA [] .always ∧ (at_ TA).qHolds TA .always = true ∧ (Instr.tfence (f3 0 0 0)).wf = true
    ∧ TA.drained = true ∧ TA.flags &&& TA.fen ≠ 0 := by
  repeat' with_reducible apply And.intro
  all_goals first
    | decide +kernel
    | exact runs_SH
    | exact uni_SH _ _ (by decide +kernel)
    | exact ⟨by decide +kernel, by decide +kernel⟩
    | exact ⟨by decide +kernel, by decide +kernel, by decide +kernel, quiet_of _ _ (by decide +kernel) (by decide +kernel)⟩
/-- R255: the record at 0x200 holds the address, cause 0x09 and code; the team goes on at 0x3000 in handler mode, masked. -/
theorem test_trap : let s := after (.trap (fri 0 0 77)) SH
    ((s.group 1).spadNum 0x200 8, (s.group 1).spadNum 0x20A 1, (s.group 1).spadNum 0x20C 4) = (0x2018, 9, 77)
    ∧ (team s).pc = 0x3000 ∧ (team s).handler.mode = true ∧ (team s).handler.mask = true := by decide +kernel

/-- The team in its handler. -/
def TM : Team := { TH with handler := { TH.handler with mode := true, mask := true, pc := 0x2000, word := 1, spc := 0x2018, sword := 0 } }
def SM : State := at_ TM
theorem meets_TrapReturn : SM.Runs TM ∧ UniClear SM TM [] .always ∧ SM.qHolds TM .always = true ∧ TM.handler.mode = true ∧ pathVids TM.div = none
    ∧ (∀ p ∈ TM.replay, memOf p.instr = none) ∧ TM.handler.kept = none
    ∧ ([Instr.rfh (f3 0 0 0), .rfhSkip (f3 0 0 0), .tmaskOn (f3 0 0 0), .tmaskOff (f3 0 0 0), .hset (fbr 6 1), .hset (fbr 255 0),
      .hcall (fri 0 0 5)].all Instr.wf) = true
    ∧ UniClear SM TM [(6, 1)] .always ∧ (SM.uniVal TM 6 1).extractLsb' 0 5 = 0 ∧ UniClear SM TM [(255, 1)] .always :=
  have q : SM.Quiet TM := quiet_of _ _ (by decide +kernel) (by decide +kernel)
  ⟨⟨by decide +kernel, by decide +kernel⟩, uni_of _ _ _ _ q (by decide +kernel), by decide +kernel, by decide +kernel, by decide +kernel, by simp [TM, TH, T, resetTeam], by decide +kernel, by decide +kernel,
    uni_of _ _ _ _ q (by decide +kernel), by decide +kernel, uni_of _ _ _ _ q (by decide +kernel)⟩
theorem test_rfh : ((team (after (.rfh (f3 0 0 0)) SM)).pc, (team (after (.rfh (f3 0 0 0)) SM)).word) = (0x2000, 1)
  ∧ (team (after (.rfhSkip (f3 0 0 0)) SM)).pc = 0x2018 ∧ (team (after (.rfh (f3 0 0 0)) SM)).handler.mask = false := by decide +kernel
theorem test_hset : (team (after (.hset (fbr 6 1)) SM)).handler.addr = 0x2008 ∧ (team (after (.hset (fbr 6 1)) SM)).handler.off = 0x4000
  ∧ (team (after (.hset (fbr 255 0)) SM)).handler.isSet = false := by decide +kernel
theorem test_hcall : (team (after (.hcall (fri 0 0 5)) S)).parked = .hcall ∧ (team (after (.tmaskOn (f3 0 0 0)) S)).handler.mask = true := by decide +kernel

/-- The five cases of R51 at a team whose v17 is pending: a NONE register, a pending one, a pair apart, a lane source. -/
def TQ : Team := { TH with pend := [([], 17)] }
def SQ : State := at_ TQ
theorem meets_RegisterTraps : SQ.Runs TQ ∧ TQ.handler.isSet = true ∧ TQ.handler.mask = false ∧ TQ.handler.off.toNat + 160 ≤ (SQ.group TQ.group).spadLen
    ∧ (Instr.add (f3 22 40 17)).wf = true ∧ (∃ k, (∃ x ∈ (bin (f3 22 40 17)).regs, k ∈ regNums x.1 x.2) ∧ (SQ.entry TQ k).kind = .none)
    ∧ (Instr.add (f3 22 16 17)).wf = true ∧ (∃ e ∈ TQ.pend, TQ.own e.1 = true ∧ ∃ x ∈ (bin (f3 22 16 17)).regs, e.2.toNat ∈ regNums x.1 x.2)
    ∧ (∀ e ∈ TQ.pendP, TQ.own e.1 = false) := by
  repeat' with_reducible apply And.intro
  all_goals first
    | decide +kernel
    | exact ⟨by decide +kernel, by decide +kernel⟩
    | exact ⟨40, by decide +kernel⟩
/-- A pair of which one half is at TEAM and the other at LANE; a uniform destination with a source at LANE. -/
def FA : Family := { F with map := Tbl.set F.map 9 (ent .lane 31) }
def SA : State := { SH with fams := [(1, FA)] }
theorem meets_RegisterTraps_apart : SA.Runs TH ∧ (Instr.add (op .i64 8 2 4)).wf = false ∧ (Instr.min (op .i64 8 2 4)).wf = true
    ∧ (∀ k, (∃ x ∈ (bin (op .i64 8 2 4)).regs, k ∈ regNums x.1 x.2) → ¬(253 < k ∨ (SA.entry TH k).kind = .none)) ∧ TH.pend = [] ∧ TH.pendP = []
    ∧ (∃ x ∈ (bin (op .i64 8 2 4)).regs, ∃ k ∈ regNums x.1 x.2, (SA.entry TH k).loc ≠ (SA.entry TH x.1.toNat).loc) := by
  refine ⟨⟨by decide +kernel, by decide +kernel⟩, by decide +kernel, by decide +kernel, ?_, by decide +kernel, by decide +kernel, by decide +kernel⟩
  rintro k ⟨x, hx, hk⟩
  revert hx
  have : ∀ x ∈ (bin (op .i64 8 2 4)).regs, ∀ k ∈ regNums x.1 x.2, ¬(253 < k ∨ (SA.entry TH k).kind = .none) := by decide +kernel
  exact fun hx => this x hx k hk
theorem meets_RegisterTraps_shape : SH.Runs TH ∧ (Instr.add (f3 8 16 2)).wf = true ∧ Reg.noName 8 = false ∧ (SH.entry TH 8).kind = .team
    ∧ (∃ x ∈ (bin (f3 8 16 2)).srcs, srcAtLane SH TH x = true)
    ∧ (∀ x ∈ (bin (f3 8 16 2)).regs, ∀ k ∈ regNums x.1 x.2, ¬(253 < k ∨ (SH.entry TH k).kind = .none)
      ∧ (SH.entry TH k).loc = (SH.entry TH x.1.toNat).loc ∧ (SH.entry TH k).kind ≠ .bank) ∧ TH.pend = [] ∧ TH.pendP = [] := by
  repeat' with_reducible apply And.intro
  all_goals first
    | decide +kernel
    | exact runs_SH
theorem test_traps_order : (team (after (.add (f3 22 40 17)) SQ)).handler.cause = some .undecl
  ∧ (team (after (.add (f3 22 16 17)) SQ)).handler.cause = some .unwaited ∧ (team (after (.min (op .i64 8 2 4)) SA)).handler.cause = some .place
  ∧ (team (after (.add (f3 8 16 2)) SH)).handler.cause = some .shape := by decide +kernel

/-! ## Memory instructions -/

/-- The conditions of `MemClear` that can be run. -/
def memOk (s : State) (t : Team) (m : MemDesc) : Bool :=
  decide (∀ x ∈ m.names, ∀ k ∈ regNums x.1 x.2, k < 254 ∧ (s.entry t k).kind = (s.entry t x.1.toNat).kind
    ∧ ((s.entry t k).kind = .lane ∨ (s.entry t k).kind = .team))
  && decide (∀ e ∈ t.pend, t.own e.1 = true → ∀ x ∈ m.names, e.2.toNat ∉ regNums x.1 x.2)
  && decide (∀ e ∈ t.pendP, t.own e.1 = true → e.2 ≠ predKey (!memAtLane s t m) m.o.p.num.toNat)
  && decide ((m.rule = .lane → Reg.noName m.o.data = true ∨ memAtLane s t m = true) ∧ (m.rule = .uniform → memAtLane s t m = false))
  && decide (memAtLane s t m = false → Reg.noName m.o.base = true ∨ (s.entry t m.o.base.toNat).kind = .team)

theorem mem_of (s : State) (t : Team) (m : MemDesc) (q : s.Quiet t) (h : memOk s t m = true) : MemClear s t m := by
  simp only [memOk, Bool.and_eq_true, decide_eq_true_eq] at h
  exact ⟨h.1.1.1.1, h.1.1.1.2, h.1.1.2, h.1.2, h.2, q⟩

/-- Memory instructions at LANE and at TEAM, with a lane-shaped and a uniform BASE. -/
def accesses : List Instr :=
  [.ld .w32 (fm 22 0 4), .ld .w64 (fm 22 20 0), .st .w128 (fm 20 0 16), .ldu .w16 (fm 8 0 2), .stu .w8 (fm 2 0 1), .lds .s8 (fm 22 0 3), .sts .w32 (fm 2 0 8),
    .ldc .w32 (fm 22 2 1), .stc .w32 (fm 6 2 1), .ldk .w32 (fm 22 0 0), .setfe (fm 0 0 0), .clrfe (fm 0 0 16), .atom .add64 (fm 22 0 0),
    .red .maxS32 (fm 2 0 4), .atomcas true (fm 16 0 0), .atomf true (fm 22 20 0), .redf false (fm 20 0 4), .ld .w32 { fm 22 0 4 with p := ⟨false, 3⟩ },
    .stu .w32 { fm 2 0 0 with p := ⟨true, 1⟩ }]
/-- The conditions of MemoryIssue on an instruction, and that its addresses are reachable. -/
def issuable (i : Instr) : Bool :=
  match memOf i with
  | none => false
  | some m => i.wf && memOk S T m && decide (T.ctr (m.ctr false) < 63)
    && (if memAtLane S T m then decide (∀ l ∈ T.active m.o.p, (m.ea (baseOf S T m l)).toNat % 2 ^ 32 % m.size = 0 ∧ S.peerBad T.group m (baseOf S T m l) = none)
      else decide ((m.ea (S.uniVal T m.o.base m.baseRegs)).toNat % 2 ^ 32 % m.size = 0 ∧ S.peerBad T.group m (S.uniVal T m.o.base m.baseRegs) = none))
theorem meets_MemoryIssue : S.Runs T ∧ T.span = none ∧ pathVids T.div = none ∧ T.inFallback = false
    ∧ accesses.all issuable = true ∧ (∀ i ∈ accesses, ∀ m, memOf i = some m → MemClear S T m)
    ∧ (T.active .always ≠ []) ∧ T.active ⟨false, 3⟩ = [] ∧ S.qHolds T .always = true ∧ S.qHolds T ⟨true, 1⟩ = false := by
  refine ⟨runs_S, by decide +kernel, by decide +kernel, by decide +kernel, by decide +kernel, fun i hi m hm => ?_, by decide +kernel, by decide +kernel,
    by decide +kernel, by decide +kernel⟩
  have h : accesses.all issuable = true := by decide +kernel
  have := List.all_eq_true.mp h i hi
  simp only [issuable, hm, Bool.and_eq_true] at this
  exact mem_of S T m quiet_S this.1.1.2
/-- R61: a load issues one request for its lanes, raises LD and makes v22 pending. -/
theorem test_issue : let s := after (.ld .w32 (fm 22 0 4)) S
    (team s).ld = 1 ∧ (team s).pend = [([], 22)] ∧ (s.reqs.flatMap (fun r => r.lanes)).map (fun l => l.addr) = [localAddr 0x104, localAddr 0x104] := by
  decide +kernel

/-- The team's scratchpad holds 0x44332211 at 0x100 and 0xFFFFFFFF at 0x104. -/
def GS : Group := { G with spad := [(0x100, 0x11), (0x101, 0x22), (0x102, 0x33), (0x103, 0x44), (0x104, 0xFF), (0x105, 0xFF), (0x106, 0xFF), (0x107, 0xFF)] }
def SS : State := { S with groups := [(1, GS)] }
/-- An instruction has issued and its accesses have passed race detection. -/
def issued (i : Instr) (s : State := SS) : State :=
  let s := after i s
  { s with teams := s.teams.map (fun e => (e.1, { e.2 with replay := e.2.replay.map (fun p => { p with checked := true }) })) }

/-- The conditions of `Taken`. -/
def takenOk (s : State) (n : Nat) (r : Req) (t : Team) (pk : Packet) : Bool :=
  decide (s.reqs[n]? = some r) && !r.orphan && decide (s.team? r.ctx = some t ∧ t.ctx = r.ctx) && decide (t.pk? r.seq = some pk)
  && !s.outdated t r && !s.discarded r && decide (r.route = []) && decide (s.recordsOf r = []) && decide (s.windowOf r < 256) && !s.heldByOrder n r
  && !s.heldByLace r
  && decide (r.group = t.group)

theorem taken_of (s : State) (n : Nat) (r : Req) (t : Team) (pk : Packet) (h : takenOk s n r t pk = true) : Taken s n r t pk := by
  simp only [takenOk, Bool.and_eq_true, decide_eq_true_eq, Bool.not_eq_eq_eq_not, Bool.not_true] at h
  obtain ⟨⟨⟨⟨⟨⟨h, h7⟩, h8⟩, h9⟩, h10⟩, h11⟩, h12⟩ := h
  obtain ⟨⟨⟨⟨⟨h1, h2⟩, h3⟩, h4⟩, h5⟩, h6⟩ := h
  exact ⟨h1, h2, h3.1, h3.2, h4, h5, h6, h7, h8, h9, h10, h11, h12⟩

def req0 (s : State) : Req := s.reqs.headD { orphan := true, instr := .clauseStart, uniform := false, fam := 0, group := 0, ctx := 0, gen := 0, seq := 0
                                             inst := .core, target := .host, op := .exec, lanes := [], sent := 0, rcvd := none, id := 0, route := [] }
def pkt0 (s : State) : Packet := (team s).replay.headD (T.packet .clauseStart .core .ld false [] [])

/-- What ScratchpadAccesses asks of the first request of `s`. -/
def spadOk (s : State) : Bool :=
  let r := req0 s
  match memOf r.instr with
  | none => false
  | some m => takenOk s 0 r (team s) (pkt0 s) && decide (∃ b ∈ List.range 4096, r.target = .spad 1 b) && decide (r.op = .access) && (pkt0 s).checked && !m.acquires && !m.releases
    && !m.o.fec && !m.o.few && decide (r.lanes ≠ [])
    && decide (∀ l ∈ r.lanes, s.memSpace (team s).group m l.addr = .spad 1 (l.addr.toNat % 2 ^ 32) ∧ (s.group 1).poisoned (l.addr.toNat % 2 ^ 32) m.size = false)
    && decide (m.kind = .store → ∀ l ∈ r.lanes, m.size ≤ 4 * l.ops.length) && decide (m.kind.isAtomic = true → r.lanes.length = 1)
theorem meets_ScratchpadAccesses : ∀ i ∈ [Instr.lds .s8 (fm 22 0 4), .sts .w32 (fm 16 0 0), .stu .w128 (fm 4 0 16), .atom .add32 (fm 2 0 4), .clrfe (fm 0 0 0),
    .ld .w32 (fm 22 0 4)], spadOk (issued i) = true := by decide +kernel
-- R172, R169, R181, R177 at the scratchpad
theorem test_lds : (after (.requestAtTarget 0) (issued (.lds .s8 (fm 22 0 4)))).answers.map (fun a => a.lanes.map (fun l => l.vals)) =
    [[[0xFFFF_FFFF], [0xFFFF_FFFF]]] := by decide +kernel
theorem test_sts : ((after (.requestAtTarget 0) (issued (.sts .w32 (fm 16 0 0)))).group 1).spadNum 0x100 4 = 0xFFFF_FFFF
  ∧ ((after (.requestAtTarget 0) (issued (.sts .w8 (fm 16 0 1)))).group 1).spadNum 0x100 4 = 0x4433_FF11 := by decide +kernel
theorem test_atom : let s := after (.requestAtTarget 0) (issued (.atom .add32 (fm 2 0 4)))
    (s.group 1).spadNum 0x104 4 = 6 ∧ s.answers.map (fun a => a.lanes.map (fun l => l.vals)) = [[[0xFFFF_FFFF]]] := by decide +kernel
theorem test_setfe : ((after (.requestAtTarget 0) (issued (.setfe (fm 0 0 0)))).group 1).full = [0x10] := by decide +kernel

/-- A load whose answer is on its way, and its acknowledgement after that. -/
def SC : State := after (.requestAtTarget 0) (issued (.lds .w32 (fm 22 0 4)))
def SK : State := after (.completionReceive 0) SC
def ans0 (s : State) : Answer := s.answers.headD { ctx := 0, gen := 0, seq := 0, target := .host, op := .exec, lanes := [], flags := 0, poison := none, stop := none, id := 0, route := [] }
theorem meets_Completions : let s := SC
    let a := ans0 s
    let t := team s
    let pk := pkt0 s
    (s.answers[0]? = some a ∧ a.route = [] ∧ s.team? a.ctx = some t ∧ t.ctx = a.ctx ∧ t.pk? a.seq = some pk ∧ (memOf pk.instr).isSome = true ∧ a.gen = t.gen
      ∧ pk.complete = false ∧ pk.inst = .core ∧ pk.uniform = false ∧ a.op = .access ∧ a.poison = none ∧ a.stop = none ∧ descOf pk.instr = none)
    ∧ (memOf pk.instr).map (fun m => (m.gives, m.o.few)) = some (1, false) ∧ (∀ l ∈ a.lanes, l.fault = none ∧ l.vals.length = 1)
    ∧ (∀ l ∈ pk.lanes, a.lanes.any (fun x => x.vid == l.vid) = true) ∧ SK.acks[0]? = some (1, 0) ∧ SK.team? 1 = some (team SK) := by decide +kernel
theorem test_completion : (team SK).lanes.map (fun l => Tbl.get 0 l.regs 22) = [0xFFFF_FFFF, 0xFFFF_FFFF] ∧ (team SK).ld = 0 ∧ (team SK).pend = []
  ∧ (team (after (.completionAcknowledgement 0) SK)).replay = [] := by decide +kernel

/-! ## Transactions, fences, barriers, places -/

/-- A team with an open span in which lane 0 is ACTIVE; one at its commit with no lane ACTIVE. -/
def TT : Team := { T with span := some { scope := .group, depth := 0 }, lanes := T.lanes.map (fun l => { l with tx := { noTx with st := if l.vid = 0 then .active else .none } }) }
def TC : Team := { T with span := some { scope := .group, depth := 0 }, tend := true, waiting := true
                          lanes := T.lanes.map (fun l => { l with tx := { noTx with st := .committed } }) }
theorem meets_TransactionSpans : S.Runs T ∧ (Instr.tbeg { fm 0 0 0 with scope := .group }).wf = true ∧ T.pendP = [] ∧ T.span = none ∧ T.active .always ≠ []
    ∧ (at_ TT).Runs TT ∧ (Instr.tend (fm 0 0 0)).wf = true ∧ (∃ sp, TT.span = some sp ∧ sp.depth = divDepth TT.div)
    ∧ (Instr.tabt { f3 0 0 0 with imm := 9 }).wf = true ∧ MetX (at_ TT) TT [(.tstat (f3 22 0 0), ⟨⟨.always, .reg 22 1, []⟩, none, true, false, []⟩)]
    ∧ TC.tend = true ∧ TC.span.isSome = true ∧ TC.parked = .no ∧ TC.out .ld = 0 ∧ TC.out .st = 0 ∧ (∀ l ∈ TC.lanes, l.tx.st ≠ .active) ∧ (at_ TC).Runs TC :=
  have r : (at_ TT).Runs TT := ⟨by decide +kernel, by decide +kernel⟩
  ⟨runs_S, by decide +kernel, by decide +kernel, by decide +kernel, by decide +kernel, r, by decide +kernel, ⟨_, rfl, by decide +kernel⟩,
    by decide +kernel, metX_of r (quiet_of _ _ (by decide +kernel) (by decide +kernel)) (by decide +kernel), by decide +kernel, by decide +kernel,
    by decide +kernel, by decide +kernel, by decide +kernel, by decide +kernel, ⟨by decide +kernel, by decide +kernel⟩⟩
theorem test_tabt : (team (after (.tabt { f3 0 0 0 with imm := 9 }) (at_ TT))).lanes.map (fun l => (l.tx.st, l.tx.code)) = [(.explicit, 9), (.none, 0)]
  ∧ vreg (.tstat (f3 22 0 0)) 22 (at_ TT) = [0x8000_0001, 0x8000_0000] := by decide +kernel
theorem test_commit : (team (after (.transactionCommit 1) (at_ TC))).span = none ∧ (team (after (.transactionCommit 1) (at_ TC))).word = 1 := by decide +kernel

def rel (o : MemOrd) : FMem := { fm 0 0 0 with ord := o, scope := .cluster }
theorem meets_Fences : S.Runs T ∧ T.span = none ∧ (∀ o ∈ [MemOrd.acq, .rel, .acqrel], (Instr.fence (rel o)).wf = true) ∧ UniClear S T [] .always
    ∧ S.qHolds T .always = true ∧ T.out .ld = 0 ∧ T.out .st = 0 ∧ Tbl.rising (S.core (S.coreOf T)).l1 ∧ Written S (S.coreOf T) .package
    ∧ (∀ ps, (Instr.pathf ps (fm 0 0 0)).wf = true) ∧ (Instr.placef (f3 0 0 0)).wf = true ∧ T.drained = true
    ∧ UniClear (at_ TL) TL [] .always ∧ TL.drained = false ∧ TL.out .ld ≠ 0 := by
  repeat' with_reducible apply And.intro
  all_goals first
    | decide +kernel
    | exact runs_S
    | exact uni_S _ _ (by decide +kernel)
    | exact by unfold Tbl.rising; exact List.Pairwise.nil
    | exact by unfold Written; decide +kernel
    | exact fun ps => by cases ps <;> decide +kernel
    | exact meets_DivergentBranches_clear TL (by simp) |>.1

/-- A barrier object at 0x100: GEN 2, EXPECT 2, one arrival missing, initialised, INB 16. -/
def objBytes (gen pend inb : Nat) : Mem := Mem.writeN [] 0x100 (leBytes 16 (inb * 2 ^ 48 + 2 ^ 98 + pend * 2 ^ 100 + 2 * 2 ^ 112 + gen * 2 ^ 124))
def SB (gen pend inb : Nat) : State := { S with groups := [(1, { G with spad := objBytes gen pend inb, registry := [0x100] })] }
def bar (data : Nat) : FMem := { fm data 0 0 with scope := .group }
/-- A team that has been released at a `barwait`; a team beside `T` that awaits phase 1 of the object. -/
def TBr : Team := { T with bar := some ⟨0x100, true, some true⟩ }
def UB : Team := { T with ctx := 2, slot := 1, parked := .barwait, bar := some ⟨0x100, true, none⟩ }
theorem runs_SB (a b c : Nat) : (SB a b c).Runs T := ⟨rfl, rfl⟩
theorem uni_SB (rs : List (Reg × Nat)) (h : uniOk (SB 2 1 16) T rs .always = true) : UniClear (SB 2 1 16) T rs .always :=
  uni_of _ _ _ _ (quiet_of _ _ (by decide +kernel) (by decide +kernel)) h
theorem meets_Barriers : (SB 2 1 16).Runs T ∧ T.span = none ∧ (SB 2 1 16).qHolds T .always = true
    ∧ (((SB 2 1 16).uniVal T 0 1).setWidth 32 + (0#24).signExtend 32 : Word).toNat = 0x100 ∧ 0x100 % 16 = 0 ∧ 0x100 + 16 ≤ ((SB 2 1 16).group T.group).spadLen
    ∧ UniClear (SB 2 1 16) T [(0, 1)] .always ∧ UniClear (SB 2 1 16) T [(2, 1)] .always
    ∧ (Instr.barinit (bar 2)).wf = true ∧ ((SB 2 1 16).group T.group).registry.length < 64 ∧ T.out .ld = 0 ∧ T.out .st = 0
    ∧ (objectAt (SB 2 1 16) T 0x100).init = 1 ∧ (objectAt (SB 2 1 16) T 0x100).pend ≠ 0
    ∧ (Instr.arrive (bar 0)).wf = true ∧ (Instr.arriveInb (bar 2)).wf = true ∧ (Instr.arriveOutb (bar 2)).wf = true
    ∧ (∀ ph, (Instr.barwait ph (bar 10)).wf = true) ∧ T.inFallback = false ∧ T.pendP = [] ∧ (Instr.bwatch 7 (bar 0)).wf = true
    ∧ T.bar = none ∧ ({ SB 2 1 16 with teams := [(1, TBr)] } : State).team? 1 = some TBr ∧ TBr.bar.bind (fun b => b.met) = some true
    ∧ ({ SB 2 1 16 with teams := [(1, T), (2, UB)] } : State).team? 2 = some UB ∧ UB.group = T.group ∧ UB.loaded = true ∧ 2 ≠ T.ctx
    ∧ (∀ inb, inb ∈ [0, 16] → (objectAt (SB 2 0 inb) T 0x100).init = 1 ∧ (objectAt (SB 2 0 inb) T 0x100).pend = 0) := by
  repeat' with_reducible apply And.intro
  all_goals first
    | decide +kernel
    | exact runs_SB _ _ _
    | exact uni_SB _ (by decide +kernel)
/-- R196, R198: the last arrival without bytes due starts the next phase; with bytes due it does not. -/
theorem test_arrive : objectAt (after (.arrive (bar 0)) (SB 2 1 0)) T 0x100 = { gen := 3, expect := 2, pend := 2, abandoned := 0, init := 1, inb := 0, outb := 0 }
  ∧ objectAt (after (.arriveInb (bar 2)) (SB 2 1 16)) T 0x100 = { gen := 2, expect := 2, pend := 0, abandoned := 0, init := 1, inb := 23, outb := 0 } := by
  decide +kernel
theorem test_barinit : objectAt (after (.barinit (bar 2)) S) T 0x100 = { gen := 0, expect := 7, pend := 7, abandoned := 0, init := 1, inb := 0, outb := 0 } := by
  decide +kernel
/-- R199: the last arrival releases a team that awaits the phase. -/
theorem test_release : (team (after (.arrive (bar 0)) { SB 2 1 0 with teams := [(1, T), (2, UB)] }) 2).bar = some ⟨0x100, true, some false⟩ := by
  decide +kernel
theorem test_barwait : (team (after (.barwait false (bar 10)) (SB 2 1 0))).word = 1 ∧ (team (after (.barwait true (bar 10)) (SB 2 1 0))).parked = .barwait := by
  decide +kernel

/-- A home map that homes granule 1 on stack 3, channel 5. -/
def VM : VD := { V with map := [{ gran := 1, ngran := 1, stack := 3, firstch := 5, log2ch := 0 }] }
/-- The VD has it, t4:t5 hold an address of granule 1, and the team holds a session on channel 197. -/
def FM : Family := { F with cells := [(0, cell 0x100), (2, cell 7), (4, cell 0x1_0040), (6, cell 0x4000)], session := some 197 }
def SV : State := { S with
  vds := [(3, VM)], fams := [(1, FM)]
  chans := [(197, { resetChannel with session := some { fam := 1, ctx := 1, seq := 0, gen := 0, st := .active, cls := 2, macs := 0, deadline := none
                                                        granted := true, code := 0 } })] }
theorem quiet_SV : SV.Quiet T := quiet_of _ _ (by decide +kernel) (by decide +kernel)
theorem meets_Declarations : SV.Runs T ∧ T.span = none ∧ (Instr.decl .lane (fm 40 0 0)).wf = true ∧ (Instr.decl .team (fm 40 0 0)).wf = true
    ∧ (Instr.decl .mem (fm 40 4 0)).wf = true ∧ (Instr.decl .bank (fm 40 4 0)).wf = true ∧ SV.qHolds T .always = true ∧ T.div = []
    ∧ (SV.entry T 40).kind = .none ∧ UniClear SV T [] .always ∧ UniClear SV T [(4, 2)] .always
    ∧ ((SV.fam T.fam).held .lane).length < (SV.launchOf T).lmax ∧ ((SV.fam T.fam).held .team).length < (SV.launchOf T).tregs
    ∧ (SV.launchOf T).lmax ≤ 1024 ∧ (SV.launchOf T).tregs ≤ 1024
    ∧ (let gr := (SV.uniVal T 4 2).toNat / 2 ^ 16 % 2 ^ 40
      ((SV.vd (SV.group T.group).vd).map.find? (fun r => decide (r.gran ≤ gr) && decide (gr < r.gran + r.ngran))).map (fun r =>
        (r.stack, r.firstch + (gr - r.gran) % 2 ^ r.log2ch)) = some (3, 5))
    ∧ (SV.die (SV.coreOf T / 256)).home = []
    ∧ (SV.uniVal T 4 2).extractLsb' 56 8 = 0 ∧ (SV.vd (SV.group T.group).vd).moved = 0 ∧ T.pl < 63
    ∧ SV.holdsSession T (64 * 3 + 5) = true ∧ ((SV.fam T.fam).held .bank).length < 8 := by
  repeat' with_reducible apply And.intro
  all_goals first
    | decide +kernel
    | exact ⟨by decide +kernel, by decide +kernel⟩
    | exact uni_of _ _ _ _ quiet_SV (by decide +kernel)
theorem test_decl : ((after (.decl .lane (fm 40 0 0)) S).entry T 40).kind = .lane ∧ ((after (.decl .bank (fm 40 4 0)) SV).entry T 40).index = 197 := by
  decide +kernel
theorem meets_Moves : S.Runs T ∧ T.span = none ∧ UniClear S T [] .always ∧ S.qHolds T .always = true ∧ T.div = [] ∧ T.pend = [] ∧ S.Quiet T
    ∧ (Instr.redecl .lane (fm 2 0 0)).wf = true ∧ (S.entry T 2).kind = .team ∧ ((S.fam T.fam).held .lane).length < (S.launchOf T).lmax
    ∧ (S.entry T 16).kind = .lane ∧ (Instr.redecl .lane (fm 16 0 0)).wf = true ∧ (Instr.redecl .team (fm 2 0 0)).wf = true
    ∧ (Instr.undecl (f3 16 0 0)).wf = true ∧ (Instr.undecl (f3 2 0 0)).wf = true ∧ Met S T [(.placeq (f3 8 16 0), ⟨.always, .reg 8 1, []⟩)] := by
  repeat' with_reducible apply And.intro
  all_goals first
    | decide +kernel
    | exact runs_S
    | exact uni_S _ _ (by decide +kernel)
    | exact quiet_S
    | exact met_of runs_S quiet_S (by decide +kernel)
theorem test_moves : vreg (.redecl .lane (fm 2 0 0)) 2 = [7, 7] ∧ ((after (.undecl (f3 16 0 0)) S).entry T 16).kind = .none
  ∧ ureg (.placeq (f3 8 17 0)) 8 = 0x1001 := by decide +kernel

/-! ## Numbers, encoding, steps -/

theorem meets_Rounding : (.fin false 3 (-2) : FVal) ≠ .nan false ∧ finite (.fin false 3 (-2)) = true ∧ finite (.fin true 1 0) = true
    ∧ rat (.fin false 3 (-2)) ≠ 0 ∧ rat (.fin true 1 0) ≠ 0 ∧ ffF32 ∈ formats ∧ (3 : Nat) ≠ 0 :=
  ⟨by decide +kernel, rfl, rfl, by norm_num [rat], by norm_num [rat], by simp [formats], by decide +kernel⟩
theorem meets_ExactArithmetic : finite (ffF32.val 0x3F80_0000) = true ∧ rat (ffF32.val 0x3F80_0000) + rat (.fin false 1 0) * rat (.fin false 1 0) ≠ 0
    ∧ (∀ x ∈ [FVal.fin false 1 0, .fin true 1 0], finite x = true) ∧ (∃ x ∈ [FVal.fin false 1 0, .fin true 1 0], rat x ≠ 0)
    ∧ ([FVal.fin false 1 0, .fin true 1 0].map rat).sum = 0 := by
  have h : ffF32.val 0x3F80_0000 = .fin false 8388608 (-23) := by decide +kernel
  exact ⟨by rw [h]; rfl, by rw [h]; norm_num [rat], by decide +kernel, ⟨.fin false 1 0, by simp, by norm_num [rat]⟩, by norm_num [rat]⟩
/-- R79, R80: −0 only where RD makes it, an invalid sum, a tie to even in F16. -/
theorem test_sums : FVal.sum .rd [.fin false 1 0, .fin true 1 0] = (.fin true 0 0, false) ∧ FVal.sum .rn [.inf false, .inf true] = (.nan false, true)
  ∧ ffF16.round .rn false (.fin false 2049 0) = (0x6800, fNX) ∧ ffF16.round .ru false (.fin false 2049 0) = (0x6801, fNX) := by decide +kernel

theorem meets_DecodeEncode : (words.map (fun x => x.2)).all (fun i => i.wf && !isEvent i) = true := by decide +kernel
theorem meets_DecodeSound : ∀ x ∈ words, decode [x.1] = .ok x.2 := by
  intro x hx
  have h : words.map (fun x => decode [x.1]) = words.map (fun x => .ok x.2) := test_words
  exact List.map_inj_left.mp h x hx

/-- Team `t` has its turn next, running in a window of its core. -/
def turnOf (t : Team) : State := { at_ t with inputs := [.issue (.team 1)], turn := .none }
/-- A team whose clause is not fetched, and one with a handler that stands at a word that is none. -/
def TU : Team := { T with loaded := false, clause := [] }
def TB : Team := { TH with clause := [0] }
/-- The group runs a Lace program, at an instruction and before its clause is fetched. -/
def E0 : Engine := { resetEngine with running := true, fam := 1, loaded := true, clause := [0x3500_0000_0000_0000], pc := 0x2000 }
def progOf (e : Engine) : State := { S with inputs := [.issue (.engine 1 1)], turn := .none, groups := [(1, { G with engines := [(1, e)] })] }
theorem meets_StepRunsDecoded : (∀ t ∈ [T, TU, TB], let s := turnOf t
      s.inReset = false ∧ s.inputs = .issue (.team t.ctx) :: [] ∧ s.team? t.ctx = some t ∧ (s.core (s.coreOf t)).running = some t.ctx
      ∧ s.windowOver (s.coreOf t) = false ∧ (s.core (s.coreOf t)).gated = false ∧ s.coreOff (s.coreOf t) = false ∧ s.isSaved t.group = false ∧ t.parked = .no ∧ t.lanes ≠ [])
    ∧ TU.loaded = false ∧ T.loaded = true ∧ decode (T.clause.drop T.word) = .ok (.add { f3 3 2 254 with imm := 1 })
    ∧ TB.loaded = true ∧ TB.handler.isSet = true ∧ TB.handler.mask = false ∧ TB.handler.off.toNat + 160 ≤ ((turnOf TB).group TB.group).spadLen
    ∧ decode (TB.clause.drop TB.word) = .error .opcode
    ∧ (progOf E0).engineMayRun 1 1 = true ∧ (progOf { E0 with loaded := false }).engineMayRun 1 1 = true
    ∧ decode (((progOf E0).engine 1 1).clause.drop 0) = .ok (.exit (fbr 0 0)) := by decide +kernel
theorem test_step_illegal : (match step (turnOf TB) with
    | .next s => some ((team s).handler.cause, (team s).pc)
    | _ => none) = some (some .illegal, 0x3000) := by decide +kernel

/-- What a step leaves, where it goes on. -/
def stepped (s : State) : State :=
  match step s with
  | .next s' => s'
  | _ => s
theorem meets_StepTakesEvent : isEvent .coldReset = true ∧ isEvent (.linkUp 3) = true
    ∧ ({ S with inputs := [.event (.linkUp 3)] } : State).inReset = false ∧ (Input.event (.linkUp 3)) ≠ .event .coldReset
    ∧ (({ S with clock := 1023 } : State).clock + 1) % 1024 = 0 ∧ (S.clock + 1) % 1024 ≠ 0 := by decide +kernel
theorem test_reset_holds : step { S with inReset := true, inputs := [.issue .none] } = .fault .heldInReset := by rfl
theorem test_tick : (stepped { S with inputs := [.issue .none] }).clock = 1 ∧ (stepped { S with inputs := [.issue .none], clock := 1023 }).clock = 1024 := by
  decide +kernel
theorem meets_StepKeeps : S.memOk ∧ S.teamsOk ∧ ∃ s', step { S with inputs := [.issue .none] } = .next s' ∧ s'.clock = 1 :=
  ⟨⟨by decide +kernel, by decide +kernel⟩, ok_of _ (by decide +kernel) (by decide +kernel), _, rfl, by decide +kernel⟩
/-- The first step after reset runs a word that is placed. -/
theorem test_first : decodeTableWord 64 0x3500_0000_0000_0000 = some (.exit (fbr 0 0))
  ∧ ((stepped (State.reset.withFetchWord 64 0x3500_0000_0000_0000)).allTeams.map (fun t => t.lanes.length)) = [0] := by decide +kernel

/-! ## The matrix array -/

/-- The scratchpad with an INT8 format block at 0x40, a row of A at 0x100 (1, 2, −1, …) and a B tile from there on. -/
def GMem : Mem := [(0x40, 5), (0x100, 1), (0x101, 2), (0x102, 0xFF), (0x120, 3)]
def GM (qs : Tbl Quad) : Group := { G with spad := GMem, spadLen := 8192, quads := qs }
/-- t0:t1, t4:t5 and t6:t7 hold addresses of the local window; t2:t3 none that is aligned. -/
def FQ : Family := { F with cells := [(0, cell 0x100), (1, cell 0xFE00_0000), (2, cell 7), (4, cell 0x400), (5, cell 0xFE00_0000), (6, cell 0x600),
  (7, cell 0xFE00_0000)] }
def SQm (qs : Tbl Quad) (t : Team := T) : State := { at_ t with groups := [(1, GM qs)], fams := [(1, FQ)] }
def lds : MldsOps := { qset := 0, breg := 0, fbb := 2, pitch := 2 }
def zeroAll : MzeroOps := { qset := 0, acc := 0, all := true }
def readLane : MreadOps := { qset := 0, acc := 0, col := 31, dst := 22, w64 := false }
def mats : List Instr := [.mlds lds, .mswap 0, .mloop { loop with areg := 0 }, .mdrain { drain with dreg := 0, pitch := 8 }, .mzero zeroAll, .mfuse 6,
  .mread readLane, .mstat 0 8, .mcomp { comp with sreg := 0, vreg := 4, mreg := 6, fb := 2 }]

/-- Matrix instructions are clear in the small package. -/
theorem matClear (i : Instr) (qs : Tbl Quad) (h : (∀ n, some n ∈ matRegs i → n = 0 ∨ n = 2 ∨ n = 4 ∨ n = 6)
    ∧ ∀ d, matDst i = some d → d = (22, 1) ∨ d = (8, 1) ∧ ∃ q, i = .mstat q 8) : MatClear (SQm qs) T i := by
  refine ⟨fun n hn => ?_, fun d hd => ?_, by simp [T, resetTeam], ?_, rfl⟩
  · rcases h.1 n hn with rfl | rfl | rfl | rfl <;> exact ⟨rfl, rfl⟩
  · rcases h.2 d hd with rfl | ⟨rfl, q, rfl⟩
    · show ∀ k ∈ [22], _
      simp only [List.forall_mem_singleton]
      exact ⟨by decide +kernel, rfl, .inl rfl⟩
    · show ∀ k ∈ [8], _
      simp only [List.forall_mem_singleton]
      exact ⟨by decide +kernel, rfl, .inr ⟨rfl, q, rfl⟩⟩
  · exact quiet_of _ _ rfl rfl


/-- An entry of a queue that a team issued as its packet 0, which has its place in the replay set. -/
def opOf (i : Instr) (fa fb : Option FmtBlk) : MatOp :=
  { matOpOf i (matAddrVals (SQm quads) T i) with fa := fa, fb := fb }
def i8 : FmtBlk := { fmt := .i8, blk := 0, skind := false, sparse := 0, scale := 0, ext := 0, meta_ := 0 }
def fill : QEnt := { id := 99, issuer := .team 1 0 0, op := opOf (.mzero zeroAll) none none, qset := 0, started := false, asked := false, granted := false, loop := noLoop }
def fullQuads : Tbl Quad := [(0, { resetQuad 0 0 with queue := List.replicate 16 fill }), (1, resetQuad 1 0)]
/-- The check at issue passes. -/
def issues (i : Instr) : Bool :=
  match (SQm quads).matCheck 1 i (matOpOf i (matAddrVals (SQm quads) T i)) with
  | .ok _ => isMatrix i && i.wf && !(GM quads).quadBad i && !(GM quads).programOn (matQuads i (GM quads).fuseI) && decide (T.ctr (matCtr i) < 63)
  | _ => false
theorem meets_MatrixIssue : mats.all issues = true ∧ T.span = none ∧ (SQm quads).Runs T ∧ (∀ e ∈ quads, e.2.queue.length < 16)
    ∧ (∃ e ∈ (GM fullQuads).quads, e.1 ∈ matQuads (.mzero zeroAll) (GM fullQuads).fuseI ∧ 16 ≤ e.2.queue.length)
    ∧ MatClear (SQm quads) T (.mstat 0 8) ∧ MatClear (SQm quads) T (.mread readLane) ∧ MatClear (SQm quads) T (.mloop { loop with areg := 0 })
    ∧ MatClear (SQm fullQuads) T (.mzero zeroAll) := by
  refine ⟨by decide +kernel, by decide +kernel, ⟨rfl, rfl⟩, by decide +kernel, by decide +kernel, matClear _ _ ?_, matClear _ _ ?_, matClear _ _ ?_, matClear _ _ ?_⟩
  · simp [matRegs, matDst]
  · simp [matRegs, matDst, readLane]
  · simp [matRegs, matDst, loop]
  · simp [matRegs, matDst]
/-- A loop at a misaligned address, and a set of which the group does not hold a quadrant, at a team with a handler. -/
theorem meets_MatrixIssue_traps : let s := SQm quads TH
    TH.handler.isSet = true ∧ TH.handler.mask = false ∧ TH.handler.off.toNat + 160 ≤ (s.group 1).spadLen ∧ (Instr.mloop loop).wf = true
    ∧ (s.group 1).quadBad (.mloop loop) = false ∧ s.matCheck 1 (.mloop loop) (matOpOf (.mloop loop) (matAddrVals s TH (.mloop loop))) = .trap ⟨.align, 7, 0⟩
    ∧ (s.group 1).quadBad (.mzero { zeroAll with qset := 6 }) = true ∧ (s.Runs TH) ∧ s.Quiet TH ∧ TH.pend = [] := by
  repeat' with_reducible apply And.intro
  all_goals first
    | decide +kernel
    | exact ⟨rfl, rfl⟩
    | exact quiet_of _ _ rfl rfl
theorem test_matrix_traps : (team (after (.mloop loop) (SQm quads TH))).handler.cause = some .align
  ∧ (team (after (.mzero { zeroAll with qset := 6 }) (SQm quads TH))).handler.cause = some .quad := by decide +kernel

/-- The package in which a team's instruction stands at the head of quadrant 0's queue, started or not, the quadrant being `x`. -/
def ent0 (i : Instr) (started granted : Bool) (l : LoopSt := noLoop) : QEnt :=
  { id := 7, issuer := .team 1 0 0, op := opOf i (some i8) (some i8), qset := qsetOf i, started := started, asked := false, granted := granted, loop := l }
def pkt (i : Instr) : Packet := T.packet i .core (matCtr i) true (matLanes T i) []
def working (i : Instr) (started granted : Bool) (x : Quad) (l : LoopSt := noLoop) : State :=
  { SQm (Tbl.set quads 0 { x with queue := [ent0 i started granted l] }) { (T.raise (matCtr i)) with seq := 1, replay := [pkt i] } with turn := .none }
theorem meets_MatrixStarts : ∀ i ∈ [Instr.mloop { loop with areg := 0 }, .mswap 0, .mzero zeroAll, .mfuse 0, .mread readLane, .mstat 0 8, .mlds lds],
    let s := working i false false (resetQuad 0 0)
    let e := ent0 i false false
    (∃ x, Tbl.get? (s.group 1).quads 0 = some x ∧ x.queue.head? = some e) ∧ e.started = false ∧ s.entHeld e = false ∧ s.barReady 1 e = true
    ∧ s.holds = .off ∧ (s.group 1).readsPoison e = false
    ∧ ∀ k ∈ (s.group 1).quadsWith e.id, ((s.group 1).quad k).held = [] ∧ (((s.group 1).quad k).queue.head?).map (fun y => y.id) = some e.id := by
  intro i hi
  fin_cases hi <;> exact ⟨⟨_, rfl, rfl⟩, by decide +kernel, by decide +kernel, by decide +kernel, by decide +kernel, by decide +kernel, by decide +kernel⟩
/-- A load that awaits no phase of a barrier, and a start of it. -/
def ldsBar : Instr := .mldsBar lds { xreg := 4, wph := false }
def barGm : Group := { (GM (Tbl.set quads 0 { resetQuad 0 0 with queue := [ent0 ldsBar false false] })) with registry := [0x400] }
def starting : State := { working ldsBar false false (resetQuad 0 0) with groups := [(1, barGm)] }
theorem meets_MatrixStarts_barrier : let e := ent0 ldsBar false false
    starting.entPacket e = some (team starting, pkt ldsBar) ∧ starting.barReady 1 e = true ∧ starting.entHeld e = false
    ∧ (team (after (.quadrantStart 1 0) starting)).acq = starting.stamp := by decide +kernel
/-- A program runs on the set. -/
def progQuads : Group := { GM quads with engines := [(8, { resetEngine with running := true, fam := 2, qset := 0 })] }
theorem meets_MatrixIssue_program : let s : State := { SQm quads with groups := [(1, progQuads)] }
    (s.group T.group).programOn (matQuads (.mzero zeroAll) (s.group T.group).fuseI) = true ∧ s.team? 1 = some T
    ∧ (team (after (.mzero zeroAll) s)).stall.isSome = true := by decide +kernel
theorem test_mswap : let x : Quad := { resetQuad 0 0 with shadow := { resetPlane with fmt := some i8 } }
    ((((after (.quadrantStart 1 0) (working (.mswap 0) false false x)).group 1).quad 0).active.fmt = some i8) := by decide +kernel
theorem test_leave : ((after (.quadrantStart 1 0) (working (.mloop { loop with areg := 0 }) false false (resetQuad 0 0))).zone 0).waiting.map (fun w => w.power) = [64] := by
  decide +kernel

/-- A package in which no request is on its way. -/
theorem noReq {P : Req → Prop} (r : Req) (h : r ∈ ([] : List Req)) : P r := absurd h (by simp)
/-- The active plane: column 0 holds 4, 5, 6. -/
def planed : Quad := { resetQuad 0 0 with active := { fmt := some i8, cols := [(0, { elems := [4, 5, 6], scales := [], exts := [], metas := [] })], poison := false } }
def loopS : State := working (.mloop { loop with areg := 0 }) true true planed
theorem meets_MatrixLoopStep : Working loopS 1 0 (ent0 (.mloop { loop with areg := 0 }) true true) { planed with queue := [ent0 (.mloop { loop with areg := 0 }) true true] }
    ∧ noLoop.step < loop.steps.toNat ∧ pitched (localAddr 0x100) loop.ainc 0 = localAddr 0x100 ∧ 0x100 % 32 = 0 ∧ Sound (loopS.group 1) 0x100 32
    ∧ (ent0 (.mloop { loop with areg := 0 }) true true).op.a = localAddr 0x100 ∧ planed.isPoisoned 0 false = false ∧ loop.qset.toNat = 0 ∧ loop.df = .ip := by
  repeat' with_reducible apply And.intro
  all_goals first
    | decide +kernel
    | exact ⟨rfl, rfl, rfl, by decide +kernel, rfl, noReq⟩
    | exact ⟨by decide +kernel, by decide +kernel, by decide +kernel⟩
/-- R220: 1·4 + 2·5 − 1·6 = 8 joins element (0, 0). -/
theorem test_mloop : ((((after (.mloopStep 1 0 []) loopS).group 1).quad 0).elem 0 false 0 0) = 8
  ∧ (((after (.mloopStep 1 0 []) loopS).group 1).quad 0).pass = 1 := by decide +kernel

/-- Instructions whose effect is at hand, with the tile that holds 9 at (0, 31). -/
def tiled : Quad := { resetQuad 0 0 with tiles := [(0, { words := [(31, 9)], poison := false })] }
def finishing : List (Instr × LoopSt) := [(.mswap 0, noLoop), (.mfuse 0, noLoop), (.mzero zeroAll, noLoop), (.mloop { loop with areg := 0 }, { noLoop with step := 1 }),
  (.mread readLane, noLoop), (.mstat 0 8, noLoop), (.mdrain { drain with dreg := 0 }, noLoop), (.mlds lds, noLoop)]
def doneS (x : Instr × LoopSt) : State := working x.1 true true tiled x.2
theorem meets_MatrixCompletes : ∀ y ∈ finishing, let s := doneS y
    Working s 1 0 (ent0 y.1 true true y.2) { tiled with queue := [ent0 y.1 true true y.2] } ∧ (ent0 y.1 true true y.2).issuer = .team (team s).ctx 0 0
    ∧ s.team? (team s).ctx = some (team s) ∧ (team s).pk? 0 = some (pkt y.1) ∧ (pkt y.1).complete = false ∧ (pkt y.1).inst = .core
    ∧ (pkt y.1).instr = (ent0 y.1 true true y.2).op.instr ∧ (pkt y.1).seq = 0 := by
  intro y hy
  fin_cases hy <;> exact ⟨⟨rfl, rfl, rfl, by decide +kernel, rfl, noReq⟩, rfl, rfl, by decide +kernel, rfl, rfl, rfl, rfl⟩
theorem meets_MatrixCompletes_more : (Instr.mdrain { drain with dreg := 0 }).wf = true ∧ (ent0 (.mdrain { drain with dreg := 0 }) true true).op.o = localAddr 0x100
    ∧ 0x100 % 128 = 0 ∧ drain.pitch.toNat % 8 = 0 ∧ 0x100 + 31 * (16 * drain.pitch.toNat) + 128 ≤ (GM quads).spadLen ∧ (GM quads).spadLen < 2 ^ 32
    ∧ (ent0 (.mlds lds) true true).op.b = localAddr 0x100 ∧ lds.pitch.toNat % 2 = 0 ∧ Sound (GM quads) 0x100 (31 * (16 * lds.pitch.toNat) + 32)
    ∧ ((doneS (.mstat 0 8, noLoop)).entry T 8).kind = .team := by
  repeat' with_reducible apply And.intro
  all_goals first
    | decide +kernel
    | exact ⟨by decide +kernel, by decide +kernel, by decide +kernel⟩
/-- R233, R231, R229: lane 1 reads column 0 of row 1, lane 0 column 31 of row 0; the drain writes 9 at the end of row 0; the plane holds the tile. -/
theorem test_mread : (team (after (.matrixComplete 1 0) (doneS (.mread readLane, noLoop)))).lanes.map (fun l => Tbl.get 0 l.regs 22) = [9, 0] := by
  decide +kernel
theorem test_mdrain : ((tiled.drainPiece { drain with dreg := 0 } 0 0 32 (List.replicate 128 0)).1.drop 120) = [0, 0, 0, 0, 9, 0, 0, 0] := by decide +kernel
theorem test_mlds : (Tbl.get? (((after (.matrixComplete 1 0) (doneS (.mlds lds, noLoop))).group 1).quad 0).shadow.cols 1).map (fun v => v.elems.take 2) = some [3, 0] := by
  decide +kernel

/-! ## Nests, engine programs, copies -/

/-- Uniform registers for copies: t8:t9 an index list at 0x800, t10 a pitch of 32. -/
def FL : Family := { FQ with cells := FQ.cells ++ [(8, cell 0x800), (9, cell 0xFE00_0000), (10, cell 32)] }
/-- The scratchpad: source bytes at 0x100 and 0x120, an initialised object that waits for 64 bytes at 0x600, indices 1 and 0 at 0x800. -/
def copyMem : Mem := Mem.writeN (Mem.writeN (Mem.writeN [(0x100, 0xA1), (0x120, 0xB2)] 0x600 (leBytes 16 (64 * 2 ^ 48 + 2 ^ 98 + 1 * 2 ^ 100 + 1 * 2 ^ 112))) 0x800
  (leBytes 4 1)) 0x804 (leBytes 4 0)
def SLc : State := { S with groups := [(1, { G with spad := copyMem })], fams := [(1, FL)] }
theorem runs_SLc : SLc.Runs T := ⟨rfl, rfl⟩
theorem quiet_SLc : SLc.Quiet T := quiet_of _ _ rfl rfl
def nestOps : FN := { tuples with bd := 0, ba := 4, bb := 6 }
def raggedOps : FN := { tuples with bd := 22, ba := 8, bb := 4, strides := 0, x0 := 1 }
theorem aligned_nestOps : ∀ x ∈ [SLc.uniVal T 0 2, SLc.uniVal T 4 2, SLc.uniVal T 6 2], x.toNat % nestBytes .i32 = 0 := by
  intro x hx
  rw [show nestBytes .i32 = 4 by rfl]
  fin_cases hx <;> decide +kernel
theorem ordinary_nestOps : ∀ k, k < FN.count nestOps →
    ∀ x ∈ nestAddrs .add .i32 nestOps [SLc.uniVal T 0 2, SLc.uniVal T 4 2, SLc.uniVal T 6 2] k, x.2 >>> 56 ≠ 0xFD := by decide +kernel
theorem meets_Nests : (Instr.nest .add .i32 nestOps).wf = true ∧ SLc.Runs T ∧ T.span = none ∧ UniClear SLc T (nestRegs .add nestOps) nestOps.p ∧ T.st < 63
    ∧ (∀ x ∈ [SLc.uniVal T 0 2, SLc.uniVal T 4 2, SLc.uniVal T 6 2], x.toNat % nestBytes .i32 = 0)
    ∧ (∀ k, k < FN.count nestOps → ∀ x ∈ nestAddrs .add .i32 nestOps [SLc.uniVal T 0 2, SLc.uniVal T 4 2, SLc.uniVal T 6 2] k, x.2 >>> 56 ≠ 0xFD)
    ∧ SLc.qHolds T nestOps.p = true ∧ SLc.qHolds T ⟨true, 1⟩ = false ∧ nestOps.depth.toNat ≤ 5 := by
  repeat' with_reducible apply And.intro
  all_goals first
    | exact aligned_nestOps
    | exact ordinary_nestOps
    | exact runs_SLc
    | exact uni_of _ _ _ _ quiet_SLc (by decide +kernel)
    | decide +kernel
theorem meets_Nests_ragged : (Instr.ragged 2 raggedOps).wf = true ∧ SLc.Runs T ∧ UniClear SLc T [(8, 2), (4, 2)] .always ∧ T.ld < 63
    ∧ (∀ k ∈ regNums 22 2, k < 254 ∧ (SLc.entry T k).kind = .lane) ∧ T.pend = [] ∧ T.pendP = [] ∧ (SLc.uniVal T 8 2).toNat % 4 = 0
    ∧ (∀ r, r ≤ raggedOps.x0.toNat → (SLc.uniVal T 8 2 + BitVec.ofNat 64 (4 * r)) >>> 56 ≠ 0xFD) ∧ T.active .always ≠ [] ∧ T.active ⟨false, 3⟩ = []
    ∧ 0x800 % 4 = 0 ∧ Sound (SLc.group T.group) 0x800 (4 * 2) := by
  repeat' with_reducible apply And.intro
  all_goals first
    | decide +kernel
    | exact runs_SLc
    | exact uni_of _ _ _ _ quiet_SLc (by decide +kernel)
    | exact rfl
    | exact ⟨by decide +kernel, by decide +kernel, by decide +kernel⟩
/-- R247: tuple 2 of `nestOps` is at base + 2 · 4 in each operand; R249: lengths 1 and 0 hand out (0, 0) and then past the end. -/
theorem test_nest : (nestAddrs .add .i32 nestOps [0x100, 0x400, 0x600] 2) = [(1, 0x408), (2, 0x608), (0, 0x108)] := by decide +kernel
theorem test_ragged : ((SLc.ragHand T (SLc.whoOf T 0 0) (localAddr 0x800) 2 [pLane 0 [] 0, pLane 1 [] 0] (0, 0) { lens := [], stop := none }).1.map (fun a => a.vals)) =
    [[0, 0, 1], [2, 0, 1]] := by decide +kernel

def forkOps : ForkOps := { tgt := .lace 1, qset := 0, ebase := 4, ecnt := 2, p := .always, off := 4 }
/-- Lace 1 runs a program that has reached its `rdv`, or another that has not. -/
def SP (e : Engine) : State := { SLc with groups := [(1, { G with engines := [(2, e)] })], fams := [(1, { FL with forks := [2] })] }
def E1 : Engine := { resetEngine with running := true, fam := 1, loaded := true, clause := [0], pc := 0x2000 }
theorem runs_SP (e : Engine) : (SP e).Runs T := ⟨rfl, rfl⟩
theorem quiet_SP (e : Engine) : (SP e).Quiet T := quiet_of _ _ rfl rfl
theorem meets_ForksAndMeetings : (Instr.fork forkOps).wf = true ∧ SLc.Runs T ∧ T.span = none ∧ SLc.qHolds T .always = true
    ∧ UniClear SLc T ((ForkOps.regs forkOps).map (fun r => (BitVec.ofNat 8 r, 1))) .always ∧ (SLc.group T.group).forkBad forkOps = false
    ∧ (SLc.group T.group).forkHeld forkOps = false ∧ ((SP E1).group T.group).forkHeld forkOps = true
    ∧ UniClear (SP E1) T ((ForkOps.regs forkOps).map (fun r => (BitVec.ofNat 8 r, 1))) .always
    ∧ (Instr.rdv (f3 0 0 0)).wf = true ∧ UniClear (SP E1) T [] .always ∧ ((SP E1).fam T.fam).forks ≠ [] ∧ UniClear SLc T [] .always
    ∧ (SLc.fam T.fam).forks = [] ∧ (SLc.fam T.fam).stops = [] ∧ ({ SP E1 with turn := .engine 1 2 } : State).EngineRuns 1 2
    ∧ ((SP { E1 with rdv := true }).engine 1 2).running = true ∧ ((SP { E1 with rdv := true }).engine 1 2).out = 0 := by
  repeat' with_reducible apply And.intro
  all_goals first
    | decide +kernel
    | exact runs_SLc
    | exact rfl
    | exact uni_of _ _ _ _ quiet_SLc (by decide +kernel)
    | exact uni_of _ _ _ _ (quiet_SP _) (by decide +kernel)
theorem test_fork : ((after (.fork forkOps) SLc).engine 1 2).pc = 0x2020 ∧ ((after (.fork forkOps) SLc).engine 1 2).regs = [(0, 0x400), (1, 0xFE00_0000)]
  ∧ (team (after (.fork forkOps) SLc)).pc = 0x2018 ∧ (team (after (.rdv (f3 0 0 0)) SLc)).word = 1 ∧ (team (after (.rdv (f3 0 0 0)) (SP E1))).parked = .rdv
  ∧ ((after (.engineProgramEnd 1 2) (SP { E1 with rdv := true })).engine 1 2).running = false := by decide +kernel

def boxOps : LaceOps := { box with src := 0, dst := 4, bar := 6, rowb := 32 }
def gatherOps : LacegOps := { gather with src := 0, dst := 4, bar := 6, rowb := 16, xn := 1, idx := 8, pitch := 10 }
def copies : List Instr := [.lace boxOps, .laceg gatherOps]
def fullLace : State := { SLc with cores := [(2, { resetCore with window := 1, running := some 1, lace := [(0, List.replicate 16
  { id := 1, issuer := .team 1 0 0, op := copyOf (.lace boxOps) [], started := false, rows := [], counted := [], read := [], bytes := [], landed := [], fault := none })] })] }
theorem meets_Copies : copies.all (fun i => i.wf && uniOk SLc T (copyForm i).regs (copyForm i).p && (SLc.group T.group).lmask.getLsbD (copyForm i).le
      && decide (SLc.copyCheck (SLc.whoOf T T.pc T.word) T.group (copyOf i ((copyForm i).regs.map (fun x => SLc.uniVal T x.1 x.2))) = .ok)
      && decide ((SLc.laceQueue 2 (copyForm i).le).length < 16)) = true
    ∧ SLc.Runs T ∧ SLc.Quiet T ∧ T.span = none ∧ T.st < 63 ∧ SLc.qHolds T .always = true
    ∧ 16 ≤ (fullLace.laceQueue 2 0).length ∧ fullLace.Runs T
    ∧ fullLace.copyCheck (fullLace.whoOf T T.pc T.word) T.group (copyOf (.lace boxOps) ((copyForm (.lace boxOps)).regs.map (fun x => fullLace.uniVal T x.1 x.2))) = .ok := by
  repeat' with_reducible apply And.intro
  all_goals first
    | decide +kernel
    | exact runs_SLc
    | exact quiet_SLc
    | exact rfl
    | exact ⟨rfl, rfl⟩

/-- The copy from its issue on: issued, started, granule 0 read, both granules landed. -/
def C0 (i : Instr) : State := after i SLc
def C1 (i : Instr) : State := after (.laceCopyStart 2 0) (C0 i)
def C2 : State := after (.laceSourceRead 2 0 0) (C1 (.lace boxOps))
def C3 : State := after (.laceGranuleLanding 2 0 0) C2
def C4 : State := after (.laceGranuleLanding 2 0 1) (after (.laceSourceRead 2 0 1) C3)
def head (s : State) : CEnt := (s.laceQueue 2 0).headD
  { id := 0, issuer := .engine 0 0, op := copyOf .clauseStart [], started := false, rows := [], counted := [], read := [], bytes := [], landed := [], fault := none }
def copying (s : State) : Bool :=
  decide (s.laceQueue 2 0 = [head s]) && decide ((head s).issuer = .team 1 0 0) && decide (s.team? 1 = some (team s)) && decide ((head s).fault = none)
  && decide (s.holds = .off)
theorem meets_CopyRuns : [C0 (.lace boxOps), C0 (.laceg gatherOps), C1 (.lace boxOps), C2, C4].all copying = true
    ∧ (head (C0 (.lace boxOps))).started = false ∧ (head (C0 (.laceg gatherOps))).started = false
    ∧ (head (C0 (.laceg gatherOps))).op.idx = localAddr 0x800 ∧ 0x800 % 128 = 0 ∧ (head (C0 (.laceg gatherOps))).op.rows ≤ 32
    ∧ (∀ r, r < (head (C0 (.laceg gatherOps))).op.rows → ((C0 (.laceg gatherOps)).group 1).spadNum (0x800 + 4 * r) 4 ≠ 0xFFFF_FFFF)
    ∧ (let e := head (C1 (.lace boxOps))
      e.started = true ∧ 0 < e.op.count ∧ 0 ∉ e.read ∧ 0 ∉ e.landed ∧ e.op.outc = false ∧ e.rows.length = e.op.rows
      ∧ (e.rows.getD (0 / e.op.rowGrans) (0, 0)).1 + BitVec.ofNat 64 (16 * (0 % e.op.rowGrans)) = localAddr 0x100)
    ∧ (let e := head C2
      e.started = true ∧ 0 ∈ e.read ∧ (Tbl.get [] e.bytes 0).length = 16 ∧ e.op.setfe = false ∧ e.op.granDst 0 = localAddr 0x400 ∧ e.op.bar = localAddr 0x600
      ∧ 0x600 % 16 = 0 ∧ (objectIn C2 1 0x600).init = 1)
    ∧ (let e := head C4
      e.started = true ∧ (∀ n, n < e.op.count → n ∈ e.landed) ∧ (team C4).pk? 0 = some (pkt0 C4) ∧ (pkt0 C4).complete = false ∧ (pkt0 C4).inst = .core
      ∧ (pkt0 C4).instr = e.op.instr ∧ (pkt0 C4).seq = 0) := by decide +kernel
theorem meets_CopyRuns_sound : Sound (C0 (.laceg gatherOps) |>.group 1) 0x800 8 ∧ Sound (C1 (.lace boxOps) |>.group 1) 0x100 16 ∧ Sound (C2.group 1) 0x400 16
    ∧ Sound (C2.group 1) 0x600 16 := by
  unfold Sound
  and_intros <;> decide +kernel
/-- R242: 64 bytes due, 16 have landed; R244: row 0 of the gather is source row 1; the copy completes and its packet goes. -/
theorem test_lace : ((C2.group 1).spadNum 0x400 1, (C3.group 1).spadNum 0x400 1, (objectIn C3 1 0x600).inb) = (0, 0xA1, 48)
  ∧ (head (C1 (.laceg gatherOps))).rows = [(localAddr 0x120, localAddr 0x400), (localAddr 0x100, localAddr 0x410)]
  ∧ (after (.laceCopyComplete 2 0) C4).laceQueue 2 0 = [] ∧ (team (after (.laceCopyComplete 2 0) C4)).replay = [] := by decide +kernel

/-! ## Sessions, windows -/

/-- VD 3's tables at frame 2 map its first gigabyte, CLEAR, to the first gigabyte of channel 5 of stack 3. -/
def ptMem : Mem := Mem.writeN (Mem.writeN [] 0x2_0000 (leBytes 8 0x3_0001)) 0x3_0000 (leBytes 8 (197 * 2 ^ 30 + 0x57))
def D1 : Domain := { resetDomain with valid := true, keylive := true, chan := 1 <<< 197, slices := 3, mscb := 1 }
/-- The sectors of the tables and the first sectors of granule 1 are sound. -/
def SPt : State := { SV with
  mem := ptMem, sound := [0x400, 0x600, 197 * 2 ^ 23 + 0x200, 197 * 2 ^ 23 + 0x201], vds := [(3, { VM with root := 2 })]
  domains := [(1, D1)], chans := [], fams := [(1, { FM with session := none })] }
theorem runs_SPt : SPt.Runs T := ⟨rfl, rfl⟩
theorem quiet_SPt : SPt.Quiet T := quiet_of _ _ rfl rfl
def sess (st : SessSt) (late : Option Nat) : Session :=
  { fam := 1, ctx := 1, seq := 0, gen := 0, st := st, cls := 2, macs := 0, deadline := late, granted := false, code := 0 }
def SSes (st : SessSt) (late : Option Nat) : State := { SPt with
  chans := [(197, { resetChannel with session := some (sess st late) })], fams := [(1, { FM with session := some 197 })] }
def modeReq (ctx : Nat) : Req :=
  { orphan := false, instr := .awlmodeOn 2 (fm 8 4 0), uniform := true, fam := 1, group := 1, ctx := ctx, gen := 0, seq := 5, inst := .welt 3
    target := .welt 3, op := .exec, lanes := [], sent := 0, rcvd := none, id := 0, route := [] }

theorem meets_Sessions : (Instr.awlmodeOn 2 (fm 8 4 0)).wf = true ∧ (Instr.awlmodeOff (fm 8 4 0)).wf = true ∧ SPt.Runs T ∧ T.span = none ∧ T.div = []
    ∧ UniClear SPt T [(8, 1), (4, 2)] .always ∧ T.pl < 63 ∧ (SPt.uniVal T 4 2 + (fm 8 4 0).off.signExtend 64).extractLsb' 56 8 = 0
    ∧ (SPt.vd (SPt.group T.group).vd).moved = 0
    ∧ (let gr := (SPt.uniVal T 4 2 + (fm 8 4 0).off.signExtend 64).toNat / 2 ^ 16 % 2 ^ 40
      ((SPt.vd (SPt.group T.group).vd).map.find? (fun r => decide (r.gran ≤ gr) && decide (gr < r.gran + r.ngran))).map (fun r =>
        (r.stack, r.firstch + (gr - r.gran) % 2 ^ r.log2ch)) = some (3, 5))
    ∧ (SPt.die (SPt.coreOf T / 256)).home = []
    ∧ SPt.chanOwner 197 = some (SPt.vd (SPt.vdOf T)).domain.toNat ∧ SPt.chanOwner 198 ≠ some (SPt.vd (SPt.vdOf T)).domain.toNat
    ∧ (SPt.clearPage (SPt.vdOf T) 0x1_0040).1 = true ∧ ({ SPt with mem := [] }.clearPage (SPt.vdOf T) 0x1_0040).1 = false
    ∧ (SPt.fam T.fam).session = none ∧ (SPt.chan 197).session = none ∧ ((SSes .drain none).fam T.fam).session ≠ none
    ∧ ((SSes .drain none).chan 197).session = some (sess .drain none) ∧ (sess .drain none).st = .drain ∧ ((SSes .drain none).chan 197).queue = []
    ∧ (∀ e ∈ (SSes .drain none).cores, e.2.l1 = []) ∧ (∀ d, d < 4 → ((SSes .drain none).die d).rdc = []) := by
  repeat' with_reducible apply And.intro
  all_goals first
    | decide +kernel
    | exact runs_SPt
    | exact rfl
    | exact uni_of _ _ _ _ quiet_SPt (by decide +kernel)
theorem meets_Sessions_deadline : ∀ st ∈ [SessSt.drain, .leave, .active],
    ((SSes st (some 0)).chan 197).session = some (sess st (some 0)) ∧ (sess st (some 0)).st = st
    ∧ 0 + 112500 ≤ ({ SSes st (some 0) with clock := 112500 } : State).clock ∧ ({ SSes st (some 0) with clock := 112499 } : State).clock < 0 + 112500 := by
  decide +kernel
theorem test_deadline : (((after (.sessionDeadline 197) { SSes .leave (some 0) with clock := 112500 }).chan 197).session.isSome,
    ((after (.sessionDeadline 197) { SSes .leave (some 0) with clock := 112499 }).chan 197).session.isSome) = (false, true) := by decide +kernel
/-- R250: an `.on` opens a session, or answers status 1 (not owned), 2 (in session), 4 (no CLEAR page); R251: at the deadline status 9. -/
theorem test_awlOn : [SPt.awlOn T 2 (modeReq 1) 197 0x1_0040, SPt.awlOn T 2 (modeReq 1) 198 0x1_0040,
    { SSes .drain none with fams := [] }.awlOn T 2 (modeReq 2) 197 0x1_0040, { SPt with mem := [] }.awlOn T 2 (modeReq 1) 197 0x1_0040].map
      (fun x => x.1.map (fun p => p.lanes.map (fun a => a.vals))) = [none, some [[1]], some [[2]], some [[4]]] := by decide +kernel

/-- Register 48 names bank row 0 of channel 197, with word 2 of bank 1 holding 0xAB. -/
def FB : Family := { F with map := places ++ [(48, { ent .bank 197 with bound := 0 }), (49, { ent .bank 197 with bound := 0 })], session := some 197 }
def SBk : State := { SSes .active none with fams := [(1, FB)] }
theorem runs_SBk : SBk.Runs T := ⟨rfl, rfl⟩
theorem quiet_SBk : SBk.Quiet T := quiet_of _ _ rfl rfl
def bankReq (i : Instr) (ls : List PLane) : State :=
  { SBk with
    teams := [(1, { T with replay := [{ T.packet i (.awl 197) .pl true ls [] with checked := true }] })]
    reqs := [{ (modeReq 1) with instr := i, inst := .awl 197, target := .awl 197, seq := 0, lanes := ls }] }
theorem meets_BankInstructions : SBk.Runs T ∧ T.span = none ∧ SBk.Quiet T ∧ (∀ all, (Instr.awlbc all (f3 48 16 0)).wf = true)
    ∧ (Instr.awlmac (f3 48 49 2)).wf = true ∧ (Instr.awlrd (f3 22 48 0)).wf = true ∧ AtBank SBk T 48 197 ∧ AtBank SBk T 49 197
    ∧ AtLane SBk T 16 ∧ AtLane SBk T 22 ∧ Settled T [(48, 1), (16, 1)] true .always ∧ Settled T [(48, 1), (49, 1), (2, 2)] true .always
    ∧ Settled T [(22, 1), (48, 1)] false .always ∧ (∀ k ∈ regNums 6 2, k < 254 ∧ (SBk.entry T k).kind = .team)
    ∧ (SBk.uniVal T 6 2).toNat % 32 = 0 ∧ T.pl < 63 ∧ T.ld < 63 ∧ T.active .always ≠ [] := by
  repeat' with_reducible apply And.intro
  all_goals first
    | decide +kernel
    | exact runs_SBk
    | exact rfl
    | exact quiet_SBk
    | exact ⟨by decide +kernel, by decide +kernel, by decide +kernel⟩
    | exact ⟨by decide +kernel, by decide +kernel⟩
def bcLanes : List PLane := [pLane 1024 [1] 0, pLane 0 [5] 0, pLane 9 [7] 0]
theorem meets_BankInstructions_taken : (∀ i ∈ [Instr.awlbc false (f3 48 16 0), .awlrd (f3 22 48 0)],
      takenOk (bankReq i bcLanes) 0 (req0 (bankReq i bcLanes)) (team (bankReq i bcLanes)) (pkt0 (bankReq i bcLanes)) = true)
    ∧ opAt (pLane 1024 [1] 0).ops 0 ≠ 0 ∧ (48 : Reg) ≠ Reg.z ∧ SBk.holdsSession T 197 = true ∧ (SBk.fam T.fam).bankBad = [] := by decide +kernel
/-- R253: word 1 of bank 1 comes from lane 9; word 0 of bank 0 goes to lane 0. -/
theorem test_awl : bankWord (((after (.requestAtTarget 0) (bankReq (.awlbc false (f3 48 16 0)) bcLanes)).fam 1).bank 48) 1 1 = 7
  ∧ bankWord (((after (.requestAtTarget 0) (bankReq (.awlbc false (f3 48 16 0)) bcLanes)).fam 1).bank 48) 0 1 = 0 := by decide +kernel

/-- A clause header whose LD bound is `ld`, without a watch or with one of slot 0 for phase 0. -/
def clauseHdr (ld watch : Nat) : DWord := BitVec.ofNat 64 (12 * 2 ^ 60 + 2 ^ 52 + ld * 2 ^ 46 + 63 * 2 ^ 40 + 63 * 2 ^ 34 + watch * 2 ^ 33)
/-- A team at a header, with one load under way; the offset of the barrier that slot 0 watches. -/
def THd (h : DWord) (w : Option Nat) : Team :=
  { T with loaded := false, tested := false, clause := h :: T.clause, ld := 1, watch := [w, none, none, none, none, none, none, none] }
def SHd (h : DWord) (w : Option Nat) : State := { at_ (THd h w) with groups := (SB 2 1 16).groups }
theorem at_SHd (h : DWord) (w : Option Nat) : AtHeader (SHd h w) (THd h w) h T.clause := ⟨rfl, rfl, ⟨rfl, rfl⟩, rfl⟩
/-- VD 3's tables map its first gigabyte to host memory. -/
def hostMem : Mem := Mem.writeN (Mem.writeN [] 0x2_0000 (leBytes 8 0x3_0001)) 0x3_0000 (leBytes 8 0x8000_0000_0057)
/-- A team whose clause is there: header and one word. -/
def TFe : Team := { T with loaded := false, tested := false, clause := [], pc := 0x1_0000 }
def SFe : State := { SPt with
  mem := Mem.writeN (Mem.writeN hostMem 0x8000_0001_0000 (leBytes 8 0xC00F_FFFC_0000_0000)) 0x8000_0001_0008 (leBytes 8 0x3500_0000_0000_0000)
  teams := [(1, TFe)]
  trips := [{ (coreWho 2 3).trip 3 5 0x1_0000 1 with
    stage := .done, found := some ({ addr := 0x8000_0000_0000, level := 2, read := true, write := true, pin := false, clear := true, shared := false }, 0x8000_0001_0000) }] }
/-- What was fetched is a clause that may start. -/
def startable (f : Fetched) : Bool :=
  match f with
  | .words (h :: ws) => !h.getLsbD 33 && !clauseBad 0 16 ws && decide ((h.extractLsb' 46 6 : BitVec 6) = 63 ∧ TFe.ld = 0 ∧ TFe.pl = 0 ∧ TFe.st = 0)
  | _ => false
/-- Core 2 is domain 1's, with calendar entry 0 for `e`. -/
def own2 (k : Core) (e : Byte) : Core := { k with own := [(24, 0x81), (40, 0x81)], cal := { k.cal with active := [(0, e)] } }
def SWn (k : Core) : State := { S with cores := [(2, k)], vds := [(3, { V with cls := 0 })], stamp := 9 }
def K0 : Core := own2 { resetCore with window := 0 } 0x83
def KB : Core := { own2 { resetCore with window := 0 } 0 with bkt := [(3, { rho := 1, sigma := 2, level := 1 })] }
def KR : Core := { own2 { resetCore with window := 1 } 0x83 with lent := true }
theorem meets_IssueWindows : clauseBad 0 16 T.clause = false ∧ (clauseHdr 1 0).getLsbD 33 = false ∧ counted (clauseHdr 1 0) (THd (clauseHdr 1 0) none)
    ∧ ¬counted (clauseHdr 0 0) (THd (clauseHdr 0 0) none) ∧ (THd (clauseHdr 0 0) none).tested = false
    ∧ (clauseHdr 63 1).getLsbD 33 = true ∧ ((THd (clauseHdr 63 1) (some 0x100)).watch[((clauseHdr 63 1).extractLsb' 30 3 : BitVec 3).toNat]?).join = some 0x100
    ∧ counted (clauseHdr 63 1) (THd (clauseHdr 63 1) (some 0x100))
    ∧ decide ((((SHd (clauseHdr 63 1) (some 0x100)).group 1).barrier 0x100).gen % 2 = 1) = (clauseHdr 63 1).getLsbD 29
    ∧ SFe.turn = .team TFe.ctx ∧ SFe.team? TFe.ctx = some TFe ∧ TFe.loaded = false ∧ TFe.clause = [] ∧ TFe.div = []
    ∧ startable (({ SFe with holds := .on }).fetchClause (SFe.whoOf TFe TFe.pc TFe.word) 0 TFe.pc).1 = true
    ∧ (({ SFe with holds := .on }).fetchClause (SFe.whoOf TFe TFe.pc TFe.word) 0 TFe.pc).2.holds = .on := by
  unfold counted
  and_intros <;> decide +kernel
theorem meets_IssueWindows_windows : (∀ k ∈ [K0, KB, KR], k.gated = false ∧ (SWn k).coreOff 2 = false ∧ (SWn k).zoneHot 2 = false)
    ∧ K0.window ≠ S.clock / 16 + 1 ∧ entryVd (Tbl.get 0 K0.cal.active (S.clock / 16 % 64)) = some 3
    ∧ (SWn K0).ownsUnit 2 ((SWn K0).domOf 3) (24 + 0) = true ∧ (SWn K0).ownsUnit 2 ((SWn K0).domOf 3) (40 + 0) = true
    ∧ KB.window ≠ S.clock / 16 + 1 ∧ entryVd (Tbl.get 0 KB.cal.active (S.clock / 16 % 64)) = none
    ∧ (between (SWn KB) 2).borrower none KB.borrowed (fun w => (Tbl.get resetBucket KB.bkt w).level.toNat) ((between (SWn KB) 2).hasReady 2) = some 3
    ∧ KR.window ≠ 0 ∧ KR.lent = true ∧ ((SWn KR).vd 3).cls = 0 ∧ (SWn KR).windowOwner 2 = some 3
    ∧ (SWn KR).hasReady 2 3 = true
    ∧ (SWn { K0 with window := 3 }).core 2 = { K0 with window := 3 } ∧ 3 ≠ S.clock / 16 + 1 ∧ S.sw.go = false := by
  and_intros <;> decide +kernel
/-- The one team of the VD is the first; so is one that was cut within its clause. -/
theorem meets_IssueWindows_first : FirstTeam (between (SWn K0) 2) 2 3 T ∧ FirstTeam (between (SWn KB) 2) 2 3 T ∧ FirstTeam (parted (SWn KR) 2) 2 3 T
    ∧ FirstTeam (between (SWn { K0 with running := some 1 }) 2) 2 3 T := by
  unfold FirstTeam
  refine ⟨⟨?_, .inr ?_⟩, ⟨?_, .inr ?_⟩, ⟨?_, .inr ?_⟩, ⟨?_, .inl ?_⟩⟩ <;> decide +kernel
/-- R36, R40: the owner's window goes to its team; a gated stream wakes with what it gathered. -/
theorem test_windows : ((after (.issueWindowStart 2) (SWn K0)).core 2).running = some 1 ∧ ((after (.issueWindowStart 2) (SWn KB)).core 2).lent = true
  ∧ ((after (.teamStreamWake 2) (SWn { K0 with gated := true, acc := 4 })).core 2).wake = 0x104
  ∧ (after .frameBoundary { S with clock := 1025 }).clock = 2048 := by decide +kernel

/-! ## Queues and launches -/

/-- The launch record at VA 0x1_0100: two lanes, one team; LMAX 32, TREGS 32. -/
def recordBytes : List Byte := leBytes 8 2 ++ leBytes 8 0 ++ leBytes 8 0x1_0001 ++ leBytes 8 (32 + 32 * 256)
/-- A packet at the head of queue 9, whose ring lies at 0x4_0000; VA 0x1_0000 holds 5. -/
def ringMem (hdr a b c : Nat) : Mem :=
  Mem.writeN (Mem.writeN (Mem.writeN hostMem 0x4_0000 (leBytes 8 hdr ++ leBytes 8 a ++ leBytes 8 b ++ leBytes 8 c)) 0x8000_0001_0000 [5])
    0x8000_0001_0100 recordBytes
def Q9 : Queue := { resetQueue with base := 0x4_0000, vd := 3, enable := true, wr := 1 }
/-- Core 2 has a lane slice and a slice of TEAM registers of domain 1. -/
def KL : Core := { resetCore with own := [(40, 0x81), (56, 0x81)] }
def SQu (hdr a b c : Nat) : State := { State.reset with
  mem := ringMem hdr a b c, sound := [0x400, 0x600, 0x800], queues := [(9, Q9)], cores := [(2, KL)]
  vds := [(3, { VM with root := 2, log2str := 31, cores := 4 })], domains := [(1, D1)]
  trips := [0x1_0000, 0x1_0100, 0x1_0200].map (fun va => { (coreWho 0 3).trip 3 5 va 0 with
    stage := .done, found := some ({ addr := 0x8000_0000_0000, level := 2, read := true, write := true, pin := false, clear := true, shared := false },
      0x8000_0000_0000 + va) }) }
def pktOf (s : State) : Pkt := ((({ s with holds := .on }).headPkt 9).1).getD { hdr := 0, a := 0, b := 0, c := 0, d := 0 }
def headOf (s : State) : State := (({ s with holds := .on }).headPkt 9).2
def headOk (s : State) : Bool :=
  decide (s.holds = .off) && s.serving 9 && (({ s with holds := .on }).headPkt 9).1.isSome && decide ((pktOf s).bad = none)
  && decide ((headOf s).queue 9 = s.queue 9) && decide ((s.queue 9).taken = [] ∧ (pktOf s).rel = 0 ∧ (pktOf s).event = false)
def waitPkt : State := SQu 2 0x1_0000 5 0xFF
theorem meets_Queues : ((7 : Word) - (Q9).rd).toNat ≤ 2 ^ (if 4 ≤ Q9.log2.toNat ∧ Q9.log2.toNat ≤ 16 then Q9.log2.toNat else 4)
    ∧ (Q9.base.toNat + 64 * 0) % 64 = 0 ∧ waitPkt.readable 0x4_0000 64 = true
    ∧ (∀ s ∈ [waitPkt, SQu 3 0x1_0000 5 0, SQu 4 0x1_0000 0 0, SQu 1 0x2_0000 0x1_0100 0], headOk s = true)
    ∧ (pktOf waitPkt).typ = 2 ∧ ((headOf waitPkt).unitRead 3 ((pktOf waitPkt).a &&& ~~~7#64) 8).1.isSome = true
    ∧ ((headOf waitPkt).unitRead 3 ((pktOf waitPkt).a &&& ~~~7#64) 8).2.holds = .on
    ∧ (({ waitPkt with queues := [(9, { Q9 with ready := true })] }).queue 9).ready = true ∧ (headOf waitPkt).holds = .on
    ∧ (∀ s ∈ [SQu 3 0x1_0000 5 0, SQu 4 0x1_0000 0 0], ((pktOf s).typ = 3 ∨ (pktOf s).typ = 4) ∧
      let u := (headOf s).unitUpdate 3 ((pktOf s).a &&& ~~~7#64) 1 (fun _ => if (pktOf s).typ = 3 then (pktOf s).b else BitVec.ofNat 64 (headOf s).clock)
      u.1 = true ∧ u.2.holds = .on) := by
  and_intros <;> decide +kernel
def launchPkt : State := SQu 1 0x2_0000 0x1_0100 0
def readRec : Option Rec × State := (headOf launchPkt).readRecord 3 8 ((pktOf launchPkt).b &&& ~~~15#64)
def theRec : Rec := [(2, 0), (0x1_0001, 0x2020), (0, 0), (0, 0), (0, 0), (0, 0), (0, 0), (0, 0)]
def theLaunch : Launch := launchOfRec (pktOf launchPkt) theRec 9 0 3 (((headOf launchPkt).queue 9).coveredAt 0) ((headOf launchPkt).queue 9).prio.toNat
theorem meets_Queues_launch : readRec.1 = some theRec ∧ readRec.2.holds = .on ∧ readRec.2.queue 9 = (headOf launchPkt).queue 9
    ∧ readRec.2.rejects 3 theRec theLaunch = 0 := by
  refine ⟨by decide +kernel, by decide +kernel, by decide +kernel, ?_⟩
  have h1 : (recClean theRec && recScopes theRec && levelsOrdered theLaunch.levels && extentsOk theLaunch.levels
    && sysidxOk theLaunch.levels theLaunch.sysidx) = true := by decide +kernel
  have h2 : (within 1 253 theLaunch.lmax && within 4 256 theLaunch.tregs && decide (theLaunch.spad ≤ 2048)
    && decide (theLaunch.lmax * theLaunch.e0 ≤ 131072)) = true := by decide +kernel
  have h3 : readRec.2.grantOk 3 theLaunch = true := by decide +kernel
  have h4 : ¬ (readRec.2.vd 3).stride < theLaunch.imageBytes := by
    have hs : (readRec.2.vd 3).stride = 2 ^ 31 := by decide +kernel
    have hl : theLaunch.lmax = 32 := by decide +kernel
    have hq : (bitList theLaunch.qmask 0 4).length = 0 := by decide +kernel
    have hp : theLaunch.spad = 0 := by decide +kernel
    have hb := (Config.replayMax theLaunch.e0).isLt
    unfold Launch.imageBytes
    rw [hs, hl, hq, hp]
    dsimp only
    omega
  unfold State.rejects
  dsimp only
  rw [h1, h2, h3, if_neg h4]
  rfl
/-- A launch of one group that waits for a core. -/
def LW : Launch := { L with todo := [0], live := [] }
def SPl : State := { launchPkt with launches := [(1, LW)] }
theorem meets_Queues_placement : let la := SPl.launch 1
    (SPl.vd 3).valid = true ∧ (SPl.domain (SPl.vd 3).domain.toNat).valid = true ∧ SPl.gangs = [] ∧ SPl.candidates 3 = [(1, 0)]
    ∧ SPl.earlyUnmet la = false ∧ SPl.fits 3 la (some 0) [2] (fun c => SPl.canGrant c 3 la) = true ∧ la.vd = 3 ∧ la.acq = none := by
  and_intros <;> decide +kernel
/-- A team whose lanes have exited; beside it one of its launched team, or one of another. -/
def TEx : Team := { T with lanes := [] }
def SEx (f : Nat) : State := { S with teams := [(1, TEx), (2, { T with ctx := 2, fam := f })] }
theorem meets_Queues_end : (∀ f ∈ [1, 2], (SEx f).team? 1 = some TEx ∧ (∃ u ∈ (SEx f).allTeams, u.group = TEx.group ∧ u.ctx ≠ 1)
      ∧ ((SEx f).fam TEx.fam).session = none ∧ ((SEx f).fam TEx.fam).group = TEx.group
      ∧ ((SEx f).launch ((SEx f).group TEx.group).launch).teamSerial = [])
    ∧ TEx.ctx = 1 ∧ TEx.lanes = [] ∧ TEx.ld = 0 ∧ TEx.pl = 0 ∧ TEx.st = 0 ∧ (∃ u ∈ (SEx 1).allTeams, u.fam = TEx.fam ∧ u.ctx ≠ 1)
    ∧ (∀ u ∈ (SEx 2).allTeams, u.fam = TEx.fam → u.ctx = 1) ∧ ∀ f, (SEx f).teamsOk := by
  repeat' with_reducible apply And.intro
  all_goals first
    | decide +kernel
    | exact fun _ => ok_of2 _ rfl rfl
/-- A launch whose groups have ended, without a signal and with one at VA 0x1_0200. -/
def LDn (sig : DWord) : Launch := { L with todo := [], live := [], queue := 9, signal := sig }
/-- A step of a state is tried. -/
def trying (s : State) : State := { s with holds := .on }
def SDn (sig : DWord) : State := { launchPkt with launches := [(1, LDn sig)] }
theorem meets_Queues_complete : Tbl.get? (SDn 0).launches 1 = some (LDn 0) ∧ Tbl.get? (SDn 0x1_0200).launches 1 = some (LDn 0x1_0200)
    ∧ (∀ sig, (LDn sig).todo = [] ∧ (LDn sig).live = [] ∧ (LDn sig).rel = none ∧ (LDn sig).event = false ∧ (LDn sig).signal = sig)
    ∧ ((trying (SDn 0x1_0200)).unitUpdate 3 0x1_0200 2 (fun w => w + 1)).1 = true
    ∧ (((trying (SDn 0x1_0200)).unitUpdate 3 0x1_0200 2 (fun w => w + 1)).2.unitUpdate 3 0x1_0208 2 (fun w => w ||| 0)).1 = true
    ∧ (((trying (SDn 0x1_0200)).unitUpdate 3 0x1_0200 2 (fun w => w + 1)).2.unitUpdate 3 0x1_0208 2 (fun w => w ||| 0)).2.holds = .on :=
  ⟨rfl, rfl, fun _ => ⟨rfl, rfl, rfl, rfl, rfl⟩, by decide +kernel, by decide +kernel, by decide +kernel⟩
-- R379 to R384 on these states
theorem test_queues : ((after (.waitvalPoll 9) waitPkt).queue 9).ready = true ∧ ((after (.packetTake 9) (SQu 3 0x1_0000 0x99 0)).mem.read 0x8000_0001_0000) = 0x99
  ∧ Mem.readN (after (.launchComplete 1) (SDn 0x1_0200)).mem 0x8000_0001_0200 1 = [1] :=
  ⟨by decide +kernel, by decide +kernel, by decide +kernel⟩

/-! ## Faults and mapping -/

/-- A load older than a load whose second lane has found no mapping. -/
def done0 : Packet := { T.packet (.ld .w32 (fm 22 0 4)) .core .ld false [] [] with complete := true }
def flt : MFault := { kind := .invalid, level := 3, va := 0x1_0000, acc := 0 }
def bad1 : Packet :=
  { T.packet (.ld .w32 (fm 22 0 4)) .core .ld false [{ pLane 0 [] 0 with done := true }, { pLane 1 [] 0x1_0000 with fault := some flt }] [] with seq := 1 }
def TFt : Team := { T with replay := [done0, bad1], ld := 1, seq := 2 }
/-- The fault queue of VD 3 has room, or is full. -/
def SFt (wr : BitVec 16) : State := { at_ TFt with vds := [(3, { V with fq := { resetRing with base := 0x4_0000, wr := wr } })] }
/-- A team that a fault has parked, one parked by `hcall`, one that runs; a team of the same group beside it. -/
def TPk (p : Parked) (h : Bool) : Team := { TFt with parked := p, hold := h, gen := 70, sends := [(1, 5)] }
def SPk (p : Parked) (h : Bool) (clock : Nat) (saved : Bool) : State := { at_ (TPk p h) with
  clock := clock, gangs := [(1, { resetGang with launch := 1, vd := 3, members := [1], saved := saved })]
  teams := [(1, TPk p h), (2, { T with ctx := 2, fam := 2 })] }
theorem meets_Faults : ((SFt 0).team? 1 = some TFt ∧ (SFt 0).midMatrix TFt = false ∧ (SFt 15).team? 1 = some TFt ∧ (SFt 15).midMatrix TFt = false) ∧ TFt.ctx = 1 ∧ TFt.parked = .no
    ∧ TFt.replay = [done0] ++ bad1 :: [] ∧ (∀ x ∈ [done0], x.complete = true) ∧ bad1.faulted = true ∧ bad1.stop = none
    ∧ bad1.faulty = ({ pLane 1 [] 0x1_0000 with fault := some flt }, flt) :: []
    ∧ (let q := ((SFt 15).vd ((SFt 15).vdOf TFt)).fq
      (q.wr.toNat + 1) % 2 ^ (if 4 ≤ q.log2.toNat ∧ q.log2.toNat ≤ 16 then q.log2.toNat else 4) = q.rd.toNat % 16)
    ∧ (let q := ((SFt 0).vd ((SFt 0).vdOf TFt)).fq
      (q.wr.toNat + 1) % 2 ^ (if 4 ≤ q.log2.toNat ∧ q.log2.toNat ≤ 16 then q.log2.toNat else 4) ≠ q.rd.toNat % 16)
    ∧ ((SFt 0).vd ((SFt 0).vdOf TFt)).fqHeld = [] := by
  and_intros <;> decide +kernel
theorem meets_Faults_states : ∀ p ∈ [Parked.fault, .hcall, .no], ∀ h ∈ [true, false], (SPk p h 6 false).team? 1 = some (TPk p h)
    ∧ (TPk p h).ctx = 1 ∧ (SPk p h 6 false).vdOf (TPk p h) = 3 ∧ (SPk p h 6 false).parkedEngines 3 1 = [] ∧ (TPk p h).parked = p
    ∧ (TPk p h).hold = h ∧ (TPk p h).img = .running := by decide +kernel
theorem meets_Faults_seqs : ((TPk .fault true).replay.map (fun x => x.seq)).Nodup := by decide +kernel
theorem meets_Faults_whole (h : Bool) : Whole (TPk .fault h) := by cases h <;> (unfold Whole; decide +kernel)
theorem meets_Faults_held : (∀ e ∈ (TPk .fault false).sends, ((TPk .fault false).gen - e.1).toNat < 64 ∨ e.2 + 2250000 ≤ 3000000)
    ∧ (∃ e ∈ (TPk .fault false).sends, 64 ≤ ((TPk .fault false).gen - e.1).toNat ∧ 6 < e.2 + 2250000) := by decide +kernel
theorem meets_Faults_kill : (SPk .fault false 6 false).isSaved 1 = false ∧ (SPk .fault false 6 true).isSaved 1 = true
    ∧ ((SPk .fault false 6 false).fam 1).ended = false ∧ ((SPk .fault false 6 false).fam 1).group = (TPk .fault false).group
    ∧ ((SPk .fault false 6 false).launchOf (TPk .fault false)).teamSerial = []
    ∧ (∃ u ∈ (SPk .fault false 6 false).allTeams, u.group = 1 ∧ u.fam ≠ 1) := by decide +kernel
/-- The same team, running, with a request at stack 3, whose zone is fenced. -/
def SFc : State := { SPk .no false 6 false with
  zones := [(67, { resetZone 67 with state := 10 })]
  reqs := [(TPk .no false).req 6 bad1 { target := .welt 3, op := .access, lanes := [] }] }
theorem meets_Faults_fence : (SPk .no false 6 false).atFence (TPk .no false) = false ∧ SFc.team? 1 = some (TPk .no false)
    ∧ SFc.atFence (TPk .no false) = true ∧ SFc.parkedEngines 3 1 = [] ∧ (SFc.fam 1).ended = false ∧ (SFc.fam 1).group = 1
    ∧ (SFc.launchOf (TPk .no false)).teamSerial = [] ∧ (∃ u ∈ SFc.allTeams, u.group = 1 ∧ u.fam ≠ 1) := by decide +kernel
theorem meets_Faults_fence_ok : SFc.teamsOk := ok_of2 _ rfl rfl
theorem meets_Faults_ok (p : Parked) (h : Bool) (c : Nat) (v : Bool) : (SPk p h c v).teamsOk := ok_of2 _ rfl rfl
/-- R66, R335, R336: the halt raises the generation, a full queue holds the record, a resume of a running team is STALE, a kill ends the team. -/
theorem test_faults : (team (after (.faultHalt 1) (SFt 15))).gen = 1 ∧ ((after (.faultHalt 1) (SFt 15)).vd 3).fqHeld.length = 1
  ∧ ((after (.faultResume (.dm 1) 3 1) (SPk .no false 6 false)).vd 3).stale = true
  ∧ (after (.faultKill (.dm 1) 3 1) (SPk .fault false 6 false)).allTeams.map (fun t => t.ctx) = [2]
  ∧ (after (.faultKill (.dm 1) 3 1) SFc).allTeams.map (fun t => t.ctx) = [2] := by
  and_intros <;> decide +kernel

/-- A frame of stack 3's channel 5, with a mapping of VD 3's first address space and a listed byte. -/
def frame5 : Nat := 197 * 2 ^ 14 + 1
def SFr (clear : Bool) : State := { SPt with
  mem := [(frame5 * 2 ^ 16 + 3, 9), (frame5 * 2 ^ 16 + 2 ^ 16, 8)]
  welts := [(3, { resetWelt with frames := [(frame5, { asid := 67, gran := 1, clear := clear })] })] }
/-- The home map of VD 3 in memory: one entry, good or past the last pseudo-channel. -/
def SHm (first : Nat) : State := { SPt with
  mem := Mem.writeN [] 0x4_0000 (leBytes 8 1 ++ leBytes 8 (3 * 2 ^ 24 + first * 2 ^ 28 + 1 * 2 ^ 34)), sound := [0x800]
  vds := [(3, { VM with hmapBase := 0x4_0000, count := 1, commit := true })] }
def mapBytes (s : State) : List Byte × State := s.rdBytes (s.vd 3).hmapBase.toNat (16 * (s.vd 3).count.toNat)
def mapBad (s : State) : Bool :=
  (mapBytes s).2.rangeBad 1 0 (rangeOf (leNat (((mapBytes s).1.drop 0).take 16))).1 (rangeOf (leNat (((mapBytes s).1.drop 0).take 16))).2
theorem meets_Mapping : (∀ c ∈ [true, false], (SFr c).frameEnt frame5 = some { asid := 67, gran := 1, clear := c } ∧ (SFr c).mem.wf = true) ∧ 67 / 64 = 1
    ∧ ((BitVec.ofNat 32 frame5).toNat = frame5) ∧ (mapBytes (SHm 5)).2.vd 3 = (SHm 5).vd 3 ∧ (mapBytes (SHm 63)).2.vd 3 = (SHm 63).vd 3
    ∧ ((SHm 5).vd 3).domain.toNat = 1 ∧ ((SHm 5).vd 3).count.toNat = 1 ∧ mapBad (SHm 5) = false ∧ mapBad (SHm 63) = true
    ∧ (SFr true).mem.all (fun e => !(SFr true).inScratch 1 e.1) = true ∧ ((SFr true).domain 1).scrw.toNat ≤ (2 : BitVec 4).toNat
    ∧ 0x1F0 < 2 ^ 40 ∧ 0x1F0 % 128 + [(1 : Byte), 2].length ≤ 128 ∧ (SFr true).inClear 0x1F0 = true := by
  and_intros <;> decide +kernel
def chReq (rd : Bool) : ChanReq := { vd := 3, sector := 197 * 2 ^ 23, offs := List.range 128, beats := 4, time := 0, read := rd, due := none }
/-- A channel with one request of VD 3; a tracker period of VD 3 at its end, without a hot page and with a pinned one; a sound sector. -/
def SCh (rd : Bool) : State := { S with chans := [(197, { resetChannel with queue := [chReq rd], contract := [(3, { resetContract with guar := 8, credit := 8 })] })] }
def STr (cnt : Nat) : State := { SPt with
  mem := Mem.writeN (Mem.writeN [] 0x2_0000 (leBytes 8 0x3_0001)) 0x3_0000 (leBytes 8 (197 * 2 ^ 30 + 0x5F))
  vds := [(3, { VM with root := 2, migr := true, moved := 0x5_0000, period := 1, thresh := 1 })]
  welts := [(3, { resetWelt with counts := [((3 * 2 ^ 40 + 1) * 4 + 2, cnt)] })] }
theorem meets_Mapping_channels : (∀ rd ∈ [true, false], ((SCh rd).chan 197).session = none ∧ (SCh rd).firstRequest ((SCh rd).chan 197) = some 0
      ∧ ((SCh rd).chan 197).queue[0]? = some (chReq rd) ∧ (chReq rd).read = rd)
    ∧ ((STr 64).vd 3).migr = true ∧ ((STr 64).vd 3).moved ≠ 0 ∧ (STr 64).clock / 1024 % max ((STr 64).vd 3).period.toNat 1 = 0
    ∧ (STr 1).candidates' 3 3 = [] ∧ (STr 64).candidates' 3 3 = [(1, 2)]
    ∧ 128 * 0x400 < 2 ^ 40 ∧ 0x400 ∈ SPt.sound ∧ (SPt.chan (0x400 / 2 ^ 23)).session = none
    ∧ Tbl.get 0 ({ SPt with errs := [(0x400, 2)] } : State).errs 0x400 = 2 ∧ Tbl.get 0 SPt.errs 0x400 = 0 := by
  and_intros <;> decide +kernel
theorem meets_Mapping_pin : (STr 64).judge 3 3 1 2 = (.pin, STr 64) := by decide +kernel
/-- R333, R392, R327, R373: an invalidation's span, a CLEAR frame scrubbed, an entry refused, a host write. -/
theorem test_mapping : (after (.frameRelease (.dm 1) (BitVec.ofNat 32 frame5)) (SFr true)).mem = [(frame5 * 2 ^ 16 + 2 ^ 16, 8)]
  ∧ (after (.frameRelease (.dm 1) (BitVec.ofNat 32 frame5)) (SFr false)).mem.length = 2
  ∧ ((after (.homeMapCommit (.dm 1) 3) (SHm 63)).vd 3).refused = true ∧ ((after (.homeMapCommit (.dm 1) 3) (SHm 5)).vd 3).map.map (fun r => r.firstch) = [5]
  ∧ (after (.hostMemAccess 0x1F0 (some [1, 2])) (SFr true)).mem.read 0x1F1 = 2 := by
  and_intros <;> decide +kernel

/-! ## Tenancy, switches, links -/

/-- Domains 1 and 2; a group of domain 1 that runs, or has ended; channel 197 owned whole, or shared. -/
def D2 : Domain := { resetDomain with valid := true, slices := 4, mscb := 4, chan := 8 }
def STn (ended own : Bool) : State := { SPt with
  domains := [(1, { D1 with chan := if own then 1 <<< 197 else 0 }), (2, D2)], groups := [(1, { G with ended := ended })] }
def SNo : State := { S with domains := [(1, { resetDomain with valid := true, seq := 6 }), (2, { D2 with valid := false })] }
theorem meets_Tenancy : (3#8).getLsbD 7 = false
    -- bit 2 of slices, mscb and bit 3 of chan are domain 2's; without them nothing clashes
    ∧ (Nat.testBit 7 2 = true ∧ D1.slices.getLsbD 2 = false ∧ D2.slices.getLsbD 2 = true)
    ∧ (Nat.testBit 8 3 = true ∧ D1.chan.getLsbD 3 = false ∧ D2.chan.getLsbD 3 = true)
    ∧ (∀ i, i < 256 → ¬(Nat.testBit 1 i = true ∧ D1.slices.getLsbD i = false)) ∧ (∀ i, i < 512 → ¬(Nat.testBit 1 i = true ∧ D1.mscb.getLsbD i = false))
    ∧ (∀ i, i < 1024 → ¬(Nat.testBit 1 i = true ∧ D2.chan.getLsbD i = true))
    ∧ (D1.slices.getLsbD 1 = true ∧ Nat.testBit 1 1 = false) ∧ (∀ i, i < 256 → ¬(D1.slices.getLsbD i = true ∧ Nat.testBit 3 i = false))
    ∧ (STn false true).unquiet 1 = true ∧ (STn true true).unquiet 1 = false ∧ (STn true true).mem.wf = true := by
  and_intros <;> decide +kernel
/-- Domain 1 has a dirty line in slice 0. -/
def dirtyL2 : Tbl (List CacheLine) := [(0, [{ line := 0, way := 0, vd := 3, time := 0, secs := [(0, { leaf := noLeaf, pa := 0, dirty := true })] }])]
theorem meets_Tenancy_dirty : ({ STn true true with l2 := dirtyL2 } : State).soiled 1 = true ∧ (STn false true).soiled 1 = false
    ∧ (D1.valid = true ∧ D1.slices.getLsbD 1 = true ∧ Nat.testBit 1 1 = false) := by decide +kernel
theorem meets_Tenancy_control : (3 : Word).getLsbD 1 = true ∧ ((STn true false).domain 1).sealed = false ∧ (STn true false).reachesShared 1 = true
    ∧ (STn true true).reachesShared 1 = false ∧ ((STn true true).domain 1).valid = (3 : Word).getLsbD 0
    ∧ (0 : Word).getLsbD 1 = false ∧ (0 : Word).getLsbD 0 = false ∧ (STn true true).ownsAny 1 = true ∧ SNo.ownsAny 1 = false ∧ (SNo.domain 1).valid = true
    ∧ (SNo.domain 2).valid = false := by
  and_intros <;> decide +kernel
theorem meets_Tenancy_shares : (∀ p ∈ (SCh true).chans, (SCh true).guarA p.1 3 1 (Tbl.get resetContract p.2.contract 3).guar.toNat ≤ 384)
    ∧ ((0x83 : Byte).getLsbD 7 = true ∧ SPt.domOf ((0x83 : Byte).toNat % 64) = 1) ∧ (Tbl.get 0 (SPt.core 2).cal.staged 5).getLsbD 7 = false
    ∧ SPt.chanOwner 197 = some (SPt.vd 3).domain.toNat ∧ SPt.guarSum 197 3 100 ≤ 768 ∧ SPt.guarA 197 3 (SPt.vd 3).clsNext 100 ≤ 384
    ∧ ¬SPt.guarSum 197 3 800 ≤ 768
    ∧ (∀ g ∈ (STn true true).groups, g.2.core = 2 → g.2.ended = false → (STn true true).isSaved g.1 = false → g.2.qmask.getLsbD 1 = false) := by
  and_intros <;> decide +kernel
/-- R304, R305: a conflict, a busy domain, a domain that ends; R309: a new incarnation. -/
theorem test_tenancy : ((after (.ownershipWrite .fw 1 .slices 7) (STn true true)).domain 1).conflict = true
  ∧ ((after (.ownershipWrite .fw 1 .slices 1) (STn false true)).domain 1).busy = true
  ∧ ((after (.ownershipWrite .fw 1 .slices 1) (STn true true)).domain 1).slices = 1
  ∧ ((after (.domainControlWrite .fw 1 0) SNo).domain 1).seq = 7 ∧ ((after (.vdControlWrite .fw 9 0x201) (STn true true)).vd 9).incarn = 1 := by
  and_intros <;> decide +kernel

/-- A gang instance on core 2 by its launch, the drain bound of VD 3 and the clauses its team has retired. -/
def SGa (l : Launch) (drain : BitVec 16) (d : Decision) : State := { S with
  launches := [(1, l)], vds := [(3, { V with drainb := drain })], gangs := [(1, { resetGang with launch := 1, vd := 3, members := [1], decision := d })] }
def LX (idemp : Bool) : Launch := { L with expcl := 10, idemp := idemp, levels := [{ extent := 2, binding := .lane }, { extent := 1, binding := .team }] }
theorem meets_Switches_preempt : (SGa (LX false) 11 .none).hasGang 1 = true ∧ (SGa (LX false) 11 .none).gangSessions 1 = []
    ∧ (((SGa (LX false) 11 .none).launch 1).expected : Int) - (SGa (LX false) 11 .none).retiredOf 1 < ((SGa (LX false) 11 .none).vd 3).drainb.toNat
    ∧ ¬((((SGa (LX false) 0 .none).launch 1).expected : Int) - (SGa (LX false) 0 .none).retiredOf 1 < ((SGa (LX false) 0 .none).vd 3).drainb.toNat)
    ∧ ((SGa (LX false) 0 .none).launch 1).idemp = false ∧ ((SGa (LX true) 0 .none).launch 1).idemp = true
    ∧ 4 * (SGa (LX true) 0 .none).retiredOf 1 < ((SGa (LX true) 0 .none).launch 1).expected
    ∧ ({ SGa (LX true) 0 .none with fams := [] } : State).gangFams 1 = []
    ∧ (SGa L 0 .save).savable 1 = true ∧ ((SGa L 0 .save).gang 1).decision = .save ∧ (SGa L 0 .save).teams = [(1, T)]
    ∧ (∀ g ∈ ((SGa L 0 .save).gang 1).members, ((SGa L 0 .save).core ((SGa L 0 .save).group g).core).l1 = []) := by
  and_intros <;> decide +kernel
/-- The same instance with one LANE row, no quadrant and 256 bytes of scratchpad; register 9 of its team at MEM. -/
def SIm : State := { SGa { L with lmax := 1 } 0 .save with
  groups := [(1, { G with qmask := 0, quads := [], spadLen := 256 })], fams := [(1, { F with map := Tbl.set places 9 (ent .mem 3) })] }
theorem meets_Switches_image : SIm.savable 1 = true ∧ (SIm.gang 1).decision = .save ∧ (SIm.gang 1).members = [1] ∧ SIm.gangTeams 1 = [T]
    ∧ T.slot < 64 ∧ (SIm.core (SIm.group 1).core).l1 = [] ∧ SIm.ctxArea T % 4096 = 0 ∧ (T.lanes.map (fun l => l.slot)).Nodup
    ∧ (∀ t ∈ (SGa L 0 .save).gangTeams 1, (SGa L 0 .save).ctxArea t % 4096 = 0) ∧ T.ctx = (SIm.fam T.fam).ctx
    ∧ (SIm.entry T 2).kind = .team ∧ (SIm.entry T 9).kind = .mem ∧ (Tbl.get zeroCell (SIm.fam T.fam).cells 2).isOpen T.ctx = false
    ∧ (16, ent .lane 0) ∈ (SIm.fam T.fam).map ∧ (ent .lane 0).index.toNat < (SIm.launchOf T).lmax
    ∧ (∀ x ∈ (SIm.fam T.fam).map, x.2.kind = .lane → x.2.index = (ent .lane 0).index → x.1 = 16) ∧ SIm.teams = [(1, T)] := by
  and_intros <;> decide +kernel
/-- The team runs a load in its window, which sweeps nothing, or an addition over its lanes. -/
def SSw' (i : Instr) : State := { SIm with
  cores := [(2, { resetCore with window := 1, running := some 1 })], teams := [(1, { T with clause := encode i })] }
theorem meets_Switches_sweeping : (let s := SSw' (.add (f3 22 16 22))
      Sweeping s (team s) ∧ s.savable 1 = true ∧ s.teamsOk ∧ (s.gang 1).decision = .save ∧ s.gangTeams 1 = [team s] ∧ s.Quiet (team s)
      ∧ ∀ g ∈ (s.gang 1).members, (s.core (s.group g).core).l1 = [])
    ∧ ¬Sweeping (SSw' (.ld .w32 (fm 22 0 4))) (team (SSw' (.ld .w32 (fm 22 0 4)))) ∧ ¬Sweeping SIm T ∧ ¬Sweeping (SGa L 0 .save) T := by
  refine ⟨⟨⟨by decide +kernel, by decide +kernel, by decide +kernel, .add (f3 22 16 22), _, by decide +kernel, rfl, by decide +kernel⟩,
    by decide +kernel, ok_of _ (by decide +kernel) (by decide +kernel), by decide +kernel, by decide +kernel, quiet_of _ _ rfl rfl, by decide +kernel⟩, ?_, ?_, ?_⟩
  · rintro ⟨-, -, -, i, d, hi, hd, -⟩
    have : i = .ld .w32 (fm 22 0 4) := Option.some.inj (hi.symm.trans (by decide +kernel))
    subst this
    exact absurd hd (by simp [descOf])
  all_goals
    rintro ⟨-, -, -, i, d, hi, hd, hl⟩
    obtain rfl : i = .add { f3 3 2 254 with imm := 1 } := Option.some.inj (hi.symm.trans (by decide +kernel))
    obtain rfl := Option.some.inj hd
    exact absurd hl (by decide +kernel)
/-- R344: sizes of the team image and of the group image, and a context area by its index. -/
theorem test_images : imageSize (SIm.teamParts T) = 0x1DC0 + 4096 ∧ imageSize (SIm.backingParts T) = 0x400
    ∧ imageSize (SIm.groupParts 1) = 0x13C0 + 256 + 2 + 256 ∧ imageSize (resetQuad 0 0).parts = 65536
    ∧ ({ SIm with vds := [(3, { V with ctxBase := 0x7000_0000 })] } : State).ctxArea { T with ctx := 3 * 2 ^ 14 + 5 } = 0x7050_0000 := by
  and_intros <;> decide +kernel
/-- A switch under way on die 0, out of VD 3 or out of a VD without instances. -/
def SSw (out : BitVec 6) (clock : Nat) : State := { SGa L 0 .none with
  clock := clock, sw := { State.reset.sw with outvd := out, invd := 4, dies := 1, go := true, begun := true } }
theorem meets_Switches_switch : S.sw.go = false ∧ (SSw 3 0).sw.go = true ∧ (SSw 3 0).sw.begun = true ∧ (SSw 3 0).outgoing 0 = [1]
    ∧ (((SSw 3 450000).sw.diesOf.filter (fun d => !(SSw 3 450000).sw.done.getLsbD d)).flatMap (fun d => (SSw 3 450000).outgoing d)).eraseDups = [1]
    ∧ (SSw 3 450000).sw.start + 2250 * (SSw 3 450000).sw.dl2.toNat ≤ 450000 ∧ (SSw 3 450000).gangSessions 1 = [] ∧ (SSw 3 450000).hasGang 1 = true
    ∧ ((SSw 3 450000).gang 1).saved = false ∧ ((SSw 3 450000).launch ((SSw 3 450000).gang 1).launch).idemp = false
    ∧ (((SSw 5 0).sw.diesOf.filter (fun d => !(SSw 5 0).sw.done.getLsbD d)).flatMap (fun d => (SSw 5 0).outgoing d)).eraseDups = []
    ∧ (∀ d, d < 4 → (SSw 5 0).sw.dies.getLsbD d = true → (SSw 5 0).sw.done.getLsbD d = true ∨ (SSw 5 0).outgoing d = []) ∧ (SSw 5 0).sw.late = 0
    ∧ (SSw 5 1024).clock % 1024 = 0 := by
  and_intros <;> decide +kernel
/-- R341, R346, R347. -/
theorem test_switches : ((after (.preemptionRequest 1 false) (SGa (LX false) 11 .none)).gang 1).decision = .drain
  ∧ ((after (.preemptionRequest 1 false) (SGa (LX false) 10 .none)).gang 1).decision = .save ∧ ((after (.saveComplete 1) { SGa L 0 .save with teams := [] }).gang 1).saved = true
  ∧ (after .switchDeadline2 (SSw 3 450000)).sw.forced = true ∧ (after .switchFinish (SSw 5 1024)).sw.go = false := by
  and_intros <;> decide +kernel

/-- Link `l` with a flit of VD 3 in its own slot. -/
def lnk (l : Nat) : Link := { resetLink l with flits := [{ vd := 3, id := 50 }], cal := { resetCalendar with active := [(0, 0x83)] } }
/-- A load to stack 3, an answer of one and a write-back, whose ways are given. -/
def onWay (way : List Nat) : Req :=
  { modeReq 1 with instr := .ld .w32 (fm 22 0 4), inst := .core, op := .access, seq := 0, lanes := [pLane 0 [] 0x1_0040], id := 50, route := way }
def backOn (way : List Nat) : Answer :=
  { ctx := 1, gen := 0, seq := 0, target := .welt 3, op := .access, lanes := [], flags := 0, poison := none, stop := none, id := 50, route := way }
def tripOn (wb : Bool) (way : List Nat) : Trip :=
  { (coreWho 2 3).trip 3 5 0x1_0000 0 with id := 50, stage := .toHome, route := way, wb := wb, ctx := 1, pc := T.pc.toNat, word := T.word }
def SLk (l : Nat) (k : Link) : State := { S with links := [(l, k)], reqs := [onWay [l, 13]] }
theorem meets_Links : (∀ l ∈ [0, 14, 45], ((SLk l (lnk l)).link l).up = true ∧ ((SLk l (lnk l)).link l).tries ≤ 16
      ∧ ((SLk l (lnk l)).flitVd l).map (fun x => x.1) = some 3 ∧ ((SLk l (lnk l)).link l).failed = []
      ∧ ((SLk l (lnk l)).link l).flits.find? (fun x => x.vd == 3) = some { vd := 3, id := 50 } ∧ (onWay [l, 13]).id = 50 ∧ (backOn [l, 13]).id = 50
      ∧ ((SLk l (lnk l)).link l).inSlot (SLk l (lnk l)).clock < 12)
    ∧ ([1, 2] : List Nat).Nodup ∧ (∀ b ∈ [1, 2], b < 5) ∧ ([1] : List Nat).length ≤ 1 ∧ 2 ≤ ([1, 2] : List Nat).length
    ∧ 16 < ((Tbl.get [] ((SLk 14 { lnk 14 with errs := [(2, List.replicate 17 0)] }).link 14).errs 2).filter (fun x => decide (S.clock < x + 2250000))).length
    ∧ (Tbl.get (resetLanes 3) S.laneGrps 3).weak = none
    ∧ (Tbl.get (resetLanes 3) ({ S with laneGrps := [(3, { spare := 4, weak := some 4 })] } : State).laneGrps 3).weak = some 4 := by
  and_intros <;> decide +kernel
/-- A load waits behind link 14, which has lost two rails; so do its answer and an access of its. -/
def SDw (rs : List Req) (as : List Answer) (ts : List Trip) : State := { S with
  links := [(14, { lnk 14 with failed := [0, 1] })], reqs := rs, answers := as, trips := ts
  teams := [(1, { T with replay := [T.packet (.ld .w32 (fm 22 0 4)) .core .ld false [pLane 0 [] 0x1_0040] []] })] }
def downs : List State := [SDw [onWay [14]] [] [], SDw [] [backOn [14]] [], SDw [] [] [tripOn false [14]]]
theorem meets_Links_down : (∀ s ∈ downs, 2 ≤ (s.link 14).failed.length ∧ s.team? 1 = some (team s) ∧ (team s).ctx = 1 ∧ (team s).pk? 0 = some (pkt0 s)
      ∧ (pkt0 s).complete = false ∧ (pkt0 s).stop = none)
    ∧ (onWay [14]).route.head? = some 14 ∧ (onWay [14]).orphan = false ∧ (onWay [14]).ctx = 1 ∧ (onWay [14]).seq = 0
    ∧ (backOn [14]).route.head? = some 14 ∧ (backOn [14]).ctx = 1 ∧ (backOn [14]).seq = 0
    ∧ (tripOn false [14]).route.head? = some 14 ∧ (tripOn false [14]).wb = false ∧ (tripOn false [14]).ctx = 1
    ∧ (tripOn false [14]).pc = (pkt0 (SDw [] [] [tripOn false [14]])).pc.toNat ∧ (tripOn false [14]).word = (pkt0 (SDw [] [] [tripOn false [14]])).word
    ∧ (tripOn true [14]).route.head? = some 14 ∧ (tripOn true [14]).wb = true ∧ S.reqs = [] ∧ S.answers = [] ∧ S.trips = []
    ∧ ((SLk 14 { lnk 14 with up := false }).link 14).up = false ∧ ((SLk 14 { lnk 14 with up := false }).link 14).failed.length < 2 := by
  and_intros <;> decide +kernel
/-- R358, R361. -/
theorem test_links : ((after (.flitReceive 14 [1]) (SLk 14 (lnk 14))).link 14).flits = [] ∧ ((after (.flitReceive 14 [1, 2]) (SLk 14 (lnk 14))).link 14).retry = 1
  ∧ (∀ s ∈ downs, (pkt0 (after (.linkDown 14) s)).stop = some (.linkdown 0x1_0040))
  ∧ ((after (.flitReceive 14 [1]) (SLk 14 (lnk 14))).reqs.map (fun r => r.route)) = [[13]] ∧ ((after (.linkUp 14) (SLk 14 { lnk 14 with up := false })).link 14).up = true := by
  and_intros <;> decide +kernel

/-! ## Coolant, keys, journals, resets -/

/-- Core 2's zone, and stack 3's, in a state of evacuation or with a request for leave. -/
def zn (st : BitVec 4) : Zone := { resetZone 0 with state := st }
def SZn (z : Nat) (k : Zone) : State := { S with zones := [(z, k)] }
def ask (who : LeaveBy) (p : Nat) : Leave := { who := who, vd := 3, cls := 1, power := p, time := 0 }
def SLv (p : Nat) : State := { SSes .leave none with zones := [(67, { resetZone 67 with waiting := [ask (.session 197) p] })] }
/-- A loop of group 1 that has asked leave, alone in quadrant 1. -/
def QLv : Quad := { resetQuad 1 0 with queue := [{ ent0 (.mloop loop) true false with asked := true }] }
def SLl : State := { S with
  groups := [(1, { G with quads := [(1, QLv)] })], zones := [(0, { resetZone 0 with waiting := [ask (.loop 1 [1] (ent0 (.mloop loop) true false).id) 100] })] }
theorem meets_Leave : (∀ p ∈ [128, 60000], ((SLv p).zone 67).waiting = [ask (.session 197) p] ∧ (ask (.session 197) p).who = .session 197
      ∧ ((SLv p).chan 197).session = some (sess .leave none))
    ∧ (SLv 128).fitsLeave 67 (ask (.session 197) 128) = true ∧ (SLv 60000).fitsLeave 67 (ask (.session 197) 60000) = false
    ∧ SLl.fitsLeave 0 (ask (.loop 1 [1] (ent0 (.mloop loop) true false).id) 100) = true ∧ (1, QLv) ∈ (SLl.group 1).quads ∧ QLv.queue.length = 1
    ∧ 60 < 256 ∧ (S.zone 0).state.toNat ≤ 2 := by
  and_intros <;> decide +kernel
/-- A zone whose flow has been low since the start; a state at a time. -/
def dry : Zone := { resetZone 0 with flow := 2, lowAt := some 0 }
def later (n : Nat) (s : State) : State := { s with clock := n }
theorem meets_Coolant : dry.setpt ≠ 0 ∧ 5 * dry.flow.toNat < dry.setpt.toNat ∧ dry.state = 0 ∧ dry.lowAt = some 0
    ∧ 0 + 450000 ≤ (later 450000 (SZn 7 dry)).clock ∧ (later 449999 (SZn 7 dry)).clock < 0 + 450000 ∧ (SZn 7 dry).zoneGroups 7 = []
    ∧ (SZn 0 dry).zoneGangs 0 = [1] ∧ (SZn 0 dry).hasGang 1 = true ∧ ((SZn 0 dry).gang 1).saved = false ∧ (SZn 0 dry).gangSessions 1 = []
    ∧ (∀ st ∈ [5, 6, 7, 8, 9], (zn (BitVec.ofNat 4 st)).state.toNat = st) ∧ (SZn 7 (zn 5)).zoneGroups 7 = []
    ∧ (((SZn 0 (zn 5)).fams.filter (fun e => ((SZn 0 (zn 5)).zoneGroups 0).contains e.2.group && !e.2.ended)).map (fun e => e.1)) = [1]
    ∧ ((SZn 0 (zn 5)).fam 1).ended = false ∧ (SZn 7 (zn 5)).emptied 7 = true ∧ (SZn 67 (zn 5)).emptied 67 = true ∧ (S.die 0).purge = none
    ∧ (zn 5).dryAt + 562500 ≤ (later 562500 (SZn 0 (zn 5))).clock ∧ (zn 9).since = 0
    ∧ (watched { zn 9 with okAt := some 0 } 2250000 12).okAt = some 0 ∧ (watched (zn 9) 11250000 1).okAt = none ∧ (zn 8).since + 11250000 ≤ 11250000
    ∧ 4 * (zn 9).setpt.toNat ≤ 5 * 12 ∧ 5 * 1 < 4 * (zn 9).setpt.toNat ∧ (zn 9).repeats < S.coolant.retry.toNat
    ∧ S.coolant.retry.toNat ≤ ({ zn 9 with repeats := 2 } : Zone).repeats ∧ ({ zn 10 with fence := true } : Zone).fence = true := by
  and_intros <;> decide +kernel
/-- A SETPT, MINFL and CAPW within the limits, and ones that are not; TWARN and TCRIT at and past 95. -/
theorem meets_Coolant_table : (((List.range 80).filter (fun y => y != 7)).map (fun y => (S.zone y).setpt.toNat)).sum + 8 ≤ 800 ∧ 4 ≤ 8 ∧ (0 : Nat) ≤ 100 ∧ ¬8 ≤ 4
    ∧ 95 ≤ 95 ∧ 95 < 96 := by
  and_intros <;> decide +kernel
-- R365, R368, R369, R372
theorem test_coolant : ((after (.leaveGrant 67) (SLv 128)).zone 67).granted = 128 ∧ ((after (.leaveGrant 67) (SLv 60000)).zone 67).waiting.length = 1
  ∧ ((after (.zoneEvaluation 0 12 86 10) S).zone 0).state = 1 ∧ ((after (.zoneEvaluation 0 12 95 10) S).zone 0).state = 2
  ∧ ((after (.dryDeclaration 7) (later 450000 (SZn 7 dry))).zone 7).state = 5 ∧ ((after (.evacuationVerify 7 1) (later 11250000 (SZn 7 { zn 9 with repeats := 2 }))).zone 7).state = 10
  ∧ ((after (.evacuationVerify 7 12) (later 2250000 (SZn 7 { zn 9 with okAt := some 0 }))).zone 7).state = 0 := by
  and_intros <;> decide +kernel

/-- Domain 1 with its structures in host memory. -/
def DKy (live : Bool) : Domain := { resetDomain with
  valid := true, keylive := live, attout := 0x8000_0001_0000, ownerek := 0x8000_0002_0000, wrapout := 0x8000_0003_0000 }
def SKy (live : Bool) : State := { S with domains := [(1, DKy live)] }
theorem meets_Keys : (SKy true).mem.wf = true ∧ canWrite (DKy true).attout.toNat = true ∧ (SKy true).readable (DKy true).attout.toNat 32 = true
    ∧ (∀ a, (SKy true).inClear a = true) ∧ (DKy true).jnlBase = 0 ∧ (DKy true).held = [] ∧ (DKy true).keylive = true
    ∧ (SKy true).readable (DKy true).ownerek.toNat 1184 = true ∧ canWrite (DKy true).wrapout.toNat = true ∧ ((SKy false).domain 1).keylive = false := by
  repeat' with_reducible apply And.intro
  all_goals first
    | decide +kernel
    | exact fun _ => rfl
theorem meets_Journals : ({ S with clock := 22500000768 } : State).clock % 1024 = 0
    ∧ ({ S with clock := 22500000768 } : State).periodAt < ({ S with clock := 22500000768 } : State).clock / 22500000000 ∧ (S.domain 1).held = []
    ∧ (∀ v, (S.vd v).summary = none) ∧ (∀ k, (S.domain k).jnlBase = 0) :=
  ⟨by decide +kernel, by decide +kernel, rfl,
    fun v => by show (Tbl.get resetVD [(3, V)] v).summary = none; unfold Tbl.get; split <;> rfl,
    fun k => by
      show (Tbl.get resetDomain [(1, { resetDomain with valid := true, keylive := true })] k).jnlBase = 0
      unfold Tbl.get
      split <;> rfl⟩
/-- Below a sector that is dirty in L2, the memory side holds other bytes. -/
def SUn : State := { S with under := [(5, { bytes := List.replicate 128 7, sound := true, tag := none })] }
theorem meets_Resets : (SUn.under.map (fun e => e.1)).Nodup ∧ (∀ e ∈ SUn.under, e.1 < 2 ^ 33 ∧ e.2.bytes.length = 128) ∧ SUn.mem.wf = true
    ∧ (after (.warmReset true) SUn).mem.read 640 = 7 := by
  and_intros <;> decide +kernel
theorem meets_Registers : S.sw.go = false ∧ (S.queue 9).enable = false ∧ (waitPkt.queue 9).enable = true ∧ (S.vd 3).domain.toNat = 1
    ∧ S.domOf (waitPkt.queue 9).vd.toNat = 1 := by
  and_intros <;> decide +kernel
/-- R395, R397: a journal period counts and saves SEQ; a cold reset counts on from it and keeps host memory. -/
theorem test_resets : ((after .journalPeriod { S with clock := 22500000768 }).domain 1).nvcount = 1
  ∧ (after .coldReset { S with mem := [(5, 1), (0x8000_0000_0000, 2)] }).mem = [(0x8000_0000_0000, 2)]
  ∧ (after .coldReset S).teams = [] ∧ ((after (.registerWrite .fw .queue (0x20 * 9) 0x7000) S).queue 9).base = 0x7000 := by
  and_intros <;> decide +kernel

end Sys2Proof.Tests
end

/-! ## Steps and the table of teams

What every operation of the model does to the table of teams (R25): most leave it as it is (`…_teams`), the others keep it
in ascending order of context ids with each team under its own (`…_teamsOk`); so does every step (`…_nextOk`). -/

section
namespace Sys2Proof.Machine

/-! ### Operations that leave the teams as they are -/

@[simp] theorem foldl_teams {α : Type} (f : State → α → State) (hf : ∀ s a, (f s a).teams = s.teams) (l : List α)
    (s : State) :
    (l.foldl f s).teams = s.teams :=
  List.foldlRecOn (motive := fun b => b.teams = s.teams) l f rfl (fun _ h _ _ => (hf _ _).trans h)

@[simp] theorem foldl_snd_teams {α β : Type} (f : β × State → α → β × State) (hf : ∀ x a, (f x a).2.teams = x.2.teams)
    (l : List α) (x : β × State) :
    (l.foldl f x).2.teams = x.2.teams :=
  List.foldlRecOn (motive := fun b => b.2.teams = x.2.teams) l f rfl (fun _ h _ _ => (hf _ _).trans h)

@[simp] theorem ite_teams (p : Prop) [Decidable p] (a b : State) :
    (if p then a else b).teams = if p then a.teams else b.teams := by
  split <;> rfl

@[simp] theorem ite_snd_teams {β : Type} (p : Prop) [Decidable p] (a b : β × State) :
    (if p then a else b).2.teams = if p then a.2.teams else b.2.teams := by
  split <;> rfl

/-! ### Access -/

@[simp] theorem State.pick_teams (s : State) (n : ℕ) : (s.pick n).2.teams = s.teams := by simp [State.pick]
@[simp] theorem State.flip_teams (s : State) : s.flip.2.teams = s.teams := by simp [State.flip]
@[simp] theorem State.fresh_teams (s : State) : s.fresh.2.teams = s.teams := by simp [State.fresh]
@[simp] theorem State.passTime_teams (s : State) (n : ℕ) : (s.passTime n).teams = s.teams := by simp [State.passTime]
@[simp] theorem State.readUni_teams (s : State) (f ctx r : ℕ) : (s.readUni f ctx r).2.teams = s.teams := by
  simp [State.readUni]
@[simp] theorem State.writeUni_teams (s : State) (f ctx r : ℕ) (v : Word) :
    (s.writeUni f ctx r v).teams = s.teams := by
  simp [State.writeUni, State.modFam]
@[simp] theorem State.readQ_teams (s : State) (f ctx n : ℕ) : (s.readQ f ctx n).2.teams = s.teams := by
  simp [State.readQ]
@[simp] theorem State.writeQ_teams (s : State) (f ctx n : ℕ) (b : Bool) : (s.writeQ f ctx n b).teams = s.teams := by
  simp [State.writeQ]
@[simp] theorem State.qPred_teams (s : State) (t : Team) (p : Pred) : (s.qPred t p).2.teams = s.teams := by
  simp [State.qPred]
@[simp] theorem State.readPair_teams (s : State) (t : Team) (r : Reg) : (s.readPair t r).2.teams = s.teams := by
  simp [State.readPair]
@[simp] theorem State.readOne_teams (s : State) (t : Team) (r : Reg) : (s.readOne t r).2.teams = s.teams := by
  simp [State.readOne]
@[simp] theorem State.writeRegs_teams (s : State) (f ctx : ℕ) (r : Reg) (n : ℕ) (v : DWord) :
    (s.writeRegs f ctx r n v).teams = s.teams := by
  simp [State.writeRegs]
@[simp] theorem State.wakeCause_teams (s : State) (c bit : ℕ) : (s.wakeCause c bit).teams = s.teams := by
  simp [State.wakeCause]
@[simp] theorem State.yieldCore_teams (s : State) (t : Team) : (s.yieldCore t).teams = s.teams := by
  simp [State.yieldCore, State.modCore]
@[simp] theorem State.wakeBar_teams (s : State) (g off : ℕ) : (s.wakeBar g off).teams = s.teams := by
  simp [State.wakeBar]

/-! ### Start -/

@[simp] theorem State.pickRow_teams (s : State) (used : List ℕ) (n : ℕ) : (s.pickRow used n).2.teams = s.teams := by
  simp [State.pickRow]
@[simp] theorem State.startRows_teams (s : State) (n n2 : ℕ) (l : List ℕ) :
    (s.startRows n n2 l).2.teams = s.teams := by
  fun_induction State.startRows <;> grind [State.pickRow_teams]
@[simp] theorem State.freshQuads_teams (s : State) (mask : BitVec 4) : (s.freshQuads mask).2.teams = s.teams := by
  simp [State.freshQuads]
@[simp] theorem State.dropFams_teams (s : State) (gs : List ℕ) : (s.dropFams gs).teams = s.teams := by
  simp [State.dropFams]

/-! ### Ops -/

@[simp] theorem State.purgeTeam_teams (s : State) (t : Team) : (s.purgeTeam t).teams = s.teams := by
  simp [State.purgeTeam]
@[simp] theorem State.dropQueued_teams (s : State) (t : Team) : (s.dropQueued t).teams = s.teams := by
  simp [State.dropQueued, State.modGroup, State.modCore]
@[simp] theorem State.chargeLeave_teams (s : State) (gs : List Leave) : (s.chargeLeave gs).teams = s.teams := by
  simp [State.chargeLeave, State.setVD]
@[simp] theorem State.dropLeave_teams (s : State) (p : LeaveBy → Bool) : (s.dropLeave p).teams = s.teams := by
  simp [State.dropLeave]
@[simp] theorem State.closeSession_teams (s : State) (f : ℕ) : (s.closeSession f).teams = s.teams := by
  unfold State.closeSession; split <;> simp
@[simp] theorem State.dropEngineWork_teams (s : State) (g f : ℕ) : (s.dropEngineWork g f).teams = s.teams := by
  simp [State.dropEngineWork, State.setGroup, State.modCore]
@[simp] theorem State.lapseGone_teams (s : State) (g : ℕ) : (s.lapseGone g).teams = s.teams := by
  simp [State.lapseGone]

/-! ### Operands -/

@[simp] theorem State.readSrc_teams (s : State) (t : Team) (uni : Bool) (x : Src) :
    (s.readSrc t uni x).2.teams = s.teams := by
  simp only [State.readSrc]
  repeat' split
  all_goals simp
@[simp] theorem State.readSrcs_teams (s : State) (t : Team) (uni : Bool) (l : List Src) :
    (s.readSrcs t uni l).2.teams = s.teams := by
  fun_induction State.readSrcs <;> grind [State.readSrc_teams]
@[simp] theorem State.writeUniOut_teams (s : State) (f ctx : ℕ) (d : OpDesc) (v : DWord) :
    (s.writeUniOut f ctx d v).teams = s.teams := by
  unfold State.writeUniOut; split <;> simp
@[simp] theorem State.writeUni2_teams (s : State) (f ctx : ℕ) (d : OpDesc) (flag : Bool) (absent : DWord) :
    (s.writeUni2 f ctx d flag absent).teams = s.teams := by
  unfold State.writeUni2; split <;> simp

/-! ### EngineOps -/

@[simp] theorem State.setEngine_teams (s : State) (g k : ℕ) (e : Engine) : (s.setEngine g k e).teams = s.teams := by
  simp [State.setEngine, State.modGroup]
@[simp] theorem State.engineStop_teams (s : State) (g k : ℕ) : (s.engineStop g k).teams = s.teams := by
  simp [State.engineStop, State.setEngine, State.modFam]

/-! ### Flits -/

@[simp] theorem State.diePath_teams (s : State) (a b : ℕ) : (s.diePath a b).2.teams = s.teams := by
  simp [State.diePath]
@[simp] theorem State.wayTo_teams (s : State) (own : ℕ) (welt : Option ℕ) (t : Target) :
    (s.wayTo own welt t).2.teams = s.teams := by
  simp [State.wayTo]
@[simp] theorem State.wayBack_teams (s : State) (t : Target) (own : ℕ) : (s.wayBack t own).2.teams = s.teams := by
  simp [State.wayBack]
@[simp] theorem State.pushFlit_teams (s : State) (v id : ℕ) (l : List ℕ) : (s.pushFlit v id l).teams = s.teams := by
  unfold State.pushFlit; split <;> simp
@[simp] theorem State.setOut_teams (s : State) (welt : Option ℕ) (r : Req) : (s.setOut welt r).2.teams = s.teams := by
  simp [State.setOut]
@[simp] theorem State.setOutAll_teams (s : State) (welt : Option ℕ) (l : List Req) :
    (s.setOutAll welt l).2.teams = s.teams := by
  fun_induction State.setOutAll <;> grind [State.setOut_teams]
@[simp] theorem State.sendReqs_teams (s : State) (rs : List Req) : (s.sendReqs rs).teams = s.teams := by
  simp [State.sendReqs]
@[simp] theorem State.sendBack_teams (s : State) (group : ℕ) (a : Answer) : (s.sendBack group a).teams = s.teams := by
  simp [State.sendBack]

/-! ### PhysMem -/

@[simp] theorem State.mend_teams (s : State) (pa : ℕ) : (s.mend pa).teams = s.teams := by simp [State.mend]
@[simp] theorem State.freeBytes_teams (s : State) (n : ℕ) : (s.freeBytes n).2.teams = s.teams := by
  simp [State.freeBytes]
@[simp] theorem State.readClear1_teams (s : State) (pa n : ℕ) : (s.readClear1 pa n).2.teams = s.teams := by
  simp [State.readClear1]
@[simp] theorem State.readClear_teams (s : State) (n n2 n3 : ℕ) : (s.readClear n n2 n3).2.teams = s.teams := by
  fun_induction State.readClear <;> grind [State.readClear1_teams]
@[simp] theorem State.rdBytes_teams (s : State) (pa n : ℕ) : (s.rdBytes pa n).2.teams = s.teams := by
  simp [State.rdBytes]
@[simp] theorem State.rdNum_teams (s : State) (pa n : ℕ) : (s.rdNum pa n).2.teams = s.teams := by simp [State.rdNum]
@[simp] theorem State.poison_teams (s : State) (pa : ℕ) : (s.poison pa).teams = s.teams := by simp [State.poison]
@[simp] theorem State.cleanse_teams (s : State) (pa : ℕ) : (s.cleanse pa).teams = s.teams := by simp [State.cleanse]
@[simp] theorem State.writeSector_teams (s : State) (pa : ℕ) (bytes : Tbl Byte) (tag : Option SecTag) (keep : Bool) :
    (s.writeSector pa bytes tag keep).teams = s.teams := by
  simp [State.writeSector]
@[simp] theorem State.writeClear_teams (s : State) (n n2 : ℕ) (l : List Byte) :
    (s.writeClear n n2 l).teams = s.teams := by
  fun_induction State.writeClear <;> grind [State.writeSector_teams]
@[simp] theorem State.wrBytes_teams (s : State) (pa : ℕ) (bs : List Byte) : (s.wrBytes pa bs).teams = s.teams := by
  simp [State.wrBytes]
@[simp] theorem State.movedSlot_teams (s : State) (base g slot : ℕ) : (s.movedSlot base g slot).2.teams = s.teams := by
  simp [State.movedSlot]
@[simp] theorem State.movedSearch_teams (s : State) (base g : ℕ) (l : List ℕ) :
    (s.movedSearch base g l).2.teams = s.teams := by
  fun_induction State.movedSearch <;> grind [State.movedSlot_teams]
@[simp] theorem State.holdHome_teams (s : State) (die : ℕ) (e : HomeEnt) : (s.holdHome die e).teams = s.teams := by
  simp [State.holdHome]
@[simp] theorem State.homeOf_teams (s : State) (v die va : ℕ) : (s.homeOf v die va).2.teams = s.teams := by
  grind [State.homeOf, State.movedSearch_teams, State.holdHome_teams]
@[simp] theorem State.walk_teams (s : State) (va n n2 : ℕ) : (s.walk va n n2).2.teams = s.teams := by
  fun_induction State.walk <;> grind [State.rdNum_teams]
@[simp] theorem State.walkVd_teams (s : State) (v va : ℕ) : (s.walkVd v va).2.teams = s.teams := by
  simp [State.walkVd]
@[simp] theorem State.holdLeaf_teams (s : State) (stack asid va : ℕ) (l : Leaf) :
    (s.holdLeaf stack asid va l).teams = s.teams := by
  simp [State.holdLeaf]
@[simp] theorem State.leafFor_teams (s : State) (v stack va : ℕ) : (s.leafFor v stack va).2.teams = s.teams := by
  simp only [State.leafFor]
  repeat' split
  all_goals simp
@[simp] theorem State.translate_teams (s : State) (v stack ch va : ℕ) (acc : BitVec 2) :
    (s.translate v stack ch va acc).2.teams = s.teams := by
  grind [State.translate, State.leafFor_teams, State.holdLeaf_teams, State.setWelt_teams, State.setWelt]
@[simp] theorem State.noteCorrected_teams (s : State) (v pa : ℕ) : (s.noteCorrected v pa).teams = s.teams := by
  simp [State.noteCorrected]
@[simp] theorem State.readHome_teams (s : State) (v pa : ℕ) (tag : SecTag) :
    (s.readHome v pa tag).2.2.teams = s.teams := by
  unfold State.readHome; split <;> simp
@[simp] theorem State.writeHome_teams (s : State) (v pa : ℕ) (tag : SecTag) (bytes : Tbl Byte) :
    (s.writeHome v pa tag bytes).teams = s.teams := by
  unfold State.writeHome
  repeat' split
  all_goals simp

/-! ### Reports -/

@[simp] theorem State.modVD_teams (s : State) (v : ℕ) (f : VD → VD) : (s.modVD v f).teams = s.teams := by
  simp [State.modVD, State.setVD]
@[simp] theorem State.sendMsix_teams (s : State) (v : ℕ) : (s.sendMsix v).teams = s.teams := by simp [State.sendMsix]
@[simp] theorem State.logPkg_teams (s : State) (e : LogEnt) : (s.logPkg e).teams = s.teams := by simp [State.logPkg]
@[simp] theorem State.postEvent_teams (s : State) (v : ℕ) (incarn : Byte) (kind src detail : ℕ) :
    (s.postEvent v incarn kind src detail).teams = s.teams := by
  simp [State.postEvent]
@[simp] theorem State.errorReport_teams (s : State) (v : ℕ) (incarn : Byte) (r : ErrRec) :
    (s.errorReport v incarn r).teams = s.teams := by
  unfold State.errorReport; split <;> simp
@[simp] theorem State.reportPoisoned_teams (s : State) (v : ℕ) (incarn : Byte) (ctx va pc word core stack ch : ℕ) :
    (s.reportPoisoned v incarn ctx va pc word core stack ch).teams = s.teams := by
  simp [State.reportPoisoned]
@[simp] theorem State.writeFault_teams (s : State) (v : ℕ) (incarn : Byte) (rec_ : List Byte) :
    (s.writeFault v incarn rec_).teams = s.teams := by
  simp [State.writeFault]
@[simp] theorem State.faultRecord_teams (s : State) (v : ℕ) (incarn : Byte) (rec_ : List Byte) :
    (s.faultRecord v incarn rec_).teams = s.teams := by
  simp [State.faultRecord]
@[simp] theorem State.drainFaults_teams (s : State) (v n : ℕ) : (s.drainFaults v n).teams = s.teams := by
  fun_induction State.drainFaults <;> simp_all
@[simp] theorem State.modDomain_teams (s : State) (k : ℕ) (f : Domain → Domain) :
    (s.modDomain k f).teams = s.teams := by
  simp [State.modDomain, State.setDomain]
@[simp] theorem State.putSlots_teams (s : State) (k n : ℕ) (l : List Byte) : (s.putSlots k n l).teams = s.teams := by
  fun_induction State.putSlots <;> grind [State.wrBytes_teams, State.modDomain_teams]
@[simp] theorem State.drainJournal_teams (s : State) (k n : ℕ) : (s.drainJournal k n).teams = s.teams := by
  fun_induction State.drainJournal <;> simp [*]
@[simp] theorem State.journal_teams (s : State) (k kind v : ℕ) (incarn : Byte) (q : List ℕ) (more : List Byte) :
    (s.journal k kind v incarn q more).teams = s.teams := by
  unfold State.journal; exact State.drainJournal_teams _ _ _

/-! ### Lines -/

@[simp] theorem State.setL2_teams (s : State) (slice : ℕ) (ls : List CacheLine) :
    (s.setL2 slice ls).teams = s.teams := by
  simp [State.setL2]
@[simp] theorem State.setMsc_teams (s : State) (bank : ℕ) (ls : List CacheLine) :
    (s.setMsc bank ls).teams = s.teams := by
  simp [State.setMsc]
@[simp] theorem State.spendFill_teams (s : State) (inst v : ℕ) (b : Bucket) :
    (s.spendFill inst v b).teams = s.teams := by
  simp [State.spendFill]
@[simp] theorem State.putImage_teams (s : State) (q : ℕ) (x : SecImg) : (s.putImage q x).teams = s.teams := by
  simp [State.putImage]
@[simp] theorem State.soil_teams (s : State) (pa : ℕ) : (s.soil pa).teams = s.teams := by simp [State.soil]
@[simp] theorem State.sink_teams (s : State) (pa : ℕ) : (s.sink pa).teams = s.teams := by simp [State.sink]
@[simp] theorem State.lowerLines_teams (s : State) (p : ℕ → ℕ → Bool) : (s.lowerLines p).teams = s.teams := by
  simp [State.lowerLines, State.setL2, State.setMsc]
@[simp] theorem State.queueReq_teams (s : State) (ch v pa : ℕ) (offs : List ℕ) (read : Bool) :
    (s.queueReq ch v pa offs read).teams = s.teams := by
  simp [State.queueReq, State.setChan]
@[simp] theorem State.leaveMsc_teams (s : State) (ls : List CacheLine) : (s.leaveMsc ls).teams = s.teams := by
  simp [State.leaveMsc]
@[simp] theorem State.fillMsc_teams (s : State) (v : ℕ) (x : LineSec) : (s.fillMsc v x).2.teams = s.teams := by
  simp only [State.fillMsc]
  repeat' split
  all_goals simp
@[simp] theorem State.writeMsc_teams (s : State) (v : ℕ) (l : Leaf) (pa : ℕ) (offs : List ℕ) :
    (s.writeMsc v l pa offs).teams = s.teams := by
  grind [State.writeMsc, State.fillMsc_teams, State.sink_teams, State.queueReq_teams]
@[simp] theorem State.outPath_teams (s : State) (pa : ℕ) : (s.outPath pa).2.teams = s.teams := by simp [State.outPath]
@[simp] theorem State.putTrip_teams (s : State) (t : Trip) : (s.putTrip t).teams = s.teams := by simp [State.putTrip]
@[simp] theorem State.dropTrip_teams (s : State) (id : ℕ) : (s.dropTrip id).teams = s.teams := by
  simp [State.dropTrip]
@[simp] theorem State.depart_teams (s : State) (t : Trip) (st : TripStage) (way : List ℕ) :
    (s.depart t st way).1.teams = s.teams := by
  simp [State.depart]
@[simp] theorem State.leaveL2_teams (s : State) (ls : List CacheLine) : (s.leaveL2 ls).teams = s.teams := by
  simp [State.leaveL2]
@[simp] theorem State.fillL2_teams (s : State) (v die va : ℕ) (x : LineSec) :
    (s.fillL2 v die va x).teams = s.teams := by
  simp only [State.fillL2]
  repeat' split
  all_goals simp
@[simp] theorem State.countPage_teams (s : State) (v stack va core : ℕ) :
    (s.countPage v stack va core).teams = s.teams := by
  simp [State.countPage]
@[simp] theorem State.homeward_teams (s : State) (t : Trip) : (s.homeward t).2.teams = s.teams := by
  unfold State.homeward; split <;> simp
@[simp] theorem State.runTrip_teams (n : ℕ) (s : State) (x : Trip) : (State.runTrip n s x).teams = s.teams := by
  fun_induction State.runTrip <;> grind [State.putTrip_teams, State.homeward_teams, State.depart_teams,
      State.writeMsc_teams, State.dropTrip_teams, State.translate_teams, State.countPage_teams, State.outPath_teams,
      State.fillMsc_teams, State.queueReq_teams, State.fillL2_teams]
@[simp] theorem State.outward_teams (s : State) (t : Trip) : (s.outward t).1.teams = s.teams := by
  unfold State.outward; split <;> simp
@[simp] theorem State.sendTrip_teams (s : State) (t : Trip) : (s.sendTrip t).teams = s.teams := by
  unfold State.sendTrip; split <;> simp
@[simp] theorem State.resetTrips_teams (s : State) (p : Trip → Bool) : (s.resetTrips p).teams = s.teams := by
  simp [State.resetTrips]
@[simp] theorem State.chanRead_teams (s : State) (ch : ℕ) (r : ChanReq) : (s.chanRead ch r).teams = s.teams := by
  simp [State.chanRead]
theorem State.unlessHeld_teams (s : State) {f : State → State} (hf : ∀ s, (f s).teams = s.teams) :
    (s.unlessHeld f).teams = s.teams := by
  simp only [State.unlessHeld]; split <;> simp [hf]
@[simp] theorem State.want_teams (s : State) (t : Trip) : (s.want t).teams = s.teams := by
  unfold State.want; split <;> simp
@[simp] theorem State.hold_teams (s : State) : s.hold.teams = s.teams := by unfold State.hold; split <;> simp

/-! ### Cache -/

@[simp] theorem State.moveDown_teams (s : State) (v stack va : ℕ) : (s.moveDown v stack va).teams = s.teams := by
  simp only [State.moveDown]
  repeat' split
  all_goals simp
@[simp] theorem State.homeNow_teams (s : State) (w : Who) (stack ch va : ℕ) (acc : BitVec 2) :
    (s.homeNow w stack ch va acc).2.teams = s.teams := by
  grind [State.homeNow, State.translate_teams, State.countPage_teams, State.fillMsc_teams, State.fillL2_teams]
@[simp] theorem State.askHome_teams (s : State) (w : Who) (va : ℕ) (acc : BitVec 2) :
    (s.askHome w va acc).2.teams = s.teams := by
  unfold State.askHome
  split <;> grind [State.homeOf_teams, State.moveDown_teams, State.fillL2_teams, State.homeNow_teams,
      State.putTrip_teams, State.translate_teams, State.want_teams]
@[simp] theorem State.updateRdcs_teams (s : State) (writerDie home key : ℕ) (bytes : Tbl Byte) :
    (s.updateRdcs writerDie home key bytes).teams = s.teams := by
  grind [State.updateRdcs, foldl_teams, State.setDie_teams, State.flip_teams, State.setDie]
@[simp] theorem State.soilHome_teams (s : State) (w : Who) (va : ℕ) (h : Home) (offs : List ℕ) :
    (s.soilHome w va h offs).teams = s.teams := by
  simp only [State.soilHome]
  repeat' split
  all_goals simp
@[simp] theorem State.putHome_teams (s : State) (w : Who) (va : ℕ) (h : Home) (bytes : Tbl Byte) :
    (s.putHome w va h bytes).teams = s.teams := by
  simp [State.putHome]
@[simp] theorem State.writeBack_teams (s : State) (core key : ℕ) (e : Sector) :
    (s.writeBack core key e).teams = s.teams := by
  grind [State.writeBack, State.askHome_teams, State.putHome_teams]
@[simp] theorem State.setL1_teams (s : State) (c : ℕ) (t : Tbl Sector) : (s.setL1 c t).teams = s.teams := by
  simp [State.setL1, State.modCore]
@[simp] theorem State.flushSector_teams (s : State) (c key : ℕ) : (s.flushSector c key).teams = s.teams := by
  unfold State.flushSector; split <;> simp
@[simp] theorem State.releaseL1_teams (s : State) (c : ℕ) (sc : Scope) : (s.releaseL1 c sc).teams = s.teams := by
  simp [State.releaseL1]
@[simp] theorem State.acquireL1_teams (s : State) (c : ℕ) (sc : Scope) : (s.acquireL1 c sc).teams = s.teams := by
  simp [State.acquireL1]
@[simp] theorem State.evictWay_teams (s : State) (c set w : ℕ) : (s.evictWay c set w).teams = s.teams := by
  simp [State.evictWay]
@[simp] theorem State.allocL1_teams (s : State) (c v key : ℕ) : (s.allocL1 c v key).2.teams = s.teams := by
  unfold State.allocL1
  repeat' split
  all_goals simp
@[simp] theorem State.touchL1_teams (s : State) (c key : ℕ) (e : Sector) : (s.touchL1 c key e).teams = s.teams := by
  simp [State.touchL1, State.setL1]
@[simp] theorem State.direct_teams (s : State) (w : Who) (va : ℕ) : (s.direct w va).2.teams = s.teams := by
  grind [State.direct, State.askHome_teams, State.readHome_teams, State.reportPoisoned_teams]
@[simp] theorem State.fillRdc_teams (s : State) (die v va : ℕ) (b : List Byte) (write : Bool) :
    (s.fillRdc die v va b write).teams = s.teams := by
  simp only [State.fillRdc]
  repeat' split
  all_goals simp
@[simp] theorem State.viaRdc_teams (s : State) (w : Who) (va : ℕ) : (s.viaRdc w va).2.teams = s.teams := by
  grind [State.viaRdc, State.fresh_teams, State.setDie_teams, State.direct_teams, State.fillRdc_teams]
@[simp] theorem State.below_teams (s : State) (w : Who) (va : ℕ) : (s.below w va).2.teams = s.teams := by
  grind [State.below, State.homeOf_teams, State.direct_teams, State.viaRdc_teams]
@[simp] theorem State.loadVirt_teams (s : State) (w : Who) (va n : ℕ) : (s.loadVirt w va n).2.teams = s.teams := by
  grind [State.loadVirt, State.below_teams, State.allocL1_teams, State.touchL1_teams, State.flip_teams]
@[simp] theorem State.storeVirt_teams (s : State) (w : Who) (va : ℕ) (bytes : Tbl Byte) (sc : Scope) :
    (s.storeVirt w va bytes sc).2.teams = s.teams := by
  grind [State.storeVirt, State.touchL1_teams, State.askHome_teams, State.putHome_teams, State.flushSector_teams,
      State.allocL1_teams]
@[simp] theorem State.renewRdc_teams (s : State) (w : Who) (va : ℕ) (b : List Byte) :
    (s.renewRdc w va b).teams = s.teams := by
  simp only [State.renewRdc]
  repeat' split
  all_goals simp
@[simp] theorem State.atHomeGen_teams {α : Type} (whole : Bool) (s : State) (w : Who) (va : ℕ) (acc : BitVec 2) (f :
    List Byte → Tbl Byte × α) :
    (State.atHomeGen whole s w va acc f).2.teams = s.teams := by
  grind [State.atHomeGen, State.flushSector_teams, State.askHome_teams, State.readHome_teams,
      State.reportPoisoned_teams, State.putHome_teams, State.renewRdc_teams]
@[simp] theorem State.atHomeDo_teams {α : Type} (s : State) (w : Who) (va : ℕ) (acc : BitVec 2) (f : List Byte → Tbl
    Byte × α) :
    (s.atHomeDo w va acc f).2.teams = s.teams := by
  simp [State.atHomeDo]
@[simp] theorem State.pathFill_teams (s : State) (w : Who) (va : ℕ) : (s.pathFill w va).2.teams = s.teams := by
  grind [State.pathFill, State.below_teams]
@[simp] theorem State.putPath_teams (s : State) (t : Tbl Sector) (n key : ℕ) (e : Sector) :
    (s.putPath t n key e).2.teams = s.teams := by
  simp [State.putPath]
@[simp] theorem State.pathRead_teams (s : State) (w : Who) (tile : Bool) (va n : ℕ) :
    (s.pathRead w tile va n).2.teams = s.teams := by
  grind [State.pathRead, State.pathFill_teams, State.putPath_teams, State.modCore_teams, State.flip_teams,
      State.modCore]

/-! ### Net -/

@[simp] theorem State.readMem_teams (s : State) (f ctx welt : ℕ) (r : Reg) (n : ℕ) :
    (s.readMem f ctx welt r n).2.teams = s.teams := by
  simp [State.readMem]
@[simp] theorem State.writeMem_teams (s : State) (f ctx welt : ℕ) (r : Reg) (n : ℕ) (v : DWord) :
    (s.writeMem f ctx welt r n v).teams = s.teams := by
  simp [State.writeMem]

/-! ### Issue -/

@[simp] theorem State.guard_teams (s : State) (t : Team) (uni : Bool) (p : Pred) :
    (s.guard t uni p).2.teams = s.teams := by
  simp [State.guard]
@[simp] theorem State.descAtWelt_teams (s : State) (f ctx w : ℕ) (d : OpDesc) (pk : Packet) :
    (s.descAtWelt f ctx w d pk).1.teams = s.teams := by
  simp only [State.descAtWelt]
  repeat' split
  all_goals simp

/-! ### Diverge -/

@[simp] theorem State.joinUniform_teams (s : State) (f ctx : ℕ) (also : Option ℕ) :
    (s.joinUniform f ctx also).teams = s.teams := by
  simp [State.joinUniform, State.setFam]
@[simp] theorem State.either_teams {α : Type} [DecidableEq α] (s : State) (a b : α) :
    (s.either a b).2.teams = s.teams := by
  simp [State.either]

/-! ### Halts -/

@[simp] theorem State.sendRecord_teams (s : State) (t : Team) (r : FRec) : (s.sendRecord t r).teams = s.teams := by
  simp [State.sendRecord]
@[simp] theorem State.parkEngine_teams (s : State) (g k : ℕ) (r : FRec) : (s.parkEngine g k r).teams = s.teams := by
  simp [State.parkEngine]
@[simp] theorem State.stopDrain_teams (s : State) (a : ℕ) : (s.stopDrain a).teams = s.teams := by
  simp [State.stopDrain]

/-! ### Race -/

theorem State.recordAcc_teams {s s' : State} {ctx core : ℕ} {i : PInst} {opened vid : ℕ} {a : RAcc}
    (h : s.recordAcc ctx core i opened vid a = some s') : s'.teams = s.teams := by
  unfold State.recordAcc at h
  grind
theorem State.recordAll_teams {s s' : State} {ctx core : ℕ} {i : PInst} {opened vid : ℕ} {as : List RAcc}
    (h : s.recordAll ctx core i opened vid as = some s') : s'.teams = s.teams := by
  fun_induction State.recordAll <;> grind [State.recordAcc_teams]
@[simp] theorem State.orderAll_teams (s : State) (ctx : ℕ) : (s.orderAll ctx).teams = s.teams := by
  simp [State.orderAll]
@[simp] theorem State.markFetch_teams (s : State) (ctx : ℕ) (p : PInst) (seq : BitVec 16) :
    (s.markFetch ctx p seq).teams = s.teams := by
  simp [State.markFetch]
@[simp] theorem State.orderFetch_teams (s : State) (ctx : ℕ) (p q : PInst) (seq : BitVec 16) :
    (s.orderFetch ctx p q seq).teams = s.teams := by
  simp [State.orderFetch]

/-! ### Exempt -/

@[simp] theorem State.homeHeld_teams (s : State) (v core va : ℕ) : (s.homeHeld v core va).2.teams = s.teams := by
  grind [State.homeHeld, State.homeOf_teams]
@[simp] theorem State.weltBase_teams (s : State) (t : Team) (w : ℕ) (m : MemDesc) (pk : Packet) :
    (s.weltBase t w m pk).2.teams = s.teams := by
  unfold State.weltBase; split <;> simp

/-! ### LinkPath -/

@[simp] theorem State.sendOn_teams (s : State) (i : ℕ) (r : Req) (t : Target) (way : List ℕ) :
    (s.sendOn i r t way).teams = s.teams := by
  simp [State.sendOn]
@[simp] theorem State.sendFrom_teams (s : State) (i : ℕ) (r : Req) (t : Target) :
    (s.sendFrom i r t).teams = s.teams := by
  simp [State.sendFrom]
@[simp] theorem State.sendOutside_teams (s : State) (i : ℕ) (r : Req) (pa : ℕ) :
    (s.sendOutside i r pa).teams = s.teams := by
  simp [State.sendOutside]
@[simp] theorem State.cross_teams (s : State) (l : ℕ) (f : Flit) : (s.cross l f).teams = s.teams := by
  unfold State.cross
  repeat' split
  all_goals simp

/-! ### LoadStore -/

@[simp] theorem State.teamWords_teams (s : State) (t : Team) (r : Reg) (n : ℕ) :
    (s.teamWords t r n).2.teams = s.teams := by
  fun_induction State.teamWords <;> grind [State.readUni_teams]
@[simp] theorem State.laneTarget_teams (s : State) (t : Team) (m : MemDesc) (l : PLane) :
    (s.laneTarget t m l).2.teams = s.teams := by
  grind [State.laneTarget, State.homeOf_teams]
@[simp] theorem State.laneTargets_teams (s : State) (t : Team) (m : MemDesc) (l : List PLane) :
    (s.laneTargets t m l).2.teams = s.teams := by
  fun_induction State.laneTargets <;> grind [State.laneTarget_teams]
@[simp] theorem State.accessSends_teams (s : State) (t : Team) (m : MemDesc) (ls : List PLane) :
    (s.accessSends t m ls).2.teams = s.teams := by
  simp [State.accessSends]
@[simp] theorem State.uniBase_teams (s : State) (t : Team) (m : MemDesc) : (s.uniBase t m).2.teams = s.teams := by
  unfold State.uniBase; split <;> simp
@[simp] theorem State.putUniWords_teams (s : State) (f ctx : ℕ) (key : ℕ → ℕ) (r : Reg) (ws : List DWord) :
    (s.putUniWords f ctx key r ws).teams = s.teams := by
  simp [State.putUniWords]

/-! ### Trans -/

@[simp] theorem State.txValid_teams (s : State) (w : Who) (log : List (ℕ × Byte)) (l : List ℕ) :
    (s.txValid w log l).2.teams = s.teams := by
  fun_induction State.txValid <;> grind [State.atHomeDo_teams]
@[simp] theorem State.txMayWrite_teams (s : State) (w : Who) (l : List ℕ) : (s.txMayWrite w l).2.teams = s.teams := by
  fun_induction State.txMayWrite <;> grind [State.atHomeDo_teams]
@[simp] theorem State.txApply_teams (s : State) (w : Who) (buf : List (ℕ × Byte)) :
    (s.txApply w buf).teams = s.teams := by
  simp [State.txApply]

/-! ### Perform -/

@[simp] theorem State.setFull_teams (s : State) (g off : ℕ) (b : Bool) : (s.setFull g off b).teams = s.teams := by
  simp [State.setFull]
@[simp] theorem State.spadLoad_teams (s : State) (m : MemDesc) (g : ℕ) (ls : List (PLane × ℕ)) :
    (s.spadLoad m g ls).2.teams = s.teams := by
  simp [State.spadLoad]
@[simp] theorem State.spadStore_teams (s : State) (m : MemDesc) (g : ℕ) (ls : List (PLane × ℕ)) :
    (s.spadStore m g ls).2.teams = s.teams := by
  simp [State.spadStore]
@[simp] theorem State.spadAtomic_teams (s : State) (m : MemDesc) (g : ℕ) (l : PLane × ℕ) :
    (s.spadAtomic m g l).2.teams = s.teams := by
  simp only [State.spadAtomic]
  repeat' split
  all_goals simp
theorem State.eachLane_teams {α : Type} {f : State → α → Perf × State} (hf : ∀ s a, (f s a).2.teams = s.teams) (s :
    State) (l : List α) :
    (State.eachLane f s l).2.teams = s.teams := by
  fun_induction State.eachLane <;> grind
@[simp] theorem State.performSpad_teams (s : State) (m : MemDesc) (g : ℕ) (ls : List (PLane × ℕ)) :
    (s.performSpad m g ls).2.teams = s.teams := by
  grind [State.performSpad, State.spadLoad_teams, State.spadStore_teams, foldl_teams, State.setFull_teams,
      State.eachLane_teams, State.spadAtomic_teams, State.setFull]
@[simp] theorem State.virtStore1_teams (s : State) (w : Who) (m : MemDesc) (direct : Bool) (ls : List (PLane × ℕ)) :
    (s.virtStore1 w m direct ls).2.teams = s.teams := by
  unfold State.virtStore1
  split <;> grind [State.atHomeDo_teams, State.storeVirt_teams]
@[simp] theorem State.virtAtomic_teams (s : State) (w : Who) (m : MemDesc) (l : PLane × ℕ) :
    (s.virtAtomic w m l).2.teams = s.teams := by
  grind [State.virtAtomic, State.atHomeDo_teams]
@[simp] theorem State.syncBefore_teams (s : State) (m : MemDesc) (core : ℕ) (window : Bool) :
    (s.syncBefore m core window).teams = s.teams := by
  simp [State.syncBefore]

/-! ### Place -/

@[simp] theorem State.setPlace_teams (s : State) (f : ℕ) (r : Reg) (e : PlaceEnt) :
    (s.setPlace f r e).teams = s.teams := by
  simp [State.setPlace, State.modFam]
@[simp] theorem State.setCell_teams (s : State) (f key : ℕ) (v : Word) : (s.setCell f key v).teams = s.teams := by
  simp [State.setCell, State.modFam]
@[simp] theorem State.delCell_teams (s : State) (f key : ℕ) : (s.delCell f key).teams = s.teams := by
  simp [State.delCell, State.modFam]
@[simp] theorem State.bindHome_teams (s : State) (t : Team) (a : DWord) : (s.bindHome t a).2.teams = s.teams := by
  simp [State.bindHome]
@[simp] theorem State.declTarget_teams (s : State) (t : Team) (k : DKind) (o : FMem) :
    (s.declTarget t k o).2.teams = s.teams := by
  unfold State.declTarget
  split <;> grind [State.readPair_teams, State.bindHome_teams]
@[simp] theorem State.newEntry_teams (s : State) (t : Team) (l : Loc) (a : DWord) (pend : Bool) :
    (s.newEntry t l a pend).2.teams = s.teams := by
  unfold State.newEntry; split <;> simp
@[simp] theorem State.arrived_teams (s : State) (t : Team) (seq : BitVec 16) (r : Reg) :
    (s.arrived t seq r).teams = s.teams := by
  simp [State.arrived]
@[simp] theorem State.placeAtWelt_teams (s : State) (t : Team) (w : ℕ) (pk : Packet) :
    (s.placeAtWelt t w pk).teams = s.teams := by
  simp only [State.placeAtWelt]
  repeat' split
  all_goals simp

/-! ### Awl -/

@[simp] theorem State.endSession_teams (s : State) (ch : ℕ) (code : Option ℕ) :
    (s.endSession ch code).teams = s.teams := by
  unfold State.endSession; split <;> simp
@[simp] theorem State.answerOn_teams (s : State) (ch status : ℕ) : (s.answerOn ch status).teams = s.teams := by
  unfold State.answerOn; split <;> simp
@[simp] theorem State.breakSession_teams (s : State) (ch early late : ℕ) :
    (s.breakSession ch early late).teams = s.teams := by
  unfold State.breakSession; split <;> simp
@[simp] theorem State.clearPage_teams (s : State) (v va : ℕ) : (s.clearPage v va).2.teams = s.teams := by
  grind [State.clearPage, State.walkVd_teams]
@[simp] theorem State.onStatus_teams (s : State) (t : Team) (ch va : ℕ) : (s.onStatus t ch va).2.teams = s.teams := by
  simp [State.onStatus]
@[simp] theorem State.awlOn_teams (s : State) (t : Team) (cls : ℕ) (r : Req) (ch va : ℕ) :
    (s.awlOn t cls r ch va).2.teams = s.teams := by
  unfold State.awlOn; split <;> simp
@[simp] theorem State.awlOff_teams (s : State) (t : Team) (ch : ℕ) : (s.awlOff t ch).2.teams = s.teams := by
  unfold State.awlOff
  repeat' split
  all_goals simp
@[simp] theorem State.awlmodeAt_teams (s : State) (t : Team) (r : Req) : (s.awlmodeAt t r).2.teams = s.teams := by
  unfold State.awlmodeAt
  repeat' split
  all_goals simp
@[simp] theorem State.recallL1_teams (s : State) (ch : ℕ) (l : List (ℕ × ℕ)) : (s.recallL1 ch l).teams = s.teams := by
  fun_induction State.recallL1 <;> grind [State.homeOf_teams, State.flushSector_teams]
@[simp] theorem State.recallRdc_teams (s : State) (ch d : ℕ) (l : List ℕ) : (s.recallRdc ch d l).teams = s.teams := by
  fun_induction State.recallRdc <;> grind [State.homeOf_teams, State.setDie_teams]
@[simp] theorem State.recallChan_teams (s : State) (ch : ℕ) : (s.recallChan ch).teams = s.teams := by
  simp [State.recallChan]
@[simp] theorem State.setBank_teams (s : State) (f : ℕ) (r : Reg) (b : Banks) : (s.setBank f r b).teams = s.teams := by
  simp [State.setBank]
@[simp] theorem State.awlbcAt_teams (s : State) (f : ℕ) (all : Bool) (o : F3) (ls : List PLane) :
    (s.awlbcAt f all o ls).teams = s.teams := by
  simp [State.awlbcAt]
@[simp] theorem State.awlPage_teams (s : State) (v ch va : ℕ) : (s.awlPage v ch va).2.teams = s.teams := by
  grind [State.awlPage, State.homeOf_teams, State.translate_teams]
@[simp] theorem State.burst_teams (s : State) (v page : ℕ) (l : Leaf) (pa : ℕ) :
    (s.burst v page l pa).2.2.teams = s.teams := by
  grind [State.burst, State.readHome_teams]
@[simp] theorem State.awlmacBank_teams (s : State) (v page : ℕ) (l : Leaf) (pa : ℕ) (m : Family) (o : F3) (j k : ℕ) :
    (s.awlmacBank v page l pa m o j k).2.2.2.teams = s.teams := by
  simp [State.awlmacBank]
@[simp] theorem State.awlmacBanks_teams (s : State) (v page : ℕ) (l : Leaf) (pa f : ℕ) (m : Family) (o : F3) (j : ℕ)
    (ks : List ℕ) :
    (s.awlmacBanks v page l pa f m o j ks).2.teams = s.teams := by
  induction ks generalizing s with
  | nil => rfl
  | cons k ks ih => simp [State.awlmacBanks, ih]
@[simp] theorem State.awlmacAt_teams (s : State) (t : Team) (o : F3) (ch : ℕ) (l : PLane) :
    (s.awlmacAt t o ch l).2.teams = s.teams := by
  grind [State.awlmacAt, State.endSession_teams, State.setChan_teams, State.awlPage_teams, State.awlmacBanks_teams,
      State.setChan]
@[simp] theorem State.awlAt_teams (s : State) (t : Team) (ch : ℕ) (r : Req) : (s.awlAt t ch r).2.teams = s.teams := by
  unfold State.awlAt
  repeat' split
  all_goals simp

/-! ### Image -/

@[simp] theorem layOut_teams (l : List ImgPart) (s : State) : (layOut l s).2.teams = s.teams := by
  fun_induction layOut <;> grind [State.freeBytes_teams]
@[simp] theorem State.writeArea_teams (s : State) (v n n2 : ℕ) (l : List Byte) :
    (s.writeArea v n n2 l).teams = s.teams := by
  fun_induction State.writeArea <;> grind [State.writeHome_teams]
@[simp] theorem State.writeImage_teams (s : State) (v pa : ℕ) (ps : List ImgPart) :
    (s.writeImage v pa ps).teams = s.teams := by
  simp [State.writeImage]
@[simp] theorem State.writeImages_teams (s : State) (g : ℕ) : (s.writeImages g).teams = s.teams := by
  simp [State.writeImages]
@[simp] theorem State.markImage_teams (s : State) (t : Team) : (s.markImage t).teams = s.teams := by
  simp [State.markImage]

/-! ### Nest -/

@[simp] theorem State.readEa_teams (s : State) (t : Team) (w : Who) (ea : DWord) (n : ℕ) :
    (s.readEa t w ea n).2.teams = s.teams := by
  unfold State.readEa; split <;> simp
@[simp] theorem State.writeEa_teams (s : State) (t : Team) (w : Who) (ea : DWord) (bs : List Byte) :
    (s.writeEa t w ea bs).2.teams = s.teams := by
  unfold State.writeEa; split <;> simp
@[simp] theorem State.nestReads_teams (s : State) (t : Team) (w : Who) (z : ℕ) (l : List (ℕ × DWord)) :
    (s.nestReads t w z l).2.teams = s.teams := by
  fun_induction State.nestReads <;> grind [State.readEa_teams]
@[simp] theorem State.ragSkip_teams (s : State) (t : Team) (w : Who) (base : DWord) (n n2 : ℕ) (x : ℕ × ℕ) (x2 :
    RagRead) :
    (s.ragSkip t w base n n2 x x2).2.2.teams = s.teams := by
  fun_induction State.ragSkip <;> grind [State.readEa_teams]
@[simp] theorem State.ragHand_teams (s : State) (t : Team) (w : Who) (base : DWord) (n : ℕ) (ls : List PLane) (rc : ℕ × ℕ)
    (rd : RagRead) : (s.ragHand t w base n ls rc rd).2.2.2.teams = s.teams := by
  induction ls generalizing s rc rd with
  | nil => simp [State.ragHand]
  | cons l ls ih => simp [State.ragHand, ih]

/-! ### Requests -/

@[simp] theorem State.seeGen_teams (s : State) (r : Req) : (s.seeGen r).teams = s.teams := by simp [State.seeGen]
@[simp] theorem State.sendAnswer_teams (s : State) (r : Req) (p : Perf) : (s.sendAnswer r p).teams = s.teams := by
  simp [State.sendAnswer]
@[simp] theorem State.answer_teams (s : State) (r : Req) (p : Perf) : (s.answer r p).teams = s.teams := by
  simp [State.answer]
@[simp] theorem State.dropReq_teams (s : State) (i : ℕ) : (s.dropReq i).teams = s.teams := by simp [State.dropReq]
@[simp] theorem State.setReqLanes_teams (s : State) (i : ℕ) (ls : List PLane) :
    (s.setReqLanes i ls).teams = s.teams := by
  simp [State.setReqLanes]
@[simp] theorem State.coreFinds_teams (s : State) (t : Team) (m : MemDesc) (l : PLane) :
    (s.coreFinds t m l).2.teams = s.teams := by
  simp only [State.coreFinds]
  repeat' split
  all_goals simp
@[simp] theorem State.goesOn_teams (s : State) (i : ℕ) (t : Team) (r : Req) (m : MemDesc) :
    (s.goesOn i t r m).2.teams = s.teams := by
  grind [State.goesOn, State.homeOf_teams, State.sendFrom_teams, State.askHome_teams, State.sendOutside_teams,
      State.sendOn_teams]
@[simp] theorem State.weltWords_teams (s : State) (t : Team) (w : ℕ) (r : Reg) (n : ℕ) :
    (s.weltWords t w r n).2.teams = s.teams := by
  fun_induction State.weltWords <;> grind [State.readUni_teams]
@[simp] theorem State.fetchAt_teams (s : State) (t : Team) (w : ℕ) (pk : Packet) (reg : Reg) :
    (s.fetchAt t w pk reg).2.teams = s.teams := by
  simp [State.fetchAt]
@[simp] theorem State.answerRecord_teams (s : State) (r : Req) (xs : List Record) :
    (s.answerRecord r xs).teams = s.teams := by
  simp [State.answerRecord]
@[simp] theorem State.receiveFew_teams (s : State) (i : ℕ) (r : Req) : (s.receiveFew i r).2.teams = s.teams := by
  simp [State.receiveFew]

/-! ### Complete -/

@[simp] theorem State.forgetGens_teams (s : State) (ctx : ℕ) : (s.forgetGens ctx).teams = s.teams := by
  simp [State.forgetGens]

/-! ### MatIssue -/

@[simp] theorem State.enqueue_teams (s : State) (g : ℕ) (qs : List ℕ) (e : QEnt) :
    (s.enqueue g qs e).teams = s.teams := by
  simp [State.enqueue, State.modGroup]
@[simp] theorem State.trackIssue_teams (s : State) (g : ℕ) (op : MatOp) : (s.trackIssue g op).teams = s.teams := by
  unfold State.trackIssue; split <;> simp
@[simp] theorem State.issueOp_teams (s : State) (g : ℕ) (who : Issuer) (op : MatOp) :
    (s.issueOp g who op).teams = s.teams := by
  simp [State.issueOp]
@[simp] theorem State.matVals_teams (s : State) (t : Team) (l : List (Option (BitVec 4))) :
    (s.matVals t l).2.teams = s.teams := by
  fun_induction State.matVals <;> grind [State.readPair_teams]

/-! ### MatMem -/

@[simp] theorem State.matRead1_teams (s : State) (w : Who) (g : ℕ) (ea : DWord) (n : ℕ) :
    (s.matRead1 w g ea n).2.teams = s.teams := by
  grind [State.matRead1, State.hold_teams, State.pathRead_teams]
@[simp] theorem State.matReadFuel_teams (s : State) (w : Who) (g n : ℕ) (x : DWord) (n2 : ℕ) :
    (s.matReadFuel w g n x n2).2.teams = s.teams := by
  fun_induction State.matReadFuel <;> grind [State.matRead1_teams]
@[simp] theorem State.matRead_teams (s : State) (w : Who) (g : ℕ) (ea : DWord) (n : ℕ) :
    (s.matRead w g ea n).2.teams = s.teams := by
  simp [State.matRead]
@[simp] theorem State.matWrite1_teams (s : State) (w : Who) (g : ℕ) (whole : Bool) (ea : DWord) (n : ℕ) (f : List Byte
    → List Byte × Flags) :
    (s.matWrite1 w g whole ea n f).2.teams = s.teams := by
  grind [State.matWrite1, State.hold_teams, State.atHomeGen_teams, State.setGroup_teams, State.setGroup]
@[simp] theorem State.matWriteFuel_teams (s : State) (w : Who) (g n : ℕ) (x : DWord) (l : List Byte) :
    (s.matWriteFuel w g n x l).2.teams = s.teams := by
  fun_induction State.matWriteFuel <;> grind [State.matWrite1_teams]
@[simp] theorem State.matWrite_teams (s : State) (w : Who) (g : ℕ) (ea : DWord) (bs : List Byte) :
    (s.matWrite w g ea bs).2.teams = s.teams := by
  simp [State.matWrite]
@[simp] theorem State.poison1_teams (s : State) (w : Who) (g : ℕ) (ea : DWord) (n : ℕ) :
    (s.poison1 w g ea n).teams = s.teams := by
  grind [State.poison1, State.askHome_teams, State.poison_teams, State.soilHome_teams, State.modGroup_teams,
      foldl_teams, State.modGroup]
@[simp] theorem State.poisonEa_teams (s : State) (w : Who) (g n : ℕ) (x : DWord) (n2 : ℕ) :
    (s.poisonEa w g n x n2).teams = s.teams := by
  fun_induction State.poisonEa <;> simp [*]
@[simp] theorem State.matReads_teams (s : State) (w : Who) (g : ℕ) (l : List (DWord × ℕ)) :
    (s.matReads w g l).2.teams = s.teams := by
  fun_induction State.matReads <;> grind [State.matRead_teams]
@[simp] theorem State.readVec_teams (s : State) (w : Who) (g : ℕ) (f : FmtBlk) (ea : DWord) (i kept len : ℕ) :
    (s.readVec w g f ea i kept len).2.teams = s.teams := by
  grind [State.readVec, State.matReads_teams]
@[simp] theorem State.readElem_teams (s : State) (w : Who) (g : ℕ) (f : FmtBlk) (ea : DWord) (i k len : ℕ) :
    (s.readElem w g f ea i k len).2.teams = s.teams := by
  grind [State.readElem, State.matReads_teams]
theorem State.eachRead_teams {α β : Type} {f : State → α → Except (MemKind × Nat × DWord) β × State} (hf : ∀ s a, (f s
    a).2.teams = s.teams) (s : State) (l : List α) :
    (State.eachRead f s l).2.teams = s.teams := by
  fun_induction State.eachRead <;> grind

/-! ### MatRun -/

@[simp] theorem State.modQuad_teams (s : State) (g q : ℕ) (f : Quad → Quad) : (s.modQuad g q f).teams = s.teams := by
  simp [State.modQuad, State.modGroup]
@[simp] theorem State.modEnt_teams (s : State) (g id : ℕ) (f : QEnt → QEnt) : (s.modEnt g id f).teams = s.teams := by
  simp [State.modEnt, State.modGroup]
@[simp] theorem State.dropEnt_teams (s : State) (g id : ℕ) : (s.dropEnt g id).teams = s.teams := by
  simp [State.dropEnt, State.modGroup]
@[simp] theorem State.askLeave_teams (s : State) (g : ℕ) (e : QEnt) (o : MloopOps) :
    (s.askLeave g e o).teams = s.teams := by
  simp [State.askLeave, State.setZone]
@[simp] theorem State.accumAll_teams (s : State) (g : ℕ) (k : AccKind') (o : MloopOps) (l : List (ℕ × ℕ × ℕ × ℕ)) :
    (s.accumAll g k o l).2.teams = s.teams := by
  fun_induction State.accumAll <;> simp_all
@[simp] theorem State.poisonOut_teams (s : State) (g : ℕ) (o : MloopOps) (wide : Bool) (qs : List ℕ) :
    (s.poisonOut g o wide qs).teams = s.teams := by
  grind [State.poisonOut, foldl_teams, State.modQuad_teams, State.modQuad]
@[simp] theorem State.stepIp_teams (s : State) (g : ℕ) (e : QEnt) (o : MloopOps) (fa : FmtBlk) (k : ℕ) :
    (s.stepIp g e o fa k).2.teams = s.teams := by
  grind [State.stepIp, State.readVec_teams, foldl_teams, State.accumAll_teams, State.poisonOut_teams]
@[simp] theorem State.cellsStep_teams (s : State) (g : ℕ) (e : QEnt) (k : AccKind') (sh : ℕ) (ps : List (ℕ × ℕ × MVal
    × MVal)) :
    (s.cellsStep g e k sh ps).teams = s.teams := by
  simp [State.cellsStep, State.modEntAt]
@[simp] theorem State.streamPoison_teams (s : State) (g : ℕ) (e : QEnt) (o : MloopOps) (wide : Bool) (qs : List ℕ) :
    (s.streamPoison g e o wide qs).teams = s.teams := by
  simp [State.streamPoison]
@[simp] theorem State.stepOp_teams (s : State) (g : ℕ) (e : QEnt) (o : MloopOps) (fa fb : FmtBlk) (k : ℕ) :
    (s.stepOp g e o fa fb k).2.teams = s.teams := by
  grind [State.stepOp, State.eachRead_teams, State.readElem_teams, State.streamPoison_teams, State.cellsStep_teams]
@[simp] theorem State.rwRow_teams (s : State) (w : Who) (g : ℕ) (e : QEnt) (o : MloopOps) (fa fb : FmtBlk) (k r : ℕ) :
    (s.rwRow w g e o fa fb k r).2.teams = s.teams := by
  grind [State.rwRow, State.matRead_teams, State.readElem_teams, State.readVec_teams]
@[simp] theorem State.stepRw_teams (s : State) (g : ℕ) (e : QEnt) (o : MloopOps) (fa fb : FmtBlk) (k : ℕ) :
    (s.stepRw g e o fa fb k).2.teams = s.teams := by
  grind [State.stepRw, State.eachRead_teams, State.rwRow_teams, State.streamPoison_teams, State.cellsStep_teams]
@[simp] theorem State.stepLoop_teams (s : State) (g : ℕ) (e : QEnt) (o : MloopOps) :
    (s.stepLoop g e o).2.teams = s.teams := by
  unfold State.stepLoop; split <;> simp
@[simp] theorem State.stitch_teams (s : State) (g : ℕ) (e : QEnt) (o : MloopOps) (q : ℕ) (col : BitVec 5) :
    (s.stitch g e o q col).teams = s.teams := by
  simp [State.stitch]
@[simp] theorem State.lapse_teams (s : State) (g id : ℕ) : (s.lapse g id).teams = s.teams := by simp [State.lapse]
@[simp] theorem State.sparseOut_teams (s : State) (w : Who) (g : ℕ) (e : QEnt) (o : MloopOps) (l : List ℕ) :
    (s.sparseOut w g e o l).2.teams = s.teams := by
  fun_induction State.sparseOut <;> grind [State.matWrite_teams, State.poisonEa_teams]
@[simp] theorem State.probe_teams (s : State) (w : Who) (g : ℕ) (acc : BitVec 2) (l : List DWord) :
    (s.probe w g acc l).2.teams = s.teams := by
  fun_induction State.probe <;> grind [State.askHome_teams]
@[simp] theorem State.drainPieces_teams (s : State) (w : Who) (g : ℕ) (q : Quad) (o : MdrainOps) (ea : DWord) (m n n2
    : ℕ) :
    (s.drainPieces w g q o ea m n n2).2.teams = s.teams := by
  fun_induction State.drainPieces <;> grind [State.matWrite1_teams]
@[simp] theorem State.drainRow_teams (s : State) (w : Who) (g : ℕ) (q : Quad) (o : MdrainOps) (ea : DWord) (m : ℕ) :
    (s.drainRow w g q o ea m).2.teams = s.teams := by
  grind [State.drainRow, State.probe_teams, State.drainPieces_teams]
@[simp] theorem State.drainRows_teams (s : State) (w : Who) (g : ℕ) (q : Quad) (o : MdrainOps) (d : DWord) (l : List
    ℕ) :
    (s.drainRows w g q o d l).2.2.teams = s.teams := by
  fun_induction State.drainRows <;> grind [State.drainRow_teams]
@[simp] theorem State.compRow_teams (s : State) (w : Who) (g : ℕ) (e : QEnt) (o : McompOps) (f : FmtBlk) (r : ℕ) :
    (s.compRow w g e o f r).2.teams = s.teams := by
  grind [State.compRow, State.matRead_teams, State.matWrite_teams, State.poisonEa_teams]
@[simp] theorem State.compRows_teams (s : State) (w : Who) (g : ℕ) (e : QEnt) (o : McompOps) (f : FmtBlk) (l : List ℕ)
    :
    (s.compRows w g e o f l).2.teams = s.teams := by
  fun_induction State.compRows <;> grind [State.compRow_teams]

/-! ### Engine -/

@[simp] theorem State.forkVals_teams (s : State) (t : Team) (l : List ℕ) (n : ℕ) :
    (s.forkVals t l n).2.teams = s.teams := by
  fun_induction State.forkVals <;> grind [State.readUni_teams]
@[simp] theorem State.startEngine_teams (s : State) (t : Team) (o : ForkOps) :
    (s.startEngine t o).teams = s.teams := by
  simp [State.startEngine]
@[simp] theorem State.unfork_teams (s : State) (g k f : ℕ) : (s.unfork g k f).teams = s.teams := by
  simp [State.unfork]

/-! ### Lace -/

@[simp] theorem State.homeRead_teams (s : State) (w : Who) (g : ℕ) (ea : DWord) (n : ℕ) :
    (s.homeRead w g ea n).2.teams = s.teams := by
  grind [State.homeRead, State.direct_teams]
@[simp] theorem State.readIndex_teams (s : State) (w : Who) (g : ℕ) (c : CopyOp) :
    (s.readIndex w g c).2.teams = s.teams := by
  grind [State.readIndex, State.eachRead_teams, State.homeRead_teams]
@[simp] theorem State.registerCopy_teams (s : State) (g core k id : ℕ) (c : CopyOp) :
    (s.registerCopy g core k id c).teams = s.teams := by
  simp [State.registerCopy, State.modCore]
@[simp] theorem State.copyVals_teams (s : State) (t : Team) (l : List (Reg × ℕ)) :
    (s.copyVals t l).2.teams = s.teams := by
  fun_induction State.copyVals <;> grind [State.readPair_teams, State.readOne_teams]
@[simp] theorem State.setLace_teams (s : State) (core k : ℕ) (q : List CEnt) :
    (s.setLace core k q).teams = s.teams := by
  simp [State.setLace, State.modCore]
@[simp] theorem State.pushCopy_teams (s : State) (core k id : ℕ) (who : Issuer) (c : CopyOp) (landed counted : List ℕ)
    :
    (s.pushCopy core k id who c landed counted).teams = s.teams := by
  simp [State.pushCopy, State.setLace]
@[simp] theorem State.engineCopy_teams (s : State) (g k : ℕ) (i : Instr) : (s.engineCopy g k i).teams = s.teams := by
  simp only [State.engineCopy]
  repeat' split
  all_goals simp
@[simp] theorem State.modHead_teams (s : State) (core k : ℕ) (f : CEnt → CEnt) :
    (s.modHead core k f).teams = s.teams := by
  unfold State.modHead; split <;> simp
@[simp] theorem State.unregister_teams (s : State) (id : ℕ) (r : Option LaceReg) :
    (s.unregister id r).teams = s.teams := by
  unfold State.unregister; split <;> simp
@[simp] theorem State.landBytes_teams (s : State) (w : Who) (g : ℕ) (ea : DWord) (bs : List Byte) :
    (s.landBytes w g ea bs).2.teams = s.teams := by
  grind [State.landBytes, State.matWrite1_teams, State.poison1_teams]

/-! ### Resend -/

@[simp] theorem State.resendsOf_teams (s : State) (t : Team) (p : Packet) : (s.resendsOf t p).2.teams = s.teams := by
  unfold State.resendsOf
  repeat' split
  all_goals simp
@[simp] theorem State.readmit_teams (s : State) (t : Team) (p : Packet) (op : MatOp) :
    (s.readmit t p op).teams = s.teams := by
  simp [State.readmit, State.modGroup]
@[simp] theorem State.newGen_teams (s : State) (ctx : ℕ) : (s.newGen ctx).teams = s.teams := by
  unfold State.newGen; split <;> simp
@[simp] theorem State.stale_teams (s : State) (v : ℕ) : (s.stale v).teams = s.teams := by
  simp [State.stale, State.modVD]

/-! ### Clause -/

@[simp] theorem State.fetchWords_teams (s : State) (w : Who) (n : ℕ) (x : DWord) :
    (s.fetchWords w n x).2.teams = s.teams := by
  fun_induction State.fetchWords <;> grind [State.pathRead_teams]
@[simp] theorem State.fetchClause_teams (s : State) (w : Who) (eng : ℕ) (pc : DWord) :
    (s.fetchClause w eng pc).2.teams = s.teams := by
  grind [State.fetchClause, State.fetchWords_teams]

/-! ### Sched -/

@[simp] theorem State.gate_teams (s : State) (c : ℕ) : (s.gate c).teams = s.teams := by simp [State.gate]
@[simp] theorem State.suspend_teams (s : State) (c : ℕ) : (s.suspend c).teams = s.teams := by
  simp [State.suspend, State.modCore]
@[simp] theorem State.endWindow_teams (s : State) (c : ℕ) : (s.endWindow c).teams = s.teams := by
  simp [State.endWindow, State.modCore]
@[simp] theorem State.boundary_teams (s : State) : s.boundary.teams = s.teams := by simp [State.boundary]

/-! ### Tenancy -/

@[simp] theorem State.setBusy_teams (s : State) (k : ℕ) : (s.setBusy k).teams = s.teams := by
  simp [State.setBusy, State.modDomain]
@[simp] theorem State.flushDomain_teams (s : State) (k : ℕ) : (s.flushDomain k).teams = s.teams := by
  simp [State.flushDomain]
@[simp] theorem State.beforeRemoval_teams (s : State) (k : ℕ) : (s.beforeRemoval k).teams = s.teams := by
  simp [State.beforeRemoval]
@[simp] theorem State.zeroFrame_teams (s : State) (f : ℕ) : (s.zeroFrame f).teams = s.teams := by
  simp [State.zeroFrame]
@[simp] theorem State.scrubChans_teams (s : State) (gone : ℕ → Bool) : (s.scrubChans gone).teams = s.teams := by
  simp [State.scrubChans]
@[simp] theorem State.writeUnit_teams (s : State) (c u : ℕ) (b : Byte) : (s.writeUnit c u b).teams = s.teams := by
  simp [State.writeUnit]
@[simp] theorem State.createDomain_teams (s : State) (k : ℕ) (isSealed : Bool) :
    (s.createDomain k isSealed).teams = s.teams := by
  simp [State.createDomain]
@[simp] theorem State.dropVds_teams (s : State) (k : ℕ) : (s.dropVds k).teams = s.teams := by simp [State.dropVds]
@[simp] theorem State.moveScratch_teams (s : State) (k w n : ℕ) : (s.moveScratch k w n).teams = s.teams := by
  simp [State.moveScratch]
@[simp] theorem State.clearWays_teams (s : State) (k w : ℕ) : (s.clearWays k w).teams = s.teams := by
  simp [State.clearWays]
@[simp] theorem State.modCal_teams (s : State) (cal : CalId) (f : Calendar → Calendar) :
    (s.modCal cal f).teams = s.teams := by
  unfold State.modCal; split <;> simp
@[simp] theorem State.clipFills_teams (s : State) (p : ℕ → Bool) (v : ℕ) (sigma : BitVec 12) :
    (s.clipFills p v sigma).teams = s.teams := by
  simp [State.clipFills]

/-! ### Preempt -/

@[simp] theorem State.modGang_teams (s : State) (a : ℕ) (f : Gang → Gang) : (s.modGang a f).teams = s.teams := by
  simp [State.modGang, State.setGang]
@[simp] theorem State.dropGang_teams (s : State) (a : ℕ) : (s.dropGang a).teams = s.teams := by simp [State.dropGang]
@[simp] theorem State.order_teams (s : State) (a : ℕ) (d : Decision) (forced : Bool) :
    (s.order a d forced).teams = s.teams := by
  simp [State.order]
@[simp] theorem State.saveEngines_teams (s : State) (g : ℕ) : (s.saveEngines g).teams = s.teams := by
  simp [State.saveEngines]
@[simp] theorem State.flushVd_teams (s : State) (c v : ℕ) : (s.flushVd c v).teams = s.teams := by simp [State.flushVd]
@[simp] theorem State.restoreCopies_teams (s : State) (g : ℕ) : (s.restoreCopies g).teams = s.teams := by
  simp [State.restoreCopies, State.setGroup]

/-! ### Distribute -/

@[simp] theorem State.seatGroup_teams (s : State) (a l no o c : ℕ) : (s.seatGroup a l no o c).2.teams = s.teams := by
  simp [State.seatGroup]
@[simp] theorem State.seatAll_teams (s : State) (a l no n : ℕ) (l2 : List ℕ) :
    (s.seatAll a l no n l2).2.teams = s.teams := by
  fun_induction State.seatAll <;> grind [State.seatGroup_teams]
@[simp] theorem State.packetAcquire_teams (s : State) (l : Launch) (cores : List ℕ) :
    (s.packetAcquire l cores).teams = s.teams := by
  unfold State.packetAcquire; split <;> simp
@[simp] theorem State.moveGang_teams (s : State) (a : ℕ) (cores : List ℕ) : (s.moveGang a cores).teams = s.teams := by
  simp [State.moveGang]
@[simp] theorem State.strike_teams (s : State) : s.strike.teams = s.teams := by simp [State.strike]
@[simp] theorem State.switchDone_teams (s : State) : s.switchDone.teams = s.teams := by simp [State.switchDone]
@[simp] theorem State.overruns_teams (s : State) : s.overruns.teams = s.teams := by simp [State.overruns]

/-! ### Queues -/

@[simp] theorem State.unitFound_teams (s : State) (v a : ℕ) (h : Home) (found : Bool) :
    (s.unitFound v a h found).teams = s.teams := by
  simp [State.unitFound]
@[simp] theorem State.unitRead_teams (s : State) (v : ℕ) (va : DWord) (n : ℕ) :
    (s.unitRead v va n).2.teams = s.teams := by
  grind [State.unitRead, State.askHome_teams, State.readHome_teams, State.unitFound_teams]
@[simp] theorem State.unitUpdate_teams (s : State) (v : ℕ) (va : DWord) (acc : BitVec 2) (f : DWord → DWord) :
    (s.unitUpdate v va acc f).2.teams = s.teams := by
  grind [State.unitUpdate, State.putHome_teams, State.askHome_teams, State.readHome_teams, State.unitFound_teams]
@[simp] theorem State.setQerr_teams (s : State) (q code index : ℕ) : (s.setQerr q code index).teams = s.teams := by
  simp [State.setQerr]
@[simp] theorem State.headPkt_teams (s : State) (q : ℕ) : (s.headPkt q).2.teams = s.teams := by simp [State.headPkt]
@[simp] theorem State.readRecord_teams (s : State) (v n : ℕ) (x : DWord) : (s.readRecord v n x).2.teams = s.teams := by
  fun_induction State.readRecord <;> grind [State.unitRead_teams]
@[simp] theorem State.releaseAll_teams (s : State) (sc : Option Scope) : (s.releaseAll sc).teams = s.teams := by
  unfold State.releaseAll; split <;> simp
@[simp] theorem State.packetDone_teams (s : State) (q index : ℕ) (event : Bool) :
    (s.packetDone q index event).teams = s.teams := by
  simp [State.packetDone]
@[simp] theorem State.completeLaunch_teams (s : State) (id : ℕ) : (s.completeLaunch id).teams = s.teams := by
  simp [State.completeLaunch]
@[simp] theorem State.takeHead_teams (s : State) (q : ℕ) (launch : Option ℕ) :
    (s.takeHead q launch).teams = s.teams := by
  simp [State.takeHead, State.setQueue]
@[simp] theorem State.takeLaunch_teams (s : State) (q : ℕ) (p : Pkt) (r : Option Rec) :
    (s.takeLaunch q p r).teams = s.teams := by
  simp [State.takeLaunch]
@[simp] theorem State.takeStore_teams (s : State) (q : ℕ) (p : Pkt) (val : DWord) :
    (s.takeStore q p val).teams = s.teams := by
  grind [State.takeStore, State.unitUpdate_teams, State.setQerr_teams, State.packetDone_teams, State.takeHead_teams,
      State.releaseAll_teams]

/-! ### Coolant -/

@[simp] theorem State.modZone_teams (s : State) (z : ℕ) (f : Zone → Zone) : (s.modZone z f).teams = s.teams := by
  simp [State.modZone, State.setZone]
@[simp] theorem State.zoneEvent_teams (s : State) (z kind : ℕ) (vs : List ℕ) :
    (s.zoneEvent z kind vs).teams = s.teams := by
  simp [State.zoneEvent]
@[simp] theorem State.takeLeave_teams (s : State) (who : LeaveBy) : (s.takeLeave who).teams = s.teams := by
  unfold State.takeLeave
  split <;> grind [State.modEnt_teams, foldl_teams, State.modQuad_teams, State.wakeCause_teams, State.setChan_teams,
      State.answerOn_teams]
@[simp] theorem State.grantLeave_teams (s : State) (z : ℕ) (w : Leave) : (s.grantLeave z w).teams = s.teams := by
  simp [State.grantLeave]
@[simp] theorem State.scanLeave_teams (s : State) (z n : ℕ) : (s.scanLeave z n).teams = s.teams := by
  fun_induction State.scanLeave <;> simp [*]
@[simp] theorem State.tellTrap_teams (s : State) (z : ℕ) (old : BitVec 6) : (s.tellTrap z old).teams = s.teams := by
  simp [State.tellTrap]
@[simp] theorem State.setSensed_teams (s : State) (z new : ℕ) : (s.setSensed z new).teams = s.teams := by
  simp [State.setSensed]
@[simp] theorem State.stopLeave_teams (s : State) (z : ℕ) : (s.stopLeave z).teams = s.teams := by
  grind [State.stopLeave, foldl_teams, State.modGroup_teams, State.breakSession_teams, State.dropLeave_teams,
      State.modGroup]
@[simp] theorem State.freePurge_teams (s : State) (z : ℕ) : (s.freePurge z).teams = s.teams := by
  simp [State.freePurge]
@[simp] theorem State.fenceZone_teams (s : State) (z : ℕ) : (s.fenceZone z).teams = s.teams := by
  simp [State.fenceZone]
@[simp] theorem State.zoneNormal_teams (s : State) (z : ℕ) : (s.zoneNormal z).teams = s.teams := by
  grind [State.zoneNormal, State.modZone_teams, foldl_teams, State.modCore_teams, State.setWelt_teams, State.modZone,
      State.modCore, State.setWelt]
@[simp] theorem State.failVerify_teams (s : State) (z : ℕ) : (s.failVerify z).teams = s.teams := by
  simp [State.failVerify]

/-! ### Links -/

@[simp] theorem State.giveSlot_teams (s : State) (l v : ℕ) (lent : Bool) : (s.giveSlot l v lent).teams = s.teams := by
  simp [State.giveSlot, State.setLink]

/-! ### Mapping -/

@[simp] theorem State.dropHomes_teams (s : State) (asid : ℕ) (p : HomeEnt → Bool) :
    (s.dropHomes asid p).teams = s.teams := by
  simp [State.dropHomes]
@[simp] theorem State.invalidate_teams (s : State) (asid gran size : ℕ) :
    (s.invalidate asid gran size).teams = s.teams := by
  simp [State.invalidate]
@[simp] theorem State.releaseFrame_teams (s : State) (f : ℕ) : (s.releaseFrame f).teams = s.teams := by
  simp [State.releaseFrame]
@[simp] theorem State.leafAt_teams (s : State) (v gran : ℕ) : (s.leafAt v gran).2.teams = s.teams := by
  simp [State.leafAt]
@[simp] theorem State.poolFree_teams (s : State) (v die : ℕ) (l : List ℕ) :
    (s.poolFree v die l).2.teams = s.teams := by
  fun_induction State.poolFree <;> grind [State.rdNum_teams]
@[simp] theorem State.movedFree_teams (s : State) (base g : ℕ) (l : List ℕ) (x : Option ℕ) :
    (s.movedFree base g l x).2.teams = s.teams := by
  fun_induction State.movedFree <;> grind [State.rdNum_teams]
@[simp] theorem State.dropPage_teams (s : State) (v g old : ℕ) : (s.dropPage v g old).teams = s.teams := by
  simp [State.dropPage]
@[simp] theorem State.copyFrame_teams (s : State) (old new : ℕ) : (s.copyFrame old new).teams = s.teams := by
  simp [State.copyFrame]
@[simp] theorem State.moveEnt_teams (s : State) (old new : ℕ) : (s.moveEnt old new).teams = s.teams := by
  unfold State.moveEnt; split <;> simp
@[simp] theorem State.movePage_teams (s : State) (v g old i new slot : ℕ) :
    (s.movePage v g old i new slot).teams = s.teams := by
  grind [State.movePage, State.moveEnt_teams, State.copyFrame_teams, State.dropPage_teams, State.leafAt_teams,
      State.rdNum_teams, State.wrBytes_teams, State.invalidate_teams]
@[simp] theorem State.judge_teams (s : State) (stack v g die : ℕ) : (s.judge stack v g die).2.teams = s.teams := by
  grind [State.judge, State.walkVd_teams, State.poolFree_teams, State.movedFree_teams]
@[simp] theorem State.track_teams (s : State) (stack v : ℕ) (l : List (ℕ × ℕ)) :
    (s.track stack v l).teams = s.teams := by
  fun_induction State.track <;> grind [State.setWelt_teams, State.judge_teams, State.movePage_teams,
      State.setVD_teams]

/-! ### Secure -/

@[simp] theorem State.setKerr_teams (s : State) (k code : ℕ) : (s.setKerr k code).teams = s.teams := by
  simp [State.setKerr, State.modDomain]
@[simp] theorem State.chargeToDate_teams (s : State) : s.chargeToDate.teams = s.teams := by simp [State.chargeToDate]
@[simp] theorem State.shareEnergy_teams (s : State) : s.shareEnergy.teams = s.teams := by
  grind [State.shareEnergy, foldl_teams, State.modVD_teams, State.setZone_teams, State.modVD, State.setZone]
@[simp] theorem State.vdRecords_teams (s : State) (k v : ℕ) : (s.vdRecords k v).teams = s.teams := by
  simp [State.vdRecords]
@[simp] theorem State.summaries_teams (s : State) (k : ℕ) : (s.summaries k).teams = s.teams := by
  grind [State.summaries, foldl_teams, State.journal_teams, State.modVD_teams, State.modVD]
@[simp] theorem State.checkpoint_teams (s : State) (k : ℕ) : (s.checkpoint k).teams = s.teams := by
  simp [State.checkpoint]
@[simp] theorem State.appendPeriod_teams (s : State) : s.appendPeriod.teams = s.teams := by simp [State.appendPeriod]
@[simp] theorem State.resetRecords_teams (s : State) (warm : Bool) (lost : ℕ → ℕ) :
    (s.resetRecords warm lost).teams = s.teams := by
  simp [State.resetRecords]
@[simp] theorem State.retainKey_teams (s : State) (k : ℕ) : (s.retainKey k).teams = s.teams := by
  simp [State.retainKey]
@[simp] theorem State.endKeys_teams (s : State) : s.endKeys.teams = s.teams := by simp [State.endKeys]

/-! ### Regs -/

@[simp] theorem State.writeDomainReg_teams (s : State) (wr : Writer) (k o : ℕ) (val : DWord) :
    (s.writeDomainReg wr k o val).teams = s.teams := by
  unfold State.writeDomainReg
  repeat' split
  all_goals simp
@[simp] theorem State.writeVdReg_teams (s : State) (wr : Writer) (v o : ℕ) (val : BitVec 1024) :
    (s.writeVdReg wr v o val).teams = s.teams := by
  unfold State.writeVdReg
  repeat' split
  all_goals simp
@[simp] theorem State.writeTenancy_teams (s : State) (wr : Writer) (off : ℕ) (val : BitVec 1024) :
    (s.writeTenancy wr off val).teams = s.teams := by
  simp [State.writeTenancy]
@[simp] theorem State.writeContext_teams (s : State) (wr : Writer) (off : ℕ) (val : DWord) :
    (s.writeContext wr off val).teams = s.teams := by
  unfold State.writeContext
  repeat' split
  all_goals simp
@[simp] theorem State.writeReliability_teams (s : State) (wr : Writer) (off : ℕ) (val : DWord) :
    (s.writeReliability wr off val).teams = s.teams := by
  unfold State.writeReliability
  repeat' split
  all_goals simp
@[simp] theorem State.writeCoolant_teams (s : State) (wr : Writer) (off : ℕ) (val : DWord) :
    (s.writeCoolant wr off val).teams = s.teams := by
  simp [State.writeCoolant]
@[simp] theorem State.writeQueueReg_teams (s : State) (wr : Writer) (q o : ℕ) (val : DWord) :
    (s.writeQueueReg wr q o val).teams = s.teams := by
  unfold State.writeQueueReg; split <;> simp
@[simp] theorem State.writeEventReg_teams (s : State) (wr : Writer) (v o : ℕ) (val : DWord) :
    (s.writeEventReg wr v o val).teams = s.teams := by
  unfold State.writeEventReg; split <;> simp
@[simp] theorem State.writeQueueBlk_teams (s : State) (wr : Writer) (off : ℕ) (val : DWord) :
    (s.writeQueueBlk wr off val).teams = s.teams := by
  simp [State.writeQueueBlk]
@[simp] theorem State.writePeer_teams (s : State) (wr : Writer) (off : ℕ) (val : DWord) :
    (s.writePeer wr off val).teams = s.teams := by
  simp [State.writePeer]

end Sys2Proof.Machine
end

section
namespace Sys2Proof.Machine

/-! ### A table of teams in order -/

/-- A table of teams in ascending order of context ids, every team under its own (R25). -/
def TeamsOk (T : Tbl Team) : Prop := Tbl.rising T ∧ ∀ e ∈ T, e.2.ctx = e.1

theorem Tbl.mem_set {α : Type} {t : Tbl α} {k : ℕ} {v : α} {e : ℕ × α} (h : e ∈ Tbl.set t k v) : e = (k, v) ∨ e ∈ t := by
  fun_induction Tbl.set <;> grind

theorem Tbl.rising_set {α : Type} {t : Tbl α} (k : ℕ) (v : α) (h : Tbl.rising t) : Tbl.rising (Tbl.set t k v) := by
  induction t with
  | nil => simp [Tbl.set, Tbl.rising]
  | cons e t ih =>
    obtain ⟨n, w⟩ := e
    simp only [Tbl.rising, List.pairwise_cons] at h ih ⊢
    unfold Tbl.set
    split_ifs with lt eq
    · grind [List.pairwise_cons]
    · grind [List.pairwise_cons]
    · refine List.pairwise_cons.2 ⟨fun e he => ?_, ih h.2⟩
      rcases Tbl.mem_set he with rfl | he
      · dsimp only; omega
      · exact h.1 e he

theorem TeamsOk.set {T : Tbl Team} (h : TeamsOk T) (t : Team) : TeamsOk (Tbl.set T t.ctx t) :=
  ⟨Tbl.rising_set _ _ h.1, fun e he => (Tbl.mem_set he).elim (fun eq => by rw [eq]) (h.2 e)⟩

theorem TeamsOk.del {T : Tbl Team} (h : TeamsOk T) (c : ℕ) : TeamsOk (Tbl.del T c) :=
  ⟨h.1.filter _, fun e he => h.2 e (List.mem_filter.mp he).1⟩

theorem TeamsOk.map {T : Tbl Team} (h : TeamsOk T) {f : ℕ × Team → ℕ × Team} (hf : ∀ e, (f e).1 = e.1 ∧ (f e).2.ctx = e.2.ctx) :
    TeamsOk (T.map f) := by
  refine ⟨h.1.map f fun a b lt => by rw [(hf a).1, (hf b).1]; exact lt, fun e he => ?_⟩
  obtain ⟨x, hx, rfl⟩ := List.mem_map.mp he
  rw [(hf x).1, (hf x).2, h.2 x hx]

theorem TeamsOk.nil : TeamsOk [] := ⟨List.Pairwise.nil, fun _ h => (List.not_mem_nil h).elim⟩

theorem State.setTeam_teamsOk (s : State) (t : Team) (h : TeamsOk s.teams) : TeamsOk (s.setTeam t).teams := h.set t
theorem State.dropTeam_teamsOk (s : State) (c : ℕ) (h : TeamsOk s.teams) : TeamsOk (s.dropTeam c).teams := h.del c
theorem State.showBar_teamsOk (s : State) (g off : ℕ) (h : TeamsOk s.teams) : TeamsOk (s.showBar g off).teams :=
  h.map (fun e => ⟨rfl, by dsimp only; split <;> rfl⟩)
theorem State.seatTeams_teamsOk (s : State) (g : ℕ) (h : TeamsOk s.teams) : TeamsOk (s.seatTeams g).teams :=
  h.map (fun e => ⟨rfl, by dsimp only; split <;> rfl⟩)
theorem foldl_teamsOk {α : Type} {f : State → α → State} (hf : ∀ s a, TeamsOk s.teams → TeamsOk (f s a).teams) (l : List α) (s : State)
    (h : TeamsOk s.teams) : TeamsOk (l.foldl f s).teams :=
  List.foldlRecOn (motive := fun b => TeamsOk b.teams) l f h (fun b h a _ => hf b a h)
theorem State.eachLane_teamsOk {α : Type} {f : State → α → Perf × State} (hf : ∀ s a, TeamsOk s.teams → TeamsOk (f s a).2.teams)
    (s : State) (l : List α) (h : TeamsOk s.teams) : TeamsOk (State.eachLane f s l).2.teams := by
  induction l generalizing s with
  | nil => exact h
  | cons a l ih => exact ih _ (hf _ _ h)
theorem State.unlessHeld_teamsOk (s : State) {f : State → State} (hf : ∀ s, TeamsOk s.teams → TeamsOk (f s).teams)
    (h : TeamsOk s.teams) : TeamsOk (s.unlessHeld f).teams := by
  have := hf { s with holds := .on } h
  simp only [State.unlessHeld]; split <;> simpa

/-! ### Access -/

theorem State.modTeam_teamsOk (s : State) (ctx : ℕ) (f : Team → Team) (hs : TeamsOk s.teams) :
    TeamsOk (s.modTeam ctx f).teams := by
  grind [State.modTeam, State.setTeam_teamsOk]

theorem State.stand_teamsOk (s : State) (t : Team) (hs : TeamsOk s.teams) : TeamsOk (s.stand t).teams := by
  grind [State.stand, State.setTeam_teamsOk, State.yieldCore_teams]

theorem State.settle_teamsOk (s : State) (t : Team) (hs : TeamsOk s.teams) : TeamsOk (s.settle t).teams := by
  grind [State.settle, State.stand_teamsOk]

theorem State.giveWay_teamsOk (s : State) (t : Team) (hs : TeamsOk s.teams) : TeamsOk (s.giveWay t).teams := by
  grind [State.giveWay, State.yieldCore_teams, State.stand_teamsOk]

theorem State.advance_teamsOk (s : State) (ctx n : ℕ) (hs : TeamsOk s.teams) : TeamsOk (s.advance ctx n).teams := by
  grind [State.advance, State.settle_teamsOk]

theorem State.updBarrier_teamsOk (s : State) (g off : ℕ) (f : BarObj → BarObj) (hs : TeamsOk s.teams) :
    TeamsOk (s.updBarrier g off f).teams := by
  grind [State.updBarrier, State.showBar_teamsOk, State.modGroup_teams, State.wakeBar_teams]

/-! ### Start -/

theorem State.startTeam_teamsOk (s : State) (g index : ℕ) (lower : List ℕ) (slot ctx : ℕ) (hs : TeamsOk s.teams) :
    TeamsOk (s.startTeam g index lower slot ctx).teams := by
  grind [State.startTeam, State.fresh_teams, State.startRows_teams, State.wakeCause_teams, State.setTeam_teamsOk,
      State.setFam_teams]

theorem State.startTeams_teamsOk (s : State) (g n : ℕ) (hs : TeamsOk s.teams) : TeamsOk (s.startTeams g n).teams := by
  fun_induction State.startTeams <;> grind [State.startTeam_teamsOk]

theorem State.startGroup_teamsOk (s : State) (g : ℕ) (hs : TeamsOk s.teams) : TeamsOk (s.startGroup g).teams := by
  grind [State.startGroup, State.freshQuads_teams, State.modGroup_teams, State.startTeams_teamsOk]

theorem State.nextGang_teamsOk (s : State) (a : ℕ) (hs : TeamsOk s.teams) : TeamsOk (s.nextGang a).teams := by
  grind [State.nextGang, State.setGang_teams, State.dropFams_teams, foldl_teamsOk, State.modGroup_teams,
      State.startGroup_teamsOk]

theorem State.endGang_teamsOk (s : State) (a : ℕ) (hs : TeamsOk s.teams) : TeamsOk (s.endGang a).teams := by
  grind [State.endGang, State.nextGang_teamsOk, State.setLaunch_teams, State.dropFams_teams]

theorem State.endGroup_teamsOk (s : State) (g : ℕ) (hs : TeamsOk s.teams) : TeamsOk (s.endGroup g).teams := by
  grind [State.endGroup, State.startGroup_teamsOk, State.modGroup_teams, State.endGang_teamsOk]

theorem State.afterFam_teamsOk (s : State) (f index : ℕ) (lower : List ℕ) (retired : ℕ) (hs : TeamsOk s.teams) :
    TeamsOk (s.afterFam f index lower retired).teams := by
  grind [State.afterFam, State.setGang_teams, State.setFam_teams, State.startTeam_teamsOk, State.endGroup_teamsOk]

/-! ### Ops -/

theorem State.abandon_teamsOk (s : State) (g : ℕ) (hs : TeamsOk s.teams) : TeamsOk (s.abandon g).teams := by
  grind [State.abandon, foldl_teamsOk, State.wakeBar_teams, State.showBar_teamsOk, State.modGroup_teams]

theorem State.removeTeam_teamsOk (s : State) (t : Team) (hs : TeamsOk s.teams) : TeamsOk (s.removeTeam t).teams := by
  grind [State.removeTeam, State.dropTeam_teamsOk, State.purgeTeam_teams, State.dropQueued_teams,
      State.yieldCore_teams]

theorem State.killFam_teamsOk (s : State) (f : ℕ) (code : KillCode) (abandon : Bool) (hs : TeamsOk s.teams) :
    TeamsOk (s.killFam f code abandon).teams := by
  grind [State.killFam, foldl_teamsOk, State.removeTeam_teamsOk, State.closeSession_teams, State.lapseGone_teams,
      State.dropEngineWork_teams, State.modFam_teams, State.modGroup_teams, State.abandon_teamsOk,
      State.afterFam_teamsOk, State.setLaunch_teams]

theorem State.takeTrapAt_teamsOk (s : State) (ctx : ℕ) (tr : Trap) (x : TrapPos) (eng : Bool) (kept : Option Packet)
    (hs : TeamsOk s.teams) :
    TeamsOk (s.takeTrapAt ctx tr x eng kept).teams := by
  grind [State.takeTrapAt, State.killFam_teamsOk, State.modGroup_teams, State.settle_teamsOk]

theorem State.takeTrap_teamsOk (s : State) (ctx n : ℕ) (tr : Trap) (hs : TeamsOk s.teams) :
    TeamsOk (s.takeTrap ctx n tr).teams := by
  grind [State.takeTrap, State.takeTrapAt_teamsOk]

/-! ### Operands -/

theorem State.writeOut_teamsOk (s : State) (t : Team) (d : OpDesc) (uni : Bool) (e0 : ℕ) (ls : List LaneIn) (out :
    CrossOut) (hs : TeamsOk s.teams) :
    TeamsOk (s.writeOut t d uni e0 ls out).teams := by
  grind [State.writeOut, State.modTeam_teamsOk, State.writeUniOut_teams, State.writeUni2_teams]

/-! ### EngineOps -/

theorem State.famFlags_teamsOk (s : State) (f : ℕ) (fl : Flags) (hs : TeamsOk s.teams) :
    TeamsOk (s.famFlags f fl).teams := by
  grind [State.famFlags, foldl_teamsOk, State.modTeam_teamsOk]

theorem State.engineDesc_teamsOk (s : State) (g k : ℕ) (d : OpDesc) (hs : TeamsOk s.teams) : TeamsOk (s.engineDesc g k d).teams := by
  unfold State.engineDesc
  extract_lets e ls
  split_ifs
  · simpa using hs
  · simpa using hs
  · split
    · simpa using hs
    · exact State.famFlags_teamsOk _ _ _ (by simpa using hs)

/-! ### Net -/

theorem State.stallOn_teamsOk (s : State) (ctx : ℕ) (x : Stall) (hs : TeamsOk s.teams) :
    TeamsOk (s.stallOn ctx x).teams := by
  grind [State.stallOn, State.modTeam_teamsOk]

theorem State.stallAt_teamsOk (s : State) (ctx : ℕ) (c : Ctr) (hs : TeamsOk s.teams) :
    TeamsOk (s.stallAt ctx c).teams := by
  grind [State.stallAt, State.stallOn_teamsOk]

theorem State.issuePacket_teamsOk (s : State) (ctx n : ℕ) (pk : Packet) (pend pendP : List ℕ) (sends : List Send) (hs
    : TeamsOk s.teams) :
    TeamsOk (s.issuePacket ctx n pk pend pendP sends).teams := by
  grind [State.issuePacket, State.stallAt_teamsOk, State.settle_teamsOk, State.sendReqs_teams]

/-! ### Agents -/

theorem State.byAgent_teamsOk (s : State) (i : Instr) {team : State → Team → State} {eng : State → ℕ → ℕ → State}
    (ht : ∀ s t, TeamsOk s.teams → TeamsOk (team s t).teams) (he : ∀ s g k, TeamsOk s.teams → TeamsOk (eng s g k).teams)
    (hs : TeamsOk s.teams) : TeamsOk (s.byAgent i team eng).teams := by
  grind [State.byAgent, State.engineStop_teams, State.setTeam_teamsOk]

theorem State.byTeam_teamsOk (s : State) (i : Instr) {team : State → Team → State}
    (ht : ∀ s t, TeamsOk s.teams → TeamsOk (team s t).teams) (hs : TeamsOk s.teams) : TeamsOk (s.byTeam i team).teams :=
  s.byAgent_teamsOk i ht (fun s g k h => by simpa using h) hs

/-! ### Issue -/

theorem State.sendAtMem_teamsOk (s : State) (t : Team) (i : Instr) (d : OpDesc) (w : ℕ) (on : Bool) (vals : List
    (Option DWord)) (hs : TeamsOk s.teams) :
    TeamsOk (s.sendAtMem t i d w on vals).teams := by
  grind [State.sendAtMem, State.issuePacket_teamsOk]

theorem State.runAtCore_teamsOk (s : State) (t : Team) (i : Instr) (d : OpDesc) (uni on : Bool) (vals : List (Option
    DWord)) (hs : TeamsOk s.teams) :
    TeamsOk (s.runAtCore t i d uni on vals).teams := by
  grind [State.runAtCore, State.takeTrap_teamsOk, State.advance_teamsOk, State.writeOut_teamsOk,
      State.issuePacket_teamsOk]

theorem State.teamDesc_teamsOk (s : State) (t : Team) (i : Instr) (d : OpDesc) (hs : TeamsOk s.teams) :
    TeamsOk (s.teamDesc t i d).teams := by
  grind [State.teamDesc, State.takeTrap_teamsOk, State.guard_teams, State.readSrcs_teams, State.sendAtMem_teamsOk,
      State.runAtCore_teamsOk]

theorem State.issueDesc_teamsOk (s : State) (i : Instr) (d : OpDesc) (hs : TeamsOk s.teams) :
    TeamsOk (s.issueDesc i d).teams := by
  grind [State.issueDesc, State.byAgent_teamsOk, State.teamDesc_teamsOk, State.engineDesc_teamsOk]

theorem State.finishDesc_teamsOk (s : State) (ctx : ℕ) (d : OpDesc) (pk : Packet) (hs : TeamsOk s.teams) :
    TeamsOk (s.finishDesc ctx d pk).teams := by
  grind [State.finishDesc, State.writeOut_teamsOk, State.modTeam_teamsOk]

/-! ### Diverge -/

theorem State.waitAt_teamsOk (s : State) (ctx : ℕ) (hs : TeamsOk s.teams) : TeamsOk (s.waitAt ctx).teams := by
  grind [State.waitAt, State.giveWay_teamsOk, State.stand_teamsOk]

theorem State.standAt_teamsOk (s : State) (ctx : ℕ) (hs : TeamsOk s.teams) : TeamsOk (s.standAt ctx).teams := by
  grind [State.standAt, State.stand_teamsOk]

theorem State.split_teamsOk (s : State) (t : Team) (S F : List Lane) (target : DWord) (slot ctx : ℕ) (hs : TeamsOk
    s.teams) :
    TeamsOk (s.split t S F target slot ctx).teams := by
  grind [State.split, State.fresh_teams, State.setFam_teams, State.setTeam_teamsOk, State.settle_teamsOk]

theorem State.merge_teamsOk (s : State) (fall taken : Team) (pc : DWord) (hs : TeamsOk s.teams) :
    TeamsOk (s.merge fall taken pc).teams := by
  grind [State.merge, State.joinUniform_teams, State.either_teams, State.yieldCore_teams, State.dropTeam_teamsOk,
      State.purgeTeam_teams, State.settle_teamsOk]

theorem State.goAlone_teamsOk (s : State) (t : Team) (hs : TeamsOk s.teams) : TeamsOk (s.goAlone t).teams := by
  grind [State.goAlone, State.joinUniform_teams, State.stand_teamsOk]

theorem State.releaseSiblings_teamsOk (s : State) (t : Team) (hs : TeamsOk s.teams) :
    TeamsOk (s.releaseSiblings t).teams := by
  grind [State.releaseSiblings, foldl_teamsOk, State.goAlone_teamsOk]

/-! ### Control -/

theorem State.guarded_teamsOk (s : State) (t : Team) (n : ℕ) (rs : List (Reg × ℕ)) (p : Pred) {off on : State → State}
    (hf : ∀ s, TeamsOk s.teams → TeamsOk (off s).teams) (hn : ∀ s, TeamsOk s.teams → TeamsOk (on s).teams)
    (hs : TeamsOk s.teams) : TeamsOk (s.guarded t n rs p off on).teams := by
  have hq : TeamsOk (s.qPred t p).2.teams := by simpa using hs
  unfold State.guarded
  split
  · exact s.takeTrap_teamsOk _ _ _ hs
  · dsimp only; split
    · exact hn _ hq
    · exact hf _ hq

theorem State.branchTo_teamsOk (s : State) (ctx : ℕ) (target : DWord) (hs : TeamsOk s.teams) :
    TeamsOk (s.branchTo ctx target).teams := by
  grind [State.branchTo, State.settle_teamsOk]

theorem State.fallThrough_teamsOk (s : State) (ctx : ℕ) (hs : TeamsOk s.teams) :
    TeamsOk (s.fallThrough ctx).teams := by
  grind [State.fallThrough, State.settle_teamsOk]

theorem State.brMixed_teamsOk (s : State) (t : Team) (S F : List Lane) (target : DWord) (hs : TeamsOk s.teams) :
    TeamsOk (s.brMixed t S F target).teams := by
  grind [State.brMixed, State.takeTrap_teamsOk, State.waitAt_teamsOk, State.split_teamsOk, State.fresh_teams,
      State.settle_teamsOk]

theorem State.joinSplit_teamsOk (s : State) (t : Team) (id : ℕ) (taken : Bool) (hs : TeamsOk s.teams) :
    TeamsOk (s.joinSplit t id taken).teams := by
  grind [State.joinSplit, State.goAlone_teamsOk, State.waitAt_teamsOk, State.merge_teamsOk, State.settle_teamsOk]

theorem State.leavePath_teamsOk (s : State) (t : Team) (hs : TeamsOk s.teams) : TeamsOk (s.leavePath t).teams := by
  grind [State.leavePath, State.yieldCore_teams, State.settle_teamsOk]

theorem State.joinPath_teamsOk (s : State) (t : Team) (p : PathSt) (ps : List PathSt) (hs : TeamsOk s.teams) :
    TeamsOk (s.joinPath t p ps).teams := by
  grind [State.joinPath, State.leavePath_teamsOk]

theorem State.exited_teamsOk (s : State) (t : Team) (hs : TeamsOk s.teams) : TeamsOk (s.exited t).teams := by
  grind [State.exited, State.leavePath_teamsOk, State.releaseSiblings_teamsOk]

theorem State.writeThen_teamsOk (s : State) (t : Team) (d : OpDesc) (after : Team → Team) (hs : TeamsOk s.teams) :
    TeamsOk (s.writeThen t d after).teams := by
  grind [State.writeThen, State.takeTrap_teamsOk, State.guard_teams, State.advance_teamsOk, State.writeOut_teamsOk,
      State.modTeam_teamsOk]

theorem State.clrfForm_teamsOk (s : State) (i : Instr) (o : F3) (f : Team → BitVec 7 → Team) (hs : TeamsOk s.teams) :
    TeamsOk (s.clrfForm i o f).teams := by
  grind [State.clrfForm, State.byTeam_teamsOk, State.guarded_teamsOk, State.advance_teamsOk, State.readOne_teams,
      State.modTeam_teamsOk]

theorem State.softTrap_teamsOk (s : State) (i : Instr) (o : FRI) (c : Cause) (hs : TeamsOk s.teams) :
    TeamsOk (s.softTrap i o c).teams := by
  grind [State.softTrap, State.byTeam_teamsOk, State.guarded_teamsOk, State.fallThrough_teamsOk,
      State.takeTrapAt_teamsOk]

/-! ### Halts -/

theorem State.withdraw_teamsOk (s : State) (ctx : ℕ) (hs : TeamsOk s.teams) : TeamsOk (s.withdraw ctx).teams := by
  grind [State.withdraw, State.setTeam_teamsOk, State.modGroup_teams, State.modCore_teams, State.dropLeave_teams]

theorem State.halt_teamsOk (s : State) (ctx : ℕ) (why : Parked) (hs : TeamsOk s.teams) :
    TeamsOk (s.halt ctx why).teams := by
  grind [State.halt, State.withdraw_teamsOk, State.stand_teamsOk]

theorem State.haltFault_teamsOk (s : State) (t : Team) (r : FRec) (hs : TeamsOk s.teams) :
    TeamsOk (s.haltFault t r).teams := by
  grind [State.haltFault, State.stopDrain_teams, State.sendRecord_teams, State.halt_teamsOk]

theorem State.kill_teamsOk (s : State) (f : ℕ) (code : KillCode) (hs : TeamsOk s.teams) :
    TeamsOk (s.kill f code).teams := by
  grind [State.kill, State.killFam_teamsOk]

theorem State.consume_teamsOk (s : State) (t : Team) (pc : DWord) (word va : ℕ) (hs : TeamsOk s.teams) :
    TeamsOk (s.consume t pc word va).teams := by
  grind [State.consume, State.errorReport_teams, State.kill_teamsOk]

/-! ### Race -/

theorem State.syncAt_teamsOk (s : State) (now ctx : ℕ) (i : PInst) (vids : List ℕ) (rel acq : Bool) (hs : TeamsOk
    s.teams) :
    TeamsOk (s.syncAt now ctx i vids rel acq).teams := by
  grind [State.syncAt, State.modTeam_teamsOk]

theorem State.syncRegions_teamsOk (s : State) (ctx : ℕ) (i : PInst) (vids : List ℕ) (rel acq : Bool) (hs : TeamsOk
    s.teams) :
    TeamsOk (s.syncRegions ctx i vids rel acq).teams := by
  grind [State.syncRegions, State.fresh_teams, State.syncAt_teamsOk]

theorem State.goBlind_teamsOk (s : State) (ctx : ℕ) (i : PInst) (vid : ℕ) (hs : TeamsOk s.teams) :
    TeamsOk (s.goBlind ctx i vid).teams := by
  grind [State.goBlind, State.modTeam_teamsOk]

theorem State.recordLanes_teamsOk (s : State) (ctx core : ℕ) (i : PInst) (l : List (Lane × List RAcc)) (hs : TeamsOk
    s.teams) :
    TeamsOk (s.recordLanes ctx core i l).2.teams := by
  fun_induction State.recordLanes <;> grind [State.recordAll_teams, State.goBlind_teamsOk]

theorem State.raceCheck_teamsOk {s s' : State} {ctx : ℕ} {i : PInst} {q : BitVec 16} {accs : List (ℕ × List RAcc)} {b : Bool}
    (h : s.raceCheck ctx i q accs = some (b, s')) (hs : TeamsOk s.teams) : TeamsOk s'.teams := by
  grind [State.raceCheck, State.recordLanes_teamsOk]

/-! ### Exempt -/

theorem State.coreFaultRec_teamsOk (s : State) (t : Team) (r : FRec) (hs : TeamsOk s.teams) :
    TeamsOk (s.coreFaultRec t r).teams := by
  grind [State.coreFaultRec, State.standAt_teamsOk, State.haltFault_teamsOk]

/-! ### LoadStore -/

theorem State.parkFew_teamsOk (s : State) (ctx : ℕ) (m : MemDesc) (seq : BitVec 16) (hs : TeamsOk s.teams) :
    TeamsOk (s.parkFew ctx m seq).teams := by
  grind [State.parkFew, State.stand_teamsOk, State.giveWay_teamsOk]

theorem State.sendMem_teamsOk (s : State) (t : Team) (i : Instr) (m : MemDesc) (uni : Bool) (ls : List PLane) (hs :
    TeamsOk s.teams) :
    TeamsOk (s.sendMem t i m uni ls).teams := by
  grind [State.sendMem, State.stallAt_teamsOk, State.accessSends_teams, State.parkFew_teamsOk,
      State.issuePacket_teamsOk]

theorem State.memAtLanes_teamsOk (s : State) (t : Team) (i : Instr) (m : MemDesc) (hs : TeamsOk s.teams) :
    TeamsOk (s.memAtLanes t i m).teams := by
  grind [State.memAtLanes, State.uniBase_teams, State.takeTrap_teamsOk, State.advance_teamsOk, State.sendMem_teamsOk,
      State.setTeam_teamsOk]

theorem State.memAtTeam_teamsOk (s : State) (t : Team) (i : Instr) (m : MemDesc) (hs : TeamsOk s.teams) :
    TeamsOk (s.memAtTeam t i m).teams := by
  grind [State.memAtTeam, State.uniBase_teams, State.takeTrap_teamsOk, State.qPred_teams, State.advance_teamsOk,
      State.teamWords_teams, State.sendMem_teamsOk]

theorem State.memAtWelt_teamsOk (s : State) (t : Team) (i : Instr) (m : MemDesc) (w : ℕ) (hs : TeamsOk s.teams) :
    TeamsOk (s.memAtWelt t i m w).teams := by
  grind [State.memAtWelt, State.uniBase_teams, State.takeTrap_teamsOk, State.qPred_teams, State.issuePacket_teamsOk]

theorem State.issueMem_teamsOk (s : State) (i : Instr) (m : MemDesc) (hs : TeamsOk s.teams) :
    TeamsOk (s.issueMem i m).teams := by
  grind [State.issueMem, State.byTeam_teamsOk, State.takeTrap_teamsOk, State.memAtLanes_teamsOk,
      State.memAtWelt_teamsOk, State.memAtTeam_teamsOk]

theorem State.takeWords_teamsOk (s : State) (t : Team) (r : Reg) (uni : Bool) (ls : List AnsLane) (hs : TeamsOk
    s.teams) :
    TeamsOk (s.takeWords t r uni ls).teams := by
  grind [State.takeWords, foldl_teamsOk, State.putUniWords_teams, State.modTeam_teamsOk]

/-! ### Trans -/

theorem State.modTx_teamsOk (s : State) (ctx vid : ℕ) (f : Tx → Tx) (hs : TeamsOk s.teams) :
    TeamsOk (s.modTx ctx vid f).teams := by
  grind [State.modTx, State.modTeam_teamsOk]

theorem State.abortLane_teamsOk (s : State) (ctx vid : ℕ) (st : TxSt) (hs : TeamsOk s.teams) :
    TeamsOk (s.abortLane ctx vid st).teams := by
  grind [State.abortLane, State.modTeam_teamsOk]

theorem State.txLoad_teamsOk (s : State) (w : Who) (vid va n : ℕ) (hs : TeamsOk s.teams) :
    TeamsOk (s.txLoad w vid va n).2.teams := by
  grind [State.txLoad, State.setTeam_teamsOk, State.loadVirt_teams, State.abortLane_teamsOk, State.modTx_teamsOk]

theorem State.txStore_teamsOk (s : State) (w : Who) (vid va : ℕ) (bs : List Byte) (hs : TeamsOk s.teams) :
    TeamsOk (s.txStore w vid va bs).teams := by
  grind [State.txStore, State.setTeam_teamsOk, State.askHome_teams, State.abortLane_teamsOk, State.modTx_teamsOk]

theorem State.commitLane_teamsOk (s : State) (w : Who) (now : ℕ) (l : Lane) (sc : Scope) (hs : TeamsOk s.teams) :
    TeamsOk (s.commitLane w now l sc).teams := by
  grind [State.commitLane, State.txValid_teams, State.txMayWrite_teams, State.txApply_teams, State.abortLane_teamsOk,
      State.acquireL1_teams, State.syncAt_teamsOk, State.recordLanes_teamsOk, State.modTeam_teamsOk]

theorem State.commitSpan_teamsOk (s : State) (t : Team) (sp : Span) (hs : TeamsOk s.teams) :
    TeamsOk (s.commitSpan t sp).teams := by
  grind [State.commitSpan, State.releaseL1_teams, State.fresh_teams, foldl_teamsOk, State.commitLane_teamsOk,
      State.settle_teamsOk]

/-! ### Perform -/

theorem State.virtLoad_teamsOk (s : State) (w : Who) (m : MemDesc) (direct : Bool) (l : PLane × ℕ) (hs : TeamsOk
    s.teams) :
    TeamsOk (s.virtLoad w m direct l).2.teams := by
  grind [State.virtLoad, State.pathRead_teams, State.txLoad_teamsOk, State.atHomeDo_teams, State.loadVirt_teams]

theorem State.virtStore_teamsOk (s : State) (w : Who) (m : MemDesc) (direct : Bool) (ls : List (PLane × ℕ)) (hs :
    TeamsOk s.teams) :
    TeamsOk (s.virtStore w m direct ls).2.teams := by
  grind [State.virtStore, State.eachLane_teams, State.eachLane_teamsOk, State.virtStore1_teams, foldl_teamsOk,
      State.txStore_teamsOk]

theorem State.performVirt_teamsOk (s : State) (w : Who) (m : MemDesc) (direct : Bool) (ls : List (PLane × ℕ)) (hs :
    TeamsOk s.teams) :
    TeamsOk (s.performVirt w m direct ls).2.teams := by
  grind [State.performVirt, State.eachLane_teams, State.eachLane_teamsOk, State.virtLoad_teamsOk,
      State.virtStore_teamsOk, State.virtAtomic_teams]

theorem State.coreLane_teamsOk (s : State) (t : Team) (m : MemDesc) (l : PLane) (hs : TeamsOk s.teams) :
    TeamsOk (s.coreLane t m l).2.teams := by
  grind [State.coreLane, State.abortLane_teamsOk]

theorem State.performLanes_teamsOk (s : State) (t : Team) (w : Who) (m : MemDesc) (direct : Bool) (ls : List PLane)
    (hs : TeamsOk s.teams) :
    TeamsOk (s.performLanes t w m direct ls).2.teams := by
  grind [State.performLanes, State.eachLane_teams, State.eachLane_teamsOk, State.performSpad_teams,
      State.performVirt_teamsOk]

theorem State.syncAfter_teamsOk (s : State) (t : Team) (m : MemDesc) (i : PInst) (pk : Packet) (ls : List PLane) (hs :
    TeamsOk s.teams) :
    TeamsOk (s.syncAfter t m i pk ls).teams := by
  grind [State.syncAfter, State.syncAt_teamsOk, State.fresh_teams, State.modTeam_teamsOk]

theorem State.memRace_teamsOk {s s' : State} {t : Team} {m : MemDesc} {i : PInst} {pk : Packet} {ls : List PLane} {b : Bool}
    (h : s.memRace t m i pk ls = some (b, s')) (hs : TeamsOk s.teams) : TeamsOk s'.teams := by
  unfold State.memRace at h
  split at h
  · grind
  · exact State.raceCheck_teamsOk h hs

/-! ### Place -/

theorem State.setLanesReg_teamsOk (s : State) (ctx : ℕ) (r : Reg) (v : Word) (hs : TeamsOk s.teams) :
    TeamsOk (s.setLanesReg ctx r v).teams := by
  grind [State.setLanesReg, State.modTeam_teamsOk]

theorem State.delLanesReg_teamsOk (s : State) (ctx : ℕ) (r : Reg) (hs : TeamsOk s.teams) :
    TeamsOk (s.delLanesReg ctx r).teams := by
  grind [State.delLanesReg, State.modTeam_teamsOk]

theorem State.sendPlace_teamsOk (s : State) (t : Team) (i : Instr) (x : PInst) (on : Bool) (vs : List DWord) (fs : List Fetch)
    {now : State → State} (hn : ∀ s, TeamsOk s.teams → TeamsOk (now s).teams) (hs : TeamsOk s.teams) :
    TeamsOk (s.sendPlace t i x on vs fs now).teams := by
  unfold State.sendPlace
  split
  · exact s.stallAt_teamsOk _ _ hs
  · exact State.issuePacket_teamsOk _ _ _ _ _ _ _ (hn s hs)

theorem State.placeOff_teamsOk (s : State) (t : Team) (i : Instr) (l : Loc) (hs : TeamsOk s.teams) :
    TeamsOk (s.placeOff t i l).teams := by
  unfold State.placeOff
  split <;> grind [State.sendPlace_teamsOk, State.advance_teamsOk]

theorem State.declare_teamsOk (s : State) (t : Team) (i : Instr) (o : FMem) (l : Loc) (a : DWord) (hs : TeamsOk
    s.teams) :
    TeamsOk (s.declare t i o l a).teams := by
  unfold State.declare
  split <;> grind [State.newEntry_teams, State.setPlace_teams, State.advance_teamsOk, State.setLanesReg_teamsOk,
      State.setCell_teams, State.sendPlace_teamsOk]

theorem State.moveReg_teamsOk (s : State) (t : Team) (i : Instr) (o : FMem) (from_ to_ : Loc) (a : DWord) (hs :
    TeamsOk s.teams) :
    TeamsOk (s.moveReg t i o from_ to_ a).teams := by
  unfold State.moveReg
  split <;> grind [State.newEntry_teams, State.setPlace_teams, State.readOne_teams, State.advance_teamsOk,
      State.setLanesReg_teamsOk, State.delCell_teams, State.sendPlace_teamsOk, State.stallAt_teamsOk,
      State.issuePacket_teamsOk]

theorem State.release_teamsOk (s : State) (t : Team) (i : Instr) (r : Reg) (hs : TeamsOk s.teams) :
    TeamsOk (s.release t i r).teams := by
  grind [State.release, State.setPlace_teams, State.advance_teamsOk, State.delLanesReg_teamsOk, State.delCell_teams,
      State.sendPlace_teamsOk]

theorem State.finishMove_teamsOk (s : State) (ctx : ℕ) (r : Reg) (pk : Packet) (hs : TeamsOk s.teams) :
    TeamsOk (s.finishMove ctx r pk).teams := by
  grind [State.finishMove, State.setLanesReg_teamsOk, State.setCell_teams, State.modTeam_teamsOk, State.arrived_teams]

/-! ### Sync -/

theorem State.coreFault_teamsOk (s : State) (t : Team) (k : MemKind) (va acc : ℕ) (hs : TeamsOk s.teams) :
    TeamsOk (s.coreFault t k va acc).teams := by
  grind [State.coreFault, State.coreFaultRec_teamsOk]

theorem State.barrierOp_teamsOk (s : State) (i : Instr) (o : FMem) (rs : List (Reg × ℕ)) (dp : List ℕ)
    {f : State → Team → ℕ → State} (hf : ∀ s t n, TeamsOk s.teams → TeamsOk (f s t n).teams) (hs : TeamsOk s.teams) :
    TeamsOk (s.barrierOp i o rs dp f).teams := by
  refine s.byTeam_teamsOk i (fun s t h => ?_) hs
  grind [State.takeTrap_teamsOk, State.readOne_teams]

theorem State.arriveForm_teamsOk (s : State) (i : Instr) (o : FMem) (rs : List (Reg × ℕ)) (inb outb : Bool) (hs :
    TeamsOk s.teams) :
    TeamsOk (s.arriveForm i o rs inb outb).teams := by
  grind [State.arriveForm, State.barrierOp_teamsOk, State.qPred_teams, State.readOne_teams, State.coreFault_teamsOk,
      State.advance_teamsOk, State.waitAt_teamsOk, State.takeTrap_teamsOk, State.updBarrier_teamsOk,
      State.syncRegions_teamsOk]

theorem State.engineArrive_teamsOk (s : State) (i : Instr) (o : FMem) (dat inb outb : Bool) {team : State} (ht : TeamsOk team.teams)
    (hs : TeamsOk s.teams) : TeamsOk (s.engineArrive i o dat inb outb team).teams := by
  grind [State.engineArrive, State.engineStop_teams, State.setEngine_teams, State.parkEngine_teams, State.updBarrier_teamsOk]

theorem State.parkBar_teamsOk (s : State) (t : Team) (b : BarWait) (hs : TeamsOk s.teams) :
    TeamsOk (s.parkBar t b).teams := by
  grind [State.parkBar, State.giveWay_teamsOk, State.stand_teamsOk]

theorem State.barDone_teamsOk (s : State) (t : Team) (q : ℕ) (abandoned : Bool) (hs : TeamsOk s.teams) :
    TeamsOk (s.barDone t q abandoned).teams := by
  grind [State.barDone, State.advance_teamsOk, State.syncRegions_teamsOk, State.writeQ_teams]

theorem State.barwaitAt_teamsOk (s : State) (t : Team) (q off : ℕ) (ph1 : Bool) (hs : TeamsOk s.teams) :
    TeamsOk (s.barwaitAt t q off ph1).teams := by
  grind [State.barwaitAt, State.barDone_teamsOk, State.parkBar_teamsOk]

/-! ### Awl -/

theorem State.issueAwlmode_teamsOk (s : State) (i : Instr) (o : FMem) (hs : TeamsOk s.teams) :
    TeamsOk (s.issueAwlmode i o).teams := by
  grind [State.issueAwlmode, State.byTeam_teamsOk, State.takeTrap_teamsOk, State.readPair_teams, State.qPred_teams,
      State.bindHome_teams, State.coreFault_teamsOk, State.advance_teamsOk, State.issuePacket_teamsOk]

theorem State.sendAwl_teamsOk (s : State) (t : Team) (i : Instr) (ch : ℕ) (c : Ctr) (uni : Bool) (lanes : List PLane)
    (pend : List ℕ) (hs : TeamsOk s.teams) :
    TeamsOk (s.sendAwl t i ch c uni lanes pend).teams := by
  grind [State.sendAwl, State.issuePacket_teamsOk]

/-! ### Nest -/

theorem State.nestRace_teamsOk {s s' : State} {t : Team} {vids : List ℕ} {q : BitVec 16} {op : NestOp} {ty : Ty} {n : FN}
    {bases : List DWord} {k : ℕ} {b : Bool}
    (h : s.nestRace t vids q op ty n bases k = some (b, s')) (hs : TeamsOk s.teams) : TeamsOk s'.teams :=
  State.raceCheck_teamsOk h hs

theorem State.nestStep_teamsOk (s : State) (t : Team) (op : NestOp) (ty : Ty) (n : FN) (pk : Packet) (hs : TeamsOk
    s.teams) :
    TeamsOk (s.nestStep t op ty n pk).2.teams := by
  unfold State.nestStep
  extract_lets ops z red w i
  split
  · exact hs
  next lost s1 eq =>
    have h1 : TeamsOk s1.teams := by
      split at eq
      · grind
      · exact State.nestRace_teamsOk eq hs
    grind [State.modTeam_teamsOk, State.nestReads_teams, State.writeEa_teams]

theorem State.raggedAt_teamsOk (s : State) (t : Team) (n : FN) (pk : Packet) (hs : TeamsOk s.teams) :
    TeamsOk (s.raggedAt t n pk).2.teams := by
  grind [State.raggedAt, State.ragHand_teams, State.raceCheck_teamsOk]

theorem State.takeRagged_teamsOk (s : State) (t : Team) (pr : BitVec 3) (n : FN) (ls : List AnsLane) (hs : TeamsOk
    s.teams) :
    TeamsOk (s.takeRagged t pr n ls).teams := by
  grind [State.takeRagged, State.modTeam_teamsOk, State.putUniWords_teams]

/-! ### Requests -/

theorem State.accessAt_teamsOk (s : State) (t : Team) (pk : Packet) (r : Req) (m : MemDesc) (ls : List PLane) (hs :
    TeamsOk s.teams) :
    TeamsOk (s.accessAt t pk r m ls).2.teams := by
  unfold State.accessAt
  split
  · exact hs
  next lost s1 eq =>
    have h1 : TeamsOk s1.teams := by
      split at eq
      · grind
      · exact State.memRace_teamsOk eq hs
    grind [State.modTeam_teamsOk, State.syncBefore_teams, State.performLanes_teamsOk, State.syncAfter_teamsOk]

theorem State.goesOn_some_teams {s s' : State} {i : ℕ} {t : Team} {r : Req} {m : MemDesc} (h : (s.goesOn i t r m).1 = some s') :
    s'.teams = s.teams := by
  grind [State.goesOn, State.homeOf_teams, State.askHome_teams, State.sendFrom_teams, State.sendOutside_teams, State.sendOn_teams]


theorem State.accessOr_teamsOk (s : State) (i : ℕ) (t : Team) (pk : Packet) (r : Req) (m : MemDesc) (ls : List PLane)
    {done : Perf × State → State} (hd : ∀ x, TeamsOk x.2.teams → TeamsOk (done x).teams) (hs : TeamsOk s.teams) :
    TeamsOk (s.accessOr i t pk r m ls done).teams := by
  unfold State.accessOr
  split
  next finds s1 eq =>
    have h1 : TeamsOk s1.teams := by grind [State.coreFinds_teams]
    split
    · exact hd _ (State.eachLane_teamsOk (fun s l h => s.coreLane_teamsOk t m l h) s1 ls h1)
    · grind [State.goesOn_some_teams, State.goesOn_teams, State.accessAt_teamsOk]

theorem State.foldl_putUniWords_teams (s : State) {α : Type} (p : α → Bool) (f c : ℕ) (k : ℕ → ℕ) (r : Reg) (v : α → List DWord) (l : List α) :
    (l.foldl (fun s a => if p a then s.putUniWords f c k r (v a) else s) s).teams = s.teams := by
  refine foldl_teams _ (fun s a => ?_) l s
  split <;> simp


theorem State.memWelt_teamsOk (s : State) (t : Team) (w : ℕ) (pk : Packet) (r : Req) (m : MemDesc) (l : PLane) (hs : TeamsOk s.teams) :
    TeamsOk (s.memWelt t w pk r m l).2.teams := by
  unfold State.memWelt
  extract_lets none_ 
  split
  · exact hs
  dsimp only
  split
  · simpa using hs
  split
  · simpa using hs
  split
  · grind [State.weltBase_teams, State.weltWords_teams]
  next lost s1 eq =>
    have h1 : TeamsOk s1.teams := by
      split at eq
      · grind [State.weltBase_teams, State.weltWords_teams]
      · refine State.memRace_teamsOk eq ?_
        grind [State.weltBase_teams, State.weltWords_teams]
    dsimp only
    split <;> split <;> simp [State.performLanes_teamsOk, State.syncAfter_teamsOk, h1]

theorem State.baseAt_teamsOk (s : State) (t : Team) (w i : ℕ) (pk : Packet) (r : Req) (m : MemDesc) (hs : TeamsOk
    s.teams) :
    TeamsOk (s.baseAt t w i pk r m).teams := by
  grind [State.baseAt, State.readMem_teams, State.answer_teams, State.dropReq_teams, State.orderFetch_teams,
      State.markFetch_teams, State.setTeam_teamsOk, State.accessSends_teams, State.setOutAll_teams]

theorem State.execWelt_teamsOk (s : State) (t : Team) (w : ℕ) (pk : Packet) (r : Req) (hs : TeamsOk s.teams) :
    TeamsOk (s.execWelt t w pk r).2.teams := by
  unfold State.execWelt
  split
  · simpa using hs
  · exact s.memWelt_teamsOk _ _ _ _ _ _ hs
  all_goals simpa using hs


theorem State.perform_teamsOk (s : State) (i : ℕ) (t : Team) (pk : Packet) (r : Req) (hs : TeamsOk s.teams) :
    TeamsOk (s.perform i t pk r).teams := by
  unfold State.perform
  extract_lets fin
  have hfin : ∀ x : Option Perf × State, TeamsOk x.2.teams → TeamsOk (fin x).teams := by
    rintro ⟨_ | p, s⟩ h <;> simpa [fin] using h
  split
  · simpa using hs
  · split
    · exact State.baseAt_teamsOk _ _ _ _ _ _ _ hs
    · simpa using hs
  · split
    · exact hs
    · grind [State.execWelt_teamsOk, State.answer_teams, State.dropReq_teams]
  · simpa using hs
  · split
    · exact hfin _ (State.nestStep_teamsOk _ _ _ _ _ _ hs)
    · simpa using State.raggedAt_teamsOk _ _ _ _ hs
    · extract_lets now
      split
      · exact hs
      · refine State.accessOr_teamsOk _ _ _ _ _ _ _ (fun x h => ?_) hs
        split <;> simpa
    · simpa using hs

theorem State.orphanAt_teamsOk (s : State) (i : ℕ) (r : Req) (hs : TeamsOk s.teams) :
    TeamsOk (s.orphanAt i r).teams := by
  grind [State.orphanAt, State.flip_teams, State.dropReq_teams, State.performLanes_teamsOk]

theorem State.tryPerform_teamsOk (s : State) (i : ℕ) (t : Team) (pk : Packet) (r : Req) (hs : TeamsOk s.teams) :
    TeamsOk (s.tryPerform i t pk r).teams := by
  grind [State.tryPerform, State.receiveFew_teams, State.unlessHeld_teamsOk, State.perform_teamsOk]

theorem State.serve_teamsOk (s : State) (i : ℕ) (t : Team) (pk : Packet) (r : Req) (hs : TeamsOk s.teams) :
    TeamsOk (s.serve i t pk r).teams := by
  grind [State.serve, State.tryPerform_teamsOk, State.answerRecord_teams, State.dropReq_teams,
      State.setReqLanes_teams]

/-! ### Complete -/

theorem State.complete_teamsOk (s : State) (ctx : ℕ) (seq : BitVec 16) (hs : TeamsOk s.teams) :
    TeamsOk (s.complete ctx seq).teams := by
  grind [State.complete, State.setTeam_teamsOk]

theorem State.takeAnswer_teamsOk (s : State) (t : Team) (pk : Packet) (ls : List AnsLane) (hs : TeamsOk s.teams) :
    TeamsOk (s.takeAnswer t pk ls).teams := by
  grind [State.takeAnswer, State.takeWords_teamsOk, State.takeRagged_teamsOk]

theorem State.takeFetch_teamsOk (s : State) (t : Team) (pk : Packet) (op : ℕ) (reg : Reg) (w : ℕ) (v : Word) (hs :
    TeamsOk s.teams) :
    TeamsOk (s.takeFetch t pk op reg w v).teams := by
  grind [State.takeFetch, State.setTeam_teamsOk, State.orderFetch_teams, State.finishDesc_teamsOk,
      State.finishMove_teamsOk, State.complete_teamsOk]

theorem State.takeDone_teamsOk (s : State) (t : Team) (pk : Packet) (a : Answer) (hs : TeamsOk s.teams) :
    TeamsOk (s.takeDone t pk a).teams := by
  grind [State.takeDone, State.takeAnswer_teamsOk, State.modTeam_teamsOk, State.complete_teamsOk]

theorem State.receive_teamsOk (s : State) (t : Team) (pk : Packet) (a : Answer) (hs : TeamsOk s.teams) :
    TeamsOk (s.receive t pk a).teams := by
  grind [State.receive, State.consume_teamsOk, State.modTeam_teamsOk, State.takeFetch_teamsOk, State.takeDone_teamsOk]

/-! ### MatIssue -/

theorem State.teamMat_teamsOk (s : State) (t : Team) (i : Instr) (hs : TeamsOk s.teams) :
    TeamsOk (s.teamMat t i).teams := by
  grind [State.teamMat, State.stallOn_teamsOk, State.takeTrap_teamsOk, State.matVals_teams,
      State.coreFaultRec_teamsOk, State.consume_teamsOk, State.stallAt_teamsOk, State.fresh_teams,
      State.issuePacket_teamsOk, State.issueOp_teams]

theorem State.killEngine_teamsOk (s : State) (g k va : ℕ) (hs : TeamsOk s.teams) :
    TeamsOk (s.killEngine g k va).teams := by
  grind [State.killEngine, State.consume_teamsOk]

theorem State.engineMat_teamsOk (s : State) (g k : ℕ) (i : Instr) (hs : TeamsOk s.teams) :
    TeamsOk (s.engineMat g k i).teams := by
  grind [State.engineMat, State.engineStop_teams, State.parkEngine_teams, State.killEngine_teamsOk, State.fresh_teams,
      State.issueOp_teams, State.setEngine_teams]

theorem State.issueMat_teamsOk (s : State) (i : Instr) (hs : TeamsOk s.teams) : TeamsOk (s.issueMat i).teams := by
  grind [State.issueMat, State.unlessHeld_teamsOk, State.byAgent_teamsOk, State.teamMat_teamsOk,
      State.engineMat_teamsOk]

/-! ### MatRun -/

theorem State.entFault_teamsOk (s : State) (g : ℕ) (e : QEnt) (pos rows : ℕ) (f : MFault) (hs : TeamsOk s.teams) :
    TeamsOk (s.entFault g e pos rows f).teams := by
  grind [State.entFault, State.modEnt_teams, State.parkEngine_teams, State.modTeam_teamsOk]

theorem State.killEnt_teamsOk (s : State) (e : QEnt) (code : KillCode) (hs : TeamsOk s.teams) :
    TeamsOk (s.killEnt e code).teams := by
  grind [State.killEnt, State.kill_teamsOk]

theorem State.startEffect_teamsOk (s : State) (g : ℕ) (e : QEnt) (hs : TeamsOk s.teams) :
    TeamsOk (s.startEffect g e).teams := by
  grind [State.startEffect, foldl_teamsOk, State.modQuad_teams, State.modGroup_teams, State.syncRegions_teamsOk]

theorem State.completeNow_teamsOk (s : State) (ctx : ℕ) (seq : BitVec 16) (hs : TeamsOk s.teams) :
    TeamsOk (s.completeNow ctx seq).teams := by
  grind [State.completeNow, State.complete_teamsOk, State.modTeam_teamsOk]

theorem State.finishEnt_teamsOk (s : State) (g : ℕ) (e : QEnt) (fl : Flags) (hs : TeamsOk s.teams) :
    TeamsOk (s.finishEnt g e fl).teams := by
  grind [State.finishEnt, State.dropEnt_teams, State.lapse_teams, State.completeNow_teamsOk, State.modTeam_teamsOk,
      State.famFlags_teamsOk, State.setEngine_teams]

theorem State.endLoop_teamsOk (s : State) (g : ℕ) (e : QEnt) (o : MloopOps) (hs : TeamsOk s.teams) :
    TeamsOk (s.endLoop g e o).teams := by
  grind [State.endLoop, State.sparseOut_teams, State.entFault_teamsOk, State.killEnt_teamsOk, State.finishEnt_teamsOk,
      State.accumAll_teams]

theorem State.loadTile_teamsOk (s : State) (g : ℕ) (e : QEnt) (o : MldsOps) (f : FmtBlk) (hs : TeamsOk s.teams) :
    TeamsOk (s.loadTile g e o f).teams := by
  grind [State.loadTile, State.eachRead_teams, State.readVec_teams, State.entFault_teamsOk, foldl_teamsOk,
      State.modQuad_teams, State.finishEnt_teamsOk]

theorem State.drain_teamsOk (s : State) (g : ℕ) (e : QEnt) (o : MdrainOps) (hs : TeamsOk s.teams) :
    TeamsOk (s.drain g e o).teams := by
  grind [State.drain, State.drainRows_teams, State.modEnt_teams, State.finishEnt_teamsOk, State.entFault_teamsOk,
      State.modTeam_teamsOk]

theorem State.readTile_teamsOk (s : State) (g : ℕ) (e : QEnt) (o : MreadOps) (hs : TeamsOk s.teams) :
    TeamsOk (s.readTile g e o).teams := by
  grind [State.readTile, State.finishEnt_teamsOk, State.modTeam_teamsOk]

theorem State.giveStatus_teamsOk (s : State) (g : ℕ) (e : QEnt) (q : ℕ) (d : Reg) (hs : TeamsOk s.teams) :
    TeamsOk (s.giveStatus g e q d).teams := by
  grind [State.giveStatus, State.finishEnt_teamsOk, State.setEngine_teams, State.modTeam_teamsOk,
      State.writeRegs_teams]

/-! ### Engine -/

theorem State.teamRdv_teamsOk (s : State) (t : Team) (hs : TeamsOk s.teams) : TeamsOk (s.teamRdv t).teams := by
  grind [State.teamRdv, State.stand_teamsOk, State.setFam_teams, State.takeTrapAt_teamsOk, State.advance_teamsOk,
      State.syncRegions_teamsOk]

/-! ### Lace -/

theorem State.teamCopy_teamsOk (s : State) (t : Team) (i : Instr) (hs : TeamsOk s.teams) :
    TeamsOk (s.teamCopy t i).teams := by
  grind [State.teamCopy, State.takeTrap_teamsOk, State.copyVals_teams, State.qPred_teams, State.advance_teamsOk,
      State.coreFaultRec_teamsOk, State.stallAt_teamsOk, State.stallOn_teamsOk, State.fresh_teams,
      State.issuePacket_teamsOk, State.registerCopy_teams, State.pushCopy_teams]

theorem State.copyFault_teamsOk (s : State) (core k : ℕ) (e : CEnt) (gran : ℕ) (f : MFault) (hs : TeamsOk s.teams) :
    TeamsOk (s.copyFault core k e gran f).teams := by
  grind [State.copyFault, State.parkEngine_teams, State.modHead_teams, State.modTeam_teamsOk]

theorem State.countDown_teamsOk (s : State) (core g : ℕ) (c : CopyOp) (inb : Bool) (n : ℕ) (hs : TeamsOk s.teams) :
    TeamsOk (s.countDown core g c inb n).teams := by
  grind [State.countDown, State.updBarrier_teamsOk, State.wakeCause_teams]

/-! ### Resend -/

theorem State.resendPk_teamsOk (s : State) (ctx : ℕ) (seq : BitVec 16) (hs : TeamsOk s.teams) :
    TeamsOk (s.resendPk ctx seq).teams := by
  grind [State.resendPk, State.setTeam_teamsOk, State.readmit_teams, State.pushCopy_teams, State.modTeam_teamsOk,
      State.finishDesc_teamsOk, State.resendsOf_teams, State.sendReqs_teams]

theorem State.resendAll_teamsOk (s : State) (ctx : ℕ) (hs : TeamsOk s.teams) : TeamsOk (s.resendAll ctx).teams := by
  grind [State.resendAll, foldl_teamsOk, State.resendPk_teamsOk]

theorem State.resumeNow_teamsOk (s : State) (ctx : ℕ) (hs : TeamsOk s.teams) : TeamsOk (s.resumeNow ctx).teams := by
  grind [State.resumeNow, State.newGen_teams, State.modTeam_teamsOk, State.resendAll_teamsOk, State.wakeCause_teams]

theorem State.resume_teamsOk (s : State) (ctx : ℕ) (hs : TeamsOk s.teams) : TeamsOk (s.resume ctx).teams := by
  grind [State.resume, State.setTeam_teamsOk, State.resumeNow_teamsOk]

theorem State.stopHalt_teamsOk (s : State) (t : Team) (p : Packet) (k : StopKind) (hs : TeamsOk s.teams) :
    TeamsOk (s.stopHalt t p k).teams := by
  grind [State.stopHalt, State.halt_teamsOk, State.modTeam_teamsOk, State.resendAll_teamsOk, State.takeTrapAt_teamsOk]

theorem State.linkHalt_teamsOk (s : State) (t : Team) (p : Packet) (va : ℕ) (hs : TeamsOk s.teams) :
    TeamsOk (s.linkHalt t p va).teams := by
  grind [State.linkHalt, State.errorReport_teams, State.halt_teamsOk, State.stopDrain_teams]

theorem State.resumeTeam_teamsOk (s : State) (t : Team) (hs : TeamsOk s.teams) : TeamsOk (s.resumeTeam t).teams := by
  grind [State.resumeTeam, State.resume_teamsOk, State.halt_teamsOk, State.markImage_teams, State.setTeam_teamsOk,
      State.wakeCause_teams]

theorem State.leave_teamsOk (s : State) (t : Team) (skip : Bool) (hs : TeamsOk s.teams) :
    TeamsOk (s.leave t skip).teams := by
  grind [State.leave, State.settle_teamsOk]

theorem State.resendKept_teamsOk (s : State) (t : Team) (p : Packet) (hs : TeamsOk s.teams) :
    TeamsOk (s.resendKept t p).teams := by
  grind [State.resendKept, State.resendPk_teamsOk, State.setTeam_teamsOk]

theorem State.rfhForm_teamsOk (s : State) (t : Team) (p : Pred) {f : State → State} (hf : ∀ s, TeamsOk s.teams → TeamsOk (f s).teams)
    (hs : TeamsOk s.teams) : TeamsOk (s.rfhForm t p f).teams := by
  grind [State.rfhForm, State.takeTrap_teamsOk, State.guarded_teamsOk, State.fallThrough_teamsOk]

/-! ### Clause -/

theorem State.startClause_teamsOk (s : State) (t : Team) (h : DWord) (ws : List DWord) (hs : TeamsOk s.teams) :
    TeamsOk (s.startClause t h ws).teams := by
  grind [State.startClause, State.takeTrap_teamsOk, State.giveWay_teamsOk, State.stand_teamsOk, State.setTeam_teamsOk,
      State.syncRegions_teamsOk]

theorem State.teamClause_teamsOk (s : State) (t : Team) (hs : TeamsOk s.teams) : TeamsOk (s.teamClause t).teams := by
  grind [State.teamClause, State.startClause_teamsOk, State.fetchClause_teams, State.coreFaultRec_teamsOk,
      State.consume_teamsOk, State.takeTrap_teamsOk]

theorem State.engineClause_teamsOk (s : State) (g k : ℕ) (hs : TeamsOk s.teams) :
    TeamsOk (s.engineClause g k).teams := by
  grind [State.engineClause, State.fetchClause_teams, State.parkEngine_teams, State.killEngine_teamsOk,
      State.engineStop_teams, State.setEngine_teams]

/-! ### Sched -/

theorem State.give_teamsOk (s : State) (c v : ℕ) (t : Team) (hs : TeamsOk s.teams) : TeamsOk (s.give c v t).teams := by
  grind [State.give, State.modCore_teams, State.setTeam_teamsOk, State.modVD_teams]

theorem State.lend_teamsOk (s : State) (c : ℕ) (owner : Option ℕ) (hs : TeamsOk s.teams) :
    TeamsOk (s.lend c owner).teams := by
  grind [State.lend, State.fresh_teams, State.modCore_teams, State.give_teamsOk]

theorem State.schedule_teamsOk (s : State) (c : ℕ) (hs : TeamsOk s.teams) : TeamsOk (s.schedule c).teams := by
  grind [State.schedule, State.gate_teams, State.give_teamsOk, State.modCore_teams, State.lend_teamsOk]

/-! ### Preempt -/

theorem State.flush_teamsOk (s : State) (a : ℕ) (hs : TeamsOk s.teams) : TeamsOk (s.flush a).teams := by
  grind [State.flush, foldl_teamsOk, State.killFam_teamsOk, State.dropGang_teams, State.setLaunch_teams]

theorem State.preempt_teamsOk (s : State) (a : ℕ) (forced : Bool) (hs : TeamsOk s.teams) :
    TeamsOk (s.preempt a forced).teams := by
  grind [State.preempt, foldl_teamsOk, State.wakeCause_teams, State.order_teams, State.flush_teamsOk]

theorem State.cutSweep_teamsOk (s : State) (t : Team) (hs : TeamsOk s.teams) : TeamsOk (s.cutSweep t).teams := by
  grind [State.cutSweep, State.pick_teams, State.readSrcs_teams, State.modTeam_teamsOk, State.writeOut_teamsOk]

theorem State.saveTeam_teamsOk (s : State) (t : Team) (hs : TeamsOk s.teams) : TeamsOk (s.saveTeam t).teams := by
  grind [State.saveTeam, State.halt_teamsOk, State.cutSweep_teamsOk, State.modTeam_teamsOk]

theorem State.haltGang_teamsOk (s : State) (a : ℕ) (hs : TeamsOk s.teams) : TeamsOk (s.haltGang a).teams := by
  grind [State.haltGang, foldl_teamsOk, State.saveTeam_teamsOk, State.flushVd_teams, State.saveEngines_teams]

theorem State.restoreTeam_teamsOk (s : State) (t : Team) (hs : TeamsOk s.teams) : TeamsOk (s.restoreTeam t).teams := by
  grind [State.restoreTeam, State.wakeCause_teams, State.setTeam_teamsOk, State.resume_teamsOk]

theorem State.restoreGang_teamsOk (s : State) (a : ℕ) (hs : TeamsOk s.teams) : TeamsOk (s.restoreGang a).teams := by
  grind [State.restoreGang, State.modGang_teams, foldl_teamsOk, State.restoreCopies_teams, State.seatTeams_teamsOk,
      State.acquireL1_teams, State.restoreTeam_teamsOk]

/-! ### Distribute -/

theorem State.placeGang_teamsOk (s : State) (l no : ℕ) (cores : List ℕ) (hs : TeamsOk s.teams) :
    TeamsOk (s.placeGang l no cores).teams := by
  grind [State.placeGang, State.fresh_teams, State.seatAll_teams, State.setGang_teams, State.setLaunch_teams,
      State.packetAcquire_teams, foldl_teamsOk, State.startGroup_teamsOk]

theorem State.placeFirst_teamsOk (s : State) (v : ℕ) (cores : List ℕ) (l : List (ℕ × ℕ)) (hs : TeamsOk s.teams) :
    TeamsOk (s.placeFirst v cores l).teams := by
  fun_induction State.placeFirst <;> grind [State.placeGang_teamsOk]

theorem State.switchBegin_teamsOk (s : State) (hs : TeamsOk s.teams) : TeamsOk s.switchBegin.teams := by
  grind [State.switchBegin, foldl_teamsOk, State.preempt_teamsOk]

/-! ### Links -/

theorem State.linkStop_teamsOk (s : State) (ctx : ℕ) (p : Packet → Bool) (hs : TeamsOk s.teams) :
    TeamsOk (s.linkStop ctx p).teams := by
  grind [State.linkStop, State.modTeam_teamsOk]

/-! ### Secure -/

theorem State.resetCommon_teamsOk (s : State) : TeamsOk s.resetCommon.teams := TeamsOk.nil

/-! ### Run -/

theorem State.give'_teamsOk (s : State) (a : Agent) (hs : TeamsOk s.teams) : TeamsOk (s.give' a).teams := by
  unfold State.give'
  split <;> grind [State.schedule_teamsOk]

theorem State.offer_teamsOk {s s' : State} {c : ℕ} {w : Bool} (h : s.offer c w = some s') (hs : TeamsOk s.teams) :
    TeamsOk s'.teams := by
  grind [State.offer, State.schedule_teamsOk]

theorem State.agents_teamsOk {s s' : State} (h : s' ∈ s.agents) (hs : TeamsOk s.teams) : TeamsOk s'.teams := by
  grind [State.agents, State.offer_teamsOk]

theorem State.gateIdle_teamsOk (s : State) (hs : TeamsOk s.teams) : TeamsOk s.gateIdle.teams := by
  grind [State.gateIdle, foldl_teamsOk, State.schedule_teamsOk]

end Sys2Proof.Machine
end

section
namespace Sys2Proof.Machine

/-! ### Outcomes -/

/-- Where an outcome is a next state, its teams are in order. -/
def NextOk (o : Out) : Prop := ∀ s, o = .next s → TeamsOk s.teams

@[simp] theorem nextOk_next (s : State) : NextOk (.next s) ↔ TeamsOk s.teams :=
  ⟨fun h => h s rfl, fun h s' eq => by cases eq; exact h⟩

/-! ### Control -/

theorem execBr_nextOk (o : FBR) (s : State) (hs : TeamsOk s.teams) : NextOk (execBr o s) :=
  (nextOk_next _).2 <| s.byAgent_teamsOk _ (fun s t h => by grind [State.guarded_teamsOk, State.fallThrough_teamsOk,
    State.branchTo_teamsOk, State.setEngine_teams]) (fun s g k h => by grind [State.byAgent_teamsOk,
    State.guarded_teamsOk, State.fallThrough_teamsOk, State.branchTo_teamsOk, State.engineStop_teams,
    State.setEngine_teams]) hs

theorem execBrdiv_nextOk (o : FBR) (s : State) (hs : TeamsOk s.teams) : NextOk (execBrdiv o s) :=
  (nextOk_next _).2 <| s.byTeam_teamsOk _ (fun s t h => by grind [State.takeTrap_teamsOk, State.guarded_teamsOk,
    State.fallThrough_teamsOk, State.branchTo_teamsOk, State.brMixed_teamsOk]) hs

theorem execJoin_nextOk (o : FBR) (s : State) (hs : TeamsOk s.teams) : NextOk (execJoin o s) :=
  (nextOk_next _).2 <| s.byTeam_teamsOk _ (fun s t h => by grind [State.takeTrap_teamsOk, State.joinSplit_teamsOk,
    State.joinPath_teamsOk]) hs

theorem execCall_nextOk (o : FBR) (s : State) (hs : TeamsOk s.teams) : NextOk (execCall o s) :=
  (nextOk_next _).2 <| s.byTeam_teamsOk _ (fun s t h => by grind [State.guarded_teamsOk, State.fallThrough_teamsOk,
    State.branchTo_teamsOk, State.writeRegs_teams]) hs

theorem execRet_nextOk (o : FBR) (s : State) (hs : TeamsOk s.teams) : NextOk (execRet o s) :=
  (nextOk_next _).2 <| s.byTeam_teamsOk _ (fun s t h => by grind [State.takeTrap_teamsOk, State.readPair_teams,
    State.guarded_teamsOk, State.fallThrough_teamsOk, State.branchTo_teamsOk]) hs

theorem execBrx_nextOk (o : FBR) (s : State) (hs : TeamsOk s.teams) : NextOk (execBrx o s) :=
  (nextOk_next _).2 <| s.byTeam_teamsOk _ (fun s t h => by grind [State.guarded_teamsOk, State.fallThrough_teamsOk,
    State.readOne_teams, State.branchTo_teamsOk]) hs

theorem execExit_nextOk (o : FBR) (s : State) (hs : TeamsOk s.teams) : NextOk (execExit o s) :=
  (nextOk_next _).2 <| s.byTeam_teamsOk _ (fun s t h => by grind [State.takeTrap_teamsOk, State.exited_teamsOk]) hs

theorem execWait_nextOk (o : FRI) (s : State) (hs : TeamsOk s.teams) : NextOk (execWait o s) :=
  (nextOk_next _).2 <| s.byAgent_teamsOk _ (fun s t h => by grind [State.guarded_teamsOk, State.advance_teamsOk,
    State.setEngine_teams]) (fun s g k h => by grind [State.byAgent_teamsOk, State.guarded_teamsOk,
    State.advance_teamsOk, State.engineStop_teams, State.setEngine_teams]) hs

theorem execNop_nextOk (o : F3) (s : State) (hs : TeamsOk s.teams) : NextOk (execNop o s) :=
  (nextOk_next _).2 <| s.byAgent_teamsOk _ (fun s t h => by grind [State.guarded_teamsOk, State.advance_teamsOk,
    State.setEngine_teams]) (fun s g k h => by grind [State.byAgent_teamsOk, State.guarded_teamsOk,
    State.advance_teamsOk, State.engineStop_teams, State.setEngine_teams]) hs

theorem execTfence_nextOk (o : F3) (s : State) (hs : TeamsOk s.teams) : NextOk (execTfence o s) :=
  (nextOk_next _).2 <| s.byTeam_teamsOk _ (fun s t h => by grind [State.guarded_teamsOk, State.advance_teamsOk,
    State.waitAt_teamsOk, State.takeTrap_teamsOk]) hs

theorem execGetf_nextOk (o : F3) (s : State) (hs : TeamsOk s.teams) : NextOk (execGetf o s) :=
  (nextOk_next _).2 <| s.byTeam_teamsOk _ (fun s t h => by grind [State.writeThen_teamsOk]) hs

theorem execGetfClr_nextOk (o : F3) (s : State) (hs : TeamsOk s.teams) : NextOk (execGetfClr o s) :=
  (nextOk_next _).2 <| s.byTeam_teamsOk _ (fun s t h => by grind [State.writeThen_teamsOk]) hs

theorem execRdsr_nextOk (o : F3) (s : State) (hs : TeamsOk s.teams) : NextOk (execRdsr o s) :=
  (nextOk_next _).2 <| s.byTeam_teamsOk _ (fun s t h => by grind [State.writeThen_teamsOk, State.passTime_teams]) hs

theorem execHset_nextOk (o : FBR) (s : State) (hs : TeamsOk s.teams) : NextOk (execHset o s) :=
  (nextOk_next _).2 <| s.byTeam_teamsOk _ (fun s t h => by grind [State.takeTrap_teamsOk, State.readOne_teams,
    State.guarded_teamsOk, State.advance_teamsOk, State.modTeam_teamsOk]) hs

theorem execTmaskOff_nextOk (o : F3) (s : State) (hs : TeamsOk s.teams) : NextOk (execTmaskOff o s) :=
  (nextOk_next _).2 <| s.byTeam_teamsOk _ (fun s t h => by grind [State.guarded_teamsOk, State.advance_teamsOk,
    State.modTeam_teamsOk]) hs

theorem execTmaskOn_nextOk (o : F3) (s : State) (hs : TeamsOk s.teams) : NextOk (execTmaskOn o s) :=
  (nextOk_next _).2 <| s.byTeam_teamsOk _ (fun s t h => by grind [State.guarded_teamsOk, State.advance_teamsOk,
    State.modTeam_teamsOk]) hs

/-! ### Trans -/

theorem execTransactionCommit_nextOk (ctx : ℕ) (s : State) (hs : TeamsOk s.teams) :
    NextOk (execTransactionCommit ctx s) := by
  grind [execTransactionCommit, nextOk_next, State.unlessHeld_teamsOk, State.commitSpan_teamsOk]

theorem execTbeg_nextOk (o : FMem) (s : State) (hs : TeamsOk s.teams) : NextOk (execTbeg o s) :=
  (nextOk_next _).2 <| s.byTeam_teamsOk _ (fun s t h => by grind [State.takeTrap_teamsOk, State.advance_teamsOk,
    State.settle_teamsOk]) hs

theorem execTend_nextOk (o : FMem) (s : State) (hs : TeamsOk s.teams) : NextOk (execTend o s) :=
  (nextOk_next _).2 <| s.byTeam_teamsOk _ (fun s t h => by grind [State.takeTrap_teamsOk, State.stand_teamsOk]) hs

theorem execTabt_nextOk (o : F3) (s : State) (hs : TeamsOk s.teams) : NextOk (execTabt o s) :=
  (nextOk_next _).2 <| s.byTeam_teamsOk _ (fun s t h => by grind [State.takeTrap_teamsOk, State.settle_teamsOk]) hs

theorem execTstat_nextOk (o : F3) (s : State) (hs : TeamsOk s.teams) : NextOk (execTstat o s) :=
  (nextOk_next _).2 <| s.byTeam_teamsOk _ (fun s t h => by grind [State.writeThen_teamsOk]) hs

/-! ### Place -/

theorem execDecl_nextOk (k : DKind) (o : FMem) (s : State) (hs : TeamsOk s.teams) : NextOk (execDecl k o s) :=
  (nextOk_next _).2 <| s.byTeam_teamsOk _ (fun s t h => by grind [State.takeTrap_teamsOk, State.declTarget_teams,
    State.guarded_teamsOk, State.placeOff_teamsOk, State.declare_teamsOk]) hs

theorem execRedecl_nextOk (k : DKind) (o : FMem) (s : State) (hs : TeamsOk s.teams) : NextOk (execRedecl k o s) :=
  (nextOk_next _).2 <| s.byTeam_teamsOk _ (fun s t h => by
    extract_lets old
    split
    · exact s.takeTrap_teamsOk _ _ _ h
    · exact s.takeTrap_teamsOk _ _ _ h
    · have hd : TeamsOk (s.declTarget t k o).2.teams := by simpa using h
      split
      · exact s.takeTrap_teamsOk _ _ _ h
      split
      · exact s.takeTrap_teamsOk _ _ _ h
      split
      next s1 eq => rw [eq] at hd; exact s1.takeTrap_teamsOk _ _ _ hd
      next l a s1 eq =>
        rw [eq] at hd
        split
        · exact s1.takeTrap_teamsOk _ _ _ hd
        extract_lets same here
        split
        · exact s1.takeTrap_teamsOk _ _ _ hd
        · exact s1.guarded_teamsOk _ _ _ _ (fun s h => by split <;> simp [State.advance_teamsOk, State.placeOff_teamsOk, h])
            (fun s h => by split <;> simp [State.advance_teamsOk, State.moveReg_teamsOk, h]) hd) hs

theorem execUndecl_nextOk (o : F3) (s : State) (hs : TeamsOk s.teams) : NextOk (execUndecl o s) :=
  (nextOk_next _).2 <| s.byTeam_teamsOk _ (fun s t h => by grind [State.takeTrap_teamsOk, State.guarded_teamsOk,
    State.placeOff_teamsOk, State.release_teamsOk]) hs

theorem execPlaceq_nextOk (o : F3) (s : State) (hs : TeamsOk s.teams) : NextOk (execPlaceq o s) :=
  (nextOk_next _).2 <| s.byTeam_teamsOk _ (fun s t h => by grind [State.writeThen_teamsOk]) hs

/-! ### Sync -/

theorem execFence_nextOk (o : FMem) (s : State) (hs : TeamsOk s.teams) : NextOk (execFence o s) := by
  grind [execFence, nextOk_next, State.unlessHeld_teamsOk, State.byTeam_teamsOk, State.guarded_teamsOk,
      State.advance_teamsOk, State.waitAt_teamsOk, State.releaseL1_teams, State.acquireL1_teams,
      State.syncRegions_teamsOk]

theorem execPathf_nextOk (p : PathSel) (o : FMem) (s : State) (hs : TeamsOk s.teams) : NextOk (execPathf p o s) := by
  grind [execPathf, nextOk_next, State.unlessHeld_teamsOk, State.byTeam_teamsOk, State.guarded_teamsOk,
      State.advance_teamsOk, State.waitAt_teamsOk, State.releaseL1_teams, foldl_teamsOk, State.modCore_teams]

theorem execPlacef_nextOk (o : F3) (s : State) (hs : TeamsOk s.teams) : NextOk (execPlacef o s) :=
  (nextOk_next _).2 <| s.byTeam_teamsOk _ (fun s t h => by grind [State.guarded_teamsOk, State.advance_teamsOk,
    State.waitAt_teamsOk, State.orderAll_teams]) hs

theorem execBarinit_nextOk (o : FMem) (s : State) (hs : TeamsOk s.teams) : NextOk (execBarinit o s) := by
  grind [execBarinit, nextOk_next, State.barrierOp_teamsOk, State.readOne_teams, State.takeTrap_teamsOk,
      State.guarded_teamsOk, State.advance_teamsOk, State.coreFault_teamsOk, State.showBar_teamsOk,
      State.setGroup_teams]

theorem execArrive_nextOk (o : FMem) (s : State) (hs : TeamsOk s.teams) : NextOk (execArrive o s) := by
  grind [execArrive, nextOk_next, State.engineArrive_teamsOk, State.arriveForm_teamsOk]

theorem execArriveInb_nextOk (o : FMem) (s : State) (hs : TeamsOk s.teams) : NextOk (execArriveInb o s) := by
  grind [execArriveInb, nextOk_next, State.engineArrive_teamsOk, State.arriveForm_teamsOk]

theorem execArriveOutb_nextOk (o : FMem) (s : State) (hs : TeamsOk s.teams) : NextOk (execArriveOutb o s) := by
  grind [execArriveOutb, nextOk_next, State.engineArrive_teamsOk, State.arriveForm_teamsOk]

theorem execBarwait_nextOk (ph1 : Bool) (o : FMem) (s : State) (hs : TeamsOk s.teams) :
    NextOk (execBarwait ph1 o s) := by
  grind [execBarwait, nextOk_next, State.barrierOp_teamsOk, State.qPred_teams, State.barwaitAt_teamsOk,
      State.coreFault_teamsOk, State.advance_teamsOk, State.takeTrap_teamsOk]

theorem execBwatch_nextOk (slot : BitVec 3) (o : FMem) (s : State) (hs : TeamsOk s.teams) :
    NextOk (execBwatch slot o s) := by
  grind [execBwatch, nextOk_next, State.barrierOp_teamsOk, State.guarded_teamsOk, State.advance_teamsOk,
      State.coreFault_teamsOk, State.modTeam_teamsOk]

/-! ### Awl -/

theorem execSessionDeadline_nextOk (ch : ℕ) (s : State) (hs : TeamsOk s.teams) :
    NextOk (execSessionDeadline ch s) := by
  grind [execSessionDeadline, nextOk_next, State.breakSession_teams]

theorem execAwlmodeOn_nextOk (cls : BitVec 4) (o : FMem) (s : State) (hs : TeamsOk s.teams) :
    NextOk (execAwlmodeOn cls o s) := by
  grind [execAwlmodeOn, nextOk_next, State.issueAwlmode_teamsOk]

theorem execAwlmodeOff_nextOk (o : FMem) (s : State) (hs : TeamsOk s.teams) : NextOk (execAwlmodeOff o s) := by
  grind [execAwlmodeOff, nextOk_next, State.issueAwlmode_teamsOk]

theorem execSessionDrainDone_nextOk (ch : ℕ) (s : State) (hs : TeamsOk s.teams) :
    NextOk (execSessionDrainDone ch s) := by
  grind [execSessionDrainDone, nextOk_next, State.recallChan_teams, State.setChan_teams, State.setZone_teams]

theorem execAwlbc_nextOk (all : Bool) (o : F3) (s : State) (hs : TeamsOk s.teams) : NextOk (execAwlbc all o s) :=
  (nextOk_next _).2 <| s.byTeam_teamsOk _ (fun s t h => by grind [State.takeTrap_teamsOk, State.advance_teamsOk,
    State.qPred_teams, State.sendAwl_teamsOk]) hs

theorem execAwlmac_nextOk (o : F3) (s : State) (hs : TeamsOk s.teams) : NextOk (execAwlmac o s) :=
  (nextOk_next _).2 <| s.byTeam_teamsOk _ (fun s t h => by grind [State.takeTrap_teamsOk, State.readPair_teams,
    State.qPred_teams, State.advance_teamsOk, State.sendAwl_teamsOk]) hs

theorem execAwlrd_nextOk (o : F3) (s : State) (hs : TeamsOk s.teams) : NextOk (execAwlrd o s) :=
  (nextOk_next _).2 <| s.byTeam_teamsOk _ (fun s t h => by grind [State.takeTrap_teamsOk, State.modTeam_teamsOk,
    State.advance_teamsOk, State.sendAwl_teamsOk]) hs

/-! ### Nest -/

theorem execNest_nextOk (op : NestOp) (ty : Ty) (n : FN) (s : State) (hs : TeamsOk s.teams) :
    NextOk (execNest op ty n s) :=
  (nextOk_next _).2 <| s.byTeam_teamsOk _ (fun s t h => by grind [State.takeTrap_teamsOk, State.readPair_teams,
    foldl_teamsOk, State.guarded_teamsOk, State.advance_teamsOk, State.issuePacket_teamsOk]) hs

theorem execRagged_nextOk (pr : BitVec 3) (n : FN) (s : State) (hs : TeamsOk s.teams) :
    NextOk (execRagged pr n s) :=
  (nextOk_next _).2 <| s.byTeam_teamsOk _ (fun s t h => by grind [State.takeTrap_teamsOk, State.readPair_teams,
    State.advance_teamsOk, State.issuePacket_teamsOk]) hs

/-! ### Requests -/

theorem execRequestAtTarget_nextOk (i : ℕ) (s : State) (hs : TeamsOk s.teams) : NextOk (execRequestAtTarget i s) := by
  grind [execRequestAtTarget, nextOk_next, State.orphanAt_teamsOk, State.dropReq_teams, State.seeGen_teams,
      State.serve_teamsOk]

/-! ### Complete -/

theorem execCompletionReceive_nextOk (i : ℕ) (s : State) (hs : TeamsOk s.teams) :
    NextOk (execCompletionReceive i s) := by
  grind [execCompletionReceive, nextOk_next, State.wakeCause_teams, State.receive_teamsOk]

theorem execCompletionAcknowledgement_nextOk (i : ℕ) (s : State) (hs : TeamsOk s.teams) :
    NextOk (execCompletionAcknowledgement i s) := by
  grind [execCompletionAcknowledgement, nextOk_next, State.modTeam_teamsOk, State.forgetGens_teams]

theorem execTeamEnd_nextOk (ctx : ℕ) (s : State) (hs : TeamsOk s.teams) : NextOk (execTeamEnd ctx s) := by
  grind [execTeamEnd, nextOk_next, State.removeTeam_teamsOk, State.afterFam_teamsOk, State.closeSession_teams,
      State.setFam_teams]

/-! ### MatIssue -/

theorem execMlds_nextOk (o : MldsOps) (s : State) (hs : TeamsOk s.teams) : NextOk (execMlds o s) := by
  grind [execMlds, nextOk_next, State.issueMat_teamsOk]

theorem execMldsBar_nextOk (o : MldsOps) (b : BarOps) (s : State) (hs : TeamsOk s.teams) :
    NextOk (execMldsBar o b s) := by
  grind [execMldsBar, nextOk_next, State.issueMat_teamsOk]

theorem execMswap_nextOk (q : BitVec 4) (s : State) (hs : TeamsOk s.teams) : NextOk (execMswap q s) := by
  grind [execMswap, nextOk_next, State.issueMat_teamsOk]

theorem execMloop_nextOk (o : MloopOps) (s : State) (hs : TeamsOk s.teams) : NextOk (execMloop o s) := by
  grind [execMloop, nextOk_next, State.issueMat_teamsOk]

theorem execMdrain_nextOk (o : MdrainOps) (s : State) (hs : TeamsOk s.teams) : NextOk (execMdrain o s) := by
  grind [execMdrain, nextOk_next, State.issueMat_teamsOk]

theorem execMzero_nextOk (o : MzeroOps) (s : State) (hs : TeamsOk s.teams) : NextOk (execMzero o s) := by
  grind [execMzero, nextOk_next, State.issueMat_teamsOk]

theorem execMcomp_nextOk (o : McompOps) (s : State) (hs : TeamsOk s.teams) : NextOk (execMcomp o s) := by
  grind [execMcomp, nextOk_next, State.issueMat_teamsOk]

theorem execMfuse_nextOk (q : BitVec 4) (s : State) (hs : TeamsOk s.teams) : NextOk (execMfuse q s) := by
  grind [execMfuse, nextOk_next, State.issueMat_teamsOk]

theorem execMread_nextOk (o : MreadOps) (s : State) (hs : TeamsOk s.teams) : NextOk (execMread o s) := by
  grind [execMread, nextOk_next, State.issueMat_teamsOk]

theorem execMstat_nextOk (q : BitVec 4) (d : Reg) (s : State) (hs : TeamsOk s.teams) : NextOk (execMstat q d s) := by
  grind [execMstat, nextOk_next, State.issueMat_teamsOk]

/-! ### MatRun -/

theorem execQuadrantStart_nextOk (g q : ℕ) (s : State) (hs : TeamsOk s.teams) : NextOk (execQuadrantStart g q s) :=
  (nextOk_next _).2 <| s.unlessHeld_teamsOk (fun s h => by grind [State.askLeave_teams, State.modEnt_teams,
    State.killEnt_teamsOk, State.startEffect_teamsOk]) hs

theorem execMloopStep_nextOk (g q : ℕ) (bad : List (ℕ × BitVec 5)) (s : State) (hs : TeamsOk s.teams) :
    NextOk (execMloopStep g q bad s) :=
  (nextOk_next _).2 <| s.unlessHeld_teamsOk (fun s h => by grind [State.killEnt_teamsOk, State.stepLoop_teams,
    State.entFault_teamsOk, State.modEnt_teams, State.lapse_teams, foldl_teamsOk, State.stitch_teams,
    State.modQuad_teams]) hs

theorem execMatrixComplete_nextOk (g q : ℕ) (s : State) (hs : TeamsOk s.teams) :
    NextOk (execMatrixComplete g q s) :=
  (nextOk_next _).2 <| s.unlessHeld_teamsOk (fun s h => by grind [State.loadTile_teamsOk, State.endLoop_teamsOk,
    State.drain_teamsOk, State.compRows_teams, State.entFault_teamsOk, State.finishEnt_teamsOk,
    State.readTile_teamsOk, State.giveStatus_teamsOk]) hs

/-! ### Engine -/

theorem execFork_nextOk (o : ForkOps) (s : State) (hs : TeamsOk s.teams) : NextOk (execFork o s) :=
  (nextOk_next _).2 <| s.byTeam_teamsOk _ (fun s t h => by grind [State.takeTrap_teamsOk, State.guarded_teamsOk,
    State.advance_teamsOk, State.waitAt_teamsOk, State.startEngine_teams]) hs

theorem execRdv_nextOk (o : F3) (s : State) (hs : TeamsOk s.teams) : NextOk (execRdv o s) :=
  (nextOk_next _).2 <| s.byAgent_teamsOk _ (fun s t h => by grind [State.guarded_teamsOk, State.advance_teamsOk,
    State.teamRdv_teamsOk, State.setEngine_teams]) (fun s g k h => by grind [State.byAgent_teamsOk,
    State.guarded_teamsOk, State.advance_teamsOk, State.teamRdv_teamsOk, State.engineStop_teams,
    State.setEngine_teams]) hs

theorem execEngineProgramEnd_nextOk (g k : ℕ) (s : State) (hs : TeamsOk s.teams) :
    NextOk (execEngineProgramEnd g k s) := by
  grind [execEngineProgramEnd, nextOk_next, State.setEngine_teams, foldl_teamsOk, State.unfork_teams]

/-! ### Lace -/

theorem execLace_nextOk (o : LaceOps) (s : State) (hs : TeamsOk s.teams) : NextOk (execLace o s) :=
  (nextOk_next _).2 <| s.byAgent_teamsOk _ (fun s t h => by grind [State.teamCopy_teamsOk, State.engineCopy_teams])
    (fun s g k h => by grind [State.byAgent_teamsOk, State.teamCopy_teamsOk, State.engineCopy_teams]) hs

theorem execLaceg_nextOk (o : LacegOps) (s : State) (hs : TeamsOk s.teams) : NextOk (execLaceg o s) :=
  (nextOk_next _).2 <| s.byAgent_teamsOk _ (fun s t h => by grind [State.teamCopy_teamsOk, State.engineCopy_teams])
    (fun s g k h => by grind [State.byAgent_teamsOk, State.teamCopy_teamsOk, State.engineCopy_teams]) hs

theorem execLaceCopyStart_nextOk (core k : ℕ) (s : State) (hs : TeamsOk s.teams) :
    NextOk (execLaceCopyStart core k s) :=
  (nextOk_next _).2 <| s.unlessHeld_teamsOk (fun s h => by grind [State.readIndex_teams, State.copyFault_teamsOk,
    State.modHead_teams, foldl_teamsOk, State.unregister_teams, State.countDown_teamsOk]) hs

theorem execLaceSourceRead_nextOk (core k gran : ℕ) (s : State) (hs : TeamsOk s.teams) :
    NextOk (execLaceSourceRead core k gran s) :=
  (nextOk_next _).2 <| s.unlessHeld_teamsOk (fun s h => by grind [State.homeRead_teams, State.copyFault_teamsOk,
    State.modHead_teams, foldl_teamsOk, State.countDown_teamsOk]) hs

theorem execLaceGranuleLanding_nextOk (core k gran : ℕ) (s : State) (hs : TeamsOk s.teams) :
    NextOk (execLaceGranuleLanding core k gran s) :=
  (nextOk_next _).2 <| s.unlessHeld_teamsOk (fun s h => by grind [State.landBytes_teams, State.copyFault_teamsOk,
    State.modHead_teams, State.unregister_teams, State.setFull_teams, State.countDown_teamsOk]) hs

theorem execLaceCopyComplete_nextOk (core k : ℕ) (s : State) (hs : TeamsOk s.teams) :
    NextOk (execLaceCopyComplete core k s) := by
  grind [execLaceCopyComplete, nextOk_next, State.wakeCause_teams, State.setLace_teams, State.completeNow_teamsOk,
      State.setEngine_teams]

/-! ### Resend -/

theorem execGenerationHoldExpiry_nextOk (ctx : ℕ) (s : State) (hs : TeamsOk s.teams) :
    NextOk (execGenerationHoldExpiry ctx s) := by
  grind [execGenerationHoldExpiry, nextOk_next, State.resumeNow_teamsOk]

theorem execFaultHalt_nextOk (ctx : ℕ) (s : State) (hs : TeamsOk s.teams) : NextOk (execFaultHalt ctx s) := by
  unfold execFaultHalt
  grind [nextOk_next, State.linkHalt_teamsOk, State.stopHalt_teamsOk, State.haltFault_teamsOk]

theorem execFaultResume_nextOk (wr : Writer) (v ctx : ℕ) (s : State) (hs : TeamsOk s.teams) :
    NextOk (execFaultResume wr v ctx s) := by
  grind [execFaultResume, nextOk_next, foldl_teamsOk, State.setEngine_teams, State.resumeTeam_teamsOk,
      State.stale_teams]

theorem execFaultKill_nextOk (wr : Writer) (v ctx : ℕ) (s : State) (hs : TeamsOk s.teams) :
    NextOk (execFaultKill wr v ctx s) := by
  grind [execFaultKill, nextOk_next, State.kill_teamsOk, State.stale_teams]

theorem execFaultQueueRdWrite_nextOk (wr : Writer) (v : ℕ) (rd : BitVec 16) (s : State) (hs : TeamsOk s.teams) :
    NextOk (execFaultQueueRdWrite wr v rd s) := by
  grind [execFaultQueueRdWrite, nextOk_next, State.modVD_teams, State.drainFaults_teams]

theorem execHcall_nextOk (o : FRI) (s : State) (hs : TeamsOk s.teams) : NextOk (execHcall o s) :=
  (nextOk_next _).2 <| s.byTeam_teamsOk _ (fun s t h => by grind [State.guarded_teamsOk, State.fallThrough_teamsOk,
    State.sendRecord_teams, State.settle_teamsOk]) hs

theorem execRfh_nextOk (o : F3) (s : State) (hs : TeamsOk s.teams) : NextOk (execRfh o s) :=
  (nextOk_next _).2 <| s.byTeam_teamsOk _ (fun s t h => by grind [State.rfhForm_teamsOk, State.leave_teamsOk,
    State.stallAt_teamsOk, State.resendKept_teamsOk]) hs

theorem execRfhSkip_nextOk (o : F3) (s : State) (hs : TeamsOk s.teams) : NextOk (execRfhSkip o s) :=
  (nextOk_next _).2 <| s.byTeam_teamsOk _ (fun s t h => by grind [State.rfhForm_teamsOk, State.leave_teamsOk]) hs

/-! ### Clause -/

theorem execClauseStart_nextOk (s : State) (hs : TeamsOk s.teams) : NextOk (execClauseStart s) :=
  (nextOk_next _).2 <| s.unlessHeld_teamsOk (fun s h => by grind [State.engineClause_teamsOk,
    State.teamClause_teamsOk]) hs

/-! ### Sched -/

theorem execIssueWindowEnd_nextOk (c : ℕ) (s : State) (hs : TeamsOk s.teams) : NextOk (execIssueWindowEnd c s) := by
  grind [execIssueWindowEnd, nextOk_next, State.endWindow_teams]

theorem execIssueWindowStart_nextOk (c : ℕ) (s : State) (hs : TeamsOk s.teams) :
    NextOk (execIssueWindowStart c s) := by
  grind [execIssueWindowStart, nextOk_next, State.schedule_teamsOk, State.modCore_teams, State.endWindow_teams]

theorem execWindowReclaim_nextOk (c : ℕ) (s : State) (hs : TeamsOk s.teams) : NextOk (execWindowReclaim c s) := by
  grind [execWindowReclaim, nextOk_next, State.schedule_teamsOk, State.modCore_teams, State.suspend_teams]

theorem execTeamStreamWake_nextOk (c : ℕ) (s : State) (hs : TeamsOk s.teams) : NextOk (execTeamStreamWake c s) := by
  grind [execTeamStreamWake, nextOk_next, State.setCore_teams]

/-! ### Tenancy -/

theorem execOwnershipWrite_nextOk (wr : Writer) (dom : ℕ) (reg : OwnReg) (val : ℕ) (s : State) (hs : TeamsOk s.teams)
    :
    NextOk (execOwnershipWrite wr dom reg val s) := by
  grind [execOwnershipWrite, nextOk_next, State.modDomain_teams, State.beforeRemoval_teams, State.setBusy_teams,
      State.writeUnit_teams, State.scrubChans_teams]

theorem execDomainControlWrite_nextOk (wr : Writer) (dom : ℕ) (val : Word) (s : State) (hs : TeamsOk s.teams) :
    NextOk (execDomainControlWrite wr dom val s) := by
  grind [execDomainControlWrite, nextOk_next, State.setBusy_teams, State.journal_teams, State.setDomain_teams,
      State.dropVds_teams, State.modDomain_teams, State.createDomain_teams]

theorem execMscScratchWrite_nextOk (wr : Writer) (dom : ℕ) (w : BitVec 4) (s : State) (hs : TeamsOk s.teams) :
    NextOk (execMscScratchWrite wr dom w s) := by
  grind [execMscScratchWrite, nextOk_next, State.setBusy_teams, State.clearWays_teams, State.resetTrips_teams,
      State.lowerLines_teams, State.modDomain_teams, State.moveScratch_teams]

theorem execVdControlWrite_nextOk (wr : Writer) (vd : ℕ) (val : Word) (s : State) (hs : TeamsOk s.teams) :
    NextOk (execVdControlWrite wr vd val s) := by
  grind [execVdControlWrite, nextOk_next, State.modDomain_teams, State.setVD_teams]

theorem execCalendarSwap_nextOk (wr : Writer) (cal : CalId) (s : State) (hs : TeamsOk s.teams) :
    NextOk (execCalendarSwap wr cal s) := by
  unfold execCalendarSwap
  grind [nextOk_next, State.modCal_teams]

theorem execCalendarEntryWrite_nextOk (wr : Writer) (cal : CalId) (entry : ℕ) (val : Byte) (s : State) (hs : TeamsOk
    s.teams) :
    NextOk (execCalendarEntryWrite wr cal entry val s) := by
  grind [execCalendarEntryWrite, nextOk_next, State.modCal_teams]

theorem execBucketWrite_nextOk (wr : Writer) (bkt : BktId) (rho : BitVec 10) (sigma : BitVec 12) (s : State) (hs :
    TeamsOk s.teams) :
    NextOk (execBucketWrite wr bkt rho sigma s) := by
  unfold execBucketWrite
  grind [nextOk_next, State.modCore_teams, State.setLink_teams, State.modVD_teams, State.clipFills_teams]

theorem execContractWrite_nextOk (wr : Writer) (ch vd : ℕ) (guar rho : BitVec 10) (sigma : BitVec 12) (s : State) (hs
    : TeamsOk s.teams) :
    NextOk (execContractWrite wr ch vd guar rho sigma s) := by
  grind [execContractWrite, nextOk_next, State.modDomain_teams, State.setChan_teams]

theorem execChannelRequestIssue_nextOk (ch : ℕ) (s : State) (hs : TeamsOk s.teams) :
    NextOk (execChannelRequestIssue ch s) := by
  grind [execChannelRequestIssue, nextOk_next, State.setChan_teams, State.modVD_teams, State.chanRead_teams]

/-! ### Preempt -/

theorem execPreemptionRequest_nextOk (a : ℕ) (forced : Bool) (s : State) (hs : TeamsOk s.teams) :
    NextOk (execPreemptionRequest a forced s) := by
  grind [execPreemptionRequest, nextOk_next, State.preempt_teamsOk]

theorem execSaveComplete_nextOk (a : ℕ) (s : State) (hs : TeamsOk s.teams) : NextOk (execSaveComplete a s) := by
  grind [execSaveComplete, nextOk_next, foldl_teamsOk, State.writeImages_teams, State.haltGang_teamsOk,
      State.modGang_teams]

/-! ### Distribute -/

theorem execPlacementStep_nextOk (vd : ℕ) (cores : List ℕ) (s : State) (hs : TeamsOk s.teams) :
    NextOk (execPlacementStep vd cores s) := by
  grind [execPlacementStep, nextOk_next, State.restoreGang_teamsOk, State.moveGang_teams, State.placeFirst_teamsOk]

theorem execSwitchStart_nextOk (wr : Writer) (outVd inVd : ℕ) (dies : BitVec 4) (s : State) (hs : TeamsOk s.teams) :
    NextOk (execSwitchStart wr outVd inVd dies s) := by
  grind [execSwitchStart, nextOk_next]

theorem execFrameBoundary_nextOk (s : State) (hs : TeamsOk s.teams) : NextOk (execFrameBoundary s) := by
  grind [execFrameBoundary, nextOk_next, State.strike_teams, State.switchBegin_teamsOk, State.boundary_teams,
      State.switchDone_teams]

theorem execSwitchDeadline1_nextOk (s : State) (hs : TeamsOk s.teams) : NextOk (execSwitchDeadline1 s) := by
  grind [execSwitchDeadline1, nextOk_next, State.switchDone_teams]

theorem execSwitchDeadline2_nextOk (s : State) (hs : TeamsOk s.teams) : NextOk (execSwitchDeadline2 s) := by
  grind [execSwitchDeadline2, nextOk_next, State.switchDone_teams, foldl_teamsOk, State.flush_teamsOk,
      State.preempt_teamsOk]

theorem execSwitchFinish_nextOk (s : State) (hs : TeamsOk s.teams) : NextOk (execSwitchFinish s) := by
  grind [execSwitchFinish, nextOk_next, State.switchDone_teams, State.overruns_teams]

/-! ### Queues -/

theorem execNotifyWrite_nextOk (wr : Writer) (q : ℕ) (val : Word) (s : State) (hs : TeamsOk s.teams) :
    NextOk (execNotifyWrite wr q val s) := by
  grind [execNotifyWrite, nextOk_next, State.setQueue_teams, State.setQerr_teams]

theorem execLaunchComplete_nextOk (id : ℕ) (s : State) (hs : TeamsOk s.teams) : NextOk (execLaunchComplete id s) := by
  grind [execLaunchComplete, nextOk_next, State.unlessHeld_teamsOk, State.completeLaunch_teams]

theorem execPacketTake_nextOk (q : ℕ) (s : State) (hs : TeamsOk s.teams) : NextOk (execPacketTake q s) :=
  (nextOk_next _).2 <| s.unlessHeld_teamsOk (fun s h => by grind [State.headPkt_teams, State.setQerr_teams,
    State.readRecord_teams, State.takeLaunch_teams, State.packetDone_teams, State.takeHead_teams,
    State.releaseAll_teams, State.takeStore_teams]) hs

theorem execWaitvalPoll_nextOk (q : ℕ) (s : State) (hs : TeamsOk s.teams) : NextOk (execWaitvalPoll q s) :=
  (nextOk_next _).2 <| s.unlessHeld_teamsOk (fun s h => by grind [State.headPkt_teams, State.setQerr_teams,
    State.unitRead_teams, State.setQueue_teams]) hs

theorem execPauseClear_nextOk (wr : Writer) (vd : ℕ) (s : State) (hs : TeamsOk s.teams) :
    NextOk (execPauseClear wr vd s) := by
  grind [execPauseClear, nextOk_next, State.setVD_teams, State.sendMsix_teams]

theorem execHostSnoop_nextOk (_pa : ℕ) (s : State) (hs : TeamsOk s.teams) : NextOk (execHostSnoop _pa s) := by
  grind [execHostSnoop, nextOk_next]

theorem execHostMemAccess_nextOk (pa : ℕ) (wr : Option (List Byte)) (s : State) (hs : TeamsOk s.teams) :
    NextOk (execHostMemAccess pa wr s) := by
  unfold execHostMemAccess
  grind [nextOk_next, State.wrBytes_teams]

/-! ### Coolant -/

theorem execLeaveGrant_nextOk (z : ℕ) (s : State) (hs : TeamsOk s.teams) : NextOk (execLeaveGrant z s) := by
  grind [execLeaveGrant, nextOk_next, State.scanLeave_teams]

theorem execZoneEvaluation_nextOk (z flow temp pres : ℕ) (s : State) (hs : TeamsOk s.teams) :
    NextOk (execZoneEvaluation z flow temp pres s) := by
  grind [execZoneEvaluation, nextOk_next, State.modZone_teams, State.tellTrap_teams, State.setSensed_teams]

theorem execDryDeclaration_nextOk (z : ℕ) (s : State) (hs : TeamsOk s.teams) : NextOk (execDryDeclaration z s) := by
  grind [execDryDeclaration, nextOk_next, State.zoneEvent_teams, State.modZone_teams, State.stopLeave_teams,
      State.tellTrap_teams, foldl_teamsOk, State.preempt_teamsOk]

theorem execEvacuationSaveTimeout_nextOk (z : ℕ) (s : State) (hs : TeamsOk s.teams) :
    NextOk (execEvacuationSaveTimeout z s) := by
  grind [execEvacuationSaveTimeout, nextOk_next, foldl_teamsOk, State.modCore_teams, State.kill_teamsOk]

theorem execEvacuationPurge_nextOk (z : ℕ) (s : State) (hs : TeamsOk s.teams) : NextOk (execEvacuationPurge z s) := by
  grind [execEvacuationPurge, nextOk_next, State.setDie_teams, State.setWelt_teams, State.modZone_teams]

theorem execEvacuationPulse_nextOk (z : ℕ) (s : State) (hs : TeamsOk s.teams) : NextOk (execEvacuationPulse z s) := by
  grind [execEvacuationPulse, nextOk_next, State.modZone_teams]

theorem execEvacuationReprime_nextOk (z : ℕ) (s : State) (hs : TeamsOk s.teams) :
    NextOk (execEvacuationReprime z s) := by
  grind [execEvacuationReprime, nextOk_next, State.modZone_teams, State.setDie_teams]

theorem execEvacuationVerify_nextOk (z flow : ℕ) (s : State) (hs : TeamsOk s.teams) :
    NextOk (execEvacuationVerify z flow s) := by
  unfold execEvacuationVerify
  extract_lets read
  have hr (s : State) : (read s).teams = s.teams := State.modZone_teams _ _ _
  rw [nextOk_next]
  split
  · simpa [hr] using hs
  split
  next s1 _ _ =>
    have h1 : TeamsOk s1.teams := (hr s).symm ▸ hs
    split_ifs <;> simpa
  · exact hs

theorem execFenceClear_nextOk (wr : Writer) (z flow : ℕ) (s : State) (hs : TeamsOk s.teams) :
    NextOk (execFenceClear wr z flow s) := by
  grind [execFenceClear, nextOk_next, State.modZone_teams, State.zoneNormal_teams, State.fenceZone_teams]

theorem execCoolantZoneWrite_nextOk (wr : Writer) (z off : ℕ) (val : DWord) (s : State) (hs : TeamsOk s.teams) :
    NextOk (execCoolantZoneWrite wr z off val s) := by
  unfold execCoolantZoneWrite
  grind [nextOk_next, State.setZone_teams, State.fenceZone_teams, State.zoneNormal_teams, State.modZone_teams]

/-! ### Links -/

theorem execFlitReceive_nextOk (l : ℕ) (erased : List ℕ) (s : State) (hs : TeamsOk s.teams) :
    NextOk (execFlitReceive l erased s) := by
  grind [execFlitReceive, nextOk_next, State.giveSlot_teams, State.setLink_teams, State.modVD_teams,
      State.cross_teams]

theorem execRailFailure_nextOk (l rail : ℕ) (s : State) (hs : TeamsOk s.teams) :
    NextOk (execRailFailure l rail s) := by
  grind [execRailFailure, nextOk_next, State.logPkg_teams, State.setLink_teams]

theorem execLaneCalibration_nextOk (grp : ℕ) (weak : Bool) (s : State) (hs : TeamsOk s.teams) :
    NextOk (execLaneCalibration grp weak s) := by
  grind [execLaneCalibration, nextOk_next, State.logPkg_teams]

theorem execLinkDown_nextOk (l : ℕ) (s : State) (hs : TeamsOk s.teams) : NextOk (execLinkDown l s) := by
  grind [execLinkDown, nextOk_next, State.setLink_teams, foldl_teamsOk, State.linkStop_teamsOk]

theorem execLinkUp_nextOk (l : ℕ) (s : State) (hs : TeamsOk s.teams) : NextOk (execLinkUp l s) := by
  grind [execLinkUp, nextOk_next, State.setLink_teams]

theorem execScrubSector_nextOk (sector : ℕ) (s : State) (hs : TeamsOk s.teams) :
    NextOk (execScrubSector sector s) := by
  grind [execScrubSector, nextOk_next, State.logPkg_teams, State.poison_teams, State.mend_teams]

theorem execRepairByteWrite_nextOk (wr : Writer) (c q : ℕ) (val : Byte) (s : State) (hs : TeamsOk s.teams) :
    NextOk (execRepairByteWrite wr c q val s) := by
  grind [execRepairByteWrite, nextOk_next, State.modCore_teams]

/-! ### Mapping -/

theorem execHomeMapCommit_nextOk (wr : Writer) (v : ℕ) (s : State) (hs : TeamsOk s.teams) :
    NextOk (execHomeMapCommit wr v s) := by
  grind [execHomeMapCommit, nextOk_next, State.rdBytes_teams, State.modVD_teams, State.dropHomes_teams]

theorem execTlbInvalidate_nextOk (wr : Writer) (va : BitVec 40) (asid : BitVec 10) (size : BitVec 2) (s : State) (hs :
    TeamsOk s.teams) :
    NextOk (execTlbInvalidate wr va asid size s) := by
  grind [execTlbInvalidate, nextOk_next, State.invalidate_teams]

theorem execFrameRelease_nextOk (wr : Writer) (frame : BitVec 32) (s : State) (hs : TeamsOk s.teams) :
    NextOk (execFrameRelease wr frame s) := by
  grind [execFrameRelease, nextOk_next, foldl_teamsOk, State.releaseFrame_teams]

theorem execTrackerPeriodEnd_nextOk (stack v : ℕ) (s : State) (hs : TeamsOk s.teams) :
    NextOk (execTrackerPeriodEnd stack v s) := by
  grind [execTrackerPeriodEnd, nextOk_next, State.track_teams, State.setWelt_teams]

/-! ### Secure -/

theorem execAttestation_nextOk (wr : Writer) (k : ℕ) (s : State) (hs : TeamsOk s.teams) :
    NextOk (execAttestation wr k s) := by
  grind [execAttestation, nextOk_next, State.modDomain_teams, State.setKerr_teams, State.rdBytes_teams,
      State.wrBytes_teams]

theorem execKeyWrap_nextOk (wr : Writer) (k : ℕ) (s : State) (hs : TeamsOk s.teams) : NextOk (execKeyWrap wr k s) := by
  grind [execKeyWrap, nextOk_next, State.modDomain_teams, State.setKerr_teams, State.rdBytes_teams,
      State.wrBytes_teams, State.journal_teams]

theorem execJournalPeriod_nextOk (s : State) (hs : TeamsOk s.teams) : NextOk (execJournalPeriod s) := by
  grind [execJournalPeriod, nextOk_next, State.appendPeriod_teams]

theorem execJournalRdWrite_nextOk (wr : Writer) (k : ℕ) (rd : BitVec 16) (s : State) (hs : TeamsOk s.teams) :
    NextOk (execJournalRdWrite wr k rd s) := by
  grind [execJournalRdWrite, nextOk_next, State.modDomain_teams, State.summaries_teams, State.drainJournal_teams]

theorem execColdReset_nextOk (s : State) (_hs : TeamsOk s.teams) : NextOk (execColdReset s) := by
  grind [execColdReset, nextOk_next, State.resetRecords_teams, State.resetCommon_teamsOk]

theorem execWarmReset_nextOk (retention : Bool) (s : State) (_hs : TeamsOk s.teams) :
    NextOk (execWarmReset retention s) := by
  grind [execWarmReset, nextOk_next, foldl_teamsOk, State.retainKey_teams, State.appendPeriod_teams,
      State.endKeys_teams, State.putImage_teams, State.resetCommon_teamsOk, State.resetRecords_teams]

/-! ### Regs -/

theorem execRegisterWrite_nextOk (wr : Writer) (blk : Blk) (off : ℕ) (val : BitVec 1024) (s : State) (hs : TeamsOk
    s.teams) :
    NextOk (execRegisterWrite wr blk off val s) := by
  unfold execRegisterWrite
  grind [nextOk_next, State.writeTenancy_teams, State.writeContext_teams, State.writeReliability_teams,
      State.writeCoolant_teams, State.writeQueueBlk_teams, State.writePeer_teams]

theorem issued_nextOk {s : State} (hs : TeamsOk s.teams) (i : Instr) (d : OpDesc) : NextOk (.next (s.issueDesc i d)) :=
  (nextOk_next _).2 (s.issueDesc_teamsOk i d hs)

/-- Every instruction and every step of the package keeps each team under its own context id (R25): register instructions,
loads and stores, forms of `clrf` and soft traps by the lemma on what they share, each other one by its own. -/
theorem exec_nextOk (i : Instr) (s : State) (hs : TeamsOk s.teams) : NextOk (exec i s) := by
  cases i with
  | add _ | sub _ | mul _ | mulh _ | mad _ _ | div _ | rem _ | min _ | max _ | add64 _ _ | sub64 _ _ | mul64 _ _
  | lea _ | dp4 _ _ | li _ | liSx _ | liZx _ | and _ | or _ | xor _ | andn _ | shl _ _ | shr _ _ | sar _ _ | rot _
  | popc _ | clz _ | ffs _ | brev _ | bfe _ | bfi _ | clmul _ | sel _ | icmp _ _ | fcmp _ _ | pand _ | por _ | pxor _
  | pnot _ | pset _ _ | fadd _ | fsub _ | fmul _ | ffma _ | fmin _ | fmax _ | fdiv _ | fscale _ | fround _ _
  | fclass _ | fdot2 _ | frcp _ | frsq _ | fsqrt _ | fexp2 _ | flog2 _ | fsin _ | fcos _ | ftanh _ | cvt _ _
  | pack _ _ | packOx4 _ | unpack _ _ | unpackOx4 _ | xchg _ _ | vote _ _ | matchOp _ _ | redux _ _ | prefixOp _ _ _
  | pick _ | lid _ _ | segm _ _ _ =>
    exact issued_nextOk hs _ _
  | ld _ _ | st _ _ | ldu _ _ | stu _ _ | lds _ _ | sts _ _ | ldc _ _ | stc _ _ | ldk _ _ | setfe _ | clrfe _
  | atom _ _ | atomcas _ _ | red _ _ | atomf _ _ | redf _ _ =>
    exact (nextOk_next _).2 (s.issueMem_teamsOk _ _ hs)
  | clrf _ | clrfFen _ | clrfLoad _ =>
    exact (nextOk_next _).2 (s.clrfForm_teamsOk _ _ _ hs)
  | trap _ | brk _ =>
    exact (nextOk_next _).2 (s.softTrap_teamsOk _ _ _ hs)
  | br o => exact execBr_nextOk o s hs
  | brdiv o => exact execBrdiv_nextOk o s hs
  | join o => exact execJoin_nextOk o s hs
  | call o => exact execCall_nextOk o s hs
  | ret o => exact execRet_nextOk o s hs
  | exit o => exact execExit_nextOk o s hs
  | brx o => exact execBrx_nextOk o s hs
  | wait o => exact execWait_nextOk o s hs
  | nop o => exact execNop_nextOk o s hs
  | tfence o => exact execTfence_nextOk o s hs
  | getf o => exact execGetf_nextOk o s hs
  | getfClr o => exact execGetfClr_nextOk o s hs
  | rdsr o => exact execRdsr_nextOk o s hs
  | tbeg o => exact execTbeg_nextOk o s hs
  | tend o => exact execTend_nextOk o s hs
  | transactionCommit ctx => exact execTransactionCommit_nextOk ctx s hs
  | tabt o => exact execTabt_nextOk o s hs
  | tstat o => exact execTstat_nextOk o s hs
  | fence o => exact execFence_nextOk o s hs
  | pathf ps o => exact execPathf_nextOk ps o s hs
  | placef o => exact execPlacef_nextOk o s hs
  | barinit o => exact execBarinit_nextOk o s hs
  | arrive o => exact execArrive_nextOk o s hs
  | arriveInb o => exact execArriveInb_nextOk o s hs
  | arriveOutb o => exact execArriveOutb_nextOk o s hs
  | barwait ph1 o => exact execBarwait_nextOk ph1 o s hs
  | bwatch slot o => exact execBwatch_nextOk slot o s hs
  | decl k o => exact execDecl_nextOk k o s hs
  | redecl k o => exact execRedecl_nextOk k o s hs
  | undecl o => exact execUndecl_nextOk o s hs
  | placeq o => exact execPlaceq_nextOk o s hs
  | mlds o => exact execMlds_nextOk o s hs
  | mldsBar o bar => exact execMldsBar_nextOk o bar s hs
  | mswap qset => exact execMswap_nextOk qset s hs
  | mloop o => exact execMloop_nextOk o s hs
  | mdrain o => exact execMdrain_nextOk o s hs
  | mzero o => exact execMzero_nextOk o s hs
  | mcomp o => exact execMcomp_nextOk o s hs
  | mfuse qset => exact execMfuse_nextOk qset s hs
  | mread o => exact execMread_nextOk o s hs
  | mstat qset dst => exact execMstat_nextOk qset dst s hs
  | quadrantStart g q => exact execQuadrantStart_nextOk g q s hs
  | mloopStep g q bad => exact execMloopStep_nextOk g q bad s hs
  | matrixComplete g q => exact execMatrixComplete_nextOk g q s hs
  | nest op ty n => exact execNest_nextOk op ty n s hs
  | ragged pr n => exact execRagged_nextOk pr n s hs
  | fork o => exact execFork_nextOk o s hs
  | rdv o => exact execRdv_nextOk o s hs
  | engineProgramEnd g e => exact execEngineProgramEnd_nextOk g e s hs
  | lace o => exact execLace_nextOk o s hs
  | laceg o => exact execLaceg_nextOk o s hs
  | laceCopyStart core k => exact execLaceCopyStart_nextOk core k s hs
  | laceSourceRead core k granule => exact execLaceSourceRead_nextOk core k granule s hs
  | laceGranuleLanding core k granule => exact execLaceGranuleLanding_nextOk core k granule s hs
  | laceCopyComplete core k => exact execLaceCopyComplete_nextOk core k s hs
  | awlmodeOn cls o => exact execAwlmodeOn_nextOk cls o s hs
  | awlmodeOff o => exact execAwlmodeOff_nextOk o s hs
  | sessionDrainDone ch => exact execSessionDrainDone_nextOk ch s hs
  | sessionDeadline ch => exact execSessionDeadline_nextOk ch s hs
  | awlbc all o => exact execAwlbc_nextOk all o s hs
  | awlmac o => exact execAwlmac_nextOk o s hs
  | awlrd o => exact execAwlrd_nextOk o s hs
  | hcall o => exact execHcall_nextOk o s hs
  | rfh o => exact execRfh_nextOk o s hs
  | rfhSkip o => exact execRfhSkip_nextOk o s hs
  | tmaskOff o => exact execTmaskOff_nextOk o s hs
  | tmaskOn o => exact execTmaskOn_nextOk o s hs
  | hset o => exact execHset_nextOk o s hs
  | clauseStart => exact execClauseStart_nextOk s hs
  | issueWindowStart core => exact execIssueWindowStart_nextOk core s hs
  | issueWindowEnd core => exact execIssueWindowEnd_nextOk core s hs
  | windowReclaim core => exact execWindowReclaim_nextOk core s hs
  | teamStreamWake core => exact execTeamStreamWake_nextOk core s hs
  | placementStep vd cores => exact execPlacementStep_nextOk vd cores s hs
  | teamEnd ctx => exact execTeamEnd_nextOk ctx s hs
  | requestAtTarget n => exact execRequestAtTarget_nextOk n s hs
  | completionReceive n => exact execCompletionReceive_nextOk n s hs
  | faultHalt ctx => exact execFaultHalt_nextOk ctx s hs
  | generationHoldExpiry ctx => exact execGenerationHoldExpiry_nextOk ctx s hs
  | frameBoundary => exact execFrameBoundary_nextOk s hs
  | channelRequestIssue ch => exact execChannelRequestIssue_nextOk ch s hs
  | leaveGrant zone => exact execLeaveGrant_nextOk zone s hs
  | preemptionRequest gang forced => exact execPreemptionRequest_nextOk gang forced s hs
  | saveComplete gang => exact execSaveComplete_nextOk gang s hs
  | trackerPeriodEnd stack vd => exact execTrackerPeriodEnd_nextOk stack vd s hs
  | scrubSector sector => exact execScrubSector_nextOk sector s hs
  | flitReceive link erased => exact execFlitReceive_nextOk link erased s hs
  | railFailure link rail => exact execRailFailure_nextOk link rail s hs
  | laneCalibration grp weak => exact execLaneCalibration_nextOk grp weak s hs
  | linkDown link => exact execLinkDown_nextOk link s hs
  | zoneEvaluation zone flow temp pres => exact execZoneEvaluation_nextOk zone flow temp pres s hs
  | dryDeclaration zone => exact execDryDeclaration_nextOk zone s hs
  | evacuationSaveTimeout zone => exact execEvacuationSaveTimeout_nextOk zone s hs
  | evacuationPurge zone => exact execEvacuationPurge_nextOk zone s hs
  | evacuationPulse zone => exact execEvacuationPulse_nextOk zone s hs
  | evacuationReprime zone => exact execEvacuationReprime_nextOk zone s hs
  | evacuationVerify zone flow => exact execEvacuationVerify_nextOk zone flow s hs
  | switchStart wr outVd inVd dies => exact execSwitchStart_nextOk wr outVd inVd dies s hs
  | switchDeadline1 => exact execSwitchDeadline1_nextOk s hs
  | switchDeadline2 => exact execSwitchDeadline2_nextOk s hs
  | switchFinish => exact execSwitchFinish_nextOk s hs
  | homeMapCommit wr vd => exact execHomeMapCommit_nextOk wr vd s hs
  | faultQueueRdWrite wr vd rd => exact execFaultQueueRdWrite_nextOk wr vd rd s hs
  | faultResume wr vd ctx => exact execFaultResume_nextOk wr vd ctx s hs
  | faultKill wr vd ctx => exact execFaultKill_nextOk wr vd ctx s hs
  | tlbInvalidate wr va asid size => exact execTlbInvalidate_nextOk wr va asid size s hs
  | frameRelease wr frame => exact execFrameRelease_nextOk wr frame s hs
  | ownershipWrite wr dom reg val => exact execOwnershipWrite_nextOk wr dom reg val s hs
  | domainControlWrite wr dom val => exact execDomainControlWrite_nextOk wr dom val s hs
  | mscScratchWrite wr dom w => exact execMscScratchWrite_nextOk wr dom w s hs
  | vdControlWrite wr vd val => exact execVdControlWrite_nextOk wr vd val s hs
  | calendarSwap wr cal => exact execCalendarSwap_nextOk wr cal s hs
  | calendarEntryWrite wr cal entry val => exact execCalendarEntryWrite_nextOk wr cal entry val s hs
  | bucketWrite wr bkt rho sigma => exact execBucketWrite_nextOk wr bkt rho sigma s hs
  | contractWrite wr ch vd guar rho sigma => exact execContractWrite_nextOk wr ch vd guar rho sigma s hs
  | repairByteWrite wr core q val => exact execRepairByteWrite_nextOk wr core q val s hs
  | coolantZoneWrite wr zone off val => exact execCoolantZoneWrite_nextOk wr zone off val s hs
  | fenceClear wr zone flow => exact execFenceClear_nextOk wr zone flow s hs
  | notifyWrite wr q val => exact execNotifyWrite_nextOk wr q val s hs
  | packetTake q => exact execPacketTake_nextOk q s hs
  | waitvalPoll q => exact execWaitvalPoll_nextOk q s hs
  | launchComplete l => exact execLaunchComplete_nextOk l s hs
  | pauseClear wr vd => exact execPauseClear_nextOk wr vd s hs
  | hostSnoop pa => exact execHostSnoop_nextOk pa s hs
  | hostMemAccess pa wr => exact execHostMemAccess_nextOk pa wr s hs
  | attestation wr dom => exact execAttestation_nextOk wr dom s hs
  | keyWrap wr dom => exact execKeyWrap_nextOk wr dom s hs
  | journalPeriod => exact execJournalPeriod_nextOk s hs
  | journalRdWrite wr dom rd => exact execJournalRdWrite_nextOk wr dom rd s hs
  | coldReset => exact execColdReset_nextOk s hs
  | warmReset retention => exact execWarmReset_nextOk retention s hs
  | registerWrite wr blk off val => exact execRegisterWrite_nextOk wr blk off val s hs
  | completionAcknowledgement n => exact execCompletionAcknowledgement_nextOk n s hs
  | linkUp link => exact execLinkUp_nextOk link s hs

/-! ### Steps -/

theorem State.runTeam_nextOk (s : State) (t : Team) (hs : TeamsOk s.teams) : NextOk (s.runTeam t) := by
  unfold State.runTeam
  split
  · exact exec_nextOk _ _ hs
  · split
    · exact exec_nextOk _ _ hs
    · exact (nextOk_next _).2 (s.takeTrap_teamsOk _ _ _ hs)

theorem State.runEngine_nextOk (s : State) (g k : ℕ) (hs : TeamsOk s.teams) : NextOk (s.runEngine g k) := by
  unfold State.runEngine
  extract_lets e
  split
  · exact exec_nextOk _ _ hs
  · split
    · exact exec_nextOk _ _ hs
    · simpa using hs

theorem State.runTurn_nextOk (s : State) (hs : TeamsOk s.teams) : NextOk s.runTurn := by
  unfold State.runTurn
  split
  · simpa using hs
  · exact s.runEngine_nextOk _ _ hs
  · split
    · exact s.runTeam_nextOk _ hs
    · simpa using hs

theorem State.tick_nextOk (s : State) (hs : TeamsOk s.teams) : NextOk s.tick := by
  unfold State.tick
  split
  · exact exec_nextOk _ _ hs
  · simpa using hs

theorem State.takeInput_nextOk (s : State) (i : Input) (hs : TeamsOk s.teams) : NextOk (s.takeInput i) := by
  cases i with
  | event e =>
    simp only [State.takeInput]
    split
    · exact exec_nextOk _ _ hs
    · simpa using hs
  | issue a =>
    have ha : TeamsOk (s.give' a).teams := s.give'_teamsOk a hs
    have issued : NextOk (if (s.give' a).turnMay then (s.give' a).runTurn else .next (s.give' a)) := by
      split
      · exact State.runTurn_nextOk _ ha
      · simpa using ha
    cases a with
    | none => exact s.tick_nextOk hs
    | team ctx => exact issued
    | engine g k => exact issued

theorem State.firstDue_nextOk (s : State) (es : List Instr) (hs : TeamsOk s.teams) :
    ∀ o, s.firstDue es = some o → NextOk o := by
  induction es with
  | nil => simp [State.firstDue]
  | cons e es ih =>
    intro o h
    have he := exec_nextOk e s hs
    unfold State.firstDue at h
    split at h
    next t eq =>
      split at h
      · exact ih o h
      · obtain rfl := Option.some.inj h
        rwa [eq] at he
    next => obtain rfl := Option.some.inj h; exact he

theorem State.idle_nextOk (s : State) (hs : TeamsOk s.teams) : NextOk s.idle := by
  have ht := s.tick_nextOk hs
  unfold State.idle
  split
  next t eq =>
    rw [eq, nextOk_next] at ht
    rw [nextOk_next]
    cases h : t.busyCores.findSome? (fun c => t.offer c true) with
    | none => exact ht
    | some u =>
      obtain ⟨c, _, hc⟩ := List.exists_of_findSome?_eq_some h
      exact State.offer_teamsOk hc ht
  next => exact ht

theorem State.waits_nextOk (s : State) (hs : TeamsOk s.teams) : NextOk s.waits := by
  have hg : TeamsOk s.gateIdle.teams := s.gateIdle_teamsOk hs
  unfold State.waits
  cases h : s.gateIdle.firstDue s.gateIdle.due with
  | none => simpa only [h, Option.getD_none] using s.gateIdle.idle_nextOk hg
  | some o => simpa only [h, Option.getD_some] using s.gateIdle.firstDue_nextOk _ hg o h

theorem State.tryRun_nextOk (s : State) (hs : TeamsOk s.teams) : NextOk s.tryRun := by
  have hr := s.runTurn_nextOk hs
  unfold State.tryRun
  split
  next t eq =>
    split
    · exact s.waits_nextOk hs
    · rwa [eq] at hr
  next => exact hr

theorem State.byDefault_nextOk (s : State) (hs : TeamsOk s.teams) : NextOk s.byDefault := by
  unfold State.byDefault
  extract_lets n s1
  split
  · exact State.waits_nextOk _ hs
  next t ts eq =>
    have ht (u : State) (hu : u ∈ t :: ts) : NextOk u.tryRun := u.tryRun_nextOk (State.agents_teamsOk (s := s1) (by rwa [eq]) hs)
    split_ifs
    · exact ht t (by simp)
    · exact s1.tick_nextOk hs
    · cases h : ts.getLast? with
      | none => exact ht t (by simp)
      | some u => exact ht u (List.mem_cons_of_mem _ (List.mem_of_getLast? h))
    · cases h : s1.firstDue s1.due with
      | none => exact ht t (by simp)
      | some o => exact s1.firstDue_nextOk _ hs o h

theorem step_nextOk (s : State) (hs : TeamsOk s.teams) : NextOk (step s) := by
  unfold step State.stepOnce
  split
  · split
    · exact fun _ h => nomatch h
    · exact s.byDefault_nextOk hs
  · split
    · exact fun _ h => nomatch h
    · exact State.takeInput_nextOk _ _ hs

end Sys2Proof.Machine

/-- Settles O41: no operation of a step does anything to the table of teams but put a team under its own context id, take
one out, or change teams in place without their ids. -/
theorem stepKeepsTeams : Obligations.StepKeepsTeams :=
  fun s s' hs h => Sys2Proof.Machine.step_nextOk s hs s' h
end

section
/-! PROOF. A step runs the instruction that is decoded (O38): the statement, which does not ask that the scratchpad
be in canonical form, fails where it is not. -/

namespace Sys2Proof.Machine

/-- A scratchpad that is not in canonical form: the byte at 3 stands behind the one at 0x200, which hides it. -/
def strayPad : Mem := [(0x200, 1), (3, 7)]

/-- A team with a handler whose record goes to 0x200, standing at a word that is no instruction. -/
def strayTeam : Team :=
  { resetTeam with
    ctx := 1, fam := 1, group := 1, pc := 0x2000, clause := [0], loaded := true
    handler := { noHandler with isSet := true, addr := 0x3000, off := 0x200 }
    lanes := [{ slot := 0, vid := 0, regs := [], p := 1, tx := noTx, opened := [], blind := [] }] }

/-- The package in which `strayTeam` has its turn next and its group has `strayPad`. -/
def strayState : State :=
  { State.reset with
    inputs := [.issue (.team 1)], teams := [(1, strayTeam)]
    groups := [(1, { resetGroup with core := 2, spadLen := 4096, spad := strayPad })]
    cores := [(2, { resetCore with window := 1, running := some 1 })] }

theorem strayState_team : strayState.team? 1 = some strayTeam := rfl

theorem strayTeam_issues : Claims.Issues strayState strayTeam where
  running := rfl
  window := rfl
  clocked := by decide +kernel
  woken := rfl
  resides := rfl
  parked := rfl
  lanes := List.cons_ne_nil _ _

theorem strayTeam_word : decode (strayTeam.clause.drop strayTeam.word) = .error .opcode := by decide +kernel

/-- What `strayPad` holds at 3 once the trap record, whose first byte is 0, has taken the cell at 0x200 away. -/
theorem step_strayState_pad :
    (match step strayState with
      | .next s => (s.group 1).spad.read 3
      | _ => 0) = 7 := by decide +kernel

end Sys2Proof.Machine
end

/-- Refutes O38: in a scratchpad that is not in canonical form, which the statement allows (it has no premise
`memOk`), the record of the ILLEGAL trap removes a cell that hid another one, so that a byte outside the record reads
7 where it read 0 (`Sys2Proof.Machine.strayState`). -/
theorem not_stepRunsDecoded : ¬ Obligations.StepRunsDecoded := by
  unfold Obligations.StepRunsDecoded
  intro h
  have hpad := Sys2Proof.Machine.step_strayState_pad
  obtain ⟨-, -, hbad⟩ := (h Sys2Proof.Machine.strayState [] rfl).1 Sys2Proof.Machine.strayTeam rfl
    Sys2Proof.Machine.strayState_team Sys2Proof.Machine.strayTeam_issues
  obtain ⟨s', spc, sword, hstep, htrap⟩ := hbad .opcode rfl rfl rfl (by decide) Sys2Proof.Machine.strayTeam_word
  have hout := htrap.outside 3 (Or.inl (by decide))
  rw [hstep] at hpad
  exact absurd (hpad.symm.trans hout) (by decide)

section
/-! PROOF. Control instructions of a team (O15): the checks of a control instruction that nothing stops, the
position after it, and the branches, calls and returns. -/

namespace Sys2Proof.Claims
open Sys2Proof.Machine

/-! ### Positions (R95, R107) -/

theorem nextHeader_eq (t : Team) : t.nextHeader = nextClause t := by
  rw [Team.nextHeader, nextClause, BitVec.ofNat_mul]
  rfl

theorem brTarget_eq (t : Team) (off : Word) : brTarget t.pc off = target t off := by
  have h : off.signExtend 64 <<< 3 = 8 * off.signExtend 64 := by bv_omega
  rw [brTarget, target, h]

/-! ### A control instruction that nothing stops (R146) -/

section
variable {s : State} {t : Team} {rs : List (Reg × Nat)} {p : Pred}

theorem UniClear.atCore (c : UniClear s t rs p) (hp : ∀ x ∈ rs, 0 < x.2) : AtCore s t rs where
  placed x hx k hk := by
    have hn : Reg.noName x.1 = false := by
      by_contra h
      have h' : Reg.noName x.1 = true := by simpa using h
      simp only [Reg.noName] at h'
      simp [regNums, h'] at hk
    obtain ⟨hlt, hkind⟩ := c.placed x hx k hk
    obtain ⟨-, hself⟩ := c.placed x hx _ (mem_self_regNums (hp x hx) hn)
    exact ⟨hlt, hkind.trans hself.symm, .inr hkind⟩
  ready := c.ready
  pos := hp

theorem locOf_uniClear (c : UniClear s t rs p) (hp : ∀ x ∈ rs, 0 < x.2) {x : Reg × Nat} (hx : x ∈ rs) :
    s.locOf t x.1 = .imm ∨ s.locOf t x.1 = .team := by
  rw [locOf_lane (c.atCore hp) hx]
  by_cases hn : Reg.noName x.1 = true
  · simp [hn]
  · obtain ⟨-, hself⟩ := c.placed x hx _ (mem_self_regNums (hp x hx) (by simpa using hn))
    simp [hn, hself]

theorem teamRegsCause_uniClear (c : UniClear s t rs p) (hp : ∀ x ∈ rs, 0 < x.2) :
    s.teamRegsCause t rs p.num.toNat = none := by
  have hpend : t.predPend true p.num.toNat = false := by
    simpa using predPend_clear (t := t) (ps := [(true, p.num.toNat)])
      (fun e he ho q hq => by simp only [List.mem_singleton] at hq; subst hq; exact c.readyP e he ho)
  have hrem : rs.any (fun r => (s.locOf t r.1).remote) = false := List.any_eq_false.2 fun x hx => by
    rcases locOf_uniClear c hp hx with h | h <;> simp [h, Loc.remote]
  have hlane : rs.any (fun r => s.locOf t r.1 == .lane) = false := List.any_eq_false.2 fun x hx => by
    rcases locOf_uniClear c hp hx with h | h <;> simp [h]
  simp [State.teamRegsCause, firstCause, anyNone_clear (c.atCore hp), anyPend_clear (c.atCore hp),
    anyApart_clear (c.atCore hp), hpend, hrem, hlane]

theorem guarded_uniClear (c : UniClear s t rs p) (hp : ∀ x ∈ rs, 0 < x.2) (n : Nat) (off on : State → State) :
    s.guarded t n rs p off on = if s.qHolds t p then on s else off s := by
  simp only [State.guarded, teamRegsCause_uniClear c hp, qPred_quiet c.quiet]

theorem UniClear.setTeam (c : UniClear s t rs p) : UniClear (s.setTeam t) t rs p :=
  ⟨c.placed, c.ready, c.readyP, ⟨c.quiet.cells, c.quiet.q⟩⟩

theorem UniClear.noRegs (c : UniClear s t rs p) : UniClear s t [] p := ⟨by simp, by simp, c.readyP, c.quiet⟩

end

/-! ### The team alone changes -/

section
variable {s s1 s' : State} {t t' : Team} {rs : List Nat}

theorem Alone.of_setTeam (h : Alone (s.setTeam t) s' t t' rs) : Alone s s' t t' rs where
  frame := (State.Frame.setTeam rfl).trans h.frame
  uni := (State.KeepsUni.of_fam (s := s) (s' := s.setTeam t) rfl _ _).trans h.uni
  team := h.team

/-- A team put back after uniform registers have been written. -/
theorem Alone.settle_after (hf : s.Frame s1 t) (hk : s.KeepsUni s1 t rs []) (hs : s1.stamp = s.stamp)
    (h : t'.ctx = t.ctx) : Alone s (s1.settle t') t { t' with last := s.stamp } rs where
  frame := hf.trans (State.Frame.settle h)
  uni := hk.trans (State.KeepsUni.of_fam (settle_fam s1 t' t.fam) _ _)
  team := by simp [settle_team?, h, hs]

theorem Alone.settle (h : t'.ctx = t.ctx) : Alone s (s.settle t') t { t' with last := s.stamp } rs :=
  Alone.settle_after (State.Frame.refl s t) (State.KeepsUni.of_fam rfl _ _) rfl h

theorem branchTo_some (h : s.team? t.ctx = some t) (pc : DWord) : s.branchTo t.ctx pc = s.settle (t.endClause pc) := by
  simp [State.branchTo, h]

theorem fallThrough_some (h : s.team? t.ctx = some t) : s.fallThrough t.ctx = s.branchTo t.ctx (nextClause t) := by
  simp [State.fallThrough, State.branchTo, h, nextHeader_eq]

theorem branchTo_alone (h : s.team? t.ctx = some t) (pc : DWord) :
    Alone s (s.branchTo t.ctx pc) t (atClause s t pc) rs := by
  rw [branchTo_some h]
  exact Alone.settle (t' := t.endClause pc) rfl

/-- A branch that is taken or not. -/
theorem branchIf_alone (h : s.team? t.ctx = some t) (b : Bool) (pc : DWord) :
    Alone s (if b = true then s.branchTo t.ctx pc else s.fallThrough t.ctx) t
      (atClause s t (if b = true then pc else nextClause t)) rs := by
  cases b
  · simpa [fallThrough_some h] using branchTo_alone h (nextClause t)
  · simpa using branchTo_alone h pc

end

/-! ### Branches, calls and returns (R136 to R140) -/

section
variable {o : FBR} {s : State} {t : Team}

theorem opcOf_fbr {i : Instr} {opc : BitVec 8} (h : encode i = [o.word opc]) : opcOf i = opc.toNat := by
  simp [opcOf, h, Laws.Encoding.fbr_top]

theorem ne_lit_of_okGroup {r : Reg} {n : Nat} (h : r.okGroup n = true) : r ≠ Reg.lit := by
  rintro rfl
  revert h
  simp [Reg.okGroup, show Reg.lit ≠ Reg.z by decide]

theorem execBr_alone (hr : s.Runs t) (c : UniClear s t [] o.p) : ∃ s', exec (.br o) s = .next s'
    ∧ Alone s s' t (atClause s t (if s.qHolds t o.p then target t o.off else nextClause t)) [] := by
  refine ⟨_, rfl, Alone.of_setTeam ?_⟩
  rw [byAgent_team hr, issuing_of_opc (by rw [opcOf_fbr (o := o) rfl]; rfl), guarded_uniClear c.setTeam (by simp),
    brTarget_eq]
  exact branchIf_alone (State.team?_setTeam_same s t) (s.qHolds t o.p) _

theorem execBrx_alone (hr : s.Runs t) (c : UniClear s t [(o.r, 1)] o.p) : ∃ s', exec (.brx o) s = .next s'
    ∧ Alone s s' t (atClause s t (if s.qHolds t o.p then target t o.off + 16 * s.uniVal t o.r 1 else nextClause t)) [] := by
  refine ⟨_, rfl, Alone.of_setTeam ?_⟩
  have hv : ((s.uniVal t o.r 1).setWidth 32).setWidth 64 <<< 4 = 16 * s.uniVal t o.r 1 := by
    have hlow : ((s.uniVal t o.r 1).setWidth 32).setWidth 64 = s.uniVal t o.r 1 := by
      unfold State.uniVal
      by_cases hz : o.r = Reg.z <;> simp [hz]
    rw [hlow]
    bv_omega
  rw [byTeam_team hr, issuing_of_opc (by rw [opcOf_fbr (o := o) rfl]; rfl), guarded_uniClear c.setTeam (by simp),
    brTarget_eq, readOne_quiet c.setTeam.quiet]
  dsimp only
  rw [uniVal_congr (s := s) (s' := s.setTeam t) rfl, hv]
  exact branchIf_alone (State.team?_setTeam_same s t) (s.qHolds t o.p) _

theorem execRet_alone (hr : s.Runs t) (c : UniClear s t [(o.r, 2)] o.p) (ha : (s.uniVal t o.r 2).extractLsb' 0 3 = 0) :
    ∃ s', exec (.ret o) s = .next s'
    ∧ Alone s s' t (atClause s t (if s.qHolds t o.p then s.uniVal t o.r 2 else nextClause t)) [] := by
  refine ⟨_, rfl, Alone.of_setTeam ?_⟩
  rw [byTeam_team hr, issuing_of_opc (by rw [opcOf_fbr (o := o) rfl]; rfl), teamRegsCause_uniClear c.setTeam (by simp),
    readPair_quiet c.setTeam.quiet]
  dsimp only
  rw [uniVal_congr (s := s) (s' := s.setTeam t) rfl, ha, guarded_uniClear c.setTeam.noRegs (by simp)]
  exact branchIf_alone (State.team?_setTeam_same s t) (s.qHolds t o.p) _

theorem execCall_alone (hr : s.Runs t) (hw : o.r ≠ Reg.lit) (c : UniClear s t [(o.r, 2)] o.p) :
    ∃ s', exec (.call o) s = .next s'
    ∧ Alone s s' t (atClause s t (if s.qHolds t o.p then target t o.off else nextClause t))
        (if s.qHolds t o.p then regNums o.r 2 else [])
    ∧ (s.qHolds t o.p = true → o.r ≠ Reg.z → s'.uniVal t o.r 2 = nextClause t) := by
  refine ⟨_, rfl, ?_⟩
  have ht := State.team?_setTeam_same s t
  rw [byTeam_team hr, issuing_of_opc (by rw [opcOf_fbr (o := o) rfl]; rfl), guarded_uniClear c.setTeam (by simp),
    brTarget_eq, nextHeader_eq]
  have hq : (s.setTeam t).qHolds t o.p = s.qHolds t o.p := rfl
  rw [hq]
  cases s.qHolds t o.p
  · exact ⟨Alone.of_setTeam (branchIf_alone ht false _), by simp⟩
  · have hb : ((s.setTeam t).writeRegs t.fam t.ctx o.r 2 (nextClause t)).team? t.ctx = some t := by simp
    simp only [if_true]
    rw [branchTo_some hb]
    refine ⟨Alone.of_setTeam (Alone.settle_after (State.Frame.writeRegs _ _ _ _)
      (State.KeepsUni.writeRegs hw (by simp) _ _) (by simp) rfl), fun _ hz => ?_⟩
    rw [uniVal_congr (settle_fam _ _ _), uniVal_writeRegs _ _ hz]
    rfl

/-- Lanes that all give a condition the same value leave one side of the branch empty. -/
theorem filter_of_alike {ls : List Lane} {f : Lane → Bool} {b : Bool} (h : ∀ l ∈ ls, f l = b) :
    ls.filter f = if b then ls else [] := by
  cases b <;> simp_all [List.filter_eq_self]

theorem execBrdiv_alike (hr : s.Runs t) (c : UniClear s t [] o.p)
    (hp : ∀ e ∈ t.pendP, t.own e.1 = true → e.2 ≠ predKey false o.cond.num.toNat) {b : Bool}
    (hb : ∀ l ∈ t.current, lanePred l o.cond = b) (hne : t.current ≠ []) : ∃ s', exec (.brdiv o) s = .next s'
    ∧ Alone s s' t (atClause s t
        (if s.qHolds t o.p then (if b then target t o.off else nextClause t) else nextClause t)) [] := by
  refine ⟨_, rfl, Alone.of_setTeam ?_⟩
  have hpend : t.predPend false o.cond.num.toNat = false := by
    simpa using predPend_clear (t := t) (ps := [(false, o.cond.num.toNat)])
      (fun e he ho q hq => by simp only [List.mem_singleton] at hq; subst hq; exact hp e he ho)
  have ht := State.team?_setTeam_same s t
  have hF : t.current.filter (fun l => !lanePred l o.cond) = if b then [] else t.current := by
    rw [filter_of_alike (b := !b) (fun l hl => by rw [hb l hl])]; cases b <;> rfl
  rw [byTeam_team hr, issuing_of_opc (by rw [opcOf_fbr (o := o) rfl]; rfl), hpend, guarded_uniClear c.setTeam (by simp),
    brTarget_eq]
  dsimp only
  rw [filter_of_alike hb, hF]
  have hq : (s.setTeam t).qHolds t o.p = s.qHolds t o.p := rfl
  rw [hq]
  cases b
  · have hfall : Alone (s.setTeam t) ((s.setTeam t).fallThrough t.ctx) t (atClause s t (nextClause t)) [] :=
      branchIf_alone ht false (nextClause t)
    simpa [hne] using hfall
  · exact branchIf_alone ht (s.qHolds t o.p) (target t o.off)

end

end Sys2Proof.Claims
end

/-- Settles O15: each branch ends its clause at its target or at the next clause header, and nothing but the team (and
for `call` its return address) changes. -/
theorem branches : Obligations.Branches := by
  unfold Obligations.Branches
  intro o s t hr
  refine ⟨fun _ c => Sys2Proof.Claims.execBr_alone hr c, fun _ c => Sys2Proof.Claims.execBrx_alone hr c,
    fun _ c ha => Sys2Proof.Claims.execRet_alone hr c ha, fun hw c => Sys2Proof.Claims.execCall_alone hr ?_ c,
    fun _ c hp b hb hne => ?_⟩
  · have hreg : (o.cond == Sys2Proof.Pred.always && o.r.okGroup 2) = true := hw
    exact Sys2Proof.Claims.ne_lit_of_okGroup (Bool.and_eq_true_iff.mp hreg).2
  · exact Sys2Proof.Claims.execBrdiv_alike hr c hp hb hne

section
/-! PROOF. A mixed `brdiv` (O16): waiting at an instruction, the compacting split and the serial fallback. -/

namespace Sys2Proof.Machine

/-- Putting back what a table in ascending order holds leaves it as it is. -/
theorem Tbl.set_self {α : Type} {l : Tbl α} {k : Nat} {v : α} (hl : Tbl.rising l) (h : Tbl.get? l k = some v) :
    Tbl.set l k v = l := by
  induction l with
  | nil => simp [Tbl.get?] at h
  | cons e l ih =>
    obtain ⟨n, w⟩ := e
    obtain ⟨hn, hl⟩ := List.pairwise_cons.mp hl
    unfold Tbl.get? at h
    unfold Tbl.set
    split at h
    · simp_all
    · next hne =>
      have hlt : n < k := by
        by_contra hge
        have hout : ∀ m : Tbl α, (∀ e ∈ m, n < e.1) → Tbl.get? m k = none := by
          intro m hm
          induction m with
          | nil => rfl
          | cons e m ihm =>
            have := hm e List.mem_cons_self
            rw [Tbl.get?, if_neg (by omega)]
            exact ihm fun e he => hm e (List.mem_cons_of_mem _ he)
        rw [hout l hn] at h
        exact absurd h (by simp)
      rw [if_neg (by omega), if_neg (by omega), ih hl h]

theorem setTeam_self {s : State} {t : Team} (hs : s.teamsOk) (h : s.team? t.ctx = some t) : s.setTeam t = s := by
  rw [State.setTeam, Tbl.set_self hs.1 h]

theorem settle_groups (s : State) (t : Team) : (s.settle t).groups = s.groups := by rw [settle_eq]

theorem settle_fams (s : State) (t : Team) : (s.settle t).fams = s.fams := by rw [settle_eq]

/-! ### Standing at an instruction -/

theorem State.Frame.yieldCore (s : State) (t u : Team) : s.Frame (s.yieldCore u) t where
  rest := yieldCore_eq s u
  bytes _ := rfl
  teams c _ := yieldCore_team? s u c
  fams f _ := yieldCore_fam s u f
  fam := by rw [yieldCore_fam]
  cores c := yieldCore_core s u c

theorem State.Frame.stand {s : State} {t t' : Team} (h : t'.ctx = t.ctx) : s.Frame (s.stand t') t := by
  unfold State.stand; dsimp only
  split
  · exact State.Frame.setTeam h
  · exact (State.Frame.setTeam h).trans (State.Frame.yieldCore _ _ _)

@[simp] theorem stand_fam (s : State) (t : Team) (f : Nat) : (s.stand t).fam f = s.fam f := by
  unfold State.stand; dsimp only; split <;> rfl

theorem stand_team? (s : State) (t : Team) (c : Nat) :
    (s.stand t).team? c = if t.ctx = c then some t else s.team? c := by
  unfold State.stand; dsimp only
  split
  · exact State.team?_setTeam s t c
  · rw [yieldCore_team?]; exact State.team?_setTeam s t c

end Sys2Proof.Machine

namespace Sys2Proof.Claims
open Sys2Proof.Machine

section
variable {s : State} {t t' : Team} {rs : List Nat}

theorem Alone.stand (h : t'.ctx = t.ctx) : Alone s (s.stand t') t t' rs where
  frame := State.Frame.stand h
  uni := State.KeepsUni.of_fam (stand_fam s t' t.fam) _ _
  team := by simp [stand_team?, h]

theorem Alone.yieldCore {s' : State} (h : Alone s s' t t' rs) (u : Team) : Alone s (s'.yieldCore u) t t' rs where
  frame := h.frame.trans (State.Frame.yieldCore _ _ _)
  uni := h.uni.trans (State.KeepsUni.of_fam (yieldCore_fam s' u t.fam) _ _)
  team := (yieldCore_team? s' u t.ctx).trans h.team

theorem setPaths_ctx (t : Team) (ps : List PathSt) : (t.setPaths ps).ctx = t.ctx := by
  unfold Team.setPaths
  split
  · split <;> rfl
  · rfl

theorem alternate_ctx (t : Team) : t.alternate.ctx = t.ctx := by
  unfold Team.alternate; dsimp only
  split
  · rfl
  · split
    · exact setPaths_ctx _ _
    · rfl

/-- The path behind the running one takes its turn where it may run (R21). -/
theorem alternate_of_ready {p q : PathSt} {ps : List PathSt} {d : List DivEnt}
    (h : t.div = .fallback (p :: q :: ps) :: d) (hd : q.done = false) (hf : q.few = none) :
    t.alternate = { t with
      pc := q.pc, word := q.word, clause := q.clause, loaded := q.loaded, tested := q.tested, waiting := q.held
      stall := none, bar := q.bar
      div := .fallback (q :: ps ++ [{ p with
        pc := t.pc, word := t.word, clause := t.clause, loaded := t.loaded, tested := t.tested, held := true
        bar := t.bar }]) :: d } := by
  simp [Team.alternate, Team.wait, Team.paths, h, Team.turnTo, Team.pathReady, hd, hf, List.findIdx?_cons,
    Team.setPaths, Team.onPath, Team.pathNow]

theorem waitAt_waits (h : s.team? t.ctx = some t) : Waits s (s.waitAt t.ctx) t := by
  simp only [State.waitAt, h]
  refine ⟨fun hf => ?_, fun p q ps d hd hq hw => ?_⟩
  · rw [if_neg (by simp [hf])]
    exact Alone.stand (t' := t.wait) rfl
  · have hf : t.inFallback = true := by simp [Team.inFallback, hd]
    rw [if_pos hf, State.giveWay, ← alternate_of_ready hd hq hw]
    exact (Alone.stand (alternate_ctx t)).yieldCore _

end

/-! ### The compacting split (R16) -/

theorem packLanes_eq (ls : List Lane) : packLanes ls = ls.zipIdx.map (fun x => { x.1 with slot := x.2 }) := by
  rw [packLanes, List.zipIdx_eq_zip_range', List.range_eq_range']

section
variable {s : State} {t : Team} {S F : List Lane} {pc : DWord} {slot ctx : Nat}

theorem split_team?_fall (hne : ctx ≠ t.ctx) : (s.split t S F pc slot ctx).team? t.ctx =
    some { atClause s t (nextClause t) with
      last := s.stamp + 1, ld := 0, pl := 0, st := 0, lanes := packLanes F, div := .split s.stamp false :: t.div } := by
  simp [State.split, State.fresh, State.team?_setTeam, settle_team?, hne, Team.goto, atClause, nextHeader_eq]

theorem split_team?_taken : (s.split t S F pc slot ctx).team? ctx =
    some { atClause s t pc with
      last := t.last, ctx := ctx, slot := slot, ld := 0, pl := 0, st := 0, lanes := packLanes S
      div := .split s.stamp true :: t.div, seq := 0, gen := 0, replay := [], sends := [], pend := [], pendP := []
      retired := 0 } := by
  simp [State.split, State.fresh, State.team?_setTeam, Team.goto, atClause]

theorem split_team?_other {c : Nat} (h : c ≠ t.ctx) (h' : c ≠ ctx) :
    (s.split t S F pc slot ctx).team? c = s.team? c := by
  simp only [State.split, State.fresh, State.team?_setTeam, settle_team?, Team.goto, Ne.symm h, Ne.symm h', if_false]
  rfl

theorem split_mem : (s.split t S F pc slot ctx).mem = s.mem := by
  simp [State.split, State.fresh]

theorem split_groups : (s.split t S F pc slot ctx).groups = s.groups := by
  simp only [State.split, State.fresh, State.setTeam_groups, settle_groups]
  rfl

/-! ### The serial fallback (R21) -/

/-- A path of a serial fallback about to start is where the team goes. -/
theorem fallBack_start {T F : List Nat} {id : Nat} {pc pc' : DWord} (h : t.inFallback = false) :
    ({ t with retired := t.retired + 1 }.fallBack id T F pc pc') =
      { atClause s t pc with
        last := t.last, div := .fallback [pathAt T [id] pc, pathAt F [id] pc'] :: t.div } := by
  unfold Team.inFallback at h
  unfold Team.fallBack
  split
  · simp_all
  · rfl

theorem fallBack_nested {T F : List Nat} {id : Nat} {pc pc' : DWord} {p : PathSt} {ps : List PathSt} {d : List DivEnt}
    (h : t.div = .fallback (p :: ps) :: d) :
    ({ t with retired := t.retired + 1 }.fallBack id T F pc pc') =
      { atClause s t pc with
        last := t.last
        div := .fallback (pathAt T (id :: p.trail) pc :: pathAt F (id :: p.trail) pc' :: ps) :: d } := by
  simp only [Team.fallBack, h, Team.setPaths]
  rfl

/-- What a mixed `brdiv` does that neither traps nor waits nor splits. -/
theorem brMixed_fallBack (hd : divDepth t.div < 32) (hdr : t.drained = true)
    (h : (s.freeSlot (s.coreOf t) = none ∨ s.freeCtx (s.vdOf t) = none ∨ 16 ≤ splitCount t.div ∨ t.span.isSome = true)
      ∨ t.inFallback = true) :
    s.brMixed t S F pc = { s with stamp := s.stamp + 1 }.settle
      ({ t with retired := t.retired + 1 }.fallBack s.stamp (S.map Lane.vid) (F.map Lane.vid) pc (nextClause t)) := by
  unfold State.brMixed
  rw [if_neg (by omega), if_neg (by simp [hdr])]
  split
  · next hslot hctx hc =>
    simp only [Bool.and_eq_true, decide_eq_true_eq, Bool.not_eq_true', Option.isNone_iff_eq_none] at hc
    obtain ⟨⟨hcount, hfall⟩, hspan⟩ := hc
    simp only [hslot, hctx, hfall, hspan] at h
    simp at h
    omega
  · rw [nextHeader_eq]; rfl

theorem brMixed_split (hd : divDepth t.div < 32) (hdr : t.drained = true) (hslot : s.freeSlot (s.coreOf t) = some slot)
    (hctx : s.freeCtx (s.vdOf t) = some ctx) (hcount : splitCount t.div < 16) (hfall : t.inFallback = false)
    (hspan : t.span = none) : s.brMixed t S F pc = s.split t S F pc slot ctx := by
  unfold State.brMixed
  rw [if_neg (by omega), if_neg (by simp [hdr])]
  simp [hslot, hctx, hcount, hfall, hspan]

theorem brMixed_waits (hd : divDepth t.div < 32) (hdr : t.drained = false) : s.brMixed t S F pc = s.waitAt t.ctx := by
  unfold State.brMixed
  rw [if_neg (by omega), if_pos (by simp [hdr])]

end

/-! ### The instruction (R137) -/

theorem filter_ne_nil_of {α : Type} {ls : List α} {f : α → Bool} (h : ∃ l ∈ ls, f l = true) : ls.filter f ≠ [] := by
  obtain ⟨l, hl, hf⟩ := h
  exact List.ne_nil_of_mem (List.mem_filter.mpr ⟨hl, hf⟩)

theorem execBrdiv_mixed {o : FBR} {s : State} {t : Team} (hr : s.Runs t) (c : UniClear s t [] o.p)
    (hp : ∀ e ∈ t.pendP, t.own e.1 = true → e.2 ≠ predKey false o.cond.num.toNat) (hq : s.qHolds t o.p = true)
    (hS : ∃ l ∈ t.current, lanePred l o.cond = true) (hF : ∃ l ∈ t.current, lanePred l o.cond = false)
    (hs : s.teamsOk) : exec (.brdiv o) s = .next (s.brMixed t (t.current.filter (fun l => lanePred l o.cond))
      (t.current.filter (fun l => !lanePred l o.cond)) (target t o.off)) := by
  have hpend : t.predPend false o.cond.num.toNat = false := by
    simpa using predPend_clear (t := t) (ps := [(false, o.cond.num.toNat)])
      (fun e he ho q hq => by simp only [List.mem_singleton] at hq; subst hq; exact hp e he ho)
  have hS' := filter_ne_nil_of hS
  have hF' := filter_ne_nil_of (f := fun l => !lanePred l o.cond) (by simpa using hF)
  show Host.Outcome.next (s.byTeam _ _) = _
  rw [byTeam_team hr, issuing_of_opc (by rw [opcOf_fbr (o := o) rfl]; rfl), setTeam_self hs hr.here, hpend,
    guarded_uniClear c (by simp), brTarget_eq]
  simp only [hq, List.isEmpty_iff, hS', hF', if_false, if_true, Bool.false_eq_true]

/-- The state of a mixed `brdiv` that runs both paths in the team. -/
theorem settled_fallback {s : State} {t t' : Team} (h : t'.ctx = t.ctx) :
    ({ s with stamp := s.stamp + 1 }.settle t').team? t.ctx = some { t' with last := s.stamp + 1 }
      ∧ ({ s with stamp := s.stamp + 1 }.settle t').mem = s.mem
      ∧ ({ s with stamp := s.stamp + 1 }.settle t').groups = s.groups
      ∧ ({ s with stamp := s.stamp + 1 }.settle t').fams = s.fams
      ∧ ∀ c, c ≠ t.ctx → ({ s with stamp := s.stamp + 1 }.settle t').team? c = s.team? c := by
  refine ⟨by simp [settle_team?, h], settle_mem _ _, settle_groups _ _, settle_fams _ _, fun c hc => ?_⟩
  rw [settle_team?, h, if_neg (Ne.symm hc)]
  rfl

end Sys2Proof.Claims
end

/-- Settles O16: the model's mixed `brdiv` waits, splits or falls back on exactly the conditions stated. -/
theorem divergentBranches : Obligations.DivergentBranches := by
  unfold Obligations.DivergentBranches
  intro o s t _ hr c hp hq hd hS hF hs
  have hexec := Sys2Proof.Claims.execBrdiv_mixed hr c hp hq hS hF hs
  refine ⟨fun hdr => ?_, fun hdr slot ctx hslot hctx hne hcount hfall hspan => ?_, fun hdr hno hfall => ?_,
    fun hdr p ps d hdiv => ?_⟩
  · rw [Sys2Proof.Claims.brMixed_waits hd hdr] at hexec
    exact ⟨_, hexec, Sys2Proof.Claims.waitAt_waits hr.here⟩
  · rw [Sys2Proof.Claims.brMixed_split hd hdr hslot hctx hcount hfall hspan] at hexec
    refine ⟨_, hexec, ?_, ?_, Sys2Proof.Claims.split_mem, Sys2Proof.Claims.split_groups,
      fun c h h' => Sys2Proof.Claims.split_team?_other h h'⟩
    · rw [Sys2Proof.Claims.split_team?_fall hne, Sys2Proof.Claims.packLanes_eq]
    · rw [Sys2Proof.Claims.split_team?_taken, Sys2Proof.Claims.packLanes_eq]
  · rw [Sys2Proof.Claims.brMixed_fallBack hd hdr (.inl hno), Sys2Proof.Claims.fallBack_start (s := s) hfall] at hexec
    exact ⟨_, hexec, Sys2Proof.Claims.settled_fallback rfl⟩
  · rw [Sys2Proof.Claims.brMixed_fallBack hd hdr (.inr (by simp [Sys2Proof.Machine.Team.inFallback, hdiv])),
      Sys2Proof.Claims.fallBack_nested (s := s) hdiv] at hexec
    exact ⟨_, hexec, Sys2Proof.Claims.settled_fallback rfl⟩

section
/-! PROOF. `join` at a split record and lanes that exit (O17). -/

namespace Sys2Proof.Claims
open Sys2Proof.Machine

/-! ### Going on alone (R19) -/

/-- Settling the uniform registers changes them and the count of free choices alone. -/
theorem joinUniform_eq (s : State) (f ctx : Nat) (also : Option Nat) :
    s.joinUniform f ctx also =
      { s with free := (s.joinUniform f ctx also).free, fams := (s.joinUniform f ctx also).fams } := rfl

theorem joinUniform_team? (s : State) (f ctx : Nat) (also : Option Nat) (c : Nat) :
    (s.joinUniform f ctx also).team? c = s.team? c := rfl

theorem stand_mem (s : State) (t : Team) : (s.stand t).mem = s.mem := by
  unfold State.stand; dsimp only; split <;> rfl

theorem stand_groups (s : State) (t : Team) : (s.stand t).groups = s.groups := by
  unfold State.stand; dsimp only; split <;> rfl

theorem goAlone_team? (s : State) (t : Team) (c : Nat) : (s.goAlone t).team? c =
    if t.ctx = c then some { t.endClause t.nextHeader with div := t.div.tail, parked := .no } else s.team? c := by
  rw [State.goAlone, stand_team?, joinUniform_team?]; rfl

theorem goAlone_mem (s : State) (t : Team) : (s.goAlone t).mem = s.mem := by
  rw [State.goAlone, stand_mem]; rfl

theorem goAlone_groups (s : State) (t : Team) : (s.goAlone t).groups = s.groups := by
  rw [State.goAlone, stand_groups]; rfl

/-! ### Merging (R19) -/

theorem either_same {α : Type} [DecidableEq α] (s : State) (a : α) : s.either a a = (a, s) := by
  simp [State.either]

section
variable {s : State} {a b : Team} {pc : DWord}

/-- The children of a split that agree in what log entry 18 leaves open merge into the fall-through one. -/
theorem merge_of_agree (hh : a.handler = b.handler) (hf : a.fen = b.fen) (hw : a.watch = b.watch) :
    ∃ s1 : State, s.merge a b pc = (s1.dropTeam b.ctx).settle ({ a with
        lanes := packLanes (sortBy (fun l => l.vid) (a.lanes ++ b.lanes))
        flags := a.flags ||| b.flags, acq := max a.acq b.acq, div := a.div.tail, parked := .no
        retired := a.retired + b.retired + 1 }.goto pc 0)
      ∧ s1.teams = s.teams ∧ s1.stamp = s.stamp ∧ s1.mem = s.mem := by
  simp only [State.merge, hh, hf, hw, either_same]
  exact ⟨_, rfl, rfl, rfl, rfl⟩

/-- The merged team, and that the other child is gone. -/
theorem merge_effect (hh : a.handler = b.handler) (hf : a.fen = b.fen) (hw : a.watch = b.watch) (hne : b.ctx ≠ a.ctx) :
    (s.merge a b pc).team? a.ctx = some { atClause s a pc with
        lanes := packLanes (sortBy (fun l => l.vid) (a.lanes ++ b.lanes))
        flags := a.flags ||| b.flags, acq := max a.acq b.acq, div := a.div.tail, parked := .no
        retired := a.retired + b.retired + 1 }
      ∧ (s.merge a b pc).team? b.ctx = none ∧ (s.merge a b pc).mem = s.mem
      ∧ ∀ c, c ≠ a.ctx → c ≠ b.ctx → (s.merge a b pc).team? c = s.team? c := by
  obtain ⟨s1, hmerge, hteams, hstamp, hmem⟩ := merge_of_agree (s := s) (pc := pc) hh hf hw
  have hs1 (c : Nat) : s1.team? c = s.team? c := by rw [State.team?, State.team?, hteams]
  rw [hmerge]
  refine ⟨?_, ?_, ?_, fun c hc hc' => ?_⟩
  · simp [settle_team?, Team.goto, atClause, hstamp]
  · simp [settle_team?, Team.goto, Ne.symm hne, State.team?_dropTeam]
  · rw [settle_mem]; exact hmem
  · simp [settle_team?, Team.goto, Ne.symm hc, State.team?_dropTeam, hc', hs1]

end

/-! ### `join` at a split record (R19, R138) -/

section
variable {o : FBR} {s : State} {t : Team} {id : Nat} {taken : Bool} {rest : List DivEnt}

theorem execJoin_split (hr : s.Runs t) (hs : s.teamsOk) (hdiv : t.div = .split id taken :: rest) :
    exec (.join o) s = .next (s.joinSplit t id taken) := by
  show Host.Outcome.next (s.byTeam _ _) = _
  rw [byTeam_team hr, issuing_of_opc (by rw [opcOf_fbr (o := o) rfl]; rfl), setTeam_self hs hr.here]
  simp only [hdiv]

theorem joinSplit_alone (hdiv : t.div = .split id taken :: rest) (h : s.otherSide t id taken = []) :
    (s.joinSplit t id taken).team? t.ctx = some { atClause s t (nextClause t) with div := rest, parked := .no }
      ∧ (s.joinSplit t id taken).mem = s.mem ∧ (s.joinSplit t id taken).groups = s.groups
      ∧ ∀ c, c ≠ t.ctx → (s.joinSplit t id taken).team? c = s.team? c := by
  have hj : s.joinSplit t id taken = { s with stamp := s.stamp + 1 }.goAlone { t with last := s.stamp } := by
    rw [State.joinSplit, h]
  rw [hj]
  refine ⟨?_, goAlone_mem _ _, goAlone_groups _ _, fun c hc => ?_⟩
  · rw [goAlone_team?, if_pos rfl, nextHeader_eq, hdiv]; rfl
  · rw [goAlone_team?, if_neg (Ne.symm hc)]; rfl

theorem joinSplit_waits (h : s.otherSide t id taken ≠ []) (hdr : t.drained = false) :
    s.joinSplit t id taken = s.waitAt t.ctx := by
  obtain ⟨u, us, h⟩ := List.exists_cons_of_ne_nil h
  simp [State.joinSplit, h, hdr]

theorem joinSplit_parks {u : Team} {us : List Team} (h : s.otherSide t id taken = u :: us) (hdr : t.drained = true)
    (hu : u.parked ≠ .record id) :
    s.joinSplit t id taken = s.settle { t with parked := .record id, waiting := true } := by
  simp [State.joinSplit, h, hdr, hu]

theorem joinSplit_merges {u : Team} {us : List Team} (h : s.otherSide t id taken = u :: us) (hdr : t.drained = true)
    (hu : u.parked = .record id) :
    s.joinSplit t id taken = s.merge (if taken then u else t) (if taken then t else u) (nextClause t) := by
  cases taken <;> simp [State.joinSplit, h, hdr, hu, nextHeader_eq]

/-! ### Lanes that exit (R23, R141) -/

theorem dropLanes_eq (h : t.inFallback = false) (vids : List Nat) :
    t.dropLanes vids = { t with lanes := t.lanes.filter (fun l => !vids.contains l.vid) } := by
  unfold Team.inFallback at h
  unfold Team.dropLanes; dsimp only
  split
  · simp_all
  · rfl

/-- Lanes that exit where the team is not split, or keeps a lane, release no sibling. -/
theorem exited_eq (h : t.div = [] ∨ t.lanes ≠ []) : s.exited t = (s.settle t).yieldCore t := by
  unfold State.exited State.leavePath State.releaseSiblings; dsimp only
  rcases h with h | h
  · simp [h]
  · simp [h]

theorem execExit_alone (hr : s.Runs t)
    (hp : ∀ e ∈ t.pendP, t.own e.1 = true → e.2 ≠ predKey false o.p.num.toNat) (hf : t.inFallback = false)
    (h : t.div = [] ∨ ∃ l ∈ t.lanes, (t.active o.p).any (fun a => a.vid == l.vid) = false) :
    ∃ s', exec (.exit o) s = .next s' ∧ Alone s s' t { atClause s t (nextClause t) with
        lanes := t.lanes.filter (fun l => !(t.active o.p).any (fun a => a.vid == l.vid)) } [] := by
  have hpend : t.predPend false o.p.num.toNat = false := by
    simpa using predPend_clear (t := t) (ps := [(false, o.p.num.toNat)])
      (fun e he ho q hq => by simp only [List.mem_singleton] at hq; subst hq; exact hp e he ho)
  have hout (l : Lane) : ((t.active o.p).map (fun a => a.vid)).contains l.vid
      = (t.active o.p).any (fun a => a.vid == l.vid) := by
    induction t.active o.p with
    | nil => rfl
    | cons a as ih => simp only [List.map_cons, List.contains_cons, List.any_cons, ih, Bool.beq_comm (a := l.vid)]
  refine ⟨_, rfl, Alone.of_setTeam ?_⟩
  rw [byTeam_team hr, issuing_of_opc (by rw [opcOf_fbr (o := o) rfl]; rfl), hpend]
  simp only [Bool.false_eq_true, if_false]
  rw [dropLanes_eq (t := t.endClause t.nextHeader) hf, nextHeader_eq]
  simp only [hout]
  rw [exited_eq]
  · exact Alone.yieldCore (Alone.settle (s := s.setTeam t) (t := t) (t' := { t.endClause (nextClause t) with
      lanes := t.lanes.filter (fun l => !(t.active o.p).any (fun a => a.vid == l.vid)) }) rfl) _
  · refine h.imp id fun ⟨l, hl, hn⟩ => List.ne_nil_of_mem (a := l) (List.mem_filter.mpr ⟨hl, ?_⟩)
    simp [hn]

end

end Sys2Proof.Claims
end

/-- Settles O17: by the sibling that the team at its `join` finds, and by the lanes that an `exit` leaves. -/
theorem joinsAndExits : Obligations.JoinsAndExits := by
  unfold Obligations.JoinsAndExits
  intro o s t hr hs
  refine ⟨fun id taken rest _ hdiv => ?_, fun _ hp hf h => Sys2Proof.Claims.execExit_alone hr hp hf h⟩
  have hexec := Sys2Proof.Claims.execJoin_split (o := o) hr hs hdiv
  refine ⟨fun h => ⟨_, hexec, Sys2Proof.Claims.joinSplit_alone hdiv h⟩, fun h hdr => ?_, fun u us h hdr => ⟨fun hu => ?_,
    fun hu hne _ hhandler hfen hwatch => ?_⟩⟩
  · rw [Sys2Proof.Claims.joinSplit_waits h hdr] at hexec
    exact ⟨_, hexec, Sys2Proof.Claims.waitAt_waits hr.here⟩
  · rw [Sys2Proof.Claims.joinSplit_parks h hdr hu] at hexec
    exact ⟨_, hexec, Sys2Proof.Claims.Alone.settle rfl⟩
  · rw [Sys2Proof.Claims.joinSplit_merges h hdr hu] at hexec
    refine ⟨_, hexec, ?_⟩
    cases taken
    · have hm := Sys2Proof.Claims.merge_effect (s := s) (a := t) (b := u) (pc := Sys2Proof.Claims.nextClause t)
        hhandler.symm hfen.symm hwatch.symm hne
      rwa [Sys2Proof.Claims.packLanes_eq] at hm
    · have hm := Sys2Proof.Claims.merge_effect (s := s) (a := u) (b := t) (pc := Sys2Proof.Claims.nextClause t)
        hhandler hfen hwatch hne.symm
      rwa [Sys2Proof.Claims.packLanes_eq] at hm

section
/-! PROOF. Element-wise integer arithmetic (O1): the model's arithmetic on naturals and integers gives the values that
the statements are written with. -/

namespace Sys2Proof.Claims
open Sys2Proof.Machine

/-! ### Elements (R71, R116) -/

theorem elemOf_eq_el (w e : Nat) (v : DWord) : elemOf w e v = (el w e v).toNat := by
  simp [elemOf, el, Nat.shiftRight_eq_div_pow]

theorem valOf_eq_num {w : Nat} (hw : 0 < w) (sgn : Bool) (b : BitVec w) : valOf w sgn b.toNat = num sgn b := by
  have hlt := b.isLt
  have hpow : 2 ^ w = 2 * 2 ^ (w - 1) := by rw [← pow_succ']; congr 1; omega
  cases sgn
  · simp [valOf, num]
  · rw [num, if_pos rfl, BitVec.toInt_eq_toNat_cond, valOf, Nat.mod_eq_of_lt hlt, hpow]
    by_cases h : 2 ^ (w - 1) ≤ b.toNat
    · rw [if_pos (by simpa using h), if_neg (by omega)]
    · rw [if_neg (by simpa using h), if_pos (by omega)]

theorem wrapTo_eq_ofInt (w : Nat) (x : Int) : wrapTo w x = (BitVec.ofInt w x).toNat := by
  simp [wrapTo, BitVec.toNat_ofInt]

theorem intMin_eq_least (w : Nat) (sgn : Bool) : intMin w sgn = least w sgn := by simp [intMin, least]

theorem intMax_eq_greatest (w : Nat) (sgn : Bool) : intMax w sgn = greatest w sgn := by simp [intMax, greatest]

/-- Bringing an exact result to a type (R83). -/
theorem fitInt_eq_fit (w : Nat) (sgn sat : Bool) (x : Int) :
    fitInt w sgn sat x = ((fit w sgn sat x).1.toNat, (fit w sgn sat x).2) := by
  unfold fitInt fit
  rw [intMin_eq_least, intMax_eq_greatest]
  split
  · rw [wrapTo_eq_ofInt]
  · split <;> rw [wrapTo_eq_ofInt]

/-! ### Values of several elements (R71, R84) -/

theorem packElems_append (w : Nat) (l : List Nat) (x : Nat) :
    packElems w (l ++ [x]) = packElems w l + 2 ^ (w * l.length) * (x % 2 ^ w) := by
  induction l with
  | nil => simp [packElems]
  | cons y l ih =>
    simp only [List.cons_append, packElems, ih, List.length_cons, Nat.mul_add, Nat.mul_one, pow_add]
    ring

theorem packElems_lt (w : Nat) (l : List Nat) : packElems w l < 2 ^ (w * l.length) := by
  induction l with
  | nil => simp [packElems]
  | cons y l ih =>
    have hy : y % 2 ^ w < 2 ^ w := Nat.mod_lt _ (Nat.two_pow_pos w)
    have hmul : 2 ^ w * (packElems w l + 1) ≤ 2 ^ w * 2 ^ (w * l.length) := Nat.mul_le_mul_left _ ih
    simp only [packElems, List.length_cons, Nat.mul_add, Nat.mul_one, pow_add] at hmul ⊢
    rw [Nat.mul_comm (2 ^ (w * l.length))]
    omega

/-- Elements put side by side by shifts are those put side by side by sums. -/
theorem foldl_or_eq_packElems (w : Nat) (f : Nat → BitVec w) (n : Nat) (hn : w * n ≤ 64) :
    ((List.range n).foldl (fun v e => v ||| ((f e).setWidth 64 <<< (w * e))) (0 : DWord)).toNat
      = packElems w ((List.range n).map (fun e => (f e).toNat)) := by
  induction n with
  | zero => rfl
  | succ n ih =>
    have hn' : w * n + w ≤ 64 := by rwa [Nat.mul_add, Nat.mul_one] at hn
    have hlow := packElems_lt w ((List.range n).map (fun e => (f e).toNat))
    rw [List.length_map, List.length_range] at hlow
    have hw : (f n).toNat < 2 ^ 64 := lt_of_lt_of_le (f n).isLt (Nat.pow_le_pow_right (by norm_num) (by omega))
    have htop : 2 ^ (w * n) * (f n).toNat < 2 ^ 64 := by
      calc 2 ^ (w * n) * (f n).toNat < 2 ^ (w * n) * 2 ^ w := Nat.mul_lt_mul_of_pos_left (f n).isLt (Nat.two_pow_pos _)
        _ = 2 ^ (w * n + w) := (pow_add 2 _ _).symm
        _ ≤ 2 ^ 64 := Nat.pow_le_pow_right (by norm_num) hn'
    have hshift : ((f n).setWidth 64 <<< (w * n)).toNat = 2 ^ (w * n) * (f n).toNat := by
      rw [BitVec.toNat_shiftLeft, BitVec.toNat_setWidth, Nat.mod_eq_of_lt hw, Nat.shiftLeft_eq, Nat.mul_comm,
        Nat.mod_eq_of_lt htop]
    rw [List.range_succ, List.foldl_append, List.map_append, List.map_singleton, packElems_append, List.length_map,
      List.length_range, Nat.mod_eq_of_lt (f n).isLt, ← ih (by omega)] at *
    simp only [List.foldl_cons, List.foldl_nil, BitVec.toNat_or, hshift]
    rw [Nat.or_comm, ← Nat.two_pow_add_eq_or_of_lt (by rwa [ih (by omega)]), Nat.add_comm]

theorem perElem_eq_each {w n : Nat} (hn : w * n ≤ 64) (f : Nat → Nat × Flags) (h : Nat → BitVec w × Flags)
    (hf : ∀ e, f e = ((h e).1.toNat, (h e).2)) : perElem w n f = each w n h := by
  have hfun : f = fun e => ((h e).1.toNat, (h e).2) := funext hf
  subst hfun
  refine Prod.ext ?_ ?_
  · apply BitVec.eq_of_toNat_eq
    rw [each, foldl_or_eq_packElems w (fun e => (h e).1) n hn]
    have hlt := packElems_lt w ((List.range n).map (fun e => (h e).1.toNat))
    rw [List.length_map, List.length_range] at hlt
    simp only [perElem, List.map_map, Function.comp_def, BitVec.toNat_ofNat]
    exact Nat.mod_eq_of_lt (lt_of_lt_of_le hlt (Nat.pow_le_pow_right (by norm_num) hn))
  · simp [perElem, each, joinFlags, List.foldl_map]

theorem elemBits_pos (ty : Ty) : 0 < Ty.elemBits ty := by cases ty <;> decide

theorem elemBits_mul_elems (ty : Ty) : Ty.elemBits ty * Ty.elems ty ≤ 64 := by cases ty <;> decide

theorem regs_pos (ty : Ty) : 0 < Ty.regs ty := by cases ty <;> decide

/-- The model's element-wise operation is the one that the statements name. -/
theorem intElems_eq_elemwise (ty : Ty) (sat : Bool) (x : Int → Int → Int → Int) :
    intElems ty sat x = elemwise ty sat x := by
  funext ops
  refine perElem_eq_each (elemBits_mul_elems ty) _ _ fun e => ?_
  simp only [elemOf_eq_el, valOf_eq_num (elemBits_pos ty), fitInt_eq_fit]

/-! ### Instructions of two operands (R115) -/

theorem opcOf_f3 {o : F3} {i : Instr} {opc : BitVec 8} {sub : BitVec 4} (h : encode i = [o.word opc sub]) :
    opcOf i = opc.toNat := by
  simp [opcOf, h, Laws.Encoding.f3_top]

theorem descBin_fits {o : F3} (hd : o.d ≠ Reg.lit) (g : List DWord → DWord × Flags) : (descBin o g).Fits (bin o) g where
  pred := rfl
  dst := rfl
  dst2 := rfl
  srcs := rfl
  rule := .inl rfl
  uni := rfl
  core := rfl
  l2u := rfl
  body := rfl
  noLit r n h := by simp only [bin, Dst.reg.injEq] at h; exact h.1 ▸ hd
  pos x hx := by
    simp only [Form.regs, bin, Dst.regs, Src.regs, List.mem_append, List.mem_flatMap, List.mem_cons,
      List.not_mem_nil, or_false] at hx
    rcases hx with rfl | ⟨y, rfl | rfl, hx⟩
    · exact regs_pos o.ty
    all_goals simp only [List.mem_singleton] at hx; subst hx; exact regs_pos o.ty

theorem ne_lit_of_legalBin {tys : List Ty} {sat : Bool} {o : F3} (h : legalBin tys sat o = true) : o.d ≠ Reg.lit := by
  simp only [legalBin, F3Rule.ok, FieldUse.ok, Bool.and_eq_true] at h
  exact ne_lit_of_okGroup (by tauto)

/-- An instruction of two operands that the model carries out element by element. -/
theorem computes_of_descBin {o : F3} {i : Instr} {g : List DWord → DWord × Flags} {tys : List Ty} {sat : Bool}
    {opc : BitVec 8} {sub : BitVec 4} (hexec : ∀ s, exec i s = .next (s.issueDesc i (descBin o g)))
    (hwf : i.wf = legalBin tys sat o) (henc : encode i = [o.word opc sub]) (hopc : abortsSpan opc.toNat = false) :
    Computes i (bin o) g := by
  intro s t hw hr c
  exact ⟨_, hexec s,
    issueDesc_done hr (descBin_fits (ne_lit_of_legalBin (hwf ▸ hw)) g) c ((congrArg abortsSpan (opcOf_f3 henc)).trans hopc)⟩

end Sys2Proof.Claims
end

/-- Settles O1: the five instructions are one shared operation with the element-wise value, whose arithmetic is that
of the statement. -/
theorem integerElements : Obligations.IntegerElements := by
  unfold Obligations.IntegerElements
  intro o
  simp only [← Sys2Proof.Claims.intElems_eq_elemwise]
  exact ⟨Sys2Proof.Claims.computes_of_descBin (fun _ => rfl) rfl rfl rfl,
    Sys2Proof.Claims.computes_of_descBin (fun _ => rfl) rfl rfl rfl,
    Sys2Proof.Claims.computes_of_descBin (fun _ => rfl) rfl rfl rfl,
    Sys2Proof.Claims.computes_of_descBin (fun _ => rfl) rfl rfl rfl,
    Sys2Proof.Claims.computes_of_descBin (fun _ => rfl) rfl rfl rfl⟩

section
/-! PROOF. Windows (O53): the clause about a borrower fails where the team that its VD goes on with stands on another
core. -/

namespace Sys2Proof.Machine

/-- A team of VD 3 whose group is on core 5. -/
def awayTeam : Team :=
  { resetTeam with
    ctx := 1, fam := 1, group := 1
    lanes := [{ slot := 0, vid := 0, regs := [], p := 1, tx := noTx, opened := [], blind := [] }] }

/-- Core 2 notes that team as the one that VD 3 was cut in there, and VD 3 has a token there. -/
def awayState : State :=
  { State.reset with
    teams := [(1, awayTeam)]
    groups := [(1, { resetGroup with vd := 3, core := 5 })]
    cores := [(2, { resetCore with cut := [(3, 1)], bkt := [(3, { resetBucket with level := 1 })] })] }

theorem awayTeam_first : Claims.FirstTeam (Claims.between awayState 2) 2 3 awayTeam :=
  ⟨by decide +kernel, .inl (by decide +kernel)⟩

theorem awayState_borrower :
    let k := (Claims.between awayState 2).core 2
    (Claims.between awayState 2).borrower none k.borrowed (fun w => (Tbl.get resetBucket k.bkt w).level.toNat)
      ((Claims.between awayState 2).hasReady 2) = some 3 := by decide +kernel

/-- No team that is resident on core 2 is ready, so the stream is gated in the window lent. -/
theorem step_awayState_gated :
    (match exec (.issueWindowStart 2) awayState with
      | .next s => (s.core 2).gated
      | _ => false) = true := by decide +kernel

end Sys2Proof.Machine
end

/-- Refutes O53: `FirstTeam` takes the team named by the core's note of a cut clause wherever that team's group is; in
a window lent for a team whose group stands on another core the model gates the stream (no resident team is ready),
which `Given` excludes (`Sys2Proof.Machine.awayState`). -/
theorem not_issueWindows : ¬ Obligations.IssueWindows := by
  unfold Obligations.IssueWindows
  rintro ⟨-, -, h, -⟩
  have hgated := Sys2Proof.Machine.step_awayState_gated
  obtain ⟨hstart, -⟩ := h Sys2Proof.Machine.awayState 2 3 Sys2Proof.Machine.awayTeam (by decide) rfl rfl rfl
  obtain ⟨-, hlent⟩ := hstart Sys2Proof.Machine.awayTeam_first (by decide)
  obtain ⟨s', hexec, hgiven⟩ := hlent (by decide +kernel) Sys2Proof.Machine.awayState_borrower
  rw [hexec] at hgated
  have hclear : (s'.core 2).gated = false := (congrArg Sys2Proof.Machine.Core.gated hgiven.core).trans (by decide +kernel)
  exact absurd (hgated.symm.trans hclear) (by decide)

section
/-! What an update of memory by the Lasting unit does to the queues: nothing. -/
namespace Sys2Proof.Machine

@[simp] theorem foldl_queues {α : Type} (f : State → α → State) (hf : ∀ s a, (f s a).queues = s.queues) (l : List α)
    (s : State) :
    (l.foldl f s).queues = s.queues :=
  List.foldlRecOn (motive := fun b => b.queues = s.queues) l f rfl (fun _ h _ _ => (hf _ _).trans h)


@[simp] theorem ite_queues (p : Prop) [Decidable p] (a b : State) :
    (if p then a else b).queues = if p then a.queues else b.queues := by
  split <;> rfl

@[simp] theorem ite_snd_queues {β : Type} (p : Prop) [Decidable p] (a b : β × State) :
    (if p then a else b).2.queues = if p then a.2.queues else b.2.queues := by
  split <;> rfl

@[simp] theorem State.pick_queues (s : State) (n : ℕ) : (s.pick n).2.queues = s.queues := by simp [State.pick]
@[simp] theorem State.flip_queues (s : State) : s.flip.2.queues = s.queues := by simp [State.flip]
@[simp] theorem State.fresh_queues (s : State) : s.fresh.2.queues = s.queues := by simp [State.fresh]
@[simp] theorem State.wakeCause_queues (s : State) (c bit : ℕ) : (s.wakeCause c bit).queues = s.queues := by
  simp [State.wakeCause]
@[simp] theorem State.pushFlit_queues (s : State) (v id : ℕ) (l : List ℕ) : (s.pushFlit v id l).queues = s.queues := by
  unfold State.pushFlit; split <;> simp
@[simp] theorem State.mend_queues (s : State) (pa : ℕ) : (s.mend pa).queues = s.queues := by simp [State.mend]
@[simp] theorem State.freeBytes_queues (s : State) (n : ℕ) : (s.freeBytes n).2.queues = s.queues := by
  simp [State.freeBytes]
@[simp] theorem State.readClear1_queues (s : State) (pa n : ℕ) : (s.readClear1 pa n).2.queues = s.queues := by
  simp [State.readClear1]
@[simp] theorem State.readClear_queues (s : State) (n n2 n3 : ℕ) : (s.readClear n n2 n3).2.queues = s.queues := by
  fun_induction State.readClear <;> grind [State.readClear1_queues]
@[simp] theorem State.rdBytes_queues (s : State) (pa n : ℕ) : (s.rdBytes pa n).2.queues = s.queues := by
  simp [State.rdBytes]
@[simp] theorem State.rdNum_queues (s : State) (pa n : ℕ) : (s.rdNum pa n).2.queues = s.queues := by simp [State.rdNum]
@[simp] theorem State.poison_queues (s : State) (pa : ℕ) : (s.poison pa).queues = s.queues := by simp [State.poison]
@[simp] theorem State.cleanse_queues (s : State) (pa : ℕ) : (s.cleanse pa).queues = s.queues := by simp [State.cleanse]
@[simp] theorem State.writeSector_queues (s : State) (pa : ℕ) (bytes : Tbl Byte) (tag : Option SecTag) (keep : Bool) :
    (s.writeSector pa bytes tag keep).queues = s.queues := by
  simp [State.writeSector]
@[simp] theorem State.writeClear_queues (s : State) (n n2 : ℕ) (l : List Byte) :
    (s.writeClear n n2 l).queues = s.queues := by
  fun_induction State.writeClear <;> grind [State.writeSector_queues]
@[simp] theorem State.wrBytes_queues (s : State) (pa : ℕ) (bs : List Byte) : (s.wrBytes pa bs).queues = s.queues := by
  simp [State.wrBytes]
@[simp] theorem State.movedSlot_queues (s : State) (base g slot : ℕ) : (s.movedSlot base g slot).2.queues = s.queues := by
  simp [State.movedSlot]
@[simp] theorem State.movedSearch_queues (s : State) (base g : ℕ) (l : List ℕ) :
    (s.movedSearch base g l).2.queues = s.queues := by
  fun_induction State.movedSearch <;> grind [State.movedSlot_queues]
@[simp] theorem State.holdHome_queues (s : State) (die : ℕ) (e : HomeEnt) : (s.holdHome die e).queues = s.queues := by
  simp [State.holdHome]
@[simp] theorem State.homeOf_queues (s : State) (v die va : ℕ) : (s.homeOf v die va).2.queues = s.queues := by
  grind [State.homeOf, State.movedSearch_queues, State.holdHome_queues]
@[simp] theorem State.walk_queues (s : State) (va n n2 : ℕ) : (s.walk va n n2).2.queues = s.queues := by
  fun_induction State.walk <;> grind [State.rdNum_queues]
@[simp] theorem State.walkVd_queues (s : State) (v va : ℕ) : (s.walkVd v va).2.queues = s.queues := by
  simp [State.walkVd]
@[simp] theorem State.holdLeaf_queues (s : State) (stack asid va : ℕ) (l : Leaf) :
    (s.holdLeaf stack asid va l).queues = s.queues := by
  simp [State.holdLeaf]
@[simp] theorem State.leafFor_queues (s : State) (v stack va : ℕ) : (s.leafFor v stack va).2.queues = s.queues := by
  simp only [State.leafFor]
  repeat' split
  all_goals simp
@[simp] theorem State.translate_queues (s : State) (v stack ch va : ℕ) (acc : BitVec 2) :
    (s.translate v stack ch va acc).2.queues = s.queues := by
  grind [State.translate, State.leafFor_queues, State.holdLeaf_queues, State.setWelt_queues, State.setWelt]
@[simp] theorem State.noteCorrected_queues (s : State) (v pa : ℕ) : (s.noteCorrected v pa).queues = s.queues := by
  simp [State.noteCorrected]
@[simp] theorem State.readHome_queues (s : State) (v pa : ℕ) (tag : SecTag) :
    (s.readHome v pa tag).2.2.queues = s.queues := by
  unfold State.readHome; split <;> simp
@[simp] theorem State.writeHome_queues (s : State) (v pa : ℕ) (tag : SecTag) (bytes : Tbl Byte) :
    (s.writeHome v pa tag bytes).queues = s.queues := by
  unfold State.writeHome
  repeat' split
  all_goals simp

@[simp] theorem State.modVD_queues (s : State) (v : ℕ) (f : VD → VD) : (s.modVD v f).queues = s.queues := by
  simp [State.modVD, State.setVD]
@[simp] theorem State.sendMsix_queues (s : State) (v : ℕ) : (s.sendMsix v).queues = s.queues := by simp [State.sendMsix]
@[simp] theorem State.postEvent_queues (s : State) (v : ℕ) (incarn : Byte) (kind src detail : ℕ) :
    (s.postEvent v incarn kind src detail).queues = s.queues := by
  simp [State.postEvent]
@[simp] theorem State.errorReport_queues (s : State) (v : ℕ) (incarn : Byte) (r : ErrRec) :
    (s.errorReport v incarn r).queues = s.queues := by
  unfold State.errorReport; split <;> simp
@[simp] theorem State.reportPoisoned_queues (s : State) (v : ℕ) (incarn : Byte) (ctx va pc word core stack ch : ℕ) :
    (s.reportPoisoned v incarn ctx va pc word core stack ch).queues = s.queues := by
  simp [State.reportPoisoned]
@[simp] theorem State.setL2_queues (s : State) (slice : ℕ) (ls : List CacheLine) :
    (s.setL2 slice ls).queues = s.queues := by
  simp [State.setL2]
@[simp] theorem State.setMsc_queues (s : State) (bank : ℕ) (ls : List CacheLine) :
    (s.setMsc bank ls).queues = s.queues := by
  simp [State.setMsc]
@[simp] theorem State.spendFill_queues (s : State) (inst v : ℕ) (b : Bucket) :
    (s.spendFill inst v b).queues = s.queues := by
  simp [State.spendFill]
@[simp] theorem State.soil_queues (s : State) (pa : ℕ) : (s.soil pa).queues = s.queues := by simp [State.soil]
@[simp] theorem State.sink_queues (s : State) (pa : ℕ) : (s.sink pa).queues = s.queues := by simp [State.sink]
@[simp] theorem State.queueReq_queues (s : State) (ch v pa : ℕ) (offs : List ℕ) (read : Bool) :
    (s.queueReq ch v pa offs read).queues = s.queues := by
  simp [State.queueReq, State.setChan]
@[simp] theorem State.leaveMsc_queues (s : State) (ls : List CacheLine) : (s.leaveMsc ls).queues = s.queues := by
  simp [State.leaveMsc]
@[simp] theorem State.fillMsc_queues (s : State) (v : ℕ) (x : LineSec) : (s.fillMsc v x).2.queues = s.queues := by
  simp only [State.fillMsc]
  repeat' split
  all_goals simp
@[simp] theorem State.writeMsc_queues (s : State) (v : ℕ) (l : Leaf) (pa : ℕ) (offs : List ℕ) :
    (s.writeMsc v l pa offs).queues = s.queues := by
  grind [State.writeMsc, State.fillMsc_queues, State.sink_queues, State.queueReq_queues]
@[simp] theorem State.putTrip_queues (s : State) (t : Trip) : (s.putTrip t).queues = s.queues := by simp [State.putTrip]
@[simp] theorem State.depart_queues (s : State) (t : Trip) (st : TripStage) (way : List ℕ) :
    (s.depart t st way).1.queues = s.queues := by
  simp [State.depart]
@[simp] theorem State.leaveL2_queues (s : State) (ls : List CacheLine) : (s.leaveL2 ls).queues = s.queues := by
  simp [State.leaveL2]
@[simp] theorem State.fillL2_queues (s : State) (v die va : ℕ) (x : LineSec) :
    (s.fillL2 v die va x).queues = s.queues := by
  simp only [State.fillL2]
  repeat' split
  all_goals simp
@[simp] theorem State.countPage_queues (s : State) (v stack va core : ℕ) :
    (s.countPage v stack va core).queues = s.queues := by
  simp [State.countPage]
@[simp] theorem State.want_queues (s : State) (t : Trip) : (s.want t).queues = s.queues := by
  unfold State.want; split <;> simp
@[simp] theorem State.moveDown_queues (s : State) (v stack va : ℕ) : (s.moveDown v stack va).queues = s.queues := by
  simp only [State.moveDown]
  repeat' split
  all_goals simp
@[simp] theorem State.homeNow_queues (s : State) (w : Who) (stack ch va : ℕ) (acc : BitVec 2) :
    (s.homeNow w stack ch va acc).2.queues = s.queues := by
  grind [State.homeNow, State.translate_queues, State.countPage_queues, State.fillMsc_queues, State.fillL2_queues]
@[simp] theorem State.askHome_queues (s : State) (w : Who) (va : ℕ) (acc : BitVec 2) :
    (s.askHome w va acc).2.queues = s.queues := by
  unfold State.askHome
  split <;> grind [State.homeOf_queues, State.moveDown_queues, State.fillL2_queues, State.homeNow_queues,
      State.putTrip_queues, State.translate_queues, State.want_queues]
@[simp] theorem State.updateRdcs_queues (s : State) (writerDie home key : ℕ) (bytes : Tbl Byte) :
    (s.updateRdcs writerDie home key bytes).queues = s.queues := by
  grind [State.updateRdcs, foldl_queues, State.setDie_queues, State.flip_queues, State.setDie]
@[simp] theorem State.soilHome_queues (s : State) (w : Who) (va : ℕ) (h : Home) (offs : List ℕ) :
    (s.soilHome w va h offs).queues = s.queues := by
  simp only [State.soilHome]
  repeat' split
  all_goals simp
@[simp] theorem State.putHome_queues (s : State) (w : Who) (va : ℕ) (h : Home) (bytes : Tbl Byte) :
    (s.putHome w va h bytes).queues = s.queues := by
  simp [State.putHome]
@[simp] theorem State.unitFound_queues (s : State) (v a : ℕ) (h : Home) (found : Bool) :
    (s.unitFound v a h found).queues = s.queues := by
  simp [State.unitFound]
@[simp] theorem State.unitUpdate_queues (s : State) (v : ℕ) (va : DWord) (acc : BitVec 2) (f : DWord → DWord) :
    (s.unitUpdate v va acc f).2.queues = s.queues := by
  grind [State.unitUpdate, State.putHome_queues, State.askHome_queues, State.readHome_queues, State.unitFound_queues]

end Sys2Proof.Machine
end

section
/-! PROOF. Queues and launches (O54): packets read, polled and taken, and the end of a launch. -/

namespace Sys2Proof.Claims
open Sys2Proof.Machine

/-! ### A step that is tried -/

/-- What a step that is tried and need not wait leaves: the state that it computed, with the trips put away. -/
theorem exec_unlessHeld {i : Instr} {s x : State} {f : State → State} (he : exec i s = .next (s.unlessHeld f))
    (hf : f { s with holds := .on } = x) (hx : x.holds = .on) :
    ∃ tr, exec i s = .next { x with holds := .off, trips := tr } := by
  refine ⟨x.trips.filter (fun t => !t.used), ?_⟩
  rw [he, State.unlessHeld, hf]
  simp only [hx]

/-! ### Structures read in the clear (R391) -/

theorem readClear1_eq (s : State) (pa n : Nat) : ∃ k, (s.readClear1 pa n).2 = { s with free := k } := by
  unfold State.readClear1
  split
  · exact ⟨s.free, rfl⟩
  · exact ⟨_, rfl⟩

theorem readClear_eq (fuel : Nat) (s : State) (pa n : Nat) : ∃ k, (s.readClear fuel pa n).2 = { s with free := k } := by
  induction fuel generalizing s pa n with
  | zero => exact ⟨s.free, rfl⟩
  | succ fuel ih =>
    unfold State.readClear
    split
    · exact ⟨s.free, rfl⟩
    · obtain ⟨k1, h1⟩ := readClear1_eq s pa (min n (128 - pa % 128))
      obtain ⟨k2, h2⟩ := ih (s.readClear1 pa (min n (128 - pa % 128))).2 (pa + min n (128 - pa % 128))
        (n - min n (128 - pa % 128))
      refine ⟨k2, ?_⟩
      dsimp only
      rw [h2, h1]

/-- Reading the head packet changes at most the count of free choices. -/
theorem headPkt_eq (s : State) (q : Nat) : ∃ k, (s.headPkt q).2 = { s with free := k } := by
  unfold State.headPkt; dsimp only
  split
  · exact ⟨s.free, rfl⟩
  · exact readClear_eq _ _ _ _

theorem drop_readN (m : Mem) (a n k : Nat) : (Mem.readN m a n).drop k = Mem.readN m (a + k) (n - k) := by
  induction k generalizing a n with
  | zero => rfl
  | succ k ih =>
    cases n with
    | zero => simp [Mem.readN]
    | succ n => rw [Mem.readN, List.drop_succ_cons, ih, Nat.add_sub_add_right, Nat.add_assoc, Nat.add_comm 1 k]

theorem take_readN (m : Mem) (a n k : Nat) : (Mem.readN m a n).take k = Mem.readN m a (min k n) := by
  induction k generalizing a n with
  | zero => simp [Mem.readN]
  | succ k ih =>
    cases n with
    | zero => simp [Mem.readN]
    | succ n => rw [Mem.readN, List.take_succ_cons, ih, Nat.add_min_add_right, Mem.readN]

/-- A packet's worth of bytes in one sector, where a structure there can be read. -/
theorem rdBytes_of_readable {s : State} {pa : Nat} (ha : pa % 64 = 0) (h : s.readable pa 64 = true) :
    s.rdBytes pa 64 = (Mem.readN s.mem pa 64, s) := by
  have hcount : (64 + pa % 128 + 127) / 128 = 1 := by omega
  have hlen : min 64 (128 - pa % 128) = 64 := by omega
  have hbase : (pa / 128 + 0) * 128 / 128 = pa / 128 := by omega
  have hout : outside ((pa / 128 + 0) * 128) = outside pa := by
    simp only [outside, decide_eq_decide]; omega
  have hok : (s.isSound pa && !s.isBroken pa && s.inClear pa) = true := by
    simp only [State.readable, hcount, List.range_one, List.all_cons, List.all_nil, Bool.and_true, Bool.and_eq_true,
      State.isSound, State.isBroken, State.errsAt, State.inClear, hbase, hout] at h ⊢
    exact ⟨⟨h.1.1.2, h.1.2⟩, h.2⟩
  simp only [State.rdBytes, State.readClear, hlen, State.readClear1, hok]
  simp

theorem headPkt_of_readable {q : Nat} {s : State} {at_ : Nat}
    (hat : at_ = (s.queue q).base.toNat + 64 * ((s.queue q).rd.toNat % (s.queue q).slots)) (ha : at_ % 64 = 0)
    (h : s.readable at_ 64 = true) :
    let w (i : Nat) : Nat := leNat (Mem.readN s.mem (at_ + 8 * i) 8)
    s.headPkt q = (some { hdr := w 0, a := BitVec.ofNat 64 (w 1), b := BitVec.ofNat 64 (w 2)
                          c := BitVec.ofNat 64 (w 3), d := BitVec.ofNat 64 (w 4) }, s) := by
  unfold State.headPkt; dsimp only
  rw [← hat, h, rdBytes_of_readable ha h]
  simp only [drop_readN, take_readN]
  rfl

/-! ### Taking packets (R378 to R382) -/

/-- A queue has gone past its head packet, which stays in work where `more` says so. -/
def Past (q : Nat) (s2 s' : State) (more : List TakenPkt) : Prop :=
  s'.mem = s2.mem ∧ s'.teams = s2.teams ∧ (∀ r, r ≠ q → s'.queue r = s2.queue r)
  ∧ s'.queue q = { s2.queue q with
      rd := (s2.queue q).rd + 1, ready := false
      taken := (s2.queue q).taken.filter (fun y => decide (more ≠ []) || y.index != (s2.queue q).rd.toNat) ++ more
      notify := (s2.queue q).notify.filter (fun y => earlierPkt ((s2.queue q).rd + 1).toNat y.1) }

/-- A packet without an event that completes as it is taken. -/
theorem past_takeHead_done {q i : Nat} {s : State} (hi : i = (s.queue q).rd.toNat) :
    Past q s ((s.takeHead q none).packetDone q i false) [] := by
  subst hi
  refine ⟨rfl, rfl, fun r hr => ?_, ?_⟩
  · simp [State.takeHead, State.packetDone, State.queue_setQueue, Ne.symm hr]
  · simp [State.takeHead, State.packetDone]

theorem queue_congr {s s' : State} (h : s'.queues = s.queues) (q : Nat) : s'.queue q = s.queue q :=
  congrArg (fun t => Tbl.get resetQueue t q) h

section
variable {q : Nat} {s s1 s2 : State} {p : Pkt}

/-- What the head packet found leaves for the rest of the step. -/
theorem headPkt_frame (hp : ({ s with holds := .on } : State).headPkt q = (some p, s1)) :
    s1.holds = .on ∧ s1.queues = s.queues ∧ s1.stamp = s.stamp := by
  obtain ⟨k, hk⟩ := headPkt_eq { s with holds := .on } q
  rw [hp] at hk
  subst hk
  exact ⟨rfl, rfl, rfl⟩

/-- A WAITVAL at the head is polled (R380). -/
theorem waitvalPoll_done (hs : s.serving q = true) (hp : ({ s with holds := .on } : State).headPkt q = (some p, s1))
    (hb : p.bad = none) (ht : p.typ = 2) {bs : List Byte}
    (hr : s1.unitRead (s1.queue q).vd.toNat (p.a &&& ~~~7#64) 8 = (some bs, s2)) (h2 : s2.holds = .on) :
    ∃ s', exec (.waitvalPoll q) s = .next s' ∧ s'.mem = s2.mem ∧ s'.teams = s2.teams ∧ s'.queue q =
      { s2.queue q with ready := waited p.cond (BitVec.ofNat 64 (leNat bs) &&& p.c) p.b } := by
  have hcond : p.holds (BitVec.ofNat 64 (leNat bs)) = waited p.cond (BitVec.ofNat 64 (leNat bs) &&& p.c) p.b := by
    simp only [Pkt.holds, waited, BitVec.le_def, BitVec.lt_def]
    split <;> simp_all
  obtain ⟨tr, hexec⟩ := exec_unlessHeld (i := .waitvalPoll q) (s := s)
    (x := s2.setQueue q { s2.queue q with ready := waited p.cond (BitVec.ofNat 64 (leNat bs) &&& p.c) p.b }) rfl (by
      have hs' : ({ s with holds := .on } : State).serving q = true := hs
      have hr' : s1.unitRead (s1.queue q).vd.toNat (alignTo 8 p.a) 8 = (some bs, s2) := hr
      simp only [hs', hp, hb, ht, hr', hcond]
      rfl) h2
  exact ⟨_, hexec, rfl, rfl, State.queue_setQueue_same _ _ _⟩

/-- The instructions below take a packet that may go. -/
theorem packetTake_wait (h0 : s.serving q = true) (hp : ({ s with holds := .on } : State).headPkt q = (some p, s1))
    (hb : p.bad = none) (hmet : p.bar = false ∨ (s.queue q).taken = []) (ht : p.typ = 2)
    (hready : (s.queue q).ready = true) (hrel : p.rel = 0) (hev : p.event = false) :
    ∃ s', exec (.packetTake q) s = .next s' ∧ Past q s1 s' [] := by
  obtain ⟨h1, hq1, -⟩ := headPkt_frame hp
  have hm : (!p.bar || (s.queue q).clear) = true := by
    rcases hmet with h | h <;> simp [h, Queue.clear]
  obtain ⟨tr, hexec⟩ := exec_unlessHeld (i := .packetTake q) (s := s)
    (x := (s1.takeHead q none).packetDone q (s.queue q).rd.toNat false) rfl (by
      have hs' : ({ s with holds := .on } : State).serving q = true := h0
      have hx : ({ s with holds := .on } : State).queue q = s.queue q := rfl
      simp only [hs', hp, hb, ht, hx, hm, hready, hrel, hev]
      rfl) h1
  exact ⟨_, hexec, past_takeHead_done (by rw [show s1.queue q = s.queue q from queue_congr hq1 q])⟩

theorem packetTake_store (h0 : s.serving q = true) (hp : ({ s with holds := .on } : State).headPkt q = (some p, s1))
    (hb : p.bad = none) (hmet : p.bar = false ∨ (s.queue q).taken = []) (ht : p.typ = 3 ∨ p.typ = 4)
    (hrel : p.rel = 0) (hev : p.event = false)
    (hu : s1.unitUpdate (s1.queue q).vd.toNat (p.a &&& ~~~7#64) 1
      (fun _ => if p.typ = 3 then p.b else BitVec.ofNat 64 s1.clock) = (true, s2)) (h2 : s2.holds = .on) :
    ∃ s', exec (.packetTake q) s = .next s' ∧ Past q s2 s' [] := by
  have hm : (!p.bar || (s.queue q).clear) = true := by
    rcases hmet with h | h <;> simp [h, Queue.clear]
  have hq2 : s2.queue q = s1.queue q := by
    have h := State.unitUpdate_queues s1 (s1.queue q).vd.toNat (p.a &&& ~~~7#64) 1
      (fun _ => if p.typ = 3 then p.b else BitVec.ofNat 64 s1.clock)
    rw [hu] at h
    exact queue_congr h q
  have hstore : s1.takeStore q p (if p.typ = 3 then p.b else BitVec.ofNat 64 s1.clock)
      = (s2.takeHead q none).packetDone q (s1.queue q).rd.toNat false := by
    have hu' : s1.unitUpdate (s1.queue q).vd.toNat (alignTo 8 p.a) 1
      (fun _ => if p.typ = 3 then p.b else BitVec.ofNat 64 s1.clock) = (true, s2) := hu
    simp only [State.takeStore, hu', hrel, hev]
    rfl
  obtain ⟨tr, hexec⟩ := exec_unlessHeld (i := .packetTake q) (s := s)
    (x := (s2.takeHead q none).packetDone q (s1.queue q).rd.toNat false) rfl (by
      have hs' : ({ s with holds := .on } : State).serving q = true := h0
      have hx : ({ s with holds := .on } : State).queue q = s.queue q := rfl
      rw [← hstore]
      rcases ht with ht | ht <;> simp [hs', hp, hb, ht, hx, hm]) h2
  exact ⟨_, hexec, past_takeHead_done (by rw [hq2])⟩

theorem packetTake_launch (h0 : s.serving q = true) (hp : ({ s with holds := .on } : State).headPkt q = (some p, s1))
    (hb : p.bad = none) (hmet : p.bar = false ∨ (s.queue q).taken = []) (ht : p.typ = 1) {r : Rec}
    (hr : s1.readRecord (s1.queue q).vd.toNat 8 (p.b &&& ~~~15#64) = (some r, s2)) (h2 : s2.holds = .on)
    (hq : s2.queue q = s1.queue q) {la : Launch}
    (hla : la = launchOfRec p r q (s1.queue q).rd.toNat (s1.queue q).vd.toNat
      ((s1.queue q).coveredAt (s1.queue q).rd.toNat) (s1.queue q).prio.toNat)
    (hrej : s2.rejects (s1.queue q).vd.toNat r la = 0) :
    ∃ s', exec (.packetTake q) s = .next s' ∧ Past q s2 s' [{ index := (s1.queue q).rd.toNat, launch := some s2.stamp }]
      ∧ s'.launch s2.stamp = { la with
          rejected := 0, todo := (List.range la.gangCount).filter (fun n => n % la.gangSerial == 0) } := by
  obtain ⟨-, hq1, -⟩ := headPkt_frame hp
  have hm : (!p.bar || (s.queue q).clear) = true := by
    rcases hmet with h | h <;> simp [h, Queue.clear]
  have hx1 : s.queue q = s1.queue q := (queue_congr hq1 q).symm
  have hlaunch : s2.takeLaunch q p (some r) = (({ s2 with stamp := s2.stamp + 1 } : State).takeHead q (some s2.stamp)).setLaunch
      s2.stamp { la with rejected := 0, todo := (List.range la.gangCount).filter (fun n => n % la.gangSerial == 0) } := by
    have hrej' : ({ s2 with stamp := s2.stamp + 1 } : State).rejects (s1.queue q).vd.toNat r la = 0 := hrej
    simp only [State.takeLaunch, State.fresh, hq, Option.getD_some, ← hla, hrej']
    rfl
  obtain ⟨tr, hexec⟩ := exec_unlessHeld (i := .packetTake q) (s := s)
    (x := s2.takeLaunch q p (some r)) rfl (by
      have hs' : ({ s with holds := .on } : State).serving q = true := h0
      have hx : ({ s with holds := .on } : State).queue q = s1.queue q := hx1
      have hr' : s1.readRecord (s1.queue q).vd.toNat 8 (alignTo 16 p.b) = (some r, s2) := hr
      simp only [hs', hp, hb, ht, hx, hr']
      rw [hx1] at hm
      simp [hm]) (by rw [hlaunch]; exact h2)
  refine ⟨_, hexec, ?_, ?_⟩
  · rw [hlaunch]
    refine ⟨rfl, rfl, fun x hx => ?_, ?_⟩
    · exact (State.queue_setQueue _ q x _).trans (if_neg (Ne.symm hx))
    · refine (State.queue_setQueue_same _ q _).trans ?_
      have hall : (s2.queue q).taken.filter (fun y => decide (([{ index := (s1.queue q).rd.toNat, launch := some s2.stamp }] :
          List TakenPkt) ≠ []) || y.index != (s2.queue q).rd.toNat) = (s2.queue q).taken :=
        List.filter_eq_self.mpr (by simp)
      rw [hall, ← hq]
      rfl
  · rw [hlaunch]; exact State.launch_setLaunch_same _ _ _

end

/-! ### Notify writes and pauses (R377, R385) -/

theorem ofDomain_of {wr : Writer} {k : BitVec 4} (h : wr = .fw ∨ wr = .dm k.toNat) : ofDomain wr k.toNat = true := by
  have hk : k.toNat < 16 := k.isLt
  rcases h with rfl | rfl <;> simp [ofDomain, hk]

theorem notifyWrite_next {wr : Writer} {q : Nat} {val : Word} {s : State} (hq : q < 4096)
    (hw : wr = .fw ∨ wr = .dm (s.domOf (s.queue q).vd.toNat)) (hv : (val - (s.queue q).rd).toNat ≤ (s.queue q).slots) :
    exec (.notifyWrite wr q val) s = .next (s.setQueue q { s.queue q with
      wr := val, notify := (s.queue q).notify ++ [(val.toNat, s.clock)] }) := by
  have hd : ofDomain wr (s.domOf (s.queue q).vd.toNat) = true := ofDomain_of hw
  show Host.Outcome.next _ = _
  dsimp only
  rw [hd, if_neg (by simp; omega), if_neg (by omega)]

theorem pauseClear_next {wr : Writer} {v : Nat} {s : State} (hv : v < 64) (hw : wr = .dm (s.vd v).domain.toNat) :
    exec (.pauseClear wr v) s = .next { s.setVD v { s.vd v with pause := false } with
      msix := if (s.vd v).pause = true ∧ (s.vd v).evq.wr ≠ (s.vd v).evq.rd then Tbl.upd 0 s.msix v (fun n => n + 1)
        else s.msix } := by
  have hm : s.isManager wr v = true := by simp [State.isManager, hw, hv]
  show Host.Outcome.next _ = _
  dsimp only
  rw [hm, if_neg (by simp)]
  by_cases h : (s.vd v).pause = true ∧ (s.vd v).evq.wr ≠ (s.vd v).evq.rd
  · rw [if_pos h, if_pos (by simpa using h)]
    rfl
  · rw [if_neg h, if_neg (by simpa using h)]
    rfl

/-! ### The end of a launch (R384) -/

section
variable {id : Nat} {s s1 s2 : State} {l : Launch}

/-- A launch that is gone from the table, its packet out of work. -/
def LaunchDone (id : Nat) (l : Launch) (s2 s' : State) : Prop :=
  s'.launches = Tbl.del s2.launches id ∧ s'.mem = s2.mem ∧ s'.teams = s2.teams
    ∧ s'.queue l.queue = { s2.queue l.queue with taken := (s2.queue l.queue).taken.filter (fun p => p.index != l.index) }

theorem launchDone_packetDone (s2 : State) (id : Nat) (l : Launch) :
    LaunchDone id l s2 { s2.packetDone l.queue l.index false with launches := Tbl.del s2.launches id } :=
  ⟨rfl, rfl, rfl, State.queue_setQueue_same _ _ _⟩

theorem launch_of_get? (h : Tbl.get? s.launches id = some l) : s.launch id = l := by
  have hget : ∀ t : Tbl Launch, Tbl.get? t id = some l → Tbl.get resetLaunch t id = l := by
    intro t
    induction t with
    | nil => simp [Tbl.get?]
    | cons e t ih =>
      unfold Tbl.get? Tbl.get
      split
      · simp
      · exact ih
  exact hget _ h

theorem status_eq (l : Launch) : l.status = BitVec.ofNat 64 ((match l.killed with
    | none => 0
    | some .double => 0x11
    | some .unhandled => 0x21
    | some .fault => 0x31
    | some .poison => 0x41
    | some .coolant => 0x51
    | some .stitch => 0x61) + (if l.rejected = 0 then 0 else 2 + 256 * l.rejected)) := by
  unfold Launch.status
  cases l.killed with
  | none => rfl
  | some k => cases k <;> rfl

theorem launchComplete_silent (h : Tbl.get? s.launches id = some l) (ht : l.todo = []) (hl : l.live = [])
    (hr : l.rel = none) (he : l.event = false) (hsig : l.signal = 0) :
    ∃ s', exec (.launchComplete id) s = .next s' ∧ LaunchDone id l s s' := by
  have hla : ({ s with holds := .on } : State).launch id = l := launch_of_get? h
  obtain ⟨tr, hexec⟩ := exec_unlessHeld (i := .launchComplete id) (s := s)
    (f := fun s => s.completeLaunch id)
    (x := { ({ s with holds := .on } : State).packetDone l.queue l.index false with
      launches := Tbl.del s.launches id }) (by
      show Host.Outcome.next _ = _
      simp only [h, ht, hl, List.isEmpty_nil, Bool.and_self, if_true]) (by
      simp only [State.completeLaunch, hla, hr, he, hsig, if_true, State.releaseAll]) rfl
  exact ⟨_, hexec, launchDone_packetDone s id l⟩

theorem launchComplete_signals (h : Tbl.get? s.launches id = some l) (ht : l.todo = []) (hl : l.live = [])
    (hr : l.rel = none) (he : l.event = false) (hsig : l.signal ≠ 0)
    (h1 : ({ s with holds := .on } : State).unitUpdate l.vd l.signal 2 (fun w => w + 1) = (true, s1))
    (h2 : s1.unitUpdate l.vd (l.signal + 8) 2 (fun w => w ||| l.status) = (true, s2)) (h2on : s2.holds = .on) :
    ∃ s', exec (.launchComplete id) s = .next s' ∧ LaunchDone id l s2 s' := by
  have hla : ({ s with holds := .on } : State).launch id = l := launch_of_get? h
  obtain ⟨tr, hexec⟩ := exec_unlessHeld (i := .launchComplete id) (s := s)
    (f := fun s => s.completeLaunch id)
    (x := { s2.packetDone l.queue l.index false with launches := Tbl.del s2.launches id }) (by
      show Host.Outcome.next _ = _
      simp only [h, ht, hl, List.isEmpty_nil, Bool.and_self, if_true]) (by
      simp only [State.completeLaunch, hla, hr, he, hsig, if_false, State.releaseAll, h1, h2]
      rfl) h2on
  exact ⟨_, hexec, launchDone_packetDone s2 id l⟩

end

end Sys2Proof.Claims
end

section
/-! PROOF. Queues and launches (O54): placing a gang and ending a team. -/

namespace Sys2Proof.Claims
open Sys2Proof.Machine

/-! ### Starting a group (R25, R261) -/

/-- Memory, groups, gang instances and launches are as they were. -/
structure KeepsPlaces (s s' : State) : Prop where
  mem      : s'.mem = s.mem
  groups   : s'.groups = s.groups
  gangs    : s'.gangs = s.gangs
  launches : s'.launches = s.launches

theorem KeepsPlaces.refl (s : State) : KeepsPlaces s s := ⟨rfl, rfl, rfl, rfl⟩

theorem KeepsPlaces.trans {s s' s'' : State} (h : KeepsPlaces s s') (k : KeepsPlaces s' s'') : KeepsPlaces s s'' :=
  ⟨k.mem.trans h.mem, k.groups.trans h.groups, k.gangs.trans h.gangs, k.launches.trans h.launches⟩

theorem pick_keepsPlaces (s : State) (n : Nat) : KeepsPlaces s (s.pick n).2 := by
  unfold State.pick; split <;> exact ⟨rfl, rfl, rfl, rfl⟩

theorem startRows_keepsPlaces (s : State) (n k : Nat) (used : List Nat) : KeepsPlaces s (s.startRows n k used).2 := by
  induction k generalizing s used with
  | zero => exact KeepsPlaces.refl s
  | succ k ih =>
    refine KeepsPlaces.trans ?_ (ih (s.pickRow used n).2 (used ++ [(s.pickRow used n).1]))
    exact pick_keepsPlaces s _

theorem wakeCause_keepsPlaces (s : State) (c bit : Nat) : KeepsPlaces s (s.wakeCause c bit) := by
  unfold State.wakeCause; split <;> exact ⟨rfl, rfl, rfl, rfl⟩

theorem startTeam_keepsPlaces (s : State) (g index : Nat) (lower : List Nat) (slot ctx : Nat) :
    KeepsPlaces s (s.startTeam g index lower slot ctx) := by
  unfold State.startTeam; dsimp only
  have hrows := startRows_keepsPlaces s.fresh.2.fresh.2 (s.launch (s.group g).launch).tregs 4 []
  generalize s.fresh.2.fresh.2.startRows (s.launch (s.group g).launch).tregs 4 [] = r at hrows ⊢
  refine KeepsPlaces.trans ?_ (wakeCause_keepsPlaces _ _ 9)
  exact ⟨hrows.mem, hrows.groups, hrows.gangs, hrows.launches⟩

theorem startTeams_keepsPlaces (s : State) (g n : Nat) : KeepsPlaces s (s.startTeams g n) := by
  induction n generalizing s with
  | zero => exact KeepsPlaces.refl s
  | succ n ih =>
    unfold State.startTeams; dsimp only
    refine KeepsPlaces.trans ?_ (ih _)
    split
    · exact startTeam_keepsPlaces _ _ _ _ _ _
    · exact KeepsPlaces.refl s

theorem freshQuads_keepsPlaces (s : State) (mask : BitVec 4) : KeepsPlaces s (s.freshQuads mask).2 :=
  List.foldlRecOn (motive := fun acc : Tbl Quad × State => KeepsPlaces s acc.2) _ _ (KeepsPlaces.refl s)
    (fun _ h _ _ => h.trans ⟨rfl, rfl, rfl, rfl⟩)

/-- A group that starts: an empty scratchpad, an empty registry, no engine running (R261). -/
def startedGroup (g : Group) (quads : Tbl Quad) : Group := { g with
  spad := [], full := [], bad := [], registry := [], fuseI := [], fuse := [], quads := quads, engines := [], ended := false }

theorem group_congr {s s' : State} (h : s'.groups = s.groups) (g : Nat) : s'.group g = s.group g :=
  congrArg (fun t => Tbl.get resetGroup t g) h

/-- What the start of a group changes of the groups, of memory, of gang instances and of launches. -/
theorem startGroup_effect (s : State) (h : Nat) : ∃ quads,
    (∀ g, (s.startGroup h).group g = if h = g then startedGroup (s.group h) quads else s.group g)
    ∧ (s.startGroup h).mem = s.mem ∧ (s.startGroup h).gangs = s.gangs ∧ (s.startGroup h).launches = s.launches := by
  have hq := freshQuads_keepsPlaces s (s.group h).qmask
  have ht := startTeams_keepsPlaces ((s.freshQuads (s.group h).qmask).2.modGroup h
    (fun k => startedGroup k (s.freshQuads (s.group h).qmask).1)) h
    (((s.freshQuads (s.group h).qmask).2.modGroup h (fun k => startedGroup k (s.freshQuads (s.group h).qmask).1)).launch
      (((s.freshQuads (s.group h).qmask).2.modGroup h
        (fun k => startedGroup k (s.freshQuads (s.group h).qmask).1)).group h).launch).teamCount
  refine ⟨(s.freshQuads (s.group h).qmask).1, fun g => ?_, ht.mem.trans hq.mem, ht.gangs.trans hq.gangs,
    ht.launches.trans hq.launches⟩
  refine (group_congr ht.groups g).trans ?_
  rw [State.group_modGroup, group_congr hq.groups, group_congr hq.groups]

/-! ### Seating a gang (R25, R26) -/

/-- The place that a group of a gang takes. -/
structure Seated (g : Group) (a l core member : Nat) (la : Launch) : Prop where
  gang    : g.gang = a
  launch  : g.launch = l
  vd      : g.vd = la.vd
  core    : g.core = core
  member  : g.member = member
  spadLen : g.spadLen = 256 * la.spad
  qmask   : g.qmask = la.qmask
  lmask   : g.lmask = la.lmask

theorem Seated.started {g : Group} {a l core member : Nat} {la : Launch} (h : Seated g a l core member la)
    (quads : Tbl Quad) : Seated (startedGroup g quads) a l core member la :=
  ⟨h.gang, h.launch, h.vd, h.core, h.member, h.spadLen, h.qmask, h.lmask⟩

/-- A group as it starts. -/
structure Bare (g : Group) : Prop where
  spad     : g.spad = []
  full     : g.full = []
  registry : g.registry = []
  ended    : g.ended = false

/-- Starting groups moves none from its place, and leaves each of them bare. -/
theorem startGroups_effect (gs : List Nat) (s : State) :
    (∀ g a l core member la, Seated (s.group g) a l core member la →
      Seated ((gs.foldl (fun s g => s.startGroup g) s).group g) a l core member la)
    ∧ (∀ g, g ∈ gs ∨ Bare (s.group g) → Bare ((gs.foldl (fun s g => s.startGroup g) s).group g))
    ∧ (gs.foldl (fun s g => s.startGroup g) s).mem = s.mem
    ∧ (gs.foldl (fun s g => s.startGroup g) s).gangs = s.gangs
    ∧ (gs.foldl (fun s g => s.startGroup g) s).launches = s.launches := by
  induction gs generalizing s with
  | nil => exact ⟨fun _ _ _ _ _ _ h => h, fun g h => h.resolve_left (by simp), rfl, rfl, rfl⟩
  | cons h gs ih =>
    obtain ⟨quads, hgroup, hmem, hgangs, hlaunches⟩ := startGroup_effect s h
    obtain ⟨iseat, ibare, imem, igangs, ilaunches⟩ := ih (s.startGroup h)
    refine ⟨fun g a l core member la hs => iseat _ _ _ _ _ _ ?_, fun g hb => ibare g ?_, imem.trans hmem,
      igangs.trans hgangs, ilaunches.trans hlaunches⟩
    · rw [hgroup]
      split
      · next heq => exact Seated.started (heq ▸ hs) quads
      · exact hs
    · by_cases hg : g ∈ gs
      · exact .inl hg
      · right
        rw [hgroup]
        split
        · exact ⟨rfl, rfl, rfl, rfl⟩
        · next hne =>
          rcases hb with hb | hb
          · simp [hg, Ne.symm hne] at hb
          · exact hb

theorem pick_eq (s : State) (n : Nat) : ∃ b k, s.pick n = (b, { s with free := k }) := by
  unfold State.pick; split
  · exact ⟨0, s.free, rfl⟩
  · exact ⟨_, _, rfl⟩

theorem seatGroup_effect (s : State) (a l no o c : Nat) :
    (s.seatGroup a l no o c).1 = s.stamp ∧ (s.seatGroup a l no o c).2.stamp = s.stamp + 1
    ∧ (s.seatGroup a l no o c).2.mem = s.mem ∧ (s.seatGroup a l no o c).2.launches = s.launches
    ∧ (∀ g, g ≠ s.stamp → (s.seatGroup a l no o c).2.group g = s.group g)
    ∧ Seated ((s.seatGroup a l no o c).2.group s.stamp) a l c o (s.launch l) := by
  obtain ⟨b, k, hpick⟩ := pick_eq s (s.spadBases c (s.domOf (s.launch l).vd) ((s.launch l).spad * 256)).length
  unfold State.seatGroup; dsimp only
  rw [hpick]
  refine ⟨rfl, rfl, rfl, rfl, fun g hg => ?_, ?_⟩
  · exact (State.group_setGroup ..).trans (if_neg (Ne.symm hg))
  · rw [show ({ s with free := k } : State).fresh.1 = s.stamp from rfl, State.group_setGroup_same]
    exact ⟨rfl, rfl, rfl, rfl, rfl, Nat.mul_comm _ _, rfl, rfl⟩

/-- Seating cores one after another takes the stamps one after another. -/
theorem seatAll_effect (cores : List Nat) (s : State) (a l no o : Nat) :
    (s.seatAll a l no o cores).1 = List.range' s.stamp cores.length
    ∧ (s.seatAll a l no o cores).2.mem = s.mem ∧ (s.seatAll a l no o cores).2.launches = s.launches
    ∧ (∀ g, g < s.stamp → (s.seatAll a l no o cores).2.group g = s.group g)
    ∧ ∀ i, i < cores.length →
      Seated ((s.seatAll a l no o cores).2.group (s.stamp + i)) a l (cores.getD i 0) (o + i) (s.launch l) := by
  induction cores generalizing s o with
  | nil => exact ⟨rfl, rfl, rfl, fun _ _ => rfl, fun i hi => absurd hi (by simp)⟩
  | cons c cs ih =>
    obtain ⟨hg, hstamp, hmem, hlaunches, hother, hseat⟩ := seatGroup_effect s a l no o c
    obtain ⟨ihgs, ihmem, ihlaunches, ihbelow, ihseat⟩ := ih (s.seatGroup a l no o c).2 (o + 1)
    rw [hstamp] at ihgs ihbelow ihseat
    have hlaunch : (s.seatGroup a l no o c).2.launch l = s.launch l := congrArg (fun t => Tbl.get resetLaunch t l) hlaunches
    rw [State.seatAll]; dsimp only
    refine ⟨?_, ihmem.trans hmem, ihlaunches.trans hlaunches, fun g hlt => ?_, fun i hi => ?_⟩
    · rw [hg, ihgs, List.length_cons, List.range'_succ]
    · rw [ihbelow g (by omega), hother g (by omega)]
    · cases i with
      | zero => rw [Nat.add_zero, ihbelow _ (by omega)]; exact hseat
      | succ i =>
        have := ihseat i (by simpa using hi)
        rw [hlaunch] at this
        simpa [Nat.add_assoc, Nat.add_comm 1 i] using this

end Sys2Proof.Claims
end

section
/-! PROOF. Queues and launches (O54): the placement step. -/

namespace Sys2Proof.Claims
open Sys2Proof.Machine

/-- What the placement of a gang of a launch without an acquire leaves. -/
structure Placed (s s' : State) (l no : Nat) (cores : List Nat) (a : Nat) (gs : List Nat) : Prop where
  mem    : s'.mem = s.mem
  length : gs.length = cores.length
  gang   : s'.gang a = { resetGang with launch := l, no := no, vd := (s.launch l).vd, members := gs }
  todo   : (s'.launch l).todo = (s.launch l).todo.filter (fun n => n != no)
  live   : (s'.launch l).live = (s.launch l).live ++ [a]
  seated : ∀ i, i < cores.length → Seated (s'.group (gs.getD i 0)) a l (cores.getD i 0) i (s.launch l)
  bare   : ∀ i, i < cores.length → Bare (s'.group (gs.getD i 0))

/-- The new gang and its launch as they are entered once the groups `gs` are seated. -/
def entered (s s1 : State) (l no : Nat) (gs : List Nat) (clusters : Tbl Nat) : State :=
  (s1.setGang s.stamp { resetGang with launch := l, no := no, vd := (s.launch l).vd, members := gs }).setLaunch l
    { s.launch l with todo := (s.launch l).todo.filter (fun n => n != no), live := (s.launch l).live ++ [s.stamp],
                      clusters := clusters }

theorem packetAcquire_of_none {la : Launch} (s : State) (h : la.acq = none) (cores : List Nat) :
    s.packetAcquire la cores = s := by
  rw [State.packetAcquire, h]

theorem placeGang_eq (s : State) (l no : Nat) (cores : List Nat) (hacq : (s.launch l).acq = none) :
    ∃ clusters, s.placeGang l no cores =
      (s.fresh.2.seatAll s.stamp l no 0 cores).1.foldl (fun s g => s.startGroup g)
        (entered s (s.fresh.2.seatAll s.stamp l no 0 cores).2 l no (s.fresh.2.seatAll s.stamp l no 0 cores).1 clusters) := by
  unfold State.placeGang; dsimp only
  rw [packetAcquire_of_none _ hacq]
  exact ⟨_, rfl⟩

theorem placeGang_effect (s : State) (l no : Nat) (cores : List Nat) (hacq : (s.launch l).acq = none) :
    ∃ a gs, Placed s (s.placeGang l no cores) l no cores a gs := by
  obtain ⟨clusters, heq⟩ := placeGang_eq s l no cores hacq
  obtain ⟨hgs, hmem, -, -, hseat⟩ := seatAll_effect cores s.fresh.2 s.stamp l no 0
  rw [heq]
  generalize s.fresh.2.seatAll s.stamp l no 0 cores = r at hgs hmem hseat ⊢
  obtain ⟨gs, s1⟩ := r
  dsimp only at hgs hmem hseat ⊢
  have hat : ∀ i, i < cores.length → gs.getD i 0 = s.fresh.2.stamp + i := fun i hi => by
    simp [hgs, List.getD_eq_getElem?_getD, hi]
  obtain ⟨kseat, kbare, kmem, kgangs, klaunches⟩ := startGroups_effect gs (entered s s1 l no gs clusters)
  have hlaunch := (congrArg (fun t => Tbl.get resetLaunch t l) klaunches).trans (State.launch_setLaunch_same ..)
  refine ⟨s.stamp, gs, kmem.trans hmem, by simp [hgs],
    (congrArg (fun t => Tbl.get resetGang t s.stamp) kgangs).trans (State.gang_setGang_same ..),
    congrArg Launch.todo hlaunch, congrArg Launch.live hlaunch, fun i hi => ?_, fun i hi => ?_⟩
  · rw [hat i hi]
    have hi' := hseat i hi
    rw [Nat.zero_add] at hi'
    exact kseat _ _ _ _ _ _ hi'
  · refine kbare _ (.inl ?_)
    rw [hat i hi, hgs, List.mem_range'_1]
    omega

/-- The first candidate that fits is placed, where the domain and the virtual device are valid and no saved
    gang may come back. -/
theorem placementStep_places {s : State} {v l no : Nat} {cores : List Nat} {rest : List (Nat × Nat)}
    (hvd : (s.vd v).valid = true) (hdom : (s.domain (s.vd v).domain.toNat).valid = true)
    (hsaved : ∀ e ∈ s.gangs, e.2.vd = v → s.eligible e.1 = false) (hcand : s.candidates v = (l, no) :: rest)
    (hearly : s.earlyUnmet (s.launch l) = false)
    (hfits : s.fits v (s.launch l) (some no) cores (fun c => s.canGrant c v (s.launch l)) = true) :
    exec (.placementStep v cores) s = .next (s.placeGang l no cores) := by
  have hnone : s.gangs.filter (fun e => e.2.vd == v && s.eligible e.1) = [] := by
    rw [List.filter_eq_nil_iff]
    intro e he h
    simp only [Bool.and_eq_true, beq_iff_eq] at h
    simp [hsaved e he h.1] at h
  have hreserved : ∀ c, s.reserved c v (s.launch l) = false := fun c => by simp [State.reserved, hearly]
  have hplace : s.placeFirst v cores ((l, no) :: rest) = s.placeGang l no cores := by
    rw [State.placeFirst]
    simp only [hreserved, Bool.not_false, Bool.and_true, hfits, if_true]
  have hvalid : ((s.vd v).valid && (s.domain (s.domOf v)).valid) = true := by
    rw [hvd]; exact hdom
  simp only [exec, execPlacementStep, hvalid, hnone, hcand, hplace]
  rfl

end Sys2Proof.Claims
end

section
/-! PROOF. Queues and launches (O54): the end of a team without lanes (R23). -/

namespace Sys2Proof.Claims
open Sys2Proof.Machine

/-! ### What stays as a team is taken away -/

/-- Memory, families, launches, and the scratchpad and the launch of every group are as they were. -/
structure KeepsRuns (s s' : State) : Prop where
  mem    : s'.mem = s.mem
  fam    : ∀ f, s'.fam f = s.fam f
  launch : ∀ l, s'.launch l = s.launch l
  spad   : ∀ g, (s'.group g).spad = (s.group g).spad
  runs   : ∀ g, (s'.group g).launch = (s.group g).launch

theorem KeepsRuns.trans {s s' s'' : State} (h : KeepsRuns s s') (k : KeepsRuns s' s'') : KeepsRuns s s'' where
  mem := k.mem.trans h.mem
  fam f := (k.fam f).trans (h.fam f)
  launch l := (k.launch l).trans (h.launch l)
  spad g := (k.spad g).trans (h.spad g)
  runs g := (k.runs g).trans (h.runs g)

theorem yieldCore_keepsRuns (s : State) (t : Team) : KeepsRuns s (s.yieldCore t) :=
  ⟨rfl, fun _ => rfl, fun _ => rfl, fun _ => rfl, fun _ => rfl⟩

/-- Of a group, the team's commands that wait at its quadrants go. -/
theorem dropQueued_group (s : State) (t : Team) (g : Nat) :
    ∃ quads, (s.dropQueued t).group g = { s.group g with quads := quads } := by
  have hmod : (s.dropQueued t).group g = (s.modGroup t.group (fun g =>
    { g with quads := g.quads.map (fun e => (e.1, e.2.discard t.ctx)) })).group g := rfl
  rw [hmod, State.group_modGroup]
  split
  · next h => subst h; exact ⟨_, rfl⟩
  · exact ⟨(s.group g).quads, rfl⟩

theorem dropQueued_keepsRuns (s : State) (t : Team) : KeepsRuns s (s.dropQueued t) where
  mem := rfl
  fam _ := rfl
  launch _ := rfl
  spad g := by obtain ⟨quads, h⟩ := dropQueued_group s t g; rw [h]
  runs g := by obtain ⟨quads, h⟩ := dropQueued_group s t g; rw [h]

theorem purgeTeam_keepsRuns (s : State) (t : Team) : KeepsRuns s (s.purgeTeam t) :=
  ⟨rfl, fun _ => rfl, fun _ => rfl, fun _ => rfl, fun _ => rfl⟩

theorem dropTeam_keepsRuns (s : State) (ctx : Nat) : KeepsRuns s (s.dropTeam ctx) :=
  ⟨rfl, fun _ => rfl, fun _ => rfl, fun _ => rfl, fun _ => rfl⟩

/-- The team of `ctx` is gone, every other is held as it was, and the runs are kept. -/
structure TeamGone (s s' : State) (ctx : Nat) : Prop extends KeepsRuns s s' where
  teams : s'.teams = Tbl.del s.teams ctx

theorem removeTeam_gone (s : State) (t : Team) : TeamGone s (s.removeTeam t) t.ctx where
  toKeepsRuns := (yieldCore_keepsRuns s t).trans ((dropQueued_keepsRuns _ t).trans
    ((purgeTeam_keepsRuns _ t).trans (dropTeam_keepsRuns _ t.ctx)))
  teams := by
    have hpurge : ((s.yieldCore t).dropQueued t |>.purgeTeam t).teams = ((s.yieldCore t).dropQueued t).teams := rfl
    have hqueued : ((s.yieldCore t).dropQueued t).teams = (s.yieldCore t).teams := rfl
    rw [State.removeTeam, State.dropTeam, hpurge, hqueued]
    rfl

section
variable {s s' : State} {ctx : Nat}

theorem TeamGone.team?_same (h : TeamGone s s' ctx) : s'.team? ctx = none := by
  rw [State.team?, h.teams, Tbl.get?_del, if_pos rfl]

theorem TeamGone.team?_other (h : TeamGone s s' ctx) {c : Nat} (hc : c ≠ ctx) : s'.team? c = s.team? c := by
  rw [State.team?, h.teams, Tbl.get?_del, if_neg hc]; rfl

/-- The teams left are the others, where each is held under its own context id. -/
theorem TeamGone.mem_allTeams (h : TeamGone s s' ctx) (hs : s.teamsOk) (u : Team) :
    u ∈ s'.allTeams ↔ u ∈ s.allTeams ∧ u.ctx ≠ ctx := by
  obtain ⟨-, hown⟩ := hs
  simp only [State.allTeams, h.teams, Tbl.del, List.mem_map, List.mem_filter, bne_iff_ne]
  constructor
  · rintro ⟨e, ⟨he, hne⟩, rfl⟩
    exact ⟨⟨e, he, rfl⟩, by rwa [hown e he]⟩
  · rintro ⟨⟨e, he, rfl⟩, hne⟩
    exact ⟨e, ⟨he, by rwa [hown e he] at hne⟩, rfl⟩

theorem TeamGone.famTeams_isEmpty (h : TeamGone s s' ctx) (hs : s.teamsOk) (f : Nat) :
    (s'.famTeams f).isEmpty = true ↔ ∀ u ∈ s.allTeams, u.fam = f → u.ctx = ctx := by
  simp only [State.famTeams, List.isEmpty_iff, List.filter_eq_nil_iff, h.mem_allTeams hs, beq_iff_eq]
  exact ⟨fun hall u hu hf => by_contra fun hc => hall u ⟨hu, hc⟩ hf, fun hall u hu hf => hu.2 (hall u hu.1 hf)⟩

end

/-! ### The end of a team -/

section
variable {ctx : Nat} {s : State} {t : Team}

/-- A team without lanes whose counters are zero is taken away; then its family has retired more, or has ended. -/
theorem teamEnd_next (ht : s.team? ctx = some t) (hl : t.lanes = []) (h0 : t.ld = 0) (h1 : t.pl = 0) (h2 : t.st = 0) :
    exec (.teamEnd ctx) s = .next (if ((s.removeTeam t).famTeams t.fam).isEmpty = true then
        ((s.removeTeam t).closeSession t.fam).afterFam t.fam ((s.removeTeam t).fam t.fam).index t.lower
          (((s.removeTeam t).fam t.fam).retired + t.retired)
      else (s.removeTeam t).setFam t.fam { (s.removeTeam t).fam t.fam with
        retired := ((s.removeTeam t).fam t.fam).retired + t.retired }) := by
  simp only [exec, execTeamEnd, ht, hl, h0, h1, h2]
  rfl

/-- A group with a team left goes on. -/
theorem endGroup_of_team {g : Nat} (s : State) (hleft : ∃ u ∈ s.allTeams, u.group = g) : s.endGroup g = s := by
  obtain ⟨u, hu, hg⟩ := hleft
  have hnotdone : s.groupDone g = false := by
    simp only [State.groupDone, State.groupTeams, List.isEmpty_eq_false_iff_exists_mem]
    exact ⟨u, List.mem_filter.mpr ⟨hu, beq_iff_eq.mpr hg⟩⟩
  rw [State.endGroup, hnotdone]
  rfl

theorem nextTuple_nil (is : List Nat) : nextTuple is [] = none := by
  cases is <;> rfl

/-- A family whose tuple below has no next ends, and its group goes on with a team left. -/
theorem afterFam_ends (s : State) (f index retired : Nat) (lower : List Nat)
    (hserial : (s.launch (s.group (s.fam f).group).launch).teamSerial = [])
    (hleft : ∃ u ∈ s.allTeams, u.group = (s.fam f).group) :
    s.afterFam f index lower retired =
      (s.setGang (s.group (s.fam f).group).gang { s.gang (s.group (s.fam f).group).gang with
        retired := (s.gang (s.group (s.fam f).group).gang).retired + retired }).setFam f { s.fam f with ended := true } := by
  unfold State.afterFam; dsimp only
  rw [hserial, nextTuple_nil]
  exact endGroup_of_team _ hleft

end

end Sys2Proof.Claims
end

section
/-! PROOF. Queues and launches (O54): the two ends of a team, and the statement. -/

namespace Sys2Proof.Claims
open Sys2Proof.Machine

section
variable {ctx : Nat} {s : State} {t : Team}

/-- With another team of its family left, the family has retired more. -/
theorem teamEnd_kin (ht : s.team? ctx = some t) (hctx : t.ctx = ctx) (hl : t.lanes = []) (h0 : t.ld = 0)
    (h1 : t.pl = 0) (h2 : t.st = 0) (hkin : ∃ u ∈ s.allTeams, u.fam = t.fam ∧ u.ctx ≠ ctx) (hs : s.teamsOk) :
    ∃ s', exec (.teamEnd ctx) s = .next s' ∧ s'.team? ctx = none ∧ (∀ c, c ≠ ctx → s'.team? c = s.team? c)
      ∧ s'.mem = s.mem ∧ s'.fam t.fam = { s.fam t.fam with retired := (s.fam t.fam).retired + t.retired }
      ∧ ∀ g, (s'.group g).spad = (s.group g).spad := by
  have hgone := removeTeam_gone s t
  rw [hctx] at hgone
  obtain ⟨u, hu, hfam, hne⟩ := hkin
  have hempty : ¬ ((s.removeTeam t).famTeams t.fam).isEmpty = true := fun h =>
    hne ((hgone.famTeams_isEmpty hs t.fam).mp h u hu hfam)
  refine ⟨_, (teamEnd_next ht hl h0 h1 h2).trans (congrArg _ (if_neg hempty)), hgone.team?_same,
    fun c hc => hgone.team?_other hc, hgone.mem, ?_, hgone.spad⟩
  rw [State.fam_setFam_same, hgone.fam]

/-- The last team of a family that has no tuple to start again ends the family. -/
theorem teamEnd_last (ht : s.team? ctx = some t) (hctx : t.ctx = ctx) (hl : t.lanes = []) (h0 : t.ld = 0)
    (h1 : t.pl = 0) (h2 : t.st = 0) (halone : ∀ u ∈ s.allTeams, u.fam = t.fam → u.ctx = ctx) (hs : s.teamsOk)
    (hsession : (s.fam t.fam).session = none) (hgroup : (s.fam t.fam).group = t.group)
    (hserial : (s.launch (s.group t.group).launch).teamSerial = [])
    (hleft : ∃ u ∈ s.allTeams, u.group = t.group ∧ u.ctx ≠ ctx) :
    ∃ s', exec (.teamEnd ctx) s = .next s' ∧ s'.team? ctx = none ∧ (∀ c, c ≠ ctx → s'.team? c = s.team? c)
      ∧ s'.mem = s.mem ∧ (s'.fam t.fam).ended = true ∧ ∀ g, (s'.group g).spad = (s.group g).spad := by
  have hgone := removeTeam_gone s t
  rw [hctx] at hgone
  have hempty := (hgone.famTeams_isEmpty hs t.fam).mpr halone
  have hclose : (s.removeTeam t).closeSession t.fam = s.removeTeam t := by
    rw [State.closeSession, hgone.fam, hsession]
  have hmembers : ((s.removeTeam t).fam t.fam).group = t.group := by rw [hgone.fam, hgroup]
  obtain ⟨u, hu, hug, hne⟩ := hleft
  have hafter := afterFam_ends (s.removeTeam t) t.fam ((s.removeTeam t).fam t.fam).index
    (((s.removeTeam t).fam t.fam).retired + t.retired) t.lower
    (by rw [hmembers, hgone.runs, hgone.launch, hserial])
    ⟨u, (hgone.mem_allTeams hs u).mpr ⟨hu, hne⟩, by rw [hmembers, hug]⟩
  have hends := (congrArg (fun x : State => x.afterFam t.fam ((s.removeTeam t).fam t.fam).index t.lower
    (((s.removeTeam t).fam t.fam).retired + t.retired)) hclose).trans hafter
  refine ⟨_, (teamEnd_next ht hl h0 h1 h2).trans (congrArg _ ((if_pos hempty).trans hends)),
    hgone.team?_same, fun c hc => hgone.team?_other hc, hgone.mem, ?_, hgone.spad⟩
  rw [State.fam_setFam_same]

end

end Sys2Proof.Claims
end

/-- Settles O54: by the part of the model that each of its instructions runs. -/
theorem queuesAndLaunches : Obligations.QueuesAndLaunches := by
  unfold Obligations.QueuesAndLaunches
  refine ⟨fun wr q val s hq hw hv => Sys2Proof.Claims.notifyWrite_next hq hw hv,
    fun wr v s hv hw => Sys2Proof.Claims.pauseClear_next hv hw,
    fun q s ha hr => Sys2Proof.Claims.headPkt_of_readable rfl ha hr, ?packets, ?placement, ?teams, ?launches⟩
  case packets =>
    intro q s s1 p _ hserving hp hbad v i met hq past
    refine ⟨fun ht bs s2 hr h2 => Sys2Proof.Claims.waitvalPoll_done hserving hp hbad ht hr h2,
      fun ht hmet hready hrel hev => Sys2Proof.Claims.packetTake_wait hserving hp hbad hmet ht hready hrel hev,
      fun ht hmet hrel hev s2 hu h2 => Sys2Proof.Claims.packetTake_store hserving hp hbad hmet ht hrel hev hu h2,
      fun ht hmet r s2 hr h2 hq2 hrej => ?_⟩
    exact Sys2Proof.Claims.packetTake_launch hserving hp hbad hmet ht hr h2 hq2 rfl hrej
  case placement =>
    intro v l no cores rest s la hvd hdom hsaved hcand hearly hfits hv hacq
    obtain ⟨a, gs, hplaced⟩ := Sys2Proof.Claims.placeGang_effect s l no cores hacq
    refine ⟨_, a, gs, Sys2Proof.Claims.placementStep_places hvd hdom hsaved hcand hearly hfits, hplaced.mem,
      hplaced.length, hv ▸ hplaced.gang, hplaced.todo, hplaced.live, fun i hi => ?_⟩
    obtain ⟨hgang, hlaunch, hdev, hcore, hmember, hlen, hqmask, hlmask⟩ := hplaced.seated i hi
    obtain ⟨hspad, hfull, hregistry, hended⟩ := hplaced.bare i hi
    exact ⟨hgang, hlaunch, hdev.trans hv, hcore, hmember, hspad, hfull, hlen, hqmask, hlmask, hended, hregistry⟩
  case teams =>
    intro ctx s t ht hctx hl h0 h1 h2
    exact ⟨fun hkin hs => Sys2Proof.Claims.teamEnd_kin ht hctx hl h0 h1 h2 hkin hs,
      fun halone hs hsession hgroup hserial hleft =>
        Sys2Proof.Claims.teamEnd_last ht hctx hl h0 h1 h2 halone hs hsession hgroup hserial hleft⟩
  case launches =>
    intro id s l h htodo hlive hrel hev done
    refine ⟨fun hsig => Sys2Proof.Claims.launchComplete_silent h htodo hlive hrel hev hsig,
      fun s1 s2 hsig h1 h2 hon => ?_⟩
    exact Sys2Proof.Claims.launchComplete_signals h htodo hlive hrel hev hsig h1
      (by rw [Sys2Proof.Claims.status_eq]; exact h2) hon

section
/-! PROOF. Traps of register instructions (O22), accesses at a scratchpad (O26) and traps of matrix instructions (O43): the
statements, which do not ask that the scratchpad be in canonical form, fail where it is not. -/

namespace Sys2Proof.Machine

/-- The package of `strayState` on the turn of `strayTeam`. -/
def strayTurn : State := { strayState with turn := .team 1 }

theorem strayTurn_runs : strayTurn.Runs strayTeam := ⟨rfl, rfl⟩

theorem strayTeam_quiet : strayTurn.Quiet strayTeam := ⟨fun _ => rfl, fun _ => rfl⟩

/-- An `add` on register 5, which no team of `strayTurn` has declared. -/
def strayAdd : F3 :=
  { d := 5, a := 5, b := 5, c := 0, p := Pred.always, ty := .i32, rnd := .rn, sat := false, imm := 0 }

/-- What `strayPad` holds at 3 once the record of the UNDECL trap has taken the cell at 0x200 away. -/
theorem exec_strayAdd_pad :
    (match exec (.add strayAdd) strayTurn with
      | .next s => (s.group 1).spad.read 3
      | _ => 0) = 7 := by decide +kernel

/-- The same after the QUAD trap of an `mswap`, whose quadrant the group of `strayTurn` does not have. -/
theorem exec_strayMswap_pad :
    (match exec (.mswap 0) strayTurn with
      | .next s => (s.group 1).spad.read 3
      | _ => 0) = 7 := by decide +kernel

/-- A store of a zero byte at offset 0x200 of the scratchpad of the team. -/
def strayStore : FMem :=
  { data := 5, base := 6, p := Pred.always, scope := .team, ord := .plain, few := false, fec := false, far := false
    off := 0 }

def strayLane : PLane := pLane 0 [0, 0] 0xFE00_0000_0000_0200

/-- The packet of the store, past the check for races. -/
def strayPacket : Packet :=
  { strayTeam.packet (.sts .w8 strayStore) .core .st false [strayLane] [] with checked := true }

def strayReq : Req :=
  strayTeam.req 0 strayPacket { target := .spad 1 0, op := .access, lanes := [strayLane] }

/-- `strayTeam` with its store issued. -/
def strayStorer : Team := { strayTeam with replay := [strayPacket] }

/-- The package in which the store is at its scratchpad bank. -/
def strayArrival : State := { strayState with teams := [(1, strayStorer)], reqs := [strayReq] }

theorem strayReq_taken : Claims.Taken strayArrival 0 strayReq strayStorer strayPacket where
  req := rfl
  mine := rfl
  team := rfl
  own := rfl
  packet := by decide +kernel
  young := by decide +kernel
  kept := rfl
  way := rfl
  fresh := rfl
  room := by decide +kernel
  order := rfl
  lace := by decide +kernel
  group := rfl

/-- What `strayPad` holds at 3 once the store has taken the cell at 0x200 away. -/
theorem exec_strayReq_pad :
    (match exec (.requestAtTarget 0) strayArrival with
      | .next s => (s.group 1).spad.read 3
      | _ => 0) = 7 := by decide +kernel

end Sys2Proof.Machine
end

/-- Refutes O22: in a scratchpad that is not in canonical form, which the statement allows (it has no premise `memOk`), the
record of the UNDECL trap of an `add` removes a cell that hid another one, so that a byte outside the record reads 7
where it read 0 (`Sys2Proof.Machine.strayTurn`). -/
theorem not_registerTraps : ¬ Obligations.RegisterTraps := by
  unfold Obligations.RegisterTraps
  intro h
  have hpad := Sys2Proof.Machine.exec_strayAdd_pad
  obtain ⟨hundecl, -⟩ := h Sys2Proof.Machine.strayAdd _ _ Sys2Proof.Machine.strayTurn_runs rfl rfl (by decide)
    (.add Sys2Proof.Machine.strayAdd) (by simp) (by decide)
  obtain ⟨s', hexec, htrap⟩ := hundecl ⟨5, ⟨(5, 1), by decide, by decide⟩, .inr rfl⟩
  have hout := htrap.outside 3 (.inl (by decide))
  rw [hexec] at hpad
  exact absurd (hpad.symm.trans hout) (by decide)

/-- Refutes O26: in a scratchpad that is not in canonical form, which the statement allows (it has no premise `memOk`), a
store of a zero byte removes a cell that hid another one, so that a byte that no lane covers reads 7 where it read 0
(`Sys2Proof.Machine.strayArrival`). -/
theorem not_scratchpadAccesses : ¬ Obligations.ScratchpadAccesses := by
  unfold Obligations.ScratchpadAccesses
  intro h
  have hpad := Sys2Proof.Machine.exec_strayReq_pad
  obtain ⟨-, hstore, -⟩ := h _ _ 0 1 _ _ _ (rfl : Sys2Proof.Machine.memOf (.sts .w8 Sys2Proof.Machine.strayStore) = some _)
    Sys2Proof.Machine.strayReq_taken ⟨0, rfl⟩ rfl rfl rfl rfl rfl rfl (by decide +kernel) (List.cons_ne_nil _ _)
  obtain ⟨s', hexec, -, hbytes⟩ := hstore rfl (by decide)
  have hout := hbytes 3
  rw [hexec] at hpad
  exact absurd (hpad.symm.trans hout) (by decide +kernel)

/-- Refutes O43: in a scratchpad that is not in canonical form, which the statement allows (it has no premise `memOk`), the
record of the QUAD trap of an `mswap` removes a cell that hid another one, so that a byte outside the record reads 7
where it read 0 (`Sys2Proof.Machine.strayTurn`). -/
theorem not_matrixIssue : ¬ Obligations.MatrixIssue := by
  unfold Obligations.MatrixIssue
  intro h
  have hpad := Sys2Proof.Machine.exec_strayMswap_pad
  have hclear : Sys2Proof.Claims.MatClear Sys2Proof.Machine.strayTurn Sys2Proof.Machine.strayTeam (.mswap 0) :=
    { addrs := by simp [Sys2Proof.Machine.matRegs], dest := by simp [Sys2Proof.Machine.matDst], ready := by
        simp [Sys2Proof.Machine.strayTeam, Sys2Proof.Machine.resetTeam], quiet := Sys2Proof.Machine.strayTeam_quiet, held := rfl }
  obtain ⟨-, -, htraps⟩ := h (.mswap 0) _ _ rfl (by decide) Sys2Proof.Machine.strayTurn_runs rfl hclear
  obtain ⟨hquad, -⟩ := htraps rfl rfl (by decide) (by decide)
  obtain ⟨s', spc, sword, hexec, htrap⟩ := hquad (by decide)
  have hout : (s'.group 1).spad.read 3 = (Sys2Proof.Machine.strayTurn.group 1).spad.read 3 :=
    htrap.outside 3 (.inl (by decide))
  rw [hexec] at hpad
  exact absurd (hpad.symm.trans hout) (by decide)

section
/-! PROOF. What each memory instruction accesses (O24). -/

namespace Sys2Proof.Machine

/-- The high half of a BASE pair, which names a member, is bits 63 to 32 (R175). -/
theorem highHalf_eq_extract (base : DWord) : (base >>> 32).setWidth 64 = (base.extractLsb' 32 32).setWidth 64 := by
  apply BitVec.eq_of_toNat_eq
  simp only [BitVec.toNat_setWidth, BitVec.toNat_ushiftRight, BitVec.extractLsb'_toNat]
  omega

theorem MemDesc.ea_member {m : MemDesc} (hform : m.form = .member) (base : DWord) : m.ea base =
    0xFD00_0000_0000_0000 ||| (base.extractLsb' 32 32).setWidth 64 <<< 32
      ||| (base.setWidth 32 + m.o.off.signExtend 32 : Word).setWidth 64 := by
  rw [MemDesc.ea, hform, highHalf_eq_extract]

end Sys2Proof.Machine
end

/-- Settles O24: each description of `memOf` has these fields, and the address of a member's scratchpad is that of
`Sys2Proof.Machine.MemDesc.ea_member`. -/
theorem memoryForms : Obligations.MemoryForms := by
  unfold Obligations.MemoryForms
  intro o w op bf base
  refine ⟨?_, ?_, ?_, ?_, ?_, ?_, ?ldc, ?stc, ?_, ?_, ?_, ?_, ?_, ?_, ?_, ?_, ?_⟩
  case ldc | stc => exact ⟨_, rfl, rfl, rfl, rfl, rfl, rfl, Sys2Proof.Machine.MemDesc.ea_member rfl base⟩
  all_goals exact ⟨_, rfl, rfl, rfl, rfl, rfl, rfl, rfl⟩

section
/-! PROOF. The completion of an access at the core and its acknowledgement (O27). -/

namespace Sys2Proof
open Sys2Proof.Machine

theorem Tbl.set_set {α : Type} (t : Tbl α) (k : Nat) (v w : α) : Tbl.set (Tbl.set t k v) k w = Tbl.set t k w := by
  induction t with
  | nil => simp [Tbl.set]
  | cons e t ih =>
    obtain ⟨j, x⟩ := e
    rcases lt_trichotomy k j with hlt | rfl | hgt
    · simp [Tbl.set, hlt]
    · simp [Tbl.set]
    · simp [Tbl.set, hgt.not_gt, hgt.ne', ih]

end Sys2Proof

namespace Sys2Proof.Claims
open Sys2Proof.Machine

/-! ### Lists -/

theorem dropAt_eq_eraseIdx {α : Type} (n : Nat) (l : List α) : dropAt n l = l.eraseIdx n := by
  induction n, l using dropAt.induct with
  | case1 n => simp [dropAt]
  | case2 x l => rfl
  | case3 n x l ih => simp [dropAt, ih]

/-- The first element that satisfies `p` is still the first one once it has been changed, where it goes on
satisfying it. -/
theorem find?_updFirst {α : Type} {p : α → Bool} {f : α → α} {l : List α} {x : α} (hx : l.find? p = some x)
    (hf : p (f x) = true) : (updFirst p f l).find? p = some (f x) := by
  induction l with
  | nil => simp at hx
  | cons y l ih =>
    cases hy : p y with
    | true =>
      obtain rfl : y = x := by simpa [hy] using hx
      simp [updFirst, hy, hf]
    | false =>
      have hx : l.find? p = some x := by simpa [hy] using hx
      simp [updFirst, hy, ih hx]

theorem pk?_modPk {t : Team} {q : BitVec 16} {p : Packet} {f : Packet → Packet} (hp : t.pk? q = some p)
    (hf : (f p).seq = p.seq) : (t.modPk q f).pk? q = some (f p) :=
  find?_updFirst hp (by simpa [hf] using List.find?_some hp)

/-! ### Teams -/

theorem setTeam_setTeam (s : State) {t u : Team} (h : u.ctx = t.ctx) : (s.setTeam t).setTeam u = s.setTeam u := by
  simp [State.setTeam, h, Tbl.set_set]

/-! ### The answer at the core -/

/-- An answer of an access without a fault brings a value in every lane, so that each of its lanes is written. -/
theorem answer_lanes_good {ls : List AnsLane} {n : Nat} (hn : n ≠ 0) (hls : ∀ l ∈ ls, l.fault = none ∧ l.vals.length = n) :
    ls.filter (fun l => l.fault.isNone && !l.vals.isEmpty) = ls := by
  refine List.filter_eq_self.2 fun l hl => ?_
  obtain ⟨hfault, hvals⟩ := hls l hl
  have : l.vals ≠ [] := fun h => hn (by simpa [h] using hvals.symm)
  simp [hfault, this]

/-- The lanes of a team with what an answer brings written from DATA upwards. -/
def lanesTaken (t : Team) (r : Reg) (ls : List AnsLane) : List Lane :=
  t.lanes.map (fun l => match ls.find? (fun x => x.vid == l.vid) with
    | some x => putLaneWords l r x.vals
    | none => l)

/-- A lane of a packet for which a good answer has come is done. -/
theorem take_done {l : PLane} {ls : List AnsLane} (hgood : ∀ x ∈ ls, x.fault = none)
    (hcome : ls.any (fun x => x.vid == l.vid) = true) : (l.take false ls).done = true := by
  obtain ⟨x, hx⟩ : ∃ x, ls.find? (fun x => x.vid == l.vid) = some x := by
    simpa [List.find?_isSome, Option.isSome_iff_exists] using (List.find?_isSome.2 (List.any_eq_true.1 hcome))
  have hfault := hgood x (List.mem_of_find?_eq_some hx)
  simp [PLane.take, hx, hfault]

/-- What an access brings goes to DATA in each lane (R61, R67). -/
theorem takeAnswer_access {s : State} {t : Team} {pk : Packet} {m : MemDesc} {ls : List AnsLane} (hm : memOf pk.instr = some m)
    (hcore : pk.inst = .core) (hgives : m.gives ≠ 0) (huni : pk.uniform = false) (hteam : s.team? t.ctx = some t)
    (hls : ∀ l ∈ ls, l.fault = none ∧ l.vals.length = m.gives) :
    s.takeAnswer t pk ls = s.setTeam { t with lanes := lanesTaken t m.o.data ls } := by
  have hwords : s.takeWords t m.o.data false ls = s.setTeam { t with lanes := lanesTaken t m.o.data ls } := by
    simp only [State.takeWords, answer_lanes_good hgives hls, Bool.false_eq_true, if_false, modTeam_some hteam]
    rfl
  unfold State.takeAnswer
  split
  case h_5 _ _ m' hm' _ _ _ _ =>
    obtain rfl : m' = m := Option.some.inj (hm'.symm.trans hm)
    simpa [hcore, hgives, huni] using hwords
  all_goals simp_all [memOf]

/-- The registers that a completed packet of an access gives are no longer pending (R59). -/
theorem pendOf_access {s : State} {t : Team} {pk : Packet} {m : MemDesc} (hcore : pk.inst = .core)
    (hdesc : descOf pk.instr = none) (hm : memOf pk.instr = some m) : s.pendOf t pk = (m.pend, []) := by
  simp [State.pendOf, hcore, hdesc, hm]

/-- A team parked for a FEW load goes on when none is left (R177). -/
def unfew (t : Team) : Team := if t.parked = .few ∧ !t.fewLeft then { t with parked := .no } else t

/-- But for the park, a team is as it was. -/
theorem unfew_eq (t : Team) : ∃ p, unfew t = { t with parked := p } := by
  unfold unfew
  split
  · exact ⟨_, rfl⟩
  · exact ⟨_, rfl⟩

/-- The acknowledgement of a packet is due (R62). -/
def ackDue (s : State) (c : Nat) (seq : BitVec 16) : State := { s with acks := s.acks ++ [(c, seq)] }

theorem complete_of_packet {s : State} {c : Nat} {t : Team} {pk : Packet} {seq : BitVec 16} {rs ps : List Nat}
    (hteam : s.team? c = some t) (hpk : t.pk? seq = some pk) (hpend : s.pendOf t pk = (rs, ps)) : s.complete c seq =
      (ackDue s c seq).setTeam (unfew ((t.completePk seq).unpend pk.path rs ps)) := by
  simp only [State.complete, hteam, hpk, hpend, unfew, ackDue]

theorem completePk_open {t : Team} {pk : Packet} {seq : BitVec 16} (hpk : t.pk? seq = some pk) (hopen : pk.complete = false) :
    t.completePk seq = (t.lower' pk.ctr).modPk seq (fun p => { p with complete := true }) := by
  simp [Team.completePk, hpk, hopen]

theorem lower'_ctr (t : Team) (c : Ctr) : (t.lower' c).ctr c = t.ctr c - 1 := by
  cases c <;> rfl

/-- But for its counters, a team with one lowered is as it was. -/
theorem lower'_eq (t : Team) (c : Ctr) : ∃ l p q, t.lower' c = { t with ld := l, pl := p, st := q } := by
  cases c <;> exact ⟨_, _, _, rfl⟩

/-- Team `u` is `t` with a packet of counter `c` and lanes `path` complete: the counter has fallen and the registers `rs` of the packet are no
longer pending. -/
structure CompletedAs (t u : Team) (c : Ctr) (path rs : List Nat) : Prop where
  ctx   : u.ctx = t.ctx
  flags : u.flags = t.flags
  lanes : u.lanes = t.lanes
  ctr   : u.ctr c = t.ctr c - 1
  pend  : ∀ e ∈ u.pend, e ∈ t.pend ∧ ¬ (e.1 = path ∧ e.2.toNat ∈ rs)

theorem completedAs_unfew {t : Team} {pk : Packet} {seq : BitVec 16} (rs : List Nat) (hpk : t.pk? seq = some pk)
    (hopen : pk.complete = false) : CompletedAs t (unfew ((t.completePk seq).unpend pk.path rs [])) pk.ctr pk.path rs := by
  obtain ⟨p, hp⟩ := unfew_eq ((t.completePk seq).unpend pk.path rs [])
  have hctr := lower'_ctr t pk.ctr
  obtain ⟨a, b, c, hlow⟩ := lower'_eq t pk.ctr
  rw [hlow] at hctr
  rw [completePk_open hpk hopen, hlow] at hp ⊢
  rw [hp]
  refine ⟨rfl, rfl, rfl, hctr, fun e he => ?_⟩
  simpa [Team.unpend, Team.modPk, imp_iff_not_or] using he

/-- The packet of an access once an answer has reached it. -/
def taking (pk : Packet) (ls : List AnsLane) : Packet :=
  { pk with lanes := pk.lanes.map (fun l => l.take pk.uniform ls) }

/-- The team when the answer of an access has reached it, its packet not yet complete. -/
def answered (t : Team) (m : MemDesc) (pk : Packet) (a : Answer) : Team :=
  (({ t with lanes := lanesTaken t m.o.data a.lanes } : Team).join a.flags).modPk pk.seq (fun p => taking p a.lanes)

/-- The answer that completes the packet of an access (R57, R59, R61). -/
theorem takeDone_access {s : State} {t : Team} {pk : Packet} {m : MemDesc} {a : Answer} (hteam : s.team? t.ctx = some t)
    (hpk : t.pk? a.seq = some pk) (hm : memOf pk.instr = some m) (hopen : pk.complete = false) (hcore : pk.inst = .core)
    (huni : pk.uniform = false) (hdesc : descOf pk.instr = none) (hgives : m.gives ≠ 0)
    (hls : ∀ l ∈ a.lanes, l.fault = none ∧ l.vals.length = m.gives)
    (hcome : ∀ l ∈ pk.lanes, a.lanes.any (fun x => x.vid == l.vid) = true) :
    ∃ u, s.takeDone t pk a = (ackDue s t.ctx a.seq).setTeam u ∧ CompletedAs (answered t m pk a) u pk.ctr pk.path m.pend := by
  have hseq : pk.seq = a.seq := by simpa using List.find?_some hpk
  have htook := takeAnswer_access hm hcore hgives huni hteam hls
  have hmod : (s.setTeam { t with lanes := lanesTaken t m.o.data a.lanes }).modTeam t.ctx (fun t =>
      (t.join a.flags).modPk pk.seq (fun p => taking p a.lanes)) = s.setTeam (answered t m pk a) := by
    rw [modTeam_some (t := { t with lanes := lanesTaken t m.o.data a.lanes }) (by simp [State.team?_setTeam])]
    exact setTeam_setTeam s rfl
  have hhere : (s.setTeam (answered t m pk a)).team? t.ctx = some (answered t m pk a) := s.team?_setTeam_same (answered t m pk a)
  have hpacket : (answered t m pk a).pk? a.seq = some (taking pk a.lanes) := hseq ▸ pk?_modPk (hseq ▸ hpk) rfl
  have hall : (taking pk a.lanes).lanes.all (fun l => l.done) = true := by
    simp only [taking, huni, List.all_map, List.all_eq_true]
    exact fun l hl => take_done (fun x hx => (hls x hx).1) (hcome l hl)
  have hcomplete := complete_of_packet hhere hpacket (pendOf_access (m := m) hcore hdesc hm)
  have hdone : CompletedAs (answered t m pk a) _ pk.ctr pk.path m.pend := completedAs_unfew (pk := taking pk a.lanes) m.pend hpacket hopen
  refine ⟨_, ?_, hdone⟩
  unfold State.takeDone
  simp only [htook]
  unfold taking at hmod
  simp only [hmod, hhere, Option.bind_some]
  rw [hseq, hpacket, Option.elim_some, hall, if_pos rfl, hcomplete]
  exact setTeam_setTeam (ackDue s t.ctx a.seq) hdone.ctx

theorem receive_access (s : State) (t : Team) (pk : Packet) {a : Answer} (hop : a.op = .access) (hpoison : a.poison = none)
    (hstop : a.stop = none) : s.receive t pk a = s.takeDone t pk a := by
  simp only [State.receive, hop, hpoison, hstop]

/-- A wake cause changes nothing but a core. -/
theorem wakeCause_eq (s : State) (c bit : Nat) : ∃ k, s.wakeCause c bit = { s with cores := k } := by
  unfold State.wakeCause
  split
  · exact ⟨_, rfl⟩
  · exact ⟨_, rfl⟩

/-- Answer number `n` has been taken from those under way. -/
def answerTaken (s : State) (n : Nat) : State := { s with answers := s.answers.eraseIdx n }

/-- The core takes an answer that completes its packet (R61). -/
theorem exec_completionReceive {s : State} {n : Nat} {a : Answer} {t : Team} {pk : Packet}
    (hanswer : s.answers[n]? = some a) (hroute : a.route = []) (hteam : s.team? a.ctx = some t) (hgen : a.gen = t.gen)
    (hpk : t.pk? a.seq = some pk) (hopen : pk.complete = false) (hop : a.op = .access) (hpoison : a.poison = none)
    (hstop : a.stop = none) :
    ∃ k, exec (.completionReceive n) s = .next (State.takeDone { answerTaken s n with cores := k } t pk a) := by
  have htaken : ({ s with answers := dropAt n s.answers } : State) = answerTaken s n := by rw [dropAt_eq_eraseIdx]; rfl
  have hteam' : (answerTaken s n).team? a.ctx = some t := hteam
  obtain ⟨k, hwake⟩ := wakeCause_eq (answerTaken s n) ((answerTaken s n).coreOf t) 3
  refine ⟨k, ?_⟩
  change execCompletionReceive n s = _
  simp only [execCompletionReceive, hanswer, hroute, List.isEmpty_nil, Bool.not_true, Bool.false_eq_true, if_false, htaken, hteam',
    hwake, hgen, bne_self_eq_false, hpk, hopen, receive_access _ t pk hop hpoison hstop]

/-- The acknowledgement drops the packet and its records (R62, R65). -/
theorem exec_completionAcknowledgement {s : State} {n ctx : Nat} {seq : BitVec 16} {t : Team} (hack : s.acks[n]? = some (ctx, seq))
    (hteam : s.team? ctx = some t) : exec (.completionAcknowledgement n) s = .next
      ((State.forgetGens { s with
          acks := s.acks.eraseIdx n
          records := s.records.filter (fun r => !(r.ctx == ctx && r.seq == seq)) } ctx).setTeam { t.dropPk seq with ctx := ctx }) := by
  have hteam' : ∀ s' : State, s'.teams = s.teams → s'.modTeam ctx (fun t => t.dropPk seq) = s'.setTeam { t.dropPk seq with ctx := ctx } :=
    fun s' h => by
      have : s'.team? ctx = some t := by rw [State.team?, h]; exact hteam
      simp only [State.modTeam, this]
  change execCompletionAcknowledgement n s = _
  simp only [execCompletionAcknowledgement, hack, dropAt_eq_eraseIdx]
  rw [hteam']
  rfl

end Sys2Proof.Claims
end

/-- Settles O27: an answer that completes its packet, by `Sys2Proof.Claims.takeDone_access`, and the acknowledgement. -/
theorem completions : Obligations.Completions := by
  unfold Obligations.Completions
  refine ⟨?_, fun s n ctx seq t hack hteam => ?_⟩
  · intro m s n a t pk hanswer hroute hteam hctx hpk hm hgen hopen hcore huni hop hpoison hstop hdesc hgives _ hls hcome
    obtain ⟨k, hexec⟩ := Sys2Proof.Claims.exec_completionReceive hanswer hroute hteam hgen hpk hopen hop hpoison hstop
    rw [← hctx] at hteam
    obtain ⟨u, hdone, hu⟩ := Sys2Proof.Claims.takeDone_access (s := { Sys2Proof.Claims.answerTaken s n with cores := k })
      hteam hpk hm hopen hcore huni hdesc hgives hls hcome
    have hself := Sys2Proof.Machine.State.team?_setTeam_same (Sys2Proof.Claims.ackDue
      { Sys2Proof.Claims.answerTaken s n with cores := k } t.ctx a.seq) u
    rw [hdone] at hexec
    exact ⟨_, hexec, rfl, rfl, rfl, rfl, rfl, u, hu.ctx ▸ hself, hu.flags, hu.ctr, hu.pend, hu.lanes⟩
  · exact ⟨_, Sys2Proof.Claims.exec_completionAcknowledgement hack hteam, rfl, rfl,
      Sys2Proof.Machine.State.team?_setTeam_same _ _, rfl⟩

section
/-! PROOF. An instruction that goes on (O23, O31, O32, O47): one that has no effect, and the issue of a packet, whose
requests set out and which the team has in its replay set. -/

namespace Sys2Proof.Claims
open Sys2Proof.Machine

/-! ### No effect -/

theorem advance_ctx (t : Team) (n : Nat) : (t.advance n).ctx = t.ctx := by
  simp only [Team.advance]
  split
  · rfl
  · rfl

/-- An instruction of `n` words that has no effect. -/
theorem advance_alone {s : State} {t : Team} (n : Nat) :
    Alone s ((s.setTeam t).advance t.ctx n) t { t.advance n with last := s.stamp } [] := by
  rw [advance_some (s.team?_setTeam_same t)]
  exact Alone.of_setTeam (Alone.settle (advance_ctx t n))

/-! ### Requests set out -/

theorem wayTo_eq (s : State) (own : Nat) (welt : Option Nat) (x : Target) : ∃ way f, s.wayTo own welt x = (way, { s with free := f }) := by
  obtain ⟨b, f, hpick⟩ := pick_eq s (diePaths own (s.targetDie x own)).length
  simp only [State.wayTo, State.diePath, hpick]
  exact ⟨_, f, rfl⟩

theorem pushFlit_eq (s : State) (v id : Nat) (way : List Nat) : ∃ l, s.pushFlit v id way = { s with links := l } := by
  cases way with
  | nil => exact ⟨s.links, rfl⟩
  | cons l way => exact ⟨_, rfl⟩

theorem setOut_eq (s : State) (welt : Option Nat) (r : Req) : ∃ id way f k l,
    s.setOut welt r = ({ r with id := id, route := way }, { s with free := f, stamp := k, links := l }) := by
  obtain ⟨way, f, hway⟩ := wayTo_eq s ((welt.map (fun t => t / 4)).getD (dieOf (s.group r.group).core)) welt r.target
  obtain ⟨l, hpush⟩ := pushFlit_eq ({ s with free := f, stamp := s.stamp + 1 }) (s.group r.group).vd s.stamp way
  simp only [State.setOut, hway, State.fresh, hpush]
  exact ⟨_, _, _, _, _, rfl⟩

/-- A request without its number and its way, which it takes as it sets out. -/
def bare (r : Req) : Req := { r with id := 0, route := [] }

theorem setOutAll_eq (s : State) (welt : Option Nat) (rs : List Req) : ∃ rs' f k l,
    s.setOutAll welt rs = (rs', { s with free := f, stamp := k, links := l }) ∧ rs'.map bare = rs.map bare := by
  induction rs generalizing s with
  | nil => exact ⟨[], s.free, s.stamp, s.links, rfl, rfl⟩
  | cons r rs ih =>
    obtain ⟨id, way, f, k, l, hout⟩ := setOut_eq s welt r
    obtain ⟨rs', f', k', l', hall, hbare⟩ := ih { s with free := f, stamp := k, links := l }
    refine ⟨{ r with id := id, route := way } :: rs', f', k', l', ?_, ?_⟩
    · simp only [State.setOutAll, hout, hall]
    · simp only [List.map_cons, hbare]; rfl

theorem sendReqs_eq (s : State) (rs : List Req) : ∃ rs' f k l,
    s.sendReqs rs = { s with reqs := s.reqs ++ rs', free := f, stamp := k, links := l } ∧ rs'.map bare = rs.map bare := by
  obtain ⟨rs', f, k, l, hout, hbare⟩ := setOutAll_eq s none rs
  refine ⟨rs', f, k, l, ?_, hbare⟩
  simp only [State.sendReqs, hout]

/-! ### The packet -/

/-- A team with its packet `pk` issued (R57, R61, R65), the instruction being of `n` words. -/
def issued (s : State) (t : Team) (n : Nat) (pk : Packet) (pend pendP : List Nat) : Team :=
  { (t.raise pk.ctr).advance n with
    seq := t.seq + 1, replay := t.replay ++ [pk], sends := noteSend t.gen s.clock t.sends
    pend := t.pend ++ pend.map (fun r => (pk.path, BitVec.ofNat 8 r)), pendP := t.pendP ++ pendP.map (fun p => (pk.path, p)) }

theorem advance_with (u : Team) (n : Nat) (q : BitVec 16) (r : List Packet) (p : List (List Nat × BitVec 8))
    (pp : List (List Nat × Nat)) (l : List (BitVec 8 × Nat)) :
    ({ u with seq := q, replay := r, pend := p, pendP := pp, sends := l } : Team).advance n
      = { u.advance n with seq := q, replay := r, pend := p, pendP := pp, sends := l } := by
  simp only [Team.advance]
  split
  · rfl
  · rfl

theorem raise_advance_ctx (t : Team) (c : Ctr) (n : Nat) : ((t.raise c).advance n).ctx = t.ctx := by
  rw [advance_ctx]
  cases c <;> rfl

theorem issued_ctx (s : State) (t : Team) (n : Nat) (pk : Packet) (pend pendP : List Nat) : (issued s t n pk pend pendP).ctx = t.ctx :=
  raise_advance_ctx t pk.ctr n

/-- What the issue of a packet does: it joins the replay set, its requests set out (R57, R61, R65). -/
theorem issuePacket_eq {s : State} {t : Team} {n : Nat} {pk : Packet} {pend pendP : List Nat} {xs : List Send}
    (hteam : s.team? t.ctx = some t) (hroom : t.ctr pk.ctr < 63) (hseq : pk.seq = t.seq) (hgen : pk.gen = t.gen) (hxs : xs ≠ []) :
    s.issuePacket t.ctx n pk pend pendP xs
      = (s.sendReqs (xs.map (fun x => t.req s.clock pk x))).settle (issued s t n pk pend pendP) := by
  have hfull : t.full pk.ctr = false := by simp [Team.full, hroom]
  have hpk : { pk with seq := t.seq, gen := t.gen } = pk := by rw [← hseq, ← hgen]
  have hsome : xs.isEmpty = false := by simpa using hxs
  simp only [State.issuePacket, hteam, hfull, hpk, hsome, Bool.false_eq_true, if_false, advance_with]
  rfl

/-- A packet that the team issues stands in its replay set and its requests are on their way. -/
theorem issuePacket_packed {s : State} {t : Team} {n : Nat} {pk : Packet} {pend pendP : List Nat} {xs : List Send}
    (hteam : s.team? t.ctx = some t) (hroom : t.ctr pk.ctr < 63) (hseq : pk.seq = t.seq) (hgen : pk.gen = t.gen) (hxs : xs ≠ []) :
    Packed s (s.issuePacket t.ctx n pk pend pendP xs) t n pk pend pendP xs := by
  obtain ⟨rs, f, k, l, hsend, hbare⟩ := sendReqs_eq s (xs.map (fun x => t.req s.clock pk x))
  rw [issuePacket_eq hteam hroom hseq hgen hxs, hsend]
  refine ⟨⟨k, ?_⟩, ⟨rs, ?_, ?_⟩, settle_mem _ _, settle_groups _ _, settle_fams _ _, fun c hc => ?_⟩
  · rw [settle_team?, if_pos (issued_ctx s t n pk pend pendP)]
    rfl
  · rw [settle_eq]
  · rw [List.map_map] at hbare
    exact hbare
  · rw [settle_team?, if_neg (fun h => hc (h.symm.trans (issued_ctx s t n pk pend pendP)))]
    rfl

end Sys2Proof.Claims
end

section
/-! PROOF. Declarations of registers (O31): the checks of a place instruction that nothing stops, the row or home of the
register, and its new map entry. -/

namespace Sys2Proof.Claims
open Sys2Proof.Machine

/-! ### Checks -/

section
variable {s : State} {t : Team} {base : List (Reg × Nat)} {p : Pred}

theorem predPend_uniClear (c : UniClear s t base p) : t.predPend true p.num.toNat = false := by
  simpa using predPend_clear (t := t) (ps := [(true, p.num.toNat)])
    (fun e he ho q hq => by simp only [List.mem_singleton] at hq; subst hq; exact c.readyP e he ho)

theorem remote_uniClear (c : UniClear s t base p) (hp : ∀ x ∈ base, 0 < x.2) : base.any (fun r => (s.locOf t r.1).remote) = false :=
  List.any_eq_false.2 fun x hx => by rcases locOf_uniClear c hp hx with h | h <;> simp [h, Loc.remote]

theorem lane_uniClear (c : UniClear s t base p) (hp : ∀ x ∈ base, 0 < x.2) : base.any (fun r => s.locOf t r.1 == .lane) = false :=
  List.any_eq_false.2 fun x hx => by rcases locOf_uniClear c hp hx with h | h <;> simp [h]

/-- Outside a split a place instruction on a register that it may change passes its checks (R202). -/
theorem declCause_uniClear (c : UniClear s t base p) (hp : ∀ x ∈ base, 0 < x.2) (hdiv : t.div = []) (k : Cause) :
    s.declCause t base p.num.toNat [(false, k)] = none := by
  have hopen : t.divOpen = false := by simp [Team.divOpen, hdiv]
  simp [State.declCause, firstCause, anyNone_clear (c.atCore hp), anyPend_clear (c.atCore hp), anyApart_clear (c.atCore hp),
    predPend_uniClear c, remote_uniClear c hp, lane_uniClear c hp, hopen]

theorem guarded_pred (c : UniClear s t base p) (hq : s.qHolds t p = true) (n : Nat) (off on : State → State) :
    s.guarded t n [] p off on = on s := by
  rw [guarded_uniClear c.noRegs (by simp), if_pos hq]

end

/-! ### Rows -/

/-- A row is picked from those below `n` that are not used, where there is one (log entry 16). -/
theorem pickRow_free (s : State) {used : List Nat} {n : Nat} (h : used.length < n) :
    ∃ r f, s.pickRow used n = (r, { s with free := f }) ∧ r < n ∧ r ∉ used := by
  set rows := (List.range n).filter (fun r => !used.contains r) with hrows
  have hne : 0 < rows.length := by
    by_contra h0
    have hempty : rows = [] := List.eq_nil_of_length_eq_zero (by omega)
    have hsub : List.range n ⊆ used := fun r hr => by
      have := List.filter_eq_nil_iff.1 hempty r hr
      simpa using this
    have := (List.nodup_range.subperm hsub).length_le
    simp at this
    omega
  obtain ⟨b, f, hpick⟩ := pick_eq s rows.length
  have hb : b < rows.length := by
    have := congrArg Prod.fst hpick
    simp only [State.pick] at this
    split at this
    · simp only at this; omega
    · have hmod := Nat.mod_lt (Config.freeNat s.free) hne
      simp only at this; omega
  have hmem : rows.getD b 0 ∈ rows := by
    rw [List.getD_eq_getElem _ _ hb]
    exact List.getElem_mem hb
  refine ⟨rows.getD b 0, f, ?_, ?_⟩
  · simp only [State.pickRow, ← hrows, hpick]
  · simpa [hrows] using List.mem_filter.1 hmem

/-! ### Map entries -/

theorem entry_setPlace (s : State) (t : Team) (r : Reg) (e : PlaceEnt) (k : Nat) :
    (s.setPlace t.fam r e).entry t k = if r.toNat = k then e else s.entry t k := by
  simp [State.entry, State.setPlace, Tbl.get_set]

theorem entry_setCell (s : State) (t : Team) (f key : Nat) (v : Word) (k : Nat) : (s.setCell f key v).entry t k = s.entry t k := by
  simp only [State.entry, State.setCell, State.fam_modFam]
  split
  · rename_i h; rw [h]
  · rfl

theorem entry_delCell (s : State) (t : Team) (f key : Nat) (k : Nat) : (s.delCell f key).entry t k = s.entry t k := by
  simp only [State.entry, State.delCell, State.fam_modFam]
  split
  · rename_i h; rw [h]
  · rfl

theorem entry_of_fams {s s' : State} (h : s'.fams = s.fams) (t : Team) (k : Nat) : s'.entry t k = s.entry t k := by
  simp only [State.entry, State.fam, h]

theorem uni_of_fams {s s' : State} (h : s'.fams = s.fams) (t : Team) (k : Nat) : s'.uni t k = s.uni t k := by
  simp only [State.uni, State.fam, h]

theorem uni_setCell (s : State) (t : Team) (k : Nat) (v : Word) : (s.setCell t.fam k v).uni t k = v := by
  simp [State.uni, State.setCell, Cell.view]

/-- Only the entry of `r` has changed. -/
theorem placesKept_of_entry {s s' : State} {t : Team} {r : Nat} {e : PlaceEnt}
    (h : ∀ k, s'.entry t k = if r = k then e else s.entry t k) : PlacesKept s s' t [r] ∧ s'.entry t r = e := by
  refine ⟨fun k hk => ?_, by simp [h]⟩
  rw [h, if_neg (fun hrk => hk (by simp [hrk]))]

/-! ### The team goes on -/

/-- After its instruction has changed nothing more of it, a team stands one word further. -/
theorem advance_effect {s : State} {t : Team} (hteam : s.team? t.ctx = some t) :
    (s.advance t.ctx 1).team? t.ctx = some { t.advance 1 with last := s.stamp } ∧ (s.advance t.ctx 1).mem = s.mem
      ∧ (s.advance t.ctx 1).groups = s.groups ∧ (s.advance t.ctx 1).fams = s.fams := by
  rw [advance_some hteam]
  refine ⟨?_, settle_mem _ _, settle_groups _ _, settle_fams _ _⟩
  rw [settle_team?, if_pos (advance_ctx t 1)]

theorem advance_lanes (t : Team) (n : Nat) (l : List Lane) :
    ({ t with lanes := l } : Team).advance n = { t.advance n with lanes := l } := by
  simp only [Team.advance]
  split
  · rfl
  · rfl

/-- A change in every present lane, after which the team stands one word further. -/
theorem mapLanes_advance_effect {s : State} {t : Team} (hteam : s.team? t.ctx = some t) (f : Lane → Lane) :
    ∃ s', (s.modTeam t.ctx (fun t => t.mapLanes f)).advance t.ctx 1 = s'
      ∧ s'.team? t.ctx = some { t.advance 1 with last := s.stamp, lanes := t.lanes.map f } ∧ s'.mem = s.mem ∧ s'.groups = s.groups
      ∧ s'.fams = s.fams := by
  obtain ⟨hthere, hmem, hgroups, hfams⟩ := advance_effect (s := s.setTeam (t.mapLanes f)) (t := t.mapLanes f)
    (s.team?_setTeam_same _)
  refine ⟨_, rfl, ?_⟩
  rw [modTeam_some hteam]
  refine ⟨hthere.trans (congrArg some ?_), hmem, hgroups, hfams⟩
  simp only [Team.mapLanes, advance_lanes]
  rfl

/-! ### A declaration that nothing stops -/

theorem Quiet.of_fams {s s' : State} {t : Team} (h : s'.fams = s.fams) (hq : s.Quiet t) : s'.Quiet t :=
  ⟨fun k => by simpa only [State.fam, h] using hq.cells k, fun k => by simpa only [State.fam, h] using hq.q k⟩

theorem UniClear.of_fams {s s' : State} {t : Team} {rs : List (Reg × Nat)} {p : Pred} (h : s'.fams = s.fams) (c : UniClear s t rs p) :
    UniClear s' t rs p where
  placed x hx k hk := by rw [entry_of_fams h]; exact c.placed x hx k hk
  ready := c.ready
  readyP := c.readyP
  quiet := Quiet.of_fams h c.quiet

theorem qHolds_of_fams {s s' : State} (h : s'.fams = s.fams) (t : Team) (p : Pred) : s'.qHolds t p = s.qHolds t p := by
  simp only [State.qHolds, State.qVal, State.fam, h]

theorem declBase_pos (k : DKind) (o : FMem) : ∀ x ∈ declBase k o, 0 < x.2 := by
  cases k <;> simp [declBase]

/-- A register that has no place yet is declared where its place can be found and the budget allows (R202). -/
theorem exec_decl {s s1 : State} {t : Team} {k : DKind} {o : FMem} {l : Loc} {a : DWord} (hrun : s.Runs t) (hspan : t.span = none)
    (hdiv : t.div = []) (c : UniClear s t (declBase k o) o.p) (hq : s.qHolds t o.p = true)
    (hnone : (s.entry t o.data.toNat).kind = .none) (htarget : (s.setTeam t).declTarget t k o = (some (l, a), s1))
    (hfams : s1.fams = s.fams) (hroom : s1.placeFull t l = false) :
    exec (.decl k o) s = .next (s1.declare t (.decl k o) o l a) := by
  have hcause := declCause_uniClear c.setTeam (declBase_pos k o) hdiv .place
  have hold : ((s.setTeam t).place t o.data).kind = .none := hnone
  change execDecl k o s = _
  rw [execDecl, byTeam_team hrun, issuing_of_no_span hspan]
  simp only [hold, bne_self_eq_false, hcause, htarget, hroom, Bool.false_eq_true, if_false,
    guarded_pred (c.of_fams hfams) ((qHolds_of_fams hfams t o.p).trans hq)]

/-! ### A register at LANE or TEAM -/

/-- A new entry at LANE or TEAM has a row of its own (R43, log entry 16). -/
theorem newEntry_row {s : State} {t : Team} {l : Loc} {k : PKind} {n : Nat} (a : DWord) (pend : Bool)
    (hl : l = .lane ∧ k = .lane ∧ n = (s.launchOf t).lmax ∨ l = .team ∧ k = .team ∧ n = (s.launchOf t).tregs)
    (hroom : ((s.fam t.fam).held k).length < n) : ∃ row f, row < n ∧ row ∉ (s.fam t.fam).held k
      ∧ s.newEntry t l a pend = ({ kind := k, pend := pend, index := BitVec.ofNat 10 row, bound := 0 }, { s with free := f }) := by
  obtain ⟨row, f, hpick, hlt, hnew⟩ := pickRow_free s hroom
  refine ⟨row, f, hlt, hnew, ?_⟩
  rcases hl with ⟨rfl, rfl, rfl⟩ | ⟨rfl, rfl, rfl⟩
  · simp only [State.newEntry, hpick]
  · simp only [State.newEntry, hpick]

/-- A register declared at LANE is zero in every present lane (R202). -/
theorem exec_decl_lane {s : State} {t : Team} {o : FMem} (hrun : s.Runs t) (hspan : t.span = none) (hdiv : t.div = [])
    (c : UniClear s t [] o.p) (hq : s.qHolds t o.p = true) (hnone : (s.entry t o.data.toNat).kind = .none)
    (hroom : ((s.fam t.fam).held .lane).length < (s.launchOf t).lmax) :
    ∃ s', exec (.decl .lane o) s = .next s' ∧ PlacesKept s s' t [o.data.toNat]
    ∧ (∃ row, row < (s.launchOf t).lmax ∧ row ∉ (s.fam t.fam).held .lane
      ∧ s'.entry t o.data.toNat = { kind := .lane, pend := false, index := BitVec.ofNat 10 row, bound := 0 })
    ∧ s'.team? t.ctx = some { t.advance 1 with
        last := s.stamp, lanes := t.lanes.map (fun l => { l with regs := Tbl.set l.regs o.data.toNat 0 }) }
    ∧ s'.mem = s.mem ∧ s'.groups = s.groups := by
  obtain ⟨row, f, hlt, hnew, hentry⟩ := newEntry_row (s := s.setTeam t) (t := t) 0 false (.inl ⟨rfl, rfl, rfl⟩) hroom
  have hexec := exec_decl (k := .lane) (s1 := s.setTeam t) hrun hspan hdiv c hq hnone rfl rfl
    (decide_eq_false hroom.not_ge)
  simp only [State.declare, hentry] at hexec
  obtain ⟨s', hs', hteam, hmem, hgroups, hfams⟩ := mapLanes_advance_effect (t := t)
    (s := State.setPlace { s.setTeam t with free := f } t.fam o.data
      { kind := .lane, pend := false, index := BitVec.ofNat 10 row, bound := 0 }) (s.team?_setTeam_same t)
    (fun l => { l with regs := Tbl.set l.regs o.data.toNat 0 })
  obtain ⟨hkept, hplaced⟩ := placesKept_of_entry (s := s) (s' := s') (t := t) (fun k =>
    (entry_of_fams hfams t k).trans (entry_setPlace _ t _ _ k))
  refine ⟨s', hexec.trans (congrArg _ hs'), hkept, ⟨row, hlt, hnew, hplaced⟩, hteam, hmem, hgroups⟩

/-- A register declared at TEAM is zero (R202). -/
theorem exec_decl_team {s : State} {t : Team} {o : FMem} (hrun : s.Runs t) (hspan : t.span = none) (hdiv : t.div = [])
    (c : UniClear s t [] o.p) (hq : s.qHolds t o.p = true) (hnone : (s.entry t o.data.toNat).kind = .none)
    (hroom : ((s.fam t.fam).held .team).length < (s.launchOf t).tregs) :
    ∃ s', exec (.decl .team o) s = .next s' ∧ PlacesKept s s' t [o.data.toNat]
    ∧ (∃ row, row < (s.launchOf t).tregs ∧ row ∉ (s.fam t.fam).held .team
      ∧ s'.entry t o.data.toNat = { kind := .team, pend := false, index := BitVec.ofNat 10 row, bound := 0 })
    ∧ s'.uni t o.data.toNat = 0 ∧ s'.team? t.ctx = some { t.advance 1 with last := s.stamp }
    ∧ s'.mem = s.mem ∧ s'.groups = s.groups := by
  obtain ⟨row, f, hlt, hnew, hentry⟩ := newEntry_row (s := s.setTeam t) (t := t) 0 false (.inr ⟨rfl, rfl, rfl⟩) hroom
  have hexec := exec_decl (k := .team) (s1 := s.setTeam t) hrun hspan hdiv c hq hnone rfl rfl
    (decide_eq_false hroom.not_ge)
  simp only [State.declare, hentry] at hexec
  set s1 := State.setPlace { s.setTeam t with free := f } t.fam o.data
    { kind := .team, pend := false, index := BitVec.ofNat 10 row, bound := 0 }
  obtain ⟨hteam, hmem, hgroups, hfams⟩ := advance_effect (s := s1.setCell t.fam o.data.toNat 0) (t := t) (s.team?_setTeam_same t)
  obtain ⟨hkept, hplaced⟩ := placesKept_of_entry (s := s) (t := t) (fun k =>
    (entry_of_fams hfams t k).trans ((entry_setCell s1 t _ _ _ k).trans (entry_setPlace _ t _ _ k)))
  exact ⟨_, hexec, hkept, ⟨row, hlt, hnew, hplaced⟩, (uni_of_fams hfams t _).trans (uni_setCell s1 t _ _), hteam, hmem, hgroups⟩

/-! ### The home of an address -/

theorem holdHome_eq (s : State) (die : Nat) (e : HomeEnt) : ∃ d f, s.holdHome die e = { s with dies := d, free := f } := by
  obtain ⟨b, f, hpick⟩ := pick_eq s 512
  simp only [State.holdHome, hpick]
  split
  · exact ⟨_, s.free, rfl⟩
  · exact ⟨_, f, rfl⟩

/-- The range of a home map that holds a granule, as a home cache holds it (R328). -/
theorem find?_ent (rs : List HomeRange) (a g : Nat) : (rs.map (fun r => r.ent a)).find? (fun e => e.holds a g)
    = (rs.find? (fun r => decide (r.gran ≤ g) && decide (g < r.gran + r.ngran))).map (fun r => r.ent a) := by
  rw [List.find?_map]
  congr 2
  funext r
  simp [HomeRange.ent, HomeEnt.holds]

/-- Without moved granules an address lives where the die's home cache says, which says what the home map does
(R326, R328). -/
theorem homeOf_eq {s : State} {v die va stack ch : Nat} (hmoved : (s.vd v).moved = 0)
    (hcached : ∀ e ∈ (s.die die).home.filter (fun e => !e.moved && e.holds (s.asid v) (bitsAt va 16 40)),
      e.place (bitsAt va 16 40) = (stack, ch))
    (hmap : ((s.vd v).map.find? (fun r => decide (r.gran ≤ bitsAt va 16 40) && decide (bitsAt va 16 40 < r.gran + r.ngran))).map (fun r =>
      (r.stack, r.firstch + (bitsAt va 16 40 - r.gran) % 2 ^ r.log2ch)) = some (stack, ch)) :
    ∃ d f, s.homeOf v die va = (some (stack, ch), { s with dies := d, free := f }) := by
  obtain ⟨r, hr, hplace⟩ := Option.map_eq_some_iff.1 hmap
  simp only [State.homeOf, hmoved, if_true]
  split
  next e he =>
    have hmem := List.mem_filter.2 ⟨List.mem_of_find?_eq_some he, List.find?_some he⟩
    exact ⟨s.dies, s.free, by rw [hcached e hmem]⟩
  next =>
    obtain ⟨d, f, hhold⟩ := holdHome_eq s die (r.ent (s.asid v))
    refine ⟨d, f, ?_⟩
    rw [find?_ent, hr]
    simp only [Option.map_some, hhold]
    rw [← hplace]
    rfl

/-- The address operand of a declaration at MEM or BANK leads to its stack and channel (R45, R202). -/
theorem bindHome_eq {s : State} {t : Team} {a : DWord} {stack ch : Nat} (hva : a.extractLsb' 56 8 = 0)
    (hhome : ∃ d f, s.homeOf (s.vdOf t) (dieOf (s.coreOf t)) a.toNat = (some (stack, ch), { s with dies := d, free := f })) :
    ∃ d f, s.bindHome t a = (some (stack, ch), { s with dies := d, free := f }) := by
  have htop : (a >>> 56 != 0) = false := by
    have : a >>> 56 = 0 := by
      have h := congrArg BitVec.toNat hva
      simp only [BitVec.extractLsb'_toNat] at h
      apply BitVec.eq_of_toNat_eq
      simp only [BitVec.toNat_ushiftRight]
      simp at h ⊢
      omega
    simp [this]
  simpa only [State.bindHome, htop, Bool.false_eq_true, if_false] using hhome

/-! ### A place instruction sent to its unit -/

/-- Where a place instruction goes (R57). -/
def placeTarget (s : State) (t : Team) : PInst → Target
  | .awl ch => .awl ch
  | .welt w => .welt w
  | .core => .core (s.coreOf t)

theorem advance_pl (t : Team) (n k : Nat) : ({ t with pl := k } : Team).advance n = { t.advance n with pl := k } := by
  simp only [Team.advance]
  split
  · rfl
  · rfl

theorem raise_pl_advance (t : Team) (n : Nat) : (t.raise .pl).advance n = { t.advance n with pl := t.pl + 1 } :=
  advance_pl t n (t.pl + 1)

/-- A place instruction that carries no value has issued as one packet with one request (R57, R61, R65). -/
theorem sendPlace_effect {s : State} {t : Team} {i : Instr} {x : PInst} {now : State → State}
    (hteam : (now s).team? t.ctx = some t) (hroom : t.pl < 63) :
    ∃ s', s.sendPlace t i x true [] [] now = s'
    ∧ (∃ q n, s'.team? t.ctx = some { t.advance 1 with
        last := n, pl := t.pl + 1, seq := t.seq + 1, sends := q, replay := t.replay ++ [t.packet i x .pl true [pLane 0 [1] 0] []] })
    ∧ (∃ r, s'.reqs = (now s).reqs ++ [r] ∧ r.target = placeTarget s t x ∧ r.op = .exec ∧ r.seq = t.seq ∧ r.ctx = t.ctx ∧ r.instr = i)
    ∧ s'.mem = (now s).mem ∧ s'.groups = (now s).groups ∧ s'.fams = (now s).fams := by
  have hfull : t.full .pl = false := decide_eq_false hroom.not_ge
  obtain ⟨⟨k, hthere⟩, ⟨rs, hreqs, hbare⟩, hmem, hgroups, hfams, -⟩ := issuePacket_packed (n := 1) (pend := []) (pendP := [])
    (pk := t.packet i x .pl true [pLane 0 [1] 0] [])
    (xs := [{ target := placeTarget s t x, op := .exec, lanes := [pLane 0 [1] 0] }]) hteam hroom rfl rfl (by simp)
  have hsend : s.sendPlace t i x true [] [] now = (now s).issuePacket t.ctx 1 (t.packet i x .pl true [pLane 0 [1] 0] []) [] []
      [{ target := placeTarget s t x, op := .exec, lanes := [pLane 0 [1] 0] }] := by
    simp only [State.sendPlace, hfull, Bool.false_eq_true, if_false]
    cases x <;> rfl
  refine ⟨_, hsend, ⟨noteSend t.gen (now s).clock t.sends, k, hthere.trans (congrArg some ?_)⟩, ?_, hmem, hgroups, hfams⟩
  · have hctr : (t.packet i x .pl true [pLane 0 [1] 0] []).ctr = .pl := rfl
    simp only [hctr, raise_pl_advance, List.map_nil, List.append_nil]
    by_cases h : t.clause.length ≤ t.word + 1
    · simp only [Team.advance, if_pos h]; rfl
    · simp only [Team.advance, if_neg h]
  · obtain ⟨r, rfl, hr⟩ := List.map_eq_singleton_iff.1 hbare
    have htarget := congrArg (fun r : Req => (r.target, r.op, r.seq, r.ctx, r.instr)) hr
    simp only [Prod.mk.injEq] at htarget
    exact ⟨r, hreqs, htarget⟩

/-! ### A register at MEM or BANK -/

/-- The package once a place instruction of team `t` has looked up the home of its address. -/
def homeRead (s : State) (t : Team) (d : Tbl Die) (f : Nat) : State := { s.setTeam t with dies := d, free := f }

/-- The home of a declaration's address seen from the core of its team (R326, R328). -/
def AtHome (s : State) (t : Team) (a : DWord) (stack ch : Nat) : Prop :=
  ∃ d f, (s.setTeam t).bindHome t a = (some (stack, ch), homeRead s t d f)

/-- A declaration at MEM or BANK has issued to its unit, the register bound to its address (R45, R57, R202). -/
structure DeclaredAt (s s' : State) (t : Team) (k : DKind) (o : FMem) (p : PKind) (index : Nat) (x : PInst) (a : DWord) : Prop where
  kept   : PlacesKept s s' t [o.data.toNat]
  entry  : s'.entry t o.data.toNat = { kind := p, pend := false, index := BitVec.ofNat 10 index, bound := a }
  team   : ∃ q n, s'.team? t.ctx = some { t.advance 1 with
    last := n, pl := t.pl + 1, seq := t.seq + 1, sends := q
    replay := t.replay ++ [t.packet (.decl k o) x .pl true [pLane 0 [1] 0] []] }
  sent   : ∃ r, s'.reqs = s.reqs ++ [r] ∧ r.target = placeTarget s t x ∧ r.op = .exec ∧ r.seq = t.seq ∧ r.ctx = t.ctx
    ∧ r.instr = .decl k o
  mem    : s'.mem = s.mem
  groups : s'.groups = s.groups

/-- What the issue of a declaration does besides the new map entry `e`. -/
theorem declaredAt_sendPlace {s : State} {t : Team} {k : DKind} {o : FMem} {p : PKind} {index : Nat} {x : PInst} {a : DWord}
    {d : Tbl Die} {f : Nat} {now : State → State} (hroom : t.pl < 63)
    (hnow : now (homeRead s t d f) = (homeRead s t d f).setPlace t.fam o.data
      { kind := p, pend := false, index := BitVec.ofNat 10 index, bound := a }) :
    DeclaredAt s ((homeRead s t d f).sendPlace t (.decl k o) x true [] [] now) t k o p index x a := by
  have hteam : (now (homeRead s t d f)).team? t.ctx = some t := by
    rw [hnow]; exact s.team?_setTeam_same t
  obtain ⟨s', hs', hthere, ⟨r, hreqs, hr⟩, hmem, hgroups, hfams⟩ := sendPlace_effect (i := .decl k o) (x := x) hteam hroom
  rw [hs']
  rw [hnow] at hreqs hmem hgroups hfams
  obtain ⟨hkept, hplaced⟩ := placesKept_of_entry (s := s) (t := t) (fun j =>
    (entry_of_fams hfams t j).trans (entry_setPlace _ t _ _ j))
  exact ⟨hkept, hplaced, hthere, ⟨r, hreqs, hr⟩, hmem, hgroups⟩

theorem declare_mem (s : State) (t : Team) (i : Instr) (o : FMem) (w : Nat) (a : DWord) :
    s.declare t i o (.mem w) a = s.sendPlace t i (.welt w) true [] [] (fun s => s.setPlace t.fam o.data
      { kind := .mem, pend := false, index := BitVec.ofNat 10 w, bound := a }) := rfl

theorem declare_bank (s : State) (t : Team) (i : Instr) (o : FMem) (ch : Nat) (a : DWord) :
    s.declare t i o (.bank ch) a = s.sendPlace t i (.awl ch) true [] [] (fun s => s.setPlace t.fam o.data
      { kind := .bank, pend := false, index := BitVec.ofNat 10 ch, bound := a }) := rfl

section
variable {s : State} {t : Team} {o : FMem} {stack ch : Nat}

theorem bindAddr_uniVal (s : State) (t : Team) (o : FMem) :
    bindAddr o ((s.setTeam t).uniVal t o.base 2) = s.uniVal t o.base 2 + o.off.signExtend 64 := rfl

/-- A register declared at MEM is bound to the stack of its address (R45). -/
theorem exec_decl_mem (hrun : s.Runs t) (hspan : t.span = none) (hdiv : t.div = []) (c : UniClear s t [(o.base, 2)] o.p)
    (hq : s.qHolds t o.p = true) (hnone : (s.entry t o.data.toNat).kind = .none) (hroom : t.pl < 63)
    (hhome : AtHome s t (s.uniVal t o.base 2 + o.off.signExtend 64) stack ch) :
    ∃ s', exec (.decl .mem o) s = .next s' ∧ DeclaredAt s s' t .mem o .mem stack (.welt stack) (s.uniVal t o.base 2 + o.off.signExtend 64) := by
  obtain ⟨d, f, hbind⟩ := hhome
  have htarget : (s.setTeam t).declTarget t .mem o = (some (.mem stack, s.uniVal t o.base 2 + o.off.signExtend 64),
      homeRead s t d f) := by
    simp only [State.declTarget, readPair_quiet c.setTeam.quiet, bindAddr_uniVal, hbind, if_true]
  refine ⟨_, exec_decl hrun hspan hdiv c hq hnone htarget rfl rfl, ?_⟩
  rw [declare_mem]
  exact declaredAt_sendPlace hroom rfl

/-- A register declared at BANK is bound to the channel of its address, where the team holds a session (R45, R251). -/
theorem exec_decl_bank (hrun : s.Runs t) (hspan : t.span = none) (hdiv : t.div = []) (c : UniClear s t [(o.base, 2)] o.p)
    (hq : s.qHolds t o.p = true) (hnone : (s.entry t o.data.toNat).kind = .none) (hroom : t.pl < 63)
    (hhome : AtHome s t (s.uniVal t o.base 2 + o.off.signExtend 64) stack ch) (hsession : s.holdsSession t (64 * stack + ch) = true)
    (hfree : ((s.fam t.fam).held .bank).length < 8) :
    ∃ s', exec (.decl .bank o) s = .next s'
      ∧ DeclaredAt s s' t .bank o .bank (64 * stack + ch) (.awl (64 * stack + ch)) (s.uniVal t o.base 2 + o.off.signExtend 64) := by
  obtain ⟨d, f, hbind⟩ := hhome
  have htarget : (s.setTeam t).declTarget t .bank o = (some (.bank (64 * stack + ch), s.uniVal t o.base 2 + o.off.signExtend 64),
      homeRead s t d f) := by
    have hsession' : (homeRead s t d f).holdsSession t (64 * stack + ch) = true := hsession
    simp only [State.declTarget, readPair_quiet c.setTeam.quiet, bindAddr_uniVal, hbind, hsession', if_true, reduceCtorEq, if_false]
  refine ⟨_, exec_decl hrun hspan hdiv c hq hnone htarget rfl (decide_eq_false hfree.not_ge), ?_⟩
  rw [declare_bank]
  exact declaredAt_sendPlace hroom rfl

end

end Sys2Proof.Claims
end

/-- Settles O31: a free row at LANE and TEAM, and the home of the address at MEM and BANK. -/
theorem declarations : Obligations.Declarations := by
  unfold Obligations.Declarations
  intro k o s t hrun hspan _ hq hdiv hnone c
  refine ⟨?_, ?_, fun stack ch hhome hcached hva hmoved hroom => ?_⟩
  · rintro rfl hroom -
    exact Sys2Proof.Claims.exec_decl_lane hrun hspan hdiv (by simpa using c) hq hnone hroom
  · rintro rfl hroom -
    exact Sys2Proof.Claims.exec_decl_team hrun hspan hdiv (by simpa using c) hq hnone hroom
  · have hat : Sys2Proof.Claims.AtHome s t (s.uniVal t o.base 2 + o.off.signExtend 64) stack ch :=
      Sys2Proof.Claims.bindHome_eq hva (Sys2Proof.Claims.homeOf_eq hmoved hcached hhome)
    refine ⟨?_, ?_⟩
    · rintro rfl
      obtain ⟨s', hexec, h⟩ := Sys2Proof.Claims.exec_decl_mem hrun hspan hdiv (by simpa using c) hq hnone hroom hat
      exact ⟨s', hexec, h.kept, h.entry, h.team, h.sent, h.mem, h.groups⟩
    · rintro rfl hsession hfree
      obtain ⟨s', hexec, h⟩ := Sys2Proof.Claims.exec_decl_bank hrun hspan hdiv (by simpa using c) hq hnone hroom hat hsession hfree
      exact ⟨s', hexec, h.kept, h.entry, h.team, h.sent, h.mem, h.groups⟩

section
/-! PROOF. Moves of a register between TEAM and LANE and its return to NONE (O32). -/

namespace Sys2Proof.Claims
open Sys2Proof.Machine

/-! ### The register that a place instruction names -/

section
variable {s : State} {t : Team} {r : Reg}

theorem noName_of_lt (h : r.toNat < 254) : Reg.noName r = false := by
  have hz : r ≠ Reg.z := fun hr => by rw [hr] at h; exact absurd h (by decide)
  have hl : r ≠ Reg.lit := fun hr => by rw [hr] at h; exact absurd h (by decide)
  simp [Reg.noName, hz, hl]

theorem regNums_one (h : r.toNat < 254) : regNums r 1 = [r.toNat] := by
  have := noName_of_lt h
  simp only [Reg.noName] at this
  simp [regNums, this]

/-- A register at LANE or TEAM of which nothing is pending is one that a place instruction may name. -/
theorem atCore_register (h : r.toNat < 254) (hpend : ∀ e ∈ t.pend, t.own e.1 = true → e.2 ≠ r)
    (hkind : (s.entry t r.toNat).kind = .lane ∨ (s.entry t r.toNat).kind = .team) : AtCore s t [(r, 1)] where
  placed x hx k hk := by
    obtain rfl := List.mem_singleton.1 hx
    rw [regNums_one h, List.mem_singleton] at hk
    subst hk
    exact ⟨h, rfl, hkind⟩
  ready e he ho x hx := by
    obtain rfl := List.mem_singleton.1 hx
    rw [regNums_one h, List.mem_singleton]
    exact fun heq => hpend e he ho (BitVec.eq_of_toNat_eq heq)
  pos x hx := by
    obtain rfl := List.mem_singleton.1 hx
    exact Nat.one_pos

theorem place_loc_lane (h : (s.entry t r.toNat).kind = .lane) : (s.place t r).loc = .lane := by
  have : (s.place t r).kind = .lane := h
  simp [PlaceEnt.loc, this]

theorem place_loc_team (h : (s.entry t r.toNat).kind = .team) : (s.place t r).loc = .team := by
  have : (s.place t r).kind = .team := h
  simp [PlaceEnt.loc, this]

/-- The value of a uniform register as one register reads it (R42). -/
theorem uniVal_one (h : r.toNat < 254) : (s.uniVal t r 1).setWidth 32 = s.uni t r.toNat := by
  have hz : r ≠ Reg.z := fun hr => by rw [hr] at h; exact absurd h (by decide)
  simp only [State.uniVal, hz, if_false, OfNat.one_ne_ofNat]
  exact BitVec.setWidth_setWidth_of_le _ (by decide)

end

theorem anyApart_nil (s : State) (t : Team) : s.anyApart t [] = false := rfl

/-! ### REDECL -/

section
variable {s : State} {t : Team} {o : FMem}

/-- A `redecl` to LANE or TEAM of a register at one of them passes the checks; that the register lies at LANE is not
among them (R203). -/
theorem declCause_register (c : UniClear s t [] o.p) (hcore : AtCore s t [(o.data, 1)]) (hdiv : t.div = []) :
    s.declCause t [(o.data, 1)] o.p.num.toNat [] = if s.locOf t o.data == .lane then some .shape else none := by
  have hopen : t.divOpen = false := by simp [Team.divOpen, hdiv]
  have hremote : (s.locOf t o.data).remote = false := by
    rw [locOf_lane hcore (List.mem_singleton_self _)]
    split
    · rfl
    · split <;> rfl
  simp [State.declCause, firstCause, anyNone_clear hcore, anyPend_clear hcore, anyApart_clear hcore, predPend_uniClear c, hremote, hopen]

/-- What a `redecl` to LANE or TEAM does with a register at one of them (R53, R203). -/
theorem exec_redecl {k : DKind} {l : Loc} (hrun : s.Runs t) (hspan : t.span = none) (hdiv : t.div = []) (c : UniClear s t [] o.p)
    (hq : s.qHolds t o.p = true) (hlt : o.data.toNat < 254) (hpend : ∀ e ∈ t.pend, t.own e.1 = true → e.2 ≠ o.data)
    (hkind : (s.entry t o.data.toNat).kind = .lane ∨ (s.entry t o.data.toNat).kind = .team)
    (hl : k = .lane ∧ l = .lane ∨ k = .team ∧ l = .team)
    (hmove : (s.entry t o.data.toNat).kind = .lane → k = .lane)
    (hroom : (s.place t o.data).loc ≠ l → s.placeFull t l = false) :
    exec (.redecl k o) s = .next (if (s.place t o.data).loc == l then (s.setTeam t).advance t.ctx 1
      else (s.setTeam t).moveReg t (.redecl k o) o (s.place t o.data).loc l 0) := by
  have hcore : AtCore (s.setTeam t) t [(o.data, 1)] := atCore_register hlt hpend hkind
  have hcause := declCause_register c.setTeam hcore hdiv
  have hopen : t.divOpen = false := by simp [Team.divOpen, hdiv]
  have hbank : (((s.setTeam t).place t o.data).kind == .bank) = false := by
    have : ((s.setTeam t).place t o.data).kind = .lane ∨ ((s.setTeam t).place t o.data).kind = .team := hkind
    rcases this with h | h <;> simp [h]
  have hshape : ((((s.setTeam t).place t o.data).kind == .lane) && (k != .lane)) = false := by
    by_cases h : ((s.setTeam t).place t o.data).kind = .lane
    · simp [hmove h]
    · simp [h]
  have hguard := fun off on => guarded_pred (s := s.setTeam t) c.setTeam hq 1 off on
  have hfull : (((s.setTeam t).place t o.data).loc != l && (s.setTeam t).placeFull t l) = false := by
    by_cases h : (s.place t o.data).loc = l
    · exact Bool.and_eq_false_iff.2 (.inl (bne_eq_false_iff_eq.2 h))
    · exact Bool.and_eq_false_iff.2 (.inr (hroom h))
  have hbase : declBase k o = [] := by rcases hl with ⟨rfl, -⟩ | ⟨rfl, -⟩ <;> rfl
  have hk : (k == .bank) = false := by rcases hl with ⟨rfl, -⟩ | ⟨rfl, -⟩ <;> rfl
  have htarget : (s.setTeam t).declTarget t k o = (some (l, 0), s.setTeam t) := by
    rcases hl with ⟨rfl, rfl⟩ | ⟨rfl, rfl⟩ <;> rfl
  have hsame : (s.setTeam t).sameBinding t o.data l 0 = ((s.place t o.data).loc == l) := by
    rcases hl with ⟨-, rfl⟩ | ⟨-, rfl⟩ <;> rfl
  change execRedecl k o s = _
  rw [execRedecl, byTeam_team hrun, issuing_of_no_span hspan, hbase]
  dsimp only
  rw [hcause]
  split
  next heq => split at heq <;> simp at heq
  next heq => split at heq <;> simp at heq
  next =>
    simp only [hopen, hbank, hk, anyApart_nil, List.any_nil, htarget, hshape, hsame, hguard, Bool.or_false, Bool.false_eq_true, if_false,
      Bool.and_assoc, hfull, Bool.and_false]
    rfl

/-- A register moved from TEAM to LANE brings its value to every present lane (R53). -/
theorem exec_redecl_lane (hrun : s.Runs t) (hspan : t.span = none) (hdiv : t.div = []) (c : UniClear s t [] o.p)
    (hq : s.qHolds t o.p = true) (hlt : o.data.toNat < 254) (hpend : ∀ e ∈ t.pend, t.own e.1 = true → e.2 ≠ o.data)
    (hquiet : s.Quiet t) (hteam : (s.entry t o.data.toNat).kind = .team)
    (hroom : ((s.fam t.fam).held .lane).length < (s.launchOf t).lmax) :
    ∃ s', exec (.redecl .lane o) s = .next s' ∧ PlacesKept s s' t [o.data.toNat] ∧ (s'.entry t o.data.toNat).kind = .lane
      ∧ s'.team? t.ctx = some { t.advance 1 with
          last := s.stamp
          lanes := t.lanes.map (fun l => { l with regs := Tbl.set l.regs o.data.toNat (s.uni t o.data.toNat) }) }
      ∧ s'.mem = s.mem ∧ s'.groups = s.groups := by
  have hloc : (s.place t o.data).loc = .team := place_loc_team hteam
  have hexec := exec_redecl (k := .lane) hrun hspan hdiv c hq hlt hpend (.inr hteam) (.inl ⟨rfl, rfl⟩) (fun _ => rfl)
    (fun _ => decide_eq_false hroom.not_ge)
  obtain ⟨row, f, -, -, hentry⟩ := newEntry_row (s := s.setTeam t) (t := t) 0 false (.inl ⟨rfl, rfl, rfl⟩) hroom
  have hval : ((s.setTeam t).uniVal t o.data 1).setWidth 32 = s.uni t o.data.toNat := uniVal_one hlt
  have hquiet' : (s.setTeam t).Quiet t := Quiet.of_fams (s := s) rfl hquiet
  rw [hloc, if_neg (by decide)] at hexec
  simp only [State.moveReg, readOne_quiet hquiet', hval, hentry] at hexec
  set s1 := State.setPlace { s.setTeam t with free := f } t.fam o.data
    { kind := .lane, pend := false, index := BitVec.ofNat 10 row, bound := 0 }
  obtain ⟨s', hs', hthere, hmem, hgroups, hfams⟩ := mapLanes_advance_effect (t := t) (s := s1.delCell t.fam o.data.toNat)
    (s.team?_setTeam_same t) (fun l => { l with regs := Tbl.set l.regs o.data.toNat (s.uni t o.data.toNat) })
  obtain ⟨hkept, hplaced⟩ := placesKept_of_entry (s := s) (s' := s') (t := t) (fun k =>
    (entry_of_fams hfams t k).trans ((entry_delCell s1 t _ _ k).trans (entry_setPlace _ t _ _ k)))
  exact ⟨s', hexec.trans (congrArg _ hs'), hkept, by rw [hplaced], hthere, hmem, hgroups⟩

/-- A register moved to where it lies stays there (R53). -/
theorem exec_redecl_same {k : DKind} (hrun : s.Runs t) (hspan : t.span = none) (hdiv : t.div = []) (c : UniClear s t [] o.p)
    (hq : s.qHolds t o.p = true) (hlt : o.data.toNat < 254) (hpend : ∀ e ∈ t.pend, t.own e.1 = true → e.2 ≠ o.data)
    (hk : k = .lane ∧ (s.entry t o.data.toNat).kind = .lane ∨ k = .team ∧ (s.entry t o.data.toNat).kind = .team) :
    ∃ s', exec (.redecl k o) s = .next s' ∧ Alone s s' t { t.advance 1 with last := s.stamp } [] := by
  obtain ⟨l, hl, hloc, hkind, hmove⟩ : ∃ l, (k = .lane ∧ l = .lane ∨ k = .team ∧ l = .team) ∧ (s.place t o.data).loc = l
      ∧ ((s.entry t o.data.toNat).kind = .lane ∨ (s.entry t o.data.toNat).kind = .team)
      ∧ ((s.entry t o.data.toNat).kind = .lane → k = .lane) := by
    rcases hk with ⟨rfl, h⟩ | ⟨rfl, h⟩
    · exact ⟨.lane, .inl ⟨rfl, rfl⟩, place_loc_lane h, .inl h, fun _ => rfl⟩
    · exact ⟨.team, .inr ⟨rfl, rfl⟩, place_loc_team h, .inr h, fun h' => by simp [h] at h'⟩
  have hexec := exec_redecl hrun hspan hdiv c hq hlt hpend hkind hl hmove (fun h => absurd hloc h)
  rw [hloc, if_pos (beq_self_eq_true l)] at hexec
  exact ⟨_, hexec, advance_alone 1⟩

end

/-! ### UNDECL -/

section
variable {s : State} {t : Team} {o : F3}

/-- The `undecl` of a register at LANE or TEAM releases it (R47, R204). -/
theorem exec_undecl (hrun : s.Runs t) (hspan : t.span = none) (hdiv : t.div = []) (c : UniClear s t [] o.p)
    (hq : s.qHolds t o.p = true) (hlt : o.d.toNat < 254) (hpend : ∀ e ∈ t.pend, t.own e.1 = true → e.2 ≠ o.d)
    (hkind : (s.entry t o.d.toNat).kind = .lane ∨ (s.entry t o.d.toNat).kind = .team) :
    exec (.undecl o) s = .next ((s.setTeam t).release t (.undecl o) o.d) := by
  have hcore : AtCore (s.setTeam t) t [(o.d, 1)] := atCore_register hlt hpend hkind
  have hopen : t.divOpen = false := by simp [Team.divOpen, hdiv]
  have hcause : firstCause [((s.setTeam t).anyNone t [(o.d, 1)], .undecl),
      (t.anyPend [(o.d, 1)] || t.predPend true o.p.num.toNat, .unwaited), (t.divOpen, .place)] = none := by
    simp [firstCause, anyNone_clear hcore, anyPend_clear hcore, predPend_uniClear c, hopen]
  change execUndecl o s = _
  rw [execUndecl, byTeam_team hrun, issuing_of_no_span hspan]
  simp only [hcause, guarded_pred c.setTeam hq]

/-- A register released at LANE is gone from every present lane (R47). -/
theorem exec_undecl_lane (hrun : s.Runs t) (hspan : t.span = none) (hdiv : t.div = []) (c : UniClear s t [] o.p)
    (hq : s.qHolds t o.p = true) (hlt : o.d.toNat < 254) (hpend : ∀ e ∈ t.pend, t.own e.1 = true → e.2 ≠ o.d)
    (hkind : (s.entry t o.d.toNat).kind = .lane) :
    ∃ s', exec (.undecl o) s = .next s' ∧ PlacesKept s s' t [o.d.toNat] ∧ (s'.entry t o.d.toNat).kind = .none
      ∧ s'.team? t.ctx = some { t.advance 1 with
          last := s.stamp, lanes := t.lanes.map (fun l => { l with regs := Tbl.del l.regs o.d.toNat }) }
      ∧ s'.mem = s.mem ∧ s'.groups = s.groups := by
  have hexec := exec_undecl hrun hspan hdiv c hq hlt hpend (.inl hkind)
  have hloc : ((s.setTeam t).place t o.d).loc = .lane := place_loc_lane (s := s) hkind
  simp only [State.release, hloc] at hexec
  obtain ⟨s', hs', hthere, hmem, hgroups, hfams⟩ := mapLanes_advance_effect (t := t) (s := (s.setTeam t).setPlace t.fam o.d noPlace)
    (s.team?_setTeam_same t) (fun l => { l with regs := Tbl.del l.regs o.d.toNat })
  obtain ⟨hkept, hplaced⟩ := placesKept_of_entry (s := s) (s' := s') (t := t) (fun k =>
    (entry_of_fams hfams t k).trans (entry_setPlace _ t _ _ k))
  exact ⟨s', hexec.trans (congrArg _ hs'), hkept, by rw [hplaced]; rfl, hthere, hmem, hgroups⟩

/-- A register released at TEAM has no value any more (R47). -/
theorem exec_undecl_team (hrun : s.Runs t) (hspan : t.span = none) (hdiv : t.div = []) (c : UniClear s t [] o.p)
    (hq : s.qHolds t o.p = true) (hlt : o.d.toNat < 254) (hpend : ∀ e ∈ t.pend, t.own e.1 = true → e.2 ≠ o.d)
    (hkind : (s.entry t o.d.toNat).kind = .team) :
    ∃ s', exec (.undecl o) s = .next s' ∧ PlacesKept s s' t [o.d.toNat] ∧ (s'.entry t o.d.toNat).kind = .none
      ∧ s'.team? t.ctx = some { t.advance 1 with last := s.stamp } ∧ s'.mem = s.mem ∧ s'.groups = s.groups := by
  have hexec := exec_undecl hrun hspan hdiv c hq hlt hpend (.inr hkind)
  have hloc : ((s.setTeam t).place t o.d).loc = .team := place_loc_team (s := s) hkind
  simp only [State.release, hloc] at hexec
  obtain ⟨hthere, hmem, hgroups, hfams⟩ := advance_effect (t := t)
    (s := ((s.setTeam t).setPlace t.fam o.d noPlace).delCell t.fam o.d.toNat) (s.team?_setTeam_same t)
  obtain ⟨hkept, hplaced⟩ := placesKept_of_entry (s := s) (t := t) (fun k =>
    (entry_of_fams hfams t k).trans ((entry_delCell _ t _ _ k).trans (entry_setPlace _ t _ _ k)))
  exact ⟨_, hexec, hkept, by rw [hplaced]; rfl, hthere, hmem, hgroups⟩

end

end Sys2Proof.Claims
end

section
/-! PROOF. `placeq` (O32): a value written to a register, where nothing of the team changes besides (R144), is the
instruction without sources that computes it. -/

namespace Sys2Proof.Claims
open Sys2Proof.Machine

/-- Where a team is put back after another state of it, that state leaves no trace. -/
theorem settle_setTeam (s : State) {t u : Team} (h : u.ctx = t.ctx) : (s.setTeam t).settle u = s.settle u := by
  have hset : (State.setTeam { s.setTeam t with stamp := s.stamp + 1 } { u with last := s.stamp })
      = State.setTeam { s with stamp := s.stamp + 1 } { u with last := s.stamp } :=
    setTeam_setTeam { s with stamp := s.stamp + 1 } (t := t) h
  simp only [State.settle, State.stand, State.setTeam_stamp, hset]

theorem advance_modTeam_id {s : State} {c : Nat} {u : Team} (hteam : s.team? c = some u) (hc : u.ctx = c) (n : Nat) :
    (s.modTeam c (fun t => t)).advance c n = s.advance c n := by
  subst hc
  rw [modTeam_some hteam, advance_some hteam, advance_some (s.team?_setTeam_same u)]
  exact settle_setTeam s (advance_ctx u n)

/-- Results written leave the team under its own context id. -/
theorem writeOut_team? {s : State} {t : Team} (hteam : s.team? t.ctx = some t) (d : OpDesc) (uni : Bool) (e0 : Nat)
    (ls : List LaneIn) (out : CrossOut) : ∃ u, (s.writeOut t d uni e0 ls out).team? t.ctx = some u ∧ u.ctx = t.ctx := by
  set f : Team → Team := fun t => (if uni then t else t.mapLanes (writeLaneOut d out.lanes)).join out.flags with hf
  have hteams : (s.writeOut t d uni e0 ls out).teams = (s.modTeam t.ctx f).teams := by
    unfold State.writeOut
    cases uni <;> simp [State.writeUniOut_teams, State.writeUni2_teams, hf]
  refine ⟨{ f t with ctx := t.ctx }, ?_, rfl⟩
  rw [State.team?, hteams, modTeam_some hteam]
  exact State.team?_setTeam_same s { f t with ctx := t.ctx }

theorem run_elem {d : OpDesc} {g} (h : d.body = .elem g) (uni : Bool) (e0 : Nat) (ls : List LaneIn) : ∃ out, d.run uni e0 ls = some out := by
  unfold OpDesc.run
  rw [h]
  cases uni with
  | false => exact ⟨_, rfl⟩
  | true =>
    cases ls with
    | nil => exact ⟨_, rfl⟩
    | cons l ls => exact ⟨_, rfl⟩

/-- An instruction without sources at the core, its result written at once. -/
theorem runAtCore_noSrcs {s : State} {t : Team} {d : OpDesc} {g} (hbody : d.body = .elem g) (hsrcs : d.srcs = [])
    (hteam : s.team? t.ctx = some t) (i : Instr) (uni on : Bool) : s.runAtCore t i d uni on [] =
      if !on || (!uni && !(lanesIn t d uni []).any (fun l => l.act)) then s.advance t.ctx 1
      else
        ((match d.run uni (s.launchOf t).e0 (lanesIn t d uni []) with
          | some out => s.writeOut t d uni (s.launchOf t).e0 (lanesIn t d uni []) out
          | none => s).modTeam t.ctx (fun t => t)).advance t.ctx 1 := by
  have hfetch : s.descFetches t d = [] := by simp [State.descFetches, hsrcs]
  obtain ⟨out, hout⟩ := run_elem hbody uni (s.launchOf t).e0 (lanesIn t d uni [])
  obtain ⟨u, hu, hctx⟩ := writeOut_team? hteam d uni (s.launchOf t).e0 (lanesIn t d uni []) out
  simp only [State.runAtCore, hout, hfetch, List.isEmpty_nil, if_true, advance_modTeam_id hu hctx]

/-- A value written, with no further change of the team, is what the instruction without sources computes. -/
theorem writeThen_eq_teamDesc {s : State} {t : Team} {d : OpDesc} {f : Form} {g} (h : d.Fits f g) (c : f.Clear s t)
    (hsrcs : d.srcs = []) (hteam : s.team? t.ctx = some t) (i : Instr) : s.writeThen t d (fun t => t) = s.teamDesc t i d := by
  have hrun := runAtCore_noSrcs h.body hsrcs hteam i
  unfold State.writeThen State.teamDesc
  rw [descCause_clear h c, execLoc_clear h c, h.pred]
  cases hl : f.atLane s t with
  | true =>
    simp only [if_true, Loc.uniform, State.guard, Bool.false_eq_true, if_false, hsrcs, State.readSrcs, hrun] <;> rfl
  | false =>
    simp only [if_true, Loc.uniform, State.guard, Bool.false_eq_true, if_false, hsrcs, State.readSrcs, hrun, qPred_quiet c.quiet] <;> rfl

theorem constDesc_fits {p : Pred} {d : Reg} (hd : d ≠ Reg.lit) (v : DWord) :
    (constDesc p d 1 v).Fits ⟨p, .reg d 1, []⟩ (fun _ => (v, 0)) where
  pred := rfl
  dst := rfl
  dst2 := rfl
  srcs := rfl
  rule := .inr rfl
  uni := rfl
  core := rfl
  l2u := rfl
  body := rfl
  noLit r n h := by
    obtain ⟨rfl, -⟩ := Dst.reg.inj h
    exact hd
  pos x hx := by
    simp only [Form.regs, Dst.regs, List.flatMap_nil, List.append_nil, List.mem_singleton] at hx
    exact hx ▸ Nat.one_pos

/-- The 16 bits of a map entry by the code of its kind (R43). -/
theorem entry_bits (e : PlaceEnt) : BitVec.ofNat 64 e.bits =
    (let code : Nat := match e.kind with
      | .none => 0 | .lane => 1 | .team => 2 | .mem => 3 | .bank => 4
    if code = 0 then 0 else BitVec.ofNat 64 (code * 2 ^ 12 + (if e.pend then 2 ^ 11 else 0) + e.index.toNat)) := by
  unfold PlaceEnt.bits
  cases e.kind <;> rfl

/-- `placeq` writes the bits of the map entry of its register (R205). -/
theorem exec_placeq {o : F3} {s : State} {t : Team} (hwf : (Instr.placeq o).wf = true) (hrun : s.Runs t) (hspan : t.span = none)
    (c : (⟨o.p, .reg o.d 1, []⟩ : Form).Clear s t) : ∃ s', exec (.placeq o) s = .next s'
      ∧ (⟨o.p, .reg o.d 1, []⟩ : Form).Done (fun _ => (BitVec.ofNat 64 (s.entry t o.a.toNat).bits, 0)) s s' t := by
  have hlit : o.d ≠ Reg.lit := by
    have hlegal : (({ d := .dst 1, a := .srcReg 1 : F3Rule }).ok o && o.a != Reg.z) = true := hwf
    simp only [F3Rule.ok, FieldUse.ok, Bool.and_eq_true] at hlegal
    exact ne_lit_of_okGroup (n := 1) (by tauto)
  have c1 : (⟨o.p, .reg o.d 1, []⟩ : Form).Clear (s.setTeam t) t := ⟨c.placed, c.ready, c.readyP, c.shape, ⟨c.quiet.cells, c.quiet.q⟩⟩
  have hfits := constDesc_fits (p := o.p) hlit (BitVec.ofNat 64 (s.entry t o.a.toNat).bits)
  have hteam := s.team?_setTeam_same t
  refine ⟨_, ?_, (teamDesc_done hfits c1 hteam (.placeq o)).of_setTeam⟩
  rw [← writeThen_eq_teamDesc hfits c1 rfl hteam]
  change execPlaceq o s = _
  rw [execPlaceq, byTeam_team hrun, issuing_of_no_span hspan]
  rfl

end Sys2Proof.Claims
end

/-- Settles O32: `Sys2Proof.Claims.exec_redecl_lane` and its like for the moves, and `placeq` as the instruction without
sources that writes the bits of the map entry. -/
theorem moves : Obligations.Moves := by
  unfold Obligations.Moves
  intro s t hrun hspan
  refine ⟨fun o c hq hdiv hpend hquiet hlt => ⟨fun _ hteam hroom => ?_, fun k hk _ => ?_⟩,
    fun o _ c hq hdiv hlt hpend => ⟨fun hkind => ?_, fun hkind => ?_⟩, fun o hwf c => ?_⟩
  · exact Sys2Proof.Claims.exec_redecl_lane hrun hspan hdiv c hq hlt hpend hquiet hteam hroom
  · exact Sys2Proof.Claims.exec_redecl_same hrun hspan hdiv c hq hlt hpend hk
  · exact Sys2Proof.Claims.exec_undecl_lane hrun hspan hdiv c hq hlt hpend hkind
  · exact Sys2Proof.Claims.exec_undecl_team hrun hspan hdiv c hq hlt hpend hkind
  · obtain ⟨s', hexec, hdone⟩ := Sys2Proof.Claims.exec_placeq hwf hrun hspan c
    rw [Sys2Proof.Claims.entry_bits] at hdone
    exact ⟨s', hexec, hdone⟩

section
/-! PROOF. The issue of memory instructions (O23): the checks that nothing stops, the address of each lane, and the requests,
one for each target and sector. -/

namespace Sys2Proof.Claims
open Sys2Proof.Machine

/-! ### Descriptions -/

theorem memOf_exec {i : Instr} {m : MemDesc} (h : memOf i = some m) (s : State) : exec i s = .next (s.issueMem i m) := by
  unfold memOf at h
  split at h
  case h_17 => simp at h
  all_goals
    obtain rfl := Option.some.inj h
    rfl

/-- A memory instruction with DATA takes at least one register of it. -/
theorem memOf_regs_pos {i : Instr} {m : MemDesc} (h : memOf i = some m) (hrule : m.rule ≠ .none) : 0 < m.regs := by
  have hwidth : ∀ w : Width, 0 < Width.regs w := by intro w; cases w <;> decide
  have hop : ∀ op : AOp, 0 < AOp.regs op := by intro op; cases op <;> decide
  unfold memOf at h
  split at h
  case h_17 => simp at h
  case h_14 w _ =>
    obtain rfl := Option.some.inj h
    change 0 < if w = true then 4 else 2
    cases w <;> decide
  all_goals
    obtain rfl := Option.some.inj h
    simp [loadDesc, storeDesc, atomDesc, hwidth, hop] at hrule ⊢

/-! ### Checks at issue (R51, R171) -/

section
variable {s : State} {t : Team} {m : MemDesc}

theorem MemClear.of_fams {s' : State} (h : s'.fams = s.fams) (c : MemClear s t m) : MemClear s' t m := by
  have hloc : memAtLane s' t m = memAtLane s t m := by simp only [memAtLane, entry_of_fams h]
  exact ⟨by simpa only [entry_of_fams h] using c.placed, c.ready, by rw [hloc]; exact c.readyP, by rw [hloc]; exact c.data,
    by rw [hloc, entry_of_fams h]; exact c.shape, Quiet.of_fams h c.quiet⟩

theorem MemClear.atCore (c : MemClear s t m) (hpos : m.rule ≠ .none → 0 < m.regs) : AtCore s t m.names where
  placed := c.placed
  ready := c.ready
  pos x hx := by
    simp only [MemDesc.names, List.mem_cons] at hx
    rcases hx with rfl | hx
    · simp only [MemDesc.baseRegs]
      split <;> decide
    · by_cases hr : m.rule = .none
      · simp [hr] at hx
      · simp only [hr, if_false, List.mem_singleton] at hx
        exact hx ▸ hpos hr

/-- A register that a memory instruction names lies at LANE, at TEAM or nowhere. -/
theorem locOf_names (hcore : AtCore s t m.names) {x : Reg × Nat} (hx : x ∈ m.names) : s.locOf t x.1 =
    if !Reg.noName x.1 && (s.entry t x.1.toNat).kind == .lane then .lane else if Reg.noName x.1 then .imm else .team := by
  rw [locOf_lane hcore hx]
  cases Reg.noName x.1
  · simp
  · simp

theorem base_mem_names (m : MemDesc) : (m.o.base, m.baseRegs) ∈ m.names := List.mem_cons_self

theorem data_mem_names (hrule : m.rule ≠ .none) : (m.o.data, m.regs) ∈ m.names := by simp [MemDesc.names, hrule]

/-- A memory instruction executes where DATA lies (R48, R174). -/
theorem memLoc_clear (hcore : AtCore s t m.names) : s.memLoc t m = if memAtLane s t m then .lane else .team := by
  have hat : (if m.rule = .none then s.locOf t m.o.base else s.locOf t m.o.data)
      = if memAtLane s t m then .lane else if Reg.noName (if m.rule = .none then m.o.base else m.o.data) then .imm else .team := by
    by_cases hrule : m.rule = .none
    · simp only [hrule, if_true, memAtLane]
      exact locOf_names hcore (base_mem_names m)
    · simp only [hrule, if_false, memAtLane]
      exact locOf_names hcore (data_mem_names hrule)
  simp only [State.memLoc, hat]
  cases memAtLane s t m
  · cases Reg.noName (if m.rule = .none then m.o.base else m.o.data) <;> rfl
  · rfl

/-- DATA lies where its form takes it (R171, R184). -/
theorem dataBad_clear (c : MemClear s t m) (hcore : AtCore s t m.names) : s.dataBad t m = false := by
  by_cases hrule : m.rule = .none
  · simp [State.dataBad, hrule]
  · have hloc := locOf_names hcore (data_mem_names hrule)
    obtain ⟨hlane, huni⟩ := c.data
    simp only [memAtLane, hrule, if_false] at hlane huni
    simp only [State.dataBad, hloc]
    generalize hat : (!Reg.noName m.o.data && (s.entry t m.o.data.toNat).kind == .lane) = at' at hlane huni
    cases hr : m.rule with
    | none => rfl
    | lane =>
      rcases hlane hr with h | h
      · simp [← hat, h]
      · simp [h]
    | uniform =>
      simp only [huni hr]
      cases Reg.noName m.o.data <;> rfl
    | core => cases at' <;> cases Reg.noName m.o.data <;> rfl
    | any => cases at' <;> cases Reg.noName m.o.data <;> rfl

/-- A memory instruction that `MemClear` speaks of passes its checks (R51, R171). -/
theorem memCause_clear (c : MemClear s t m) (hcore : AtCore s t m.names) : s.memCause t m = none := by
  have hloc := memLoc_clear hcore
  have hbase := locOf_names hcore (base_mem_names m)
  have hex : (s.memLoc t m != .lane) = !memAtLane s t m := by
    rw [hloc]
    cases memAtLane s t m <;> rfl
  have hpred : t.predPend (s.memLoc t m != .lane) m.o.p.num.toNat = false := by
    simpa [hex] using predPend_clear (t := t) (ps := [(!memAtLane s t m, m.o.p.num.toNat)])
      (fun e he ho q hq => by simp only [List.mem_singleton] at hq; subst hq; exact c.readyP e he ho)
  have hbank : (s.locOf t m.o.base).isBank = false := by
    rw [hbase]
    split
    · rfl
    · split <;> rfl
  have hshape : (s.locOf t m.o.base == .lane && s.memLoc t m != .lane) = false := by
    rw [hex]
    cases hat : memAtLane s t m with
    | true => simp
    | false =>
      rw [hbase]
      rcases c.shape hat with h | h
      · simp [h]
      · cases hn : Reg.noName m.o.base <;> simp [h]
  simp [State.memCause, firstCause, anyNone_clear hcore, anyPend_clear hcore, anyApart_clear hcore, hpred, dataBad_clear c hcore, hbank,
    hshape]

/-! ### Addresses -/

/-- BASE as it is read at a uniform place (R106, R175). -/
theorem uniBase_uniform (hquiet : s.Quiet t) (hloc : s.locOf t m.o.base = .imm ∨ s.locOf t m.o.base = .team) :
    s.uniBase t m = (some (s.uniVal t m.o.base m.baseRegs), s) := by
  have hone : ((s.uniVal t m.o.base 1).setWidth 32).setWidth 64 = s.uniVal t m.o.base 1 := by
    unfold State.uniVal
    split
    · rfl
    · simp
  rcases hloc with h | h
  · simp only [State.uniBase, h, readOne_quiet hquiet, readPair_quiet hquiet, MemDesc.baseRegs]
    split
    · rw [hone]
    · rfl
  · simp only [State.uniBase, h, readOne_quiet hquiet, readPair_quiet hquiet, MemDesc.baseRegs]
    split
    · rw [hone]
    · rfl

/-- BASE as the lanes read it (R106, R175). -/
theorem uniBase_lanes (hquiet : s.Quiet t) (hcore : AtCore s t m.names) : ∃ b, s.uniBase t m = (b, s) ∧
    ∀ l, m.laneBase b l = baseOf s t m l := by
  have hloc := locOf_names hcore (base_mem_names m)
  cases hat : (!Reg.noName m.o.base && (s.entry t m.o.base.toNat).kind == .lane) with
  | true =>
    have hlane : s.locOf t m.o.base = .lane := by simpa [hat] using hloc
    exact ⟨none, by simp only [State.uniBase, hlane], fun l => by simp [MemDesc.laneBase, baseOf, hat]⟩
  | false =>
    refine ⟨_, uniBase_uniform hquiet ?_, fun l => by simp [MemDesc.laneBase, baseOf, hat]⟩
    simp only [hat, Bool.false_eq_true, if_false] at hloc
    cases hn : Reg.noName m.o.base
    · exact .inr (by simpa [hn] using hloc)
    · exact .inl (by simpa [hn] using hloc)

/-- Addresses that neither ALIGN nor CPEER stops raise no trap (R168). -/
theorem addrTrap_reachable {bases : List DWord} (h : ∀ b ∈ bases, reachable s t m b) : s.addrTrap t.group m bases = none := by
  have halign : (bases.map m.ea).filter m.misaligned = [] := by
    refine List.filter_eq_nil_iff.2 fun a ha => ?_
    obtain ⟨b, hb, rfl⟩ := List.mem_map.1 ha
    have halign : (m.ea b).toNat % 2 ^ 32 % m.size = 0 := (h b hb).1
    simp only [MemDesc.misaligned, halign, bne_self_eq_false, Bool.false_eq_true, not_false_eq_true]
  have hpeer : bases.findSome? (s.peerBad t.group m) = none := List.findSome?_eq_none_iff.2 fun b hb => (h b hb).2
  simp only [State.addrTrap, halign, hpeer, Option.map_none]

/-! ### Targets and requests (R62, R169) -/

theorem rdNum_frame (s : State) (pa n : Nat) : ∃ v f, s.rdNum pa n = (v, { s with free := f }) := by
  obtain ⟨f, h⟩ := readClear_eq (n / 128 + 2) s pa n
  refine ⟨leNat (s.rdBytes pa n).1, f, ?_⟩
  rw [← h]
  rfl

theorem movedSlot_frame (s : State) (base g slot : Nat) : ∃ h f, s.movedSlot base g slot = (h, { s with free := f }) := by
  obtain ⟨a, f, ha⟩ := rdNum_frame s (base + 16 * slot) 8
  obtain ⟨b, f', hb⟩ := rdNum_frame { s with free := f } (base + 16 * slot + 8) 8
  simp only [State.movedSlot, ha, hb]
  split
  · exact ⟨_, f', rfl⟩
  · exact ⟨_, f, rfl⟩

theorem movedSearch_frame (s : State) (base g : Nat) (js : List Nat) : ∃ h f, s.movedSearch base g js = (h, { s with free := f }) := by
  induction js generalizing s with
  | nil => exact ⟨none, s.free, rfl⟩
  | cons j js ih =>
    obtain ⟨h, f, hslot⟩ := movedSlot_frame s base g ((g + j) % 4096)
    simp only [State.movedSearch, hslot]
    cases h with
    | some h => exact ⟨some h, f, rfl⟩
    | none => exact ih { s with free := f }

/-- A moved granule as a home cache holds it (R328, R339). -/
def movedEnt (a g : Nat) (h : Nat × Nat) : HomeEnt :=
  { asid := a, gran := g, ngran := 1, stack := h.1, firstch := h.2, log2ch := 0, moved := true }

/-- A home looked up changes at most a home cache. -/
theorem homeOf_frame (s : State) (v die va : Nat) : ∃ h d f, s.homeOf v die va = (h, { s with dies := d, free := f }) := by
  obtain ⟨h, f, hmoved⟩ : ∃ h f, (if (s.vd v).moved = 0 then (none, s)
      else s.movedSearch (s.vd v).moved.toNat (bitsAt va 16 40) (List.range 8)) = (h, { s with free := f }) := by
    split
    · exact ⟨none, s.free, rfl⟩
    · exact movedSearch_frame s _ _ _
  simp only [State.homeOf, hmoved]
  split
  · exact ⟨_, s.dies, s.free, rfl⟩
  · cases h with
    | some h =>
      obtain ⟨d, f', hhold⟩ := holdHome_eq { s with free := f } die (movedEnt (s.asid v) (bitsAt va 16 40) h)
      exact ⟨some h, d, f', congrArg (Prod.mk (some h)) hhold⟩
    | none =>
      dsimp only
      split
      · exact ⟨_, s.dies, f, rfl⟩
      · split
        · exact ⟨_, s.dies, f, rfl⟩
        · rename_i e _
          obtain ⟨d, f', hhold⟩ := holdHome_eq { s with free := f } die e
          exact ⟨some (e.place (bitsAt va 16 40)), d, f', congrArg (Prod.mk (some (e.place (bitsAt va 16 40)))) hhold⟩

theorem laneTarget_frame (s : State) (t : Team) (m : MemDesc) (l : PLane) : ∃ x d f,
    s.laneTarget t m l = (x, { s with dies := d, free := f }) := by
  unfold State.laneTarget
  dsimp only
  split
  · exact ⟨_, s.dies, s.free, rfl⟩
  · split
    case h_4 va _ =>
      obtain ⟨h, d, f, hhome⟩ := homeOf_frame s (s.vdOf t) (dieOf (s.coreOf t)) va
      rw [hhome]
      cases h with
      | none => exact ⟨_, d, f, rfl⟩
      | some h => exact ⟨_, d, f, rfl⟩
    all_goals exact ⟨_, s.dies, s.free, rfl⟩

/-- The lanes of a packet each have a target, in their order. -/
theorem laneTargets_frame (s : State) (t : Team) (m : MemDesc) (ls : List PLane) : ∃ xs d f,
    s.laneTargets t m ls = (xs, { s with dies := d, free := f }) ∧ xs.map (fun x => x.2) = ls := by
  induction ls generalizing s with
  | nil => exact ⟨[], s.dies, s.free, rfl, rfl⟩
  | cons l ls ih =>
    obtain ⟨x, d, f, hx⟩ := laneTarget_frame s t m l
    obtain ⟨xs, d', f', hxs, hlanes⟩ := ih { s with dies := d, free := f }
    refine ⟨((x, State.laneSector { s with dies := d', free := f' } t m l), l) :: xs, d', f', ?_, by simp [hlanes]⟩
    simp only [State.laneTargets, hx, hxs]

theorem nodup_eraseDups {α : Type} [BEq α] [LawfulBEq α] : ∀ l : List α, l.eraseDups.Nodup
  | [] => by simp
  | a :: l => by
    rw [List.eraseDups_cons]
    exact List.nodup_cons.2 ⟨fun h => by simpa using List.mem_eraseDups.1 h, nodup_eraseDups _⟩
termination_by l => l.length
decreasing_by exact Nat.lt_succ_of_le (List.length_filter_le _ _)

/-- Grouped by their keys, the elements of a list are those of the list. -/
theorem flatMap_filter_perm {α β : Type} [DecidableEq α] {ks : List α} (hks : ks.Nodup) {xs : List (α × β)} (h : ∀ x ∈ xs, x.1 ∈ ks) :
    (ks.flatMap (fun k => xs.filter (fun x => decide (x.1 = k)))).Perm xs := by
  induction ks generalizing xs with
  | nil =>
    have : xs = [] := List.eq_nil_iff_forall_not_mem.2 fun x hx => by simpa using h x hx
    simp [this]
  | cons k ks ih =>
    obtain ⟨hk, hks⟩ := List.nodup_cons.1 hks
    have hrest : ks.flatMap (fun j => xs.filter (fun x => decide (x.1 = j)))
        = ks.flatMap (fun j => (xs.filter (fun x => !decide (x.1 = k))).filter (fun x => decide (x.1 = j))) := by
      refine List.flatMap_congr fun j hj => ?_
      rw [List.filter_filter]
      refine List.filter_congr fun x _ => ?_
      have hne : j ≠ k := fun e => hk (e ▸ hj)
      by_cases hx : x.1 = j
      · simp [hx, hne]
      · simp [hx]
    have hperm := ih hks (xs := xs.filter (fun x => !decide (x.1 = k))) fun x hx => by
      obtain ⟨hmem, hne⟩ := List.mem_filter.1 hx
      exact (List.mem_cons.1 (h x hmem)).resolve_left (by simpa using hne)
    rw [List.flatMap_cons, hrest]
    exact (List.Perm.append_left _ hperm).trans (List.filter_append_perm (fun x => decide (x.1 = k)) xs)

/-- The requests of a packet have its lanes, each once (R169). -/
theorem groupSends_perm (op : ReqOp) (xs : List ((Target × Nat) × PLane)) :
    ((groupSends op xs).flatMap (fun x => x.lanes)).Perm (xs.map (fun x => x.2)) := by
  have hperm := flatMap_filter_perm (nodup_eraseDups (xs.map (fun x => x.1))) (xs := xs)
    (fun x hx => List.mem_eraseDups.2 (List.mem_map_of_mem hx))
  have hmap := hperm.map (fun x => x.2)
  rw [List.map_flatMap] at hmap
  rw [groupSends, List.flatMap_map]
  exact hmap

/-- The sends of a memory packet, none of whose lanes is done (R169). -/
theorem accessSends_frame (s : State) (t : Team) (m : MemDesc) {ls : List PLane} (hls : ∀ l ∈ ls, l.done = false) (hne : ls ≠ []) :
    ∃ xs d f, s.accessSends t m ls = (xs, { s with dies := d, free := f }) ∧ xs ≠ [] ∧ (∀ x ∈ xs, x.op = .access)
      ∧ (xs.flatMap (fun x => x.lanes)).Perm ls := by
  obtain ⟨ys, d, f, htargets, hlanes⟩ := laneTargets_frame s t m ls
  have hfilter : ls.filter (fun l => !l.done) = ls := List.filter_eq_self.2 fun l hl => by simp [hls l hl]
  have hperm := groupSends_perm .access ys
  rw [hlanes] at hperm
  refine ⟨groupSends .access ys, d, f, by simp only [State.accessSends, hfilter, htargets], fun hnil => ?_, fun x hx => ?_, hperm⟩
  · rw [hnil] at hperm
    exact hne (List.nil_perm.1 hperm)
  · obtain ⟨g, -, rfl⟩ := List.mem_map.1 hx
    rfl

end

end Sys2Proof.Claims
end

section
/-! PROOF. Memory instructions issued (O23), continued: the packet, its requests, and the park of a FEW load. -/

namespace Sys2Proof.Claims
open Sys2Proof.Machine

theorem raise_advance_kept (t : Team) (c : Ctr) (n : Nat) : ((t.raise c).advance n).parked = t.parked
    ∧ ((t.raise c).advance n).pendP = t.pendP ∧ ((t.raise c).advance n).div = t.div ∧ ((t.raise c).advance n).ctx = t.ctx := by
  simp only [Team.advance]
  cases c <;> split <;> exact ⟨rfl, rfl, rfl, rfl⟩

theorem stand_fams (s : State) (t : Team) : (s.stand t).fams = s.fams := by
  unfold State.stand; dsimp only; split <;> rfl

theorem stand_reqs (s : State) (t : Team) : (s.stand t).reqs = s.reqs := by
  unfold State.stand; dsimp only; split <;> rfl

theorem inFallback_of_div {t u : Team} (h : u.div = t.div) : u.inFallback = t.inFallback := by
  simp only [Team.inFallback, h]

section
variable {s : State} {t : Team} {m : MemDesc}

/-- BASE is not fetched where it lies at the core. -/
theorem baseFetches_atCore (hcore : AtCore s t m.names) : s.baseFetches t m = [] := by
  have hloc := locOf_names hcore (base_mem_names m)
  simp only [State.baseFetches, State.fetchesOf, hloc]
  split
  next h =>
    split at h
    · simp at h
    · split at h <;> simp at h
  next => rfl

/-- The requests of a packet whose sends are `xs` (R57, R169). -/
theorem reqs_of_sends {i : Instr} {c : Ctr} {uni : Bool} {ls : List PLane} {fs : List Fetch} {clock : Nat} {xs : List Send} {rs : List Req}
    (hop : ∀ x ∈ xs, x.op = .access) (hlanes : (xs.flatMap (fun x => x.lanes)).Perm ls)
    (hrs : rs.map (fun r => { r with id := 0, route := [] }) = xs.map (fun x => t.req clock (t.packet i .core c uni ls fs) x)) :
    (rs.flatMap (fun r => r.lanes)).Perm ls ∧ ∀ r ∈ rs, r.orphan = false ∧ r.instr = i ∧ r.ctx = t.ctx ∧ r.fam = t.fam ∧ r.group = t.group
      ∧ r.gen = t.gen ∧ r.seq = t.seq ∧ r.op = .access ∧ r.uniform = uni ∧ r.inst = .core := by
  refine ⟨?_, fun r hr => ?_⟩
  · have h := congrArg (List.flatMap (fun r : Req => r.lanes)) hrs
    rw [List.flatMap_map, List.flatMap_map] at h
    exact (h : rs.flatMap (fun r => r.lanes) = xs.flatMap (fun x => x.lanes)) ▸ hlanes
  · obtain ⟨x, hx, he⟩ := List.mem_map.1 (hrs ▸ List.mem_map_of_mem (f := fun r : Req => { r with id := 0, route := [] }) hr)
    have hfields := congrArg (fun r : Req => (r.orphan, r.instr, r.ctx, r.fam, r.group, r.gen, r.seq, r.op, r.uniform, r.inst)) he
    simp only [Prod.mk.injEq] at hfields
    obtain ⟨horphan, hinstr, hctx, hfam, hgroup, hgen, hseq, hop', huni, hinst⟩ := hfields
    exact ⟨horphan.symm, hinstr.symm, hctx.symm, hfam.symm, hgroup.symm, hgen.symm, hseq.symm, hop'.symm.trans (hop x hx), huni.symm,
      hinst.symm⟩

/-- A FEW load parks its team and changes nothing else (R177). -/
theorem parkFew_effect {u : Team} (hteam : s.team? t.ctx = some u) (hctx : u.ctx = t.ctx) (hfall : u.inFallback = false) (seq : BitVec 16) :
    ∃ s', s.parkFew t.ctx m seq = s' ∧ s'.team? t.ctx = some { u with parked := if m.o.few && m.kind.reads then .few else u.parked }
      ∧ s'.reqs = s.reqs ∧ s'.mem = s.mem ∧ s'.groups = s.groups ∧ s'.fams = s.fams ∧ ∀ c, c ≠ t.ctx → s'.team? c = s.team? c := by
  cases hfew : (m.o.few && m.kind.reads) with
  | false => exact ⟨s, by simp [State.parkFew, hfew], hteam, rfl, rfl, rfl, rfl, fun _ _ => rfl⟩
  | true =>
    refine ⟨s.stand { u with parked := .few }, by simp [State.parkFew, hfew, hteam, hfall], ?_, stand_reqs _ _, stand_mem _ _,
      stand_groups _ _, stand_fams _ _, fun c hc => ?_⟩
    · rw [stand_team?, if_pos hctx]
      rfl
    · rw [stand_team?, if_neg (fun h => hc (h.symm.trans hctx))]

/-- A memory instruction of some lanes, of which none is done, issues (R57, R61, R169). -/
theorem sendMem_sent {i : Instr} {uni : Bool} {ls : List PLane} (hteam : s.team? t.ctx = some t) (hpath : pathVids t.div = none)
    (hfall : t.inFallback = false) (hcore : AtCore s t m.names) (hroom : t.ctr (m.ctr false) < 63) (hls : ∀ l ∈ ls, l.done = false)
    (hne : ls ≠ []) : Sent i m uni ls s (s.sendMem t i m uni ls) t := by
  obtain ⟨xs, d, f, hsends, hxs, hop, hlanes⟩ := accessSends_frame s t m hls hne
  have hfull : t.full (m.ctr false) = false := decide_eq_false hroom.not_ge
  obtain ⟨⟨k, hthere⟩, ⟨rs, hreqs, hbare⟩, hmem, hgroups, hfams, hothers⟩ := issuePacket_packed
    (s := { s with dies := d, free := f }) (n := 1) (pend := m.pend) (pendP := []) (pk := t.packet i .core (m.ctr false) uni ls [])
    (xs := xs) hteam hroom rfl rfl hxs
  set s1 := State.issuePacket { s with dies := d, free := f } t.ctx 1 (t.packet i .core (m.ctr false) uni ls []) m.pend [] xs
  obtain ⟨hperm, hfields⟩ := reqs_of_sends hop hlanes hbare
  obtain ⟨hparked, hpendP, hdiv, hctx⟩ := raise_advance_kept t (m.ctr false) 1
  have hpacket : (t.packet i .core (m.ctr false) uni ls []).path = [] := by simp [Team.packet, hpath]
  have hsend : s.sendMem t i m uni ls = s1.parkFew t.ctx m t.seq := by
    have hctr : (t.packet i .core (m.ctr false) uni ls []).ctr = m.ctr false := rfl
    simp only [State.sendMem, baseFetches_atCore hcore, hctr, hfull, Bool.false_eq_true, if_false, hsends]
    rfl
  obtain ⟨s', hs', hthere', hreqs', hmem', hgroups', hfams', hothers'⟩ := parkFew_effect (m := m) hthere hctx
    ((inFallback_of_div hdiv).trans hfall) t.seq
  have hctr : (t.packet i .core (m.ctr false) uni ls []).ctr = m.ctr false := rfl
  rw [hsend, hs']
  refine ⟨⟨noteSend t.gen s.clock t.sends, k, hthere'.trans (congrArg some ?_)⟩, ⟨rs, hreqs'.trans hreqs, hperm, hfields⟩,
    hmem'.trans hmem, hgroups'.trans hgroups, hfams'.trans hfams, fun c hc => (hothers' c hc).trans (hothers c hc)⟩
  simp only [hctr, hpacket, hparked, hpendP, List.map_nil, List.append_nil]

/-- Putting a team back as it is changes nothing that an issue is told by. -/
theorem Sent.of_setTeam {i : Instr} {uni : Bool} {ls : List PLane} {s' : State} (h : Sent i m uni ls (s.setTeam t) s' t) :
    Sent i m uni ls s s' t := by
  obtain ⟨hteam, hreqs, hmem, hgroups, hfams, hothers⟩ := h
  exact ⟨hteam, hreqs, hmem, hgroups, hfams, fun c hc => (hothers c hc).trans (s.team?_setTeam_ne t hc)⟩

/-! ### At LANE -/

/-- Without an open span no access is marked, and none aborts a lane (R187). -/
theorem txMark_of_no_span (hspan : t.span = none) (ea : DWord) (l : Lane) : txMark t m ea l = 0 := by
  simp [txMark, hspan]

theorem txAborts_of_no_span (hspan : t.span = none) (ls : List (Lane × DWord)) : txAborts t ls m = [] := by
  simp [txAborts, txMark_of_no_span hspan]

theorem abortTx_none (t : Team) (st : TxSt) : t.abortTx (fun l => ([] : List Nat).contains l.vid) st = t := by
  simp [Team.abortTx, Team.mapLanes]

/-- BASE lies at the core. -/
theorem base_not_mem (hcore : AtCore s t m.names) : (s.locOf t m.o.base).isMem = false := by
  rw [locOf_names hcore (base_mem_names m)]
  split
  · rfl
  · split <;> rfl

/-- What a memory instruction at LANE does (R173). -/
theorem memAtLanes_eq {i : Instr} (c : MemClear s t m) (hcore : AtCore s t m.names) (hspan : t.span = none)
    (haddr : ∀ l ∈ t.active m.o.p, reachable s t m (baseOf s t m l)) : s.memAtLanes t i m =
      if t.active m.o.p = [] then s.advance t.ctx 1
      else (s.setTeam t).sendMem t i m false ((t.active m.o.p).map (fun l =>
        pLane l.vid ((if m.kind.takes then laneWords l m.o.data m.regs else []) ++ [0]) (m.ea (baseOf s t m l)))) := by
  obtain ⟨b, hbase, hlane⟩ := uniBase_lanes c.quiet hcore
  have htrap : s.addrTrap t.group m ((t.active m.o.p).map (fun l => baseOf s t m l)) = none :=
    addrTrap_reachable fun a ha => by
      obtain ⟨l, hl, rfl⟩ := List.mem_map.1 ha
      exact haddr l hl
  simp only [State.memAtLanes, base_not_mem hcore, hbase, hlane, List.map_map, Function.comp_def, Bool.false_eq_true, if_false, htrap,
    txAborts_of_no_span hspan, txMark_of_no_span hspan, abortTx_none]
  by_cases hact : t.active m.o.p = []
  · simp [hact]
  · simp [hact]

/-! ### At the uniform unit -/

theorem teamWords_quiet (hquiet : s.Quiet t) (r : Reg) (n : Nat) : s.teamWords t r n =
    ((List.range n).map (fun k => if r = Reg.z then 0 else (s.uni t (r.toNat + k)).setWidth 64), s) := by
  induction n with
  | zero => rfl
  | succ n ih =>
    simp only [State.teamWords, ih, List.range_succ, List.map_append, List.map_cons, List.map_nil]
    split
    · rfl
    · simp only [readUni_quiet hquiet]

/-- What a memory instruction at the uniform unit does (R174). -/
theorem memAtTeam_eq {i : Instr} (c : MemClear s t m) (hcore : AtCore s t m.names) (hat : memAtLane s t m = false)
    (haddr : reachable s t m (s.uniVal t m.o.base m.baseRegs)) : s.memAtTeam t i m =
      if s.qHolds t m.o.p then s.sendMem t i m true [pLane 0 ((if m.kind.takes then (List.range m.regs).map (fun k =>
        if m.o.data = Reg.z then 0 else (s.uni t (m.o.data.toNat + k)).setWidth 64) else []) ++ [0])
          (m.ea (s.uniVal t m.o.base m.baseRegs))]
      else s.advance t.ctx 1 := by
  have hloc : s.locOf t m.o.base = .imm ∨ s.locOf t m.o.base = .team := by
    rw [locOf_names hcore (base_mem_names m)]
    cases hn : Reg.noName m.o.base with
    | true => simp
    | false => simp [(c.shape hat).resolve_left (by simp [hn])]
  have htrap : s.addrTrap t.group m [s.uniVal t m.o.base m.baseRegs] = none :=
    addrTrap_reachable fun a ha => by
      obtain rfl := List.mem_singleton.1 ha
      exact haddr
  simp only [State.memAtTeam, base_not_mem hcore, uniBase_uniform c.quiet hloc, Option.getD_some, Bool.false_eq_true, if_false, htrap,
    qPred_quiet c.quiet, teamWords_quiet c.quiet]
  cases s.qHolds t m.o.p <;> cases m.kind.takes <;> rfl

/-! ### The instruction -/

/-- A memory instruction that nothing stops executes at LANE or at the uniform unit (R48, R174). -/
theorem exec_mem {i : Instr} (hm : memOf i = some m) (hrun : s.Runs t) (hspan : t.span = none) (c : MemClear s t m)
    (hcore : AtCore s t m.names) : exec i s = .next (if memAtLane s t m then (s.setTeam t).memAtLanes t i m
      else (s.setTeam t).memAtTeam t i m) := by
  have c1 : MemClear (s.setTeam t) t m := MemClear.of_fams (s := s) rfl c
  have hcore1 : AtCore (s.setTeam t) t m.names := ⟨hcore.placed, hcore.ready, hcore.pos⟩
  have hat : memAtLane (s.setTeam t) t m = memAtLane s t m := rfl
  rw [memOf_exec hm, State.issueMem, byTeam_team hrun, issuing_of_no_span hspan]
  simp only [memCause_clear c1 hcore1, memLoc_clear hcore1, hat]
  cases memAtLane s t m <;> rfl

end

end Sys2Proof.Claims
end

/-- Settles O23: by `Sys2Proof.Claims.memAtLanes_eq` and `Sys2Proof.Claims.memAtTeam_eq`, a memory instruction sends its
packet, which `Sys2Proof.Claims.sendMem_sent` describes. -/
theorem memoryIssue : Obligations.MemoryIssue := by
  unfold Obligations.MemoryIssue
  intro i m s t hm _ hrun hspan hpath hfall c hroom words uniWords act
  have hcore := c.atCore (Sys2Proof.Claims.memOf_regs_pos hm)
  have hexec := Sys2Proof.Claims.exec_mem hm hrun hspan c hcore
  have c1 := Sys2Proof.Claims.MemClear.of_fams (s := s) (s' := s.setTeam t) rfl c
  have hcore1 := c1.atCore (Sys2Proof.Claims.memOf_regs_pos hm)
  refine ⟨fun hat haddr => ?_, fun hat haddr => ?_⟩
  · rw [if_pos hat, Sys2Proof.Claims.memAtLanes_eq c1 hcore1 hspan haddr] at hexec
    refine ⟨fun hact => ?_, fun hact => ?_⟩
    · rw [if_neg hact] at hexec
      refine ⟨_, hexec, Sys2Proof.Claims.Sent.of_setTeam (Sys2Proof.Claims.Sent.of_setTeam ?_)⟩
      refine Sys2Proof.Claims.sendMem_sent (Sys2Proof.Machine.State.team?_setTeam_same _ t) hpath hfall
        ⟨hcore.placed, hcore.ready, hcore.pos⟩ hroom (fun l hl => ?_) (fun hnil => hact (List.map_eq_nil_iff.1 hnil))
      obtain ⟨x, -, rfl⟩ := List.mem_map.1 hl
      rfl
    · rw [if_pos hact] at hexec
      exact ⟨_, hexec, Sys2Proof.Claims.advance_alone 1⟩
  · rw [if_neg (by simp [hat]), Sys2Proof.Claims.memAtTeam_eq c1 hcore1 hat haddr] at hexec
    refine ⟨fun hq => ?_, fun hq => ?_⟩
    · have hq1 : (s.setTeam t).qHolds t m.o.p = true := hq
      rw [if_pos hq1] at hexec
      refine ⟨_, hexec, (Sys2Proof.Claims.sendMem_sent (s.team?_setTeam_same t) hpath hfall hcore1 hroom (fun l hl => ?_)
        (List.cons_ne_nil _ _)).of_setTeam⟩
      obtain rfl := List.mem_singleton.1 hl
      rfl
    · have hq1 : (s.setTeam t).qHolds t m.o.p = false := hq
      rw [hq1, if_neg Bool.false_ne_true] at hexec
      exact ⟨_, hexec, Sys2Proof.Claims.advance_alone 1⟩

section
/-! PROOF. Loop nests (O47): the tuples and addresses of a nest, and the values of its operation. -/

namespace Sys2Proof.Claims
open Sys2Proof.Machine

/-! ### Addresses (R247) -/

/-- The tuple of number `i` of a nest is its indices. -/
theorem tupleOf_levels (n : FN) (i d a : Nat) :
    tupleOf (i / ((List.range a).map (fun j => (n.extent j).toNat + 1)).prod) ((List.range' a d).map (fun k => (n.extent k).toNat + 1))
      = (List.range' a d).map (nestIndex n i) := by
  induction d generalizing a with
  | zero => rfl
  | succ d ih =>
    have hstep : i / ((List.range a).map (fun j => (n.extent j).toNat + 1)).prod / ((n.extent a).toNat + 1)
        = i / ((List.range (a + 1)).map (fun j => (n.extent j).toNat + 1)).prod := by
      rw [Nat.div_div_eq_div_mul, List.range_succ, List.map_append, List.prod_append]
      simp
    simp only [List.range'_succ, List.map_cons, tupleOf, Nat.succ_ne_zero, if_false, hstep, ih]
    rfl

theorem tupleOf_exts (n : FN) (i : Nat) : tupleOf i (FN.exts n) = (FN.levels n).map (nestIndex n i) := by
  have h := tupleOf_levels n i n.depth.toNat 0
  simpa [FN.exts, FN.levels, List.range_eq_range'] using h

theorem foldl_add_eq_sum {α : Type} (f : α → Int) (l : List α) (c : Int) : l.foldl (fun a x => a + f x) c = c + (l.map f).sum := by
  induction l generalizing c with
  | nil => simp
  | cons x l ih => simp [ih, add_assoc]

/-- The address of operand `x` at tuple `i` (R247). -/
theorem adr_tupleOf (n : FN) (z x : Nat) (base : DWord) (i : Nat) : FN.adr n z x base (tupleOf i (FN.exts n)) =
    base + BitVec.ofInt 64 (((FN.levels n).map (fun k =>
      ((z * 2 ^ FN.shift n x : Nat) : Int) * (n.stride (3 * k + x)).toInt * (nestIndex n i k : Int))).sum) := by
  have hzip : (FN.levels n).zip ((FN.levels n).map (nestIndex n i)) = (FN.levels n).map (fun k => (k, nestIndex n i k)) := by
    simpa using List.zip_map' (f := fun k => k) (g := nestIndex n i) (l := FN.levels n)
  rw [FN.adr, tupleOf_exts, hzip, List.foldl_map, foldl_add_eq_sum, zero_add, ← List.sum_map_mul_left]
  simp only [mul_comm, mul_assoc]

/-! ### Values (R246) -/

theorem packElems_mod (w : Nat) (l : List Nat) : packElems w (l.map (fun x => x % 2 ^ w)) = packElems w l := by
  induction l with
  | nil => rfl
  | cons x l ih => simp [packElems, ih]

/-- An element-wise operation that gives values of any size, of which each element keeps its bits. -/
theorem perElem_eq_each_ofNat {w n : Nat} (hn : w * n ≤ 64) (f : Nat → Nat × Flags) :
    perElem w n f = each w n (fun e => (BitVec.ofNat w (f e).1, (f e).2)) := by
  rw [← perElem_eq_each hn (fun e => ((f e).1 % 2 ^ w, (f e).2)) _ fun e => by simp]
  refine Prod.ext ?_ ?_
  · simp only [perElem, List.map_map, ← packElems_mod w (List.map ((fun r => r.1) ∘ f) _)]
    rfl
  · simp only [perElem, List.foldl_map]

theorem joinFlags_zero (n : Nat) : joinFlags ((List.range n).map (fun _ => (0 : Flags))) = 0 := by
  rw [joinFlags, List.foldl_map]
  induction n with
  | zero => rfl
  | succ n ih => rw [List.range_succ, List.foldl_append, ih]; rfl

/-- Without SAT an integer operation raises no flag (R83). -/
theorem elemwise_flags (ty : Ty) (x : Int → Int → Int → Int) (l : List DWord) : (elemwise ty false x l).2 = 0 := by
  have hfit : ∀ (w : Nat) (sgn : Bool) (y : Int), (fit w sgn false y).2 = 0 := fun w sgn y => by simp [fit]
  simp only [elemwise, each, hfit, joinFlags_zero]

/-- The value of an integer nest operation on operands in the order that the model has them. -/
theorem nestInt_eq (op : NestOp) (ty : Ty) (l : List DWord) :
    ((intElems ty false (NestOp.int op) l).1, (0 : Flags)) = elemwise ty false (NestOp.int op) l := by
  rw [intElems_eq_elemwise, ← elemwise_flags ty (NestOp.int op) l]

/-- The operations that are neither copies nor bitwise. -/
def computing : NestOp → Bool
  | .copy | .and | .or | .xor => false
  | _ => true

/-- The operands of a nest's operation: A and B, or D and A where it reduces, and D (R246). -/
def nestOperands (op : NestOp) (red : Bool) (d a b : DWord) : List DWord :=
  if red && op != .mac then [d, a, d] else [a, b, d]

/-- An operation on integers (R246). -/
theorem apply_int {op : NestOp} {ty : Ty} (hop : computing op = true) (hty : Ty.isFloat ty = false) (red : Bool) (d a b : DWord) :
    NestOp.apply op ty red d a b = elemwise ty false (NestOp.int op) (nestOperands op red d a b) := by
  rw [← nestInt_eq]
  unfold NestOp.apply nestOperands
  cases op with
  | copy | and | or | xor => simp [computing] at hop
  | add | sub | mul | min | max | mac => cases red <;> simp [hty]

/-- A fused multiply-add of a nest (R246, R148). -/
theorem apply_mac_float {ty : Ty} (hty : Ty.isFloat ty = true) (red : Bool) (d a b : DWord) : NestOp.apply .mac ty red d a b =
    feach ty (fun f v => f.dot .rn false [(v 1, v 2)] (v 0)) [d, a, b] := by
  have hred : (red && NestOp.mac != .mac) = false := by simp
  simp only [NestOp.apply, hred, hty, if_true, Bool.false_eq_true, if_false, perElem_eq_each_ofNat (elemBits_mul_elems ty), feach,
    elemOf_eq_el, NestOp.float]
  rfl

/-- The values of a nest's operation on integers and bits, and its fused multiply-add (R246). -/
theorem apply_values (ty : Ty) (d a b : DWord) :
    (∀ red, Ty.isFloat ty = false → NestOp.apply .mac ty red d a b = elemwise ty false (fun d a b => d + a * b) [d, a, b])
    ∧ (Ty.isFloat ty = false →
      NestOp.apply .copy ty false d a b = (a, 0) ∧ NestOp.apply .add ty false d a b = elemwise ty false (fun _ a b => a + b) [d, a, b]
      ∧ NestOp.apply .sub ty false d a b = elemwise ty false (fun _ a b => a - b) [d, a, b]
      ∧ NestOp.apply .mul ty false d a b = elemwise ty false (fun _ a b => a * b) [d, a, b]
      ∧ NestOp.apply .min ty false d a b = elemwise ty false (fun _ a b => min a b) [d, a, b]
      ∧ NestOp.apply .max ty false d a b = elemwise ty false (fun _ a b => max a b) [d, a, b]
      ∧ NestOp.apply .add ty true d a b = elemwise ty false (fun d a _ => d + a) [d, a, b]
      ∧ NestOp.apply .min ty true d a b = elemwise ty false (fun d a _ => min d a) [d, a, b]
      ∧ NestOp.apply .max ty true d a b = elemwise ty false (fun d a _ => max d a) [d, a, b]) := by
  refine ⟨fun red hty => ?_, fun hty => ⟨rfl, ?_⟩⟩
  · rw [apply_int rfl hty]
    cases red <;> rfl
  · exact ⟨apply_int rfl hty false d a b, apply_int rfl hty false d a b, apply_int rfl hty false d a b, apply_int rfl hty false d a b,
      apply_int rfl hty false d a b, apply_int rfl hty true d a b, apply_int rfl hty true d a b, apply_int rfl hty true d a b⟩

end Sys2Proof.Claims
end

section
/-! PROOF. Ragged rows (O47): the lengths that a `ragged` reads in its scratchpad and the positions that it hands out. -/

namespace Sys2Proof.Claims
open Sys2Proof.Machine

/-! ### The table of row lengths (R249) -/

theorem leNat_lt (l : List Byte) : leNat l < 256 ^ l.length := by
  induction l with
  | nil => simp [leNat]
  | cons b l ih =>
    have hb := b.isLt
    simp only [leNat, List.length_cons, Nat.pow_succ]
    omega

theorem length_readN (m : Mem) (a n : Nat) : (Mem.readN m a n).length = n := by
  induction n generalizing a with
  | zero => rfl
  | succ n ih => simp [Mem.readN, ih]

/-- The length of row `r` of a table at offset `off`. -/
def rowLen (m : Group) (off r : Nat) : Nat := m.spadNum (off + 4 * r) 4

theorem rowLen_lt (m : Group) (off r : Nat) : rowLen m off r < 2 ^ 32 := by
  have h := leNat_lt (Mem.readN m.spad (off + 4 * r) 4)
  rw [length_readN] at h
  exact h

theorem poisoned_mono {m : Group} {off n a k : Nat} (h : m.poisoned off n = false) (hlo : off ≤ a) (hhi : a + k ≤ off + n) :
    m.poisoned a k = false := by
  simp only [Group.poisoned, List.any_eq_false, List.mem_range] at h ⊢
  intro i hi
  have := h (a - off + i) (by omega)
  rwa [show off + (a - off + i) = a + i by omega] at this

theorem localAddr_toNat {off : Nat} (h : off < 2 ^ 32) : (localAddr off).toNat = 0xFE00_0000_0000_0000 + off := by
  have hor := Nat.two_pow_add_eq_or_of_lt h 0xFE00_0000
  simp only [localAddr, BitVec.toNat_or, BitVec.toNat_ofNat]
  rw [Nat.mod_eq_of_lt (by omega : off < 2 ^ 64)]
  exact hor.symm

/-- The address of a row in the local window leads to the scratchpad (R167). -/
theorem space_row {s : State} {g off n r : Nat} (hsound : Sound (s.group g) off (4 * n)) (hfit : off + 4 * n ≤ 2 ^ 32) (hr : r < n) :
    s.space g true (localAddr off + BitVec.ofNat 64 (4 * r)) 4 = .spad g (off + 4 * r) := by
  obtain ⟨hlen, hoff, -⟩ := hsound
  have hea : (localAddr off + BitVec.ofNat 64 (4 * r)).toNat = 0xFE00_0000_0000_0000 + (off + 4 * r) := by
    rw [BitVec.toNat_add, localAddr_toNat hoff, BitVec.toNat_ofNat]
    omega
  have htop : ((localAddr off + BitVec.ofNat 64 (4 * r)) >>> 56).toNat = 0xFE := by
    rw [BitVec.toNat_ushiftRight, hea, Nat.shiftRight_eq_div_pow]
    omega
  have hlow : (0xFE00_0000_0000_0000 + (off + 4 * r)) % 2 ^ 32 = off + 4 * r := by omega
  have hmid : bitsAt (0xFE00_0000_0000_0000 + (off + 4 * r)) 32 24 = 0 := by
    unfold bitsAt
    omega
  have hin : off + 4 * r + 4 ≤ (s.group g).spadLen := by omega
  simp only [State.space, htop, hea, hlow, hmid, State.inSpad]
  simp [hin]

/-- A row's length is what its four bytes hold. -/
theorem readEa_row {s : State} {t : Team} (w : Who) {off n r : Nat} (hsound : Sound (s.group t.group) off (4 * n)) (hfit : off + 4 * n ≤ 2 ^ 32)
    (hr : r < n) : s.readEa t w (localAddr off + BitVec.ofNat 64 (4 * r)) 4 = (.data ((s.group t.group).spadRead (off + 4 * r) 4), s) := by
  obtain ⟨hlen, hoff, hclean⟩ := hsound
  have hpoison : (s.group t.group).poisoned (off + 4 * r) 4 = false := poisoned_mono hclean (by omega) (by omega)
  simp only [State.readEa, space_row ⟨hlen, hoff, hclean⟩ hfit hr, hpoison, Bool.false_eq_true, if_false]

/-! ### Rows skipped and handed out (R249) -/

/-- What a `ragged` has read is true of its table, and nothing has stopped it. -/
structure TableRead (m : Group) (off : Nat) (rd : RagRead) : Prop where
  stop : rd.stop = none
  lens : ∀ r v, Tbl.get? rd.lens r = some v → v = rowLen m off r

theorem TableRead.set {m : Group} {off : Nat} {rd : RagRead} (h : TableRead m off rd) (r : Nat) :
    TableRead m off { rd with lens := Tbl.set rd.lens r (rowLen m off r) } where
  stop := h.stop
  lens k v hk := by
    rw [Tbl.get?_set] at hk
    split at hk
    · next hrk => rw [← Option.some.inj hk, hrk]
    · exact h.lens k v hk

section
variable {s : State} {t : Team} {off n : Nat}

/-- Of a row that is not past the last, the length, read or known, tells whether it has ended. -/
theorem ragSkip_step (w : Who) (hsound : Sound (s.group t.group) off (4 * n)) (hfit : off + 4 * n ≤ 2 ^ 32) (fuel : Nat) {rc : Nat × Nat}
    {rd : RagRead} (hrd : TableRead (s.group t.group) off rd) (hr : ¬ n ≤ rc.1) : s.ragSkip t w (localAddr off) n (fuel + 1) rc rd =
      if rowLen (s.group t.group) off rc.1 ≤ rc.2 then s.ragSkip t w (localAddr off) n fuel (rc.1 + 1, 0)
        { rd with lens := Tbl.set rd.lens rc.1 (rowLen (s.group t.group) off rc.1) }
      else (rc, { rd with lens := Tbl.set rd.lens rc.1 (rowLen (s.group t.group) off rc.1) }, s) := by
  have hgo : (decide (n ≤ rc.1) || rd.stop.isSome) = false := by simp [hr, hrd.stop]
  cases hget : Tbl.get? rd.lens rc.1 with
  | some v =>
    have hv : leNat (leBytes 4 v) = rowLen (s.group t.group) off rc.1 := by
      rw [leNat_leBytes, hrd.lens rc.1 v hget]
      exact Nat.mod_eq_of_lt (rowLen_lt _ _ _)
    simp only [State.ragSkip, hgo, hget, hv, Bool.false_eq_true, if_false]
  | none =>
    have hv : leNat ((s.group t.group).spadRead (off + 4 * rc.1) 4) = rowLen (s.group t.group) off rc.1 := rfl
    simp only [State.ragSkip, hgo, hget, readEa_row w hsound hfit (Nat.lt_of_not_le hr), hv, Bool.false_eq_true, if_false]

/-- Rows that have ended are skipped. -/
theorem ragSkip_eq (w : Who) (hsound : Sound (s.group t.group) off (4 * n)) (hfit : off + 4 * n ≤ 2 ^ 32) (fuel : Nat) (rc : Nat × Nat)
    {rd : RagRead} (hrd : TableRead (s.group t.group) off rd) : ∃ rd', TableRead (s.group t.group) off rd'
      ∧ s.ragSkip t w (localAddr off) n fuel rc rd = (rowAt (rowLen (s.group t.group) off) n fuel rc, rd', s) := by
  induction fuel generalizing rc rd with
  | zero => exact ⟨rd, hrd, rfl⟩
  | succ fuel ih =>
    by_cases hend : n ≤ rc.1
    · exact ⟨rd, hrd, by simp [State.ragSkip, rowAt, hend]⟩
    · rw [ragSkip_step w hsound hfit fuel hrd hend, rowAt, if_neg hend]
      split
      · exact ih (rc.1 + 1, 0) (hrd.set rc.1)
      · exact ⟨_, hrd.set rc.1, rfl⟩

/-- Skipping ends at a position within a row, or past the last. -/
theorem rowAt_within (len : Nat → Nat) (n fuel : Nat) (rc : Nat × Nat) (h : n < fuel + rc.1) :
    n ≤ (rowAt len n fuel rc).1 ∨ (rowAt len n fuel rc).2 < len (rowAt len n fuel rc).1 := by
  induction fuel generalizing rc with
  | zero => exact .inl (by simp only [rowAt]; omega)
  | succ fuel ih =>
    simp only [rowAt]
    split
    · next hend => exact .inl hend
    · split
      · exact ih (rc.1 + 1, 0) (by simp only; omega)
      · next hrow => exact .inr (by omega)

/-- The positions that a `ragged` hands out (R249). -/
theorem ragHand_eq (w : Who) (hsound : Sound (s.group t.group) off (4 * n)) (hfit : off + 4 * n ≤ 2 ^ 32) (ls : List PLane)
    (rc : Nat × Nat) {rd : RagRead} (hrd : TableRead (s.group t.group) off rd) :
    (s.ragHand t w (localAddr off) n ls rc rd).1 =
      List.zipWith (fun l r => ansLane l.vid (if n ≤ r.1 then [BitVec.ofNat 64 n, 0, 1]
        else [BitVec.ofNat 64 r.1, BitVec.ofNat 64 r.2, boolOp (r.2 == 0)])) ls
        (handed (rowLen (s.group t.group) off) n ls.length rc) := by
  induction ls generalizing rc rd with
  | nil => rfl
  | cons l ls ih =>
    obtain ⟨rd', hrd', hskip⟩ := ragSkip_eq w hsound hfit (n + 1) rc hrd
    set r := rowAt (rowLen (s.group t.group) off) n (n + 1) rc with hr
    have hnext : (if n ≤ r.1 then r else (r.1, (r.2 + 1) % 2 ^ 32)) = if n ≤ r.1 then r else (r.1, r.2 + 1) := by
      by_cases hend : n ≤ r.1
      · simp [hend]
      · have hrow := (rowAt_within (rowLen (s.group t.group) off) n (n + 1) rc (by omega)).resolve_left hend
        have hlt := rowLen_lt (s.group t.group) off r.1
        rw [← hr] at hrow
        simp only [hend, if_false]
        rw [Nat.mod_eq_of_lt (by omega)]
    have hrest := ih (if n ≤ r.1 then r else (r.1, r.2 + 1)) hrd'
    simp only [State.ragHand, hskip, hnext, hrest, List.length_cons, handed, ← hr, List.zipWith_cons_cons, decide_eq_true_eq]

end

end Sys2Proof.Claims
end

section
/-! PROOF. The issue of `nest` and `ragged` (O47). -/

namespace Sys2Proof.Claims
open Sys2Proof.Machine

/-! ### Addresses outside the windows of members -/

/-- Only an address of the member window can name a member that there is not (R27, R167). -/
theorem space_ne_cpeer {ea : DWord} (h : ea >>> 56 ≠ 0xFD) (s : State) (g : Nat) (window : Bool) (k o : Nat) :
    s.space g window ea k ≠ .cpeer o := by
  have htop : (ea >>> 56).toNat ≠ 0xFD := fun heq => h (BitVec.eq_of_toNat_eq heq)
  have hin : ∀ off, s.inSpad g off k ≠ .cpeer o := fun off => by
    unfold State.inSpad
    split <;> simp
  unfold State.space
  dsimp only
  split
  · simp
  · split
    · simp
    · split
      · exact hin _
      · rw [if_neg (fun h => htop h.1)]
        simp

/-- A search for such a member among addresses outside the member window finds none. -/
theorem findSome?_cpeer_none {α : Type} {l : List α} {f : α → DWord} (h : ∀ x ∈ l, f x >>> 56 ≠ 0xFD) (s : State) (g k : Nat) :
    l.findSome? (fun x => match s.space g true (f x) k with
      | .cpeer o => some o
      | _ => none) = none := by
  refine List.findSome?_eq_none_iff.2 fun x hx => ?_
  split
  next o heq => exact absurd heq (space_ne_cpeer (h x hx) s g true k o)
  next => rfl

theorem nestPeer_none {op : NestOp} {ty : Ty} {n : FN} {bases : List DWord}
    (h : ∀ k, k < FN.count n → ∀ x ∈ nestAddrs op ty n bases k, x.2 >>> 56 ≠ 0xFD) (s : State) (g : Nat) :
    s.nestPeer g op ty n bases = none :=
  List.findSome?_eq_none_iff.2 fun k hk => findSome?_cpeer_none (h k (List.mem_range.1 hk)) s g _

/-! ### A packet of four words, or nothing -/

section
variable {s : State} {t : Team}

theorem Packed.of_setTeam {s' : State} {n : Nat} {pk : Packet} {pend pendP : List Nat} {xs : List Send}
    (h : Packed (s.setTeam t) s' t n pk pend pendP xs) : Packed s s' t n pk pend pendP xs := by
  obtain ⟨hteam, hreqs, hmem, hgroups, hfams, hothers⟩ := h
  exact ⟨hteam, hreqs, hmem, hgroups, hfams, fun c hc => (hothers c hc).trans (s.team?_setTeam_ne t hc)⟩

/-! ### NEST -/

section
variable {op : NestOp} {ty : Ty} {n : FN}

theorem nestRegs_pos : ∀ x ∈ nestRegs op n, 0 < x.2 := by
  unfold nestRegs
  split <;> simp

/-- What a nest that nothing stops does (R246). -/
theorem exec_nest (hrun : s.Runs t) (hspan : t.span = none) (c : UniClear s t (nestRegs op n) n.p) {d a b : DWord}
    (hd : d = s.uniVal t n.bd 2) (ha : a = s.uniVal t n.ba 2) (hb : b = if NestOp.usesB op (FN.reduces n) then s.uniVal t n.bb 2 else 0)
    (halign : ∀ x ∈ [d, a, b], x.toNat % nestBytes ty = 0)
    (hpeer : ∀ k, k < FN.count n → ∀ x ∈ nestAddrs op ty n [d, a, b] k, x.2 >>> 56 ≠ 0xFD) :
    exec (.nest op ty n) s = .next (if s.qHolds t n.p then (s.setTeam t).issuePacket t.ctx 4
        (t.packet (.nest op ty n) .core .st true [pLane 0 [d, a, b, 0] 0] []) [] []
        [{ target := .core (s.coreOf t), op := .access, lanes := [pLane 0 [d, a, b, 0] 0] }]
      else (s.setTeam t).advance t.ctx 4) := by
  have hcause := teamRegsCause_uniClear c.setTeam nestRegs_pos
  have hguard := fun off on => guarded_uniClear c.setTeam.noRegs (by simp) 4 off on
  have hq := c.setTeam.quiet
  have hbad : [d, a, b].any (fun x => x.toNat % nestBytes ty != 0) = false :=
    List.any_eq_false.2 fun x hx => by simp [halign x hx]
  have hd1 : d = (s.setTeam t).uniVal t n.bd 2 := hd
  have ha1 : a = (s.setTeam t).uniVal t n.ba 2 := ha
  have hb1 : (if NestOp.usesB op (FN.reduces n) then ((s.setTeam t).uniVal t n.bb 2, s.setTeam t) else (0, s.setTeam t)) = (b, s.setTeam t) := by
    rw [hb]
    split <;> rfl
  change execNest op ty n s = _
  rw [execNest, byTeam_team hrun, issuing_of_no_span hspan]
  simp only [hcause, readPair_quiet hq, ← hd1, ← ha1, hb1, hbad, Bool.false_eq_true, if_false, nestPeer_none hpeer, hguard]
  rfl

end

/-! ### RAGGED -/

section
variable {pr : BitVec 3} {n : FN}

/-- An operand that names some register names its own number. -/
theorem self_mem_regNums {r : Reg} {m k : Nat} (hm : 0 < m) (hk : k ∈ regNums r m) : r.toNat ∈ regNums r m := by
  refine mem_self_regNums hm ?_
  by_contra h
  have h' : Reg.noName r = true := by simpa using h
  simp only [Reg.noName] at h'
  simp [regNums, h'] at hk

/-- The registers that a `ragged` names: its destination at LANE, the others at TEAM. -/
theorem atCore_ragged (c : UniClear s t [(n.ba, 2), (n.bb, 2)] .always) (hd : ∀ k ∈ regNums n.bd 2, k < 254 ∧ (s.entry t k).kind = .lane)
    (hpend : ∀ e ∈ t.pend, t.own e.1 = true → e.2.toNat ∉ regNums n.bd 2) : AtCore s t [(n.bd, 2), (n.ba, 2), (n.bb, 2)] := by
  have hrest := c.atCore (by simp)
  refine ⟨fun x hx k hk => ?_, fun e he ho x hx => ?_, by simp⟩
  · rcases List.mem_cons.1 hx with rfl | hx
    · obtain ⟨hlt, hkind⟩ := hd k hk
      obtain ⟨-, hself⟩ := hd _ (self_mem_regNums Nat.two_pos hk)
      exact ⟨hlt, hkind.trans hself.symm, .inl hkind⟩
    · exact hrest.placed x hx k hk
  · rcases List.mem_cons.1 hx with rfl | hx
    · exact hpend e he ho
    · exact hrest.ready e he ho x hx

/-- The destination of a `ragged` lies at LANE where it has a name. -/
theorem locOf_ragged_dest (hcore : AtCore s t [(n.bd, 2), (n.ba, 2), (n.bb, 2)])
    (hd : ∀ k ∈ regNums n.bd 2, k < 254 ∧ (s.entry t k).kind = .lane) : s.locOf t n.bd = .imm ∨ s.locOf t n.bd = .lane := by
  have hloc := locOf_lane hcore (x := (n.bd, 2)) (by simp)
  cases hn : Reg.noName n.bd with
  | true => exact .inl (by simpa [hn] using hloc)
  | false =>
    obtain ⟨-, hkind⟩ := hd _ (mem_self_regNums Nat.two_pos hn)
    exact .inr (by simpa [hn, hkind] using hloc)

/-- A `ragged` with its operands at the core passes its checks (R249). -/
theorem raggedCause_none (c : UniClear s t [(n.ba, 2), (n.bb, 2)] .always) (hd : ∀ k ∈ regNums n.bd 2, k < 254 ∧ (s.entry t k).kind = .lane)
    (hpend : ∀ e ∈ t.pend, t.own e.1 = true → e.2.toNat ∉ regNums n.bd 2)
    (hpreds : ∀ e ∈ t.pendP, t.own e.1 = true → e.2 ≠ predKey false n.p.num.toNat ∧ e.2 ≠ predKey false pr.toNat) :
    firstCause
      [(s.anyNone t [(n.bd, 2), (n.ba, 2), (n.bb, 2)], .undecl),
       (t.anyPend [(n.bd, 2), (n.ba, 2), (n.bb, 2)] || t.predPend false n.p.num.toNat || t.predPend false pr.toNat, .unwaited),
       (s.anyApart t [(n.bd, 2), (n.ba, 2), (n.bb, 2)] || (s.locOf t n.ba).remote || (s.locOf t n.bb).remote
        || (s.locOf t n.bd != .lane && s.locOf t n.bd != .imm), .place),
       (s.locOf t n.ba == .lane || s.locOf t n.bb == .lane, .shape)] = none := by
  have hcore := atCore_ragged c hd hpend
  have hp : t.predPend false n.p.num.toNat = false := by
    simpa using predPend_clear (t := t) (ps := [(false, n.p.num.toNat)])
      (fun e he ho q hq => by simp only [List.mem_singleton] at hq; subst hq; exact (hpreds e he ho).1)
  have hq : t.predPend false pr.toNat = false := by
    simpa using predPend_clear (t := t) (ps := [(false, pr.toNat)])
      (fun e he ho q hq => by simp only [List.mem_singleton] at hq; subst hq; exact (hpreds e he ho).2)
  have huni : ∀ r ∈ [n.ba, n.bb], (s.locOf t r).remote = false ∧ (s.locOf t r == .lane) = false := fun r hr => by
    have hmem : (r, 2) ∈ [(n.ba, 2), (n.bb, 2)] := by simpa using hr
    rcases locOf_uniClear c (by simp) hmem with h | h <;> simp only [h] <;> exact ⟨rfl, rfl⟩
  obtain ⟨hremA, hlaneA⟩ := huni n.ba (by simp)
  obtain ⟨hremB, hlaneB⟩ := huni n.bb (by simp)
  have hdest : (s.locOf t n.bd != .lane && s.locOf t n.bd != .imm) = false := by
    rcases locOf_ragged_dest hcore hd with h | h <;> simp [h]
  simp only [firstCause, anyNone_clear hcore, anyPend_clear hcore, anyApart_clear hcore, hp, hq, hremA, hremB, hlaneA, hlaneB, hdest,
    Bool.or_self, Bool.false_eq_true, if_false]

/-- What a `ragged` that nothing stops does (R249). -/
theorem exec_ragged (hrun : s.Runs t) (hspan : t.span = none) (c : UniClear s t [(n.ba, 2), (n.bb, 2)] .always)
    (hd : ∀ k ∈ regNums n.bd 2, k < 254 ∧ (s.entry t k).kind = .lane) (hpend : ∀ e ∈ t.pend, t.own e.1 = true → e.2.toNat ∉ regNums n.bd 2)
    (hpreds : ∀ e ∈ t.pendP, t.own e.1 = true → e.2 ≠ predKey false n.p.num.toNat ∧ e.2 ≠ predKey false pr.toNat)
    {lanes : List PLane} (hlanes : lanes = (sortBy (fun l => l.vid) (t.active n.p)).map (fun l =>
      pLane l.vid [s.uniVal t n.ba 2, s.uniVal t n.bb 2] (s.uniVal t n.ba 2)))
    (halign : (s.uniVal t n.ba 2).toNat % 4 = 0)
    (hpeer : ∀ r, r ≤ n.x0.toNat → (s.uniVal t n.ba 2 + BitVec.ofNat 64 (4 * r)) >>> 56 ≠ 0xFD) :
    exec (.ragged pr n) s = .next (if t.active n.p = [] then (s.setTeam t).advance t.ctx 4
      else (s.setTeam t).issuePacket t.ctx 4 (t.packet (.ragged pr n) .core .ld false lanes []) (regNums n.bd 2 ++ regNums n.bb 2)
        [predKey false pr.toNat] [{ target := .core (s.coreOf t), op := .access, lanes := lanes }]) := by
  have hcause := raggedCause_none (s := s.setTeam t) c.setTeam hd hpend hpreds
  have hq := c.setTeam.quiet
  have hbad : ((s.setTeam t).uniVal t n.ba 2).toNat % 4 = 0 := halign
  have hrows : ∀ r ∈ (List.range (n.x0.toNat + 1)).filter (fun r => decide ((((s.setTeam t).uniVal t n.bb 2).setWidth 32).toNat ≤ r)),
      ((s.setTeam t).uniVal t n.ba 2 + BitVec.ofNat 64 (4 * r)) >>> 56 ≠ 0xFD := fun r hr =>
    hpeer r (Nat.le_of_lt_succ (List.mem_range.1 (List.mem_filter.1 hr).1))
  have hnone := findSome?_cpeer_none hrows (s.setTeam t) t.group 4
  change execRagged pr n s = _
  rw [execRagged, byTeam_team hrun, issuing_of_no_span hspan]
  simp only [hcause, readPair_quiet hq, hbad, bne_self_eq_false, Bool.false_and, Bool.false_eq_true, if_false]
  split
  next o heq => exact absurd (hnone.symm.trans heq) (by simp)
  next =>
    by_cases hact : t.active n.p = []
    · simp [hact]
    · have hne : ¬ (t.active n.p).isEmpty = true := by simpa using hact
      rw [if_neg hne, if_neg hact, hlanes]
      rfl

end

end

end Sys2Proof.Claims
end

/-- Settles O47: the checks that nothing stops and `Sys2Proof.Claims.issuePacket_packed`; the indices of a tuple for the
addresses, the element-wise operations for the values, and the rows that a `ragged` skips and hands out. -/
theorem nests : Obligations.Nests := by
  unfold Obligations.Nests
  refine ⟨?_, fun ty n base i x hx _ => ?_, fun ty d a b => ?_, ?_, ?_⟩
  · intro op ty n s t i _ hrun hspan c hroom d a b halign hpeer
    have hexec := Sys2Proof.Claims.exec_nest (d := d) (a := a) (b := b) hrun hspan c rfl rfl rfl halign hpeer
    refine ⟨fun hq => ?_, fun hq => ?_⟩
    · rw [if_pos hq] at hexec
      refine ⟨_, hexec, Sys2Proof.Claims.Packed.of_setTeam ?_⟩
      exact Sys2Proof.Claims.issuePacket_packed (s.team?_setTeam_same t) hroom rfl rfl (List.cons_ne_nil _ _)
    · rw [if_neg (by simp [hq])] at hexec
      exact ⟨_, hexec, Sys2Proof.Claims.advance_alone 4⟩
  · rw [Sys2Proof.Claims.adr_tupleOf]
    interval_cases x <;> rfl
  · obtain ⟨hmac, hint⟩ := Sys2Proof.Claims.apply_values ty d a b
    exact ⟨hmac, hint, rfl, rfl, rfl, rfl, fun hty red => Sys2Proof.Claims.apply_mac_float hty red d a b⟩
  · intro pr n s t i _ hrun hspan c hroom hd hpend hpreds a lanes halign hpeer
    have hexec := Sys2Proof.Claims.exec_ragged (pr := pr) (lanes := lanes) hrun hspan c hd hpend hpreds rfl halign hpeer
    refine ⟨fun hact => ?_, fun hact => ?_⟩
    · rw [if_neg hact] at hexec
      refine ⟨_, hexec, Sys2Proof.Claims.Packed.of_setTeam ?_⟩
      exact Sys2Proof.Claims.issuePacket_packed (s.team?_setTeam_same t) hroom rfl rfl (List.cons_ne_nil _ _)
    · rw [if_pos hact] at hexec
      exact ⟨_, hexec, Sys2Proof.Claims.advance_alone 4⟩
  · intro s t w off n ls rc _ _ hsound hfit _ len
    exact Sys2Proof.Claims.ragHand_eq w hsound hfit ls rc ⟨rfl, fun r v h => by simp [Sys2Proof.Machine.Tbl.get?] at h⟩

section
/-! PROOF. Rounding (O33): the model rounds a number m·2^e by shifts; here the rounding of a rational number to an
integer, which it agrees with. -/

namespace Sys2Proof.Claims
open Sys2Proof.Machine

/-! ### Rounding to an integer (R77) -/

/-- Whether a number of sign `neg` whose magnitude has the integer part `k` and the fraction `d` rounds away from zero. -/
def roundsUp (r : Rnd) (neg : Bool) (k : Nat) (d : ℚ) : Bool :=
  match r with
  | .rn => decide (1 / 2 < d) || (decide (d = 1 / 2) && k % 2 == 1)
  | .rz => false
  | .ru => !neg && decide (d ≠ 0)
  | .rd => neg && decide (d ≠ 0)

/-- The magnitude `z` of a number of sign `neg` rounded to an integer, and whether that is inexact. -/
def roundQ (r : Rnd) (neg : Bool) (z : ℚ) : Nat × Bool :=
  (if roundsUp r neg ⌊z⌋₊ (z - ⌊z⌋₊) then ⌊z⌋₊ + 1 else ⌊z⌋₊, decide (z - ⌊z⌋₊ ≠ 0))

section
variable {r : Rnd} {neg : Bool} {z : ℚ}

theorem roundQ_natCast (r : Rnd) (neg : Bool) (n : Nat) : roundQ r neg n = (n, false) := by
  cases r <;> norm_num [roundQ, roundsUp]

/-- Rounding moves by less than one, upwards only where the number is no integer. -/
theorem roundQ_cases (r : Rnd) (neg : Bool) (z : ℚ) :
    (roundQ r neg z).1 = ⌊z⌋₊ ∨ ((roundQ r neg z).1 = ⌊z⌋₊ + 1 ∧ z ≠ ⌊z⌋₊) := by
  by_cases h : z = ⌊z⌋₊
  · left; rw [h, roundQ_natCast]; simp
  · cases hup : roundsUp r neg ⌊z⌋₊ (z - ⌊z⌋₊)
    · exact .inl (by simp [roundQ, hup])
    · exact .inr ⟨by simp [roundQ, hup], h⟩

theorem roundQ_inexact : (roundQ r neg z).2 = false ↔ z = (roundQ r neg z).1 := by
  have h2 : (roundQ r neg z).2 = false ↔ z = ⌊z⌋₊ := by simp [roundQ, sub_eq_zero]
  rw [h2]
  refine ⟨fun h => ?_, fun h => ?_⟩
  · rw [h, roundQ_natCast]
  · rw [h, Nat.floor_natCast]

theorem le_roundQ {n : Nat} (h : (n : ℚ) ≤ z) : n ≤ (roundQ r neg z).1 := by
  have := Nat.le_floor h
  rcases roundQ_cases r neg z with h1 | ⟨h1, -⟩ <;> omega

theorem roundQ_le {n : Nat} (hz : 0 ≤ z) (h : z ≤ n) : (roundQ r neg z).1 ≤ n := by
  have hfl : ⌊z⌋₊ ≤ n := Nat.floor_le_of_le h
  rcases roundQ_cases r neg z with h1 | ⟨h1, hne⟩
  · omega
  · have hlt : (⌊z⌋₊ : ℚ) < z := lt_of_le_of_ne (Nat.floor_le hz) (Ne.symm hne)
    have : (⌊z⌋₊ : ℚ) < n := lt_of_lt_of_le hlt h
    rw [h1]; exact_mod_cast this

/-- The modes that round this sign towards zero take the floor. -/
theorem roundQ_floor (hr : r = .rz ∨ (r = .ru ∧ neg = true) ∨ (r = .rd ∧ neg = false)) : (roundQ r neg z).1 = ⌊z⌋₊ := by
  rcases hr with rfl | ⟨rfl, rfl⟩ | ⟨rfl, rfl⟩ <;> simp [roundQ, roundsUp]

/-- The modes that round this sign away from zero take the ceiling. -/
theorem roundQ_ceil (hz : 0 ≤ z) (hr : (r = .ru ∧ neg = false) ∨ (r = .rd ∧ neg = true)) : (roundQ r neg z).1 = ⌈z⌉₊ := by
  have hup : (roundQ r neg z).1 = if z ≠ ⌊z⌋₊ then ⌊z⌋₊ + 1 else ⌊z⌋₊ := by
    rcases hr with ⟨rfl, rfl⟩ | ⟨rfl, rfl⟩ <;> simp [roundQ, roundsUp, sub_eq_zero]
  rw [hup]
  split
  · next hne =>
    have hlt : (⌊z⌋₊ : ℚ) < z := lt_of_le_of_ne (Nat.floor_le hz) (Ne.symm hne)
    refine (le_antisymm (Nat.ceil_le.2 ?_) (Nat.lt_ceil.2 hlt)).symm
    exact_mod_cast (Nat.lt_floor_add_one z).le
  · next he =>
    rw [not_not] at he
    conv_rhs => rw [he]
    rw [Nat.ceil_natCast]

/-- Rounding to nearest: no integer is nearer, and of two that are equally near the result is the even one. -/
theorem roundQ_nearest (hz : 0 ≤ z) (n : ℤ) :
    |z - (roundQ .rn neg z).1| ≤ |z - n| ∧ (|z - (roundQ .rn neg z).1| = |z - n| → n ≠ (roundQ .rn neg z).1 → (roundQ .rn neg z).1 % 2 = 0) := by
  have hlo := Nat.floor_le hz
  have hhi := Nat.lt_floor_add_one z
  generalize hk : ⌊z⌋₊ = k at hlo hhi
  have hfl : (n : ℚ) ≤ k ∨ (k : ℚ) + 1 ≤ n := by
    rcases le_or_gt n k with h | h
    · exact .inl (by exact_mod_cast h)
    · exact .inr (by exact_mod_cast h)
  have hdef : (roundQ .rn neg z).1 = if 1 / 2 < z - k ∨ (z - k = 1 / 2 ∧ k % 2 = 1) then k + 1 else k := by simp [roundQ, roundsUp, hk]
  rw [hdef]
  split
  · next hup =>
    have hhalf : 1 / 2 ≤ z - k := by rcases hup with h | ⟨h, -⟩ <;> linarith
    push_cast
    rw [abs_of_nonpos (by linarith : z - (k + 1) ≤ 0)]
    rcases hfl with h | h
    · rw [abs_of_nonneg (by linarith : (0 : ℚ) ≤ z - n)]
      refine ⟨by linarith, fun heq _ => ?_⟩
      rcases hup with h2 | ⟨-, h2⟩
      · linarith
      · omega
    · rw [abs_of_nonpos (by linarith : z - (n : ℚ) ≤ 0)]
      refine ⟨by linarith, fun heq hne => absurd ?_ hne⟩
      have : (n : ℚ) = k + 1 := by linarith
      exact_mod_cast this
  · next hup =>
    rw [not_or, not_lt] at hup
    obtain ⟨hhalf, htie⟩ := hup
    rw [abs_of_nonneg (by linarith : 0 ≤ z - (k : ℚ))]
    rcases hfl with h | h
    · rw [abs_of_nonneg (by linarith : (0 : ℚ) ≤ z - n)]
      refine ⟨by linarith, fun heq hne => absurd ?_ hne⟩
      have : (n : ℚ) = k := by linarith
      exact_mod_cast this
    · rw [abs_of_nonpos (by linarith : z - (n : ℚ) ≤ 0)]
      refine ⟨by linarith, fun heq _ => ?_⟩
      by_contra hodd
      exact htie ⟨by linarith, by omega⟩

/-- Rounding sees of a number that is no multiple of 1/2 only between which two it lies. -/
theorem roundQ_between {z' : ℚ} {j : Nat} (h1 : (j : ℚ) / 2 < z) (h2 : z < (j + 1) / 2) (h1' : (j : ℚ) / 2 < z')
    (h2' : z' < (j + 1) / 2) : roundQ r neg z = roundQ r neg z' := by
  have key : ∀ y : ℚ, (j : ℚ) / 2 < y → y < (j + 1) / 2 → ⌊y⌋₊ = j / 2 ∧ y - ⌊y⌋₊ ≠ 0 ∧ y - ⌊y⌋₊ ≠ 1 / 2
      ∧ (1 / 2 < y - ⌊y⌋₊ ↔ j % 2 = 1) := by
    intro y h1 h2
    have hj : (j : ℚ) = 2 * (j / 2 : ℕ) + (j % 2 : ℕ) := by exact_mod_cast (Nat.div_add_mod j 2).symm
    have hm : j % 2 = 0 ∨ j % 2 = 1 := by omega
    have hfl : ⌊y⌋₊ = j / 2 := by
      rw [Nat.floor_eq_iff (le_trans (by positivity) h1.le)]
      rcases hm with hm | hm <;> rw [hm] at hj <;> push_cast at hj <;> constructor <;> linarith
    rw [hfl]
    rcases hm with hm | hm <;> rw [hm] at hj <;> push_cast at hj
    · exact ⟨rfl, by intro h; linarith, by intro h; linarith, fun h => by linarith, fun h => by omega⟩
    · exact ⟨rfl, by intro h; linarith, by intro h; linarith, fun _ => hm, fun _ => by linarith⟩
  obtain ⟨hf, hn, hh, hu⟩ := key z h1 h2
  obtain ⟨hf', hn', hh', hu'⟩ := key z' h1' h2'
  have hup : roundsUp r neg ⌊z⌋₊ (z - ⌊z⌋₊) = roundsUp r neg ⌊z'⌋₊ (z' - ⌊z'⌋₊) := by
    cases r with
    | rn => simp only [roundsUp, hu, hh, hu', hh', decide_false, Bool.false_and]
    | rz => rfl
    | ru | rd => simp [roundsUp, hn, hn']
  rw [roundQ, roundQ, hup, hf, hf', decide_eq_true (hf ▸ hn), decide_eq_true (hf' ▸ hn')]

end

/-! ### Rounding by shifts -/

theorem natCast_div_two_pow (m n : Nat) : (m : ℚ) / 2 ^ n = (m / 2 ^ n : ℕ) + (m % 2 ^ n : ℕ) / 2 ^ n := by
  have h : (m : ℚ) = 2 ^ n * (m / 2 ^ n : ℕ) + (m % 2 ^ n : ℕ) := by exact_mod_cast (Nat.div_add_mod m (2 ^ n)).symm
  rw [eq_comm, ← sub_eq_zero]
  field_simp
  linarith

/-- A quotient by a power of two rounded by its remainder. -/
theorem roundQ_shift (r : Rnd) (neg : Bool) (m : Nat) {n : Nat} (hn : 0 < n) :
    roundQ r neg (m / 2 ^ n) = (if (match r with
      | .rn => decide (2 ^ (n - 1) < m % 2 ^ n) || (m % 2 ^ n == 2 ^ (n - 1) && m / 2 ^ n % 2 == 1)
      | .rz => false
      | .ru => !neg && m % 2 ^ n != 0
      | .rd => neg && m % 2 ^ n != 0 : Bool) then m / 2 ^ n + 1 else m / 2 ^ n, m % 2 ^ n != 0) := by
  have hfl : ⌊(m : ℚ) / 2 ^ n⌋₊ = m / 2 ^ n := by
    have h := Nat.floor_div_eq_div (K := ℚ) m (2 ^ n)
    rwa [Nat.cast_pow, Nat.cast_ofNat] at h
  have hpow : (2 : ℚ) ^ n = 2 * 2 ^ (n - 1) := by rw [← pow_succ']; congr 1; omega
  have hrem : (m : ℚ) / 2 ^ n - (m / 2 ^ n : ℕ) = (m % 2 ^ n : ℕ) / 2 ^ n := by rw [natCast_div_two_pow]; ring
  have hne : decide (((m % 2 ^ n : ℕ) : ℚ) / 2 ^ n ≠ 0) = (m % 2 ^ n != 0) := by
    rw [Bool.eq_iff_iff, decide_eq_true_eq, bne_iff_ne, ne_eq, ne_eq, div_eq_zero_iff]
    simp
  have hgt : decide (1 / 2 < ((m % 2 ^ n : ℕ) : ℚ) / 2 ^ n) = decide (2 ^ (n - 1) < m % 2 ^ n) := by
    rw [decide_eq_decide, hpow, lt_div_iff₀ (by positivity), ← Nat.cast_lt (α := ℚ), Nat.cast_pow, Nat.cast_ofNat]
    constructor <;> intro h <;> linarith
  have heq : decide (((m % 2 ^ n : ℕ) : ℚ) / 2 ^ n = 1 / 2) = (m % 2 ^ n == 2 ^ (n - 1)) := by
    rw [Bool.eq_iff_iff, decide_eq_true_eq, beq_iff_eq, hpow, div_eq_iff (by positivity), ← Nat.cast_inj (R := ℚ), Nat.cast_pow,
      Nat.cast_ofNat]
    constructor <;> intro h <;> linarith
  rw [roundQ, hfl, hrem, hne]
  cases r with
  | rn => simp only [roundsUp, hgt, heq]
  | rz => rfl
  | ru | rd => simp only [roundsUp, hne]

/-- The model's rounding to a multiple of 2^q is rounding of the number of such units. -/
theorem roundAt_eq_roundQ (r : Rnd) (neg : Bool) (m : Nat) (e q : ℤ) : roundAt r neg m e q = roundQ r neg (m * 2 ^ (e - q)) := by
  unfold roundAt
  split
  · next h =>
    have : (m : ℚ) * 2 ^ (e - q) = (m * 2 ^ (e - q).toNat : ℕ) := by
      push_cast; rw [← zpow_natCast, Int.toNat_of_nonneg (by omega)]
    rw [this, roundQ_natCast]
  · next h =>
    obtain ⟨n, hn⟩ : ∃ n : ℕ, q - e = n := ⟨(q - e).toNat, by omega⟩
    have hz : (m : ℚ) * 2 ^ (e - q) = m / 2 ^ n := by
      rw [show e - q = -(n : ℤ) by omega, zpow_neg, zpow_natCast, div_eq_mul_inv]
    rw [hz, hn, Int.toNat_natCast]
    have hshift : roundQ r neg (m / 2 ^ n) = roundQ r neg (m / 2 ^ min n (m.log2 + 2)) := by
      rcases le_or_gt n (m.log2 + 2) with hle | hgt
      · rw [min_eq_left hle]
      rw [min_eq_right hgt.le]
      rcases Nat.eq_zero_or_pos m with rfl | hm
      · simp
      have hlt : (m : ℚ) < 2 ^ (m.log2 + 1) := by exact_mod_cast Nat.lt_log2_self
      have hm0 : (0 : ℚ) < m := by exact_mod_cast hm
      have small : ∀ k : ℕ, m.log2 + 2 ≤ k → (m : ℚ) / 2 ^ k < (0 + 1) / 2 := fun k hk => by
        rw [div_lt_iff₀ (by positivity)]
        have : (2 : ℚ) ^ (m.log2 + 2) ≤ 2 ^ k := pow_le_pow_right₀ (by norm_num) hk
        rw [pow_succ] at this
        linarith
      exact roundQ_between (j := 0) (by simpa using by positivity) (by simpa using small n hgt.le) (by simpa using by positivity)
        (by simpa using small _ le_rfl)
    rw [hshift, roundQ_shift r neg m (by omega)] <;> cases r <;> rfl

end Sys2Proof.Claims
end

section
/-! PROOF. The values of the floating-point formats (O33): their finite bit patterns as integers in an exponent's unit. -/

namespace Sys2Proof.Claims
open Sys2Proof.Machine

/-! ### Formats (R70, R72) -/

/-- What the six formats have in common: bits of both kinds, and that E4M3 is one of 4 and 3 bits. -/
structure Shape (f : FFmt) : Prop where
  mant : 1 ≤ f.mbits
  expo : 2 ≤ f.ebits
  e4m3 : f.e4m3 = true → f.ebits = 4 ∧ f.mbits = 3

theorem shape_of_mem {f : FFmt} (h : f ∈ formats) : Shape f := by
  simp only [formats, List.mem_cons, List.not_mem_nil, or_false] at h
  rcases h with rfl | rfl | rfl | rfl | rfl | rfl <;> exact ⟨by decide, by decide, by decide⟩

theorem shape_tyFmt (ty : Ty) : Shape (tyFmt ty) := by
  cases ty <;> exact ⟨by decide, by decide, by decide⟩

/-- The integer that a finite bit pattern without sign holds, and the exponent of its unit. -/
def mantOf (f : FFmt) (b : Nat) : Nat := if b / 2 ^ f.mbits = 0 then b % 2 ^ f.mbits else b % 2 ^ f.mbits + 2 ^ f.mbits
def expOf (f : FFmt) (b : Nat) : ℤ := f.qmin + (b / 2 ^ f.mbits - 1 : ℕ)

/-- The number of a finite bit pattern without sign. -/
def magOf (f : FFmt) (b : Nat) : ℚ := mantOf f b * 2 ^ expOf f b

/-- The factor of a sign. -/
def sgn (neg : Bool) : ℚ := if neg then -1 else 1

theorem rat_fin (neg : Bool) (m : Nat) (e : ℤ) : rat (.fin neg m e) = sgn neg * (m * 2 ^ e) := by
  simp [rat, sgn]

@[simp] theorem abs_sgn (neg : Bool) : |sgn neg| = 1 := by cases neg <;> simp [sgn]

@[simp] theorem sgn_mul_self (neg : Bool) : sgn neg * sgn neg = 1 := by cases neg <;> simp [sgn]

theorem sgn_xor (s t : Bool) : sgn (s != t) = sgn s * sgn t := by cases s <;> cases t <;> simp [sgn]

theorem magOf_nonneg (f : FFmt) (b : Nat) : 0 ≤ magOf f b := by unfold magOf; positivity

section
variable {f : FFmt}

/-- The largest finite pattern as an exponent and an integer that has its leading bit. -/
theorem maxBits_eq (h : Shape f) : ∃ t k, f.maxBits = t * 2 ^ f.mbits + k ∧ 2 ^ f.mbits ≤ k ∧ k < 2 ^ (f.mbits + 1) := by
  unfold FFmt.maxBits
  cases he : f.e4m3
  · have h4 : 2 ^ 2 ≤ 2 ^ f.ebits := Nat.pow_le_pow_right (by norm_num) h.expo
    have hm := Nat.two_pow_pos f.mbits
    obtain ⟨t, ht⟩ : ∃ t, 2 ^ f.ebits - 1 = t + 2 := ⟨2 ^ f.ebits - 3, by omega⟩
    refine ⟨t, 2 ^ (f.mbits + 1) - 1, ?_, ?_, ?_⟩ <;> rw [pow_succ]
    · rw [if_neg (by simp), ht, Nat.add_mul]; omega
    · omega
    · omega
  · obtain ⟨-, h3⟩ := h.e4m3 he
    rw [h3, if_pos rfl]
    exact ⟨14, 14, by decide, by decide, by decide⟩

theorem maxBits_lt (h : Shape f) : f.maxBits < 2 ^ (f.ebits + f.mbits) := by
  have hm := Nat.two_pow_pos f.mbits
  have he := Nat.two_pow_pos f.ebits
  unfold FFmt.maxBits
  cases h4 : f.e4m3
  · rw [if_neg (by simp), pow_add, Nat.sub_mul]
    have : 2 ^ f.mbits ≤ 2 ^ f.ebits * 2 ^ f.mbits := Nat.le_mul_of_pos_left _ he
    omega
  · obtain ⟨h1, h3⟩ := h.e4m3 h4
    rw [if_pos rfl, h1, h3]; decide

/-- The two forms of a finite value: with and without the leading bit that is not stored. -/
theorem fin_parts (f : FFmt) (b : Nat) (neg : Bool) :
    (if (b / 2 ^ f.mbits == 0) = true then FVal.fin neg (b % 2 ^ f.mbits) f.qmin
      else .fin neg (b % 2 ^ f.mbits + 2 ^ f.mbits) (f.qmin + (b / 2 ^ f.mbits - 1 : ℕ))) = .fin neg (mantOf f b) (expOf f b) := by
  unfold mantOf expOf
  by_cases h : b / 2 ^ f.mbits = 0
  · simp only [h, beq_self_eq_true, if_true]; simp
  · simp only [beq_iff_eq, h, if_false]

/-- A bit pattern is finite where, without its sign, it is at most the largest finite one. -/
theorem val_eq (h : Shape f) {bits b : Nat} {neg : Bool} (hs : (bits / 2 ^ (f.ebits + f.mbits) % 2 == 1) = neg)
    (hb : bits % 2 ^ (f.ebits + f.mbits) = b) :
    if b ≤ f.maxBits then f.val bits = .fin neg (mantOf f b) (expOf f b) else finite (f.val bits) = false := by
  have hmod : bits % 2 ^ f.mbits = b % 2 ^ f.mbits := by
    rw [← hb, Nat.mod_mod_of_dvd _ (pow_dvd_pow 2 (Nat.le_add_left _ _))]
  have hdiv : bits / 2 ^ f.mbits % 2 ^ f.ebits = b / 2 ^ f.mbits := by
    rw [← hb, Nat.add_comm, pow_add, Nat.mod_mul_right_div_self]
  have hlt : b / 2 ^ f.mbits < 2 ^ f.ebits := hdiv ▸ Nat.mod_lt _ (Nat.two_pow_pos _)
  have hpos := Nat.two_pow_pos f.mbits
  have hsplit := Nat.div_add_mod b (2 ^ f.mbits)
  have hml : b % 2 ^ f.mbits < 2 ^ f.mbits := Nat.mod_lt _ hpos
  unfold FFmt.val
  rw [hmod, hdiv, hs]
  dsimp only
  cases h4 : f.e4m3
  · have hmax : b ≤ f.maxBits ↔ b / 2 ^ f.mbits ≠ 2 ^ f.ebits - 1 := by
      have hm : f.maxBits = (2 ^ f.ebits - 1) * 2 ^ f.mbits - 1 := by simp [FFmt.maxBits, h4]
      have he : 2 ≤ 2 ^ f.ebits := le_trans (by norm_num) (Nat.pow_le_pow_right (by norm_num : 0 < 2) (le_trans (by norm_num : 1 ≤ 2) h.expo))
      have hp : 0 < (2 ^ f.ebits - 1) * 2 ^ f.mbits := Nat.mul_pos (by omega) hpos
      rw [hm, Nat.le_sub_one_iff_lt hp, ← Nat.div_lt_iff_lt_mul hpos]
      omega
    by_cases hb' : b / 2 ^ f.mbits = 2 ^ f.ebits - 1
    · have h0 : ¬ b ≤ f.maxBits := fun hle => hmax.1 hle hb'
      rw [if_neg h0, if_neg (by simp), hb', beq_self_eq_true, if_pos rfl]
      split <;> rfl
    · rw [if_pos (hmax.2 hb'), if_neg (by simp), if_neg (by simpa using hb'), fin_parts]
  · obtain ⟨h1, h3⟩ := h.e4m3 h4
    have hm : f.maxBits = 126 := by simp [FFmt.maxBits, h4]
    have hmax : b ≤ f.maxBits ↔ ¬ (b / 2 ^ f.mbits = 15 ∧ b % 2 ^ f.mbits = 7) := by
      rw [h1, h3] at hlt
      rw [h3] at hsplit hml
      rw [hm, h3]
      omega
    rw [if_pos rfl, fin_parts]
    by_cases hb' : b / 2 ^ f.mbits = 15 ∧ b % 2 ^ f.mbits = 7
    · rw [if_neg (fun hle => hmax.1 hle hb'), if_pos (by simpa using hb')]
      rfl
    · rw [if_pos (hmax.2 hb'), if_neg (by simpa using hb')]

/-- The value of a finite pattern under a sign. -/
theorem val_signed (h : Shape f) {b : Nat} (hb : b ≤ f.maxBits) (neg : Bool) :
    f.val (f.signBits neg + b) = .fin neg (mantOf f b) (expOf f b) := by
  have hlt : b < 2 ^ (f.ebits + f.mbits) := lt_of_le_of_lt hb (maxBits_lt h)
  have key := val_eq h (bits := f.signBits neg + b) (b := b) (neg := neg) ?_ ?_
  · rwa [if_pos hb] at key
  · cases neg
    · simp [FFmt.signBits, Nat.div_eq_of_lt hlt]
    · simp [FFmt.signBits, Nat.add_div_left, Nat.div_eq_of_lt hlt]
  · cases neg <;> simp [FFmt.signBits, Nat.mod_eq_of_lt hlt]

/-- Every finite value of a format is that of a finite pattern under a sign. -/
theorem exists_of_finite (h : Shape f) {bits : Nat} (hf : finite (f.val bits) = true) :
    ∃ b, b ≤ f.maxBits ∧ b = bits % 2 ^ (f.ebits + f.mbits) ∧ f.val bits = .fin (f.val bits).neg? (mantOf f b) (expOf f b)
      ∧ ((f.val bits).neg? = true ↔ bits / 2 ^ (f.ebits + f.mbits) % 2 = 1) := by
  have key := val_eq h (bits := bits) rfl rfl
  split at key
  · next hle =>
    refine ⟨_, hle, rfl, ?_, ?_⟩
    · rw [key]; rfl
    · rw [key]; simp [FVal.neg?]
  · next hgt => rw [hf] at key; exact absurd key (by simp)

theorem mantOf_lt (f : FFmt) (b : Nat) : mantOf f b < 2 ^ (f.mbits + 1) := by
  have := Nat.mod_lt b (Nat.two_pow_pos f.mbits)
  rw [pow_succ]
  unfold mantOf
  split <;> omega

theorem qmin_le_expOf (f : FFmt) (b : Nat) : f.qmin ≤ expOf f b := by unfold expOf; omega

/-- Above the least exponent an integer has its leading bit. -/
theorem expOf_normal (f : FFmt) (b : Nat) : expOf f b = f.qmin ∨ 2 ^ f.mbits ≤ mantOf f b := by
  unfold expOf mantOf
  split
  · next h => left; simp [h]
  · right; omega

/-- A pattern counted up from an exponent and an integer. -/
theorem bits_of_parts (f : FFmt) (b : Nat) : (expOf f b - f.qmin).toNat * 2 ^ f.mbits + mantOf f b = b := by
  have hsplit := Nat.div_add_mod' b (2 ^ f.mbits)
  unfold expOf mantOf
  rw [add_sub_cancel_left, Int.toNat_natCast]
  split
  · next h => rw [h] at hsplit ⊢; omega
  · next h =>
    obtain ⟨n, hn⟩ := Nat.exists_eq_succ_of_ne_zero h
    rw [hn, Nat.succ_mul] at hsplit
    rw [hn]
    simp only [Nat.succ_eq_add_one, Nat.add_sub_cancel]
    omega

/-- The number of a pattern counted up so, the integer carrying into the next exponent where it is too large. -/
theorem magOf_parts (f : FFmt) {t k : Nat} (hk : k ≤ 2 ^ (f.mbits + 1)) (ht : t = 0 ∨ 2 ^ f.mbits ≤ k) :
    magOf f (t * 2 ^ f.mbits + k) = k * 2 ^ (f.qmin + t) := by
  have hpos := Nat.two_pow_pos f.mbits
  have hdiv : (t * 2 ^ f.mbits + k) / 2 ^ f.mbits = t + k / 2 ^ f.mbits := by
    rw [Nat.add_comm, Nat.add_mul_div_right _ _ hpos, Nat.add_comm]
  have hmod : (t * 2 ^ f.mbits + k) % 2 ^ f.mbits = k % 2 ^ f.mbits := by rw [Nat.add_comm, Nat.add_mul_mod_self_right]
  rw [pow_succ, Nat.mul_two] at hk
  unfold magOf mantOf expOf
  rw [hdiv, hmod]
  rcases Nat.lt_or_ge k (2 ^ f.mbits) with hlt | hge
  · obtain rfl : t = 0 := by omega
    simp [Nat.div_eq_of_lt hlt, Nat.mod_eq_of_lt hlt]
  · rcases Nat.lt_or_ge k (2 * 2 ^ f.mbits) with hlt | hge2
    · have hq : k / 2 ^ f.mbits = 1 := Nat.div_eq_of_lt_le (by omega) (by omega)
      have hr : k % 2 ^ f.mbits + 2 ^ f.mbits = k := by have := Nat.div_add_mod' k (2 ^ f.mbits); rw [hq] at this; omega
      rw [hq, if_neg (by omega), hr]
      simp
    · obtain rfl : k = 2 * 2 ^ f.mbits := by omega
      have h2 : (2 : ℚ) ≠ 0 := by norm_num
      rw [Nat.mul_div_cancel _ hpos, Nat.mul_mod_left, if_neg (by omega), show t + 2 - 1 = t + 1 by omega]
      push_cast
      rw [← add_assoc, zpow_add_one₀ h2]
      ring

end

end Sys2Proof.Claims
end

section
/-! PROOF. Correct rounding (O33): the unit of the last place of a number, the numbers of a format in that unit, and the
rounded result as the best of them. -/

namespace Sys2Proof.Claims
open Sys2Proof.Machine

/-! ### The last place -/

/-- 2^q is the unit of the last place of a magnitude `a` in a format (R70): of a number that is not below the least normal
one, its leading bit stands `mbits` places higher. -/
structure IsPlace (f : FFmt) (a : ℚ) (q : ℤ) : Prop where
  min : f.qmin ≤ q
  lt : a < 2 ^ (q + f.mbits + 1)
  le : q = f.qmin ∨ 2 ^ (q + f.mbits) ≤ a

section
variable {f : FFmt} {a : ℚ} {q : ℤ}

theorem IsPlace.mono {a' : ℚ} {q' : ℤ} (h : IsPlace f a q) (h' : IsPlace f a' q') (hle : a ≤ a') : q ≤ q' := by
  rcases h.le with h0 | h0
  · exact h0 ▸ h'.min
  · have hlt : (2 : ℚ) ^ (q + f.mbits) < 2 ^ (q' + f.mbits + 1) := lt_of_le_of_lt h0 (lt_of_le_of_lt hle h'.lt)
    have := (zpow_lt_zpow_iff_right₀ (by norm_num : (1 : ℚ) < 2)).1 hlt
    omega

theorem IsPlace.unique {q' : ℤ} (h : IsPlace f a q) (h' : IsPlace f a q') : q = q' :=
  le_antisymm (h.mono h' le_rfl) (h'.mono h le_rfl)

theorem two_zpow_pos (q : ℤ) : (0 : ℚ) < 2 ^ q := by positivity

/-- The place that the model computes from the leading bit. -/
theorem isPlace_topExp (f : FFmt) {m : Nat} (hm : m ≠ 0) (e : ℤ) :
    IsPlace f (m * 2 ^ e) (max (topExp m e - f.mbits) f.qmin) := by
  have h1 : (1 : ℚ) < 2 := by norm_num
  have hlo : (2 : ℚ) ^ (topExp m e) ≤ m * 2 ^ e := by
    rw [topExp, add_comm, zpow_add₀ (by norm_num), zpow_natCast]
    refine mul_le_mul_of_nonneg_right ?_ (two_zpow_pos e).le
    exact_mod_cast Nat.log2_self_le hm
  have hhi : (m : ℚ) * 2 ^ e < 2 ^ (topExp m e + 1) := by
    rw [topExp, add_right_comm, add_assoc, add_comm, zpow_add₀ (by norm_num) _ e]
    refine mul_lt_mul_of_pos_right ?_ (two_zpow_pos e)
    have := Nat.lt_log2_self (n := m)
    have h2 : ((1 : ℤ) + m.log2) = ((m.log2 + 1 : ℕ) : ℤ) := by push_cast; ring
    rw [h2, zpow_natCast]
    exact_mod_cast this
  refine ⟨le_max_right _ _, lt_of_lt_of_le hhi (zpow_le_zpow_right₀ h1.le (by omega)), ?_⟩
  rcases le_total (topExp m e - f.mbits) f.qmin with h | h
  · exact .inl (max_eq_right h)
  · refine .inr (le_trans (zpow_le_zpow_right₀ h1.le ?_) hlo)
    rw [max_eq_left h]; omega

theorem magOf_lt (f : FFmt) (b : Nat) : magOf f b < 2 ^ (expOf f b + f.mbits + 1) := by
  have h2 : (expOf f b + f.mbits + 1) = ((f.mbits + 1 : ℕ) : ℤ) + expOf f b := by push_cast; ring
  rw [h2, zpow_add₀ (by norm_num), zpow_natCast]
  refine mul_lt_mul_of_pos_right ?_ (two_zpow_pos _)
  exact_mod_cast mantOf_lt f b

/-- A number of the format has the place of its pattern. -/
theorem isPlace_magOf (f : FFmt) (b : Nat) : IsPlace f (magOf f b) (expOf f b) := by
  refine ⟨qmin_le_expOf f b, magOf_lt f b, (expOf_normal f b).imp_right fun h => ?_⟩
  rw [add_comm, zpow_add₀ (by norm_num), zpow_natCast]
  refine mul_le_mul_of_nonneg_right ?_ (two_zpow_pos _).le
  exact_mod_cast h

/-! ### The numbers of a format in a unit -/

/-- A number `y` not below zero is an integer, or smaller than an integer 2^n that is not above `z`. -/
def OnGrid (n : Nat) (z y : ℚ) : Prop := (∃ k : Nat, y = k) ∨ (y < 2 ^ n ∧ 2 ^ n ≤ z)

theorem IsPlace.div_lt (h : IsPlace f a q) : a / 2 ^ q < 2 ^ (f.mbits + 1) := by
  rw [div_lt_iff₀ (two_zpow_pos q), ← zpow_natCast, ← zpow_add₀ (by norm_num)]
  have : ((f.mbits + 1 : ℕ) : ℤ) + q = q + f.mbits + 1 := by push_cast; ring
  rw [this]; exact h.lt

theorem IsPlace.le_div (h : IsPlace f a q) : q = f.qmin ∨ 2 ^ f.mbits ≤ a / 2 ^ q := by
  refine h.le.imp_right fun h => ?_
  rw [le_div_iff₀ (two_zpow_pos q), ← zpow_natCast, ← zpow_add₀ (by norm_num), add_comm]
  exact h

/-- In the unit of the last place of `a` the numbers of the format are integers, but for those of smaller exponents. -/
theorem IsPlace.grid (h : IsPlace f a q) (b : Nat) : OnGrid f.mbits (a / 2 ^ q) (magOf f b / 2 ^ q) := by
  rcases le_or_gt q (expOf f b) with hle | hlt
  · refine .inl ⟨mantOf f b * 2 ^ (expOf f b - q).toNat, ?_⟩
    rw [magOf, mul_div_assoc, ← zpow_sub₀ (by norm_num)]
    push_cast
    rw [← zpow_natCast, Int.toNat_of_nonneg (by omega)]
  · have hne : q ≠ f.qmin := by have := qmin_le_expOf f b; omega
    refine .inr ⟨?_, h.le_div.resolve_left hne⟩
    rw [div_lt_iff₀ (two_zpow_pos q), ← zpow_natCast, ← zpow_add₀ (by norm_num)]
    exact lt_of_lt_of_le (magOf_lt f b) (zpow_le_zpow_right₀ (by norm_num) (by omega))

section
variable {n : Nat} {z y : ℚ} {r : Rnd} {neg : Bool}

theorem OnGrid.le_floor (hg : OnGrid n z y) (h : y ≤ z) : y ≤ ⌊z⌋₊ := by
  rcases hg with ⟨k, rfl⟩ | ⟨hy, hz⟩
  · exact_mod_cast Nat.le_floor h
  · have : (2 ^ n : ℕ) ≤ ⌊z⌋₊ := Nat.le_floor (by exact_mod_cast hz)
    exact le_trans hy.le (by exact_mod_cast this)

theorem OnGrid.ceil_le (hg : OnGrid n z y) (h : z ≤ y) : (⌈z⌉₊ : ℚ) ≤ y := by
  rcases hg with ⟨k, rfl⟩ | ⟨hy, hz⟩
  · exact_mod_cast Nat.ceil_le.2 h
  · exact absurd (lt_of_le_of_lt (le_trans hz h) hy) (lt_irrefl _)

/-- No number of the grid, of either sign, is nearer than the rounded one. -/
theorem OnGrid.nearest (hg : OnGrid n z y) (hz : 0 ≤ z) (hy : 0 ≤ y) (s : Bool) :
    |z - (roundQ .rn neg z).1| ≤ |z - sgn s * y|
    ∧ (|z - (roundQ .rn neg z).1| = |z - sgn s * y| → sgn s * y ≠ (roundQ .rn neg z).1 → (roundQ .rn neg z).1 % 2 = 0) := by
  rcases hg with ⟨k, rfl⟩ | ⟨hlt, hle⟩
  · have hk : sgn s * (k : ℚ) = ((if s then -(k : ℤ) else k : ℤ) : ℚ) := by cases s <;> simp [sgn]
    obtain ⟨h1, h2⟩ := roundQ_nearest (neg := neg) hz (if s then -(k : ℤ) else k)
    rw [hk]
    exact ⟨h1, fun heq hne => h2 heq fun h => hne (by rw [h]; rfl)⟩
  · have hlt' : |z - (roundQ .rn neg z).1| < |z - sgn s * y| := by
      have h1 := (roundQ_nearest (neg := neg) hz (2 ^ n)).1
      have hp : ((2 ^ n : ℤ) : ℚ) = 2 ^ n := by norm_cast
      rw [hp, abs_of_nonneg (by linarith : (0 : ℚ) ≤ z - 2 ^ n)] at h1
      have h2 : sgn s * y ≤ y := by cases s <;> simp [sgn]; linarith
      exact lt_of_le_of_lt h1 (lt_of_lt_of_le (by linarith) (le_abs_self _))
    exact ⟨hlt'.le, fun heq => absurd heq hlt'.ne⟩

end

/-! ### The rounded pattern -/

/-- The pattern of the rounded number, without its sign and not cut at the largest one. -/
def patternOf (f : FFmt) (r : Rnd) (neg : Bool) (a : ℚ) (q : ℤ) : Nat :=
  (q - f.qmin).toNat * 2 ^ f.mbits + (roundQ r neg (a / 2 ^ q)).1

section
variable {r : Rnd} {neg : Bool}

theorem div_unit_nonneg (ha : 0 ≤ a) : 0 ≤ a / 2 ^ q := div_nonneg ha (two_zpow_pos q).le

theorem IsPlace.rounded_le (h : IsPlace f a q) (ha : 0 ≤ a) : (roundQ r neg (a / 2 ^ q)).1 ≤ 2 ^ (f.mbits + 1) :=
  roundQ_le (div_unit_nonneg ha) (by exact_mod_cast h.div_lt.le)

theorem IsPlace.le_rounded (h : IsPlace f a q) : q = f.qmin ∨ 2 ^ f.mbits ≤ (roundQ r neg (a / 2 ^ q)).1 :=
  h.le_div.imp_right fun hle => le_roundQ (by exact_mod_cast hle)

/-- The pattern holds the rounded number. -/
theorem IsPlace.magOf_pattern (h : IsPlace f a q) (ha : 0 ≤ a) :
    magOf f (patternOf f r neg a q) = (roundQ r neg (a / 2 ^ q)).1 * 2 ^ q := by
  have hq : f.qmin + ((q - f.qmin).toNat : ℤ) = q := by have := h.min; omega
  rw [patternOf, magOf_parts f (h.rounded_le ha), hq]
  exact h.le_rounded.imp_left fun h0 => by simp [h0]

/-- A number that is not above the largest finite one is not rounded beyond it. -/
theorem IsPlace.pattern_le (hf : Shape f) (h : IsPlace f a q) (ha : 0 ≤ a) (hle : a ≤ magOf f f.maxBits) :
    patternOf f r neg a q ≤ f.maxBits := by
  obtain ⟨t, k, hmax, hlo, hhi⟩ := maxBits_eq hf
  have hk : IsPlace f (magOf f f.maxBits) (expOf f f.maxBits) := isPlace_magOf f _
  have hparts := bits_of_parts f f.maxBits
  have hk2 : IsPlace f (magOf f f.maxBits) (f.qmin + t) := by
    rw [hmax, magOf_parts f hhi.le (.inr hlo)]
    refine ⟨by omega, ?_, .inr ?_⟩
    · rw [show f.qmin + (t : ℤ) + f.mbits + 1 = ((f.mbits + 1 : ℕ) : ℤ) + (f.qmin + t) by push_cast; ring,
        zpow_add₀ (by norm_num) ((f.mbits + 1 : ℕ) : ℤ), zpow_natCast]
      have hk : (k : ℚ) < 2 ^ (f.mbits + 1) := by exact_mod_cast hhi
      exact mul_lt_mul_of_pos_right hk (two_zpow_pos _)
    · rw [add_comm, zpow_add₀ (by norm_num), zpow_natCast]
      exact mul_le_mul_of_nonneg_right (by exact_mod_cast hlo) (two_zpow_pos _).le
  have hqt := h.mono hk2 hle
  have hmin := h.min
  have hr := h.rounded_le (r := r) (neg := neg) ha
  rcases hqt.lt_or_eq with hlt | rfl
  · obtain ⟨d, hd⟩ : ∃ d : ℕ, t = (q - f.qmin).toNat + 1 + d := ⟨t - ((q - f.qmin).toNat + 1), by omega⟩
    rw [hmax, patternOf, hd, Nat.add_mul, Nat.add_mul, Nat.one_mul]
    rw [pow_succ] at hr
    omega
  · have hz : a / 2 ^ (f.qmin + (t : ℤ)) ≤ k := by
      rw [div_le_iff₀ (two_zpow_pos _)]
      rwa [hmax, magOf_parts f hhi.le (.inr hlo)] at hle
    have := roundQ_le (r := r) (neg := neg) (div_unit_nonneg ha) hz
    rw [hmax, patternOf, add_sub_cancel_left, Int.toNat_natCast]
    omega

end

/-- `o` is the magnitude `a` with a sign, rounded in the unit of its last place, or what an overflow gives; of the flags
but UF. -/
def Rounded (f : FFmt) (r : Rnd) (sat neg : Bool) (a : ℚ) (o : Nat × Flags) : Prop :=
  ∃ q, IsPlace f a q ∧ (f.maxBits < patternOf f r neg a q → o = f.overflow r sat neg)
    ∧ (patternOf f r neg a q ≤ f.maxBits → o.1 = f.signBits neg + patternOf f r neg a q ∧ o.2 &&& fOF = 0
      ∧ (o.2 &&& fNX = 0 ↔ (roundQ r neg (a / 2 ^ q)).2 = false))

theorem roundFin_eq (f : FFmt) (r : Rnd) (sat neg : Bool) (m : Nat) (e : ℤ) :
    let q := max (topExp m e - f.mbits) f.qmin
    let nx := (roundQ r neg (m * 2 ^ e / 2 ^ q)).2
    f.roundFin r sat neg m e = if f.maxBits < patternOf f r neg (m * 2 ^ e) q then f.overflow r sat neg
      else (f.signBits neg + patternOf f r neg (m * 2 ^ e) q, Flags.when nx fNX ||| Flags.when (nx && f.tiny r neg m e) fUF) := by
  have hz : ∀ q : ℤ, (m : ℚ) * 2 ^ e / 2 ^ q = m * 2 ^ (e - q) := fun q => by rw [zpow_sub₀ (by norm_num), mul_div_assoc]
  simp only [FFmt.roundFin, patternOf, roundAt_eq_roundQ, hz]

theorem roundFin_rounded (f : FFmt) (r : Rnd) (sat neg : Bool) {m : Nat} (hm : m ≠ 0) (e : ℤ) :
    Rounded f r sat neg (m * 2 ^ e) (f.roundFin r sat neg m e) := by
  refine ⟨_, isPlace_topExp f hm e, ?_⟩
  rw [roundFin_eq]
  refine ⟨fun h => if_pos h, fun h => ?_⟩
  rw [if_neg (by omega)]
  refine ⟨rfl, ?_⟩
  dsimp only
  generalize (roundQ r neg _).2 = nx
  cases nx <;> cases f.tiny r neg m e <;> decide

/-! ### Correct rounding (R77, R81) -/

section
variable {r : Rnd} {sat neg : Bool} {o : Nat × Flags}

theorem infBits_lt (f : FFmt) : f.infBits < 2 ^ (f.ebits + f.mbits) := by
  have hm := Nat.two_pow_pos f.mbits
  have : 2 ^ f.mbits ≤ 2 ^ f.ebits * 2 ^ f.mbits := Nat.le_mul_of_pos_left _ (Nat.two_pow_pos _)
  rw [FFmt.infBits, Nat.sub_mul, pow_add]
  omega

theorem nanBits_lt (hf : Shape f) : f.nanBits < 2 ^ (f.ebits + f.mbits) := by
  unfold FFmt.nanBits
  cases h4 : f.e4m3
  · have h1 : 2 ^ (f.mbits - 1) < 2 ^ f.mbits := Nat.pow_lt_pow_right (by norm_num) (by have := hf.mant; omega)
    have : 2 ^ f.mbits ≤ 2 ^ f.ebits * 2 ^ f.mbits := Nat.le_mul_of_pos_left _ (Nat.two_pow_pos _)
    rw [if_neg (by simp), Nat.sub_mul, pow_add]
    omega
  · obtain ⟨h1, h3⟩ := hf.e4m3 h4
    rw [h1, h3, if_pos rfl]; decide

theorem signed_lt {b : Nat} (h : b < 2 ^ (f.ebits + f.mbits)) (neg : Bool) : f.signBits neg + b < 2 ^ f.width := by
  have : 2 ^ f.width = 2 * 2 ^ (f.ebits + f.mbits) := by rw [FFmt.width, Nat.add_assoc, pow_add, pow_one]
  unfold FFmt.signBits
  split <;> omega

theorem ite_lt {c : Prop} [Decidable c] {a b n : Nat} (ha : a < n) (hb : b < n) : (if c then a else b) < n := by split <;> assumption

theorem overflow_lt (hf : Shape f) (r : Rnd) (sat neg : Bool) : (f.overflow r sat neg).1 < 2 ^ f.width := by
  have h0 := signed_lt (f := f) (nanBits_lt hf) false
  unfold FFmt.overflow
  dsimp only
  split
  · exact signed_lt (maxBits_lt hf) neg
  · split
    · simpa [FFmt.signBits] using h0
    · refine signed_lt ?_ neg
      exact ite_lt (infBits_lt f) (maxBits_lt hf)

theorem overflow_flags (f : FFmt) (r : Rnd) (sat neg : Bool) : (f.overflow r sat neg).2 = fOF ||| fNX := by
  unfold FFmt.overflow
  split
  · rfl
  · split <;> rfl

/-- What an overflow gives, in the words of R81. -/
theorem overflow_bits (f : FFmt) (r : Rnd) (sat : Bool) {neg : Bool} {x : ℚ} (hneg : neg = true ↔ x < 0) (hx : x ≠ 0) :
    (f.overflow r sat neg).1 = (if sat then f.maxBits + (if x < 0 then 2 ^ (f.width - 1) else 0)
      else if f.e4m3 then f.nanBits
      else (if r = .rn ∨ (r = .ru ∧ 0 < x) ∨ (r = .rd ∧ x < 0) then f.infBits else f.maxBits)
        + (if x < 0 then 2 ^ (f.width - 1) else 0)) := by
  have hw : f.width - 1 = f.ebits + f.mbits := by rw [FFmt.width]; omega
  have hpos : 0 < x ↔ neg = false := by
    rw [← Bool.not_eq_true, hneg, not_lt]; exact ⟨fun h => h.le, fun h => lt_of_le_of_ne h (Ne.symm hx)⟩
  unfold FFmt.overflow FFmt.signBits
  simp only [← hneg, hpos, hw]
  cases sat <;> cases f.e4m3 <;> cases r <;> cases neg <;> simp [Nat.add_comm]

/-- Rounding to an integer in the unit of the last place gives the best number of the format in the sense of the mode. -/
theorem IsPlace.best (hq : IsPlace f a q) (ha : 0 < a) (b : Nat) (s : Bool) :
    let k := (roundQ r neg (a / 2 ^ q)).1
    let x := sgn neg * a
    let v := sgn neg * (k * 2 ^ q)
    let y := sgn s * magOf f b
    match r with
    | .rn => |x - v| ≤ |x - y| ∧ (|x - v| = |x - y| → y ≠ v → k % 2 = 0)
    | .rz => |v| ≤ |x| ∧ (|y| ≤ |x| → |y| ≤ |v|)
    | .ru => x ≤ v ∧ (x ≤ y → v ≤ y)
    | .rd => v ≤ x ∧ (y ≤ x → y ≤ v) := by
  have hu := two_zpow_pos q
  have hz : 0 ≤ a / 2 ^ q := div_unit_nonneg ha.le
  have hg := hq.grid b
  have hy : 0 ≤ magOf f b / 2 ^ q := div_unit_nonneg (magOf_nonneg f b)
  have haz : a = a / 2 ^ q * 2 ^ q := by field_simp
  have hyz : magOf f b = magOf f b / 2 ^ q * 2 ^ q := by field_simp
  generalize a / 2 ^ q = z at *
  generalize magOf f b / 2 ^ q = y at *
  rw [haz, hyz]
  have down : (r = .rz ∨ (r = .ru ∧ neg = true) ∨ (r = .rd ∧ neg = false)) →
      ((roundQ r neg z).1 : ℚ) * 2 ^ q ≤ z * 2 ^ q ∧ (y * 2 ^ q ≤ z * 2 ^ q → y * 2 ^ q ≤ (roundQ r neg z).1 * 2 ^ q) := fun h => by
    rw [roundQ_floor h]
    exact ⟨mul_le_mul_of_nonneg_right (Nat.floor_le hz) hu.le,
      fun h => mul_le_mul_of_nonneg_right (hg.le_floor (le_of_mul_le_mul_right h hu)) hu.le⟩
  have up : ((r = .ru ∧ neg = false) ∨ (r = .rd ∧ neg = true)) →
      z * 2 ^ q ≤ ((roundQ r neg z).1 : ℚ) * 2 ^ q ∧ (z * 2 ^ q ≤ y * 2 ^ q → (roundQ r neg z).1 * 2 ^ q ≤ y * 2 ^ q) := fun h => by
    rw [roundQ_ceil hz h]
    exact ⟨mul_le_mul_of_nonneg_right (Nat.le_ceil z) hu.le,
      fun h => mul_le_mul_of_nonneg_right (hg.ceil_le (le_of_mul_le_mul_right h hu)) hu.le⟩
  have hzu : 0 < z * 2 ^ q := haz ▸ ha
  have hyu : 0 ≤ y * 2 ^ q := mul_nonneg hy hu.le
  have hku : (0 : ℚ) ≤ (roundQ r neg z).1 * 2 ^ q := by positivity
  cases r with
  | rn =>
    obtain ⟨h1, h2⟩ := hg.nearest (neg := neg) hz hy (neg != s)
    have scale : ∀ w : ℚ, |sgn neg * (z * 2 ^ q) - sgn neg * (w * 2 ^ q)| = |z - w| * 2 ^ q := fun w => by
      rw [← mul_sub, ← sub_mul, abs_mul, abs_sgn, one_mul, abs_mul, abs_of_pos hu]
    have hs : sgn s * (y * 2 ^ q) = sgn neg * (sgn (neg != s) * y * 2 ^ q) := by
      rw [sgn_xor, mul_assoc, mul_assoc, ← mul_assoc (sgn neg), sgn_mul_self, one_mul]
    dsimp only
    rw [hs, scale, scale]
    refine ⟨mul_le_mul_of_nonneg_right h1 hu.le, fun heq hne => h2 (mul_right_cancel₀ hu.ne' heq) fun h => hne (by rw [h])⟩
  | rz =>
    obtain ⟨h1, h2⟩ := down (.inl rfl)
    simp only [abs_mul, abs_sgn, one_mul, abs_of_pos hu, Nat.abs_cast, abs_of_nonneg hz, abs_of_nonneg hy]
    exact ⟨h1, h2⟩
  | ru =>
    cases neg with
    | false =>
      obtain ⟨h1, h2⟩ := up (.inl ⟨rfl, rfl⟩)
      simp only [sgn, Bool.false_eq_true, if_false, one_mul]
      refine ⟨h1, fun h => ?_⟩
      cases s
      · simpa using h2 (by simpa using h)
      · simp only [if_true] at h; linarith
    | true =>
      obtain ⟨h1, h2⟩ := down (.inr (.inl ⟨rfl, rfl⟩))
      simp only [sgn, if_true]
      refine ⟨by linarith, fun h => ?_⟩
      cases s
      · simp only [Bool.false_eq_true, if_false]; linarith
      · simp only [if_true] at h ⊢; linarith [h2 (by linarith)]
  | rd =>
    cases neg with
    | false =>
      obtain ⟨h1, h2⟩ := down (.inr (.inr ⟨rfl, rfl⟩))
      simp only [sgn, Bool.false_eq_true, if_false, one_mul]
      refine ⟨h1, fun h => ?_⟩
      cases s
      · simpa using h2 (by simpa using h)
      · simp only [if_true]; linarith
    | true =>
      obtain ⟨h1, h2⟩ := up (.inr ⟨rfl, rfl⟩)
      simp only [sgn, if_true]
      refine ⟨by linarith, fun h => ?_⟩
      cases s
      · simp only [Bool.false_eq_true, if_false] at h; linarith
      · simp only [if_true] at h ⊢; linarith [h2 (by linarith)]

theorem signed_parity (hf : Shape f) (neg : Bool) (t k : Nat) : (f.signBits neg + (t * 2 ^ f.mbits + k)) % 2 = k % 2 := by
  have h1 : 2 ∣ 2 ^ f.mbits := dvd_pow_self 2 (by have := hf.mant; omega)
  have h2 : 2 ∣ f.signBits neg := by
    unfold FFmt.signBits
    split
    · exact dvd_pow_self 2 (by have := hf.mant; omega)
    · exact dvd_zero 2
  have h3 : 2 ∣ t * 2 ^ f.mbits := Dvd.dvd.mul_left h1 t
  omega

/-- Rounding in the unit of the last place is correct rounding. -/
theorem Rounded.roundedTo (hf : Shape f) (h : Rounded f r sat neg a o) (ha : 0 < a) : RoundedTo f r sat (sgn neg * a) o := by
  obtain ⟨q, hq, hover, hfits⟩ := h
  have hu := two_zpow_pos q
  have hx0 : sgn neg * a ≠ 0 := by cases neg <;> simp [sgn, ha.ne']
  have hneg : neg = true ↔ sgn neg * a < 0 := by
    cases neg
    · simpa [sgn] using ha.le
    · simpa [sgn] using ha
  have hz : 0 ≤ a / 2 ^ q := div_unit_nonneg ha.le
  have haz : a = a / 2 ^ q * 2 ^ q := by field_simp
  have hw : f.width - 1 = f.ebits + f.mbits := by rw [FFmt.width]; omega
  have habs : |sgn neg * a| = a := by rw [abs_mul, abs_sgn, one_mul, abs_of_pos ha]
  rcases Nat.lt_or_ge f.maxBits (patternOf f r neg a q) with hlt | hle
  · rw [hover hlt]
    refine ⟨overflow_lt hf r sat neg, fun h => ?_, fun _ => ⟨?_, ?_, overflow_bits f r sat hneg hx0⟩⟩
    · rw [overflow_flags] at h; exact absurd h (by decide)
    · have hv := val_signed hf le_rfl false
      rw [show f.signBits false = 0 from rfl, Nat.zero_add] at hv
      rw [hv, rat_fin, habs, sgn, if_neg (by simp), one_mul]
      by_contra hge
      exact absurd (hq.pattern_le hf ha.le (not_lt.1 hge)) (not_le.2 hlt)
    · rw [overflow_flags]; decide
  · obtain ⟨h1, h2, h3⟩ := hfits hle
    have hlt := lt_of_le_of_lt hle (maxBits_lt hf)
    have hval := val_signed hf hle neg
    have hrat : rat (f.val o.1) = sgn neg * ((roundQ r neg (a / 2 ^ q)).1 * 2 ^ q) := by
      rw [h1, hval, rat_fin, ← hq.magOf_pattern ha.le]; rfl
    refine ⟨h1 ▸ signed_lt hlt neg, fun _ => ⟨?_, ?_, ?_, fun b hb => ?_⟩, fun h => absurd h2 h⟩
    · rw [h1, hval]; rfl
    · rw [hw, h1]
      simp only [← hneg]
      cases neg
      · simp [FFmt.signBits, Nat.div_eq_of_lt hlt]
      · simp [FFmt.signBits, Nat.add_div_left, Nat.div_eq_of_lt hlt]
    · rw [h3, roundQ_inexact, hrat]
      constructor
      · intro he; rw [← he, ← haz]
      · intro he
        have hs : sgn neg ≠ 0 := by cases neg <;> simp [sgn]
        exact (div_eq_iff hu.ne').2 (mul_left_cancel₀ hs he).symm
    · obtain ⟨b', -, -, hb', -⟩ := exists_of_finite hf hb
      have hpar : o.1 % 2 = (roundQ r neg (a / 2 ^ q)).1 % 2 := by rw [h1, patternOf]; exact signed_parity hf neg _ _
      have hbest := hq.best (r := r) (neg := neg) ha b' (f.val b).neg?
      rw [hrat, hb', rat_fin, hpar]
      exact hbest

end

end

end Sys2Proof.Claims
end

section
/-! PROOF. Correct rounding (O33): quotients, which the model cuts with a sticky last bit, and the statement. -/

namespace Sys2Proof.Claims
open Sys2Proof.Machine

/-! ### Numbers cut with a sticky bit -/

/-- `n`·2^e stands for the magnitude `a`: it is it, or it is odd and `a` lies between the numbers next to it. It has more
than `p` + 3 bits. -/
structure Sticky (p : Nat) (a : ℚ) (n : Nat) (e : ℤ) : Prop where
  long : 2 ^ (p + 4) ≤ n
  near : a = n * 2 ^ e ∨ (n % 2 = 1 ∧ ((n : ℚ) - 1) * 2 ^ e < a ∧ a < (n + 1) * 2 ^ e)

section
variable {f : FFmt} {a : ℚ} {n p : Nat} {e q : ℤ}

/-- The place of a long number is well above its last bit. -/
theorem Sticky.place (h : Sticky p a n e) (hp : f.mbits ≤ p) (hq : IsPlace f (n * 2 ^ e) q) : ∃ c : Nat, q = e + (c + 4 : ℕ) := by
  have hlong : (2 : ℚ) ^ (f.mbits + 4) ≤ n := by
    exact_mod_cast le_trans (Nat.pow_le_pow_right (by norm_num) (by omega)) h.long
  have hlt : (2 : ℚ) ^ (((f.mbits + 4 : ℕ) : ℤ) + e) < 2 ^ (q + f.mbits + 1) := by
    refine lt_of_le_of_lt ?_ hq.lt
    rw [zpow_add₀ (by norm_num), zpow_natCast]
    exact mul_le_mul_of_nonneg_right hlong (two_zpow_pos e).le
  have := (zpow_lt_zpow_iff_right₀ (by norm_num : (1 : ℚ) < 2)).1 hlt
  exact ⟨(q - e - 4).toNat, by push_cast at *; omega⟩

/-- A multiple of a higher power of two lies on the same side of both. -/
theorem Sticky.le_iff (h : Sticky p a n e) (k : Nat) (c : Nat) :
    ((k : ℚ) * 2 ^ (e + (c + 1 : ℕ)) ≤ a ↔ (k : ℚ) * 2 ^ (e + (c + 1 : ℕ)) ≤ n * 2 ^ e) := by
  have hu := two_zpow_pos e
  have hk : (k : ℚ) * 2 ^ (e + (c + 1 : ℕ)) = (2 * (k * 2 ^ c) : ℕ) * 2 ^ e := by
    rw [zpow_add₀ (by norm_num), zpow_natCast]; push_cast; ring
  rw [hk]
  rcases h.near with rfl | ⟨hodd, hlo, hhi⟩
  · rfl
  · constructor
    · intro hle
      have h1 : ((2 * (k * 2 ^ c) : ℕ) : ℚ) < n + 1 := lt_of_mul_lt_mul_right (lt_of_le_of_lt hle hhi) hu.le
      have h2 : 2 * (k * 2 ^ c) < n + 1 := by exact_mod_cast h1
      exact mul_le_mul_of_nonneg_right (by exact_mod_cast Nat.le_of_lt_succ h2) hu.le
    · intro hle
      have h1 : ((2 * (k * 2 ^ c) : ℕ) : ℚ) ≤ n := le_of_mul_le_mul_right hle hu
      have h2 : 2 * (k * 2 ^ c) ≤ n := by exact_mod_cast h1
      have h3 : ((2 * (k * 2 ^ c) : ℕ) : ℚ) ≤ n - 1 := by
        have : 2 * (k * 2 ^ c) + 1 ≤ n := by omega
        have : ((2 * (k * 2 ^ c) + 1 : ℕ) : ℚ) ≤ n := by exact_mod_cast this
        push_cast at this ⊢
        linarith
      exact le_trans (mul_le_mul_of_nonneg_right h3 hu.le) hlo.le

/-- Both have the same place. -/
theorem Sticky.isPlace (h : Sticky p a n e) (hp : f.mbits ≤ p) (hq : IsPlace f (n * 2 ^ e) q) : IsPlace f a q := by
  obtain ⟨c, rfl⟩ := h.place hp hq
  have hlt := h.le_iff 1 (c + 4 + f.mbits)
  have hle := h.le_iff 1 (c + 3 + f.mbits)
  rw [Nat.cast_one, one_mul, show e + ((c + 4 + f.mbits + 1 : ℕ) : ℤ) = e + (c + 4 : ℕ) + f.mbits + 1 by push_cast; ring] at hlt
  rw [Nat.cast_one, one_mul, show e + ((c + 3 + f.mbits + 1 : ℕ) : ℤ) = e + (c + 4 : ℕ) + f.mbits by push_cast; ring] at hle
  exact ⟨hq.min, lt_of_not_ge fun h' => absurd (hlt.1 h') (not_le.2 hq.lt), hq.le.imp_right hle.2⟩

/-- Both round alike. -/
theorem Sticky.roundQ_eq (h : Sticky p a n e) (hp : f.mbits ≤ p) (hq : IsPlace f (n * 2 ^ e) q) (r : Rnd) (neg : Bool) :
    roundQ r neg (a / 2 ^ q) = roundQ r neg (n * 2 ^ e / 2 ^ q) := by
  obtain ⟨c, rfl⟩ := h.place hp hq
  rcases h.near with rfl | ⟨hodd, hlo, hhi⟩
  · rfl
  have hu := two_zpow_pos e
  have hunit : (2 : ℚ) ^ (e + (c + 4 : ℕ)) = 2 ^ e * 2 ^ (c + 3) * 2 := by
    rw [zpow_add₀ (by norm_num), zpow_natCast, mul_assoc, ← pow_succ]
  have hj := Nat.div_add_mod' n (2 ^ (c + 3))
  have hm := Nat.mod_lt n (Nat.two_pow_pos (c + 3))
  have he : 2 ^ (c + 3) = 2 * 2 ^ (c + 2) := by rw [← pow_succ']
  have h0 : n / 2 ^ (c + 3) * 2 ^ (c + 3) ≤ n - 1 := by
    have heven : n / 2 ^ (c + 3) * 2 ^ (c + 3) = 2 * (n / 2 ^ (c + 3) * 2 ^ (c + 2)) := by rw [he]; ring
    omega
  have h1 : n + 1 ≤ (n / 2 ^ (c + 3) + 1) * 2 ^ (c + 3) := by rw [Nat.add_mul]; omega
  generalize n / 2 ^ (c + 3) = j at h0 h1
  have hn : 1 ≤ n := by omega
  have q0 : (j : ℚ) * 2 ^ (c + 3) ≤ n - 1 := by
    have : ((j * 2 ^ (c + 3) : ℕ) : ℚ) ≤ ((n - 1 : ℕ) : ℚ) := by exact_mod_cast h0
    rw [Nat.cast_sub hn] at this
    exact_mod_cast this
  have q1 : (n : ℚ) + 1 ≤ (j + 1) * 2 ^ (c + 3) := by exact_mod_cast h1
  have side : ∀ y : ℚ, ((n : ℚ) - 1) * 2 ^ e < y → y < (n + 1) * 2 ^ e →
      (j : ℚ) / 2 < y / 2 ^ (e + (c + 4 : ℕ)) ∧ y / 2 ^ (e + (c + 4 : ℕ)) < (j + 1) / 2 := by
    intro y hl hr
    have g0 := mul_le_mul_of_nonneg_right q0 hu.le
    have g1 := mul_le_mul_of_nonneg_right q1 hu.le
    rw [hunit, lt_div_iff₀ (by positivity), div_lt_iff₀ (by positivity)]
    constructor <;> nlinarith
  obtain ⟨s0, s1⟩ := side a hlo hhi
  obtain ⟨t0, t1⟩ := side (n * 2 ^ e) (by nlinarith) (by nlinarith)
  exact roundQ_between s0 s1 t0 t1

/-- What is rounded from the number with the sticky bit is the number itself rounded. -/
theorem Sticky.rounded (h : Sticky p a n e) (hp : f.mbits ≤ p) {r : Rnd} {sat neg : Bool} {o : Nat × Flags}
    (ho : Rounded f r sat neg (n * 2 ^ e) o) : Rounded f r sat neg a o := by
  obtain ⟨q, hq, h1, h2⟩ := ho
  refine ⟨q, h.isPlace hp hq, ?_⟩
  unfold patternOf
  rw [h.roundQ_eq hp hq]
  exact ⟨h1, h2⟩

end

/-! ### Quotients (R148) -/

/-- The model's quotient stands for the exact one. -/
theorem quotVal_sticky (neg : Bool) {m1 m2 : Nat} (h1 : m1 ≠ 0) (h2 : m2 ≠ 0) (e1 e2 : ℤ) (p : Nat) :
    ∃ n e, quotVal neg m1 e1 m2 e2 p = .fin neg n e ∧ Sticky p (m1 * 2 ^ e1 / (m2 * 2 ^ e2)) n e := by
  unfold quotVal
  extract_lets k q rem
  refine ⟨_, _, rfl, ?_⟩
  have hm2 : 0 < m2 := Nat.pos_of_ne_zero h2
  have hdiv : m2 * q + rem = m1 * 2 ^ k := Nat.div_add_mod _ _
  have hrem : rem < m2 := Nat.mod_lt _ hm2
  have hlong : 2 ^ (p + 3) ≤ q := by
    refine (Nat.le_div_iff_mul_le hm2).2 ?_
    have hk : p + 3 + (m2.log2 + 1) ≤ m1.log2 + k := by
      have hmin : min m1.log2 (p + 3 + m2.log2) ≤ m1.log2 := min_le_left _ _
      have hmin' : min m1.log2 (p + 3 + m2.log2) ≤ p + 3 + m2.log2 := min_le_right _ _
      omega
    calc 2 ^ (p + 3) * m2 ≤ 2 ^ (p + 3) * 2 ^ (m2.log2 + 1) := Nat.mul_le_mul_left _ Nat.lt_log2_self.le
      _ = 2 ^ (p + 3 + (m2.log2 + 1)) := (pow_add _ _ _).symm
      _ ≤ 2 ^ (m1.log2 + k) := Nat.pow_le_pow_right (by norm_num) hk
      _ = 2 ^ m1.log2 * 2 ^ k := pow_add _ _ _
      _ ≤ m1 * 2 ^ k := Nat.mul_le_mul_right _ (Nat.log2_self_le h1)
  have hu := two_zpow_pos (e1 - e2 - k - 1)
  have hm2q : (0 : ℚ) < m2 := by exact_mod_cast hm2
  have hexact : (m1 : ℚ) * 2 ^ e1 / (m2 * 2 ^ e2) = 2 * ((m1 : ℚ) * 2 ^ k / m2) * 2 ^ (e1 - e2 - k - 1) := by
    rw [zpow_sub₀ (by norm_num), zpow_sub₀ (by norm_num), zpow_sub₀ (by norm_num), zpow_natCast, zpow_one]
    field_simp
  have hval : (m1 : ℚ) * 2 ^ k / m2 = q + rem / m2 := by
    have : (m1 : ℚ) * 2 ^ k = m2 * q + rem := by exact_mod_cast hdiv.symm
    rw [this]; field_simp
  refine ⟨by rw [pow_succ]; omega, ?_⟩
  rw [hexact, hval]
  split
  · next h0 => left; rw [h0]; push_cast; ring
  · next h0 =>
    right
    have hr0 : (0 : ℚ) < rem / m2 := div_pos (by exact_mod_cast Nat.pos_of_ne_zero h0) hm2q
    have hr1 : (rem : ℚ) / m2 < 1 := (div_lt_one hm2q).2 (by exact_mod_cast hrem)
    refine ⟨by omega, mul_lt_mul_of_pos_right ?_ hu, mul_lt_mul_of_pos_right ?_ hu⟩ <;> push_cast <;> linarith

section
variable {f : FFmt}

theorem round_fin (f : FFmt) (r : Rnd) (sat neg : Bool) {m : Nat} (hm : m ≠ 0) (e : ℤ) :
    f.round r sat (.fin neg m e) = f.roundFin r sat neg m e := by simp [FFmt.round, hm]

theorem mag_pos {m : Nat} (hm : m ≠ 0) (e : ℤ) : (0 : ℚ) < m * 2 ^ e :=
  mul_pos (by exact_mod_cast Nat.pos_of_ne_zero hm) (two_zpow_pos e)

/-- A number brought to a format is correctly rounded. -/
theorem round_roundedTo (hf : Shape f) (r : Rnd) (sat neg : Bool) {m : Nat} (hm : m ≠ 0) (e : ℤ) :
    RoundedTo f r sat (rat (.fin neg m e)) (f.round r sat (.fin neg m e)) := by
  rw [round_fin f r sat neg hm, rat_fin]
  exact (roundFin_rounded f r sat neg hm e).roundedTo hf (mag_pos hm e)

theorem eq_fin_of_finite {a : FVal} (h : finite a = true) : ∃ s m e, a = .fin s m e := by
  cases a with
  | fin s m e => exact ⟨s, m, e, rfl⟩
  | nan | inf => simp [finite] at h

theorem rat_fin_eq_zero {s : Bool} {m : Nat} {e : ℤ} : rat (.fin s m e) = 0 ↔ m = 0 := by
  rw [rat_fin, mul_eq_zero, mul_eq_zero]
  have h1 : sgn s ≠ 0 := by cases s <;> simp [sgn]
  have h2 := (two_zpow_pos e).ne'
  simp [h1, h2]

/-- A quotient of two numbers is correctly rounded. -/
theorem div_roundedTo (hf : Shape f) (r : Rnd) (sat : Bool) {a b : FVal} (ha : finite a = true) (hb : finite b = true)
    (ha0 : rat a ≠ 0) (hb0 : rat b ≠ 0) : RoundedTo f r sat (rat a / rat b) (f.div r sat a b) := by
  obtain ⟨s, m, e, rfl⟩ := eq_fin_of_finite ha
  obtain ⟨t, n, g, rfl⟩ := eq_fin_of_finite hb
  rw [ne_eq, rat_fin_eq_zero] at ha0 hb0
  obtain ⟨k, x, hk, hs⟩ := quotVal_sticky (s != t) ha0 hb0 e g f.mbits
  have hk0 : k ≠ 0 := by have := hs.long; have := Nat.two_pow_pos (f.mbits + 4); omega
  have hdiv : f.div r sat (.fin s m e) (.fin t n g) = f.roundFin r sat (s != t) k x := by
    simp [FFmt.div, FFmt.quot, FVal.isNan, ha0, hb0, hk, round_fin f r sat _ hk0]
  have hx : rat (.fin s m e) / rat (.fin t n g) = sgn (s != t) * (m * 2 ^ e / (n * 2 ^ g)) := by
    rw [rat_fin, rat_fin, sgn_xor, mul_div_mul_comm]
    congr 1
    cases t <;> simp [sgn, div_neg]
  rw [hdiv, hx]
  exact (hs.rounded le_rfl (roundFin_rounded f r sat (s != t) hk0 x)).roundedTo hf (div_pos (mag_pos ha0 e) (mag_pos hb0 g))

end

end Sys2Proof.Claims
end

/-- Settles O33: a number and a quotient are rounded in the unit of their last place
(`Sys2Proof.Claims.Rounded.roundedTo`), the quotient from a number that has a sticky last bit. -/
theorem roundingIsCorrect : Obligations.RoundingIsCorrect := by
  unfold Obligations.RoundingIsCorrect
  intro f hf r sat
  have hs := Sys2Proof.Claims.shape_of_mem hf
  exact ⟨fun neg m e hm => Sys2Proof.Claims.round_roundedTo hs r sat neg hm e,
    fun a b ha hb ha0 hb0 => Sys2Proof.Claims.div_roundedTo hs r sat ha hb ha0 hb0⟩

section
/-! PROOF. Products and sums before rounding (O34). -/

namespace Sys2Proof.Claims
open Sys2Proof.Machine

/-! ### Products (R89, R148) -/

theorem mul_fin (s t : Bool) (m n : Nat) (e f : ℤ) :
    FVal.mul (.fin s m e) (.fin t n f) = (.fin (s != t) (m * n) (e + f), false) := by simp [FVal.mul, FVal.isNan]

theorem isZero_eq {x : FVal} (h : finite x = true) : x.isZero = decide (rat x = 0) := by
  obtain ⟨s, m, e, rfl⟩ := eq_fin_of_finite h
  rw [FVal.isZero, Bool.eq_iff_iff, decide_eq_true_eq, rat_fin_eq_zero, beq_iff_eq]

theorem mul_finite {a b : FVal} (ha : finite a = true) (hb : finite b = true) :
    finite (FVal.mul a b).1 = true ∧ rat (FVal.mul a b).1 = rat a * rat b ∧ (FVal.mul a b).2 = false := by
  obtain ⟨s, m, e, rfl⟩ := eq_fin_of_finite ha
  obtain ⟨t, n, g, rfl⟩ := eq_fin_of_finite hb
  rw [mul_fin]
  refine ⟨rfl, ?_, rfl⟩
  rw [rat_fin, rat_fin, rat_fin, sgn_xor, zpow_add₀ (by norm_num)]
  push_cast
  ring

theorem mul_inf {x : FVal} (hx : finite x = true) (s : Bool) :
    FVal.mul (.inf s) x = if rat x = 0 then (.nan false, true) else (.inf (s != x.neg?), false) := by
  have hz := isZero_eq hx
  obtain ⟨t, m, e, rfl⟩ := eq_fin_of_finite hx
  simp only [FVal.mul, FVal.isNan, hz, Bool.or_self, Bool.false_eq_true, if_false, decide_eq_true_eq]

/-! ### Sums (R79, R149) -/

/-- A finite value in units of 2^e. -/
theorem rat_eq_numAt {x : FVal} {e : ℤ} (hx : finite x = true) (he : e ≤ x.exp) : rat x = x.numAt e * 2 ^ e := by
  obtain ⟨s, m, g, rfl⟩ := eq_fin_of_finite hx
  have hg : (2 : ℚ) ^ g = 2 ^ (g - e).toNat * 2 ^ e := by
    rw [← zpow_natCast, Int.toNat_of_nonneg (by simpa [FVal.exp] using he), ← zpow_add₀ (by norm_num), sub_add_cancel]
  rw [rat_fin, hg, FVal.numAt]
  cases s <;> simp [sgn] <;> ring

theorem foldl_min_le (l : List FVal) (c : ℤ) : l.foldl (fun e y => min e y.exp) c ≤ c
    ∧ ∀ y ∈ l, l.foldl (fun e y => min e y.exp) c ≤ y.exp := by
  induction l generalizing c with
  | nil => simp
  | cons x l ih =>
    obtain ⟨h1, h2⟩ := ih (min c x.exp)
    refine ⟨le_trans h1 (min_le_left _ _), fun y hy => ?_⟩
    rcases List.mem_cons.1 hy with rfl | hy
    · exact le_trans h1 (min_le_right _ _)
    · exact h2 y hy

theorem minExp_le {l : List FVal} {x : FVal} (hx : x ∈ l) : minExp l ≤ x.exp := by
  cases l with
  | nil => simp at hx
  | cons y l =>
    obtain ⟨h1, h2⟩ := foldl_min_le l y.exp
    rcases List.mem_cons.1 hx with rfl | hx
    · exact h1
    · exact h2 x hx

/-- The numerator of a sum over its least exponent. -/
def sumNum (l : List FVal) : ℤ := (l.map (fun x => x.numAt (minExp l))).sum

theorem sum_rat_eq {l : List FVal} (hl : ∀ x ∈ l, finite x = true) : (l.map rat).sum = sumNum l * 2 ^ minExp l := by
  have hmap : l.map rat = l.map (fun x => (x.numAt (minExp l) : ℚ) * 2 ^ minExp l) :=
    List.map_congr_left fun x hx => rat_eq_numAt (hl x hx) (minExp_le hx)
  rw [hmap, List.sum_map_mul_right, sumNum, Int.cast_list_sum, List.map_map]
  rfl

/-- The sign of an exact zero sum (R79). -/
def zeroSign (r : Rnd) (l : List FVal) : Bool :=
  if l.all (fun x => x.isZero && x.neg?) then true else if l.all (fun x => x.isZero && !x.neg?) then false else r == .rd

/-- A sum of numbers. -/
theorem sum_finite (r : Rnd) {l : List FVal} (hl : ∀ x ∈ l, finite x = true) :
    FVal.sum r l = (if sumNum l = 0 then .fin (zeroSign r l) 0 0 else .fin (decide (sumNum l < 0)) (sumNum l).natAbs (minExp l), false) := by
  have none_of (p : FVal → Bool) (hp : ∀ s m e, p (.fin s m e) = false) : l.any p = false :=
    List.any_eq_false.2 fun x hx => by
      obtain ⟨s, m, e, rfl⟩ := eq_fin_of_finite (hl x hx)
      simp [hp]
  have hsum : l.foldl (fun (acc : ℤ) x => acc + x.numAt (minExp l)) 0 = sumNum l := by
    rw [foldl_add_eq_sum, zero_add, sumNum]
  simp only [FVal.sum, none_of FVal.isNan (fun _ _ _ => rfl), none_of (fun x => x == .inf false) (fun _ _ _ => rfl),
    none_of (fun x => x == .inf true) (fun _ _ _ => rfl), Bool.and_self, Bool.false_eq_true, if_false, hsum, zeroSign]
  split_ifs <;> rfl

theorem sum_exact (r : Rnd) {l : List FVal} (hl : ∀ x ∈ l, finite x = true) :
    finite (FVal.sum r l).1 = true ∧ rat (FVal.sum r l).1 = (l.map rat).sum ∧ (FVal.sum r l).2 = false
    ∧ ((∃ x ∈ l, rat x ≠ 0) → (l.map rat).sum = 0 → (FVal.sum r l).1 = .fin (r == .rd) 0 0) := by
  rw [sum_finite r hl, sum_rat_eq hl]
  have hu := two_zpow_pos (minExp l)
  refine ⟨by split <;> rfl, ?_, rfl, ?_⟩
  · split
    · next h => rw [h, rat_fin]; simp
    · rw [rat_fin, ← mul_assoc]
      congr 1
      rcases lt_or_ge (sumNum l) 0 with h | h
      · rw [sgn, if_pos (by simpa using h), Nat.cast_natAbs, abs_of_neg h]; push_cast; ring
      · rw [sgn, if_neg (by simpa using h), Nat.cast_natAbs, abs_of_nonneg h]; ring
  · rintro ⟨x, hx, hx0⟩ h0
    have hnum : sumNum l = 0 := by
      rcases mul_eq_zero.1 h0 with h | h
      · exact_mod_cast h
      · exact absurd h hu.ne'
    have hall : ∀ s : Bool, l.all (fun x => x.isZero && (x.neg? != s)) = false := fun s => List.all_eq_false.2 ⟨x, hx, by
      rw [isZero_eq (hl x hx), decide_eq_false hx0]; simp⟩
    have h1 := hall false
    have h2 := hall true
    simp only [Bool.bne_false, Bool.bne_true] at h1 h2
    simp [hnum, zeroSign, h1, h2]

theorem sum_inf (r : Rnd) {x : FVal} (hx : finite x = true) (s : Bool) :
    FVal.sum r [.inf s, x] = (.inf s, false) ∧ FVal.sum r [.inf s, .inf s] = (.inf s, false)
    ∧ FVal.sum r [.inf s, .inf (!s)] = (.nan false, true) := by
  obtain ⟨t, m, e, rfl⟩ := eq_fin_of_finite hx
  cases s <;> simp [FVal.sum, FVal.isNan]

/-! ### Rounded results -/

/-- What is rounded from an exact number that is not 0 is correctly rounded. -/
theorem round_finite_roundedTo {f : FFmt} (hf : Shape f) (r : Rnd) (sat : Bool) {x : FVal} (hx : finite x = true) (h0 : rat x ≠ 0) :
    RoundedTo f r sat (rat x) (f.round r sat x) := by
  obtain ⟨s, m, e, rfl⟩ := eq_fin_of_finite hx
  exact round_roundedTo hf r sat s (fun h => h0 (rat_fin_eq_zero.2 h)) e

theorem when_false (g : Flags) : Flags.when false g = 0 := rfl

/-- The array and the awl units round after every product that they add (R90, R253). -/
theorem mac_roundedTo (acc : Nat) {a b : FVal} (hc : finite (ffF32.val acc) = true) (ha : finite a = true) (hb : finite b = true)
    (h0 : rat (ffF32.val acc) + rat a * rat b ≠ 0) :
    RoundedTo ffF32 .rn false (rat (ffF32.val acc) + rat a * rat b) (AccKind'.f32.mac acc (.real a) (.real b)) := by
  obtain ⟨hp, hprod, hnv⟩ := mul_finite ha hb
  have hall : ∀ x ∈ [ffF32.val acc, (FVal.mul a b).1], finite x = true := by simp [hc, hp]
  obtain ⟨hs, hsum, hnv', -⟩ := sum_exact .rn hall
  have hval : rat (FVal.sum .rn [ffF32.val acc, (FVal.mul a b).1]).1 = rat (ffF32.val acc) + rat a * rat b := by
    rw [hsum]; simp [hprod]
  have hmac : AccKind'.f32.mac acc (.real a) (.real b)
      = ffF32.round .rn false (FVal.sum .rn [ffF32.val acc, (FVal.mul a b).1]).1 := by
    simp [AccKind'.mac, FFmt.add, FFmt.roundX, hnv, hnv', when_false]
  rw [hmac, ← hval]
  exact round_finite_roundedTo (shape_of_mem (by simp [formats])) _ _ hs (by rwa [hval])

/-- A number by zero is infinite with DZ (R148). -/
theorem div_zero_eq (f : FFmt) (r : Rnd) {x : FVal} (s : Bool) (hx : finite x = true) (h0 : rat x ≠ 0) :
    f.div r false x (.fin s 0 0) = ((f.round r false (.inf (x.neg? != s))).1, fDZ ||| (f.round r false (.inf (x.neg? != s))).2) := by
  obtain ⟨t, m, e, rfl⟩ := eq_fin_of_finite hx
  have hm : m ≠ 0 := fun h => h0 (rat_fin_eq_zero.2 h)
  simp [FFmt.div, FFmt.quot, FVal.isNan, hm, FVal.neg?]

end Sys2Proof.Claims
end

/-- Settles O34: products and sums of numbers as rational numbers, the cases of infinities and zeros, and the rounding of
each sum of the array (`Sys2Proof.Claims.mac_roundedTo`). -/
theorem exactArithmetic : Obligations.ExactArithmetic := by
  unfold Obligations.ExactArithmetic
  refine ⟨fun a b ha hb => Sys2Proof.Claims.mul_finite ha hb, fun r l hl => Sys2Proof.Claims.sum_exact r hl,
    fun r x s hx => ⟨Sys2Proof.Claims.mul_inf hx s, Sys2Proof.Claims.sum_inf r hx s⟩,
    fun acc a b hc ha hb h0 => Sys2Proof.Claims.mac_roundedTo acc hc ha hb h0,
    fun f _ r x s hx h0 => Sys2Proof.Claims.div_zero_eq f r s hx h0⟩

section
/-! PROOF. Integer division (O3). -/

namespace Sys2Proof.Claims
open Sys2Proof.Machine

/-! ### Operands of one element (R71, R116) -/

theorem toNat_el_zero (w : Nat) (v : DWord) : (el w 0 v).toNat = v.toNat % 2 ^ w := by simp [el]

theorem valOf_mod (w : Nat) (sgn : Bool) (n : Nat) : valOf w sgn (n % 2 ^ w) = valOf w sgn n := by simp [valOf]

/-- The number that an operand of one element holds. -/
theorem valOf_operand {w : Nat} (hw : 0 < w) (sgn : Bool) (v : DWord) : valOf w sgn v.toNat = num sgn (el w 0 v) := by
  rw [← valOf_eq_num hw, toNat_el_zero, valOf_mod]

theorem ofInt_num {w : Nat} (sgn : Bool) (a : BitVec w) : BitVec.ofInt w (num sgn a) = a := by
  cases sgn <;> simp [num]

theorem wrapTo_num {w : Nat} (sgn : Bool) (a : BitVec w) : wrapTo w (num sgn a) = a.toNat := by
  rw [wrapTo_eq_ofInt, ofInt_num]

/-- A value of the model as the value of one element. -/
theorem ofNat_eq_setWidth {w : Nat} (b : BitVec w) : BitVec.ofNat 64 b.toNat = b.setWidth 64 := by
  apply BitVec.eq_of_toNat_eq; simp

/-! ### Quotient and remainder (R83) -/

theorem num_eq_zero {w : Nat} (sgn : Bool) (b : BitVec w) : num sgn b = 0 ↔ b = 0 := by
  constructor
  · intro h
    rw [← ofInt_num sgn b, h]; simp
  · rintro rfl
    cases sgn <;> simp [num]

theorem num_eq_intMin {w : Nat} (hw : 0 < w) (a : BitVec w) : num true a = intMin w true ↔ a = BitVec.intMin w := by
  have h : intMin w true = (BitVec.intMin w).toInt := by
    rw [BitVec.toInt_intMin_of_pos hw]; simp [intMin]
  rw [h, num, if_pos rfl, BitVec.toInt_inj]

theorem num_eq_neg_one {w : Nat} (hw : 0 < w) (b : BitVec w) : num true b = -1 ↔ b = BitVec.allOnes w := by
  have h : (BitVec.allOnes w).toInt = -1 := by rw [BitVec.toInt_allOnes, if_pos hw]
  rw [← h, num, if_pos rfl, BitVec.toInt_inj]

theorem wrapTo_tdiv {w : Nat} (sgn : Bool) (a b : BitVec w) :
    wrapTo w ((num sgn a).tdiv (num sgn b)) = (if sgn then a.sdiv b else a.udiv b).toNat := by
  rw [wrapTo_eq_ofInt]
  congr 1
  cases sgn
  · apply BitVec.eq_of_toNat_eq
    have hlt : a.toNat / b.toNat < 2 ^ w := lt_of_le_of_lt (Nat.div_le_self _ _) a.isLt
    simp only [num, Bool.false_eq_true, if_false, BitVec.udiv_eq, BitVec.toNat_udiv]
    rw [← Int.ofNat_tdiv, BitVec.ofInt_natCast, BitVec.toNat_ofNat, Nat.mod_eq_of_lt hlt]
  · apply BitVec.eq_of_toInt_eq
    simp [num, BitVec.toInt_sdiv]

theorem wrapTo_tmod {w : Nat} (sgn : Bool) (a b : BitVec w) :
    wrapTo w (num sgn a - num sgn b * (num sgn a).tdiv (num sgn b)) = (if sgn then a.srem b else a.umod b).toNat := by
  rw [← Int.tmod_def, wrapTo_eq_ofInt]
  congr 1
  cases sgn
  · apply BitVec.eq_of_toNat_eq
    have hlt : a.toNat % b.toNat < 2 ^ w := lt_of_le_of_lt (Nat.mod_le _ _) a.isLt
    simp only [num, Bool.false_eq_true, if_false, BitVec.umod_eq, BitVec.toNat_umod]
    rw [← Int.ofNat_tmod, BitVec.ofInt_natCast, BitVec.toNat_ofNat, Nat.mod_eq_of_lt hlt]
  · rw [num, num, if_pos rfl, if_pos rfl, ← BitVec.toInt_srem, BitVec.ofInt_toInt]; rfl

/-- The model's division is the one of the statement. -/
theorem divRem_eq_divided {w : Nat} (hw : 0 < w) (sgn : Bool) (a b : BitVec w) :
    divRem w sgn (num sgn a) (num sgn b)
      = ((divided w sgn a b).1.toNat, (divided w sgn a b).2.1.toNat, (divided w sgn a b).2.2) := by
  unfold divRem divided
  by_cases hb : b = 0
  · rw [if_pos ((num_eq_zero sgn b).2 hb), if_pos hb, wrapTo_num]; simp
  · rw [if_neg (fun h => hb ((num_eq_zero sgn b).1 h)), if_neg hb]
    dsimp only
    rw [wrapTo_tdiv, wrapTo_tmod, wrapTo_num]
    cases sgn
    · rfl
    · by_cases hm : a = BitVec.intMin w ∧ b = BitVec.allOnes w
      · simp [num_eq_intMin hw, num_eq_neg_one hw, hm]
      · rw [if_pos rfl, if_neg hm, if_neg (by simpa [num_eq_intMin hw, num_eq_neg_one hw] using hm)]
        rfl

theorem divVal_eq (isRem : Bool) (ty : Ty) :
    divVal isRem ty = fun l =>
      let d := divided (Ty.elemBits ty) (Ty.signed ty) (el (Ty.elemBits ty) 0 (opAt l 0)) (el (Ty.elemBits ty) 0 (opAt l 1))
      one (if isRem then d.2.1 else d.1, d.2.2) := by
  funext l
  unfold divVal
  simp only [valOf_operand (elemBits_pos ty), divRem_eq_divided (elemBits_pos ty), one]
  cases isRem <;> simp only [Bool.false_eq_true, if_false, if_true, ofNat_eq_setWidth]

end Sys2Proof.Claims
end

/-- Settles O3: the model's division on integers is that of bit vectors (`Sys2Proof.Claims.divRem_eq_divided`). -/
theorem division : Obligations.Division := by
  unfold Obligations.Division
  intro o
  have hq := Sys2Proof.Claims.divVal_eq false o.ty
  have hr := Sys2Proof.Claims.divVal_eq true o.ty
  simp only [Bool.false_eq_true, if_false, if_true] at hq hr
  dsimp only
  rw [← hq, ← hr]
  exact ⟨Sys2Proof.Claims.computes_of_descBin (fun _ => rfl) rfl rfl rfl,
    Sys2Proof.Claims.computes_of_descBin (fun _ => rfl) rfl rfl rfl⟩

section
/-! PROOF. Instructions that compute on registers (O8 to O10): the description of each fits its form; element-wise values
of a floating-point type; and the widths of rounded results. -/

namespace Sys2Proof.Claims
open Sys2Proof.Machine

/-! ### Descriptions -/

/-- A plain description, in whatever place rule, fits the form with its predicate, destination and sources. -/
theorem fits_of_plain {d : OpDesc} {p : Pred} {r : Reg} {n : Nat} {srcs : List Src} {g : List DWord → DWord × Flags}
    (h : d = { plainDesc p (.reg r n) srcs g with rmw := d.rmw, rule := d.rule }) (hrule : d.rule = .anyMem ∨ d.rule = .anyCore)
    (hr : r ≠ Reg.lit) (hn : 0 < n) (hsrcs : ∀ y ∈ srcs, ∀ x ∈ y.regs, 0 < x.2) : d.Fits ⟨p, .reg r n, srcs⟩ g where
  pred := by rw [h]; rfl
  dst := by rw [h]; rfl
  dst2 := by rw [h]; rfl
  srcs := by rw [h]; rfl
  rule := hrule
  uni := by rw [h]; rfl
  core := by rw [h]; rfl
  l2u := by rw [h]; rfl
  body := by rw [h]; rfl
  noLit r' n' h' := by obtain ⟨rfl, -⟩ := Dst.reg.inj h'; exact hr
  pos x hx := by
    simp only [Form.regs, Dst.regs, List.mem_append, List.mem_singleton, List.mem_flatMap] at hx
    rcases hx with rfl | ⟨y, hy, hx⟩
    · exact hn
    · exact hsrcs y hy x hx

/-- At MEM no f64 is accepted, which changes no other part of a description (R49, R152). -/
theorem noF64AtMem_fits {d : OpDesc} {f : Form} {g : List DWord → DWord × Flags} (h : d.Fits f g) (ty : Ty) :
    (noF64AtMem ty d).Fits f g := by
  unfold noF64AtMem
  split
  · exact ⟨h.pred, h.dst, h.dst2, h.srcs, .inr rfl, h.uni, h.core, h.l2u, h.body, h.noLit, h.pos⟩
  · exact h

/-- An instruction that the model carries out by a description computes what its form says. -/
theorem computes_of_fits {o : F3} {i : Instr} {d : OpDesc} {f : Form} {g : List DWord → DWord × Flags} {opc : BitVec 8}
    {sub : BitVec 4} (hexec : ∀ s, exec i s = .next (s.issueDesc i d)) (hfits : i.wf = true → d.Fits f g)
    (henc : encode i = [o.word opc sub]) (hopc : abortsSpan opc.toNat = false) : Computes i f g := by
  intro s t hw hr c
  exact ⟨_, hexec s, issueDesc_done hr (hfits hw) c ((congrArg abortsSpan (opcOf_f3 henc)).trans hopc)⟩

theorem ne_lit_of_rule {u : F3Rule} {o : F3} {n : Nat} (h : u.ok o = true) (hd : u.d = .dst n) : o.d ≠ Reg.lit := by
  simp only [F3Rule.ok, hd, FieldUse.ok, Bool.and_eq_true] at h
  exact ne_lit_of_okGroup (by tauto)

/-! ### Elements of a floating-point type (R71, R84) -/

theorem fElems_eq_feach (ty : Ty) (x : FFmt → FVal → FVal → FVal → Nat × Flags) :
    fElems ty x = feach ty (fun f v => x f (v 0) (v 1) (v 2)) := by
  funext l
  simp only [fElems, perElem_eq_each_ofNat (elemBits_mul_elems ty), elemOf_eq_el]
  rfl

theorem fUnary_eq_feachBits (ty : Ty) (x : FFmt → Nat → Nat × Flags) : fUnary ty x = feachBits ty x := by
  funext l
  simp only [fUnary, perElem_eq_each_ofNat (elemBits_mul_elems ty), elemOf_eq_el]
  rfl

/-! ### Widths of results -/

theorem signed_zero_lt (f : FFmt) (neg : Bool) : f.signBits neg < 2 ^ f.width :=
  signed_lt (f := f) (b := 0) (Nat.two_pow_pos _) neg

/-- What is brought to a format fits in its width. -/
theorem round_lt {f : FFmt} (hf : Shape f) (r : Rnd) (sat : Bool) (x : FVal) : (f.round r sat x).1 < 2 ^ f.width := by
  have hnan : f.nanBits < 2 ^ f.width := by simpa [FFmt.signBits] using signed_lt (f := f) (nanBits_lt hf) false
  cases x with
  | nan sig => exact hnan
  | inf neg =>
    simp only [FFmt.round]
    split
    · split
      · exact signed_lt (maxBits_lt hf) neg
      · exact hnan
    · split <;> exact signed_lt (infBits_lt f) neg
  | fin neg m e =>
    rcases Nat.eq_zero_or_pos m with rfl | hm
    · exact signed_zero_lt f neg
    · exact (round_roundedTo hf r sat neg hm.ne' e).width

/-- A result of `w` bits in an operand. -/
theorem ofNat_eq_setWidth_ofNat {w n : Nat} (hn : n < 2 ^ w) (hw : w ≤ 64) : BitVec.ofNat 64 n = (BitVec.ofNat w n).setWidth 64 := by
  apply BitVec.eq_of_toNat_eq
  have h64 : n < 2 ^ 64 := lt_of_lt_of_le hn (Nat.pow_le_pow_right (by norm_num) hw)
  rw [BitVec.toNat_setWidth, BitVec.toNat_ofNat, BitVec.toNat_ofNat, Nat.mod_eq_of_lt hn]

end Sys2Proof.Claims
end

section
/-! PROOF. Floating-point arithmetic (O8). -/

namespace Sys2Proof.Claims
open Sys2Proof.Machine

section
variable {o : F3}

/-- The forms with D, A and B of the type (R147). -/
theorem floatBin_fits (hd : o.d ≠ Reg.lit) (x : FFmt → FVal → FVal → FVal → Nat × Flags) :
    (noF64AtMem o.ty (descBin o (fElems o.ty x))).Fits (bin o) (feach o.ty (fun f v => x f (v 0) (v 1) (v 2))) := by
  rw [← fElems_eq_feach]
  exact noF64AtMem_fits (descBin_fits hd _) _

theorem computes_floatBin {i : Instr} {rnd : Bool} {opc : BitVec 8} {sub : BitVec 4} (x : FFmt → FVal → FVal → FVal → Nat × Flags)
    (hexec : ∀ s, exec i s = .next (s.issueDesc i (noF64AtMem o.ty (descBin o (fElems o.ty x)))))
    (hwf : i.wf = legalFBin rnd o) (henc : encode i = [o.word opc sub]) (hopc : abortsSpan opc.toNat = false) :
    Computes i (bin o) (feach o.ty (fun f v => x f (v 0) (v 1) (v 2))) :=
  computes_of_fits hexec (fun hw => floatBin_fits (ne_lit_of_rule (hwf ▸ hw : legalFBin rnd o = true) rfl) x) henc hopc

theorem computes_ffma : Computes (.ffma o) (tern o) (feach o.ty (fun f v => f.dot o.rnd o.sat [(v 0, v 1)] (v 2))) :=
  computes_of_fits (fun _ => rfl)
    (fun hw => by
      rw [← fElems_eq_feach o.ty (fun f a b c => f.dot o.rnd o.sat [(a, b)] c)]
      refine noF64AtMem_fits (fits_of_plain rfl (.inl rfl) (ne_lit_of_rule hw rfl) (regs_pos _) ?_) _
      simp [bin, Src.regs, regs_pos])
    rfl rfl

theorem fscaleVal_eq (ty : Ty) (r : Rnd) (sat : Bool) : fscaleVal ty r sat = fun l => each (Ty.elemBits ty) (Ty.elems ty) (fun e =>
    let wb := if Ty.elems ty = 2 then 16 else 32
    let x := (tyFmt ty).scale r sat ((tyFmt ty).val (el (Ty.elemBits ty) e (opAt l 0)).toNat) (el wb e (opAt l 1)).toInt
    (BitVec.ofNat _ x.1, x.2)) := by
  funext l
  have hwb : 0 < (if Ty.elems ty = 2 then 16 else 32) := by split <;> decide
  simp only [fscaleVal, perElem_eq_each_ofNat (elemBits_mul_elems ty), elemOf_eq_el, valOf_eq_num hwb, num, if_true]

theorem computes_fscale : Computes (.fscale o)
    ⟨o.p, .reg o.d (Ty.regs o.ty), [.reg o.a (Ty.regs o.ty) (litVal o.ty o.imm),
      .reg o.b 1 (litVal (if Ty.elems o.ty = 2 then .i16x2 else .i32) o.imm)]⟩ (fscaleVal o.ty o.rnd o.sat) :=
  computes_of_fits (fun _ => rfl)
    (fun hw => noF64AtMem_fits (fits_of_plain rfl (.inl rfl) (ne_lit_of_rule hw rfl) (regs_pos _)
      (by simp [Src.regs, regs_pos])) _)
    rfl rfl

theorem fdot2Val_eq (ty : Ty) (r : Rnd) (sat : Bool) : fdot2Val ty r sat = fun l =>
    let v (i e : Nat) : FVal := (tyFmt ty).val (el 16 e (opAt l i)).toNat
    let x := ffF32.dot r sat [(v 0 0, v 1 0), (v 0 1, v 1 1)] (ffF32.val (el 32 0 (opAt l 2)).toNat)
    one ((BitVec.ofNat 32 x.1 : Word), x.2) := by
  funext l
  have hlt (ps : List (FVal × FVal)) (c : FVal) : (ffF32.dot r sat ps c).1 < 2 ^ 32 :=
    round_lt (f := ffF32) (shape_tyFmt .f32) r sat _
  simp only [fdot2Val, elemOf_eq_el, ← toNat_el_zero, one, ofNat_eq_setWidth_ofNat (hlt _ _) (by norm_num)]

theorem computes_fdot2 : Computes (.fdot2 o)
    ⟨o.p, .reg o.d 1, [.reg o.a 1 (litVal o.ty o.imm), .reg o.b 1 (litVal o.ty o.imm), .reg o.c 1 (litVal .f32 o.imm)]⟩
    (fdot2Val o.ty o.rnd o.sat) :=
  computes_of_fits (fun _ => rfl)
    (fun hw => by
      have hregs : Ty.regs o.ty = 1 := by
        have hty : [Ty.f16x2, .bf16x2].contains o.ty = true := by
          simp only [Instr.wf, Instr.legal, F3Rule.ok, Bool.and_eq_true] at hw; tauto
        rcases (by simpa using hty : o.ty = .f16x2 ∨ o.ty = .bf16x2) with h | h <;> rw [h] <;> rfl
      have h := fits_of_plain (d := descFdot2 o) (g := fdot2Val o.ty o.rnd o.sat) rfl (.inl rfl) (ne_lit_of_rule hw rfl) Nat.one_pos
        (by simp [srcOf, Src.regs, regs_pos])
      rwa [srcOf, srcOf, hregs] at h)
    rfl rfl

end

end Sys2Proof.Claims
end

/-- Settles O8: each instruction is the shared operation of its form, with the element-wise value that the statement
names. -/
theorem floatArithmetic : Obligations.FloatArithmetic := by
  unfold Obligations.FloatArithmetic
  intro o
  refine ⟨Sys2Proof.Claims.computes_floatBin (rnd := true) (fun f a b _ => f.add o.rnd o.sat a b) (fun _ => rfl) rfl rfl rfl,
    Sys2Proof.Claims.computes_floatBin (rnd := true) (fun f a b _ => f.add o.rnd o.sat a b.negate) (fun _ => rfl) rfl rfl rfl,
    Sys2Proof.Claims.computes_floatBin (rnd := true) (fun f a b _ => f.mul o.rnd o.sat a b) (fun _ => rfl) rfl rfl rfl,
    Sys2Proof.Claims.computes_ffma,
    Sys2Proof.Claims.computes_floatBin (rnd := true) (fun f a b _ => f.div o.rnd o.sat a b) (fun _ => rfl) rfl rfl rfl, ?_, ?_⟩
  · rw [← Sys2Proof.Claims.fscaleVal_eq]
    exact Sys2Proof.Claims.computes_fscale
  · rw [← Sys2Proof.Claims.fdot2Val_eq]
    exact Sys2Proof.Claims.computes_fdot2

section
/-! PROOF. Conversions (O10). -/

namespace Sys2Proof.Claims
open Sys2Proof.Machine

theorem computes_congr {i : Instr} {f : Form} {g g' : List DWord → DWord × Flags} (h : Computes i f g)
    (hg : i.wf = true → g = g') : Computes i f g' :=
  fun s t hw => hg hw ▸ h s t hw

/-! ### One result -/

/-- A rounded number as one value. -/
theorem one_round {f : FFmt} (hf : Shape f) (hw : f.width ≤ 64) (r : Rnd) (sat : Bool) (x : FVal) :
    (BitVec.ofNat 64 (f.round r sat x).1, (f.round r sat x).2)
      = one ((BitVec.ofNat f.width (f.round r sat x).1 : BitVec f.width), (f.round r sat x).2) := by
  rw [one, ofNat_eq_setWidth_ofNat (round_lt hf r sat x) hw]

theorem width_tyFmt_le (ty : Ty) : (tyFmt ty).width ≤ 64 := by cases ty <;> decide

theorem ofNat_wrapTo (w : Nat) (x : Int) : BitVec.ofNat 64 (wrapTo w x) = (BitVec.ofInt w x).setWidth 64 := by
  rw [wrapTo_eq_ofInt, ofNat_eq_setWidth]

/-- An element in the format f32 (R154, R157). -/
theorem one_widen (f : FFmt) (w e : Nat) (v : DWord) :
    (let r := widen f ffF32 (elemOf w e v); ((BitVec.ofNat 64 r.1, r.2) : DWord × Flags))
      = one ((BitVec.ofNat ffF32.width (ffF32.round .rn false (f.val (el w e v).toNat)).1 : BitVec ffF32.width),
          (ffF32.round .rn false (f.val (el w e v).toNat)).2) := by
  rw [← elemOf_eq_el]
  exact one_round (shape_tyFmt .f32) (by decide) _ _ _

theorem shape_e5m2 : Shape ffE5M2 := shape_of_mem (by simp [formats])
theorem shape_e4m3 : Shape ffE4M3 := shape_of_mem (by simp [formats])

/-! ### Scalar conversions (R154) -/

/-- The bound of an integer type on one side. -/
def clampTo (w : Nat) (sgn neg : Bool) : BitVec w := BitVec.ofInt w (if neg then least w sgn else greatest w sgn)

/-- A floating-point number brought to an integer type (R154). -/
def toIntVal (w : Nat) (sgn : Bool) (r : Rnd) (v : FVal) : BitVec w × Flags :=
  match v with
  | .nan _ => (0, fNV)
  | .inf neg => (clampTo w sgn neg, fNV)
  | .fin neg m e =>
    let k := roundAt r neg m e 0
    let x : Int := if neg then -(k.1 : Int) else k.1
    if x < least w sgn ∨ greatest w sgn < x then (clampTo w sgn neg, fNV) else (BitVec.ofInt w x, Flags.when k.2 fNX)


/-- The integer that a conversion gives is the rounded number, clamped (R154). -/
theorem floatToInt_eq (w : Nat) (sgn : Bool) (r : Rnd) (v : FVal) :
    ((BitVec.ofNat 64 (floatToInt w sgn r v).1, (floatToInt w sgn r v).2) : DWord × Flags) = one (toIntVal w sgn r v) := by
  cases v with
  | nan sig => simp [floatToInt, toIntVal, one]
  | inf neg => cases neg <;> simp [floatToInt, toIntVal, one, clampTo, ofNat_wrapTo, intMin_eq_least, intMax_eq_greatest]
  | fin neg m e =>
    have hmin : least w sgn ≤ 0 := by cases sgn <;> simp [least]
    have hmax : 0 ≤ greatest w sgn := by
      have h (n : Nat) : (1 : Int) ≤ 2 ^ n := one_le_pow₀ (by norm_num)
      have := h w; have := h (w - 1)
      cases sgn <;> simp only [greatest, if_true, Bool.false_eq_true, if_false] <;> omega
    generalize hx : (if neg = true then -((roundAt r neg m e 0).1 : Int) else ((roundAt r neg m e 0).1 : Int)) = x
    have hneg : x < 0 → neg = true := by cases neg <;> simp at hx ⊢; omega
    have hpos : 0 < x → neg = false := by cases neg <;> simp at hx ⊢; omega
    simp only [floatToInt, toIntVal, one, clampTo, intMin_eq_least, intMax_eq_greatest, hx]
    by_cases h1 : x < least w sgn
    · simp [h1, hneg (by omega), ofNat_wrapTo]
    · by_cases h2 : greatest w sgn < x
      · simp [h1, h2, hpos (by omega), ofNat_wrapTo]
      · simp [h1, h2, ofNat_wrapTo]

/-- The value of a scalar conversion in the terms of its two types (R154). -/
theorem cvtVal_eq (dst src : Ty) (r : Rnd) (sat : Bool) :
    (fun l : List DWord => let x := cvtVal dst src r sat (opAt l 0).toNat; ((BitVec.ofNat 64 x.1, x.2) : DWord × Flags))
      = fun l =>
        let a := el (Ty.elemBits src) 0 (opAt l 0)
        match Ty.isFloat dst, Ty.isFloat src with
        | false, false => one (fit (Ty.elemBits dst) (Ty.signed dst) sat (num (Ty.signed src) a))
        | true, false => one ((BitVec.ofNat (tyFmt dst).width ((tyFmt dst).round r sat (FVal.ofInt (num (Ty.signed src) a))).1 :
            BitVec (tyFmt dst).width), ((tyFmt dst).round r sat (FVal.ofInt (num (Ty.signed src) a))).2)
        | false, true => one (toIntVal (Ty.elemBits dst) (Ty.signed dst) r ((tyFmt src).val a.toNat))
        | true, true => one ((BitVec.ofNat (tyFmt dst).width ((tyFmt dst).round r sat ((tyFmt src).val a.toNat)).1 :
            BitVec (tyFmt dst).width), ((tyFmt dst).round r sat ((tyFmt src).val a.toNat)).2) := by
  funext l
  have hround := one_round (shape_tyFmt dst) (width_tyFmt_le dst) r sat
  cases hd : Ty.isFloat dst <;> cases hs : Ty.isFloat src <;> simp only [cvtVal, hd, hs, toNat_el_zero]
  case false.false => simp only [valOf_operand (elemBits_pos src), fitInt_eq_fit, ofNat_eq_setWidth, one]
  case false.true => exact floatToInt_eq _ _ _ _
  case true.false => rw [valOf_operand (elemBits_pos src)]; exact hround _
  case true.true => exact hround _

section
variable {o : F3}

theorem computes_cvtScalar : Computes (.cvt .scalar o)
    ⟨o.p, .reg o.d (Ty.regs o.ty), [.reg o.a (Ty.regs ((Ty.ofCode (o.imm.extractLsb' 0 4)).getD .i32)) 0]⟩
    (fun l =>
      let r := cvtVal o.ty ((Ty.ofCode (o.imm.extractLsb' 0 4)).getD .i32) o.rnd o.sat (opAt l 0).toNat; (BitVec.ofNat 64 r.1, r.2)) := by
  refine computes_of_fits (fun _ => rfl) (fun hw => fits_of_plain rfl (.inr rfl) ?_ (regs_pos _) ?_) rfl rfl
  · have hl : legalCvt .scalar o = true := hw
    simp only [legalCvt] at hl
    split at hl
    · simp at hl
    · simp only [Bool.and_eq_true] at hl
      exact ne_lit_of_rule hl.1.1 rfl
  · simp [Src.regs, regs_pos]

theorem computes_cvtNarrow : Computes (.cvt .narrow o) ⟨o.p, .reg o.d 1, [.reg o.a 1 0, .reg o.b 1 0]⟩
    (fun l => perElem 16 2 (fun e => (tyFmt o.ty).round o.rnd o.sat (ffF32.val ((opAt l e).toNat % 2 ^ 32)))) :=
  computes_of_fits (fun _ => rfl)
    (fun hw => fits_of_plain rfl (.inr rfl) (ne_lit_of_rule hw rfl) Nat.one_pos (by simp [Src.regs])) rfl rfl

theorem computes_cvtWiden : Computes (.cvt .widen o) ⟨o.p, .reg o.d 1, [.reg o.a 1 0]⟩
    (fun l =>
      let r := widen (tyFmt ((Ty.ofCode (o.imm.extractLsb' 0 4)).getD .f16x2)) ffF32 (elemOf 16 (if o.imm.getLsbD 4 then 1 else 0) (opAt l 0)); (BitVec.ofNat 64 r.1, r.2)) := by
  refine computes_of_fits (fun _ => rfl) (fun hw => fits_of_plain rfl (.inr rfl) ?_ Nat.one_pos (by simp [Src.regs])) rfl rfl
  have hl : legalCvt .widen o = true := hw
  simp only [legalCvt, Bool.and_eq_true] at hl
  exact ne_lit_of_rule hl.1.1 rfl

theorem computes_pack (e5m2 : Bool) : Computes (.pack e5m2 o) ⟨o.p, .reg o.d 1, [.reg o.a 1 0, .reg o.b 1 0, .reg o.d 1 0]⟩
    (packVal (if e5m2 then ffE5M2 else ffE4M3) o.rnd o.sat (o.imm.getLsbD 0)) := by
  refine computes_of_fits (fun _ => rfl) (fun hw => fits_of_plain rfl (.inr rfl) ?_ Nat.one_pos (by simp [Src.regs])) rfl rfl
  simp only [Instr.wf, Instr.legal, Bool.and_eq_true] at hw
  exact ne_lit_of_rule hw.1 rfl

theorem computes_unpack (e5m2 : Bool) : Computes (.unpack e5m2 o) ⟨o.p, .reg o.d 1, [.reg o.a 1 0]⟩
    (fun l =>
      let r := widen (if e5m2 then ffE5M2 else ffE4M3) ffF32 (elemOf 8 (o.imm.toNat % 4) (opAt l 0)); (BitVec.ofNat 64 r.1, r.2)) := by
  refine computes_of_fits (fun _ => rfl) (fun hw => fits_of_plain rfl (.inr rfl) ?_ Nat.one_pos (by simp [Src.regs])) rfl rfl
  simp only [Instr.wf, Instr.legal, Bool.and_eq_true] at hw
  exact ne_lit_of_rule hw.1 rfl

end

/-- The half of A that a widening reads is of one of the two types (R154). -/
theorem widen_source {o : F3} (hw : (Instr.cvt .widen o).wf = true) :
    (Ty.ofCode (o.imm.extractLsb' 0 4)).getD .f16x2 = (Ty.ofCode (o.imm.extractLsb' 0 4)).getD .i32 := by
  have hl : legalCvt .widen o = true := hw
  simp only [legalCvt, Bool.and_eq_true, Bool.or_eq_true, beq_iff_eq] at hl
  have hcode : (o.imm.extractLsb' 0 4).toNat = o.imm.toNat % 16 := by simp
  rcases hl.2 with h | h <;> simp [Ty.ofCode, hcode, h]

/-- Byte `e` of the result of a pack: two bytes are written, the other two kept (R155). -/
def packByte (f : FFmt) (r : Rnd) (sat hi : Bool) (l : List DWord) (e : Nat) : Nat × Flags :=
  if e / 2 = (if hi then 1 else 0) then f.round r sat (ffF32.val ((opAt l (e % 2)).toNat % 2 ^ 32))
  else (elemOf 8 e (opAt l 2), 0)

theorem packVal_eq_perElem {f : FFmt} (hf : f.width = 8) (hs : Shape f) (r : Rnd) (sat hi : Bool) (l : List DWord) :
    packVal f r sat hi l = perElem 8 4 (packByte f r sat hi l) := by
  obtain ⟨x, hx⟩ : ∃ x, x = f.round r sat (ffF32.val ((opAt l 0).toNat % 2 ^ 32)) := ⟨_, rfl⟩
  obtain ⟨y, hy⟩ : ∃ y, y = f.round r sat (ffF32.val ((opAt l 1).toNat % 2 ^ 32)) := ⟨_, rfl⟩
  have hx' : x.1 < 2 ^ 8 := hf ▸ hx ▸ round_lt hs r sat _
  have hy' : y.1 < 2 ^ 8 := hf ▸ hy ▸ round_lt hs r sat _
  have hval : packVal f r sat hi l = (BitVec.ofNat 64 (if hi then (opAt l 2).toNat % 65536 + 65536 * (x.1 + 256 * y.1)
      else (opAt l 2).toNat / 65536 % 65536 * 65536 + (x.1 + 256 * y.1)), x.2 ||| y.2) := by rw [hx, hy]; rfl
  rw [hval]
  norm_num at hx hy hx' hy'
  refine Prod.ext (congrArg (BitVec.ofNat 64) ?_) ?_
  · cases hi <;> simp [packByte, ← hx, ← hy, List.range_succ, packElems, elemOf] <;> omega
  · cases hi <;> simp [perElem, packByte, ← hx, ← hy, List.range_succ]

theorem packVal_eq {f : FFmt} (hf : f.width = 8) (hs : Shape f) (r : Rnd) (sat hi : Bool) (l : List DWord) :
    packVal f r sat hi l = each 8 4 (fun e =>
      if e / 2 = (if hi then 1 else 0) then
        (BitVec.ofNat 8 (f.round r sat (ffF32.val (el 32 0 (opAt l (e % 2))).toNat)).1,
          (f.round r sat (ffF32.val (el 32 0 (opAt l (e % 2))).toNat)).2)
      else (el 8 e (opAt l 2), 0)) := by
  rw [packVal_eq_perElem hf hs, perElem_eq_each_ofNat (by norm_num)]
  congr 1
  funext e
  by_cases h : e / 2 = (if hi then 1 else 0)
  · simp only [packByte, if_pos h, toNat_el_zero]
  · simp only [packByte, if_neg h, elemOf_eq_el, BitVec.ofNat_toNat, BitVec.setWidth_eq]

end Sys2Proof.Claims
end

/-- Settles O10: each instruction is the shared operation of its form; its value is the rounded (R77, R82) or clamped
(R154) number, and `pack` keeps the other two bytes of D. -/
theorem conversions : Obligations.Conversions := by
  unfold Obligations.Conversions
  intro o
  refine ⟨?_, ?_, ?_, fun e5m2 => ⟨?_, ?_⟩⟩
  · exact Sys2Proof.Claims.computes_congr Sys2Proof.Claims.computes_cvtScalar fun _ => Sys2Proof.Claims.cvtVal_eq _ _ _ _
  · refine Sys2Proof.Claims.computes_congr Sys2Proof.Claims.computes_cvtNarrow fun _ => ?_
    funext l
    simp only [Sys2Proof.Claims.perElem_eq_each_ofNat (w := 16) (n := 2) (by norm_num), Sys2Proof.Claims.toNat_el_zero]
  · refine Sys2Proof.Claims.computes_congr Sys2Proof.Claims.computes_cvtWiden fun hw => ?_
    funext l
    rw [Sys2Proof.Claims.widen_source hw]
    exact Sys2Proof.Claims.one_widen _ _ _ _
  · refine Sys2Proof.Claims.computes_congr (Sys2Proof.Claims.computes_pack e5m2) fun _ => ?_
    funext l
    cases e5m2
    · exact Sys2Proof.Claims.packVal_eq rfl Sys2Proof.Claims.shape_e4m3 ..
    · exact Sys2Proof.Claims.packVal_eq rfl Sys2Proof.Claims.shape_e5m2 ..
  · refine Sys2Proof.Claims.computes_congr (Sys2Proof.Claims.computes_unpack e5m2) fun _ => ?_
    funext l
    exact Sys2Proof.Claims.one_widen _ _ _ _

section
/-! PROOF. Instructions that go on or hold the team (O19). -/

namespace Sys2Proof.Claims
open Sys2Proof.Machine

section
variable {s s' : State} {t : Team}

/-- A team that stays at its instruction. -/
theorem setTeam_alone : Alone s (s.setTeam t) t t [] :=
  ⟨State.Frame.setTeam rfl, State.KeepsUni.of_fam (s := s) (s' := s.setTeam t) rfl _ _, State.team?_setTeam_same s t⟩

theorem Waits.of_setTeam (h : Waits (s.setTeam t) s' t) : Waits s s' t := by
  obtain ⟨hplain, hpaths⟩ := h
  exact ⟨fun hf => (hplain hf).of_setTeam, fun p q ps d hd hq hw => (hpaths p q ps d hd hq hw).of_setTeam⟩

theorem bitsAt_toNat {n : Nat} (v : BitVec n) (lo w : Nat) : bitsAt v.toNat lo w = (v.extractLsb' lo w).toNat := by
  simp [bitsAt, Nat.shiftRight_eq_div_pow]

/-- The bounds of a `wait` (R142). -/
theorem waitMet_iff (m : Word) (ld pl st : Nat) : waitMet m ld pl st = true ↔
    ld ≤ (m.extractLsb' 0 6).toNat ∧ pl ≤ (m.extractLsb' 6 6).toNat ∧ st ≤ (m.extractLsb' 12 6).toNat := by
  simp only [waitMet, bitsAt_toNat, Bool.and_eq_true, decide_eq_true_eq, and_assoc]

theorem execNop_alone {o : F3} (hr : s.Runs t) (c : UniClear s t [] o.p) : ∃ s', exec (.nop o) s = .next s'
    ∧ Alone s s' t { t.advance 1 with last := s.stamp } [] := by
  refine ⟨_, rfl, ?_⟩
  rw [byAgent_team hr, issuing_of_opc (by rw [opcOf_f3 (o := o) rfl]; rfl), guarded_uniClear c.setTeam (by simp), ite_self]
  exact advance_alone 1

theorem opcOf_fri {o : FRI} {i : Instr} {opc : BitVec 8} {sub : BitVec 4} (h : encode i = [o.word opc sub]) :
    opcOf i = opc.toNat := by
  simp [opcOf, h, Laws.Encoding.fri_top]

theorem exec_wait {o : FRI} (hr : s.Runs t) (c : UniClear s t [] o.p) : exec (.wait o) s = .next
    (if s.qHolds t o.p = true ∧ ¬ waitMet o.imm (t.out .ld) (t.out .pl) (t.out .st) = true then s.setTeam t
      else (s.setTeam t).advance t.ctx 1) := by
  change execWait o s = _
  rw [execWait, byAgent_team hr, issuing_of_opc (by rw [opcOf_fri (o := o) rfl]; rfl), guarded_uniClear c.setTeam (by simp)]
  change Host.Outcome.next (if s.qHolds t o.p then _ else _) = _
  by_cases hq : s.qHolds t o.p = true <;> by_cases hm : waitMet o.imm (t.out .ld) (t.out .pl) (t.out .st) = true <;>
    simp only [hq, hm] <;> simp

theorem execTfence_eq {o : F3} (hr : s.Runs t) (c : UniClear s t [] o.p) : exec (.tfence o) s = .next
    (if s.qHolds t o.p then
      (if !t.drained then (s.setTeam t).waitAt t.ctx
        else if t.flags &&& t.fen != 0 then (s.setTeam t).takeTrap t.ctx 1 (plainTrap .arith)
        else (s.setTeam t).advance t.ctx 1)
      else (s.setTeam t).advance t.ctx 1) := by
  change execTfence o s = _
  rw [execTfence, byTeam_team hr, issuing_of_opc (by rw [opcOf_f3 (o := o) rfl]; rfl), guarded_uniClear c.setTeam (by simp)]
  rfl

end

end Sys2Proof.Claims
end

/-- Settles O19: a `nop`, a `wait` whose bounds hold and a `tfence` that finds no enabled flag advance the team alone;
until then the team stays at its instruction. -/
theorem waitsAndFences : Obligations.WaitsAndFences := by
  unfold Obligations.WaitsAndFences
  intro s t hr
  refine ⟨fun o _ c => Sys2Proof.Claims.execNop_alone hr c, fun o _ c => ⟨fun hgo => ?_, fun hq hm => ?_⟩,
    fun o _ c => ⟨fun hgo => ?_, fun hq hd => ?_⟩⟩
  · refine ⟨_, Sys2Proof.Claims.exec_wait hr c, ?_⟩
    have hstop : ¬ (s.qHolds t o.p = true ∧ ¬ Sys2Proof.Machine.waitMet o.imm (t.out .ld) (t.out .pl) (t.out .st) = true) := by
      rintro ⟨hq, hm⟩
      exact hm ((Sys2Proof.Claims.waitMet_iff ..).2 (hgo.resolve_left (by simp [hq])))
    rw [if_neg hstop]
    exact Sys2Proof.Claims.advance_alone 1
  · refine ⟨_, Sys2Proof.Claims.exec_wait hr c, ?_⟩
    rw [if_pos ⟨hq, fun h => hm ((Sys2Proof.Claims.waitMet_iff ..).1 h)⟩]
    exact Sys2Proof.Claims.setTeam_alone
  · refine ⟨_, Sys2Proof.Claims.execTfence_eq hr c, ?_⟩
    rcases hgo with h | ⟨hd, hf⟩
    · simpa [h] using Sys2Proof.Claims.advance_alone 1
    · simpa [hd, hf] using Sys2Proof.Claims.advance_alone 1
  · refine ⟨_, Sys2Proof.Claims.execTfence_eq hr c, ?_⟩
    simpa [hq, hd] using Sys2Proof.Claims.Waits.of_setTeam (Sys2Proof.Claims.waitAt_waits (s.team?_setTeam_same t))

section
/-! PROOF. Sticky flags and the special registers (O18): a value written to a register, and a change of the team after it
(R144, R145). -/

namespace Sys2Proof.Claims
open Sys2Proof.Machine

theorem constDesc_fits_regs {p : Pred} {d : Reg} {n : Nat} (hd : d ≠ Reg.lit) (hn : 0 < n) (v : DWord) :
    (constDesc p d n v).Fits ⟨p, .reg d n, []⟩ (fun _ => (v, 0)) :=
  fits_of_plain rfl (.inr rfl) hd hn (by simp)

/-! ### A value written, and a change of the team (R144) -/

section
variable {s s1 : State} {t u : Team}

theorem advance_flags (t : Team) (n : Nat) (fl : BitVec 7) : ({ t with flags := fl } : Team).advance n = { t.advance n with flags := fl } := by
  simp only [Team.advance]
  split
  · rfl
  · rfl

/-- A change of the flags of a team that goes on. -/
theorem clearFlags_advance (hteam : s.team? t.ctx = some u) (hctx : u.ctx = t.ctx) (n : Nat) :
    ((s.modTeam t.ctx (fun u => { u with flags := 0 })).advance t.ctx n).team? t.ctx
        = ((s.advance t.ctx n).team? t.ctx).map (fun u => { u with flags := 0 })
      ∧ ((s.modTeam t.ctx (fun u => { u with flags := 0 })).advance t.ctx n).fams = (s.advance t.ctx n).fams
      ∧ ((s.modTeam t.ctx (fun u => { u with flags := 0 })).advance t.ctx n).mem = (s.advance t.ctx n).mem := by
  have hset := s.team?_setTeam_same { u with flags := 0 }
  rw [← hctx] at hteam ⊢
  rw [modTeam_some hteam, advance_some hteam, advance_some hset]
  simp only [settle_fams, settle_mem, settle_team?, advance_ctx, if_true, advance_flags, Option.map_some]
  exact ⟨rfl, rfl, rfl⟩

/-- Without sources, the lanes that take part are those of Active(T). -/
theorem any_lanesIn (t : Team) {d : OpDesc} {g} (hbody : d.body = .elem g) :
    (lanesIn t d false []).any (fun l => l.act) = !(t.active d.pred).isEmpty := by
  rw [Bool.eq_iff_iff]
  simp [lanesIn, hbody, laneInOf, Team.active]

/-- A value written, with a change of the team after it, is the value written with no change and, where it was written, the
change. -/
theorem writeThen_clearFlags {d : OpDesc} {f : Form} {g} (h : d.Fits f g) (c : f.Clear s t) (hteam : s.team? t.ctx = some t) :
    (s.writeThen t d (fun u => { u with flags := 0 })).team? t.ctx = ((s.writeThen t d (fun t => t)).team? t.ctx).map (fun u =>
        if (if f.atLane s t then !(t.active f.pred).isEmpty else s.qHolds t f.pred) then { u with flags := 0 } else u)
      ∧ (s.writeThen t d (fun u => { u with flags := 0 })).fams = (s.writeThen t d (fun t => t)).fams
      ∧ (s.writeThen t d (fun u => { u with flags := 0 })).mem = (s.writeThen t d (fun t => t)).mem := by
  unfold State.writeThen
  rw [descCause_clear h c, execLoc_clear h c, h.pred]
  cases hl : f.atLane s t with
  | true =>
    obtain ⟨out, hout⟩ := run_elem h.body false (s.launchOf t).e0 (lanesIn t d false [])
    obtain ⟨u, hu, hctx⟩ := writeOut_team? hteam d false (s.launchOf t).e0 (lanesIn t d false []) out
    have hid := advance_modTeam_id hu hctx 1
    have hany := h.pred ▸ any_lanesIn t h.body
    cases ha : !(t.active f.pred).isEmpty with
    | false => simp [Loc.uniform, State.guard, hany, ha]
    | true =>
      simpa [Loc.uniform, State.guard, hany, ha, hout, hid] using clearFlags_advance hu hctx 1
  | false =>
    obtain ⟨out, hout⟩ := run_elem h.body true (s.launchOf t).e0 (lanesIn t d true [])
    obtain ⟨u, hu, hctx⟩ := writeOut_team? hteam d true (s.launchOf t).e0 (lanesIn t d true []) out
    have hid := advance_modTeam_id hu hctx 1
    cases hq : s.qHolds t f.pred with
    | false => simp [Loc.uniform, State.guard, qPred_quiet c.quiet, hq]
    | true =>
      simpa [Loc.uniform, State.guard, qPred_quiet c.quiet, hq, hout, hid] using clearFlags_advance hu hctx 1

/-- A value written, with no further change of the team, is what the instruction over lanes without sources computes. -/
theorem writeThen_eq_crossDesc {d : OpDesc} {x : Cross} {f : Bool → Nat → List LaneIn → Option CrossOut} (h : d.Crosses x f)
    (c : x.Clear s t) (hsrcs : d.srcs = []) (hrun : ∀ uni e0 ls, ∃ out, f uni e0 ls = some out) (hteam : s.team? t.ctx = some t)
    (i : Instr) : s.writeThen t d (fun t => t) = s.teamDesc t i d := by
  have hfetch : s.descFetches t d = [] := by simp [State.descFetches, hsrcs]
  have hcore (uni on : Bool) : s.runAtCore t i d uni on [] =
      if !on || (!uni && !(lanesIn t d uni []).any (fun l => l.act)) then s.advance t.ctx 1
      else
        ((match d.run uni (s.launchOf t).e0 (lanesIn t d uni []) with
          | some out => s.writeOut t d uni (s.launchOf t).e0 (lanesIn t d uni []) out
          | none => s).modTeam t.ctx (fun t => t)).advance t.ctx 1 := by
    obtain ⟨out, hout⟩ := hrun uni (s.launchOf t).e0 (lanesIn t d uni [])
    obtain ⟨u, hu, hctx⟩ := writeOut_team? hteam d uni (s.launchOf t).e0 (lanesIn t d uni []) out
    have hrun' : d.run uni (s.launchOf t).e0 (lanesIn t d uni []) = some out := by rw [OpDesc.run, h.body]; exact hout
    simp only [State.runAtCore, hrun', hfetch, List.isEmpty_nil, if_true, advance_modTeam_id hu hctx]
  unfold State.writeThen State.teamDesc
  rw [crossCause h c, crossExecLoc h c, h.pred]
  cases hl : x.atLane s t with
  | true => simp only [if_true, Loc.uniform, State.guard, Bool.false_eq_true, if_false, hsrcs, State.readSrcs, hcore] <;> rfl
  | false =>
    simp only [if_true, Loc.uniform, State.guard, Bool.false_eq_true, if_false, hsrcs, State.readSrcs, hcore,
      qPred_quiet c.quiet] <;> rfl

end

/-! ### The instructions (R144, R145) -/

section
variable {o : F3} {s : State} {t : Team}

theorem formClear_setTeam {f : Form} (c : f.Clear s t) : f.Clear (s.setTeam t) t :=
  ⟨c.placed, c.ready, c.readyP, c.shape, ⟨c.quiet.cells, c.quiet.q⟩⟩

theorem crossClear_setTeam {x : Cross} (c : x.Clear s t) : x.Clear (s.setTeam t) t :=
  ⟨c.placed, c.ready, c.readyP, c.dest, c.shape, c.unis, c.mask, ⟨c.quiet.cells, c.quiet.q⟩⟩

/-- A constant written to a register is the instruction without sources that gives it. -/
theorem writeConst_done {n : Nat} (hd : o.d ≠ Reg.lit) (hn : 0 < n) (v : DWord) (hteam : s.team? t.ctx = some t)
    (c : (⟨o.p, .reg o.d n, []⟩ : Form).Clear s t) :
    (⟨o.p, .reg o.d n, []⟩ : Form).Done (fun _ => (v, 0)) s (s.writeThen t (constDesc o.p o.d n v) (fun t => t)) t := by
  have hfits := constDesc_fits_regs (p := o.p) hd hn v
  rw [writeThen_eq_teamDesc hfits c rfl hteam (.getf o)]
  exact teamDesc_done hfits c hteam _

theorem exec_getf (hr : s.Runs t) (hwf : (Instr.getf o).wf = true) (c : (⟨o.p, .reg o.d 1, []⟩ : Form).Clear s t) :
    ∃ s', exec (.getf o) s = .next s' ∧ (⟨o.p, .reg o.d 1, []⟩ : Form).Done (fun _ => (t.flags.setWidth 64, 0)) s s' t := by
  refine ⟨_, ?_, (writeConst_done (ne_lit_of_rule hwf rfl) Nat.one_pos _ (s.team?_setTeam_same t) (formClear_setTeam c)).of_setTeam⟩
  change execGetf o s = _
  rw [execGetf, byTeam_team hr, issuing_of_opc (by rw [opcOf_f3 (o := o) rfl]; rfl)]

theorem exec_getfClr (hr : s.Runs t) (hwf : (Instr.getfClr o).wf = true) (c : (⟨o.p, .reg o.d 1, []⟩ : Form).Clear s t) :
    ∃ s1 s', exec (.getfClr o) s = .next s'
      ∧ (⟨o.p, .reg o.d 1, []⟩ : Form).Done (fun _ => (t.flags.setWidth 64, 0)) s s1 t
      ∧ s'.team? t.ctx = (s1.team? t.ctx).map (fun u =>
          if (if (⟨o.p, .reg o.d 1, []⟩ : Form).atLane s t then !(t.active o.p).isEmpty else s.qHolds t o.p) then { u with flags := 0 } else u)
      ∧ s'.fams = s1.fams ∧ s'.mem = s1.mem := by
  have hd : o.d ≠ Reg.lit := ne_lit_of_rule hwf rfl
  have hteam := s.team?_setTeam_same t
  refine ⟨_, _, ?_, (writeConst_done hd Nat.one_pos _ hteam (formClear_setTeam c)).of_setTeam,
    writeThen_clearFlags (constDesc_fits_regs (p := o.p) hd Nat.one_pos _) (formClear_setTeam c) hteam⟩
  change execGetfClr o s = _
  rw [execGetfClr, byTeam_team hr, issuing_of_opc (by rw [opcOf_f3 (o := o) rfl]; rfl)]

/-- The `clrf` forms set flags of the team from A (R144). -/
theorem clrfForm_alone {i : Instr} (f : Team → BitVec 7 → Team) (hf : ∀ t v, (f t v).ctx = t.ctx) (hr : s.Runs t)
    (ho : abortsSpan (opcOf i) = false) (c : UniClear s t [(o.a, 1)] o.p) :
    Alone s (s.clrfForm i o f) t { (if s.qHolds t o.p then f t ((s.uniSrc t (.reg o.a 1 (litVal .i32 o.imm))).setWidth 7)
      else t).advance 1 with last := s.stamp } [] := by
  have hteam := s.team?_setTeam_same t
  rw [State.clrfForm, byTeam_team hr, issuing_of_opc ho, guarded_uniClear c.setTeam (by simp)]
  have hq : (s.setTeam t).qHolds t o.p = s.qHolds t o.p := rfl
  rw [hq]
  cases s.qHolds t o.p with
  | false => exact advance_alone 1
  | true =>
    have hv : (if o.a = Reg.lit then ((litVal .i32 o.imm).setWidth 32, s.setTeam t) else (s.setTeam t).readOne t o.a)
        = ((s.uniSrc t (.reg o.a 1 (litVal .i32 o.imm))).setWidth 32, s.setTeam t) := by
      rw [readOne_quiet c.setTeam.quiet]
      by_cases hl : o.a = Reg.lit
      · simp [State.uniSrc, hl]
      · simp only [State.uniSrc, if_neg hl]
        rfl
    generalize ha : (s.uniSrc t (.reg o.a 1 (litVal .i32 o.imm))).setWidth 7 = v at *
    have hw : ((s.uniSrc t (.reg o.a 1 (litVal .i32 o.imm))).setWidth 32).setWidth 7 = v := by rw [← ha]; bv_omega
    have hctx := hf t v
    have hself : ({ f t v with ctx := t.ctx } : Team) = f t v := by rw [← hctx]
    simp only [if_true, hv, hw, modTeam_some hteam, hself]
    rw [← hctx, advance_some (State.team?_setTeam_same _ _), settle_setTeam _ (advance_ctx _ 1), settle_setTeam _ ((advance_ctx _ 1).trans hctx)]
    exact Alone.settle ((advance_ctx _ 1).trans hctx)

/-- The special registers of uniform shape, the clock aside (R145). -/
def specialValue (s : State) (t : Team) (n : Nat) : DWord :=
  if n = 0x01 then BitVec.ofNat 64 t.index
  else if n = 0x02 then BitVec.ofNat 64 (s.group t.group).lin
  else if 0x11 ≤ n ∧ n ≤ 0x17 then BitVec.ofNat 64 ((t.lower ++ t.index :: (s.group t.group).lvl).getD (n - 0x11) 0)
  else if 0x18 ≤ n ∧ n ≤ 0x1F then BitVec.ofNat 64 (((s.launchOf t).levels.map (fun v => v.extent)).getD (n - 0x18) 1)
  else if n = 0x20 then BitVec.ofNat 64 (s.group t.group).core
  else if n = 0x21 then (s.group t.group).qmask.setWidth 64
  else if n = 0x22 then BitVec.ofNat 64 ((s.group t.group).vd + 2 ^ 8 * (s.vd (s.group t.group).vd).domain.toNat)
  else if n = 0x28 then t.flags.setWidth 64
  else if n = 0x29 then t.fen.setWidth 64
  else if n = 0x2A then t.gen.setWidth 64
  else (s.core (s.group t.group).core).wake.setWidth 64

theorem levelExtent_eq (s : State) (t : Team) (k : Nat) :
    s.levelExtent t k = ((s.launchOf t).levels.map (fun v => v.extent)).getD k 1 := by
  rw [State.levelExtent, List.getD_eq_getElem?_getD, List.getElem?_map]
  cases (s.launchOf t).levels[k]? <;> rfl

theorem special_eq (s : State) (t : Team) {n : Nat} (h : n ≠ 0x24) : s.special t n = specialValue s t n := by
  have hlevel : s.levelIndex t (n - 0x10) = (t.lower ++ t.index :: (s.group t.group).lvl).getD (n - 0x11) 0 := by
    rw [State.levelIndex, List.append_assoc, List.singleton_append, Nat.sub_sub]
  simp only [State.special, specialValue, hlevel, levelExtent_eq, within, Bool.and_eq_true, decide_eq_true_eq, if_neg h]
  rfl

theorem ne_lit_of_rdsr (hwf : (Instr.rdsr o).wf = true) : o.d ≠ Reg.lit := by
  simp only [Instr.wf, Instr.legal, Bool.and_eq_true] at hwf
  exact ne_lit_of_rule hwf.1 rfl

/-- A special register of uniform shape is written to D (R145). -/
theorem exec_rdsr_uniform (hr : s.Runs t) (hwf : (Instr.rdsr o).wf = true) (h0 : o.imm.toNat ≠ 0x00) (h1 : o.imm.toNat ≠ 0x10)
    (h2 : o.imm.toNat ≠ 0x24) (c : (⟨o.p, .reg o.d 1, []⟩ : Form).Clear s t) : ∃ s', exec (.rdsr o) s = .next s'
      ∧ (⟨o.p, .reg o.d 1, []⟩ : Form).Done (fun _ => (specialValue s t o.imm.toNat, 0)) s s' t := by
  have hd := ne_lit_of_rdsr hwf
  refine ⟨_, ?_, (writeConst_done hd Nat.one_pos _ (s.team?_setTeam_same t) (formClear_setTeam c)).of_setTeam⟩
  change execRdsr o s = _
  rw [execRdsr, byTeam_team hr, issuing_of_opc (by rw [opcOf_f3 (o := o) rfl]; rfl)]
  simp only [h0, h1, h2, or_self, if_false, special_eq _ _ h2]
  rfl

/-- The clock is read after an open amount of time (R145, log entry 19). -/
theorem exec_rdsr_clock (hr : s.Runs t) (hwf : (Instr.rdsr o).wf = true) (h : o.imm.toNat = 0x24)
    (c : (⟨o.p, .reg o.d 2, []⟩ : Form).Clear s t) : ∃ clk k s', exec (.rdsr o) s = .next s' ∧ s.clock ≤ clk
      ∧ (⟨o.p, .reg o.d 2, []⟩ : Form).Done (fun _ => (BitVec.ofNat 64 clk, 0)) { s with clock := clk, free := k } s' t := by
  have hd := ne_lit_of_rdsr hwf
  obtain ⟨s2, hs2⟩ : ∃ s2, s2 = ({ s with free := s.free + 1 } : State).passTime (Config.freeNat s.free) := ⟨_, rfl⟩
  have hclock : s.clock ≤ s2.clock := by rw [hs2]; simp only [State.passTime]; omega
  have hs : s2 = { s with clock := s2.clock, free := s.free + 1 } := by rw [hs2]; rfl
  have c2 : (⟨o.p, .reg o.d 2, []⟩ : Form).Clear (s2.setTeam t) t := by
    rw [hs]; exact ⟨c.placed, c.ready, c.readyP, c.shape, ⟨c.quiet.cells, c.quiet.q⟩⟩
  have hdone := (writeConst_done hd Nat.two_pos (BitVec.ofNat 64 s2.clock) (s2.team?_setTeam_same t) c2).of_setTeam
  refine ⟨s2.clock, s.free + 1, _, ?_, hclock, hs ▸ hdone⟩
  change execRdsr o s = _
  rw [execRdsr, byTeam_team hr, issuing_of_opc (by rw [opcOf_f3 (o := o) rfl]; rfl), hs2]
  simp [h, State.special]
  rfl

theorem laneIdDesc_crosses (hd : o.d ≠ Reg.lit) : (laneIdDesc o).Crosses ⟨⟨o.p, .reg o.d 1, []⟩, none, true, false, []⟩
    (fun uni _ ls => lidFn .id uni ls) where
  pred := rfl
  dst := rfl
  dst2 := rfl
  srcs := rfl
  lane := rfl
  uni := rfl
  l2u := rfl
  body := rfl
  noSel := by simp
  noLit r n h := by obtain ⟨rfl, -⟩ := Dst.reg.inj h; exact hd
  two := by simp
  pos := by simp [Cross.regs, Dst.regs]

/-- Without a second destination the absent mask is written nowhere. -/
theorem crossDone_of_noDst2 {x : Cross} {out : Bool → List LaneIn → CrossOut} {a a' : List LaneIn → DWord} {s' : State}
    (h : x.Done out a s s' t) (h2 : x.dst2 = none) : x.Done out a' s s' t := by
  have hnone (b : Bool) (v : DWord) : s'.Holds2 t x b v := by rw [State.Holds2, h2]; trivial
  exact ⟨h.frame, h.idle, fun hl ha => ⟨(h.lanes hl ha).1, hnone _ _, (h.lanes hl ha).2.2⟩, h.off,
    fun hl hq => ⟨(h.on hl hq).1, (h.on hl hq).2.1, hnone _ _, (h.on hl hq).2.2.2⟩⟩

/-- The virtual lane id is written to D in every lane of Active(T) (R145). -/
theorem exec_rdsr_lane (hr : s.Runs t) (hwf : (Instr.rdsr o).wf = true) (h : o.imm.toNat = 0x00 ∨ o.imm.toNat = 0x10)
    (c : (⟨⟨o.p, .reg o.d 1, []⟩, none, true, false, []⟩ : Cross).Clear s t) : ∃ s', exec (.rdsr o) s = .next s'
      ∧ (⟨⟨o.p, .reg o.d 1, []⟩, none, true, false, []⟩ : Cross).Done
        (fun _ => acting (fun l => (BitVec.ofNat 64 l.vid, false)) 0) (fun _ => 0) s s' t := by
  have hd := ne_lit_of_rdsr hwf
  have hteam := s.team?_setTeam_same t
  have hx := laneIdDesc_crosses (o := o) hd
  have hdone := crossDesc_done hx (crossClear_setTeam c) hteam (.rdsr o) (out := fun _ => acting (fun l => (BitVec.ofNat 64 l.vid, false)) 0)
    (fun _ => rfl)
  rw [← writeThen_eq_crossDesc hx (crossClear_setTeam c) rfl (fun _ _ _ => ⟨_, rfl⟩) hteam] at hdone
  refine ⟨_, ?_, crossDone_of_noDst2 (Cross.Done.of_setTeam hdone) rfl⟩
  change execRdsr o s = _
  rw [execRdsr, byTeam_team hr, issuing_of_opc (by rw [opcOf_f3 (o := o) rfl]; rfl)]
  simp only [h, if_true]

end

end Sys2Proof.Claims
end

/-- Settles O18: what is read is written by the shared operation without sources; a clear changes the team alone. -/
theorem flagsAndSpecials : Obligations.FlagsAndSpecials := by
  unfold Obligations.FlagsAndSpecials
  intro o s t hr
  refine ⟨Sys2Proof.Claims.exec_getf hr, Sys2Proof.Claims.exec_getfClr hr, fun _ c => ⟨_, rfl, ?_⟩, fun _ c => ⟨_, rfl, ?_⟩,
    fun _ c => ⟨_, rfl, ?_⟩, fun hwf h0 h1 h2 c => Sys2Proof.Claims.exec_rdsr_uniform hr hwf h0 h1 h2 c,
    Sys2Proof.Claims.exec_rdsr_clock hr, Sys2Proof.Claims.exec_rdsr_lane hr⟩
  · exact Sys2Proof.Claims.clrfForm_alone (fun t v => { t with flags := t.flags &&& ~~~v }) (fun _ _ => rfl) hr
      (by rw [Sys2Proof.Claims.opcOf_f3 (o := o) rfl]; rfl) c
  · exact Sys2Proof.Claims.clrfForm_alone (fun t v => { t with fen := v }) (fun _ _ => rfl) hr
      (by rw [Sys2Proof.Claims.opcOf_f3 (o := o) rfl]; rfl) c
  · exact Sys2Proof.Claims.clrfForm_alone (fun t v => { t with flags := v }) (fun _ _ => rfl) hr
      (by rw [Sys2Proof.Claims.opcOf_f3 (o := o) rfl]; rfl) c

section
/-! PROOF. OX4 blocks out of lanes and into them (O11): the bytes of a block fit their places, and the block of a lane is
the block of its mask word. -/

namespace Sys2Proof.Claims
open Sys2Proof.Machine

/-! ### The bytes of a block (R75, R76) -/

theorem nearInt_zero (neg : Bool) (e : Int) : nearInt (.fin neg 0 e) = 0 := by
  simp only [nearInt, roundAt_eq_roundQ, CharP.cast_eq_zero, zero_mul]
  simpa using congrArg Prod.fst (roundQ_natCast .rn neg 0)

theorem outlierByte_lt (n : Nat) {x : FVal} (h : isOutlier x = true) : (outlierByte n x).1 < 256 := by
  cases x with
  | nan sig => simp only [outlierByte]; split <;> norm_num
  | inf neg => simp only [outlierByte]; cases neg <;> split_ifs <;> omega
  | fin neg m e =>
    have hm : m ≠ 0 := by
      rintro rfl
      simp [isOutlier, nearInt_zero] at h
    have hround := round_lt shape_e4m3 .rn true (.fin neg m e)
    rw [round_fin _ _ _ _ hm] at hround
    have hlate : lateBits (.fin neg m e) ≤ 0x70 := by unfold lateBits; dsimp only; split_ifs <;> norm_num
    simp only [outlierByte]
    split
    · exact hround
    · cases neg <;> simp <;> omega

theorem slotCode_lt {x : FVal} (h : isOutlier x = false) : slotCode x < 16 := by
  have hnear : nearInt x ≤ 7 := by
    cases x <;> simp_all [isOutlier]
  unfold slotCode
  dsimp only
  split
  · norm_num
  · split <;> omega

/-- The bytes of a pair and of the pairs after it. -/
theorem encodePairs_cons (a b : FVal) (t : List FVal) (n : Nat) : ∃ (v k : Nat), v < 256 ∧
    (encodePairs (a :: b :: t) n).1 = v :: (encodePairs t k).1 := by
  by_cases ho : (isOutlier a || isOutlier b) = true
  · set odd := isOutlier b && (!isOutlier a || oddWins a b) with hodd
    have hx : isOutlier (if odd then b else a) = true := by
      cases ha : isOutlier a <;> cases hb : isOutlier b <;> simp_all
      split <;> assumption
    have hby := outlierByte_lt n hx
    refine ⟨if odd then (outlierByte n (if odd then b else a)).1 / 16 + 16 * 8 else 8 + 16 * ((outlierByte n (if odd then b else a)).1 / 16),
      n + 1, by generalize (outlierByte n (if odd then b else a)).1 = y at hby ⊢; split <;> omega, ?_⟩
    simp only [encodePairs, ho, if_true, ← hodd]
  · have hab : isOutlier a = false ∧ isOutlier b = false := by simpa using ho
    have ha := slotCode_lt hab.1
    have hb := slotCode_lt hab.2
    refine ⟨slotCode a + 16 * slotCode b, n, by omega, ?_⟩
    simp only [encodePairs, hab.1, hab.2, Bool.or_self, Bool.false_eq_true, if_false]

theorem encodePairs_lt : ∀ (xs : List FVal) (n : Nat), ∀ v ∈ (encodePairs xs n).1, v < 256
  | [], _ => by simp [encodePairs]
  | [_], _ => by simp [encodePairs]
  | a :: b :: t, n => by
    obtain ⟨v, k, hv, h⟩ := encodePairs_cons a b t n
    rw [h]
    exact List.forall_mem_cons.2 ⟨hv, encodePairs_lt t k⟩

theorem encodeOx4_lt (xs : List FVal) (scale i : Nat) : (encodeOx4 xs scale).1.getD i 0 < 256 := by
  have h : ∀ v ∈ (encodeOx4 xs scale).1, v < 256 := by
    unfold encodeOx4
    split
    · simp
    · exact encodePairs_lt _ _
  rw [List.getD_eq_getElem?_getD]
  cases hi : (encodeOx4 xs scale).1[i]? with
  | none => simp
  | some v => exact h v (List.mem_of_getElem? hi)

/-- Four bytes side by side (R156). -/
theorem ox4Word_eq {es : List Nat} (h : ∀ i, es.getD i 0 < 256) (j : Nat) : BitVec.ofNat 64 (ox4Word es j)
    = (List.range 4).foldl (fun v i => v ||| (BitVec.ofNat 64 (es.getD (4 * j + i) 0) <<< (8 * i))) 0 := by
  have hbyte (n : Nat) : BitVec.ofNat 64 (es.getD n 0) = (BitVec.ofNat 8 (es.getD n 0)).setWidth 64 :=
    ofNat_eq_setWidth_ofNat (h n) (by norm_num)
  have hsum := foldl_or_eq_packElems 8 (fun i => BitVec.ofNat 8 (es.getD (4 * j + i) 0)) 4 (by norm_num)
  have hpack : packElems 8 ((List.range 4).map (fun i => (BitVec.ofNat 8 (es.getD (4 * j + i) 0)).toNat)) = ox4Word es j := by
    have h0 := h (4 * j); have h1 := h (4 * j + 1); have h2 := h (4 * j + 2); have h3 := h (4 * j + 3)
    simp only [packElems, ox4Word, List.range_succ, List.range_zero, List.nil_append, List.cons_append, List.map_cons, List.map_nil,
      BitVec.toNat_ofNat, Nat.add_zero]
    omega
  simp only [hbyte]
  rw [← hpack, ← hsum, BitVec.ofNat_toNat, BitVec.setWidth_eq]

/-! ### The mask word of a lane (R156, R157) -/

/-- The first entry that a search finds among `f w` for the mask words `w`. -/
theorem find?_maskWord {α : Type} {ls : List LaneIn} {l : LaneIn} (hl : l ∈ ls) (hslot : l.slot < 1024) (f : Nat → α) :
    ((maskWords ls).map (fun w => (w, f w))).find? (fun b => b.1 == l.slot / 32) = some (l.slot / 32, f (l.slot / 32)) := by
  have hmem : l.slot / 32 ∈ maskWords ls := by
    simp only [maskWords, List.mem_filter, List.mem_range, List.any_eq_true, beq_iff_eq]
    exact ⟨by omega, l, hl, rfl⟩
  rw [List.find?_map]
  have hfind : (maskWords ls).find? ((fun b : Nat × α => b.1 == l.slot / 32) ∘ fun w => (w, f w)) = some (l.slot / 32) := by
    obtain ⟨w, hw⟩ : ∃ w, (maskWords ls).find? ((fun b : Nat × α => b.1 == l.slot / 32) ∘ fun w => (w, f w)) = some w :=
      Option.isSome_iff_exists.1 (List.find?_isSome.2 ⟨_, hmem, by simp⟩)
    have hwe := List.find?_some hw
    simp only [Function.comp_apply, beq_iff_eq] at hwe
    rw [hw, hwe]
  rw [hfind]
  rfl

theorem foldl_or_eq_joinFlags {α : Type} (g : α → Flags) (l : List α) : l.foldl (fun a x => a ||| g x) 0 = joinFlags (l.map g) := by
  rw [joinFlags, List.foldl_map]

theorem uniOp_eq (ls : List LaneIn) (i : Nat) : uniOp ls i = ls.head?.elim 0 (fun l => opAt l.ops i) := by cases ls <;> rfl

/-- The scale of the instruction (R156, R157). -/
def ox4Scale (ls : List LaneIn) : Nat := (el 8 0 (ls.head?.elim 0 (fun l => opAt l.ops 1))).toNat

/-- The block of mask word `w` out of lanes (R156). -/
def ox4Enc (ls : List LaneIn) (w : Nat) : List Nat × Nat × Flags := encodeOx4 ((List.range 32).map (fun j =>
    (ls.find? (fun l => l.slot == 32 * w + j)).elim (FVal.fin false 0 0) (fun l =>
      if l.act then ffF32.val (el 32 0 (opAt l.ops 0)).toNat else .fin false 0 0))) (ox4Scale ls)

/-- Byte `i` of the operand in slot `n` (R157). -/
def ox4Byte (ls : List LaneIn) (n i : Nat) : Nat :=
  (el 8 i ((ls.find? (fun l => l.slot == n)).elim 0 (fun l => opAt l.ops 0))).toNat

/-- The values of the block of mask word `w` (R157). -/
def ox4Dec (ls : List LaneIn) (w : Nat) : List FVal :=
  decodeOx4 ((List.range 16).map (fun i => ox4Byte ls (32 * w + i / 4) (i % 4))) (ox4Byte ls (32 * w + 4) 0) (ox4Scale ls)

theorem uniOp_scale (ls : List LaneIn) : (uniOp ls 1).toNat % 256 = ox4Scale ls := by
  rw [ox4Scale, ← uniOp_eq, toNat_el_zero]; rfl

/-- The model's block of mask word `w` out of lanes. -/
def packBlock (ls : List LaneIn) (w : Nat) : List Nat × Nat × Flags :=
  encodeOx4 ((List.range 32).map (fun j =>
    match atSlot ls (32 * w + j) with
    | some l => if l.act then ffF32.val ((opAt l.ops 0).toNat % 2 ^ 32) else .fin false 0 0
    | none => .fin false 0 0)) ((uniOp ls 1).toNat % 256)

theorem packBlock_eq (ls : List LaneIn) (w : Nat) : packBlock ls w = ox4Enc ls w := by
  rw [packBlock, ox4Enc, uniOp_scale]
  congr 2
  funext j
  rw [atSlot]
  cases ls.find? (fun l => l.slot == 32 * w + j) <;> simp only [Option.elim, toNat_el_zero]

theorem packOx4Fn_blocks (ls : List LaneIn) :
    let blocks := (maskWords ls).map (fun w => (w, packBlock ls w))
    packOx4Fn ls = lanesOut (actOut ls (fun l =>
      match blocks.find? (fun b => b.1 == l.slot / 32) with
      | some b => (BitVec.ofNat 64 (ox4Out b.2.1 b.2.2.1 (l.slot % 32)), false)
      | none => (0, false))) (blocks.foldl (fun acc b => acc ||| b.2.2.2) 0) := rfl

/-- The 32 bits of the operand in slot `n` that the model reads. -/
def unpackWord (ls : List LaneIn) (n : Nat) : Nat :=
  match atSlot ls n with
  | some l => (opAt l.ops 0).toNat % 2 ^ 32
  | none => 0

theorem unpackOx4Fn_blocks (r : Rnd) (sat : Bool) (ls : List LaneIn) :
    let blocks := (maskWords ls).map (fun w => (w, decodeOx4 (ox4Bytes ((List.range 4).map (fun i => unpackWord ls (32 * w + i))))
      (unpackWord ls (32 * w + 4) % 256) ((uniOp ls 1).toNat % 256)))
    let rs := (ls.filter (fun l => l.act)).map (fun l =>
      match blocks.find? (fun b => b.1 == l.slot / 32) with
      | some b => (l, ffF32.round r sat (b.2.getD (l.slot % 32) (.fin false 0 0)))
      | none => (l, 0, 0))
    unpackOx4Fn r sat ls = lanesOut (rs.map (fun x => ⟨x.1.vid, BitVec.ofNat 64 x.2.1, false⟩)) (rs.foldl (fun acc x => acc ||| x.2.2) 0) := rfl

/-- What the lane in slot `j` of a pass is given of a block (R156). -/
def ox4Word64 (b : List Nat × Nat × Flags) (j : Nat) : DWord :=
  if j < 4 then (List.range 4).foldl (fun v i => v ||| (BitVec.ofNat 64 (b.1.getD (4 * j + i) 0) <<< (8 * i))) 0
  else if j = 4 then BitVec.ofNat 64 b.2.1 else 0

theorem ox4Out_eq (xs : List FVal) (scale j : Nat) :
    BitVec.ofNat 64 (ox4Out (encodeOx4 xs scale).1 (encodeOx4 xs scale).2.1 j) = ox4Word64 (encodeOx4 xs scale) j := by
  unfold ox4Out ox4Word64
  split
  · exact ox4Word_eq (encodeOx4_lt xs scale) j
  · split <;> rfl

theorem packOx4Fn_eq {ls : List LaneIn} (hslot : ∀ l ∈ ls, l.slot < 1024) : packOx4Fn ls = some (acting
    (fun l => (ox4Word64 (ox4Enc ls (l.slot / 32)) (l.slot % 32), false)) (joinFlags ((maskWords ls).map (fun w => (ox4Enc ls w).2.2))) ls) := by
  rw [packOx4Fn_blocks]
  simp only [packBlock_eq, foldl_or_eq_joinFlags, List.map_map]
  refine congrArg some (CrossOut.mk.injEq .. |>.mpr ⟨?_, rfl, rfl, rfl⟩)
  refine List.map_congr_left fun l hl => ?_
  have hmem := (List.mem_filter.1 hl).1
  dsimp only
  rw [find?_maskWord hmem (hslot l hmem)]
  exact congrArg (fun v => (⟨l.vid, v, false⟩ : LaneOut)) (ox4Out_eq _ _ _)

/-- A byte of an operand (R157). -/
theorem unpackWord_byte (ls : List LaneIn) (n : Nat) {i : Nat} (hi : i < 4) : unpackWord ls n / 256 ^ i % 256 = ox4Byte ls n i := by
  rw [ox4Byte, ← elemOf_eq_el, elemOf, unpackWord, atSlot]
  cases ls.find? (fun l => l.slot == n) with
  | none => simp
  | some l =>
    simp only [Option.elim]
    interval_cases i <;> norm_num <;> omega

theorem ox4Bytes_eq (ls : List LaneIn) (w : Nat) : ox4Bytes ((List.range 4).map (fun i => unpackWord ls (32 * w + i)))
    = (List.range 16).map (fun i => ox4Byte ls (32 * w + i / 4) (i % 4)) := by
  refine List.map_congr_left fun i hi => ?_
  have h16 := List.mem_range.1 hi
  rw [← unpackWord_byte ls _ (Nat.mod_lt i (by norm_num)), List.getD_eq_getElem?_getD, List.getElem?_map,
    List.getElem?_range (by omega)]
  rfl

/-- What a lane that takes part is given of its block (R157). -/
def ox4Value (r : Rnd) (sat : Bool) (ls : List LaneIn) (l : LaneIn) : Nat × Flags :=
  ffF32.round r sat ((ox4Dec ls (l.slot / 32)).getD (l.slot % 32) (.fin false 0 0))

theorem unpackOx4Fn_eq {ls : List LaneIn} (r : Rnd) (sat : Bool) (hslot : ∀ l ∈ ls, l.slot < 1024) :
    unpackOx4Fn r sat ls = some (acting (fun l => (BitVec.ofNat 64 (ox4Value r sat ls l).1, false))
      (joinFlags ((ls.filter (fun l => l.act)).map (fun l => (ox4Value r sat ls l).2))) ls) := by
  have hext (w : Nat) : unpackWord ls (32 * w + 4) % 256 = ox4Byte ls (32 * w + 4) 0 := by
    simpa using unpackWord_byte ls (32 * w + 4) (i := 0) (by norm_num)
  rw [unpackOx4Fn_blocks]
  simp only [uniOp_scale, ox4Bytes_eq, hext, foldl_or_eq_joinFlags, List.map_map]
  have hfind : ∀ l ∈ ls.filter (fun l => l.act), ((maskWords ls).map (fun w => (w, ox4Dec ls w))).find? (fun b => b.1 == l.slot / 32)
      = some (l.slot / 32, ox4Dec ls (l.slot / 32)) := fun l hl => by
    have hmem := (List.mem_filter.1 hl).1
    exact find?_maskWord hmem (hslot l hmem) _
  simp only [ox4Dec] at hfind
  refine congrArg some (CrossOut.mk.injEq .. |>.mpr ⟨?_, rfl, rfl, congrArg joinFlags ?_⟩)
  · refine List.map_congr_left fun l hl => ?_
    simp only [Function.comp_apply, hfind l hl] <;> rfl
  · refine List.map_congr_left fun l hl => ?_
    simp only [Function.comp_apply, hfind l hl] <;> rfl

/-! ### The instructions (R156, R157) -/

section
variable {o : F3} {s : State} {t : Team}

/-- The instructions with A of f32 and a uniform B, over the lanes of D. -/
def ox4Cross (o : F3) : Cross :=
  ⟨⟨o.p, .reg o.d 1, [.reg o.a 1 (litVal .f32 o.imm), .reg o.b 1 (litVal .i32 o.imm)]⟩, none, true, false, [1]⟩

theorem ox4_crosses (hd : o.d ≠ Reg.lit) (f : List LaneIn → Option CrossOut) :
    ({ crossDesc o.p (.reg o.d 1) none [srcOf .f32 o.a o.imm, srcOf .i32 o.b o.imm] .lanePlace (fun _ _ ls => f ls) with
      uniform := [1] } : OpDesc).Crosses (ox4Cross o) (fun _ _ ls => f ls) where
  pred := rfl
  dst := rfl
  dst2 := rfl
  srcs := rfl
  lane := rfl
  uni := rfl
  l2u := rfl
  body := rfl
  noSel := by simp [ox4Cross]
  noLit r n h := by obtain ⟨rfl, -⟩ := Dst.reg.inj h; exact hd
  two := by simp [ox4Cross]
  pos := by simp [ox4Cross, Cross.regs, Dst.regs, Src.regs]

theorem seen_slot_lt (hslot : ∀ l ∈ t.lanes, l.slot < 1024) (x : Cross) (uni : Bool) : ∀ l ∈ s.seen t x uni, l.slot < 1024 := by
  intro l hl
  obtain ⟨l0, h0, rfl⟩ := List.mem_map.1 hl
  have hlane : l0 ∈ t.lanes := by
    unfold Team.current at h0
    split at h0
    · exact h0
    · exact (List.mem_filter.1 h0).1
  exact hslot l0 hlane

/-- An instruction over the lanes of D that computes `out` of what it sees. -/
theorem ox4_done {i : Instr} {f : List LaneIn → Option CrossOut} {out : List LaneIn → CrossOut} {opc : BitVec 8} {sub : BitVec 4}
    (hd : o.d ≠ Reg.lit) (hslot : ∀ l ∈ t.lanes, l.slot < 1024) (hout : ∀ ls, (∀ l ∈ ls, l.slot < 1024) → f ls = some (out ls))
    (henc : encode i = [o.word opc sub]) (hopc : abortsSpan opc.toNat = false) (hr : s.Runs t) (c : (ox4Cross o).Clear s t) :
    (ox4Cross o).Done (fun _ ls => out ls) (fun _ => 0) s (s.issueDesc i { crossDesc o.p (.reg o.d 1) none
      [srcOf .f32 o.a o.imm, srcOf .i32 o.b o.imm] .lanePlace (fun _ _ ls => f ls) with uniform := [1] }) t :=
  crossDone_of_noDst2 (issueCross_done hr (ox4_crosses hd f) c ((congrArg abortsSpan (opcOf_f3 henc)).trans hopc)
    (fun uni => hout _ (seen_slot_lt hslot _ uni))) rfl

end

end Sys2Proof.Claims
end

/-- Settles O11: the shared operation over the lanes of D, with the block of each lane's mask word. -/
theorem ox4Lanes : Obligations.Ox4Lanes := by
  unfold Obligations.Ox4Lanes
  intro o
  refine ⟨fun s t hslot hwf hr c => ⟨_, rfl, ?_⟩, fun s t hslot hwf hr c => ⟨_, rfl, ?_⟩⟩
  · have hd : o.d ≠ Sys2Proof.Reg.lit := by
      simp only [Sys2Proof.Instr.wf, Sys2Proof.Instr.legal, Bool.and_eq_true] at hwf
      exact Sys2Proof.Claims.ne_lit_of_rule hwf.1 rfl
    exact Sys2Proof.Claims.ox4_done hd hslot (fun ls => Sys2Proof.Claims.packOx4Fn_eq) rfl rfl hr c
  · have hd : o.d ≠ Sys2Proof.Reg.lit := by
      simp only [Sys2Proof.Instr.wf, Sys2Proof.Instr.legal, Bool.and_eq_true] at hwf
      exact Sys2Proof.Claims.ne_lit_of_rule hwf.1 rfl
    exact Sys2Proof.Claims.ox4_done hd hslot (fun ls => Sys2Proof.Claims.unpackOx4Fn_eq o.rnd o.sat) rfl rfl hr c

section
/-! PROOF. A step of an INT8 inner-product loop whose team stands in the table of teams under another context id than its own
(O45): the statement, which has no premise `teamsOk`, allows that, and only its requests under the table's id are excluded. -/

namespace Sys2Proof.Machine

/-- One step of an inner product of quadrant 0, INT8 by INT8. -/
def strayLoop : MloopOps :=
  { qset := 0, df := .ip, acc := 0, areg := 0, breg := 0, oreg := 0, mreg := 0, steps := 1, ovw := true, sout := false
    ainc := 2, fba := 2, fbb := 0, binc := 0, lclass := 1 }

def strayFmt : FmtBlk := { fmt := .i8, blk := 0, skind := false, sparse := 0, scale := 0, ext := 0, meta_ := 0 }

/-- The loop at work, issued by the team at 1 of the table. -/
def strayEnt : QEnt :=
  { id := 7, issuer := .team 1 0 0, qset := 0, started := true, asked := false, granted := true, loop := noLoop
    op := { instr := .mloop strayLoop, a := Claims.localAddr 0x100, b := 0, m := 0, o := 0, fa := some strayFmt, fb := none
            no := 0, quads := [0], fam := 1, pc := 0, word := 0, seq := 0 } }

def strayQuad : Quad :=
  { resetQuad 0 0 with active := { fmt := some strayFmt, cols := [], poison := false }, queue := [strayEnt] }

/-- The team at 1 of the table holds context id 2. -/
def strayKeyTeam : Team :=
  { resetTeam with
    ctx := 2, fam := 1, group := 1
    replay := [resetTeam.packet (.mloop strayLoop) .core .st true [] []]
    lanes := [{ slot := 0, vid := 0, regs := [], p := 1, tx := noTx, opened := [], blind := [] }] }

/-- An older request under context id 2, of which it is not known what it will access. -/
def strayOlder : Req :=
  strayKeyTeam.req 0 { strayKeyTeam.packet (.mloop strayLoop) .core .st true [] [] with seq := 0xFFFF }
    { target := .spad 1 0, op := .access, lanes := [] }

def strayLoopState : State :=
  { State.reset with
    teams := [(1, strayKeyTeam), (2, strayKeyTeam)]
    groups := [(1, { resetGroup with spadLen := 4096, quads := [(0, strayQuad)] })]
    reqs := [strayOlder] }

theorem strayLoopState_working : Claims.Working strayLoopState 1 0 strayEnt strayQuad where
  quad := rfl
  head := rfl
  started := rfl
  free := by decide +kernel
  held := rfl
  first r hr c n k hc := by
    obtain ⟨rfl, -, -⟩ := Issuer.team.inj hc
    rw [List.mem_singleton.1 hr]
    decide

/-- The read of the A row waits behind the older request, and no step is made. -/
theorem step_strayLoopState_pass :
    (match exec (.mloopStep 1 0 []) strayLoopState with
      | .next s => (Tbl.get? (s.group 1).quads 0).map (fun y => y.pass)
      | _ => none) = some 0 := by decide +kernel

end Sys2Proof.Machine
end

/-- Refutes O45: the statement allows a table of teams in which a team stands under another context id than its own (it has no
premise `teamsOk`). The model orders the read of the A row behind the requests under the team's own id, while the
statement excludes only those under the table's; so the step waits and the quadrant's count of passes stays
(`Sys2Proof.Machine.strayLoopState`). -/
theorem not_matrixLoopStep : ¬ Obligations.MatrixLoopStep := by
  unfold Obligations.MatrixLoopStep
  intro h
  have hpass := Sys2Proof.Machine.step_strayLoopState_pass
  obtain ⟨s', y, hexec, hquad, -, -, hy, -⟩ := h Sys2Proof.Machine.strayLoopState 1 0 0x100 Sys2Proof.Machine.strayEnt
    Sys2Proof.Machine.strayQuad Sys2Proof.Machine.strayLoop Sys2Proof.Machine.strayFmt Sys2Proof.Machine.strayFmt (by decide)
    Sys2Proof.Machine.strayLoopState_working rfl rfl rfl rfl (by decide) rfl rfl rfl rfl rfl rfl rfl rfl (.inl rfl)
    (by decide) (by decide) ⟨by decide, by decide, by decide +kernel⟩
  rw [hexec] at hpass
  simp only [hquad, Option.map_some, hy] at hpass
  exact absurd hpass (by decide)

section
/-! PROOF. Numbers of a format (O9): which numbers a format has, that they are rounded to themselves, and overflow to ∞. -/

namespace Sys2Proof.Claims
open Sys2Proof.Machine

/-! ### The formats of the floating-point types (R70) -/

/-- A format of R70 with infinities: that of an element of a floating-point type. -/
def Ieee (f : FFmt) : Prop := f = ffF64 ∨ f = ffF32 ∨ f = ffF16 ∨ f = ffBF16

theorem ieee_tyFmt (ty : Ty) : Ieee (tyFmt ty) := by
  cases ty <;> simp [Ieee, tyFmt]

section
variable {f : FFmt}

theorem Ieee.shape (h : Ieee f) : Shape f := by
  rcases h with rfl | rfl | rfl | rfl <;> exact ⟨by decide, by decide, by decide⟩

theorem Ieee.notE4m3 (h : Ieee f) : f.e4m3 = false := by rcases h with rfl | rfl | rfl | rfl <;> rfl

theorem Ieee.val_inf (h : Ieee f) (s : Bool) : f.val (f.signBits s + f.infBits) = .inf s := by
  rcases h with rfl | rfl | rfl | rfl <;> cases s <;> decide

theorem Ieee.val_nan (h : Ieee f) : f.val f.nanBits = .nan false := by
  rcases h with rfl | rfl | rfl | rfl <;> decide

theorem Ieee.mbits_le (h : Ieee f) : f.mbits ≤ 52 := by rcases h with rfl | rfl | rfl | rfl <;> decide

theorem Ieee.mbits_le_bias (h : Ieee f) : f.mbits ≤ f.bias := by rcases h with rfl | rfl | rfl | rfl <;> decide

theorem Ieee.bias_pos (h : Ieee f) : 0 < f.bias := by rcases h with rfl | rfl | rfl | rfl <;> decide

/-- The largest finite pattern has the largest exponent and all bits of the integer. -/
theorem Ieee.maxBits_eq (h : Ieee f) : f.maxBits + 1 = (2 * f.bias + 1) * 2 ^ f.mbits := by
  rcases h with rfl | rfl | rfl | rfl <;> decide

theorem qmin_eq (f : FFmt) : f.qmin = 1 - f.bias - f.mbits := rfl

/-! ### The numbers of a format -/

/-- A magnitude that a format holds exactly. -/
def Holds (f : FFmt) (v : ℚ) : Prop := ∃ b, b ≤ f.maxBits ∧ magOf f b = v

/-- In the unit of its place, a number below 2^(bias + 1) that is rounded to an integer without carry has a finite pattern. -/
theorem pattern_le_of_lt (h : Ieee f) {a : ℚ} {q : ℤ} {r : Rnd} {neg : Bool} (hq : IsPlace f a q) (ha : a < 2 ^ ((f.bias : ℤ) + 1))
    (hk : (roundQ r neg (a / 2 ^ q)).1 < 2 ^ (f.mbits + 1)) : patternOf f r neg a q ≤ f.maxBits := by
  have hbias := h.bias_pos
  have hqle : q ≤ f.bias - f.mbits := by
    rcases hq.le with h0 | h0
    · rw [h0, qmin_eq]; omega
    · have := (zpow_lt_zpow_iff_right₀ (by norm_num : (1 : ℚ) < 2)).1 (lt_of_le_of_lt h0 ha)
      omega
  have hsteps : (q - f.qmin).toNat ≤ 2 * f.bias - 1 := by rw [qmin_eq]; omega
  have hmul := Nat.mul_le_mul_right (2 ^ f.mbits) hsteps
  have hmax := h.maxBits_eq
  have hsplit : (2 * f.bias + 1) * 2 ^ f.mbits = (2 * f.bias - 1) * 2 ^ f.mbits + 2 * 2 ^ f.mbits := by
    rw [← Nat.add_mul]; congr 1; omega
  rw [pow_succ] at hk
  rw [patternOf]
  omega

/-- From 2^(bias + 1) up no pattern is finite. -/
theorem maxBits_lt_pattern (h : Ieee f) {a : ℚ} {q : ℤ} {r : Rnd} {neg : Bool} (hq : IsPlace f a q)
    (ha : 2 ^ ((f.bias : ℤ) + 1) ≤ a) : f.maxBits < patternOf f r neg a q := by
  have hbias := h.bias_pos
  have hqlt := (zpow_lt_zpow_iff_right₀ (by norm_num : (1 : ℚ) < 2)).1 (lt_of_le_of_lt ha hq.lt)
  have hsteps : 2 * f.bias ≤ (q - f.qmin).toNat := by rw [qmin_eq]; omega
  have hk : 2 ^ f.mbits ≤ (roundQ r neg (a / 2 ^ q)).1 := hq.le_rounded.resolve_left (by rw [qmin_eq]; omega)
  have hmul := Nat.mul_le_mul_right (2 ^ f.mbits) hsteps
  have hmax := h.maxBits_eq
  rw [Nat.add_mul, Nat.one_mul] at hmax
  rw [patternOf]
  omega

theorem holds_of_parts (h : Ieee f) {n : ℕ} {j : ℤ} (hn : n < 2 ^ (f.mbits + 1)) (hj : f.qmin ≤ j)
    (hlt : (n : ℚ) * 2 ^ j < 2 ^ ((f.bias : ℤ) + 1)) : Holds f (n * 2 ^ j) := by
  rcases Nat.eq_zero_or_pos n with rfl | hpos
  · exact ⟨0, Nat.zero_le _, by simp [magOf, mantOf]⟩
  · have hq := isPlace_topExp f hpos.ne' j
    have hlog : n.log2 < f.mbits + 1 := (Nat.log2_lt hpos.ne').2 hn
    have hqj : max (topExp n j - f.mbits) f.qmin ≤ j := by rw [topExp]; omega
    generalize max (topExp n j - f.mbits) f.qmin = q at hq hqj
    have ha : (0 : ℚ) ≤ n * 2 ^ j := by positivity
    have hint : (n : ℚ) * 2 ^ j / 2 ^ q = (n * 2 ^ (j - q).toNat : ℕ) := by
      rw [mul_div_assoc, ← zpow_sub₀ (by norm_num)]
      push_cast
      rw [← zpow_natCast (2 : ℚ) (j - q).toNat, Int.toNat_of_nonneg (by omega)]
    have hround : roundQ .rn false ((n : ℚ) * 2 ^ j / 2 ^ q) = (n * 2 ^ (j - q).toNat, false) := by rw [hint, roundQ_natCast]
    have hk : (roundQ .rn false ((n : ℚ) * 2 ^ j / 2 ^ q)).1 < 2 ^ (f.mbits + 1) := by
      have := hq.div_lt
      rw [hint] at this
      rw [hround]
      exact_mod_cast this
    refine ⟨_, pattern_le_of_lt h (r := .rn) (neg := false) hq hlt hk, ?_⟩
    rw [hq.magOf_pattern ha, hround]
    dsimp only
    rw [← hint, div_mul_cancel₀ _ (two_zpow_pos q).ne']

theorem holds_two_zpow (h : Ieee f) {j : ℤ} (hj : f.qmin ≤ j) (hlt : j ≤ f.bias) : Holds f (2 ^ j) := by
  have key := holds_of_parts h (n := 1) (j := j) (Nat.one_lt_two_pow (by omega)) hj (by
    rw [Nat.cast_one, one_mul]; exact zpow_lt_zpow_right₀ (by norm_num) (by omega))
  simpa using key

theorem holds_zero (f : FFmt) : Holds f 0 := ⟨0, Nat.zero_le _, by simp [magOf, mantOf]⟩

theorem magOf_lt_top (h : Ieee f) {b : Nat} (hb : b ≤ f.maxBits) : magOf f b < 2 ^ ((f.bias : ℤ) + 1) := by
  refine lt_of_lt_of_le (magOf_lt f b) (zpow_le_zpow_right₀ (by norm_num) ?_)
  have hmax := h.maxBits_eq
  have hbias := h.bias_pos
  have hdiv : b / 2 ^ f.mbits < 2 * f.bias + 1 := (Nat.div_lt_iff_lt_mul (Nat.two_pow_pos _)).2 (by omega)
  rw [expOf, qmin_eq]
  omega

/-- Zero has one pattern. -/
theorem eq_zero_of_magOf (h : magOf f b = 0) : b = 0 := by
  have hm : mantOf f b = 0 := by
    have := (two_zpow_pos (expOf f b)).ne'
    simpa [magOf, this] using h
  have hpos := Nat.two_pow_pos f.mbits
  have he : expOf f b = f.qmin := (expOf_normal f b).resolve_right (by omega)
  have hparts := bits_of_parts f b
  rw [he, hm] at hparts
  simpa using hparts.symm

/-! ### Rounding to the format (R77) -/

/-- A number of the format is rounded to itself. -/
theorem round_of_magOf {m : Nat} {e : ℤ} {b : Nat} (hb : b ≤ f.maxBits) (h : (m : ℚ) * 2 ^ e = magOf f b) (r : Rnd) (sat neg : Bool) :
    f.round r sat (.fin neg m e) = (f.signBits neg + b, 0) := by
  rcases Nat.eq_zero_or_pos m with rfl | hm
  · obtain rfl := eq_zero_of_magOf (f := f) (b := b) (by rw [← h]; simp)
    simp [FFmt.round]
  · have hq := isPlace_topExp f hm.ne' e
    rw [round_fin f r sat neg hm.ne', roundFin_eq]
    have hq' : max (topExp m e - f.mbits) f.qmin = expOf f b := hq.unique (h ▸ isPlace_magOf f b)
    have hround : roundQ r neg ((m : ℚ) * 2 ^ e / 2 ^ expOf f b) = (mantOf f b, false) := by
      rw [h, magOf, mul_div_cancel_right₀ _ (two_zpow_pos _).ne', roundQ_natCast]
    have hpat : patternOf f r neg (m * 2 ^ e) (expOf f b) = b := by rw [patternOf, hround]; exact bits_of_parts f b
    rw [hq', hpat, hround, if_neg (by omega)]
    simp [when_false]

/-- From 2^(bias + 1) up rounding to nearest gives ∞ (R81). -/
theorem round_overflow (h : Ieee f) {m : Nat} {e : ℤ} (hle : 2 ^ ((f.bias : ℤ) + 1) ≤ (m : ℚ) * 2 ^ e) (neg : Bool) :
    f.round .rn false (.fin neg m e) = (f.signBits neg + f.infBits, fOF ||| fNX) := by
  have hm : m ≠ 0 := by
    rintro rfl
    have := two_zpow_pos ((f.bias : ℤ) + 1)
    simp only [CharP.cast_eq_zero, zero_mul] at hle
    linarith
  rw [round_fin f .rn false neg hm, roundFin_eq]
  rw [if_pos (maxBits_lt_pattern h (isPlace_topExp f hm e) hle)]
  simp [FFmt.overflow, h.notE4m3]

end

end Sys2Proof.Claims
end

section
/-! PROOF. Minima and maxima, classes and integral values of floating-point elements (O9; R80, R150, R151). -/

namespace Sys2Proof.Claims
open Sys2Proof.Machine

section
variable {f : FFmt}

/-! ### The order of values (R80) -/

theorem le_exp_min (x y : FVal) : min x.exp y.exp ≤ x.exp ∧ min x.exp y.exp ≤ y.exp := ⟨min_le_left _ _, min_le_right _ _⟩

theorem numAt_lt_iff {x y : FVal} (hx : finite x = true) (hy : finite y = true) :
    x.numAt (min x.exp y.exp) < y.numAt (min x.exp y.exp) ↔ rat x < rat y := by
  rw [rat_eq_numAt hx (le_exp_min x y).1, rat_eq_numAt hy (le_exp_min x y).2, mul_lt_mul_iff_left₀ (two_zpow_pos _), Int.cast_lt]

theorem numAt_eq_iff {x y : FVal} (hx : finite x = true) (hy : finite y = true) :
    x.numAt (min x.exp y.exp) = y.numAt (min x.exp y.exp) ↔ rat x = rat y := by
  rw [rat_eq_numAt hx (le_exp_min x y).1, rat_eq_numAt hy (le_exp_min x y).2, mul_left_inj' (two_zpow_pos _).ne', Int.cast_inj]

theorem lt_finite {x y : FVal} (hx : finite x = true) (hy : finite y = true) : FVal.lt x y = decide (rat x < rat y) := by
  obtain ⟨s, m, e, rfl⟩ := eq_fin_of_finite hx
  obtain ⟨t, n, g, rfl⟩ := eq_fin_of_finite hy
  rw [decide_eq_decide.2 (numAt_lt_iff hx hy).symm]
  rfl

theorem eqv_finite {x y : FVal} (hx : finite x = true) (hy : finite y = true) : FVal.eqv x y = decide (rat x = rat y) := by
  obtain ⟨s, m, e, rfl⟩ := eq_fin_of_finite hx
  obtain ⟨t, n, g, rfl⟩ := eq_fin_of_finite hy
  rw [decide_eq_decide.2 (numAt_eq_iff hx hy).symm]
  rfl

/-- The model's order with the signs of zeros is that of R80. -/
theorem before_eq {a b : FVal} (ha : a.isNan = false) (hb : b.isNan = false) :
    (FVal.lt a b || (FVal.eqv a b && a.neg? && !b.neg?)) = before a b := by
  cases a with
  | nan s => simp [FVal.isNan] at ha
  | inf s =>
    cases b with
    | nan t => simp [FVal.isNan] at hb
    | inf t => cases s <;> cases t <;> decide
    | fin t n g => cases s <;> simp [FVal.lt, FVal.eqv, before]
  | fin s m e =>
    cases b with
    | nan t => simp [FVal.isNan] at hb
    | inf t => cases t <;> simp [FVal.lt, FVal.eqv, before]
    | fin t n g => rw [lt_finite rfl rfl, eqv_finite rfl rfl]; rfl

/-- The minimum or maximum of two elements, in the words of R80. -/
theorem minmax_eq {w : Nat} (hw : f.width = w) (mx : Bool) (x y : BitVec w) :
    f.minmax mx x.toNat y.toNat = ((
      if (f.val x.toNat).isNan && (f.val y.toNat).isNan then f.nanBits
      else if (f.val y.toNat).isNan || (!(f.val x.toNat).isNan && before (f.val x.toNat) (f.val y.toNat) != mx) then x.toNat
      else y.toNat), Flags.when ((f.val x.toNat).isSig || (f.val y.toNat).isSig) fNV) := by
  have hx : x.toNat % 2 ^ f.width = x.toNat := Nat.mod_eq_of_lt (hw ▸ x.isLt)
  have hy : y.toNat % 2 ^ f.width = y.toNat := Nat.mod_eq_of_lt (hw ▸ y.isLt)
  cases ha : (f.val x.toNat).isNan with
  | true => cases hb : (f.val y.toNat).isNan <;> simp [FFmt.minmax, ha, hb, hy]
  | false =>
    cases hb : (f.val y.toNat).isNan with
    | true => simp [FFmt.minmax, ha, hb, hx]
    | false =>
      simp only [FFmt.minmax, ha, hb, hx, hy, before_eq ha hb]
      split <;> simp_all

/-! ### Classes (R151) -/

theorem topExp_lt_iff {m : Nat} (hm : m ≠ 0) (e n : ℤ) : topExp m e < n ↔ (m : ℚ) * 2 ^ e < 2 ^ n := by
  have hlo : (2 : ℚ) ^ (topExp m e) ≤ m * 2 ^ e := by
    rw [topExp, add_comm, zpow_add₀ (by norm_num), zpow_natCast]
    exact mul_le_mul_of_nonneg_right (by exact_mod_cast Nat.log2_self_le hm) (two_zpow_pos e).le
  have hhi : (m : ℚ) * 2 ^ e < 2 ^ (topExp m e + 1) := by
    have h2 : topExp m e + 1 = ((m.log2 + 1 : ℕ) : ℤ) + e := by rw [topExp]; push_cast; ring
    rw [h2, zpow_add₀ (by norm_num), zpow_natCast]
    exact mul_lt_mul_of_pos_right (by exact_mod_cast Nat.lt_log2_self) (two_zpow_pos e)
  constructor
  · intro h
    exact lt_of_lt_of_le hhi (zpow_le_zpow_right₀ (by norm_num) (by omega))
  · intro h
    exact (zpow_lt_zpow_iff_right₀ (by norm_num : (1 : ℚ) < 2)).1 (lt_of_le_of_lt hlo h)

theorem two_zpow_topExp_le {m : Nat} (hm : m ≠ 0) (e : ℤ) : (2 : ℚ) ^ topExp m e ≤ m * 2 ^ e :=
  not_lt.1 fun h => lt_irrefl _ ((topExp_lt_iff hm e _).2 h)

theorem rat_fin_false (m : Nat) (e : ℤ) : rat (.fin false m e) = m * 2 ^ e := by simp [rat_fin, sgn]

theorem abs_rat_fin (s : Bool) (m : Nat) (e : ℤ) : |rat (.fin s m e)| = m * 2 ^ e := by
  rw [rat_fin, abs_mul, abs_sgn, one_mul, abs_of_nonneg (by positivity)]

theorem cls_eq (f : FFmt) (x : Nat) : f.cls x = classOf f (f.val x) := by
  unfold FFmt.cls
  cases h : f.val x with
  | nan s => cases s <;> rfl
  | inf s => cases s <;> rfl
  | fin s m e =>
    by_cases hm : m = 0
    · have h0 : rat (.fin s m e) = 0 := rat_fin_eq_zero.2 hm
      simp only [classOf, h0, if_true]
      rw [if_pos hm]
      rfl
    · have h0 : rat (.fin s m e) ≠ 0 := fun h => hm (rat_fin_eq_zero.1 h)
      simp only [classOf, h0, hm, if_false, abs_rat_fin, topExp_lt_iff hm]
      by_cases hsub : (m : ℚ) * 2 ^ e < 2 ^ f.emin <;> cases s <;> simp [hsub, FVal.neg?]

end

end Sys2Proof.Claims
end

section
/-! PROOF. Floating-point elements rounded to integral values (O9; R150). -/

namespace Sys2Proof.Claims
open Sys2Proof.Machine

/-! ### The integer next to a number (R77) -/

theorem floor_neg_of_ne {a : ℚ} (ha : 0 ≤ a) (h : a ≠ ⌊a⌋₊) : ⌊-a⌋ = -(⌊a⌋₊ + 1 : ℤ) := by
  have hlo : (⌊a⌋₊ : ℚ) < a := lt_of_le_of_ne (Nat.floor_le ha) (Ne.symm h)
  have hhi := Nat.lt_floor_add_one a
  rw [Int.floor_eq_iff]
  push_cast
  constructor <;> linarith

/-- The distance to the integer below and that integer's parity tell which integer is the nearest one. -/
theorem rounds_up_iff (d : ℚ) (k : Nat) : (1 / 2 < d ∨ (d = 1 / 2 ∧ k % 2 = 1)) ↔ ¬ (d < 1 / 2 ∨ (d = 1 / 2 ∧ (k : ℤ) % 2 = 0)) := by
  have hk : (k : ℤ) % 2 = 0 ↔ ¬ k % 2 = 1 := by omega
  rw [hk]
  rcases lt_trichotomy d (1 / 2) with h | rfl | h
  · simp only [h, h.ne, h.not_gt, false_and, or_false, not_true]
  · simp only [lt_irrefl, true_and, false_or, not_not]
  · simp only [h, h.ne', h.not_gt, false_and, or_false, not_false_iff]

theorem rounds_up_neg_iff (d : ℚ) (k : Nat) :
    (1 / 2 < d ∨ (d = 1 / 2 ∧ k % 2 = 1)) ↔ (1 - d < 1 / 2 ∨ (1 - d = 1 / 2 ∧ (-(k + 1 : ℤ)) % 2 = 0)) := by
  have hk : (-(k + 1 : ℤ)) % 2 = 0 ↔ k % 2 = 1 := by omega
  have hlt : 1 - d < 1 / 2 ↔ 1 / 2 < d := by constructor <;> intro h <;> linarith
  have heq : 1 - d = 1 / 2 ↔ d = 1 / 2 := by constructor <;> intro h <;> linarith
  rw [hk, hlt, heq]

/-- Rounding to nearest of a number of either sign, from its magnitude. -/
theorem toInteger_rn (neg : Bool) {a : ℚ} (ha : 0 ≤ a) : (toInteger .rn (sgn neg * a) : ℚ) = sgn neg * (roundQ .rn neg a).1 := by
  have hfl : ⌊a⌋ = (⌊a⌋₊ : ℤ) := (Int.natCast_floor_eq_floor ha).symm
  by_cases hint : a = ⌊a⌋₊
  · have hz : sgn neg * (⌊a⌋₊ : ℚ) = ((if neg then -(⌊a⌋₊ : ℤ) else ⌊a⌋₊ : ℤ) : ℚ) := by cases neg <;> simp [sgn]
    rw [hint, roundQ_natCast, hz, toInteger, Int.floor_intCast, sub_self, if_pos (.inl (by norm_num))]
  · have hrq : (roundQ .rn neg a).1
        = if 1 / 2 < a - ⌊a⌋₊ ∨ (a - ⌊a⌋₊ = 1 / 2 ∧ ⌊a⌋₊ % 2 = 1) then ⌊a⌋₊ + 1 else ⌊a⌋₊ := by
      simp only [roundQ, roundsUp, Bool.or_eq_true, Bool.and_eq_true, decide_eq_true_eq, beq_iff_eq]
    have hneg := floor_neg_of_ne ha hint
    rw [hrq]
    generalize ⌊a⌋₊ = k at hfl hneg
    cases neg with
    | false =>
      simp only [sgn, Bool.false_eq_true, if_false, one_mul, toInteger, hfl, Int.cast_natCast, rounds_up_iff, ite_not]
      split <;> push_cast <;> rfl
    | true =>
      have hd : -a - ((-(k + 1 : ℤ) : ℤ) : ℚ) = 1 - (a - k) := by push_cast; ring
      simp only [sgn, if_true, neg_one_mul, toInteger, hneg, hd, rounds_up_neg_iff]
      split <;> push_cast <;> ring

/-- Rounding of a number of either sign, from its magnitude. -/
theorem toInteger_eq (r : Rnd) (neg : Bool) {a : ℚ} (ha : 0 ≤ a) :
    (toInteger r (sgn neg * a) : ℚ) = sgn neg * (roundQ r neg a).1 := by
  have hfl : ((⌊a⌋ : ℤ) : ℚ) = ⌊a⌋₊ := by rw [← Int.natCast_floor_eq_floor ha]; rfl
  have hce : ((⌈a⌉ : ℤ) : ℚ) = ⌈a⌉₊ := by rw [← Int.natCast_ceil_eq_ceil ha]; rfl
  cases r with
  | rn => exact toInteger_rn neg ha
  | rz =>
    rw [roundQ_floor (.inl rfl)]
    cases neg with
    | false => simp [sgn, toInteger, hfl, ha.not_gt]
    | true =>
      rcases ha.eq_or_lt with h0 | hpos
      · simp [← h0, toInteger]
      · simp [sgn, toInteger, hpos, Int.ceil_neg, hfl]
  | ru =>
    cases neg with
    | false => rw [roundQ_ceil ha (.inl ⟨rfl, rfl⟩)]; simp [sgn, toInteger, hce]
    | true => rw [roundQ_floor (.inr (.inl ⟨rfl, rfl⟩))]; simp [sgn, toInteger, Int.ceil_neg, hfl]
  | rd =>
    cases neg with
    | false => rw [roundQ_floor (.inr (.inr ⟨rfl, rfl⟩))]; simp [sgn, toInteger, hfl]
    | true => rw [roundQ_ceil ha (.inr ⟨rfl, rfl⟩)]; simp [sgn, toInteger, Int.floor_neg, hce]

/-! ### Numbers of a format and integers -/

section
variable {f : FFmt}

/-- The integer next to a number of the format that is no integer is a number of the format. -/
theorem holds_rounded (h : Ieee f) {r : Rnd} {neg : Bool} {b : Nat} (hne : magOf f b ≠ (roundQ r neg (magOf f b)).1) :
    Holds f (roundQ r neg (magOf f b)).1 := by
  have he : expOf f b < 0 := by
    by_contra hge
    apply hne
    have hint : magOf f b = (mantOf f b * 2 ^ (expOf f b).toNat : ℕ) := by
      push_cast
      rw [← zpow_natCast (2 : ℚ), Int.toNat_of_nonneg (by omega), magOf]
    conv_lhs => rw [hint]
    rw [hint, roundQ_natCast]
  have hlt : magOf f b ≤ (2 ^ f.mbits : ℕ) := by
    have h1 : (2 : ℚ) ^ (expOf f b + f.mbits + 1) ≤ 2 ^ (f.mbits : ℤ) := zpow_le_zpow_right₀ (by norm_num) (by omega)
    rw [zpow_natCast] at h1
    push_cast
    exact (lt_of_lt_of_le (magOf_lt f b) h1).le
  have hk := roundQ_le (r := r) (neg := neg) (magOf_nonneg f b) hlt
  have hk' : (roundQ r neg (magOf f b)).1 < 2 ^ (f.mbits + 1) := by rw [pow_succ]; have := Nat.two_pow_pos f.mbits; omega
  have key := holds_of_parts h (j := 0) hk' (by rw [qmin_eq]; have := h.bias_pos; omega) (by
    rw [zpow_zero, mul_one]
    refine lt_of_lt_of_le (b := (2 : ℚ) ^ (f.mbits + 1)) (by exact_mod_cast hk') ?_
    rw [← zpow_natCast]
    refine zpow_le_zpow_right₀ (by norm_num) ?_
    have := h.mbits_le_bias
    push_cast
    omega)
  simpa using key

/-- The model's integral values are those of R150. -/
theorem integral_spec (h : Ieee f) (r : Rnd) (exact : Bool) {x : Nat} (hx : x < 2 ^ f.width) :
    Integral f r exact x (f.integral r exact x) := by
  have hmod : x % 2 ^ f.width = x := Nat.mod_eq_of_lt hx
  unfold Integral
  refine ⟨fun sig ha => by simp only [FFmt.integral, ha], fun s ha => by simp only [FFmt.integral, ha, hmod], fun hfin => ?_⟩
  obtain ⟨b, hb, -, hval, -⟩ := exists_of_finite h.shape hfin
  generalize (f.val x).neg? = s at hval
  have hround : toInteger r (rat (f.val x)) = sgn s * (roundQ r s (magOf f b)).1 := by
    rw [hval, rat_fin]; exact toInteger_eq r s (magOf_nonneg f b)
  have hiff : rat (f.val x) = toInteger r (rat (f.val x)) ↔ magOf f b = (roundQ r s (magOf f b)).1 := by
    rw [hround, hval, rat_fin]
    exact mul_right_inj' (by cases s <;> simp [sgn])
  have hat : roundAt r s (mantOf f b) (expOf f b) 0 = roundQ r s (magOf f b) := by
    rw [roundAt_eq_roundQ, sub_zero]; rfl
  refine ⟨fun heq => ?_, fun hne => ?_⟩
  · rw [hiff] at heq
    simp only [FFmt.integral, hval, hat, roundQ_inexact.2 heq, hmod, Bool.not_false, if_true, ite_self]
  · rw [ne_eq, hiff] at hne
    have hm : mantOf f b ≠ 0 := by
      intro h0
      apply hne
      have hmag : magOf f b = 0 := by simp [magOf, h0]
      rw [hmag]
      exact_mod_cast (congrArg (fun p => ((p.1 : ℕ) : ℚ)) (roundQ_natCast r s 0)).symm
    have hnx : (roundQ r s (magOf f b)).2 = true := by rw [← Bool.not_eq_false, roundQ_inexact]; exact hne
    obtain ⟨c, hc, hmag⟩ := holds_rounded h hne
    have hres : f.integral r exact x = (f.signBits s + c, Flags.when exact fNX) := by
      simp only [FFmt.integral, hval, hat, hnx, hm, Bool.not_true, Bool.false_eq_true, if_false]
      rw [round_of_magOf hc (by rw [hmag, zpow_zero, mul_one])]
    rw [hres, val_signed h.shape hc, hround]
    refine ⟨rfl, ?_, rfl, rfl⟩
    rw [rat_fin, ← hmag]
    rfl

end

end Sys2Proof.Claims
end

section
/-! PROOF. The exact cases of the special functions (O9; R88): powers of two, squares and integers as the model finds
them. -/

namespace Sys2Proof.Claims
open Sys2Proof.Machine

/-! ### The odd part of a number -/

/-- A number that is not zero is an odd number of at most its size in a power of two. -/
theorem oddPart_spec {m fuel : Nat} (hm : m ≠ 0) (hlt : m < 2 ^ fuel) (e : ℤ) :
    (oddPart m e fuel).1 % 2 = 1 ∧ ((oddPart m e fuel).1 : ℚ) * 2 ^ (oddPart m e fuel).2 = m * 2 ^ e := by
  induction fuel generalizing m e with
  | zero => omega
  | succ k ih =>
    unfold oddPart
    split
    · next h =>
      obtain ⟨h1, h2⟩ := ih (m := m / 2) (by omega) (by rw [pow_succ] at hlt; omega) (e + 1)
      refine ⟨h1, h2.trans ?_⟩
      have hm2 : (m : ℚ) = (m / 2 : ℕ) * 2 := by exact_mod_cast (Nat.div_mul_cancel (Nat.dvd_of_mod_eq_zero h.1)).symm
      rw [hm2, zpow_add_one₀ (by norm_num)]
      ring
    · next h => exact ⟨by simp only; omega, rfl⟩

/-- The integer of a number has as many factors 2 as its odd part leaves. -/
theorem exp_le_of_odd {o p : Nat} {x y : ℤ} (ho : o % 2 = 1) (h : (o : ℚ) * 2 ^ x = p * 2 ^ y) :
    y ≤ x ∧ p = o * 2 ^ (x - y).toNat := by
  have hle : y ≤ x := by
    by_contra hlt
    obtain ⟨n, hn⟩ : ∃ n : ℕ, y = x + (n + 1 : ℕ) := ⟨(y - x - 1).toNat, by push_cast; omega⟩
    rw [hn, zpow_add₀ (by norm_num), zpow_natCast, mul_comm ((2 : ℚ) ^ x), ← mul_assoc] at h
    have h2 : (o : ℚ) = (p * 2 ^ (n + 1) : ℕ) := by push_cast; exact mul_right_cancel₀ (two_zpow_pos x).ne' h
    have h3 : o = p * 2 ^ (n + 1) := by exact_mod_cast h2
    rw [pow_succ, ← mul_assoc] at h3
    omega
  refine ⟨hle, ?_⟩
  have hx : (2 : ℚ) ^ x = 2 ^ (x - y).toNat * 2 ^ y := by
    rw [← zpow_natCast, Int.toNat_of_nonneg (by omega), ← zpow_add₀ (by norm_num), sub_add_cancel]
  rw [hx, ← mul_assoc] at h
  have h2 := mul_right_cancel₀ (two_zpow_pos y).ne' h
  exact_mod_cast h2.symm

/-- Odd numbers in powers of two are equal only where both parts are. -/
theorem odd_unique {o p : Nat} {x y : ℤ} (ho : o % 2 = 1) (hp : p % 2 = 1) (h : (o : ℚ) * 2 ^ x = p * 2 ^ y) : o = p ∧ x = y := by
  obtain ⟨hle, heq⟩ := exp_le_of_odd ho h
  obtain rfl : x = y := le_antisymm (exp_le_of_odd hp h.symm).1 hle
  exact ⟨by simpa using heq.symm, rfl⟩

/-- The odd part of a power of two is 1. -/
theorem oddPart_of_two_zpow {m : Nat} {e k : ℤ} (hm : m ≠ 0) (hlt : m < 2 ^ 64) (h : (m : ℚ) * 2 ^ e = 2 ^ k) :
    oddPart m e 64 = (1, k) := by
  obtain ⟨h1, h2⟩ := oddPart_spec hm hlt e
  obtain ⟨h3, h4⟩ := odd_unique (p := 1) (y := k) h1 rfl (by rw [h2, h]; simp)
  exact Prod.ext h3 h4

/-- Only a power of two has the odd part 1. -/
theorem eq_two_zpow_of_oddPart {m : Nat} {e : ℤ} (hm : m ≠ 0) (hlt : m < 2 ^ 64) (h : (oddPart m e 64).1 = 1) :
    (m : ℚ) * 2 ^ e = 2 ^ (oddPart m e 64).2 := by
  obtain ⟨-, h2⟩ := oddPart_spec hm hlt e
  rw [← h2, h]
  simp

/-! ### Square roots -/

/-- The model's square root is the largest root of `k` bits beyond `r` whose square is not above `n`. -/
theorem isqrt_spec (n k r : Nat) (hr : r * r ≤ n) : isqrt n k r * isqrt n k r ≤ n
    ∧ (n < (r + 2 ^ k) * (r + 2 ^ k) → n < (isqrt n k r + 1) * (isqrt n k r + 1)) := by
  induction k generalizing r with
  | zero => exact ⟨hr, id⟩
  | succ k ih =>
    unfold isqrt
    dsimp only
    split
    · next h =>
      obtain ⟨h1, h2⟩ := ih (r + 2 ^ k) h
      refine ⟨h1, fun hlt => h2 ?_⟩
      rwa [add_assoc, ← two_mul, ← pow_succ']
    · next h =>
      obtain ⟨h1, h2⟩ := ih r hr
      exact ⟨h1, fun _ => h2 (by omega)⟩

theorem isqrt_square {n k : Nat} (h : n < 2 ^ k) : isqrt (n * n) k 0 = n := by
  obtain ⟨h1, h2⟩ := isqrt_spec (n * n) k 0 (Nat.zero_le _)
  have h3 := h2 (by rw [Nat.zero_add]; exact Nat.mul_self_lt_mul_self h)
  have h4 := Nat.mul_self_le_mul_self_iff.1 h1
  have h5 := Nat.mul_self_lt_mul_self_iff.1 h3
  omega

/-- A number of which a rational is the root: with an even exponent its integer is a square. -/
theorem square_parts {m : Nat} {e : ℤ} {v : ℚ} (hv : 0 ≤ v) (h : (m : ℚ) * 2 ^ e = v * v) :
    ∃ n : Nat, (if e % 2 = 0 then m else 2 * m) = n * n ∧ v = n * 2 ^ ((if e % 2 = 0 then e else e - 1) / 2) := by
  obtain ⟨m', e', h1, h2, h3⟩ : ∃ (m' : Nat) (e' : ℤ), (if e % 2 = 0 then m else 2 * m) = m'
      ∧ (if e % 2 = 0 then e else e - 1) = 2 * e' ∧ (m' : ℚ) * 2 ^ (2 * e') = v * v := by
    split
    · next he => exact ⟨m, e / 2, rfl, by omega, by rw [show 2 * (e / 2) = e by omega]; exact h⟩
    · next he =>
      refine ⟨2 * m, (e - 1) / 2, rfl, by omega, ?_⟩
      rw [show 2 * ((e - 1) / 2) = e - 1 by omega, zpow_sub_one₀ (by norm_num), ← h]
      push_cast
      ring
  rw [h1, h2, Int.mul_ediv_cancel_left _ (by norm_num)]
  have hu := two_zpow_pos e'
  have hsq : (m' : ℚ) = (v / 2 ^ e') * (v / 2 ^ e') := by
    rw [div_mul_div_comm, ← h3, ← zpow_add₀ (by norm_num), ← two_mul, mul_div_cancel_right₀ _ (two_zpow_pos _).ne']
  obtain ⟨n, hn⟩ := Rat.isSquare_natCast_iff.1 ⟨_, hsq⟩
  refine ⟨n, hn, ?_⟩
  have hn' : (n : ℚ) * n = (v / 2 ^ e') * (v / 2 ^ e') := by rw [← hsq, hn]; push_cast; rfl
  have hroot : (n : ℚ) = v / 2 ^ e' := (mul_self_inj (by positivity) (by positivity)).1 hn'
  rw [hroot, div_mul_cancel₀ _ hu.ne']

/-! ### Exact values -/

section
variable {m : Nat} {e : ℤ} {f : FFmt}

theorem rcp_of_two_zpow (hm : m ≠ 0) (hlt : m < 2 ^ 64) {s : Bool} {k : ℤ} (h : (m : ℚ) * 2 ^ e = 2 ^ k) (hk : f.emin ≤ -k) :
    SFn.val .rcp f (.fin s m e) = .exact (.fin s 1 (-k)) 0 := by
  simp only [SFn.val, hm, if_false, oddPart_of_two_zpow hm hlt h, if_true, rcpPow2, if_neg (not_lt.2 hk)]

theorem rsq_of_four_zpow (hm : m ≠ 0) (hlt : m < 2 ^ 64) {k : ℤ} (h : (m : ℚ) * 2 ^ e = 4 ^ k) :
    SFn.val .rsq f (.fin false m e) = .exact (.fin false 1 (-k)) 0 := by
  have h2 : (m : ℚ) * 2 ^ e = 2 ^ (2 * k) := by rw [h, zpow_mul]; norm_num
  have hdiv : 2 * k / 2 = k := by omega
  have hmod : 2 * k % 2 = 0 := by omega
  simp only [SFn.val, hm, if_false, oddPart_of_two_zpow hm hlt h2, hmod, hdiv, and_self, if_true, Bool.false_eq_true]

theorem sqrt_of_square (hm : m ≠ 0) (hlt : m < 2 ^ 64) {v : ℚ} (hv : 0 ≤ v) (h : (m : ℚ) * 2 ^ e = v * v) :
    ∃ n g, SFn.val .sqrt f (.fin false m e) = .exact (.fin false n g) 0 ∧ rat (.fin false n g) = v := by
  obtain ⟨n, hn, hv'⟩ := square_parts hv h
  have hsq : (if e % 2 = 0 then m else 2 * m) * 2 ^ 200 = (n * 2 ^ 100) * (n * 2 ^ 100) := by rw [hn]; ring
  have hn32 : n < 2 ^ 33 := by
    have : n * n < 2 ^ 33 * 2 ^ 33 := by rw [← hn]; split <;> omega
    exact Nat.mul_self_lt_mul_self_iff.1 this
  have hroot : isqrt ((n * 2 ^ 100) * (n * 2 ^ 100)) 140 0 = n * 2 ^ 100 := isqrt_square (by omega)
  refine ⟨n * 2 ^ 100, (if e % 2 = 0 then e else e - 1) / 2 - 100, ?_, ?_⟩
  · simp only [SFn.val, hm, if_false, hsq, hroot, if_true, Bool.false_eq_true]
  · rw [hv', rat_fin, sgn, if_neg (by simp), one_mul, zpow_sub₀ (by norm_num)]
    push_cast
    norm_num
    field_simp

theorem exp2_of_nat (hm : m ≠ 0) {s : Bool} {k : Nat} (h : (m : ℚ) * 2 ^ e = k) (hk : k < 5000) :
    SFn.val .exp2 f (.fin s m e) = .exact (.fin false 1 (if s then -(k : ℤ) else k)) 0 := by
  have hat : roundAt .rz s m e 0 = (k, false) := by rw [roundAt_eq_roundQ, sub_zero, h, roundQ_natCast]
  simp only [SFn.val, hm, if_false, hat, hk, Bool.not_false, decide_true, Bool.and_self, if_true]

theorem log2_of_two_zpow (hm : m ≠ 0) (hlt : m < 2 ^ 64) {k : ℤ} (h : (m : ℚ) * 2 ^ e = 2 ^ k) :
    SFn.val .log2 f (.fin false m e) = .exact (FVal.ofInt k) 0 := by
  simp only [SFn.val, hm, if_false, oddPart_of_two_zpow hm hlt h, if_true, Bool.false_eq_true]

end

end Sys2Proof.Claims
end

section
/-! PROOF. The special functions on an element (O9; R88, R153): the format they are computed in, the value that a
two-element type's element has there, and the results of exact values. -/

namespace Sys2Proof.Claims
open Sys2Proof.Machine

/-! ### Where an element is computed -/

/-- The types of the special functions (R153). -/
def specialTys (f64 : Bool) : List Ty := if f64 then Ty.floats else [.f32, .f16x2, .bf16x2]

theorem mem_floats_of_specialTys {f64 : Bool} {ty : Ty} (h : ty ∈ specialTys f64) : ty ∈ Ty.floats := by
  cases f64
  · simp only [specialTys, Bool.false_eq_true, if_false, Ty.floats, List.mem_cons, List.not_mem_nil, or_false] at h ⊢
    tauto
  · exact h

/-- The formats of the two-element types, whose special functions go by way of f32 (R88). -/
def Narrow (f : FFmt) : Prop := f = ffF16 ∨ f = ffBF16

/-- The format in which an element's special function is computed. -/
def workFmt (ty : Ty) : FFmt :=
  match ty with
  | .f16x2 | .bf16x2 => ffF32
  | _ => tyFmt ty

/-- An element in that format. -/
def workVal (ty : Ty) (x : Nat) : FVal :=
  match ty with
  | .f16x2 | .bf16x2 => ffF32.val (ffF32.round .rn false ((tyFmt ty).val x)).1
  | _ => (tyFmt ty).val x

/-- What an element of a two-element type is: rounded from f32, with the flags of the function's value in its format. -/
def narrowResult (fn : SFn) (op : Nat) (f : FFmt) (bits : Nat) : Nat × Flags :=
  let a := f.val bits
  let x := fn.result op ffF32 (ffF32.round .rn false a).1
  let y := f.round .rn false (ffF32.val x.1)
  let all := x.2 ||| y.2
  let nx := all &&& fNX != 0 && !fn.hits f a y.1
  (y.1, (all &&& ~~~(fUF ||| fNX)) ||| Flags.when nx fNX ||| Flags.when (nx && fn.tinyIn f a) fUF ||| Flags.when a.isSig fNV)

/-- An element is computed in its own format or by way of f32. -/
theorem elem_cases {ty : Ty} (hty : ty ∈ Ty.floats) (fn : SFn) (op x : Nat) :
    (workFmt ty = tyFmt ty ∧ workVal ty x = (tyFmt ty).val x ∧ fn.elem op ty x = fn.result op (tyFmt ty) x)
    ∨ (Narrow (tyFmt ty) ∧ workFmt ty = ffF32 ∧ workVal ty x = ffF32.val (ffF32.round .rn false ((tyFmt ty).val x)).1
      ∧ fn.elem op ty x = narrowResult fn op (tyFmt ty) x) := by
  simp only [Ty.floats, List.mem_cons, List.not_mem_nil, or_false] at hty
  rcases hty with rfl | rfl | rfl | rfl
  · exact .inl ⟨rfl, rfl, rfl⟩
  · exact .inl ⟨rfl, rfl, rfl⟩
  · exact .inr ⟨.inl rfl, rfl, rfl, rfl⟩
  · exact .inr ⟨.inr rfl, rfl, rfl, rfl⟩

theorem ieee_f32 : Ieee ffF32 := .inr (.inl rfl)

theorem Narrow.ieee {f : FFmt} (h : Narrow f) : Ieee f := h.elim (fun h => .inr (.inr (.inl h))) (fun h => .inr (.inr (.inr h)))

theorem ieee_workFmt (ty : Ty) : Ieee (workFmt ty) := by
  unfold workFmt
  split
  · exact ieee_f32
  · exact ieee_f32
  · exact ieee_tyFmt ty

/-- f32 has every number of the narrow formats. -/
theorem Narrow.holds {f : FFmt} (h : Narrow f) {v : ℚ} (hv : Holds f v) : Holds ffF32 v := by
  obtain ⟨b, hb, rfl⟩ := hv
  have hshape : f.mbits ≤ 23 ∧ ffF32.qmin ≤ f.qmin ∧ f.bias ≤ ffF32.bias := by rcases h with rfl | rfl <;> decide
  obtain ⟨hm, hq, hbias⟩ := hshape
  refine holds_of_parts ieee_f32 ?_ (le_trans hq (qmin_le_expOf f b)) ?_
  · exact lt_of_lt_of_le (mantOf_lt f b) (Nat.pow_le_pow_right (by norm_num) (Nat.succ_le_succ hm))
  · exact lt_of_lt_of_le (magOf_lt_top h.ieee hb) (zpow_le_zpow_right₀ (by norm_num) (by omega))

section
variable {ty : Ty} {x : Nat} {fn : SFn} {op : Nat}

theorem holds_workFmt (hty : ty ∈ Ty.floats) {v : ℚ} (hv : Holds (tyFmt ty) v) : Holds (workFmt ty) v := by
  rcases elem_cases hty .rcp 0 0 with ⟨hw, -⟩ | ⟨hn, hw, -⟩
  · rwa [hw]
  · rw [hw]; exact hn.holds hv

/-! ### The element as a value there -/

theorem workVal_inf (hty : ty ∈ Ty.floats) {s : Bool} (ha : (tyFmt ty).val x = .inf s) : workVal ty x = .inf s := by
  rcases elem_cases hty .rcp 0 x with ⟨-, hv, -⟩ | ⟨-, -, hv, -⟩
  · rw [hv, ha]
  · rw [hv, ha]; exact ieee_f32.val_inf s

/-- A number is the same number there. -/
theorem workVal_fin (hty : ty ∈ Ty.floats) (ha : finite ((tyFmt ty).val x) = true) :
    ∃ m e, workVal ty x = .fin ((tyFmt ty).val x).neg? m e ∧ m < 2 ^ 53
      ∧ rat ((tyFmt ty).val x) = sgn ((tyFmt ty).val x).neg? * (m * 2 ^ e) ∧ Holds (tyFmt ty) (m * 2 ^ e) := by
  obtain ⟨b, hb, -, hval, -⟩ := exists_of_finite (ieee_tyFmt ty).shape ha
  have hsmall {f : FFmt} (hf : Ieee f) (c : Nat) : mantOf f c < 2 ^ 53 :=
    lt_of_lt_of_le (mantOf_lt f c) (Nat.pow_le_pow_right (by norm_num) (Nat.succ_le_succ hf.mbits_le))
  have hrat : rat ((tyFmt ty).val x) = sgn ((tyFmt ty).val x).neg? * magOf (tyFmt ty) b := by
    conv_lhs => rw [hval]
    exact rat_fin _ _ _
  rcases elem_cases hty .rcp 0 x with ⟨-, hv, -⟩ | ⟨hn, -, hv, -⟩
  · exact ⟨mantOf (tyFmt ty) b, expOf (tyFmt ty) b, hv.trans hval, hsmall (ieee_tyFmt ty) b, hrat, b, hb, rfl⟩
  · obtain ⟨c, hc, hmag⟩ := hn.holds ⟨b, hb, rfl⟩
    refine ⟨mantOf ffF32 c, expOf ffF32 c, ?_, hsmall ieee_f32 c, ?_, b, hb, hmag.symm⟩
    · rw [hv]
      conv_lhs => rw [hval]
      rw [round_of_magOf hc hmag.symm, val_signed ieee_f32.shape hc]
    · rw [hrat, ← hmag]; rfl

/-! ### Results of exact values -/

theorem flags_or_zero (fl : Flags) : fl ||| 0 = fl := BitVec.or_zero

/-- Flags without UF and NX are kept where these two are taken out. -/
theorem flags_without_inexact : ∀ fl : Flags, fl &&& (fUF ||| fNX) = 0 → fl &&& ~~~(fUF ||| fNX) = fl ∧ fl &&& fNX = 0 := by
  decide

theorem round_nan (f : FFmt) : f.round .rn false (.nan false) = (f.nanBits, 0) := rfl

theorem round_inf {f : FFmt} (hf : Ieee f) (s : Bool) : f.round .rn false (.inf s) = (f.signBits s + f.infBits, 0) := by
  simp [FFmt.round, hf.notE4m3]

/-- An exact value that both formats have, or ∞ or NaN, is the result, with the flags that the function gives it. -/
theorem elem_of_exact (hty : ty ∈ Ty.floats) {y : FVal} {fl : Flags} {c d : Nat} (hnan : ((tyFmt ty).val x).isSig = false)
    (hval : fn.val (workFmt ty) (workVal ty x) = .exact y fl) (hfl : fl &&& (fUF ||| fNX) = 0)
    (hwork : (workFmt ty).round .rn false y = (d, 0)) (hown : (tyFmt ty).round .rn false y = (c, 0))
    (hback : (tyFmt ty).round .rn false ((workFmt ty).val d) = (c, 0)) : fn.elem op ty x = (c, fl) := by
  rcases elem_cases hty fn op x with ⟨hf, hv, he⟩ | ⟨-, hf, hv, he⟩
  · rw [hf, hv] at hval
    rw [he, SFn.result, hval]
    simp only [hown, flags_or_zero]
  · rw [hf, hv] at hval
    rw [hf] at hwork hback
    have hres : fn.result op ffF32 (ffF32.round .rn false ((tyFmt ty).val x)).1 = (d, fl) := by
      rw [SFn.result, hval]
      simp only [hwork, flags_or_zero]
    obtain ⟨hkeep, hnx⟩ := flags_without_inexact fl hfl
    rw [he]
    simp only [narrowResult, hres, hback, hnan, hnx, hkeep, when_false, flags_or_zero, bne_self_eq_false, Bool.false_and]

theorem elem_nan (hty : ty ∈ Ty.floats) {sig : Bool} (ha : (tyFmt ty).val x = .nan sig) :
    fn.elem op ty x = ((tyFmt ty).nanBits, Flags.when sig fNV) := by
  have hval (f : FFmt) (sig : Bool) : fn.val f (.nan sig) = .exact (.nan false) (Flags.when sig fNV) := by cases fn <;> rfl
  rcases elem_cases hty fn op x with ⟨hf, hv, he⟩ | ⟨-, hf, hv, he⟩
  · rw [he, SFn.result, ha, hval]
    simp only [round_nan, flags_or_zero]
  · have hres : fn.result op ffF32 (ffF32.round .rn false (.nan sig)).1 = (ffF32.nanBits, 0) := by
      rw [SFn.result, show (ffF32.round .rn false (.nan sig)).1 = ffF32.nanBits from rfl, ieee_f32.val_nan, hval]
      rfl
    obtain ⟨hkeep, hnx⟩ := flags_without_inexact 0 (by decide)
    rw [he]
    simp only [narrowResult, ha, hres, ieee_f32.val_nan, round_nan, flags_or_zero, hnx, bne_self_eq_false, Bool.false_and, when_false, hkeep]
    cases sig <;> rfl

theorem elem_invalid (hty : ty ∈ Ty.floats) (hnan : ((tyFmt ty).val x).isSig = false)
    (hval : fn.val (workFmt ty) (workVal ty x) = .exact (.nan false) fNV) : fn.elem op ty x = ((tyFmt ty).nanBits, fNV) :=
  elem_of_exact hty hnan hval rfl (round_nan _) (round_nan _) (by rw [(ieee_workFmt ty).val_nan, round_nan])

theorem elem_infinite (hty : ty ∈ Ty.floats) (hnan : ((tyFmt ty).val x).isSig = false) {s : Bool} {fl : Flags}
    (hval : fn.val (workFmt ty) (workVal ty x) = .exact (.inf s) fl) (hfl : fl &&& (fUF ||| fNX) = 0) :
    (tyFmt ty).val (fn.elem op ty x).1 = .inf s ∧ (fn.elem op ty x).2 = fl := by
  have key : fn.elem op ty x = ((tyFmt ty).signBits s + (tyFmt ty).infBits, fl) :=
    elem_of_exact hty hnan hval hfl (round_inf (ieee_workFmt ty) s) (round_inf (ieee_tyFmt ty) s)
      (by rw [(ieee_workFmt ty).val_inf, round_inf (ieee_tyFmt ty)])
  rw [key]
  exact ⟨(ieee_tyFmt ty).val_inf s, rfl⟩

theorem elem_fin (hty : ty ∈ Ty.floats) (hnan : ((tyFmt ty).val x).isSig = false) {s : Bool} {m b : Nat} {e : ℤ}
    (hval : fn.val (workFmt ty) (workVal ty x) = .exact (.fin s m e) 0) (hb : b ≤ (tyFmt ty).maxBits)
    (hmag : (m : ℚ) * 2 ^ e = magOf (tyFmt ty) b) : fn.elem op ty x = ((tyFmt ty).signBits s + b, 0) := by
  obtain ⟨c, hc, hcm⟩ := holds_workFmt hty ⟨b, hb, hmag.symm⟩
  refine elem_of_exact hty hnan hval rfl (round_of_magOf hc hcm.symm .rn false s) (round_of_magOf hb hmag .rn false s) ?_
  rw [val_signed (ieee_workFmt ty).shape hc]
  exact round_of_magOf hb (hcm.trans hmag) .rn false s

/-- An exact number of the format is the result, without a flag. -/
theorem elem_is (hty : ty ∈ Ty.floats) (hnan : ((tyFmt ty).val x).isSig = false) {s : Bool} {m : Nat} {e : ℤ}
    (hval : fn.val (workFmt ty) (workVal ty x) = .exact (.fin s m e) 0) (hh : Holds (tyFmt ty) (m * 2 ^ e)) :
    (finite ((tyFmt ty).val (fn.elem op ty x).1) = true ∧ rat ((tyFmt ty).val (fn.elem op ty x).1) = sgn s * (m * 2 ^ e)
      ∧ (fn.elem op ty x).2 = 0) ∧ ((tyFmt ty).val (fn.elem op ty x).1).neg? = s := by
  obtain ⟨b, hb, hmag⟩ := hh
  rw [elem_fin hty hnan hval hb hmag.symm, val_signed (ieee_tyFmt ty).shape hb, rat_fin, ← hmag]
  exact ⟨⟨rfl, rfl, rfl⟩, rfl⟩

/-- The two zeros of a format. -/
theorem bits_of_zero {f : FFmt} (hf : Ieee f) (hx : x < 2 ^ f.width) (hfin : finite (f.val x) = true) (h0 : rat (f.val x) = 0) :
    x = f.signBits (f.val x).neg? := by
  obtain ⟨b, -, hb, hval, hneg⟩ := exists_of_finite hf.shape hfin
  have hb0 : b = 0 := by
    rw [hval, rat_fin_eq_zero] at h0
    exact eq_zero_of_magOf (by rw [magOf, h0, Nat.cast_zero, zero_mul])
  have hsplit := Nat.div_add_mod x (2 ^ (f.ebits + f.mbits))
  have hdiv : x / 2 ^ (f.ebits + f.mbits) < 2 := by
    rw [Nat.div_lt_iff_lt_mul (Nat.two_pow_pos _), ← pow_succ']
    rwa [show f.width = f.ebits + f.mbits + 1 by rw [FFmt.width]; omega] at hx
  rw [Nat.mod_eq_of_lt hdiv] at hneg
  rw [← hb, hb0] at hsplit
  rw [FFmt.signBits]
  split
  · next h => rw [hneg.1 h] at hsplit; omega
  · next h =>
    have : x / 2 ^ (f.ebits + f.mbits) = 0 :=
      Nat.lt_one_iff.1 (lt_of_le_of_ne (Nat.lt_succ_iff.1 hdiv) (mt hneg.2 h))
    rw [this] at hsplit; omega

/-- Where the function of a zero is that zero, the bits stay. -/
theorem elem_zero (hty : ty ∈ Ty.floats) (hx : x < 2 ^ (tyFmt ty).width) (hfin : finite ((tyFmt ty).val x) = true)
    (h0 : rat ((tyFmt ty).val x) = 0)
    (hval : fn.val (workFmt ty) (workVal ty x) = .exact (.fin ((tyFmt ty).val x).neg? 0 0) 0) : fn.elem op ty x = (x, 0) := by
  have hnan : ((tyFmt ty).val x).isSig = false := by obtain ⟨s, m, e, h⟩ := eq_fin_of_finite hfin; rw [h]; rfl
  have key := elem_fin (op := op) hty hnan hval (Nat.zero_le _) (by simp [magOf, mantOf])
  rwa [Nat.add_zero, ← bits_of_zero (ieee_tyFmt ty) hx hfin h0] at key

end

end Sys2Proof.Claims
end

section
/-! PROOF. Where a reciprocal is inexact (O9; R88, R78): the value that the model rounds is the reciprocal or is no number
of any format, and neither is the reciprocal then. -/

namespace Sys2Proof.Claims
open Sys2Proof.Machine

/-! ### Odd numbers that are too long for a format -/

/-- Of the divisors of a power of two only 1 is odd. -/
theorem one_of_mul_eq_one {o n : Nat} {x g : ℤ} (ho : o % 2 = 1) (h : (n : ℚ) * 2 ^ g * (o * 2 ^ x) = 1) : o = 1 := by
  have h1 : ((1 : ℕ) : ℚ) * 2 ^ (0 : ℤ) = (n * o : ℕ) * 2 ^ (g + x) := by
    rw [zpow_add₀ (by norm_num), zpow_zero, mul_one, Nat.cast_one, ← h]
    push_cast
    ring
  obtain ⟨-, h2⟩ := exp_le_of_odd rfl h1
  rw [one_mul] at h2
  obtain ⟨i, -, hi⟩ := (Nat.dvd_prime_pow Nat.prime_two).1 (Dvd.intro_left n h2)
  cases i with
  | zero => exact hi
  | succ i => rw [pow_succ] at hi; omega

/-! ### The value of a reciprocal -/

/-- `X` stands for the reciprocal of `q`: to be equal to it is, for a number of a format, to be the reciprocal. -/
def Reciprocal (X : FVal) (q : ℚ) : Prop :=
  ∀ t n g, n < 2 ^ 60 → (FVal.eqv (.fin t n g) X = true ↔ rat (.fin t n g) * q = 1)

theorem eqv_fin_iff {x y : FVal} (hx : finite x = true) (hy : finite y = true) : FVal.eqv x y = true ↔ rat x = rat y := by
  rw [eqv_finite hx hy, decide_eq_true_eq]

theorem reciprocal_of_exact {s : Bool} {m : Nat} {e k : ℤ} (h : (m : ℚ) * 2 ^ e = 2 ^ k) :
    Reciprocal (.fin s 1 (-k)) (rat (.fin s m e)) := by
  intro t n g _
  have hinv : rat (.fin s 1 (-k)) * rat (.fin s m e) = 1 := by
    rw [rat_fin, rat_fin, h, Nat.cast_one, one_mul, zpow_neg, mul_mul_mul_comm, sgn_mul_self,
      inv_mul_cancel₀ (two_zpow_pos k).ne', one_mul]
  rw [eqv_fin_iff rfl rfl, ← hinv]
  exact (mul_left_inj' (right_ne_zero_of_mul_eq_one hinv)).symm

/-- The quotient that the model cuts has a last bit that no format's number has. -/
theorem reciprocal_of_quot {s : Bool} {m : Nat} {e : ℤ} (hm : m ≠ 0) (hlt : m < 2 ^ 64) (ho : (oddPart m e 64).1 ≠ 1) :
    ∃ n g, quotVal s 1 0 m e 64 = .fin s n g ∧ n ≠ 0 ∧ Reciprocal (.fin s n g) (rat (.fin s m e)) := by
  obtain ⟨k, y, hquot, hs⟩ := quotVal_sticky s one_ne_zero hm 0 e 64
  obtain ⟨hodd, hpart⟩ := oddPart_spec hm hlt e
  have hk0 : k ≠ 0 := by have := hs.long; omega
  have hnot {n : Nat} {g : ℤ} : (n : ℚ) * 2 ^ g * (m * 2 ^ e) ≠ 1 := fun h => ho (one_of_mul_eq_one hodd (hpart.symm ▸ h))
  have hkodd : k % 2 = 1 := by
    rcases hs.near with h | ⟨h, -⟩
    · refine absurd ?_ (hnot (n := k) (g := y))
      rw [← h, Nat.cast_one, zpow_zero, one_mul, one_div, inv_mul_cancel₀ (mag_pos hm e).ne']
    · exact h
  refine ⟨k, y, hquot, hk0, fun t n g hn => ?_⟩
  rw [eqv_fin_iff rfl rfl]
  constructor
  · intro h
    have habs := congrArg abs h
    rw [abs_rat_fin, abs_rat_fin] at habs
    obtain ⟨-, hnk⟩ := exp_le_of_odd hkodd habs.symm
    have hpos := Nat.two_pow_pos (y - g).toNat
    have hge : k ≤ n := hnk ▸ Nat.le_mul_of_pos_right k hpos
    have := hs.long
    omega
  · intro h
    have habs := congrArg abs h
    rw [abs_mul, abs_rat_fin, abs_rat_fin, abs_one] at habs
    exact absurd habs hnot

/-- What the model takes the reciprocal of a number for. -/
theorem rcp_cases (f : FFmt) (s : Bool) {m : Nat} (e : ℤ) (hm : m ≠ 0) (hlt : m < 2 ^ 64) : ∃ n g, n ≠ 0
    ∧ (SFn.val .rcp f (.fin s m e) = .exact (.fin s n g) 0 ∨ SFn.val .rcp f (.fin s m e) = .near (.fin s n g))
    ∧ Reciprocal (.fin s n g) (rat (.fin s m e)) := by
  by_cases ho : (oddPart m e 64).1 = 1
  · refine ⟨1, -(oddPart m e 64).2, one_ne_zero, ?_, reciprocal_of_exact (eq_two_zpow_of_oddPart hm hlt ho)⟩
    simp only [SFn.val, hm, ho, if_false, if_true, rcpPow2]
    split
    · exact .inr rfl
    · exact .inl rfl
  · obtain ⟨n, g, hquot, hn, hr⟩ := reciprocal_of_quot (s := s) hm hlt ho
    refine ⟨n, g, hn, .inr ?_, hr⟩
    simp only [SFn.val, hm, ho, if_false, hquot]

/-! ### NX -/

section
variable {f : FFmt}

theorem inexact_flags : ∀ nx tiny : Bool, (Flags.when nx fNX ||| Flags.when (nx && tiny) fUF) &&& fOF = 0
    ∧ ((Flags.when nx fNX ||| Flags.when (nx && tiny) fUF) &&& fNX = 0 ↔ nx = false) := by
  decide

/-- A number that is brought to a format and is finite there is inexact where it changed. -/
theorem round_exact_iff (h : Ieee f) {v : FVal} (hv : finite v = true) (hfin : finite (f.val (f.round .rn false v).1) = true) :
    (f.round .rn false v).2 &&& fNX = 0 ↔ rat (f.val (f.round .rn false v).1) = rat v := by
  obtain ⟨s, m, e, rfl⟩ := eq_fin_of_finite hv
  rcases Nat.eq_zero_or_pos m with rfl | hm
  · have h0 := round_of_magOf (f := f) (m := 0) (e := e) (Nat.zero_le f.maxBits) (by simp [magOf, mantOf]) .rn false s
    have hz : rat (.fin s 0 e) = 0 := rat_fin_eq_zero.2 rfl
    rw [h0, val_signed h.shape (Nat.zero_le _), hz, rat_fin_eq_zero]
    exact iff_of_true (show (0 : Flags) &&& fNX = 0 by decide) (by simp [mantOf])
  · have hr := round_roundedTo h.shape .rn false s hm.ne' e
    by_cases hof : (f.round .rn false (.fin s m e)).2 &&& fOF = 0
    · exact (hr.near hof).2.2.1
    · have hinf : (f.round .rn false (.fin s m e)).1 = f.signBits s + f.infBits := by
        rw [round_fin f .rn false s hm.ne', roundFin_eq] at hof ⊢
        split
        · simp [FFmt.overflow, h.notE4m3]
        · next hle =>
          rw [if_neg hle] at hof
          exact absurd (inexact_flags _ _).1 hof
      rw [hinf, h.val_inf] at hfin
      exact absurd hfin Bool.false_ne_true

theorem small_of_val (h : Ieee f) {b : Nat} (hfin : finite (f.val b) = true) : ∃ t n g, f.val b = .fin t n g ∧ n < 2 ^ 60 := by
  obtain ⟨c, -, -, hval, -⟩ := exists_of_finite h.shape hfin
  refine ⟨_, _, _, hval, lt_of_lt_of_le (mantOf_lt f c) (Nat.pow_le_pow_right (by norm_num) ?_)⟩
  have := h.mbits_le
  omega

theorem Reciprocal.of_val {X : FVal} {q : ℚ} (hX : Reciprocal X q) (h : Ieee f) {b : Nat} (hfin : finite (f.val b) = true) :
    FVal.eqv (f.val b) X = true ↔ rat (f.val b) * q = 1 := by
  obtain ⟨t, n, g, hval, hn⟩ := small_of_val h hfin
  rw [hval]
  exact hX t n g hn

theorem pick_exact_iff (fn : SFn) (op : Nat) (f : FFmt) (a x : FVal) (bits lo : Nat) :
    (fn.pick op f a x bits lo).2 &&& fNX = 0 ↔ FVal.eqv (f.val (fn.pick op f a x bits lo).1) x = true := by
  simp only [SFn.pick]
  rw [(inexact_flags _ _).2, Bool.not_eq_false']

/-- In the format that it is computed in, a reciprocal is inexact where it is not the reciprocal. -/
theorem rcp_result_exact_iff (h : Ieee f) {op x : Nat} {s : Bool} {m : Nat} {e : ℤ} (hval : f.val x = .fin s m e) (hm : m ≠ 0)
    (hlt : m < 2 ^ 64) (hfin : finite (f.val (SFn.result .rcp op f x).1) = true) :
    (SFn.result .rcp op f x).2 &&& fNX = 0 ↔ rat (f.val (SFn.result .rcp op f x).1) * rat (.fin s m e) = 1 := by
  obtain ⟨n, g, hn, hX, hr⟩ := rcp_cases f s e hm hlt
  rcases hX with hX | hX
  · have hres : SFn.result .rcp op f x = f.round .rn false (.fin s n g) := by
      simp only [SFn.result, hval, hX]
      exact Prod.ext rfl (BitVec.zero_or)
    rw [hres] at hfin ⊢
    rw [round_exact_iff h rfl hfin, ← hr.of_val h hfin, eqv_fin_iff hfin rfl]
  · by_cases hof : (f.round .rn false (.fin s n g)).2 &&& fOF = 0
    · have hres : SFn.result .rcp op f x = SFn.pick .rcp op f (.fin s m e) (.fin s n g) x (f.round .rz false (.fin s n g)).1 := by
        simp only [SFn.result, hval, hX, hof, bne_self_eq_false, Bool.false_eq_true, if_false]
      rw [hres] at hfin ⊢
      rw [pick_exact_iff, hr.of_val h hfin]
    · have hres : SFn.result .rcp op f x = f.round .rn false (.fin s n g) := by
        simp only [SFn.result, hval, hX, bne_iff_ne, ne_eq, hof, not_false_iff, if_true]
      rw [hres] at hfin ⊢
      rw [round_exact_iff h rfl hfin, ← hr.of_val h hfin, eqv_fin_iff hfin rfl]

/-- A finite element was finite before it was brought to its format. -/
theorem finite_of_round (h : Ieee f) {v : FVal} (hfin : finite (f.val (f.round .rn false v).1) = true) : finite v = true := by
  cases v with
  | fin s m e => rfl
  | nan s => rw [show (f.round .rn false (.nan s)).1 = f.nanBits from rfl, h.val_nan] at hfin; exact hfin
  | inf s => rw [round_inf h, h.val_inf] at hfin; exact hfin

end

theorem or_exact_iff (fl gl : Flags) : (fl ||| gl) &&& fNX = 0 ↔ fl &&& fNX = 0 ∧ gl &&& fNX = 0 := by
  rw [BitVec.and_or_distrib_right]
  exact BitVec.or_eq_zero_iff

theorem without_inexact_and_fNX : ∀ all : Flags, (all &&& ~~~(fUF ||| fNX)) &&& fNX = 0 := by decide

theorem narrow_flags_exact_iff (all : Flags) (hit tiny sig : Bool) :
    ((all &&& ~~~(fUF ||| fNX)) ||| Flags.when (all &&& fNX != 0 && !hit) fNX ||| Flags.when (all &&& fNX != 0 && !hit && tiny) fUF
      ||| Flags.when sig fNV) &&& fNX = 0 ↔ (all &&& fNX = 0 ∨ hit = true) := by
  have hwhen : ∀ c, (Flags.when c fNX &&& fNX = 0 ↔ c = false) ∧ Flags.when c fUF &&& fNX = 0 ∧ Flags.when c fNV &&& fNX = 0 := by
    decide
  simp only [or_exact_iff, without_inexact_and_fNX, (hwhen _).1, (hwhen _).2.1, (hwhen _).2.2, true_and, and_true]
  simp only [Bool.and_eq_false_iff, bne_eq_false_iff_eq, Bool.not_eq_false']

/-- A reciprocal is inexact where it is not the reciprocal. -/
theorem rcp_exact_iff {ty : Ty} (hty : ty ∈ Ty.floats) {op x : Nat} (ha : finite ((tyFmt ty).val x) = true)
    (h0 : rat ((tyFmt ty).val x) ≠ 0) (hfin : finite ((tyFmt ty).val (SFn.elem .rcp op ty x).1) = true) :
    (SFn.elem .rcp op ty x).2 &&& fNX = 0 ↔ rat ((tyFmt ty).val (SFn.elem .rcp op ty x).1) * rat ((tyFmt ty).val x) = 1 := by
  obtain ⟨m, e, hwork, hm53, hrat, -⟩ := workVal_fin hty ha
  have hm : m ≠ 0 := by rintro rfl; apply h0; rw [hrat]; simp
  rw [← rat_fin] at hrat
  have hm64 : m < 2 ^ 64 := lt_trans hm53 (by norm_num)
  rcases elem_cases hty .rcp op x with ⟨-, hv, he⟩ | ⟨hn, -, hv, he⟩
  · rw [he] at hfin ⊢
    rw [hrat]
    exact rcp_result_exact_iff (ieee_tyFmt ty) (hv.symm.trans hwork) hm hm64 hfin
  · rw [he] at hfin ⊢
    have hx : ffF32.val (ffF32.round .rn false ((tyFmt ty).val x)).1 = .fin ((tyFmt ty).val x).neg? m e := hv.symm.trans hwork
    obtain ⟨t, m', e', hraw, hm60⟩ := small_of_val (ieee_tyFmt ty) ha
    have hm' : m' ≠ 0 := by rintro rfl; apply h0; rw [hraw]; exact rat_fin_eq_zero.2 rfl
    obtain ⟨n, g, -, hX, hr⟩ := rcp_cases ffF32 t e' hm' (lt_trans hm60 (by norm_num))
    rw [← hraw] at hX hr
    simp only [narrowResult] at hfin ⊢
    have hmid := finite_of_round (ieee_tyFmt ty) hfin
    have h32 := rcp_result_exact_iff (op := op) ieee_f32 hx hm hm64 hmid
    have hround := round_exact_iff (ieee_tyFmt ty) hmid hfin
    have hhits : SFn.hits .rcp (tyFmt ty) ((tyFmt ty).val x) ((tyFmt ty).round .rn false
        (ffF32.val (SFn.result .rcp op ffF32 (ffF32.round .rn false ((tyFmt ty).val x)).1).1)).1 = true
        ↔ rat ((tyFmt ty).val ((tyFmt ty).round .rn false
          (ffF32.val (SFn.result .rcp op ffF32 (ffF32.round .rn false ((tyFmt ty).val x)).1).1)).1) * rat ((tyFmt ty).val x) = 1 := by
      rw [← hr.of_val (ieee_tyFmt ty) hfin]
      rcases hX with hX | hX <;> simp only [SFn.hits, hX]
    rw [narrow_flags_exact_iff, or_exact_iff, h32, hround, hhits, ← hrat]
    constructor
    · rintro (⟨h1, h2⟩ | h)
      · rw [h2]; exact h1
      · exact h
    · exact .inr

end Sys2Proof.Claims
end

section
/-! PROOF. Overflow of 2^x (O9; R81, R88): the value that the model rounds is at least the power of two of the integer part,
and so is what it takes for it in f32, up to two units in the last place. -/

namespace Sys2Proof.Claims
open Sys2Proof.Machine

/-! ### The value of 2^x -/

theorem natCast_fxOne : (fxOne : ℚ) = 2 ^ (fx : ℤ) := by rw [zpow_natCast, fxOne, Nat.cast_pow, Nat.cast_ofNat]

/-- The integer part in fixed point. -/
theorem le_toFx {m n : Nat} {e : ℤ} (h : (n : ℚ) ≤ m * 2 ^ e) : n * fxOne ≤ toFx m e := by
  unfold toFx fxOne
  have hfx := two_zpow_pos (fx : ℤ)
  have h2 : (n : ℚ) * 2 ^ fx ≤ m * 2 ^ (e + fx) := by
    rw [zpow_add₀ (by norm_num), ← mul_assoc, ← zpow_natCast]
    exact mul_le_mul_of_nonneg_right h hfx.le
  split
  · next he =>
    obtain ⟨j, hj⟩ := Int.eq_ofNat_of_zero_le he
    rw [hj, zpow_natCast] at h2
    rw [hj, Int.toNat_natCast]
    exact_mod_cast h2
  · next he =>
    obtain ⟨j, hj⟩ := Int.eq_ofNat_of_zero_le (a := -(e + fx)) (by omega)
    rw [hj, Int.toNat_natCast, Nat.le_div_iff_mul_le (Nat.two_pow_pos j)]
    rw [show e + fx = -(j : ℤ) by omega, zpow_neg, zpow_natCast, ← div_eq_mul_inv, le_div_iff₀ (by positivity)] at h2
    exact_mod_cast h2

/-- A number with a sticky last bit is not below the cut one. -/
theorem two_mul_le_sticky {a b : Nat} (h : a ≤ b) : (2 : ℚ) * a ≤ (2 * b + 1 : ℕ) := by
  have : (a : ℚ) ≤ b := by exact_mod_cast h
  push_cast
  linarith

/-- 2^x is at least 2^n where x is at least n. -/
theorem exp2Val_ge {m n : Nat} {e : ℤ} (hn : n ≤ 5000) (h : (n : ℚ) ≤ m * 2 ^ e) :
    ∃ k g, exp2Val false m e = .fin false k g ∧ (2 : ℚ) ^ n ≤ k * 2 ^ g := by
  unfold exp2Val
  split
  · refine ⟨1, 5000, rfl, ?_⟩
    rw [Nat.cast_one, one_mul, ← zpow_natCast]
    exact zpow_le_zpow_right₀ (by norm_num) (by omega)
  · refine ⟨_, _, rfl, ?_⟩
    simp only [Bool.false_eq_true, if_false]
    have hpos : 0 < fxOne := Nat.two_pow_pos fx
    have hint : n ≤ toFx m e / fxOne := (Nat.le_div_iff_mul_le hpos).2 (le_toFx h)
    generalize toFx m e / fxOne = i at hint
    generalize toFx m e % fxOne * fxLn2 / fxOne = t
    have hexp : fxOne ≤ fxExp t := Nat.le_add_right _ _
    have hk : (2 : ℚ) ^ ((fx : ℤ) + 1) ≤ (2 * fxExp t + 1 : ℕ) := by
      have h2 := two_mul_le_sticky hexp
      rw [natCast_fxOne] at h2
      rwa [zpow_add_one₀ (by norm_num), mul_comm]
    have hsum (a b : ℤ) : a + 1 + (b - a - 1) = b := by ring
    calc (2 : ℚ) ^ n ≤ 2 ^ (i : ℤ) := by rw [← zpow_natCast]; exact zpow_le_zpow_right₀ (by norm_num) (by omega)
      _ = 2 ^ ((fx : ℤ) + 1) * 2 ^ ((i : ℤ) - fx - 1) := by
        rw [← zpow_add₀ (by norm_num), hsum]
      _ ≤ _ := mul_le_mul_of_nonneg_right hk (two_zpow_pos _).le

/-- What the model takes 2^x for where x is at least n. -/
theorem exp2_cases (f : FFmt) {m n : Nat} {e : ℤ} (hm : m ≠ 0) (hn : n ≤ 5000) (h : (n : ℚ) ≤ m * 2 ^ e) :
    ∃ k g, (SFn.val .exp2 f (.fin false m e) = .exact (.fin false k g) 0 ∨ SFn.val .exp2 f (.fin false m e) = .near (.fin false k g))
      ∧ (2 : ℚ) ^ n ≤ k * 2 ^ g := by
  simp only [SFn.val, hm, if_false, Bool.false_eq_true]
  split
  · next hex =>
    refine ⟨1, (roundAt .rz false m e 0).1, .inl rfl, ?_⟩
    have hle : n ≤ (roundAt .rz false m e 0).1 := by
      rw [roundAt_eq_roundQ, sub_zero]
      exact le_roundQ h
    rw [Nat.cast_one, one_mul, ← zpow_natCast]
    exact zpow_le_zpow_right₀ (by norm_num) (by exact_mod_cast hle)
  · obtain ⟨k, g, hval, hle⟩ := exp2Val_ge hn h
    exact ⟨k, g, .inr (by rw [hval]), hle⟩

/-! ### Large values in f32 -/

/-- A value that is normal is not tiny. -/
theorem tiny_of_normal {f : FFmt} {r : Rnd} {neg : Bool} {m : Nat} {e : ℤ} (hm : m ≠ 0) (h : 2 ^ f.emin ≤ (m : ℚ) * 2 ^ e) :
    f.tiny r neg m e = false := by
  have htop : f.emin ≤ topExp m e := by
    by_contra hlt
    exact absurd ((topExp_lt_iff hm e _).1 (not_le.1 hlt)) (not_lt.2 h)
  have hk : 2 ^ f.mbits ≤ (roundAt r neg m e (topExp m e - f.mbits)).1 := by
    rw [roundAt_eq_roundQ]
    refine le_roundQ ?_
    rw [show e - (topExp m e - f.mbits) = (e - topExp m e) + f.mbits by ring, zpow_add₀ (by norm_num), ← mul_assoc, zpow_natCast]
    push_cast
    refine le_mul_of_one_le_left (by positivity) ?_
    rw [zpow_sub₀ (by norm_num), ← mul_div_assoc, one_le_div (two_zpow_pos _)]
    exact two_zpow_topExp_le hm e
  have hk0 : (roundAt r neg m e (topExp m e - f.mbits)).1 ≠ 0 := by have := Nat.two_pow_pos f.mbits; omega
  have hlog := (Nat.le_log2 hk0).2 hk
  simp only [FFmt.tiny, Bool.or_eq_false_iff, beq_eq_false_iff_ne, decide_eq_false_iff_not]
  refine ⟨hk0, ?_⟩
  rw [topExp]
  omega

/-- f16 rounds from half a unit below 2^16 up to ∞. -/
theorem f16_overflow {m : Nat} {e : ℤ} (h : (65520 : ℚ) ≤ m * 2 ^ e) :
    ffF16.round .rn false (.fin false m e) = (ffF16.infBits, fOF ||| fNX) := by
  have hieee : Ieee ffF16 := .inr (.inr (.inl rfl))
  rcases le_or_gt ((2 : ℚ) ^ ((ffF16.bias : ℤ) + 1)) (m * 2 ^ e) with hge | hlt
  · rw [round_overflow hieee hge]
    rfl
  · have hm : m ≠ 0 := by rintro rfl; norm_num at h
    have hbias : ((ffF16.bias : ℤ) + 1) = 16 := rfl
    have hplace : IsPlace ffF16 (m * 2 ^ e) 5 := by
      refine ⟨by decide, ?_, .inr (le_trans ?_ h)⟩
      · rw [show (5 : ℤ) + ffF16.mbits + 1 = 16 from rfl, ← hbias]; exact hlt
      · rw [show (5 : ℤ) + ffF16.mbits = 15 from rfl]; norm_num
    have hq := (isPlace_topExp ffF16 hm e).unique hplace
    have hk : 2048 ≤ (roundQ .rn false ((m : ℚ) * 2 ^ e / 2 ^ (5 : ℤ))).1 := by
      have hz : (2047.5 : ℚ) ≤ m * 2 ^ e / 2 ^ (5 : ℤ) := by rw [le_div_iff₀ (by positivity)]; norm_num; linarith
      have hz2 : (m : ℚ) * 2 ^ e / 2 ^ (5 : ℤ) < 2048 := by rw [div_lt_iff₀ (by positivity)]; rw [hbias] at hlt; norm_num at hlt ⊢; linarith
      generalize (m : ℚ) * 2 ^ e / 2 ^ (5 : ℤ) = z at hz hz2
      have hle : 2047 ≤ (roundQ .rn false z).1 := le_roundQ (by norm_num at hz ⊢; linarith)
      by_contra hlt
      obtain ⟨h1, h2⟩ := roundQ_nearest (neg := false) (by linarith : (0 : ℚ) ≤ z) 2048
      rw [show (roundQ .rn false z).1 = 2047 by omega] at h1 h2
      rw [abs_of_nonneg (by norm_num at hz ⊢; linarith), abs_of_nonpos (by push_cast; linarith)] at h1 h2
      push_cast at h1 h2
      have := h2 (by linarith) (by norm_num)
      omega
    rw [round_fin ffF16 .rn false false hm, roundFin_eq, hq, if_pos]
    · rfl
    · have hmax : ffF16.maxBits = 31743 := by decide
      have hsteps : ((5 : ℤ) - ffF16.qmin).toNat * 2 ^ ffF16.mbits = 29696 := by decide
      rw [patternOf, hmax, hsteps]
      omega

/-- A candidate for a large value is at most two units of the last place below it. -/
theorem within_ge {m bits : Nat} {e : ℤ} (h : (2 : ℚ) ^ 16 ≤ m * 2 ^ e) (hw : ffF32.within 2 (.fin false m e) bits = true) :
    finite (ffF32.val bits) = true ∧ (65520 : ℚ) ≤ rat (ffF32.val bits) := by
  have hm : m ≠ 0 := by rintro rfl; norm_num at h
  simp only [FFmt.within, Bool.and_eq_true, decide_eq_true_eq] at hw
  obtain ⟨hmax, hdist⟩ := hw
  have hval := val_eq ieee_f32.shape (bits := bits) rfl rfl
  rw [if_pos hmax] at hval
  have hfin : finite (ffF32.val bits) = true := by rw [hval]; rfl
  refine ⟨hfin, ?_⟩
  have hexp : ffF32.qmin ≤ (ffF32.val bits).exp := by rw [hval]; exact qmin_le_expOf _ _
  have htop : (16 : ℤ) ≤ topExp m e := by
    by_contra hlt
    exact absurd ((topExp_lt_iff hm e 16).1 (not_le.1 hlt)) (not_lt.2 h)
  have hlo := two_zpow_topExp_le hm e
  have hplace : max (topExp m e - ffF32.mbits) ffF32.qmin = topExp m e - 23 := by
    rw [show ffF32.qmin = -149 by decide, show ffF32.mbits = 23 from rfl]; omega
  rw [hplace] at hdist
  have hgx : min e ffF32.qmin ≤ (FVal.fin false m e).exp := min_le_left _ _
  have hgb : min e ffF32.qmin ≤ (ffF32.val bits).exp := le_trans (min_le_right _ _) hexp
  have hgu : min e ffF32.qmin ≤ topExp m e - 23 := by
    rw [show ffF32.qmin = -149 by decide]; omega
  have hx := rat_fin_false m e
  rw [← hx] at h hlo
  rw [rat_eq_numAt rfl hgx] at h hlo
  rw [rat_eq_numAt hfin hgb]
  generalize (FVal.fin false m e).numAt (min e ffF32.qmin) = X at *
  generalize (ffF32.val bits).numAt (min e ffF32.qmin) = B at *
  have hunit : (2 : ℚ) ^ (topExp m e - 23) = 2 ^ (topExp m e - 23 - min e ffF32.qmin).toNat * 2 ^ min e ffF32.qmin := by
    rw [← zpow_natCast, Int.toNat_of_nonneg (by omega), ← zpow_add₀ (by norm_num), sub_add_cancel]
  generalize min e ffF32.qmin = g at *
  have hg := two_zpow_pos g
  have hstep : (X : ℚ) - 2 * 2 ^ (topExp m e - 23 - g).toNat ≤ B := by
    have hd : X - 2 * 2 ^ (topExp m e - 23 - g).toNat ≤ B := by
      have h1 := Int.ofNat_le.2 hdist
      rw [Int.natCast_natAbs] at h1
      have h2 := neg_abs_le (B - X)
      push_cast at h1
      omega
    exact_mod_cast hd
  have hmul := mul_le_mul_of_nonneg_right hstep hg.le
  rw [sub_mul, mul_assoc, ← hunit, zpow_sub₀ (by norm_num)] at hmul
  norm_num at hmul h
  linarith

/-- A large value that is brought to f32 is large or ∞. -/
theorem round_f32_ge {r : Rnd} (hr : r = .rn ∨ r = .rz) {m : Nat} {e : ℤ} (h : (2 : ℚ) ^ 16 ≤ m * 2 ^ e) :
    let b := (ffF32.round r false (.fin false m e)).1
    (r = .rn ∧ ffF32.val b = .inf false) ∨ (finite (ffF32.val b) = true ∧ (65520 : ℚ) ≤ rat (ffF32.val b)) := by
  have hm : m ≠ 0 := by rintro rfl; norm_num at h
  have hx := rat_fin_false m e
  have hround := round_roundedTo ieee_f32.shape r false false hm e
  have hnonneg : ¬ rat (.fin false m e) < 0 := by rw [hx]; exact not_lt.2 (by positivity)
  generalize ffF32.round r false (.fin false m e) = o at *
  by_cases hof : o.2 &&& fOF = 0
  · obtain ⟨hfin, hsign, -, hbest⟩ := hround.near hof
    obtain ⟨c, hc, hmag⟩ := holds_two_zpow ieee_f32 (j := 16) (by decide) (by decide)
    have hval : ffF32.val c = .fin false (mantOf ffF32 c) (expOf ffF32 c) := by
      simpa [FFmt.signBits] using val_signed ieee_f32.shape hc false
    have hy : rat (ffF32.val c) = 2 ^ 16 := by rw [hval, rat_fin_false]; exact_mod_cast hmag
    have hb := hbest c (by rw [hval]; rfl)
    rw [hy] at hb
    refine .inr ⟨hfin, ?_⟩
    have hpos : 0 ≤ rat (ffF32.val o.1) := by
      obtain ⟨d, -, -, hd, hneg⟩ := exists_of_finite ieee_f32.shape hfin
      rw [if_neg hnonneg] at hsign
      have hs : (ffF32.val o.1).neg? = false := by
        rw [← Bool.not_eq_true, hneg]
        rw [show ffF32.ebits + ffF32.mbits = ffF32.width - 1 from rfl, hsign]
        decide
      rw [hd, hs, rat_fin_false]
      positivity
    rw [hx] at hb
    rcases hr with rfl | rfl
    · have h1 := hb.1
      rw [abs_of_nonneg (by linarith : (0 : ℚ) ≤ m * 2 ^ e - 2 ^ 16)] at h1
      have h2 := le_abs_self ((m : ℚ) * 2 ^ e - rat (ffF32.val o.1))
      norm_num at h1 h2 h ⊢
      linarith
    · have h1 := hb.2 (by rw [abs_of_nonneg (by positivity), abs_of_nonneg (by positivity)]; exact h)
      rw [abs_of_nonneg (by positivity), abs_of_nonneg hpos] at h1
      norm_num at h1 ⊢
      linarith
  · obtain ⟨-, -, hbits⟩ := hround.beyond hof
    have h4 : ffF32.e4m3 = false := rfl
    simp only [hnonneg, if_false, h4, Bool.false_eq_true, and_false, or_false, Nat.add_zero] at hbits
    rcases hr with rfl | rfl
    · left
      rw [hbits, if_pos (.inl rfl)]
      exact ⟨rfl, ieee_f32.val_inf false⟩
    · right
      have hr2 : ¬ (Rnd.rz = .rn ∨ Rnd.rz = .ru ∧ 0 < rat (.fin false m e)) := by simp
      rw [hbits, if_neg hr2]
      have hval : ffF32.val ffF32.maxBits = .fin false 16777215 104 := by decide
      rw [hval, rat_fin]
      refine ⟨rfl, ?_⟩
      norm_num [sgn]

end Sys2Proof.Claims
end

section
/-! PROOF. 2^x beyond the range of an element (O9; R81, R88). -/

namespace Sys2Proof.Claims
open Sys2Proof.Machine

section
variable {f : FFmt} {op x m : Nat} {e : ℤ}

/-- In a format whose range ends at 2^(bias + 1) the result is ∞. -/
theorem exp2_result_overflow (h : Ieee f) (hval : f.val x = .fin false m e) (hm : m ≠ 0) (hbias : f.bias + 1 ≤ 5000)
    (hge : ((f.bias + 1 : ℕ) : ℚ) ≤ m * 2 ^ e) : SFn.result .exp2 op f x = (f.infBits, fOF ||| fNX) := by
  obtain ⟨k, g, hX, hle⟩ := exp2_cases f hm hbias hge
  have hround : f.round .rn false (.fin false k g) = (f.infBits, fOF ||| fNX) := by
    rw [round_overflow h (by rw [← Nat.cast_succ, zpow_natCast]; exact hle)]
    simp [FFmt.signBits]
  rcases hX with hX | hX
  · simp only [SFn.result, hval, hX, hround]
    rfl
  · simp only [SFn.result, hval, hX, hround]
    rfl

/-- Only the flags of inexact results. -/
theorem inexact_flags_without : ∀ nx tiny : Bool,
    (Flags.when nx fNX ||| Flags.when (nx && tiny) fUF) &&& ~~~(fUF ||| fNX) = 0 := by
  decide

/-- A rounded number is ∞ with OF and NX, or finite with no flag but those of inexact results. -/
theorem round_rn_cases (h : Ieee f) (s : Bool) (hm : m ≠ 0) : f.round .rn false (.fin s m e) = (f.signBits s + f.infBits, fOF ||| fNX)
    ∨ (finite (f.val (f.round .rn false (.fin s m e)).1) = true ∧ (f.round .rn false (.fin s m e)).2 &&& ~~~(fUF ||| fNX) = 0) := by
  rw [round_fin f .rn false s hm, roundFin_eq]
  split
  · left
    simp [FFmt.overflow, h.notE4m3]
  · next hle =>
    refine .inr ⟨?_, inexact_flags_without _ _⟩
    rw [val_signed h.shape (not_lt.1 hle)]
    rfl

theorem getD_mem_or_eq (l : List Nat) (i d : Nat) : l.getD i d ∈ l ∨ l.getD i d = d := by
  rw [List.getD_eq_getElem?_getD]
  cases h : l[i]? with
  | none => exact .inr rfl
  | some b => exact .inl (List.mem_of_getElem? h)

/-- The result that is picked in f32 for a large value is large. -/
theorem pick_large {a : FVal} {k : Nat} {g : ℤ} (hle : (2 : ℚ) ^ 16 ≤ k * 2 ^ g) :
    let r := SFn.pick .exp2 op ffF32 a (.fin false k g) x (ffF32.round .rz false (.fin false k g)).1
    (finite (ffF32.val r.1) = true ∧ (65520 : ℚ) ≤ rat (ffF32.val r.1)) ∧ r.2 &&& ~~~(fUF ||| fNX) = 0 := by
  refine ⟨?_, inexact_flags_without _ _⟩
  simp only [SFn.pick]
  rcases getD_mem_or_eq (ffF32.near (SFn.ulps .exp2 a) (.fin false k g) _) _ _ with hmem | heq
  · exact within_ge hle (List.mem_filter.1 hmem).2
  · rw [heq]
    exact (round_f32_ge (.inr rfl) hle).resolve_left (by simp)

/-- Beyond the range of f16 the result in f32 is ∞ with OF and NX, or large with no flag but those of inexact results. -/
theorem exp2_result_large (hval : ffF32.val x = .fin false m e) (hm : m ≠ 0) (hge : ((16 : ℕ) : ℚ) ≤ m * 2 ^ e) :
    let r := SFn.result .exp2 op ffF32 x
    r = (ffF32.infBits, fOF ||| fNX)
      ∨ ((finite (ffF32.val r.1) = true ∧ (65520 : ℚ) ≤ rat (ffF32.val r.1)) ∧ r.2 &&& ~~~(fUF ||| fNX) = 0) := by
  obtain ⟨k, g, hX, hle⟩ := exp2_cases ffF32 hm (by norm_num) hge
  have hk : k ≠ 0 := by rintro rfl; norm_num at hle
  have hround := round_rn_cases (e := g) ieee_f32 false hk
  have hlarge := round_f32_ge (.inl rfl) hle
  have hzero : ffF32.signBits false + ffF32.infBits = ffF32.infBits := Nat.zero_add _
  rw [hzero] at hround
  rcases hX with hX | hX
  · have hres : SFn.result .exp2 op ffF32 x = ffF32.round .rn false (.fin false k g) := by
      simp only [SFn.result, hval, hX]
      exact Prod.ext rfl (BitVec.zero_or)
    rw [hres]
    refine hround.imp_right fun ⟨hfin, hflags⟩ => ⟨hlarge.resolve_left fun ⟨_, hinf⟩ => ?_, hflags⟩
    rw [hinf] at hfin
    exact Bool.false_ne_true hfin
  · rcases hround with hround | ⟨-, hflags⟩
    · left
      simp only [SFn.result, hval, hX, hround]
      rfl
    · right
      have hof : (ffF32.round .rn false (.fin false k g)).2 &&& fOF = 0 := by
        generalize (ffF32.round .rn false (.fin false k g)).2 = fl at hflags
        revert hflags fl
        decide
      have hres : SFn.result .exp2 op ffF32 x
          = SFn.pick .exp2 op ffF32 (.fin false m e) (.fin false k g) x (ffF32.round .rz false (.fin false k g)).1 := by
        simp only [SFn.result, hval, hX, hof, bne_self_eq_false, Bool.false_eq_true, if_false]
      rw [hres]
      exact pick_large hle

/-- Where the element's own format has ∞ for the f32 result, with OF and NX, these are the flags. -/
theorem narrow_overflow (h : Narrow f) (hval : f.val x = .fin false m e) (hm : m ≠ 0) (hge : ((f.bias + 1 : ℕ) : ℚ) ≤ m * 2 ^ e)
    {d : Nat} {fl gl : Flags} (hres : SFn.result .exp2 op ffF32 (ffF32.round .rn false (f.val x)).1 = (d, fl))
    (hround : f.round .rn false (ffF32.val d) = (f.infBits, gl)) (hof : (fl ||| gl) &&& ~~~(fUF ||| fNX) = fOF)
    (hnx : (fl ||| gl) &&& fNX ≠ 0) : narrowResult .exp2 op f x = (f.infBits, fOF ||| fNX) := by
  have hbias : f.bias + 1 ≤ 5000 ∧ f.emin ≤ 0 := by rcases h with rfl | rfl <;> decide
  obtain ⟨k, g, hX, hle⟩ := exp2_cases ffF32 hm hbias.1 hge
  have hk : k ≠ 0 := by
    rintro rfl
    have : (0 : ℚ) < 2 ^ (f.bias + 1) := by positivity
    simp only [CharP.cast_eq_zero, zero_mul] at hle
    linarith
  have hinf : f.val f.infBits = .inf false := by simpa [FFmt.signBits] using h.ieee.val_inf false
  have hhits : SFn.hits .exp2 f (.fin false m e) f.infBits = false := by
    rcases hX with hX | hX <;> simp only [SFn.hits, hX, hinf] <;> rfl
  have htiny : SFn.tinyIn .exp2 f (.fin false m e) = false := by
    have hnormal : f.tiny .rn false k g = false := tiny_of_normal hk (le_trans (by
      rw [← zpow_natCast]
      exact zpow_le_zpow_right₀ (by norm_num) (by omega)) hle)
    rcases hX with hX | hX <;> simp only [SFn.tinyIn, hX, hnormal, Bool.and_false]
  have hb : ((fl ||| gl) &&& fNX != 0) = true := bne_iff_ne.2 hnx
  rw [hval] at hres
  simp only [narrowResult, hval, hres, hround, hhits, htiny, hof, hb, FVal.isSig]
  rfl

theorem eq_fin_of_pos {a : FVal} (ha : finite a = true) (hpos : 0 < rat a) : ∃ m e, a = .fin false m e := by
  obtain ⟨s, m, e, rfl⟩ := eq_fin_of_finite ha
  cases s with
  | false => exact ⟨m, e, rfl⟩
  | true =>
    have : (0 : ℚ) ≤ m * 2 ^ e := by positivity
    rw [rat_fin, sgn, if_pos rfl] at hpos
    linarith

/-- The flags of an overflow after those of an inexact result. -/
theorem flags_beyond : ∀ fl : Flags, fl &&& ~~~(fUF ||| fNX) = 0 →
    (fl ||| (fOF ||| fNX)) &&& ~~~(fUF ||| fNX) = fOF ∧ (fl ||| (fOF ||| fNX)) &&& fNX ≠ 0 := by
  decide

/-- Beyond the range of an element 2^x is ∞. -/
theorem exp2_overflow {ty : Ty} (hty : ty ∈ specialTys false) (ha : finite ((tyFmt ty).val x) = true)
    (hge : ((tyFmt ty).bias : ℚ) + 1 ≤ rat ((tyFmt ty).val x)) :
    SFn.elem .exp2 op ty x = ((tyFmt ty).infBits, fOF ||| fNX) := by
  have hty' := mem_floats_of_specialTys hty
  have hpos : 0 < rat ((tyFmt ty).val x) := lt_of_lt_of_le (by positivity) hge
  have hraw : ∃ m e, (tyFmt ty).val x = .fin false m e ∧ m ≠ 0 := by
    obtain ⟨m, e, h⟩ := eq_fin_of_pos ha hpos
    exact ⟨m, e, h, fun hm => hpos.ne' (h ▸ rat_fin_eq_zero.2 hm)⟩
  obtain ⟨m, e, hval, hm⟩ := hraw
  obtain ⟨m', e', hwork, -, hrat, -⟩ := workVal_fin hty' ha
  rw [hval] at hwork hrat
  rw [hval, hrat] at hge hpos
  simp only [FVal.neg?, sgn, Bool.false_eq_true, if_false, one_mul] at hwork hrat hge hpos
  have hm' : m' ≠ 0 := by rintro rfl; simp at hpos
  have hge' : (((tyFmt ty).bias + 1 : ℕ) : ℚ) ≤ m' * 2 ^ e' := by push_cast; exact hge
  have hgem : (((tyFmt ty).bias + 1 : ℕ) : ℚ) ≤ m * 2 ^ e := by
    rw [rat_fin_false] at hrat
    rwa [hrat]
  simp only [specialTys, Bool.false_eq_true, if_false, List.mem_cons, List.not_mem_nil, or_false] at hty
  rcases hty with rfl | rfl | rfl
  · exact exp2_result_overflow ieee_f32 hwork hm' (by decide) hge'
  · rcases exp2_result_large (op := op) hwork hm' hge' with hres | ⟨⟨hfin, hlarge⟩, hflags⟩
    · exact narrow_overflow (.inl rfl) hval hm hgem hres (gl := 0) (by decide) (by decide) (by decide)
    · obtain ⟨n, g, hd⟩ := eq_fin_of_pos hfin (lt_of_lt_of_le (by norm_num) hlarge)
      rw [hd, rat_fin_false] at hlarge
      obtain ⟨hof, hnx⟩ := flags_beyond _ hflags
      exact narrow_overflow (.inl rfl) hval hm hgem rfl (hd ▸ f16_overflow hlarge) hof hnx
  · exact narrow_overflow (.inr rfl) hval hm hgem (exp2_result_overflow ieee_f32 hwork hm' (by decide) hge') (gl := 0)
      (by decide) (by decide) (by decide)

end

end Sys2Proof.Claims
end

section
/-! PROOF. The table of R88 for every special function (O9). -/

namespace Sys2Proof.Claims
open Sys2Proof.Machine

/-! ### Elements by their sign -/

section
variable {ty : Ty} {x op : Nat}

theorem isSig_of_finite {a : FVal} (h : finite a = true) : a.isSig = false := by
  obtain ⟨s, m, e, rfl⟩ := eq_fin_of_finite h
  rfl

theorem isSig_of_inf {a : FVal} {s : Bool} (h : a = .inf s) : a.isSig = false := by rw [h]; rfl

theorem workVal_zero (hty : ty ∈ Ty.floats) (ha : finite ((tyFmt ty).val x) = true) (h0 : rat ((tyFmt ty).val x) = 0) :
    ∃ e, workVal ty x = .fin ((tyFmt ty).val x).neg? 0 e := by
  obtain ⟨m, e, hwork, -, hrat, -⟩ := workVal_fin hty ha
  rw [h0, ← rat_fin, eq_comm, rat_fin_eq_zero] at hrat
  exact ⟨e, by rw [hwork, hrat]⟩

theorem workVal_neg (hty : ty ∈ Ty.floats) (ha : finite ((tyFmt ty).val x) = true) (hneg : rat ((tyFmt ty).val x) < 0) :
    ∃ m e, workVal ty x = .fin true m e ∧ m ≠ 0 := by
  obtain ⟨m, e, hwork, -, hrat, -⟩ := workVal_fin hty ha
  have hpos : (0 : ℚ) ≤ m * 2 ^ e := by positivity
  rw [hrat] at hneg
  have hs : ((tyFmt ty).val x).neg? = true := by
    by_contra h
    rw [Bool.not_eq_true] at h
    rw [h, sgn, if_neg (by simp)] at hneg
    linarith
  refine ⟨m, e, by rw [hwork, hs], ?_⟩
  rintro rfl
  simp at hneg

theorem workVal_pos (hty : ty ∈ Ty.floats) (ha : finite ((tyFmt ty).val x) = true) (hpos : 0 < rat ((tyFmt ty).val x)) :
    ∃ m e, workVal ty x = .fin false m e ∧ m ≠ 0 ∧ m < 2 ^ 64 ∧ rat ((tyFmt ty).val x) = m * 2 ^ e
      ∧ Holds (tyFmt ty) (m * 2 ^ e) := by
  obtain ⟨m, e, hwork, hm, hrat, hh⟩ := workVal_fin hty ha
  obtain ⟨m', e', hval⟩ := eq_fin_of_pos ha hpos
  have hs : ((tyFmt ty).val x).neg? = false := by rw [hval]; rfl
  rw [hs] at hwork hrat
  rw [sgn, if_neg (by simp), one_mul] at hrat
  refine ⟨m, e, hwork, ?_, lt_trans hm (by norm_num), hrat, hh⟩
  rintro rfl
  simp [hrat] at hpos

/-! ### Exact results that the formats hold -/

/-- The exponents of the powers of two in a format. -/
theorem exp_of_holds {f : FFmt} (h : Ieee f) {k : ℤ} (hh : Holds f (2 ^ k)) : f.qmin ≤ k ∧ k ≤ f.bias := by
  obtain ⟨b, hb, hmag⟩ := hh
  constructor
  · have h1 : ((1 : ℕ) : ℚ) * 2 ^ k = mantOf f b * 2 ^ expOf f b := by rw [Nat.cast_one, one_mul, ← hmag]; rfl
    exact le_trans (qmin_le_expOf f b) (exp_le_of_odd rfl h1).1
  · have h1 := magOf_lt_top h hb
    rw [hmag] at h1
    have := (zpow_lt_zpow_iff_right₀ (by norm_num : (1 : ℚ) < 2)).1 h1
    omega

theorem Ieee.exp_bounds {f : FFmt} (h : Ieee f) : (f.bias : ℤ) < 2 ^ (f.mbits + 1) ∧ -f.qmin < 2 ^ (f.mbits + 1) ∧ -f.qmin ≤ 2 * f.bias
    ∧ f.bias < 5000 ∧ -5000 < f.qmin := by
  rcases h with rfl | rfl | rfl | rfl <;> decide

theorem Ieee.qmin_neg {f : FFmt} (h : Ieee f) : f.qmin < 0 := by rcases h with rfl | rfl | rfl | rfl <;> decide

theorem holds_one (ty : Ty) : Holds (tyFmt ty) ((1 : ℕ) * 2 ^ (0 : ℤ)) := by
  rw [Nat.cast_one, one_mul]
  exact holds_two_zpow (ieee_tyFmt ty) (ieee_tyFmt ty).qmin_neg.le (by omega)

/-- A format holds the exponents of its powers of two. -/
theorem holds_natAbs {f : FFmt} (h : Ieee f) {k : ℤ} (hlo : f.qmin ≤ k) (hhi : k ≤ f.bias) : Holds f (k.natAbs * 2 ^ (0 : ℤ)) := by
  obtain ⟨h1, h2, -⟩ := h.exp_bounds
  have hk : k.natAbs < 2 ^ (f.mbits + 1) := by zify; rw [abs_lt]; omega
  refine holds_of_parts h hk h.qmin_neg.le ?_
  rw [zpow_zero, mul_one]
  refine lt_of_lt_of_le (b := (2 : ℚ) ^ (f.mbits + 1)) (by exact_mod_cast hk) ?_
  rw [← zpow_natCast]
  refine zpow_le_zpow_right₀ (by norm_num) ?_
  have := h.mbits_le_bias
  push_cast
  omega

/-- A format holds the roots of its squares. -/
theorem holds_root {f : FFmt} (h : Ieee f) {v : ℚ} (hv : 0 ≤ v) (hh : Holds f (v * v)) : Holds f v := by
  obtain ⟨b, hb, hmag⟩ := hh
  obtain ⟨n, hn, hroot⟩ := square_parts hv hmag
  have hm := mantOf_lt f b
  have he := qmin_le_expOf f b
  have hq := h.qmin_neg
  rw [hroot]
  refine holds_of_parts h ?_ (by split <;> omega) ?_
  · have hlt : n * n < 2 ^ (f.mbits + 1) * 2 ^ (f.mbits + 1) := by
      have h2 : 2 * 2 ^ (f.mbits + 1) ≤ 2 ^ (f.mbits + 1) * 2 ^ (f.mbits + 1) :=
        Nat.mul_le_mul_right _ (by rw [pow_succ]; have := Nat.two_pow_pos f.mbits; omega)
      rw [← hn]
      split <;> omega
    exact Nat.mul_self_lt_mul_self_iff.1 hlt
  · rw [← hroot]
    by_contra hge
    have hone : (1 : ℚ) ≤ 2 ^ ((f.bias : ℤ) + 1) := one_le_zpow₀ (by norm_num) (by omega)
    have htop := magOf_lt_top h hb
    rw [hmag] at htop
    have : v ≤ v * v := le_mul_of_one_le_left hv (by linarith)
    linarith

theorem emin_workFmt_le (hty : ty ∈ Ty.floats) : (workFmt ty).emin ≤ (tyFmt ty).emin := by
  simp only [Ty.floats, List.mem_cons, List.not_mem_nil, or_false] at hty
  rcases hty with rfl | rfl | rfl | rfl <;> decide

/-! ### The functions -/

theorem special_sin (hty : ty ∈ Ty.floats) (hx : x < 2 ^ (tyFmt ty).width) : Special .sin (tyFmt ty) x (SFn.elem .sin op ty x) := by
  refine ⟨fun sig ha => elem_nan hty ha, fun s ha => ?_, fun ha h0 => ?_⟩
  · exact elem_invalid hty (isSig_of_inf ha) (by rw [workVal_inf hty ha]; rfl)
  · obtain ⟨e, hwork⟩ := workVal_zero hty ha h0
    exact elem_zero hty hx ha h0 (by rw [hwork]; rfl)

theorem special_cos (hty : ty ∈ Ty.floats) : Special .cos (tyFmt ty) x (SFn.elem .cos op ty x) := by
  refine ⟨fun sig ha => elem_nan hty ha, fun s ha => ?_, fun ha h0 => ?_⟩
  · exact elem_invalid hty (isSig_of_inf ha) (by rw [workVal_inf hty ha]; rfl)
  · obtain ⟨e, hwork⟩ := workVal_zero hty ha h0
    have key := (elem_is (op := op) hty (isSig_of_finite ha) (fn := .cos) (by rw [hwork]; rfl) (holds_one ty)).1
    simpa [sgn] using key

theorem special_tanh (hty : ty ∈ Ty.floats) (hx : x < 2 ^ (tyFmt ty).width) : Special .tanh (tyFmt ty) x (SFn.elem .tanh op ty x) := by
  refine ⟨fun sig ha => elem_nan hty ha, fun s ha => ?_, fun ha h0 => ?_⟩
  · have key := (elem_is (op := op) hty (isSig_of_inf ha) (fn := .tanh) (by rw [workVal_inf hty ha]; rfl) (holds_one ty)).1
    simpa [sgn] using key
  · obtain ⟨e, hwork⟩ := workVal_zero hty ha h0
    exact elem_zero hty hx ha h0 (by rw [hwork]; rfl)

/-- A function that is 0 at an infinity. -/
theorem elem_inf_zero (hty : ty ∈ Ty.floats) {fn : SFn} {s t : Bool} (ha : (tyFmt ty).val x = .inf s)
    (hval : fn.val (workFmt ty) (.inf s) = .exact (.fin t 0 0) 0) :
    (finite ((tyFmt ty).val (fn.elem op ty x).1) = true ∧ rat ((tyFmt ty).val (fn.elem op ty x).1) = 0 ∧ (fn.elem op ty x).2 = 0)
      ∧ ((tyFmt ty).val (fn.elem op ty x).1).neg? = t := by
  have key := elem_is (op := op) hty (isSig_of_inf ha) (fn := fn) (by rw [workVal_inf hty ha]; exact hval)
    (by rw [Nat.cast_zero, zero_mul]; exact holds_zero _)
  simpa using key

theorem special_rcp (hty : ty ∈ Ty.floats) : Special .rcp (tyFmt ty) x (SFn.elem .rcp op ty x) := by
  have hzero (ha : finite ((tyFmt ty).val x) = true) (h0 : rat ((tyFmt ty).val x) = 0) :
      (tyFmt ty).val (SFn.elem .rcp op ty x).1 = .inf ((tyFmt ty).val x).neg? ∧ (SFn.elem .rcp op ty x).2 = fDZ := by
    obtain ⟨e, hwork⟩ := workVal_zero hty ha h0
    exact elem_infinite hty (isSig_of_finite ha) (by rw [hwork]; rfl) rfl
  refine ⟨fun sig ha => elem_nan hty ha, hzero, fun s ha => elem_inf_zero hty ha rfl, fun ha k hq hlo hhi => ?_,
    fun ha hfin => rcp_exact_iff hty ha (fun h0 => ?_) hfin⟩
  · obtain ⟨m, e, hwork, hm53, hrat, -⟩ := workVal_fin hty ha
    have hmk : (m : ℚ) * 2 ^ e = 2 ^ k := by
      rw [hrat, abs_mul, abs_sgn, one_mul, abs_of_nonneg (by positivity)] at hq
      exact hq
    have hm : m ≠ 0 := by
      rintro rfl
      have := two_zpow_pos k
      simp only [CharP.cast_eq_zero, zero_mul] at hmk
      linarith
    have hemin : (workFmt ty).emin ≤ -k := by
      refine le_trans (emin_workFmt_le hty) ?_
      rw [FFmt.emin]
      omega
    have hqmin := (ieee_tyFmt ty).qmin_neg
    have hh : Holds (tyFmt ty) ((1 : ℕ) * 2 ^ (-k)) := by
      rw [Nat.cast_one, one_mul]
      exact holds_two_zpow (ieee_tyFmt ty) (by rw [qmin_eq]; omega) (by omega)
    have key := (elem_is (op := op) hty (isSig_of_finite ha) (fn := .rcp)
      (by rw [hwork]; exact rcp_of_two_zpow hm (lt_trans hm53 (by norm_num)) hmk hemin) hh).1
    refine ⟨key.1, key.2.1.trans ?_, key.2.2⟩
    rw [hrat, hmk, Nat.cast_one, one_mul, one_div, mul_inv, zpow_neg]
    congr 1
    cases ((tyFmt ty).val x).neg? <;> norm_num [sgn]
  · rw [(hzero ha h0).1] at hfin
    exact Bool.false_ne_true hfin

theorem special_rsq (hty : ty ∈ Ty.floats) : Special .rsq (tyFmt ty) x (SFn.elem .rsq op ty x) := by
  refine ⟨fun sig ha => elem_nan hty ha, fun ha h0 => ?_, fun ha hneg => ?_, fun ha => ?_, fun ha => elem_inf_zero hty ha rfl,
    fun ha k hq => ?_⟩
  · obtain ⟨e, hwork⟩ := workVal_zero hty ha h0
    exact elem_infinite hty (isSig_of_finite ha) (by rw [hwork]; rfl) rfl
  · obtain ⟨m, e, hwork, hm⟩ := workVal_neg hty ha hneg
    exact elem_invalid hty (isSig_of_finite ha) (by rw [hwork]; simp only [SFn.val, hm, if_false, if_true])
  · exact elem_invalid hty (isSig_of_inf ha) (by rw [workVal_inf hty ha]; rfl)
  · obtain ⟨m, e, hwork, hm, hlt, hrat, hh⟩ := workVal_pos hty ha (by rw [hq]; positivity)
    have h4 : (m : ℚ) * 2 ^ e = 4 ^ k := hrat ▸ hq
    have h2 : (4 : ℚ) ^ k = 2 ^ (2 * k) := by rw [zpow_mul]; norm_num
    obtain ⟨hlo, hhi⟩ := exp_of_holds (ieee_tyFmt ty) (k := 2 * k) (by rw [← h2, ← h4]; exact hh)
    obtain ⟨-, -, hb, -⟩ := (ieee_tyFmt ty).exp_bounds
    have hneg := (ieee_tyFmt ty).qmin_neg
    have hroot : Holds (tyFmt ty) ((1 : ℕ) * 2 ^ (-k)) := by
      rw [Nat.cast_one, one_mul]
      exact holds_two_zpow (ieee_tyFmt ty) (by rw [qmin_eq] at *; omega) (by omega)
    have key := (elem_is (op := op) hty (isSig_of_finite ha) (fn := .rsq) (by rw [hwork]; exact rsq_of_four_zpow hm hlt h4) hroot).1
    simpa [sgn] using key

theorem special_sqrt (hty : ty ∈ Ty.floats) (hx : x < 2 ^ (tyFmt ty).width) : Special .sqrt (tyFmt ty) x (SFn.elem .sqrt op ty x) := by
  have hzero (ha : finite ((tyFmt ty).val x) = true) (h0 : rat ((tyFmt ty).val x) = 0) : SFn.elem .sqrt op ty x = (x, 0) := by
    obtain ⟨e, hwork⟩ := workVal_zero hty ha h0
    exact elem_zero hty hx ha h0 (by rw [hwork]; rfl)
  refine ⟨fun sig ha => elem_nan hty ha, hzero, fun ha hneg => ?_, fun ha => ?_, fun ha => ?_, fun ha v hv hq => ?_⟩
  · obtain ⟨m, e, hwork, hm⟩ := workVal_neg hty ha hneg
    exact elem_invalid hty (isSig_of_finite ha) (by rw [hwork]; simp only [SFn.val, hm, if_false, if_true])
  · exact elem_invalid hty (isSig_of_inf ha) (by rw [workVal_inf hty ha]; rfl)
  · exact elem_infinite hty (isSig_of_inf ha) (by rw [workVal_inf hty ha]; rfl) rfl
  · rcases hv.eq_or_lt with rfl | hpos
    · rw [mul_zero] at hq
      rw [hzero ha hq]
      exact ⟨ha, hq, rfl⟩
    · obtain ⟨m, e, hwork, hm, hlt, hrat, hh⟩ := workVal_pos hty ha (by rw [hq]; positivity)
      have hsq : (m : ℚ) * 2 ^ e = v * v := hrat ▸ hq
      obtain ⟨n, g, hval, hroot⟩ := sqrt_of_square (f := workFmt ty) hm hlt hv hsq
      rw [rat_fin] at hroot
      have hn : (n : ℚ) * 2 ^ g = v := by rw [← hroot, sgn, if_neg (by simp), one_mul]
      have key := (elem_is (op := op) hty (isSig_of_finite ha) (fn := .sqrt) (by rw [hwork]; exact hval)
        (by rw [hn]; exact holds_root (ieee_tyFmt ty) hv (hsq ▸ hh))).1
      rwa [hroot] at key

theorem special_log2 (hty : ty ∈ Ty.floats) : Special .log2 (tyFmt ty) x (SFn.elem .log2 op ty x) := by
  refine ⟨fun sig ha => elem_nan hty ha, fun ha h0 => ?_, fun ha hneg => ?_, fun ha => ?_, fun ha => ?_, fun ha k hq => ?_⟩
  · obtain ⟨e, hwork⟩ := workVal_zero hty ha h0
    exact elem_infinite hty (isSig_of_finite ha) (by rw [hwork]; rfl) rfl
  · obtain ⟨m, e, hwork, hm⟩ := workVal_neg hty ha hneg
    exact elem_invalid hty (isSig_of_finite ha) (by rw [hwork]; simp only [SFn.val, hm, if_false, if_true])
  · exact elem_invalid hty (isSig_of_inf ha) (by rw [workVal_inf hty ha]; rfl)
  · exact elem_infinite hty (isSig_of_inf ha) (by rw [workVal_inf hty ha]; rfl) rfl
  · obtain ⟨m, e, hwork, hm, hlt, hrat, hh⟩ := workVal_pos hty ha (by rw [hq]; positivity)
    have h2 : (m : ℚ) * 2 ^ e = 2 ^ k := hrat ▸ hq
    obtain ⟨hlo, hhi⟩ := exp_of_holds (ieee_tyFmt ty) (h2 ▸ hh)
    have hint : sgn (decide (k < 0)) * (k.natAbs * 2 ^ (0 : ℤ)) = (k : ℚ) := by
      rcases lt_or_ge k 0 with h | h
      · have : (k.natAbs : ℚ) = -k := by rw [← Int.cast_natCast, Int.natCast_natAbs, abs_of_neg h, Int.cast_neg]
        simp [sgn, h, this]
      · have : (k.natAbs : ℚ) = k := by rw [← Int.cast_natCast, Int.natCast_natAbs, abs_of_nonneg h]
        simp [sgn, h.not_gt, this]
    obtain ⟨hk, hsign⟩ := elem_is (op := op) hty (isSig_of_finite ha) (fn := .log2)
      (by rw [hwork]; exact log2_of_two_zpow hm hlt h2) (holds_natAbs (ieee_tyFmt ty) hlo hhi)
    rw [hint] at hk
    exact ⟨hk, fun h0 => by rw [hsign, h0]; rfl⟩

theorem special_exp2 (hty : ty ∈ specialTys false) : Special .exp2 (tyFmt ty) x (SFn.elem .exp2 op ty x) := by
  have hty' := mem_floats_of_specialTys hty
  refine ⟨fun sig ha => elem_nan hty' ha, fun ha => elem_inf_zero hty' ha rfl, fun ha => ?_, fun ha k hq hlo hhi => ?_,
    fun ha hge => ?_⟩
  · exact elem_infinite hty' (isSig_of_inf ha) (by rw [workVal_inf hty' ha]; rfl) rfl
  · have hh : Holds (tyFmt ty) ((1 : ℕ) * 2 ^ k) := by
      rw [Nat.cast_one, one_mul]
      exact holds_two_zpow (ieee_tyFmt ty) hlo hhi
    have hval : SFn.val .exp2 (workFmt ty) (workVal ty x) = .exact (.fin false 1 k) 0 := by
      by_cases h0 : rat ((tyFmt ty).val x) = 0
      · obtain ⟨e, hwork⟩ := workVal_zero hty' ha h0
        obtain rfl : k = 0 := by rw [hq] at h0; exact_mod_cast h0
        rw [hwork]
        rfl
      · obtain ⟨m, e, hwork, -, hrat, -⟩ := workVal_fin hty' ha
        generalize ((tyFmt ty).val x).neg? = s at hwork hrat
        rw [hrat] at h0 hq
        have hm : m ≠ 0 := by rintro rfl; simp at h0
        have habs : (m : ℚ) * 2 ^ e = k.natAbs := by
          have h1 := congrArg abs hq
          rw [abs_mul, abs_sgn, one_mul, abs_of_nonneg (by positivity)] at h1
          rw [h1, ← Int.cast_natCast, Int.natCast_natAbs, Int.cast_abs]
        have hk : (if s then -(k.natAbs : ℤ) else k.natAbs) = k := by
          rw [habs] at hq
          have : ((if s then -(k.natAbs : ℤ) else k.natAbs : ℤ) : ℚ) = k := by rw [← hq]; cases s <;> simp [sgn]
          exact_mod_cast this
        obtain ⟨-, -, -, h1, h2⟩ := (ieee_tyFmt ty).exp_bounds
        rw [hwork, exp2_of_nat hm habs (by omega), hk]
    have key := (elem_is (op := op) hty' (isSig_of_finite ha) hval hh).1
    simpa [sgn] using key
  · have hge' : ((tyFmt ty).bias : ℚ) + 1 ≤ rat ((tyFmt ty).val x) := by exact_mod_cast hge
    rw [exp2_overflow hty ha hge']
    refine ⟨?_, rfl⟩
    simpa [FFmt.signBits] using (ieee_tyFmt ty).val_inf false

end

/-! ### The instructions -/

section
variable {o : F3}

theorem width_of_float {ty : Ty} (hty : ty ∈ Ty.floats) : (tyFmt ty).width = Ty.elemBits ty := by
  simp only [Ty.floats, List.mem_cons, List.not_mem_nil, or_false] at hty
  rcases hty with rfl | rfl | rfl | rfl <;> rfl

theorem ty_of_rule {u : F3Rule} {o : F3} (h : u.ok o = true) : o.ty ∈ u.tys := by
  simp only [F3Rule.ok, Bool.and_eq_true] at h
  exact List.contains_iff_mem.1 (by tauto)

theorem fMinMax_eq (mx : Bool) {ty : Ty} (hty : ty ∈ Ty.floats) : fMinMax mx ty = fun l => each (Ty.elemBits ty) (Ty.elems ty) (fun e =>
    let a := (tyFmt ty).val (el (Ty.elemBits ty) e (opAt l 0)).toNat
    let b := (tyFmt ty).val (el (Ty.elemBits ty) e (opAt l 1)).toNat
    (if a.isNan && b.isNan then BitVec.ofNat _ (tyFmt ty).nanBits
      else if b.isNan || (!a.isNan && before a b != mx) then el _ e (opAt l 0) else el _ e (opAt l 1),
      Flags.when (a.isSig || b.isSig) fNV)) := by
  funext l
  simp only [fMinMax, perElem_eq_each_ofNat (elemBits_mul_elems ty), elemOf_eq_el, minmax_eq (width_of_float hty)]
  congr 1
  funext e
  refine Prod.ext ?_ rfl
  dsimp only
  split
  · rfl
  · split <;> rw [BitVec.ofNat_toNat, BitVec.setWidth_eq]

/-- `fmin` and `fmax` (R80). -/
theorem computes_minMax {i : Instr} {opc : BitVec 8} {sub : BitVec 4} (mx : Bool) (hexec : ∀ s, exec i s
      = .next (s.issueDesc i (noF64AtMem o.ty (descBin o (fMinMax mx o.ty)))))
    (hwf : i.wf = legalFBin false o) (henc : encode i = [o.word opc sub]) (hopc : abortsSpan opc.toNat = false) :
    Computes i (bin o) (fun l => each (Ty.elemBits o.ty) (Ty.elems o.ty) (fun e =>
      let a := (tyFmt o.ty).val (el (Ty.elemBits o.ty) e (opAt l 0)).toNat
      let b := (tyFmt o.ty).val (el (Ty.elemBits o.ty) e (opAt l 1)).toNat
      (if a.isNan && b.isNan then BitVec.ofNat _ (tyFmt o.ty).nanBits
        else if b.isNan || (!a.isNan && before a b != mx) then el _ e (opAt l 0) else el _ e (opAt l 1),
        Flags.when (a.isSig || b.isSig) fNV))) := by
  refine computes_congr (computes_of_fits hexec (fun hw => noF64AtMem_fits (descBin_fits ?_ _) _) henc hopc) fun hw => ?_
  · exact ne_lit_of_rule (hwf ▸ hw : legalFBin false o = true) rfl
  · exact fMinMax_eq mx (ty_of_rule (hwf ▸ hw : legalFBin false o = true))

/-- A special function is the shared operation on A, with what the table of R88 says of its elements. -/
theorem computes_special {i : Instr} {fn : SFn} {op : Nat} {opc : BitVec 8} {sub : BitVec 4} (f64 : Bool)
    (hexec : ∀ s, exec i s = .next (s.issueDesc i (descSpecial fn op o))) (hwf : i.wf = legalSpecial f64 o)
    (henc : encode i = [o.word opc sub]) (hopc : abortsSpan opc.toNat = false)
    (hspec : o.ty ∈ specialTys f64 → ∀ x, x < 2 ^ (tyFmt o.ty).width → Special fn (tyFmt o.ty) x (fn.elem op o.ty x)) :
    i.wf = true → ∃ h : Nat → Nat × Flags, Computes i (unary o (Ty.regs o.ty)) (feachBits o.ty (fun _ => h))
      ∧ ∀ x, x < 2 ^ Ty.elemBits o.ty → Special fn (tyFmt o.ty) x (h x) := by
  intro hw
  have hty : o.ty ∈ specialTys f64 := ty_of_rule (hwf ▸ hw : legalSpecial f64 o = true)
  refine ⟨fn.elem op o.ty, ?_, fun x hx => hspec hty x ?_⟩
  · rw [← fUnary_eq_feachBits]
    exact computes_of_fits hexec (fun hw => fits_of_plain rfl (.inr rfl)
      (ne_lit_of_rule (hwf ▸ hw : legalSpecial f64 o = true) rfl) (regs_pos _) (by simp [Src.regs, regs_pos])) henc hopc
  · rwa [width_of_float (mem_floats_of_specialTys hty)]

/-- FROUND (R150). -/
theorem computes_fround (ex : Bool) (hw : (Instr.fround ex o).wf = true) :
    ∃ h : Nat → Nat × Flags, Computes (.fround ex o) (unary o (Ty.regs o.ty)) (feachBits o.ty (fun _ => h))
      ∧ ∀ x, x < 2 ^ Ty.elemBits o.ty → Integral (tyFmt o.ty) o.rnd ex x (h x) := by
  refine ⟨(tyFmt o.ty).integral o.rnd ex, ?_, fun x hx => integral_spec (ieee_tyFmt o.ty) o.rnd ex ?_⟩
  · have h : feachBits o.ty (fun _ => (tyFmt o.ty).integral o.rnd ex) = fUnary o.ty (fun f => f.integral o.rnd ex) :=
      (fUnary_eq_feachBits o.ty (fun f => f.integral o.rnd ex)).symm
    rw [h]
    exact computes_of_fits (fun _ => rfl) (fun hw => noF64AtMem_fits (fits_of_plain rfl (.inl rfl) (ne_lit_of_rule hw rfl)
      (regs_pos _) (by simp [Src.regs, regs_pos])) _) rfl rfl
  · rwa [width_of_float (ty_of_rule hw)]

/-- FCLASS (R151). -/
theorem computes_fclass : Computes (.fclass o) (unary o 1) (fun l => each 16 (Ty.elems o.ty) (fun e =>
    (BitVec.ofNat 16 (classOf (tyFmt o.ty) ((tyFmt o.ty).val (el (Ty.elemBits o.ty) e (opAt l 0)).toNat)), 0))) := by
  have hw : 16 * Ty.elems o.ty ≤ 64 := by cases o.ty <;> decide
  have hg : (fun l => perElem 16 (Ty.elems o.ty) (fun e => ((tyFmt o.ty).cls (elemOf (Ty.elemBits o.ty) e (opAt l 0)), (0 : Flags))))
      = fun l => each 16 (Ty.elems o.ty) (fun e =>
        (BitVec.ofNat 16 (classOf (tyFmt o.ty) ((tyFmt o.ty).val (el (Ty.elemBits o.ty) e (opAt l 0)).toNat)), 0)) := by
    funext l
    simp only [perElem_eq_each_ofNat hw, cls_eq, elemOf_eq_el]
  rw [← hg]
  exact computes_of_fits (fun _ => rfl) (fun hw => noF64AtMem_fits (fits_of_plain rfl (.inl rfl) (ne_lit_of_rule hw rfl)
    Nat.one_pos (by simp [Src.regs, regs_pos])) _) rfl rfl

end

end Sys2Proof.Claims
end

/-- Settles O9: minima, maxima and classes by the order and the values of rationals; integral values from the rounding of
O33; the special functions by the exact cases that the model finds, the reciprocal's NX and the overflow of 2^x. -/
theorem floatFunctions : Obligations.FloatFunctions := by
  unfold Obligations.FloatFunctions
  intro o
  exact ⟨Sys2Proof.Claims.computes_minMax false (fun _ => rfl) rfl rfl rfl,
    Sys2Proof.Claims.computes_minMax true (fun _ => rfl) rfl rfl rfl,
    Sys2Proof.Claims.computes_fround, Sys2Proof.Claims.computes_fclass,
    Sys2Proof.Claims.computes_special true (fun _ => rfl) rfl rfl rfl (fun hty _ _ => Sys2Proof.Claims.special_rcp hty),
    Sys2Proof.Claims.computes_special true (fun _ => rfl) rfl rfl rfl (fun hty _ _ => Sys2Proof.Claims.special_rsq hty),
    Sys2Proof.Claims.computes_special true (fun _ => rfl) rfl rfl rfl (fun hty _ hx => Sys2Proof.Claims.special_sqrt hty hx),
    Sys2Proof.Claims.computes_special false (fun _ => rfl) rfl rfl rfl (fun hty _ _ => Sys2Proof.Claims.special_exp2 hty),
    Sys2Proof.Claims.computes_special false (fun _ => rfl) rfl rfl rfl
      (fun hty _ _ => Sys2Proof.Claims.special_log2 (Sys2Proof.Claims.mem_floats_of_specialTys hty)),
    Sys2Proof.Claims.computes_special false (fun _ => rfl) rfl rfl rfl
      (fun hty _ hx => Sys2Proof.Claims.special_sin (Sys2Proof.Claims.mem_floats_of_specialTys hty) hx),
    Sys2Proof.Claims.computes_special false (fun _ => rfl) rfl rfl rfl
      (fun hty _ _ => Sys2Proof.Claims.special_cos (Sys2Proof.Claims.mem_floats_of_specialTys hty)),
    Sys2Proof.Claims.computes_special false (fun _ => rfl) rfl rfl rfl
      (fun hty _ hx => Sys2Proof.Claims.special_tanh (Sys2Proof.Claims.mem_floats_of_specialTys hty) hx)⟩

section
/-! PROOF. Decoding gives back what was encoded (O35), and decodes nothing else (O36, O37): every field stands where its
layout puts it, and every opcode and SUB name one instruction. -/

namespace Sys2Proof
open Sys2Proof.Machine Sys2Proof.Laws.Encoding
open BitVec (getLsbD_append extractLsb'_append_eq_of_add_le extractLsb'_append_eq_of_le)

/-! ### Codes -/

@[simp] theorem Pred.ofCode_code (p : Pred) : Pred.ofCode p.code = p := by
  simp (disch := omega) only [Pred.ofCode, Pred.code, getLsbD_append, extractLsb'_append_eq_of_add_le]
  simp
@[simp] theorem Rnd.ofCode_code (r : Rnd) : Rnd.ofCode r.code = r := by cases r <;> rfl
@[simp] theorem MemOrd.ofCode_code (m : MemOrd) : MemOrd.ofCode m.code = m := by cases m <;> rfl
@[simp] theorem Scope.ofCode_code (s : Scope) : Scope.ofCode s.code = some s := by cases s <;> rfl
@[simp] theorem Ty.ofCode_code (t : Ty) : Ty.ofCode t.code = some t := by cases t <;> rfl
@[simp] theorem Dataflow.ofCode_code (d : Dataflow) : Dataflow.ofCode d.code = some d := by cases d <;> rfl
@[simp] theorem IKind.ofCode_code (k : IKind) : IKind.ofCode k.code = some k := by cases k <;> rfl
@[simp] theorem OFmt.ofCode_code (f : OFmt) : OFmt.ofCode f.code = some f := by cases f <;> rfl
@[simp] theorem NestOp.ofCode_code (op : NestOp) : NestOp.ofCode op.code = some op := by cases op <;> rfl
@[simp] theorem ForkTgt.ofCode_code (t : ForkTgt) : ForkTgt.ofCode t.code = some t := by
  cases t with
  | matrix => rfl
  | lace k => revert k; decide

/-! ### The one-word formats -/

section
variable (opc : BitVec 8) (sub : BitVec 4)

theorem F3.sub_word (o : F3) : (o.word opc sub).extractLsb' 52 4 = sub := by
  simp (disch := omega) only [F3.word, extractLsb'_append_eq_of_add_le, extractLsb'_append_eq_of_le]
  simp

theorem F3.ofWord_word (o : F3) : F3.ofWord (o.word opc sub) = some o := by
  simp (disch := omega) only [F3.ofWord, F3.word, extractLsb'_append_eq_of_add_le, extractLsb'_append_eq_of_le,
    getLsbD_append, Nat.reduceLT, ↓reduceIte, Nat.reduceSub]
  simp

theorem FRI.sub_word (o : FRI) : (o.word opc sub).extractLsb' 52 4 = sub := by
  simp (disch := omega) only [FRI.word, extractLsb'_append_eq_of_add_le, extractLsb'_append_eq_of_le]
  simp

theorem FRI.ofWord_word (o : FRI) : FRI.ofWord (o.word opc sub) = o := by
  simp (disch := omega) only [FRI.ofWord, FRI.word, extractLsb'_append_eq_of_add_le, extractLsb'_append_eq_of_le]
  simp

theorem FBR.ofWord_word (o : FBR) : FBR.ofWord (o.word opc) = o := by
  simp (disch := omega) only [FBR.ofWord, FBR.word, extractLsb'_append_eq_of_add_le, extractLsb'_append_eq_of_le]
  simp

theorem FMem.sub_word (o : FMem) : (o.word opc sub).extractLsb' 52 4 = sub := by
  simp (disch := omega) only [FMem.word, extractLsb'_append_eq_of_add_le, extractLsb'_append_eq_of_le]
  simp

theorem FMem.ofWord_word (o : FMem) : FMem.ofWord (o.word opc sub) = some o := by
  simp (disch := omega) only [FMem.ofWord, FMem.word, extractLsb'_append_eq_of_add_le, extractLsb'_append_eq_of_le,
    getLsbD_append, Nat.reduceLT, ↓reduceIte, Nat.reduceSub]
  simp

/-! ### Format F-N -/

theorem FN.sub_words (ty : BitVec 4) (n : FN) : ((n.words opc sub ty).getD 0 0).extractLsb' 52 4 = sub := by
  simp (disch := omega) only [FN.words, List.getD_cons_zero, extractLsb'_append_eq_of_add_le, extractLsb'_append_eq_of_le]
  simp

theorem FN.ty_words (ty : BitVec 4) (n : FN) : ((n.words opc sub ty).getD 0 0).extractLsb' 48 4 = ty := by
  simp (disch := omega) only [FN.words, List.getD_cons_zero, extractLsb'_append_eq_of_add_le, extractLsb'_append_eq_of_le]
  simp

/-- PR of `ragged` stands in the low bits of SUB (R249). -/
theorem FN.pr_words (pr : BitVec 3) (ty : BitVec 4) (n : FN) :
    ((n.words opc (0#1 ++ pr) ty).getD 0 0).extractLsb' 52 3 = pr := by
  simp (disch := omega) only [FN.words, List.getD_cons_zero, extractLsb'_append_eq_of_add_le, extractLsb'_append_eq_of_le]
  simp

theorem FN.noSub_words (pr : BitVec 3) (ty : BitVec 4) (n : FN) :
    ((n.words opc (0#1 ++ pr) ty).getD 0 0).getLsbD 55 = false := by
  simp only [FN.words, List.getD_cons_zero, getLsbD_append, Nat.reduceLT, ↓reduceIte, Nat.reduceSub]
  simp

/-- The strides stand in two words. -/
theorem FN.strides_halves (n : FN) : n.strides.extractLsb' 64 56 ++ n.strides.extractLsb' 0 64 = n.strides :=
  (BitVec.extractLsb'_append_extractLsb'_eq_extractLsb' rfl).trans BitVec.extractLsb'_eq_self

theorem FN.ofWords_words (ty : BitVec 4) (n : FN) :
    FN.ofWords ((n.words opc sub ty).getD 0 0) ((n.words opc sub ty).getD 1 0) ((n.words opc sub ty).getD 2 0)
      ((n.words opc sub ty).getD 3 0) = n := by
  simp (disch := omega) only [FN.ofWords, FN.words, List.getD_cons_zero, List.getD_cons_succ, extractLsb'_append_eq_of_add_le,
    extractLsb'_append_eq_of_le]
  simp [FN.strides_halves]

end

/-! ### The layouts of F-M -/

theorem MldsOps.bar_words_none (o : MldsOps) : ((o.words none).getD 0 0).getLsbD 55 = false := by
  simp only [MldsOps.words, List.getD_cons_zero, getLsbD_append, Nat.reduceLT, ↓reduceIte, Nat.reduceSub]
  simp

theorem MldsOps.bar_words_some (o : MldsOps) (b : BarOps) : ((o.words (some b)).getD 0 0).getLsbD 55 = true := by
  simp only [MldsOps.words, List.getD_cons_zero, getLsbD_append, Nat.reduceLT, ↓reduceIte, Nat.reduceSub]
  simp

theorem MldsOps.ofWords_words (o : MldsOps) (b : Option BarOps) :
    MldsOps.ofWords ((o.words b).getD 0 0) ((o.words b).getD 1 0) = o := by
  simp (disch := omega) only [MldsOps.ofWords, MldsOps.words, List.getD_cons_zero, List.getD_cons_succ,
    extractLsb'_append_eq_of_add_le, extractLsb'_append_eq_of_le]
  simp

theorem BarOps.ofWord_words (o : MldsOps) (b : BarOps) : BarOps.ofWord ((o.words (some b)).getD 0 0) = b := by
  simp (disch := omega) only [BarOps.ofWord, MldsOps.words, List.getD_cons_zero, extractLsb'_append_eq_of_add_le,
    extractLsb'_append_eq_of_le, getLsbD_append, Nat.reduceLT, ↓reduceIte, Nat.reduceSub]
  simp

theorem qset_qsetWords (opc : BitVec 8) (q : BitVec 4) : ((qsetWords opc q).getD 0 0).extractLsb' 48 4 = q := by
  simp (disch := omega) only [qsetWords, List.getD_cons_zero, extractLsb'_append_eq_of_add_le, extractLsb'_append_eq_of_le]
  simp

theorem MzeroOps.ofWord_words (o : MzeroOps) : MzeroOps.ofWord (o.words.getD 0 0) = o := by
  simp (disch := omega) only [MzeroOps.ofWord, MzeroOps.words, List.getD_cons_zero, extractLsb'_append_eq_of_add_le,
    extractLsb'_append_eq_of_le, getLsbD_append, Nat.reduceLT, ↓reduceIte, Nat.reduceSub]
  simp

theorem MloopOps.ofWords_words (o : MloopOps) : MloopOps.ofWords (o.words.getD 0 0) (o.words.getD 1 0) = some o := by
  simp (disch := omega) only [MloopOps.ofWords, MloopOps.words, List.getD_cons_zero, List.getD_cons_succ,
    extractLsb'_append_eq_of_add_le, extractLsb'_append_eq_of_le, getLsbD_append, Nat.reduceLT, ↓reduceIte, Nat.reduceSub]
  simp

theorem MdrainOps.ofWords_words (o : MdrainOps) : MdrainOps.ofWords (o.words.getD 0 0) (o.words.getD 1 0) = some o := by
  simp (disch := omega) only [MdrainOps.ofWords, MdrainOps.words, List.getD_cons_zero, List.getD_cons_succ,
    extractLsb'_append_eq_of_add_le, extractLsb'_append_eq_of_le, getLsbD_append, Nat.reduceLT, ↓reduceIte, Nat.reduceSub]
  simp

theorem McompOps.ofWords_words (o : McompOps) : McompOps.ofWords (o.words.getD 0 0) (o.words.getD 1 0) = o := by
  simp (disch := omega) only [McompOps.ofWords, McompOps.words, List.getD_cons_zero, List.getD_cons_succ,
    extractLsb'_append_eq_of_add_le, extractLsb'_append_eq_of_le, getLsbD_append, Nat.reduceLT, ↓reduceIte, Nat.reduceSub]
  simp

theorem MreadOps.ofWord_words (o : MreadOps) : MreadOps.ofWord (o.words.getD 0 0) = o := by
  simp (disch := omega) only [MreadOps.ofWord, MreadOps.words, List.getD_cons_zero, extractLsb'_append_eq_of_add_le,
    extractLsb'_append_eq_of_le, getLsbD_append, Nat.reduceLT, ↓reduceIte, Nat.reduceSub]
  simp

theorem qset_mstatWords (q : BitVec 4) (d : Reg) : ((mstatWords q d).getD 0 0).extractLsb' 48 4 = q := by
  simp (disch := omega) only [mstatWords, List.getD_cons_zero, extractLsb'_append_eq_of_add_le, extractLsb'_append_eq_of_le]
  simp

theorem dst_mstatWords (q : BitVec 4) (d : Reg) : ((mstatWords q d).getD 0 0).extractLsb' 32 8 = d := by
  simp (disch := omega) only [mstatWords, List.getD_cons_zero, extractLsb'_append_eq_of_add_le, extractLsb'_append_eq_of_le]
  simp

theorem ForkOps.ofWords_words (o : ForkOps) : ForkOps.ofWords (o.words.getD 0 0) (o.words.getD 1 0) = some o := by
  simp (disch := omega) only [ForkOps.ofWords, ForkOps.words, List.getD_cons_zero, List.getD_cons_succ,
    extractLsb'_append_eq_of_add_le, extractLsb'_append_eq_of_le]
  simp

theorem LaceOps.ofWords_words (o : LaceOps) : LaceOps.ofWords (o.words.getD 0 0) (o.words.getD 1 0) = o := by
  simp (disch := omega) only [LaceOps.ofWords, LaceOps.words, List.getD_cons_zero, List.getD_cons_succ,
    extractLsb'_append_eq_of_add_le, extractLsb'_append_eq_of_le, getLsbD_append, Nat.reduceLT, ↓reduceIte, Nat.reduceSub]
  simp

theorem LacegOps.ofWords_words (o : LacegOps) : LacegOps.ofWords (o.words.getD 0 0) (o.words.getD 1 0) = o := by
  simp (disch := omega) only [LacegOps.ofWords, LacegOps.words, List.getD_cons_zero, List.getD_cons_succ,
    extractLsb'_append_eq_of_add_le, extractLsb'_append_eq_of_le, getLsbD_append, Nat.reduceLT, ↓reduceIte, Nat.reduceSub]
  simp

/-! ### What the fields of a word name -/

theorem wordCount_pos {w : DWord} : 0 < wordCount w := by
  unfold wordCount opcodeWords
  split_ifs <;> omega

/-- The instruction that the fields at the head of a list of words name. -/
def namedIn (ws : List DWord) : Except Illegal Instr := candidate (ws.getD 0 0) (ws.getD 1 0) (ws.getD 2 0) (ws.getD 3 0)

/-- `decode` answers an instruction just where the fields name it, it is well-formed, and its encoding stands there,
whole (R99, R112). -/
theorem decode_eq_ok {ws : List DWord} {i : Instr} : decode ws = .ok i ↔ ws ≠ [] ∧ wordCount (ws.headD 0) ≤ ws.length
    ∧ namedIn ws = .ok i ∧ i.wf = true ∧ encode i = ws.take (wordCount (ws.headD 0)) := by
  cases ws with
  | nil => simp [decode]
  | cons w rest =>
    have hc : candidate w (rest.getD 0 0) (rest.getD 1 0) (rest.getD 2 0) = namedIn (w :: rest) := rfl
    simp only [decode, hc, List.headD_cons, List.length_cons]
    cases namedIn (w :: rest) with
    | error e => split <;> simp
    | ok j =>
      by_cases hj : j = i
      · subst hj
        by_cases hn : rest.length + 1 < wordCount w
        · simp [hn, Nat.not_le.mpr hn]
        · by_cases hwf : j.wf = true <;> simp [hn, Nat.not_lt.mp hn, hwf]
      · simp only [Except.ok.injEq, hj]
        split_ifs <;> simp [hj]

/-- The words of an instruction are as many as their opcode says, and their fields name it, whatever stands after them. -/
structure Readable (i : Instr) : Prop where
  count : Statement i
  named : ∀ rest, namedIn (encode i ++ rest) = .ok i

/-- A readable instruction that is well-formed and has words decodes to itself. -/
theorem Readable.decode_encode {i : Instr} (h : Readable i) (hwf : i.wf = true) (hw : isEvent i = false) (rest : List DWord) :
    decode (encode i ++ rest) = .ok i := by
  have hnamed := h.named rest
  cases he : encode i with
  | nil => simp [isEvent, he] at hw
  | cons w ws =>
    have hcount : ws.length + 1 = wordCount w := h.count w ws he
    rw [he] at hnamed
    refine decode_eq_ok.mpr ⟨by simp, ?_, hnamed, hwf, ?_⟩
    · simp [← hcount]
    · simp [he, ← hcount]

/-! ### One rule per format -/

section
variable {i : Instr} {opc : BitVec 8} {sub : BitVec 4}

theorem Readable.f3 {o : F3} (he : encode i = [o.word opc sub]) (hf : fmtOf opc.toNat = some .f3)
    (hn : 1 = opcodeWords opc.toNat) (hp : pickF3 opc.toNat sub o = .ok i) : Readable i where
  count := of_words i _ opc he (f3_top opc sub o) hn
  named rest := by simp [namedIn, candidate, he, f3_top, hf, F3.sub_word, F3.ofWord_word, hp]

theorem Readable.fri {o : FRI} (he : encode i = [o.word opc sub]) (hf : fmtOf opc.toNat = some .fri)
    (hn : 1 = opcodeWords opc.toNat) (hp : pickFRI opc.toNat sub o = .ok i) : Readable i where
  count := of_words i _ opc he (fri_top opc sub o) hn
  named rest := by simp [namedIn, candidate, he, fri_top, hf, FRI.sub_word, FRI.ofWord_word, hp]

theorem Readable.fbr {o : FBR} (he : encode i = [o.word opc]) (hf : fmtOf opc.toNat = some .fbr)
    (hn : 1 = opcodeWords opc.toNat) (hp : pickFBR opc.toNat o = .ok i) : Readable i where
  count := of_words i _ opc he (fbr_top opc o) hn
  named rest := by simp [namedIn, candidate, he, fbr_top, hf, FBR.ofWord_word, hp]

theorem Readable.fmem {o : FMem} (he : encode i = [o.word opc sub]) (hf : fmtOf opc.toNat = some .fmem)
    (hn : 1 = opcodeWords opc.toNat) (hp : pickFMem opc.toNat sub o = .ok i) : Readable i where
  count := of_words i _ opc he (fmem_top opc sub o) hn
  named rest := by simp [namedIn, candidate, he, fmem_top, hf, FMem.sub_word, FMem.ofWord_word, hp]

/-- Format F-M: two words. -/
theorem Readable.fm {ws : List DWord} (ht : (ws.headD 0).extractLsb' 56 8 = opc) (he : encode i = ws) (hl : ws.length = 2)
    (hf : fmtOf opc.toNat = some .wide) (hn : 2 = opcodeWords opc.toNat)
    (hp : ∀ w2 w3, pickWide opc.toNat (ws.getD 0 0) (ws.getD 1 0) w2 w3 = .ok i) : Readable i where
  count := of_words i _ opc he ht (hl.trans hn)
  named rest := by
    obtain ⟨w0, w1, rfl⟩ := List.length_eq_two.mp hl
    simp only [List.headD_cons, List.getD_cons_zero, List.getD_cons_succ] at ht hp
    simp [namedIn, candidate, he, ht, hf, hp]

/-- Format F-N: four words. -/
theorem Readable.fn {ty : BitVec 4} {n : FN} (he : encode i = n.words opc sub ty) (hf : fmtOf opc.toNat = some .wide)
    (hn : 4 = opcodeWords opc.toNat)
    (hp : pickWide opc.toNat ((n.words opc sub ty).getD 0 0) ((n.words opc sub ty).getD 1 0) ((n.words opc sub ty).getD 2 0)
      ((n.words opc sub ty).getD 3 0) = .ok i) : Readable i where
  count := of_words i _ opc he (fn_top opc sub ty n) hn
  named rest := by
    have ht : ((n.words opc sub ty).getD 0 0).extractLsb' 56 8 = opc := fn_top opc sub ty n
    rw [he]
    show candidate ((n.words opc sub ty).getD 0 0) ((n.words opc sub ty).getD 1 0) ((n.words opc sub ty).getD 2 0)
      ((n.words opc sub ty).getD 3 0) = _
    simp only [candidate, ht, hf, hp]

end

/-! ### The instructions of more than one word -/

theorem readable_mlds (o : MldsOps) : Readable (.mlds o) :=
  .fm (mlds_top o none) rfl rfl rfl rfl fun _ _ => by
    simp only [pickWide, BitVec.toNat_ofNat, o.bar_words_none, o.ofWords_words, Bool.false_eq_true, ↓reduceIte]

theorem readable_mldsBar (o : MldsOps) (b : BarOps) : Readable (.mldsBar o b) :=
  .fm (mlds_top o (some b)) rfl rfl rfl rfl fun _ _ => by
    simp only [pickWide, BitVec.toNat_ofNat, o.bar_words_some, o.ofWords_words, b.ofWord_words, ↓reduceIte]

theorem readable_mswap (q : BitVec 4) : Readable (.mswap q) :=
  .fm (qset_top 0xA1#8 q) rfl rfl rfl rfl fun _ _ => by simp only [pickWide, BitVec.toNat_ofNat, qset_qsetWords]

theorem readable_mfuse (q : BitVec 4) : Readable (.mfuse q) :=
  .fm (qset_top 0xA6#8 q) rfl rfl rfl rfl fun _ _ => by simp only [pickWide, BitVec.toNat_ofNat, qset_qsetWords]

theorem readable_mstat (q : BitVec 4) (d : Reg) : Readable (.mstat q d) :=
  .fm (mstat_top q d) rfl rfl rfl rfl fun _ _ => by
    simp only [pickWide, BitVec.toNat_ofNat, qset_mstatWords, dst_mstatWords]

theorem readable_mzero (o : MzeroOps) : Readable (.mzero o) :=
  .fm (mzero_top o) rfl rfl rfl rfl fun _ _ => by simp only [pickWide, BitVec.toNat_ofNat, o.ofWord_words]

theorem readable_mloop (o : MloopOps) : Readable (.mloop o) :=
  .fm (mloop_top o) rfl rfl rfl rfl fun _ _ => by simp only [pickWide, BitVec.toNat_ofNat, o.ofWords_words, Option.elim_some]

theorem readable_mdrain (o : MdrainOps) : Readable (.mdrain o) :=
  .fm (mdrain_top o) rfl rfl rfl rfl fun _ _ => by simp only [pickWide, BitVec.toNat_ofNat, o.ofWords_words, Option.elim_some]

theorem readable_mcomp (o : McompOps) : Readable (.mcomp o) :=
  .fm (mcomp_top o) rfl rfl rfl rfl fun _ _ => by simp only [pickWide, BitVec.toNat_ofNat, o.ofWords_words]

theorem readable_mread (o : MreadOps) : Readable (.mread o) :=
  .fm (mread_top o) rfl rfl rfl rfl fun _ _ => by simp only [pickWide, BitVec.toNat_ofNat, o.ofWord_words]

theorem readable_fork (o : ForkOps) : Readable (.fork o) :=
  .fm (fork_top o) rfl rfl rfl rfl fun _ _ => by simp only [pickWide, BitVec.toNat_ofNat, o.ofWords_words, Option.elim_some]

theorem readable_lace (o : LaceOps) : Readable (.lace o) :=
  .fm (lace_top o) rfl rfl rfl rfl fun _ _ => by simp only [pickWide, BitVec.toNat_ofNat, o.ofWords_words]

theorem readable_laceg (o : LacegOps) : Readable (.laceg o) :=
  .fm (laceg_top o) rfl rfl rfl rfl fun _ _ => by simp only [pickWide, BitVec.toNat_ofNat, o.ofWords_words]

theorem readable_nest (op : NestOp) (ty : Ty) (n : FN) : Readable (.nest op ty n) :=
  .fn (opc := 0xB0#8) rfl rfl rfl (by
    simp only [pickWide, BitVec.toNat_ofNat, FN.sub_words, FN.ty_words, FN.ofWords_words, NestOp.ofCode_code, Ty.ofCode_code])

theorem readable_ragged (pr : BitVec 3) (n : FN) : Readable (.ragged pr n) :=
  .fn (opc := 0xB1#8) rfl rfl rfl (by
    simp only [pickWide, BitVec.toNat_ofNat, FN.pr_words, FN.noSub_words, FN.ofWords_words, Bool.false_eq_true, ↓reduceIte])

/-! ### One-word instructions whose SUB is a number -/

theorem readable_bwatch (slot : BitVec 3) (o : FMem) : Readable (.bwatch slot o) :=
  .fmem rfl rfl rfl (by
    have hhigh : (0#1 ++ slot).getLsbD 3 = false := by simp only [getLsbD_append]; simp
    have hlow : (0#1 ++ slot).extractLsb' 0 3 = slot := by rw [extractLsb'_append_eq_of_add_le le_rfl, BitVec.extractLsb'_eq_self]
    show (if (0#1 ++ slot).getLsbD 3 = true then _ else _) = _
    simp only [hhigh, hlow, Bool.false_eq_true, ↓reduceIte])

theorem readable_awlmodeOn {cls : BitVec 4} (o : FMem) (h : cls ≠ 0) : Readable (.awlmodeOn cls o) :=
  .fmem rfl rfl rfl (by
    obtain ⟨n, hn⟩ := Nat.exists_eq_succ_of_ne_zero (fun h0 => h (BitVec.eq_of_toNat_eq h0) : cls.toNat ≠ 0)
    simp only [pickFMem, hn]
    rfl)

/-! ### Every instruction -/

/-- Opcode and SUB name the constructor. Where SUB codes a variant, it is read back for each one; `awlmode` of class 0 is
`awlmodeOff`, which is why `awlmodeOn` must be well-formed; the steps of the package have no words. -/
theorem readable_of_wf {i : Instr} (hwf : i.wf = true) (hw : isEvent i = false) : Readable i := by
  cases i with
  | add o | sub o | mul o | mulh o | div o | rem o | min o | max o | lea o | and o | or o | xor o | andn o | rot o
    | popc o | clz o | ffs o | brev o | bfe o | bfi o | clmul o | sel o | pand o | por o | pxor o | pnot o | nop o
    | tfence o | getf o | getfClr o | clrf o | clrfFen o | clrfLoad o | rdsr o | fadd o | fsub o | fmul o | ffma o
    | fmin o | fmax o | fdiv o | fscale o | fclass o | fdot2 o | frcp o | frsq o | fsqrt o | fexp2 o | flog2 o
    | fsin o | fcos o | ftanh o | packOx4 o | unpackOx4 o | pick o | tabt o | tstat o | placef o | undecl o
    | placeq o | rdv o | awlmac o | awlrd o | rfh o | rfhSkip o | tmaskOff o | tmaskOn o =>
    exact .f3 rfl rfl rfl rfl
  | mad k o | add64 k o | sub64 k o | mul64 k o | dp4 k o | shl k o | shr k o | sar k o | icmp k o | fcmp k o
    | pset k o | fround k o | cvt k o | pack k o | unpack k o | xchg k o | vote k o | matchOp k o | redux k o
    | lid k o | awlbc k o =>
    exact .f3 rfl rfl rfl (by cases k <;> rfl)
  | prefixOp k b o | segm k b o => exact .f3 rfl rfl rfl (by cases k <;> cases b <;> rfl)
  | li o | liSx o | liZx o | wait o | trap o | brk o | hcall o => exact .fri rfl rfl rfl rfl
  | br o | brdiv o | join o | call o | ret o | exit o | brx o | hset o => exact .fbr rfl rfl rfl rfl
  | setfe o | clrfe o | tbeg o | tend o | fence o | barinit o | arrive o | arriveInb o | arriveOutb o | awlmodeOff o =>
    exact .fmem rfl rfl rfl rfl
  | ld k o | st k o | ldu k o | stu k o | lds k o | sts k o | ldc k o | stc k o | ldk k o | atom k o | atomcas k o
    | red k o | atomf k o | redf k o | pathf k o | barwait k o | decl k o | redecl k o =>
    exact .fmem rfl rfl rfl (by cases k <;> rfl)
  | bwatch slot o => exact readable_bwatch slot o
  | mlds o => exact readable_mlds o
  | mldsBar o bar => exact readable_mldsBar o bar
  | mswap qset => exact readable_mswap qset
  | mloop o => exact readable_mloop o
  | mdrain o => exact readable_mdrain o
  | mzero o => exact readable_mzero o
  | mcomp o => exact readable_mcomp o
  | mfuse qset => exact readable_mfuse qset
  | mread o => exact readable_mread o
  | mstat qset dst => exact readable_mstat qset dst
  | nest op ty n => exact readable_nest op ty n
  | ragged pr n => exact readable_ragged pr n
  | fork o => exact readable_fork o
  | lace o => exact readable_lace o
  | laceg o => exact readable_laceg o
  | awlmodeOn cls o =>
    have hcls : cls ≠ 0 := by
      rintro rfl
      simp [Instr.legal] at hwf
    exact readable_awlmodeOn o hcls
  | _ => cases hw

end Sys2Proof
end

/-- Settles O35: the fields of every encoding name its instruction, whatever stands after it. -/
theorem decodeEncode : Obligations.DecodeEncode := by
  unfold Obligations.DecodeEncode
  intro i rest hwf hw
  exact (Sys2Proof.readable_of_wf hwf hw).decode_encode hwf hw rest

/-- Settles O36: `decode` itself checks well-formedness and the words; that no other instruction has them is O35. -/
theorem decodeSound : Obligations.DecodeSound := by
  unfold Obligations.DecodeSound
  intro ws i h
  obtain ⟨hne, -, -, hwf, he⟩ := Sys2Proof.decode_eq_ok.mp h
  have hw : Sys2Proof.Machine.isEvent i = false := by
    simp [Sys2Proof.Machine.isEvent, he, hne, Sys2Proof.wordCount_pos.ne']
  have hself : Sys2Proof.decode (Sys2Proof.encode i) = .ok i := by simpa using decodeEncode i [] hwf hw
  exact ⟨hwf, hw, he, fun j hj => (Except.ok.inj (hself.symm.trans hj)).symm⟩

/-- Settles O37, by evaluation of the decoder on each word. -/
theorem wordsDecode : Obligations.WordsDecode := by
  unfold Obligations.WordsDecode
  exact ⟨rfl, rfl, rfl, rfl, rfl, rfl, rfl⟩

section
/-! PROOF. Integer, logic and predicate instructions (O2, O4 to O7): which values the operands of a form can hold, so that a
value formula need agree with the model's on those alone; and the descriptions whose forms the statements name. Here and
in the sections for O2 and O4 to O7 proofs are elaborated one after another: their threads together exceed the memory of
the check. -/

namespace Sys2Proof.Claims
set_option Elab.async false
open Sys2Proof.Machine

/-! ### Operands (R42, R104, R130) -/

/-- A value that an operand can hold: its literal, one register, a pair, or a truth value. -/
def gives : Src → DWord → Prop
  | .reg _ n lit, v => v = lit ∨ n = 2 ∨ v.toNat < 2 ^ 32
  | .pcode _, v => ∃ b, v = boolOp b
  | .sel _, v => ∃ b, v = boolOp b

section
variable {s s' : State} {t : Team}

theorem toNat_setWidth_word (x : Word) : (x.setWidth 64).toNat < 2 ^ 32 := by
  have := x.isLt
  rw [BitVec.toNat_setWidth]
  omega

theorem uniVal_gives (r : Reg) (n : Nat) : n = 2 ∨ (s.uniVal t r n).toNat < 2 ^ 32 := by
  unfold State.uniVal
  split
  · exact .inr (by decide)
  · split
    · exact .inl ‹_›
    · exact .inr (toNat_setWidth_word _)

theorem laneRegs_gives (l : Lane) (r : Reg) (n : Nat) : n = 2 ∨ (laneRegs l r n).toNat < 2 ^ 32 := by
  unfold laneRegs
  split
  · exact .inr (by decide)
  · split
    · exact .inl ‹_›
    · exact .inr (toNat_setWidth_word _)

theorem uniSrc_gives (x : Src) : gives x (s.uniSrc t x) := by
  cases x with
  | reg r n lit =>
    simp only [State.uniSrc]
    split
    · exact .inl rfl
    · exact .inr (uniVal_gives r n)
  | pcode c => exact ⟨_, rfl⟩
  | sel p => exact ⟨_, rfl⟩

theorem laneSrc_gives (l : Lane) (x : Src) : gives x (s.laneSrc t l x) := by
  cases x with
  | reg r n lit =>
    simp only [State.laneSrc]
    split
    · exact .inr (laneRegs_gives l r n)
    · split
      · exact .inl rfl
      · exact .inr (uniVal_gives r n)
  | pcode c => exact ⟨_, rfl⟩
  | sel p => exact ⟨_, rfl⟩

/-- The effect of a form depends on its value formula only at values that its operands can hold. -/
theorem done_congr {f : Form} {g g' : List DWord → DWord × Flags} (h : f.Done g s s' t)
    (hg : ∀ l, List.Forall₂ gives f.srcs l → g l = g' l) : f.Done g' s s' t := by
  have hmap (v : Src → DWord) (hv : ∀ x, gives x (v x)) : g (f.srcs.map v) = g' (f.srcs.map v) :=
    hg _ (by rw [List.forall₂_map_right_iff]; exact List.forall₂_same.2 fun x _ => hv x)
  have huni := hmap _ (uniSrc_gives (s := s) (t := t))
  have hlane := fun l => hmap _ (laneSrc_gives (s := s) (t := t) l)
  exact ⟨h.frame, by simpa only [hlane] using h.lanes, h.off, by simpa only [huni] using h.on⟩

end

theorem computes_congr_gives {i : Instr} {f : Form} {g g' : List DWord → DWord × Flags} (h : Computes i f g)
    (hg : i.wf = true → ∀ l, List.Forall₂ gives f.srcs l → g l = g' l) : Computes i f g' := by
  intro s t hw hr c
  obtain ⟨s', hexec, hdone⟩ := h s t hw hr c
  exact ⟨s', hexec, done_congr hdone (hg hw)⟩

/-- What operand `i` can hold. -/
theorem gives_opAt {srcs : List Src} {l : List DWord} (h : List.Forall₂ gives srcs l) {i : Nat} {x : Src} (hx : srcs[i]? = some x) :
    gives x (opAt l i) := by
  induction h generalizing i with
  | nil => simp at hx
  | cons hv _ ih =>
    cases i with
    | zero => exact (by simpa using hx : _ = x) ▸ hv
    | succ i => exact ih (by simpa using hx)

/-- An operand of an unsigned type is as wide as the type. -/
theorem lt_of_gives {ty : Ty} {r : Reg} {imm : Byte} {v : DWord} (hty : ty = .n32 ∨ ty = .n64)
    (h : gives (srcOf ty r imm) v) : v.toNat < 2 ^ Ty.elemBits ty := by
  rcases hty with rfl | rfl
  · rcases h with rfl | h | h
    · have := imm.isLt
      simp only [litVal, Ty.elemBits, BitVec.toNat_setWidth]
      omega
    · exact absurd h (by decide)
    · exact h
  · exact v.isLt

/-! ### Types and literals (R71, R104) -/

/-- A one-register literal under an integer type. -/
theorem word32_eq_litNarrow {o : F3} (hty : o.ty ∈ Ty.ints) : word32 o = litNarrow o.ty o.imm := by
  unfold word32
  generalize o.ty = ty at hty
  simp only [Ty.ints, List.mem_cons, List.not_mem_nil, or_false] at hty
  rcases hty with rfl | rfl | rfl | rfl | rfl | rfl | rfl | rfl <;> rfl

/-- A source of a 32-bit integer type is one register. -/
theorem srcOf_eq_word32 {o : F3} (hty : o.ty ∈ [Ty.i32, .n32]) (r : Reg) : srcOf o.ty r o.imm = .reg r 1 (word32 o) := by
  unfold word32
  generalize o.ty = ty at hty
  simp only [List.mem_cons, List.not_mem_nil, or_false] at hty
  rcases hty with rfl | rfl <;> rfl

/-- A source of a type takes as many registers as the type. -/
theorem srcOf_eq_of_regs {ty : Ty} {n : Nat} (h : Ty.regs ty = n) (r : Reg) (imm : Byte) : srcOf ty r imm = .reg r n (litVal ty imm) := by
  rw [srcOf, h]

/-! ### Descriptions -/

/-- A plain description whose destination is a predicate code fits the form with its predicate and sources. -/
theorem fits_of_pcode {d : OpDesc} {p : Pred} {c : Byte} {srcs : List Src} {g : List DWord → DWord × Flags}
    (h : d = { plainDesc p (.pcode c) srcs g with rule := .anyCore }) (hsrcs : ∀ y ∈ srcs, ∀ x ∈ y.regs, 0 < x.2) :
    d.Fits ⟨p, .pcode c, srcs⟩ g where
  pred := by rw [h]; rfl
  dst := by rw [h]; rfl
  dst2 := by rw [h]; rfl
  srcs := by rw [h]; rfl
  rule := by rw [h]; exact .inr rfl
  uni := by rw [h]; rfl
  core := by rw [h]; rfl
  l2u := by rw [h]; rfl
  body := by rw [h]; rfl
  noLit r n h' := by cases h'
  pos x hx := by
    simp only [Form.regs, Dst.regs, List.nil_append, List.mem_flatMap] at hx
    obtain ⟨y, hy, hx⟩ := hx
    exact hsrcs y hy x hx

/-- An instruction carried out by a plain description into a register, where `f` is the form of a well-formed word. -/
theorem computes_plain {o : F3} {i : Instr} {n : Nat} {srcs : List Src} {f : Form} {g : List DWord → DWord × Flags}
    {opc : BitVec 8} {sub : BitVec 4} (rmw : Bool)
    (hexec : ∀ s, exec i s = .next (s.issueDesc i { plainDesc o.p (.reg o.d n) srcs g with rmw := rmw }))
    (hlit : i.wf = true → o.d ≠ Reg.lit) (hform : i.wf = true → (⟨o.p, .reg o.d n, srcs⟩ : Form) = f) (hn : 0 < n)
    (henc : encode i = [o.word opc sub]) (hopc : abortsSpan opc.toNat = false)
    (hpos : ∀ y ∈ srcs, ∀ x ∈ y.regs, 0 < x.2 := by simp [srcOf, Src.regs, regs_pos]) : Computes i f g :=
  computes_of_fits hexec (fun hw => hform hw ▸ fits_of_plain rfl (.inl rfl) (hlit hw) hn hpos) henc hopc

end Sys2Proof.Claims
end

section
/-! PROOF. Wide integers (O2). -/

namespace Sys2Proof.Claims
set_option Elab.async false
open Sys2Proof.Machine

/-! ### Values (R116 to R119) -/

theorem el_whole (v : DWord) : el 64 0 v = v := by
  apply BitVec.eq_of_toNat_eq
  rw [toNat_el_zero, Nat.mod_eq_of_lt v.isLt]

/-- An exact result brought to a type, as one value. -/
theorem one_fitInt (w : Nat) (sgn sat : Bool) (x : Int) :
    ((BitVec.ofNat 64 (fitInt w sgn sat x).1, (fitInt w sgn sat x).2) : DWord × Flags) = one (fit w sgn sat x) := by
  rw [fitInt_eq_fit, ofNat_eq_setWidth, one]

theorem wideVal_eq_wide (sgn sat : Bool) {wa wb : Nat} (ha : 0 < wa) (hb : 0 < wb) (x : Int → Int → Int → Int) :
    wideVal sgn sat wa wb x = wide sgn sat wa wb x := by
  funext l
  simp only [wideVal, wide, valOf_operand ha, valOf_operand hb, valOf_operand (w := 64) (by norm_num), el_whole]
  exact one_fitInt ..

theorem mulhVal_eq (ty : Ty) : mulhVal ty = fun l =>
    ((BitVec.ofInt 64 (num (Ty.signed ty) (el 32 0 (opAt l 0)) * num (Ty.signed ty) (el 32 0 (opAt l 1)))) >>> 32, 0) := by
  funext l
  simp only [mulhVal, valOf_operand (w := 32) (by norm_num), wrapTo_eq_ofInt]
  refine Prod.ext (BitVec.eq_of_toNat_eq ?_) rfl
  rw [BitVec.toNat_ofNat, BitVec.toNat_ushiftRight, Nat.shiftRight_eq_div_pow]
  exact Nat.mod_eq_of_lt (lt_of_le_of_lt (Nat.div_le_self _ _) (BitVec.isLt _))

/-- A number of 32 bits extended to 64 (R118). -/
theorem ofInt_num_word (sgn : Bool) (b : Word) : BitVec.ofInt 64 (num sgn b) = if sgn then b.signExtend 64 else b.setWidth 64 := by
  cases sgn
  · simp [num]
  · rfl

theorem leaVal_eq (ty : Ty) (sh : Nat) : leaVal ty sh = fun l =>
    (opAt l 0 + (if Ty.signed ty then (el 32 0 (opAt l 1)).signExtend 64 else (el 32 0 (opAt l 1)).setWidth 64) <<< sh, 0) := by
  funext l
  refine Prod.ext ?_ rfl
  simp only [leaVal, valOf_operand (w := 32) (by norm_num), ofNat_wrapTo, ← ofInt_num_word, BitVec.shiftLeft_eq_mul_twoPow]
  rw [BitVec.ofInt_add, BitVec.ofInt_mul, BitVec.setWidth_eq, BitVec.ofInt_natCast, BitVec.ofInt_natCast, BitVec.ofNat_toNat,
    BitVec.setWidth_eq]
  congr 2
  apply BitVec.eq_of_toNat_eq
  simp

theorem dp4Val_eq (sa sb sat : Bool) : dp4Val sa sb sat = fun l =>
    let p (e : Nat) : Int := num sa (el 8 e (opAt l 0)) * num sb (el 8 e (opAt l 1))
    one (fit 32 sa sat (num sa (el 32 0 (opAt l 2)) + (p 0 + p 1 + p 2 + p 3))) := by
  funext l
  simp only [dp4Val, elemOf_eq_el, valOf_eq_num (w := 8) (by norm_num), valOf_operand (w := 32) (by norm_num)]
  exact one_fitInt ..

/-! ### Instructions (R116 to R119) -/

section
variable {o : F3}

theorem computes_mad : Computes (.mad false o) (tern o) (elemwise o.ty o.sat (fun a b c => a * b + c)) := by
  rw [← intElems_eq_elemwise]
  exact computes_plain false (fun _ => rfl) (fun hw => ne_lit_of_rule hw rfl) (fun _ => rfl) (regs_pos _) rfl rfl

theorem computes_madWide : Computes (.mad true o)
    ⟨o.p, .reg o.d 2, [.reg o.a 1 (word32 o), .reg o.b 1 (word32 o), .reg o.c 2 (litVal (pairTy o) o.imm)]⟩
    (wide (Ty.signed o.ty) o.sat 32 32 (fun a b c => a * b + c)) := by
  rw [← wideVal_eq_wide _ _ (by norm_num) (by norm_num)]
  exact computes_plain false (fun _ => rfl) (fun hw => ne_lit_of_rule hw rfl)
    (fun hw => by rw [srcOf_eq_word32 (ty_of_rule hw), srcOf_eq_word32 (ty_of_rule hw)]; rfl) (by norm_num) rfl rfl

theorem regs_of_pair {ty : Ty} (hty : ty ∈ [Ty.i64, .n64]) : Ty.regs ty = 2 := by
  simp only [List.mem_cons, List.not_mem_nil, or_false] at hty
  rcases hty with rfl | rfl <;> rfl

/-- The form of an instruction on pairs. -/
theorem pairForm_eq_bin (hty : o.ty ∈ [Ty.i64, .n64]) :
    (⟨o.p, .reg o.d 2, [srcOf o.ty o.a o.imm, srcOf o.ty o.b o.imm]⟩ : Form) = bin o := by
  rw [bin, srcOf, srcOf, regs_of_pair hty]

/-- `add64` and `sub64` on pairs (R117). -/
theorem computes_64 {i : Instr} {x : Int → Int → Int → Int} {opc : BitVec 8} {sub : BitVec 4}
    (hexec : ∀ s, exec i s = .next (s.issueDesc i (desc64 false o x))) (hwf : i.wf = (Instr.add64 false o).wf)
    (henc : encode i = [o.word opc sub]) (hopc : abortsSpan opc.toNat = false) :
    Computes i (bin o) (wide (Ty.signed o.ty) o.sat 64 64 x) := by
  rw [← wideVal_eq_wide _ _ (by norm_num) (by norm_num)]
  exact computes_plain false hexec (fun hw => ne_lit_of_rule (hwf ▸ hw) rfl) (fun hw => pairForm_eq_bin (ty_of_rule (hwf ▸ hw)))
    (by norm_num) henc hopc

/-- `add64` and `sub64` with a B of 32 bits (R117). -/
theorem computes_64x32 {i : Instr} {x : Int → Int → Int → Int} {opc : BitVec 8} {sub : BitVec 4}
    (hexec : ∀ s, exec i s = .next (s.issueDesc i (desc64 true o x))) (hwf : i.wf = (Instr.add64 true o).wf)
    (henc : encode i = [o.word opc sub]) (hopc : abortsSpan opc.toNat = false) :
    Computes i ⟨o.p, .reg o.d 2, [.reg o.a 2 (litVal o.ty o.imm), .reg o.b 1 (word32 o)]⟩
      (wide (Ty.signed o.ty) o.sat 64 32 x) := by
  rw [← wideVal_eq_wide _ _ (by norm_num) (by norm_num)]
  refine computes_plain false hexec (fun hw => ne_lit_of_rule (hwf ▸ hw) rfl) (fun hw => ?_) (by norm_num) henc hopc
  have hty : o.ty ∈ [Ty.i64, .n64] := ty_of_rule (hwf ▸ hw)
  rw [srcOf_eq_of_regs (regs_of_pair hty), word32_eq_litNarrow ((show [Ty.i64, .n64] ⊆ Ty.ints by decide) hty), if_pos rfl]

theorem computes_mul64 : Computes (.mul64 false o) (bin o) (wide (Ty.signed o.ty) o.sat 64 64 (fun a b _ => a * b)) := by
  rw [← wideVal_eq_wide _ _ (by norm_num) (by norm_num)]
  exact computes_plain false (fun _ => rfl) (fun hw => ne_lit_of_rule hw rfl) (fun hw => pairForm_eq_bin (ty_of_rule hw))
    (by norm_num) rfl rfl

theorem computes_mul64Wide : Computes (.mul64 true o) ⟨o.p, .reg o.d 2, [.reg o.a 1 (word32 o), .reg o.b 1 (word32 o)]⟩
    (wide (Ty.signed o.ty) false 32 32 (fun a b _ => a * b)) := by
  rw [← wideVal_eq_wide _ _ (by norm_num) (by norm_num)]
  exact computes_plain false (fun _ => rfl) (fun hw => ne_lit_of_rule hw rfl)
    (fun hw => by rw [srcOf_eq_word32 (ty_of_rule hw), srcOf_eq_word32 (ty_of_rule hw)]) (by norm_num) rfl rfl

theorem computes_lea : Computes (.lea o) ⟨o.p, .reg o.d 2, [.reg o.a 2 (litVal (pairTy o) o.imm), .reg o.b 1 0]⟩
    (leaVal o.ty (o.imm.toNat % 8)) :=
  computes_plain false (fun _ => rfl)
    (fun hw => by
      simp only [Instr.wf, Instr.legal, Bool.and_eq_true] at hw
      exact ne_lit_of_rule hw.1 rfl)
    (fun _ => rfl) (by norm_num) rfl rfl

theorem computes_dp4 (su : Bool) : Computes (.dp4 su o)
    ⟨o.p, .reg o.d 1, [.reg o.a 1 (litVal o.ty o.imm), .reg o.b 1 (litVal o.ty o.imm),
      .reg o.c 1 (litVal (if Ty.signed o.ty then .i32 else .n32) o.imm)]⟩
    (dp4Val (Ty.signed o.ty) (Ty.signed o.ty && !su) o.sat) := by
  refine computes_plain false (fun _ => rfl) (fun hw => ne_lit_of_rule hw rfl) (fun hw => ?_) (by norm_num) rfl rfl
  have hregs : Ty.regs o.ty = 1 := by
    have hty : o.ty ∈ (if su then [Ty.i8x4] else [.i8x4, .n8x4]) := ty_of_rule hw
    generalize o.ty = ty at hty
    cases su <;> simp at hty
    · rcases hty with rfl | rfl <;> rfl
    · subst hty; rfl
  rw [srcOf_eq_of_regs hregs, srcOf_eq_of_regs hregs]

end

end Sys2Proof.Claims
end

/-- Settles O2: exact products and sums brought to their types, in the terms of bit vectors. -/
theorem wideIntegers : Obligations.WideIntegers := by
  unfold Obligations.WideIntegers
  intro o
  refine ⟨?_, Sys2Proof.Claims.computes_mad, Sys2Proof.Claims.computes_madWide,
    Sys2Proof.Claims.computes_64 (fun _ => rfl) rfl rfl rfl, Sys2Proof.Claims.computes_64 (fun _ => rfl) rfl rfl rfl,
    Sys2Proof.Claims.computes_64x32 (fun _ => rfl) rfl rfl rfl, Sys2Proof.Claims.computes_64x32 (fun _ => rfl) rfl rfl rfl,
    Sys2Proof.Claims.computes_mul64, Sys2Proof.Claims.computes_mul64Wide, ?_, fun su => ?_⟩
  · rw [← Sys2Proof.Claims.mulhVal_eq]
    exact Sys2Proof.Claims.computes_of_descBin (fun _ => rfl) rfl rfl rfl
  · have hsh : (o.imm.extractLsb' 0 3).toNat = o.imm.toNat % 8 := by simp
    rw [hsh, ← Sys2Proof.Claims.leaVal_eq]
    exact Sys2Proof.Claims.computes_lea
  · rw [← Sys2Proof.Claims.dp4Val_eq]
    exact Sys2Proof.Claims.computes_dp4 su

section
/-! PROOF. Constants, bitwise logic and selection (O4). -/

namespace Sys2Proof.Claims
set_option Elab.async false
open Sys2Proof.Machine

/-! ### Values (R123, R128) -/

/-- The bits of a whole integer type are its one element. -/
theorem tyMask_eq {ty : Ty} (hty : ty ∈ Ty.wholeInts) (v : DWord) : tyMask ty v = (el (Ty.elemBits ty) 0 v).setWidth 64 := by
  have hword : v &&& 0xFFFF_FFFF = (el 32 0 v).setWidth 64 := by
    rw [← low_half]
    exact congrArg _ (BitVec.eq_of_toNat_eq (by rw [toNat_el_zero, BitVec.toNat_setWidth]))
  have hpair : v = (el 64 0 v).setWidth 64 := by rw [el_whole, BitVec.setWidth_eq]
  simp only [Ty.wholeInts, List.mem_cons, List.not_mem_nil, or_false] at hty
  rcases hty with rfl | rfl | rfl | rfl
  · exact hword
  · exact hword
  · exact hpair
  · exact hpair

section
variable (w : Nat) (a b : DWord)

theorem el_and : el w 0 (a &&& b) = el w 0 a &&& el w 0 b := by
  ext i hi; simp [el]

theorem el_or : el w 0 (a ||| b) = el w 0 a ||| el w 0 b := by
  ext i hi; simp [el]

theorem el_xor : el w 0 (a ^^^ b) = el w 0 a ^^^ el w 0 b := by
  ext i hi; simp [el]

theorem el_not {w : Nat} (hw : w ≤ 64) : el w 0 (~~~a) = ~~~el w 0 a := by
  ext i hi
  have h64 : i < 64 := by omega
  simp [el, h64]

end

theorem elemBits_le (ty : Ty) : Ty.elemBits ty ≤ 64 := by cases ty <;> decide

/-! ### Instructions (R120, R123, R128) -/

/-- A constant (R120). -/
theorem computes_const {o : FRI} {i : Instr} {n : Nat} {v : DWord} {opc : BitVec 8} {sub : BitVec 4}
    (hexec : ∀ s, exec i s = .next (s.issueDesc i (descConst o n v))) (hn : 0 < n) (hwf : i.wf = (o.d.okGroup n && o.a == 0))
    (henc : encode i = [o.word opc sub]) (hopc : abortsSpan opc.toNat = false) :
    Computes i ⟨o.p, .reg o.d n, []⟩ (fun _ => (v, 0)) := by
  intro s t hw hr c
  have hlit : o.d ≠ Reg.lit := ne_lit_of_okGroup (Bool.and_eq_true_iff.1 (hwf ▸ hw)).1
  have hfits : (descConst o n v).Fits ⟨o.p, .reg o.d n, []⟩ (fun _ => (v, 0)) := fits_of_plain rfl (.inl rfl) hlit hn (by simp)
  exact ⟨_, hexec s, issueDesc_done hr hfits c ((congrArg abortsSpan (opcOf_fri henc)).trans hopc)⟩

/-- Bitwise logic on the bits of a whole integer type (R123). -/
theorem computes_bitwise {o : F3} {i : Instr} {x : DWord → DWord → DWord}
    {y : BitVec (Ty.elemBits o.ty) → BitVec (Ty.elemBits o.ty) → BitVec (Ty.elemBits o.ty)} {opc : BitVec 8} {sub : BitVec 4}
    (hexec : ∀ s, exec i s = .next (s.issueDesc i (descBin o (fun l => (tyMask o.ty (x (opAt l 0) (opAt l 1)), 0)))))
    (hxy : ∀ a b, el (Ty.elemBits o.ty) 0 (x a b) = y (el (Ty.elemBits o.ty) 0 a) (el (Ty.elemBits o.ty) 0 b))
    (hwf : i.wf = legalBin Ty.wholeInts false o) (henc : encode i = [o.word opc sub]) (hopc : abortsSpan opc.toNat = false) :
    Computes i (bin o) (fun l =>
      one (y (el (Ty.elemBits o.ty) 0 (opAt l 0)) (el (Ty.elemBits o.ty) 0 (opAt l 1)), 0)) := by
  refine computes_congr (computes_of_descBin hexec hwf henc hopc) fun hw => ?_
  have hty : o.ty ∈ Ty.wholeInts := ty_of_rule (hwf ▸ hw : legalBin Ty.wholeInts false o = true)
  funext l
  rw [tyMask_eq hty, hxy, one]

theorem computes_sel {o : F3} : Computes (.sel o)
    ⟨o.p, .reg o.d (Ty.regs o.ty), [.reg o.a (Ty.regs o.ty) 0, .reg o.b (Ty.regs o.ty) 0,
      .sel ⟨o.imm.getLsbD 3, o.imm.extractLsb' 0 3⟩]⟩
    (fun l => (if opAt l 2 = 1 then opAt l 0 else opAt l 1, 0)) := by
  refine computes_congr_gives (g := fun l => (if opAt l 2 = 0 then opAt l 1 else opAt l 0, 0))
    (computes_plain false (fun _ => rfl) (fun hw => ?_) (fun _ => rfl) (regs_pos _) rfl rfl) fun _ l hl => ?_
  · simp only [Instr.wf, Instr.legal, Bool.and_eq_true] at hw
    exact ne_lit_of_rule hw.1 rfl
  · obtain ⟨q, hq⟩ := gives_opAt hl (i := 2) rfl
    rw [hq]
    cases q <;> rfl

end Sys2Proof.Claims
end

/-- Settles O4: constants, the bits of a type as its one element, and a selector that holds 0 or 1. -/
theorem constantsAndLogic : Obligations.ConstantsAndLogic := by
  unfold Obligations.ConstantsAndLogic
  refine ⟨fun o => ⟨?_, ?_, ?_⟩, fun o => ⟨?_, ?_, ?_, ?_, Sys2Proof.Claims.computes_sel⟩⟩
  · exact Sys2Proof.Claims.computes_const (fun _ => rfl) (by norm_num) rfl rfl rfl
  · exact Sys2Proof.Claims.computes_const (fun _ => rfl) (by norm_num) rfl rfl rfl
  · exact Sys2Proof.Claims.computes_const (fun _ => rfl) (by norm_num) rfl rfl rfl
  · exact Sys2Proof.Claims.computes_bitwise (fun _ => rfl) (Sys2Proof.Claims.el_and _) rfl rfl rfl
  · exact Sys2Proof.Claims.computes_bitwise (fun _ => rfl) (Sys2Proof.Claims.el_or _) rfl rfl rfl
  · exact Sys2Proof.Claims.computes_bitwise (fun _ => rfl) (Sys2Proof.Claims.el_xor _) rfl rfl rfl
  · refine Sys2Proof.Claims.computes_bitwise (x := fun a b => a &&& ~~~b) (y := fun a b => a &&& ~~~b) (fun _ => rfl)
      (fun a b => ?_) rfl rfl rfl
    rw [Sys2Proof.Claims.el_and, Sys2Proof.Claims.el_not _ (Sys2Proof.Claims.elemBits_le _)]

section
/-! PROOF. Shifts and rotations (O5): the model's shifts of naturals are those of bit vectors. -/

namespace Sys2Proof.Claims
set_option Elab.async false
open Sys2Proof.Machine

/-! ### One element (R124) -/

section
variable {w : Nat} (clamp : Bool) (a : BitVec w) (n : Nat)

theorem shiftLeft_min : a <<< min n w = a <<< n := by
  rcases Nat.le_total n w with h | h
  · rw [min_eq_left h]
  · rw [min_eq_right h, BitVec.shiftLeft_eq_zero h, BitVec.shiftLeft_eq_zero le_rfl]

theorem ushiftRight_min : a >>> min n w = a >>> n := by
  rcases Nat.le_total n w with h | h
  · rw [min_eq_left h]
  · rw [min_eq_right h, BitVec.ushiftRight_eq_zero h, BitVec.ushiftRight_eq_zero le_rfl]

theorem shiftElem_shl : shiftElem .shl clamp w a.toNat n = (Shift.shl.of clamp a n).toNat := by
  have hcount (m : Nat) : (if w ≤ m then 0 else a.toNat * 2 ^ m % 2 ^ w) = (a <<< m).toNat := by
    split
    · rw [BitVec.shiftLeft_eq_zero ‹_›]; rfl
    · rw [BitVec.toNat_shiftLeft, Nat.shiftLeft_eq]
  cases clamp
  · exact hcount _
  · exact (hcount n).trans (congrArg _ (shiftLeft_min a n).symm)

theorem shiftElem_shr : shiftElem .shr clamp w a.toNat n = (Shift.shr.of clamp a n).toNat := by
  have hcount (m : Nat) : (if w ≤ m then 0 else a.toNat / 2 ^ m) = (a >>> m).toNat := by
    split
    · rw [BitVec.ushiftRight_eq_zero ‹_›]; rfl
    · rw [BitVec.toNat_ushiftRight, Nat.shiftRight_eq_div_pow]
  cases clamp
  · exact hcount _
  · exact (hcount n).trans (congrArg _ (ushiftRight_min a n).symm)

theorem shiftElem_sar (hw : 0 < w) : shiftElem .sar clamp w a.toNat n = (Shift.sar.of clamp a n).toNat := by
  have hcount (m : Nat) : wrapTo w (valOf w true a.toNat / (2 ^ m : Nat)) = (a.sshiftRight m).toNat := by
    rw [valOf_eq_num hw, num, if_pos rfl, wrapTo_eq_ofInt, ← Int.shiftRight_eq_div_pow, ← BitVec.toInt_sshiftRight, BitVec.ofInt_toInt]
  cases clamp
  · have hmin : min (n % w) w = n % w := min_eq_left (Nat.mod_lt n hw).le
    exact (congrArg (fun m => wrapTo w (valOf w true a.toNat / (2 ^ m : Nat))) hmin).trans (hcount _)
  · exact hcount _

/-- A rotation puts the bits shifted out below the others. -/
theorem shiftElem_rot (hw : 0 < w) : shiftElem .rot false w a.toNat n = (Shift.rot.of false a n).toNat := by
  obtain ⟨m, hm⟩ : ∃ m, m = n % w := ⟨_, rfl⟩
  have hlt : m < w := hm ▸ Nat.mod_lt n hw
  have hsplit : 2 ^ w = 2 ^ m * 2 ^ (w - m) := by rw [← pow_add]; congr 1; omega
  have hhigh : a.toNat * 2 ^ m % 2 ^ w = 2 ^ m * (a.toNat % 2 ^ (w - m)) := by rw [Nat.mul_comm, hsplit, Nat.mul_mod_mul_left]
  have hlow : a.toNat / 2 ^ (w - m) < 2 ^ m := by
    rw [Nat.div_lt_iff_lt_mul (Nat.two_pow_pos _), ← hsplit]
    exact a.isLt
  have hsum : 2 ^ m * (a.toNat % 2 ^ (w - m)) + a.toNat / 2 ^ (w - m) < 2 ^ w := by
    have hmod : a.toNat % 2 ^ (w - m) + 1 ≤ 2 ^ (w - m) := Nat.mod_lt _ (Nat.two_pow_pos _)
    have := Nat.mul_le_mul_left (2 ^ m) hmod
    rw [← hsplit, Nat.mul_add] at this
    omega
  calc shiftElem .rot false w a.toNat n = (a.toNat * 2 ^ m + a.toNat / 2 ^ (w - m)) % 2 ^ w := by rw [hm]; rfl
    _ = 2 ^ m * (a.toNat % 2 ^ (w - m)) + a.toNat / 2 ^ (w - m) := by rw [← Nat.mod_add_mod, hhigh, Nat.mod_eq_of_lt hsum]
    _ = a.toNat * 2 ^ m % 2 ^ w ||| a.toNat / 2 ^ (w - m) := by rw [hhigh, Nat.two_pow_add_eq_or_of_lt hlow]
    _ = (a.rotateLeft m).toNat := by
      rw [BitVec.toNat_rotateLeft, Nat.mod_eq_of_lt hlt, Nat.shiftLeft_eq, Nat.shiftRight_eq_div_pow]
    _ = (Shift.rot.of false a n).toNat := by rw [hm]; rfl

end

/-! ### Instructions (R122, R124) -/

/-- A shift of every element whose elements the model shifts as bit vectors. -/
theorem shiftVal_eq_shifted {op : ShiftOp} {k : Shift} {clamp : Bool} (ty : Ty)
    (h : ∀ (a : BitVec (Ty.elemBits ty)) (n : Nat), shiftElem op clamp (Ty.elemBits ty) a.toNat n = (k.of clamp a n).toNat) :
    shiftVal op clamp ty = shifted k clamp ty := by
  funext l
  refine perElem_eq_each (elemBits_mul_elems ty) _ _ fun e => ?_
  simp only [elemOf_eq_el, h]

theorem computes_shift {o : F3} {i : Instr} {op : ShiftOp} {k : Shift} {clamp : Bool} {opc : BitVec 8} {sub : BitVec 4}
    (hexec : ∀ s, exec i s = .next (s.issueDesc i (descShift op clamp o)))
    (h : ∀ (a : BitVec (Ty.elemBits o.ty)) (n : Nat), shiftElem op clamp (Ty.elemBits o.ty) a.toNat n = (k.of clamp a n).toNat)
    (hwf : i.wf = legalShift o) (henc : encode i = [o.word opc sub]) (hopc : abortsSpan opc.toNat = false) :
    Computes i ⟨o.p, .reg o.d (Ty.regs o.ty), [.reg o.a (Ty.regs o.ty) (litVal o.ty o.imm), .reg o.b 1 (word32 o)]⟩
      (shifted k clamp o.ty) := by
  have hlegal (hw : i.wf = true) : legalShift o = true := hwf ▸ hw
  rw [← shiftVal_eq_shifted o.ty h]
  exact computes_plain false hexec (fun hw => ne_lit_of_rule (hlegal hw) rfl)
    (fun hw => by rw [word32_eq_litNarrow (ty_of_rule (hlegal hw))]; rfl) (regs_pos _) henc hopc

end Sys2Proof.Claims
end

/-- Settles O5: shifts of naturals and of bit vectors (`Sys2Proof.Claims.shiftElem_shl` and its like). -/
theorem shifts : Obligations.Shifts := by
  unfold Obligations.Shifts
  intro o
  have hw := Sys2Proof.Claims.elemBits_pos o.ty
  exact ⟨fun c => Sys2Proof.Claims.computes_shift (fun _ => rfl) (Sys2Proof.Claims.shiftElem_shl c) rfl rfl rfl,
    fun c => Sys2Proof.Claims.computes_shift (fun _ => rfl) (Sys2Proof.Claims.shiftElem_shr c) rfl rfl rfl,
    fun c => Sys2Proof.Claims.computes_shift (fun _ => rfl) (fun a n => Sys2Proof.Claims.shiftElem_sar c a n hw) rfl rfl rfl,
    Sys2Proof.Claims.computes_shift (fun _ => rfl) (fun a n => Sys2Proof.Claims.shiftElem_rot a n hw) rfl rfl rfl⟩

section
/-! PROOF. Counts of bits, bit reversal, fields and the carry-less product (O6): each value of the model told by its bits. -/

namespace Sys2Proof.Claims
set_option Elab.async false
open Sys2Proof.Machine

/-! ### Bits of values -/

theorem getLsbD_el_zero (w i : Nat) (v : DWord) : (el w 0 v).getLsbD i = (decide (i < w) && v.toNat.testBit i) := by
  rw [← BitVec.testBit_toNat, toNat_el_zero, Nat.testBit_mod_two_pow]

/-- The sum of powers of two over the bits that hold. -/
theorem bitSum_lt_and_testBit (f : Nat → Bool) (n : Nat) :
    (List.range n).foldl (fun x i => x + if f i then 2 ^ i else 0) 0 < 2 ^ n
    ∧ ∀ i, ((List.range n).foldl (fun x i => x + if f i then 2 ^ i else 0) 0).testBit i = (decide (i < n) && f i) := by
  induction n with
  | zero => exact ⟨Nat.one_pos, fun i => by simp⟩
  | succ n ih =>
    obtain ⟨hlt, hbit⟩ := ih
    rw [List.range_succ, List.foldl_append]
    simp only [List.foldl_cons, List.foldl_nil]
    generalize (List.range n).foldl (fun x i => x + if f i then 2 ^ i else 0) 0 = x at hlt hbit
    have htop : x + (if f n then 2 ^ n else 0) = 2 ^ n * (if f n then 1 else 0) + x := by cases f n <;> simp [Nat.add_comm]
    rw [htop]
    refine ⟨by rw [pow_succ]; split <;> omega, fun i => ?_⟩
    rw [Nat.testBit_two_pow_mul_add _ hlt, hbit]
    rcases Nat.lt_trichotomy i n with h | rfl | h
    · simp [h, Nat.lt_succ_of_lt h]
    · cases f i <;> simp
    · have hone : Nat.testBit 1 (i - n) = false := Nat.testBit_lt_two_pow (Nat.one_lt_two_pow (by omega))
      have hn : ¬ i < n := by omega
      have hn1 : ¬ i < n + 1 := by omega
      cases f n <;> simp [hone, hn, hn1]

theorem getLsbD_ofBits (w : Nat) (f : Nat → Bool) (i : Nat) : (ofBits w f).getLsbD i = (decide (i < w) && f i) := by
  rw [ofBits, BitVec.getLsbD_ofNat, (bitSum_lt_and_testBit f w).2]
  cases decide (i < w) <;> simp

/-- A value below 2^w that has the bits of `f`. -/
theorem ofNat_eq_ofBits {w n : Nat} {f : Nat → Bool} (h : ∀ i, i < w → n.testBit i = f i) : BitVec.ofNat w n = ofBits w f := by
  refine BitVec.eq_of_getLsbD_eq fun i hi => ?_
  rw [BitVec.getLsbD_ofNat, getLsbD_ofBits, h i hi]

/-! ### Counts and reversal (R125) -/

theorem mod_two_eq_ite (v i : Nat) : v / 2 ^ i % 2 = if v.testBit i then 1 else 0 := by
  rw [Nat.testBit_eq_decide_div_mod_eq]
  rcases Nat.mod_two_eq_zero_or_one (v / 2 ^ i) with h | h <;> simp [h]

theorem popCount_eq_countP (v n : Nat) : popCount v n = (List.range n).countP (fun i => v.testBit i) := by
  induction n with
  | zero => rfl
  | succ n ih => rw [popCount, ih, mod_two_eq_ite, List.range_succ, List.countP_append, List.countP_singleton, Nat.add_comm]

theorem popCount_eq_ones {w : Nat} (a : BitVec w) : popCount a.toNat w = ones a := popCount_eq_countP _ _

theorem clzCount_eq_find {w : Nat} (a : BitVec w) :
    clzCount w a.toNat = ((List.range w).find? (fun i => a.getLsbD (w - 1 - i))).getD w := by
  unfold clzCount
  split
  · rename_i hzero
    have hnone : (List.range w).find? (fun i => a.getLsbD (w - 1 - i)) = none := by
      rw [List.find?_range_eq_none]
      intro i _
      rw [← BitVec.testBit_toNat, hzero, Nat.zero_testBit]
      rfl
    rw [hnone]; rfl
  · rename_i hne
    have hlog : a.toNat.log2 < w := (Nat.log2_lt hne).2 a.isLt
    have hsome : (List.range w).find? (fun i => a.getLsbD (w - 1 - i)) = some (w - 1 - a.toNat.log2) := by
      rw [List.find?_range_eq_some]
      refine ⟨?_, List.mem_range.2 (by omega), fun j hj => ?_⟩
      · rw [show w - 1 - (w - 1 - a.toNat.log2) = a.toNat.log2 by omega, ← BitVec.testBit_toNat]
        exact Nat.testBit_log2 hne
      · have hlt : a.toNat < 2 ^ (w - 1 - j) :=
          lt_of_lt_of_le Nat.lt_log2_self (Nat.pow_le_pow_right (by norm_num) (by omega))
        rw [← BitVec.testBit_toNat, Nat.testBit_lt_two_pow hlt]
        rfl
    rw [hsome]; rfl

theorem ffsFrom_eq_find (v i n : Nat) : ffsFrom v i n = ((List.range' i n).find? (fun i => v.testBit i)).getD 0xFFFF_FFFF := by
  induction n generalizing i with
  | zero => rfl
  | succ n ih =>
    rw [ffsFrom, ih, List.range'_succ, List.find?_cons, Nat.testBit_eq_decide_div_mod_eq]
    by_cases h : v / 2 ^ i % 2 = 1 <;> simp [h]

theorem ffsFrom_zero_eq_find {w : Nat} (a : BitVec w) :
    ffsFrom a.toNat 0 w = ((List.range w).find? (fun i => a.getLsbD i)).getD 0xFFFF_FFFF := by
  rw [ffsFrom_eq_find, List.range_eq_range']
  rfl

theorem testBit_bitRev (v n i : Nat) : (bitRev v n).testBit i = (decide (i < n) && v.testBit (n - 1 - i)) := by
  induction n generalizing i with
  | zero => simp [bitRev]
  | succ n ih =>
    have hbit : v / 2 ^ n % 2 < 2 ^ 1 := Nat.mod_lt _ (by norm_num)
    rw [bitRev, Nat.add_comm, show 2 * bitRev v n = 2 ^ 1 * bitRev v n by norm_num, Nat.testBit_two_pow_mul_add _ hbit,
      mod_two_eq_ite, ih]
    cases i with
    | zero => cases h : v.testBit n <;> simp [h]
    | succ i => simp [show n - 1 - i = n - (i + 1) by omega]

theorem bitRev_lt (v n : Nat) : bitRev v n < 2 ^ n :=
  Nat.lt_pow_two_of_testBit _ fun i hi => by simp [testBit_bitRev, Nat.not_lt.2 hi]

theorem bitRev_eq_ofBits {w : Nat} (hw : w ≤ 64) (a : BitVec w) :
    BitVec.ofNat 64 (bitRev a.toNat w) = (ofBits w (fun i => a.getLsbD (w - 1 - i))).setWidth 64 := by
  rw [ofNat_eq_setWidth_ofNat (bitRev_lt _ _) hw, ofNat_eq_ofBits fun i hi => ?_]
  rw [testBit_bitRev, decide_eq_true hi, Bool.true_and, BitVec.testBit_toNat]

/-! ### Fields (R126) -/

theorem testBit_fieldOf (w v pos len i : Nat) :
    (fieldOf w v pos len).testBit i = (decide (i < len) && (decide (pos + i < w) && v.testBit (pos + i))) := by
  rw [fieldOf, Nat.testBit_mod_two_pow, Nat.testBit_div_two_pow, Nat.testBit_mod_two_pow, Nat.add_comm]

/-- A field read as a signed number (R126). -/
theorem wrapTo_field {w len : Nat} (hlen : 0 < len) (x : Nat) :
    wrapTo w (valOf len true x) = ((BitVec.ofNat len x).signExtend w).toNat := by
  rw [wrapTo_eq_ofInt, ← valOf_mod, ← BitVec.toNat_ofNat, valOf_eq_num hlen]
  rfl

/-- The field of `bfe`, by its bits. -/
theorem bfe_bits {w : Nat} (sgn : Bool) (a : BitVec w) (pos : Nat) {len : Nat} (hlen : len ≤ w) :
    let x := fieldOf w a.toNat pos len
    let f (i : Nat) : Bool := decide (pos + i < w) && a.getLsbD (pos + i)
    let top (i : Nat) : Nat := if sgn && decide (len ≤ i) then len - 1 else i
    (if sgn && decide (0 < len) then wrapTo w (valOf len true x) else x) < 2 ^ w
    ∧ ∀ i, i < w → (if sgn && decide (0 < len) then wrapTo w (valOf len true x) else x).testBit i
      = (decide (0 < len) && decide (top i < len) && f (top i)) := by
  intro x f top
  have hx : x < 2 ^ w := lt_of_lt_of_le (Nat.mod_lt _ (Nat.two_pow_pos _)) (Nat.pow_le_pow_right (by norm_num) hlen)
  have hbit (i : Nat) : x.testBit i = (decide (i < len) && f i) := testBit_fieldOf w a.toNat pos len i
  rcases Nat.eq_zero_or_pos len with rfl | hpos
  · simp [hx, hbit]
  cases sgn with
  | false =>
    refine ⟨by simpa using hx, fun i _ => ?_⟩
    simp [hbit, top, hpos]
  | true =>
    simp only [hpos, decide_true, Bool.and_self, if_true, Bool.true_and, wrapTo_field hpos]
    refine ⟨BitVec.isLt _, fun i hi => ?_⟩
    rw [BitVec.testBit_toNat, BitVec.getLsbD_signExtend, decide_eq_true hi, Bool.true_and, BitVec.msb_eq_getLsbD_last]
    have hfield (j : Nat) (hj : j < len) : (BitVec.ofNat len x).getLsbD j = f j := by
      rw [BitVec.getLsbD_ofNat, hbit, decide_eq_true hj, Bool.true_and, Bool.true_and]
    by_cases h : i < len
    · have htop : top i = i := if_neg (by simpa using h)
      rw [if_pos h, hfield i h, htop, decide_eq_true h, Bool.true_and]
    · have htop : top i = len - 1 := if_pos (by simpa using h)
      have hlast : len - 1 < len := by omega
      rw [if_neg h, hfield _ hlast, htop, decide_eq_true hlast, Bool.true_and]

theorem bfeVal_eq_extracted (ty : Ty) : bfeVal ty = extracted ty := by
  funext l
  have hlen : min (el 8 0 (opAt l 2)).toNat (Ty.elemBits ty) ≤ Ty.elemBits ty := min_le_right _ _
  have h := bfe_bits (Ty.signed ty) (el (Ty.elemBits ty) 0 (opAt l 0)) (el 8 0 (opAt l 1)).toNat hlen
  obtain ⟨hlt, hbits⟩ := h
  have hmod (len : Nat) : fieldOf (Ty.elemBits ty) (el (Ty.elemBits ty) 0 (opAt l 0)).toNat (el 8 0 (opAt l 1)).toNat len
      = fieldOf (Ty.elemBits ty) (opAt l 0).toNat (el 8 0 (opAt l 1)).toNat len := by
    rw [fieldOf, fieldOf, toNat_el_zero, Nat.mod_mod]
  rw [extracted, one]
  refine Prod.ext ?_ rfl
  dsimp only
  rw [← ofNat_eq_ofBits hbits, ← ofNat_eq_setWidth_ofNat hlt (elemBits_le ty), hmod]
  simp only [bfeVal, toNat_el_zero]
  rfl

/-- The bits of `d` under the mask of a field. -/
theorem and_mask (d pos len : Nat) : d &&& (2 ^ len * 2 ^ pos - 2 ^ pos) = d / 2 ^ pos % 2 ^ len * 2 ^ pos := by
  have hmask : 2 ^ len * 2 ^ pos - 2 ^ pos = (2 ^ len - 1) * 2 ^ pos := by rw [Nat.sub_mul, Nat.one_mul]
  refine Nat.eq_of_testBit_eq fun i => ?_
  rw [hmask, Nat.testBit_and, Nat.testBit_mul_two_pow, Nat.testBit_two_pow_sub_one, Nat.testBit_mul_two_pow, Nat.testBit_mod_two_pow,
    Nat.testBit_div_two_pow]
  by_cases h : pos ≤ i
  · rw [Nat.sub_add_cancel h]
    simp [h, Bool.and_comm]
  · simp [h]

/-- A value with a field replaced: the bits below the field, the new field, the bits above it. -/
theorem insert_eq (a d pos len : Nat) : d - (d &&& (2 ^ len * 2 ^ pos - 2 ^ pos)) + a % 2 ^ len * 2 ^ pos
    = 2 ^ pos * (2 ^ len * (d / 2 ^ pos / 2 ^ len) + a % 2 ^ len) + d % 2 ^ pos := by
  have hlow := Nat.div_add_mod d (2 ^ pos)
  have hhigh := congrArg (2 ^ pos * ·) (Nat.div_add_mod (d / 2 ^ pos) (2 ^ len))
  simp only [Nat.mul_add] at hhigh
  rw [and_mask, Nat.mul_comm (d / 2 ^ pos % 2 ^ len), Nat.mul_comm (a % 2 ^ len), Nat.mul_add]
  omega

theorem testBit_insert (a d pos len i : Nat) : (d - (d &&& (2 ^ len * 2 ^ pos - 2 ^ pos)) + a % 2 ^ len * 2 ^ pos).testBit i
    = if pos ≤ i ∧ i < pos + len then a.testBit (i - pos) else d.testBit i := by
  rw [insert_eq, Nat.testBit_two_pow_mul_add _ (Nat.mod_lt _ (Nat.two_pow_pos _)),
    Nat.testBit_two_pow_mul_add _ (Nat.mod_lt _ (Nat.two_pow_pos _)), Nat.testBit_mod_two_pow, Nat.testBit_mod_two_pow,
    Nat.testBit_div_two_pow, Nat.testBit_div_two_pow]
  by_cases hlow : i < pos
  · simp [hlow]
  · by_cases hfield : i - pos < len
    · rw [if_neg hlow, if_pos hfield, if_pos ⟨by omega, by omega⟩, decide_eq_true hfield, Bool.true_and]
    · rw [if_neg hlow, if_neg hfield, if_neg (by omega)]
      congr 1
      omega

theorem bfiVal_eq_inserted (ty : Ty) : bfiVal ty = inserted ty := by
  funext l
  rw [inserted, one]
  refine Prod.ext ?_ rfl
  simp only [bfiVal]
  rw [ofNat_eq_setWidth_ofNat (Nat.mod_lt _ (Nat.two_pow_pos _)) (elemBits_le ty), ofNat_eq_ofBits fun i hi => ?_]
  rw [Nat.testBit_mod_two_pow, decide_eq_true hi, Bool.true_and, testBit_insert, toNat_el_zero, toNat_el_zero]
  norm_num only
  simp only [getLsbD_el_zero, hi, decide_true, Bool.true_and]
  split
  · have : i - (opAt l 1).toNat % 256 < Ty.elemBits ty := by omega
    simp [this]
  · rfl

/-! ### The carry-less product (R127) -/

theorem clmulNat_eq_foldl (a : Word) (b : DWord) (n : Nat) : BitVec.ofNat 64 (clmulNat a.toNat b.toNat n)
    = (List.range n).foldl (fun x i => if b.getLsbD i then x ^^^ (a.setWidth 64 <<< i) else x) 0 := by
  induction n with
  | zero => rfl
  | succ n ih =>
    have hshift : BitVec.ofNat 64 (a.toNat * 2 ^ n) = a.setWidth 64 <<< n := by
      rw [BitVec.shiftLeft_eq_mul_twoPow, ← ofNat_eq_setWidth, BitVec.ofNat_mul]
      congr 1
      apply BitVec.eq_of_toNat_eq
      simp
    rw [clmulNat, BitVec.ofNat_xor, ih, List.range_succ, List.foldl_append, List.foldl_cons, List.foldl_nil, ← BitVec.testBit_toNat,
      Nat.testBit_eq_decide_div_mod_eq]
    by_cases h : b.toNat / 2 ^ n % 2 = 1
    · simp only [h, decide_true, if_true, hshift, BitVec.xor_comm]
    · simp [h]

theorem clmul_eq_carryless (l : List DWord) :
    ((BitVec.ofNat 64 (clmulNat ((opAt l 0).toNat % 2 ^ 32) (opAt l 1).toNat 32), 0) : DWord × Flags) = carryless l := by
  rw [carryless, ← BitVec.toNat_setWidth, clmulNat_eq_foldl]

/-! ### Instructions (R122, R125 to R127) -/

section
variable {o : F3}

/-- The bits of an operand of an unsigned type. -/
theorem toNat_operand {l : List DWord} {ty : Ty} {r : Reg} {imm : Byte} (hty : ty ∈ [Ty.n32, .n64])
    (hl : List.Forall₂ gives [srcOf ty r imm] l) : (opAt l 0).toNat = (el (Ty.elemBits ty) 0 (opAt l 0)).toNat := by
  rw [toNat_el_zero, Nat.mod_eq_of_lt]
  exact lt_of_gives (by simpa using hty) (gives_opAt hl (i := 0) rfl)

/-- A count of bits of an operand (R122, R125). -/
theorem computes_count {i : Instr} {x : Nat → Nat → Nat} {y : BitVec (Ty.elemBits o.ty) → Nat} {opc : BitVec 8} {sub : BitVec 4}
    (hexec : ∀ s, exec i s = .next (s.issueDesc i (descCount o x))) (hxy : ∀ a : BitVec (Ty.elemBits o.ty), x (Ty.elemBits o.ty) a.toNat = y a)
    (hwf : i.wf = legalCount o) (henc : encode i = [o.word opc sub]) (hopc : abortsSpan opc.toNat = false) :
    Computes i (unary o 1) (fun l => (BitVec.ofNat 64 (y (el (Ty.elemBits o.ty) 0 (opAt l 0))), 0)) := by
  have hlegal (hw : i.wf = true) : legalCount o = true := hwf ▸ hw
  refine computes_congr_gives (computes_plain false hexec (fun hw => ne_lit_of_rule (hlegal hw) rfl) (fun _ => rfl)
    (by norm_num) henc hopc) fun hw l hl => ?_
  rw [toNat_operand (ty_of_rule (hlegal hw)) hl, hxy]

theorem computes_brev : Computes (.brev o) (unary o (Ty.regs o.ty)) (fun l =>
    one (ofBits (Ty.elemBits o.ty) (fun i => (el (Ty.elemBits o.ty) 0 (opAt l 0)).getLsbD (Ty.elemBits o.ty - 1 - i)), 0)) := by
  refine computes_congr_gives (computes_plain false (fun _ => rfl) (fun hw => ne_lit_of_rule hw rfl) (fun _ => rfl)
    (regs_pos _) rfl rfl) fun hw l hl => ?_
  rw [toNat_operand (ty_of_rule hw) hl, bitRev_eq_ofBits (elemBits_le _), one]

theorem computes_bfe : Computes (.bfe o) ⟨o.p, .reg o.d (Ty.regs o.ty),
    [.reg o.a (Ty.regs o.ty) (litVal o.ty o.imm), .reg o.b 1 (word32 o), .reg o.c 1 (word32 o)]⟩ (extracted o.ty) := by
  rw [← bfeVal_eq_extracted]
  refine computes_plain false (fun _ => rfl) (fun hw => ne_lit_of_rule hw rfl) (fun hw => ?_) (regs_pos _) rfl rfl
  rw [word32_eq_litNarrow ((show Ty.wholeInts ⊆ Ty.ints by decide) (ty_of_rule hw))]; rfl

theorem computes_bfi : Computes (.bfi o) ⟨o.p, .reg o.d (Ty.regs o.ty),
    [.reg o.a (Ty.regs o.ty) (litVal o.ty o.imm), .reg o.b 1 (word32 o), .reg o.c 1 (word32 o), .reg o.d (Ty.regs o.ty) 0]⟩
    (inserted o.ty) := by
  rw [← bfiVal_eq_inserted]
  refine computes_plain true (fun _ => rfl) (fun hw => ne_lit_of_rule hw rfl) (fun hw => ?_) (regs_pos _) rfl rfl
  rw [word32_eq_litNarrow ((show [Ty.n32, .n64] ⊆ Ty.ints by decide) (ty_of_rule hw))]; rfl

theorem computes_clmul : Computes (.clmul o) ⟨o.p, .reg o.d 2, (bin o).srcs⟩ carryless :=
  computes_congr (computes_plain false (fun _ => rfl) (fun hw => ne_lit_of_rule hw rfl) (fun _ => rfl) (by norm_num) rfl rfl)
    fun _ => funext clmul_eq_carryless

end

end Sys2Proof.Claims
end

/-- Settles O6: counts, fields and products by the bits of their operands. -/
theorem bitFields : Obligations.BitFields := by
  unfold Obligations.BitFields
  intro o
  exact ⟨Sys2Proof.Claims.computes_count (fun _ => rfl) Sys2Proof.Claims.popCount_eq_ones rfl rfl rfl,
    Sys2Proof.Claims.computes_count (fun _ => rfl) Sys2Proof.Claims.clzCount_eq_find rfl rfl rfl,
    Sys2Proof.Claims.computes_count (y := fun a => ((List.range (Sys2Proof.Ty.elemBits o.ty)).find? (fun i => a.getLsbD i)).getD 0xFFFF_FFFF)
      (fun _ => rfl) Sys2Proof.Claims.ffsFrom_zero_eq_find rfl rfl rfl,
    Sys2Proof.Claims.computes_brev, Sys2Proof.Claims.computes_bfe, Sys2Proof.Claims.computes_bfi,
    Sys2Proof.Claims.computes_clmul⟩

section
/-! PROOF. Compares, predicate logic and predicates from registers (O7). -/

namespace Sys2Proof.Claims
set_option Elab.async false
open Sys2Proof.Machine

/-! ### Integer compares (R131) -/

theorem num_inj {w : Nat} (sgn : Bool) {a b : BitVec w} : num sgn a = num sgn b ↔ a = b :=
  ⟨fun h => by rw [← ofInt_num sgn a, h, ofInt_num], fun h => h ▸ rfl⟩

theorem tyMask_eq_zero {ty : Ty} (hty : ty ∈ Ty.wholeInts) (v : DWord) : tyMask ty v = 0 ↔ el (Ty.elemBits ty) 0 v = 0 := by
  rw [tyMask_eq hty]
  constructor
  · intro h
    have hval := congrArg (BitVec.setWidth (Ty.elemBits ty)) h
    rw [BitVec.setWidth_setWidth_of_le _ (elemBits_le ty), BitVec.setWidth_eq] at hval
    exact hval.trans (BitVec.setWidth_zero _ _)
  · intro h
    rw [h]
    exact BitVec.setWidth_zero _ _

theorem icmpVal_eq_compared (c : ICond) {ty : Ty} (hty : ty ∈ Ty.wholeInts) (l : List DWord) : icmpVal c ty l = compared c ty l := by
  have htest (x y : DWord) : (tyMask ty (x &&& y) == 0) = (el (Ty.elemBits ty) 0 x &&& el (Ty.elemBits ty) 0 y == 0) := by
    rw [Bool.eq_iff_iff, beq_iff_eq, beq_iff_eq, tyMask_eq_zero hty, el_and]
  have heq (a b : BitVec (Ty.elemBits ty)) : (num (Ty.signed ty) a == num (Ty.signed ty) b) = (a == b) := by
    rw [Bool.eq_iff_iff, beq_iff_eq, beq_iff_eq, num_inj]
  cases c with
  | eq => simp only [icmpVal, compared, valOf_operand (elemBits_pos ty), heq]
  | ne => simp only [icmpVal, compared, valOf_operand (elemBits_pos ty), bne, heq]
  | lt | le | gt | ge => simp only [icmpVal, compared, valOf_operand (elemBits_pos ty)]
  | tst => simp only [icmpVal, compared, bne, htest]
  | ntst => simp only [icmpVal, compared, htest]

/-! ### Floating-point compares (R132) -/

/-- A format reads no bits beyond its width. -/
theorem val_mod (f : FFmt) (n : Nat) : f.val (n % 2 ^ f.width) = f.val n := by
  have hbit : n % 2 ^ f.width / 2 ^ (f.ebits + f.mbits) % 2 = n / 2 ^ (f.ebits + f.mbits) % 2 := by
    have h := mod_two_eq_ite n (f.ebits + f.mbits)
    rw [mod_two_eq_ite, h, Nat.testBit_mod_two_pow, decide_eq_true (by unfold FFmt.width; omega), Bool.true_and]
  have hexp : n % 2 ^ f.width / 2 ^ f.mbits % 2 ^ f.ebits = n / 2 ^ f.mbits % 2 ^ f.ebits := by
    refine Nat.eq_of_testBit_eq fun i => ?_
    rw [Nat.testBit_mod_two_pow, Nat.testBit_div_two_pow, Nat.testBit_mod_two_pow, Nat.testBit_mod_two_pow, Nat.testBit_div_two_pow]
    by_cases h : i < f.ebits
    · rw [decide_eq_true (by unfold FFmt.width; omega : i + f.mbits < f.width), Bool.true_and]
    · rw [decide_eq_false h, Bool.false_and, Bool.false_and]
  have hman : n % 2 ^ f.width % 2 ^ f.mbits = n % 2 ^ f.mbits :=
    Nat.mod_mod_of_dvd _ (pow_dvd_pow 2 (by unfold FFmt.width; omega))
  simp only [FFmt.val, hbit, hexp, hman]

/-- The value of an element of a floating-point type that is one element. -/
theorem val_operand {ty : Ty} (hty : ty ∈ Ty.floats) (v : DWord) : (tyFmt ty).val (el (Ty.elemBits ty) 0 v).toNat = (tyFmt ty).val v.toNat := by
  rw [toNat_el_zero, ← width_of_float hty, val_mod]

/-- `a` is less than `b`, as `fcmp` has it of values that are not NaN. -/
def less (a b : FVal) : Bool := match a, b with
  | .inf s, .inf t => s && !t
  | .inf s, _ => s
  | _, .inf t => !t
  | a, b => decide (rat a < rat b)

/-- Equal values, −0 and +0 among them. -/
def same (a b : FVal) : Bool := match a, b with
  | .inf s, .inf t => s == t
  | .fin _ _ _, .fin _ _ _ => decide (rat a = rat b)
  | _, _ => false

theorem lt_eq_less {a b : FVal} (h : (a.isNan || b.isNan) = false) : FVal.lt a b = less a b := by
  cases a with
  | nan s => simp [FVal.isNan] at h
  | inf s =>
    cases b with
    | nan t => simp [FVal.isNan] at h
    | inf t => cases s <;> cases t <;> rfl
    | fin t n g => cases s <;> rfl
  | fin s m e =>
    cases b with
    | nan t => simp [FVal.isNan] at h
    | inf t => cases t <;> rfl
    | fin t n g => exact lt_finite rfl rfl

theorem eqv_eq_same {a b : FVal} (h : (a.isNan || b.isNan) = false) : FVal.eqv a b = same a b := by
  cases a with
  | nan s => simp [FVal.isNan] at h
  | inf s => cases b <;> rfl
  | fin s m e =>
    cases b with
    | nan t => simp [FVal.isNan] at h
    | inf t => rfl
    | fin t n g => exact eqv_finite rfl rfl

/-- What a condition says of whether two values are unordered, less, greater or equal. -/
def condHolds (c : FCond) (un lt gt eq : Bool) : Bool := match c with
  | .eq => !un && eq
  | .ne => un || !eq
  | .lt => !un && lt
  | .le => !un && (lt || eq)
  | .gt => !un && gt
  | .ge => !un && (gt || eq)
  | .ord => !un
  | .uno => un

/-- Whether a condition is invalid for every NaN, or for signalling ones only. -/
def condFlags (c : FCond) (un sig : Bool) : Flags := match c with
  | .lt | .le | .gt | .ge => Flags.when un fNV
  | .eq | .ne | .ord | .uno => Flags.when sig fNV

theorem holds_congr (c : FCond) {un lt gt eq lt' gt' eq' : Bool} (h : un = false → lt = lt' ∧ gt = gt' ∧ eq = eq') :
    condHolds c un lt gt eq = condHolds c un lt' gt' eq' := by
  cases un with
  | true => cases c <;> rfl
  | false =>
    obtain ⟨rfl, rfl, rfl⟩ := h rfl
    rfl

theorem fcmpVal_eq (c : FCond) (ty : Ty) (l : List DWord) :
    let a := (tyFmt ty).val (opAt l 0).toNat
    let b := (tyFmt ty).val (opAt l 1).toNat
    let un := a.isNan || b.isNan
    fcmpVal c ty l = (condHolds c un (FVal.lt a b) (FVal.lt b a) (FVal.eqv a b), condFlags c un (a.isSig || b.isSig)) := by
  cases c <;> rfl

theorem fcompared_eq (c : FCond) (ty : Ty) (l : List DWord) :
    let a := (tyFmt ty).val (el (Ty.elemBits ty) 0 (opAt l 0)).toNat
    let b := (tyFmt ty).val (el (Ty.elemBits ty) 0 (opAt l 1)).toNat
    let un := a.isNan || b.isNan
    fcompared c ty l = (truth (condHolds c un (less a b) (less b a) (same a b)), condFlags c un (a.isSig || b.isSig)) := by
  cases c <;> rfl

theorem fcmpVal_eq_fcompared (c : FCond) {ty : Ty} (hty : ty ∈ Ty.floats) (l : List DWord) :
    (boolVal (fcmpVal c ty l).1, (fcmpVal c ty l).2) = fcompared c ty l := by
  rw [fcmpVal_eq, fcompared_eq, val_operand hty, val_operand hty]
  refine Prod.ext (congrArg truth (holds_congr c fun hun => ⟨lt_eq_less hun, lt_eq_less ?_, eqv_eq_same hun⟩)) rfl
  rwa [Bool.or_comm]

/-! ### Instructions (R130 to R134) -/

section
variable {o : F3}

/-- An instruction carried out by a plain description into a predicate code. -/
theorem computes_pcode {i : Instr} {srcs : List Src} {f : Form} {g : List DWord → DWord × Flags} {opc : BitVec 8} {sub : BitVec 4}
    (hexec : ∀ s, exec i s = .next (s.issueDesc i { plainDesc o.p (.pcode o.d) srcs g with rule := .anyCore }))
    (hform : i.wf = true → (⟨o.p, .pcode o.d, srcs⟩ : Form) = f) (henc : encode i = [o.word opc sub])
    (hopc : abortsSpan opc.toNat = false) (hpos : ∀ y ∈ srcs, ∀ x ∈ y.regs, 0 < x.2 := by simp [srcOf, Src.regs, regs_pos]) :
    Computes i f g :=
  computes_of_fits hexec (fun hw => hform hw ▸ fits_of_pcode rfl hpos) henc hopc

theorem computes_icmp (c : ICond) :
    Computes (.icmp c o) { bin o with dst := .pcode o.d } (fun l => (truth (compared c o.ty l), 0)) :=
  computes_congr (computes_pcode (fun _ => rfl) (fun _ => rfl) rfl rfl) fun hw =>
    funext fun l => by rw [icmpVal_eq_compared c (ty_of_rule hw)]; rfl

theorem computes_fcmp (c : FCond) : Computes (.fcmp c o) { bin o with dst := .pcode o.d } (fcompared c o.ty) :=
  computes_congr (computes_pcode (fun _ => rfl) (fun _ => rfl) rfl rfl) fun hw =>
    funext fun l => fcmpVal_eq_fcompared c ((show [Ty.f32, .f64] ⊆ Ty.floats by decide) (ty_of_rule hw)) l

/-- Two predicates into a third: the model computes on the values 0 and 1 (R133). -/
theorem computes_pbin {i : Instr} {x : DWord → DWord → DWord} {y : DWord → DWord → Bool} {opc : BitVec 8} {sub : BitVec 4}
    (hexec : ∀ s, exec i s = .next (s.issueDesc i (descPBin o x)))
    (hxy : ∀ p q, x (boolOp p) (boolOp q) = truth (y (boolOp p) (boolOp q))) (henc : encode i = [o.word opc sub])
    (hopc : abortsSpan opc.toNat = false) :
    Computes i ⟨o.p, .pcode o.d, [.pcode o.a, .pcode o.b]⟩ (fun l => (truth (y (opAt l 0) (opAt l 1)), 0)) := by
  refine computes_congr_gives (computes_pcode hexec (fun _ => rfl) henc hopc) fun _ l hl => ?_
  obtain ⟨p, hp⟩ := gives_opAt hl (i := 0) rfl
  obtain ⟨q, hq⟩ := gives_opAt hl (i := 1) rfl
  rw [hp, hq, hxy]

theorem computes_pnot : Computes (.pnot o) ⟨o.p, .pcode o.d, [.pcode o.a]⟩ (fun l => (truth (opAt l 0 != 1), 0)) := by
  refine computes_congr_gives (computes_pcode (fun _ => rfl) (fun _ => rfl) rfl rfl) fun _ l hl => ?_
  obtain ⟨p, hp⟩ := gives_opAt hl (i := 0) rfl
  rw [hp]
  cases p <;> rfl

/-- `pset` is of TYPE i32 (R134). -/
theorem ty_of_pset {bit : Bool} (hw : (Instr.pset bit o).wf = true) : o.ty = .i32 := List.mem_singleton.1 (ty_of_rule hw)

theorem computes_pset : Computes (.pset false o) { unary o 1 with dst := .pcode o.d } (fun l => (truth (el 32 0 (opAt l 0) != 0), 0)) := by
  refine computes_congr (computes_pcode (fun _ => rfl) (fun hw => by rw [unary, ty_of_pset hw]; rfl) rfl rfl) fun _ => ?_
  funext l
  have hzero : (tyMask .i32 (opAt l 0) == 0) = (el 32 0 (opAt l 0) == 0) := by
    rw [Bool.eq_iff_iff, beq_iff_eq, beq_iff_eq, tyMask_eq_zero (by decide)]
    rfl
  exact congrArg (fun b => (truth (!b), (0 : Flags))) hzero

theorem computes_psetBit : Computes (.pset true o) { bin o with dst := .pcode o.d }
    (fun l => (truth ((opAt l 0).getLsbD ((el 5 0 (opAt l 1)).toNat)), 0)) := by
  refine computes_congr (computes_pcode (fun _ => rfl) (fun hw => by rw [bin, ty_of_pset hw]; rfl) rfl rfl) fun _ => ?_
  funext l
  rw [toNat_el_zero]
  rfl

end

end Sys2Proof.Claims
end

/-- Settles O7: compares of numbers as the model's of their values, and predicates as operands that hold 0 or 1. -/
theorem predicates : Obligations.Predicates := by
  unfold Obligations.Predicates
  intro o
  refine ⟨Sys2Proof.Claims.computes_icmp, Sys2Proof.Claims.computes_fcmp, ?_, ?_, ?_, Sys2Proof.Claims.computes_pnot,
    Sys2Proof.Claims.computes_pset, Sys2Proof.Claims.computes_psetBit⟩
  · exact Sys2Proof.Claims.computes_pbin (y := fun a b => a == 1 && b == 1) (fun _ => rfl) (by decide) rfl rfl
  · exact Sys2Proof.Claims.computes_pbin (y := fun a b => a == 1 || b == 1) (fun _ => rfl) (by decide) rfl rfl
  · exact Sys2Proof.Claims.computes_pbin (y := fun a b => a != b) (fun _ => rfl) (by decide) rfl rfl

section
/-! PROOF. Instructions over lanes in general (O12 to O14): descriptions of them, what they see, and masks of members. -/

namespace Sys2Proof.Claims
open Sys2Proof.Machine

/-! ### Descriptions (R159) -/

/-- A description made by `crossDesc` carries out the instruction over lanes with its fields. -/
theorem crossDesc_crosses {p : Pred} {dst : Dst} {d2 : Option Dst} {srcs : List Src} {rule : DstRule}
    {f : Bool → Nat → List LaneIn → Option CrossOut} {uniform core : List Nat} {gathers : Bool}
    (hsel : ∀ q, .sel q ∉ srcs) (hlit : ∀ r n, dst = .reg r n → r ≠ Reg.lit)
    (htwo : ∀ r n, d2 = some (.reg r n) → n = 1 ∧ r ≠ Reg.lit)
    (hpos : ∀ y ∈ dst.regs ++ d2.elim [] Dst.regs ++ srcs.flatMap Src.regs, 0 < y.2) :
    ({ crossDesc p dst d2 srcs rule f with uniform := uniform, core := core, laneToUni := gathers } : OpDesc).Crosses
      ⟨⟨p, dst, srcs⟩, d2, rule == .laneShape || rule == .lanePlace, gathers, uniform⟩ f where
  pred := rfl
  dst := rfl
  dst2 := rfl
  srcs := rfl
  lane := rfl
  uni := rfl
  l2u := rfl
  body := rfl
  noSel := hsel
  noLit := hlit
  two := htwo
  pos := hpos

/-- A destination register of a well-formed word. -/
theorem dst_ne_lit {d : Reg} {m : Nat} (hd : d ≠ Reg.lit) : ∀ r n, Dst.reg d m = .reg r n → r ≠ Reg.lit := by
  intro r n h
  obtain ⟨rfl, -⟩ := Dst.reg.inj h
  exact hd

/-! ### Results (R159) -/

theorem lanesOut_actOut {ls : List LaneIn} {g h : LaneIn → DWord × Bool} (fl : Flags) (hgh : ∀ l, g l = h l) :
    lanesOut (actOut ls g) fl = some (acting h fl ls) := by
  rw [funext hgh]
  rfl

/-! ### Masks of members (R161, R162) -/

/-- A sum of the powers of two below 2^32 over the bits that hold. -/
theorem ofNat_bitSum (f : Nat → Bool) : BitVec.ofNat 64 ((List.range 32).foldl (fun x i => if f i then x + 2 ^ i else x) 0)
    = ofBits 64 (fun i => decide (i < 32) && f i) := by
  have hsum : (fun (x i : Nat) => if f i then x + 2 ^ i else x) = fun x i => x + if f i then 2 ^ i else 0 := by
    funext x i
    split <;> rfl
  rw [hsum]
  exact ofNat_eq_ofBits fun i _ => (bitSum_lt_and_testBit f 32).2 i

theorem absentMask_eq (e0 : Nat) : absentMask e0 = fun ls => ofBits 64 (fun w => decide (w < 32) && (List.range 32).any (fun j =>
    decide (32 * w + j < e0) && !ls.any (fun l => l.vid == 32 * w + j))) := by
  funext ls
  have hnone (v : Nat) : (atVid ls v).isNone = !ls.any (fun l => l.vid == v) := by
    rw [atVid, ← Option.not_isSome, List.isSome_find?]
  rw [absentMask, ofNat_bitSum]
  simp only [hnone]

theorem groupMask_eq (ls : List LaneIn) (v : Nat) (p : LaneIn → Bool) : groupMask ls (v / 32) p = among ls v p := by
  rw [among, ← ofNat_bitSum]
  refine congrArg (BitVec.ofNat 64) (List.foldl_ext _ _ _ fun x j _ => ?_)
  rw [atVid]
  cases ls.find? (fun l => l.vid == 32 * (v / 32) + j) <;> rfl

/-! ### What an instruction over lanes sees (R159) -/

section
variable {s : State} {t : Team} {x : Cross}

/-- Every present lane takes part where the destination is uniform. -/
theorem act_of_seen {uni : Bool} {l : LaneIn} (hl : l ∈ s.seen t x uni) : (uni || l.act) = l.act := by
  obtain ⟨k, -, rfl⟩ := List.mem_map.1 hl
  cases uni <;> rfl

/-- A register operand that is uniform is the same in every lane that is seen. -/
theorem uniOp_seen (c : x.Clear s t) {i : Nat} (hi : i ∈ x.uniform) {r : Reg} {n : Nat} {lit : DWord}
    (hr : x.form.srcs[i]? = some (.reg r n lit)) (uni : Bool) :
    uniOp (s.seen t x uni) i = 0 ∨ uniOp (s.seen t x uni) i = s.uniSrc t (.reg r n lit) := by
  have hop (l : Lane) : opAt (x.form.srcs.map (s.laneSrc t l)) i = s.uniSrc t (.reg r n lit) := by
    rw [opAt, List.getD_eq_getElem?_getD, List.getElem?_map, hr]
    simp [State.laneSrc, State.uniSrc, c.unis i hi _ hr]
  unfold State.seen
  cases t.current with
  | nil => exact .inl rfl
  | cons l ls => exact .inr (hop l)

end

/-- An instruction that the shared operation over lanes carries out with the computation `f`, which gives `out` of all that
may be seen. -/
theorem sweeps_of_crosses {o : F3} {i : Instr} {d : OpDesc} {x : Cross} {f : Bool → Nat → List LaneIn → Option CrossOut}
    {ok : State → Team → Prop} {out : Bool → List LaneIn → CrossOut} {opc : BitVec 8} {sub : BitVec 4}
    (hexec : ∀ s, exec i s = .next (s.issueDesc i d)) (hcross : i.wf = true → d.Crosses x f) (henc : encode i = [o.word opc sub])
    (hopc : abortsSpan opc.toNat = false)
    (hout : i.wf = true → ∀ s t, x.Clear s t → ok s t → ∀ uni e0, f uni e0 (s.seen t x uni) = some (out uni (s.seen t x uni))) :
    Sweeps i x ok out := by
  intro s t hw hr c hok
  refine ⟨_, hexec s, ?_⟩
  have hdone := issueCross_done hr (hcross hw) c ((congrArg abortsSpan (opcOf_f3 henc)).trans hopc)
    (fun uni => hout hw s t c hok uni (s.launchOf t).e0)
  rwa [absentMask_eq] at hdone

end Sys2Proof.Claims
end

section
/-! PROOF. `xchg`, `pick` and `lid` (O12). -/

namespace Sys2Proof.Claims
open Sys2Proof.Machine

/-! ### Exchange (R160) -/

section
variable {o : F3}

/-- The subgroup size. -/
def xchgSize (o : F3) : Nat := 2 ^ (o.imm.extractLsb' 0 4).toNat

/-- The operand c, a register or the literal of IMM8 bits 7:4. -/
def xchgC (o : F3) : Src := .reg o.b 1 ((o.imm.extractLsb' 4 4).setWidth 64)

/-- The instruction over lanes that an `xchg` is; c is uniform but for `idx`. -/
def xchgCross (m : XMode) (o : F3) : Cross :=
  ⟨⟨o.p, .reg o.d 1, [.reg o.a 1 (litVal .i32 o.imm), xchgC o]⟩, some (.pcode o.c), true, false, if m = .idx then [] else [1]⟩

/-- What a lane receives from its partner `q`, where that lies in the subgroup. -/
def xchgTake (q : LaneIn → Nat) (ok : LaneIn → Bool) (ls : List LaneIn) (l : LaneIn) : DWord × Bool :=
  match if ok l then ofMember ls (q l) else none with
  | some v => (v, true)
  | none => (opAt l.ops 0, false)

theorem xLog_eq : 2 ^ F3.xLog o = xchgSize o := by
  simp [F3.xLog, xchgSize]

theorem xLit_eq : BitVec.ofNat 64 (F3.xLit o) = (o.imm.extractLsb' 4 4).setWidth 64 := by
  have := o.imm.isLt
  apply BitVec.eq_of_toNat_eq
  simp only [F3.xLit, BitVec.toNat_ofNat, BitVec.toNat_setWidth, BitVec.extractLsb'_toNat, Nat.shiftRight_eq_div_pow]
  omega

theorem descXchg_crosses {m : XMode} (hd : o.d ≠ Reg.lit) :
    (descXchg m o).Crosses (xchgCross m o) (fun _ _ ls => xchgFn m (xchgSize o) ls) := by
  have h := crossDesc_crosses (p := o.p) (dst := .reg o.d 1) (d2 := some (.pcode o.c))
    (srcs := [.reg o.a 1 (litVal .i32 o.imm), xchgC o]) (rule := .laneShape) (f := fun _ _ ls => xchgFn m (xchgSize o) ls)
    (uniform := if m = .idx then [] else [1]) (core := [1]) (gathers := false) (by simp [xchgC]) (dst_ne_lit hd) (by simp)
    (by simp [Dst.regs, Src.regs, xchgC])
  rw [xchgC, ← xLit_eq, ← xLog_eq] at h
  rw [xchgCross, xchgC, ← xLit_eq, ← xLog_eq]
  exact h

/-- Results of a partner given by number and condition. -/
theorem xchgFn_eq {m : XMode} {size : Nat} {ls : List LaneIn} {q : Nat → Nat → Nat} {ok : Nat → Nat → Bool}
    (hsize : m ≠ .idx → (uniOp ls 1).toNat % 2 ^ 32 < size)
    (hpartner : ∀ v c, xchgPartner m size v c = if ok v c then some (q v c) else none) :
    xchgFn m size ls = some (acting (xchgTake (fun l => q l.vid (el 32 0 (opAt l.ops 1)).toNat)
      (fun l => ok l.vid (el 32 0 (opAt l.ops 1)).toNat) ls) 0 ls) := by
  have hlegal : (m != .idx && decide (size ≤ (uniOp ls 1).toNat % 2 ^ 32)) = false := by
    by_cases hm : m = .idx
    · simp [hm]
    · have := hsize hm
      simp only [Bool.and_eq_false_imp, decide_eq_false_iff_not]
      omega
  rw [xchgFn, hlegal]
  refine lanesOut_actOut 0 fun l => ?_
  rw [hpartner, xchgTake, toNat_el_zero]
  cases ok l.vid ((opAt l.ops 1).toNat % 2 ^ 32) with
  | false => rfl
  | true =>
    simp only [if_true, ofMember, atVid]
    cases ls.find? (fun k => k.vid == q l.vid ((opAt l.ops 1).toNat % 2 ^ 32)) <;> rfl

theorem sweeps_xchg {m : XMode} {ok : State → Team → Prop} {q : Nat → Nat → Nat} {inside : Nat → Nat → Bool}
    (hok : m ≠ .idx → ∀ s t, ok s t → (el 32 0 (s.uniSrc t (xchgC o))).toNat < xchgSize o)
    (hpartner : ∀ v c, xchgPartner m (xchgSize o) v c = if inside v c then some (q v c) else none) :
    Sweeps (.xchg m o) (xchgCross m o) ok (fun _ ls => acting (xchgTake (fun l => q l.vid (el 32 0 (opAt l.ops 1)).toNat)
      (fun l => inside l.vid (el 32 0 (opAt l.ops 1)).toNat) ls) 0 ls) := by
  refine sweeps_of_crosses (fun _ => rfl) (fun hw => descXchg_crosses ?_) rfl rfl fun _ s t c hs uni _ => ?_
  · simp only [Instr.wf, Instr.legal, legalXchg, Bool.and_eq_true] at hw
    exact ne_lit_of_rule hw.1.1.1 rfl
  · refine xchgFn_eq (fun hm => ?_) hpartner
    have hmem : 1 ∈ (xchgCross m o).uniform := by simp [xchgCross, hm]
    rcases uniOp_seen c hmem rfl uni with h | h
    · rw [h]
      exact Nat.two_pow_pos _
    · rw [h, ← toNat_el_zero]
      exact hok hm s t hs

/-! ### The value of one lane (R164) -/

theorem pickFn_eq (ls : List LaneIn) : pickFn ls = some (match ofMember ls (ls.head?.elim 0 (fun l => (el 32 0 (opAt l.ops 1)).toNat)) with
    | some v => alike v true 0 ls
    | none => alike 0 false 0 ls) := by
  have hc : (uniOp ls 1).toNat % 2 ^ 32 = ls.head?.elim 0 (fun l => (el 32 0 (opAt l.ops 1)).toNat) := by
    cases ls with
    | nil => rfl
    | cons l ls => exact (toNat_el_zero 32 _).symm
  rw [pickFn, hc, atVid, ofMember]
  cases ls.find? (fun l => l.vid == ls.head?.elim 0 (fun l => (el 32 0 (opAt l.ops 1)).toNat)) <;> rfl

theorem sweeps_pick : Sweeps (.pick o)
    ⟨⟨o.p, .reg o.d (Ty.regs o.ty), [.reg o.a (Ty.regs o.ty) (litVal o.ty o.imm), .reg o.b 1 (o.imm.setWidth 64)]⟩,
      some (.pcode o.c), false, true, [1]⟩ always
    (fun _ ls => match ofMember ls (ls.head?.elim 0 (fun l => (el 32 0 (opAt l.ops 1)).toNat)) with
      | some v => alike v true 0 ls
      | none => alike 0 false 0 ls) :=
  sweeps_of_crosses (d := descPick o) (fun _ => rfl)
    (fun hw => crossDesc_crosses (rule := .anyCore) (by simp [srcOf]) (dst_ne_lit (ne_lit_of_rule hw rfl)) (by simp)
      (by simp [Dst.regs, Src.regs, srcOf, regs_pos]))
    rfl rfl fun _ _ _ _ _ _ _ => pickFn_eq _

/-! ### Lane ids (R165) -/

/-- A lane-id instruction, whose computation may suppose that all that takes part is active. -/
theorem sweeps_lid {m : LidMode} {out : Bool → List LaneIn → CrossOut} {lane : Bool} {sub : BitVec 4}
    (hlane : lane = ((if m = .count then DstRule.anyCore else .lanePlace) == .laneShape
      || (if m = .count then DstRule.anyCore else .lanePlace) == .lanePlace))
    (henc : encode (.lid m o) = [o.word 0x66 sub])
    (hout : ∀ uni ls, (∀ l ∈ ls, (uni || l.act) = l.act) → lidFn m uni ls = some (out uni ls)) :
    Sweeps (.lid m o) ⟨⟨o.p, .reg o.d 1, []⟩, none, lane, false, []⟩ always out :=
  hlane ▸ sweeps_of_crosses (d := descLid m o) (fun _ => rfl)
    (fun hw => crossDesc_crosses (by simp) (dst_ne_lit (ne_lit_of_rule hw rfl)) (by simp) (by simp [Dst.regs]))
    henc rfl fun _ _ _ _ _ uni _ => hout uni _ fun _ => act_of_seen

theorem filter_part {uni : Bool} {ls : List LaneIn} (h : ∀ l ∈ ls, (uni || l.act) = l.act) :
    ls.filter (fun l => uni || l.act) = ls.filter (fun l => l.act) := List.filter_congr h

end

end Sys2Proof.Claims
end

/-- Settles O12: the shared operation over the lanes of D, with each mode of `xchg` as a partner and a condition on it. For
`idx` a c at TEAM is broadcast, which is the choice of the model that log entry 70 names. -/
theorem laneExchange : Obligations.LaneExchange := by
  unfold Obligations.LaneExchange
  intro o
  refine ⟨?_, ?_, ?_, ?_, Sys2Proof.Claims.sweeps_pick, ?_, ?_, ?_⟩
  · exact Sys2Proof.Claims.sweeps_xchg (q := fun v c => v ^^^ c) (inside := fun _ _ => true) (fun _ _ _ h => h) (fun _ _ => rfl)
  · exact Sys2Proof.Claims.sweeps_xchg (q := fun v c => v - c)
      (inside := fun v c => decide (c ≤ v % Sys2Proof.Claims.xchgSize o)) (fun _ _ _ h => h)
      (fun v c => by simp [Sys2Proof.Machine.xchgPartner])
  · exact Sys2Proof.Claims.sweeps_xchg (q := fun v c => v + c)
      (inside := fun v c => decide (v % Sys2Proof.Claims.xchgSize o + c < Sys2Proof.Claims.xchgSize o)) (fun _ _ _ h => h)
      (fun v c => by simp [Sys2Proof.Machine.xchgPartner])
  · exact Sys2Proof.Claims.sweeps_xchg (q := fun v c => v - v % Sys2Proof.Claims.xchgSize o + c)
      (inside := fun _ c => decide (c < Sys2Proof.Claims.xchgSize o)) (fun h => absurd rfl h)
      (fun v c => by simp [Sys2Proof.Machine.xchgPartner])
  · exact Sys2Proof.Claims.sweeps_lid rfl rfl fun _ _ _ => rfl
  · refine Sys2Proof.Claims.sweeps_lid rfl rfl fun _ ls _ => ?_
    simp only [List.countP_eq_length_filter]
    rfl
  · refine Sys2Proof.Claims.sweeps_lid rfl rfl fun uni ls h => ?_
    simp only [Sys2Proof.Machine.lidFn, Sys2Proof.Claims.filter_part h, List.countP_eq_length_filter]
    rfl

section
/-! PROOF. `vote` and `match` (O13). -/

namespace Sys2Proof.Claims
open Sys2Proof.Machine

/-! ### Properties that agree on what is seen -/

section
variable {ls : List LaneIn} {p q : LaneIn → Bool}

theorem any_congr_mem (h : ∀ l ∈ ls, p l = q l) : ls.any p = ls.any q := by
  rw [Bool.eq_iff_iff, List.any_eq_true, List.any_eq_true]
  exact exists_congr fun l => and_congr_right fun hl => by rw [h l hl]

theorem all_congr_mem (h : ∀ l ∈ ls, p l = q l) : ls.all p = ls.all q := by
  rw [Bool.eq_iff_iff, List.all_eq_true, List.all_eq_true]
  exact forall₂_congr fun l hl => by rw [h l hl]

theorem among_congr (h : ∀ l ∈ ls, p l = q l) (v : Nat) : among ls v p = among ls v q := by
  refine congrArg (ofBits 64) (funext fun j => ?_)
  cases hfind : ls.find? (fun l => l.vid == 32 * (v / 32) + j) with
  | none => rfl
  | some l => rw [Option.map_some, Option.map_some, h l (List.mem_of_find?_eq_some hfind)]

end

section
variable {o : F3}

/-- A register that receives the absent mask (R161). -/
theorem ne_lit_of_mask {u : F3Rule} {n : Nat} (h : u.ok o = true) (hc : u.c = .dst n) : o.c ≠ Reg.lit := by
  simp only [F3Rule.ok, hc, FieldUse.ok, Bool.and_eq_true] at h
  exact ne_lit_of_okGroup (by tauto)

theorem mask_of_ne_lit {c : Reg} (hc : c ≠ Reg.lit) : ∀ r n, some (Dst.reg c 1) = some (.reg r n) → n = 1 ∧ r ≠ Reg.lit := by
  intro r n h
  obtain ⟨rfl, rfl⟩ := Dst.reg.inj (Option.some.inj h)
  exact ⟨rfl, hc⟩

/-! ### Votes (R161) -/

/-- P holds in a lane that takes part. -/
def voteHolds (l : LaneIn) : Bool := l.act && opAt l.ops 0 != 0

/-- The results of a vote over lanes of which those that take part are active. -/
def voted (m : VMode) (ls : List LaneIn) : CrossOut := match m with
  | .any => alike (truth (ls.any voteHolds)) false 0 ls
  | .all => alike (truth (ls.all (fun l => !l.act || voteHolds l))) false 0 ls
  | .count => alike (BitVec.ofNat 64 (ls.countP voteHolds)) false 0 ls
  | .ballot => acting (fun l => (among ls l.vid voteHolds, false)) 0 ls

theorem voteFn_eq (m : VMode) {uni : Bool} {ls : List LaneIn} (h : ∀ l ∈ ls, (uni || l.act) = l.act) :
    voteFn m uni ls = some (voted m ls) := by
  have hholds : ∀ l ∈ ls, ((uni || l.act) && opAt l.ops 0 != 0) = voteHolds l := fun l hl => by rw [h l hl, voteHolds]
  cases m with
  | any => exact congrArg (fun b => sameOut ls (boolVal b) false 0) (any_congr_mem hholds)
  | all => exact congrArg (fun b => sameOut ls (boolVal b) false 0) (all_congr_mem fun l hl => by dsimp only; rw [hholds l hl, h l hl])
  | count =>
    rw [voted, List.countP_eq_length_filter]
    exact congrArg (fun k => sameOut ls (BitVec.ofNat 64 (List.length k)) false 0) (List.filter_congr hholds)
  | ballot => exact lanesOut_actOut 0 fun l => by rw [groupMask_eq, among_congr hholds]

/-- The destination of a vote: a predicate code or a register. -/
def voteDst (m : VMode) (o : F3) : Dst := if m = .any || m = .all then .pcode o.d else .reg o.d 1

/-- A vote is lane-shaped where each group has its own result. -/
theorem sweeps_vote {m : VMode} {sub : BitVec 4} (henc : encode (.vote m o) = [o.word 0x61 sub]) : Sweeps (.vote m o)
    ⟨⟨o.p, voteDst m o, [.pcode o.a]⟩, some (.reg o.c 1), m = .ballot, true, []⟩ always (fun _ => voted m) := by
  have hlane : decide (m = .ballot) = ((if m = .ballot then DstRule.laneShape else .anyCore) == .laneShape
      || (if m = .ballot then DstRule.laneShape else .anyCore) == .lanePlace) := by cases m <;> rfl
  rw [hlane]
  refine sweeps_of_crosses (d := descVote m o) (fun _ => rfl)
    (fun hw => crossDesc_crosses (by simp) ?_ (mask_of_ne_lit (ne_lit_of_mask hw rfl)) ?_) henc rfl
    fun _ _ _ _ _ uni _ => voteFn_eq m fun _ => act_of_seen
  · cases m with
    | any | all => simp
    | count | ballot => exact dst_ne_lit (ne_lit_of_rule hw rfl)
  · cases m <;> simp [Dst.regs, Src.regs]

/-! ### Matches (R162) -/

/-- The participants of a lane's group whose A equals its own. -/
def matching (ls : List LaneIn) (l : LaneIn) : DWord := among ls l.vid (fun k => k.act && opAt k.ops 0 == opAt l.ops 0)

/-- What a lane that takes part in a match is given. -/
def matched (all : Bool) (ls : List LaneIn) (l : LaneIn) : DWord :=
  if all then (if matching ls l = among ls l.vid (fun k => k.act) then matching ls l else 0) else matching ls l

theorem matchFn_eq (all : Bool) (ls : List LaneIn) : matchFn all ls = some (acting (fun l => (matched all ls l, false)) 0 ls) := by
  refine lanesOut_actOut 0 fun l => ?_
  rw [groupMask_eq, groupMask_eq]
  refine congrArg (fun v => (v, false)) ?_
  cases all with
  | false => rfl
  | true =>
    by_cases hsame : matching ls l = among ls l.vid (fun k => k.act)
    · exact (if_pos hsame).trans (hsame.symm.trans (if_pos hsame).symm)
    · exact (if_neg hsame).trans (if_neg hsame).symm

theorem sweeps_match {all : Bool} {sub : BitVec 4} (henc : encode (.matchOp all o) = [o.word 0x62 sub]) :
    Sweeps (.matchOp all o) ⟨⟨o.p, .reg o.d 1, [.reg o.a (Ty.regs o.ty) (litVal o.ty o.imm)]⟩, some (.reg o.c 1), true, false, []⟩
      always (fun _ ls => acting (fun l => (matched all ls l, false)) 0 ls) := by
  refine sweeps_of_crosses (d := descMatch all o) (fun _ => rfl) (fun hw => ?_) henc rfl fun _ _ _ _ _ _ _ => matchFn_eq all _
  simp only [Instr.wf, Instr.legal, Bool.and_eq_true] at hw
  obtain ⟨hrule, -⟩ := hw
  exact crossDesc_crosses (rule := .laneShape) (by simp [srcOf]) (dst_ne_lit (ne_lit_of_rule hrule rfl))
    (mask_of_ne_lit (ne_lit_of_mask hrule rfl)) (by simp [Dst.regs, Src.regs, srcOf, regs_pos])

end

end Sys2Proof.Claims
end

/-- Settles O13: the shared operation over the lanes of the team, with masks of members as their bits. Where D and SC of
`vote.count` are one TEAM register the absent mask remains, which is the choice of the model that log entry 71 names. -/
theorem votesAndMatches : Obligations.VotesAndMatches := by
  unfold Obligations.VotesAndMatches
  intro o
  exact ⟨Sys2Proof.Claims.sweeps_vote rfl, Sys2Proof.Claims.sweeps_vote rfl, Sys2Proof.Claims.sweeps_vote rfl,
    Sys2Proof.Claims.sweeps_vote rfl, Sys2Proof.Claims.sweeps_match rfl, Sys2Proof.Claims.sweeps_match rfl⟩

section
/-! PROOF. Combinations over lanes (O14): values combined one after another as the model combines them. -/

namespace Sys2Proof.Claims
open Sys2Proof.Machine

/-! ### Flags joined (R84) -/

theorem flags_zero_or (x : Flags) : 0 ||| x = x := BitVec.zero_or

@[simp] theorem joinFlags_nil : joinFlags [] = 0 := rfl

theorem joinFlags_concat (l : List Flags) (x : Flags) : joinFlags (l ++ [x]) = joinFlags l ||| x := by
  rw [joinFlags, List.foldl_append]
  rfl

theorem joinFlags_cons (x : Flags) (l : List Flags) : joinFlags (x :: l) = x ||| joinFlags l := by
  induction l using List.reverseRecOn with
  | nil => simp [joinFlags]
  | append_singleton l y ih => rw [← List.cons_append, joinFlags_concat, joinFlags_concat, ih, BitVec.or_assoc]

/-- Flags of two kinds joined over the same things. -/
theorem joinFlags_or {α : Type} (f g : α → Flags) (l : List α) :
    joinFlags (l.map f) ||| joinFlags (l.map g) = joinFlags (l.map (fun x => f x ||| g x)) := by
  induction l with
  | nil => exact BitVec.or_zero
  | cons x l ih =>
    rw [List.map_cons, List.map_cons, List.map_cons, joinFlags_cons, joinFlags_cons, joinFlags_cons, ← ih]
    ac_rfl

/-- A flag joined is that of one of them. -/
theorem getLsbD_joinFlags (l : List Flags) (i : Nat) : (joinFlags l).getLsbD i = l.any (fun x => x.getLsbD i) := by
  induction l with
  | nil => simp
  | cons x l ih => rw [joinFlags_cons, BitVec.getLsbD_or, ih, List.any_cons]

/-! ### Values combined (R163) -/

section
variable {op : ROp} {ty : Ty} {r : Rnd} {sat : Bool}

/-- Values combined after what is reached already, with the flags of the steps. -/
def accRun (op : ROp) (ty : Ty) (r : Rnd) (a : Acc × Flags) (vs : List DWord) : Acc × Flags :=
  vs.foldl (fun a v => ((ropStep op ty r a.1 v.toNat).1, a.2 ||| (ropStep op ty r a.1 v.toNat).2)) a

/-- A combination of values from the first one (R163). -/
def accOf (op : ROp) (ty : Ty) (r : Rnd) (vs : List DWord) : Acc × Flags := accRun op ty r (.start, 0) vs

theorem accOf_concat (vs : List DWord) (v : DWord) : accOf op ty r (vs ++ [v])
    = ((ropStep op ty r (accOf op ty r vs).1 v.toNat).1, (accOf op ty r vs).2 ||| (ropStep op ty r (accOf op ty r vs).1 v.toNat).2) := by
  rw [accOf, accRun, List.foldl_append]
  rfl

theorem accRun_cons {acc acc' : Acc} {fl gl : Flags} {v : DWord} (h : ropStep op ty r acc v.toNat = (acc', gl)) (vs : List DWord) :
    accRun op ty r (acc, fl) (v :: vs) = accRun op ty r (acc', fl ||| gl) vs := by
  rw [accRun, List.foldl_cons, h]
  rfl

/-- More values keep the flags of those before them. -/
theorem accOf_flag_append {i : Nat} (vs ws : List DWord) (h : (accOf op ty r vs).2.getLsbD i = true) :
    (accOf op ty r (vs ++ ws)).2.getLsbD i = true := by
  induction ws using List.reverseRecOn with
  | nil => rwa [List.append_nil]
  | append_singleton ws w ih => rw [← List.append_assoc, accOf_concat, BitVec.getLsbD_or, ih, Bool.true_or]

/-- One more integer combined: sums are exact, bits those of what is reached. -/
def intStep (op : ROp) (ty : Ty) (x : Int) (v : DWord) : Int :=
  let y := el (Ty.elemBits ty) 0 v
  match op with
  | .add => x + num (Ty.signed ty) y
  | .min => min x (num (Ty.signed ty) y)
  | .max => max x (num (Ty.signed ty) y)
  | .and => (BitVec.ofInt _ x &&& y).toNat
  | .or => (BitVec.ofInt _ x ||| y).toNat
  | .xor => (BitVec.ofInt _ x ^^^ y).toNat

theorem ropStep_int (hf : Ty.isFloat ty = false) (x : Int) (v : DWord) :
    ropStep op ty r (.int x) v.toNat = (.int (intStep op ty x v), 0) := by
  cases op <;> simp [ropStep, hf, intStep, valOf_operand (elemBits_pos ty), wrapTo_eq_ofInt, toNat_el_zero]

theorem accRun_int (hf : Ty.isFloat ty = false) (x : Int) (vs : List DWord) :
    accRun op ty r (.int x, 0) vs = (.int (vs.foldl (intStep op ty) x), 0) := by
  induction vs generalizing x with
  | nil => rfl
  | cons v vs ih =>
    rw [List.foldl_cons, ← ih, accRun_cons (ropStep_int hf x v), flags_or_zero]

/-- The first integer stands alone. -/
theorem accOf_int (hf : Ty.isFloat ty = false) (v : DWord) (vs : List DWord) : accOf op ty r (v :: vs)
    = (.int (vs.foldl (intStep op ty) (num (Ty.signed ty) (el (Ty.elemBits ty) 0 v))), 0) := by
  have hstep : ropStep op ty r .start v.toNat = (.int (num (Ty.signed ty) (el (Ty.elemBits ty) 0 v)), 0) := by
    simp [ropStep, hf, valOf_operand (elemBits_pos ty)]
  rw [accOf, accRun_cons hstep, flags_or_zero, accRun_int hf]

/-- Bits combined number by number. -/
theorem ofInt_foldl {w : Nat} (g : BitVec w → BitVec w → BitVec w) (x : Int) (vs : List DWord) :
    BitVec.ofInt w (vs.foldl (fun x v => ((g (BitVec.ofInt w x) (el w 0 v)).toNat : Int)) x)
      = (vs.map (fun v => el w 0 v)).foldl g (BitVec.ofInt w x) := by
  induction vs generalizing x with
  | nil => rfl
  | cons v vs ih =>
    rw [List.foldl_cons, ih, BitVec.ofInt_natCast, BitVec.ofNat_toNat, BitVec.setWidth_eq]
    rfl

theorem fit_unsat (w : Nat) (sgn : Bool) (x : Int) : fit w sgn false x = (BitVec.ofInt w x, 0) := rfl

/-- The results of integers are those of the statement (R163). -/
theorem combined_int (hf : Ty.isFloat ty = false) (hsat : op ≠ .add → sat = false) (v : DWord) (vs : List DWord) :
    one (fit (Ty.elemBits ty) (Ty.signed ty) sat (vs.foldl (intStep op ty) (num (Ty.signed ty) (el (Ty.elemBits ty) 0 v))))
      = combined op ty r sat (v :: vs) := by
  have hbits (g : BitVec (Ty.elemBits ty) → BitVec (Ty.elemBits ty) → BitVec (Ty.elemBits ty)) :=
    ofInt_foldl g (num (Ty.signed ty) (el (Ty.elemBits ty) 0 v)) vs
  simp only [ofInt_num] at hbits
  cases op with
  | add => simp only [combined, List.map_cons, hf, List.foldl_map]; rfl
  | min | max => simp only [combined, List.map_cons, hf, List.foldl_map, hsat (by simp)]; rfl
  | and => simp only [combined, List.map_cons, hf, hsat (by simp), fit_unsat, ← hbits]; rfl
  | or => simp only [combined, List.map_cons, hf, hsat (by simp), fit_unsat, ← hbits]; rfl
  | xor => simp only [combined, List.map_cons, hf, hsat (by simp), fit_unsat, ← hbits]; rfl

/-- One more float value combined with the bits reached (R78 to R80). -/
def floatStep (op : ROp) (r : Rnd) (b y : Nat) : Nat × Flags := match op with
  | .add => ffF32.roundX r false (FVal.sum r [ffF32.val b, ffF32.val y])
  | .min => ffF32.minmax false b y
  | _ => ffF32.minmax true b y

theorem val_el_f32 (v : DWord) : ffF32.val (el 32 0 v).toNat = ffF32.val v.toNat := val_operand (ty := .f32) (by decide) v

theorem mod_el_f32 (v : DWord) : (el 32 0 v).toNat % 2 ^ ffF32.width = v.toNat % 2 ^ ffF32.width := by
  rw [toNat_el_zero]
  exact Nat.mod_mod _ _

theorem minmax_el (mx : Bool) (x : Nat) (v : DWord) : ffF32.minmax mx x (el 32 0 v).toNat = ffF32.minmax mx x v.toNat := by
  simp only [FFmt.minmax, val_el_f32, mod_el_f32]

theorem canon_el (v : DWord) : ffF32.canon (el 32 0 v).toNat = ffF32.canon v.toNat := by
  simp only [FFmt.canon, val_el_f32, mod_el_f32]

theorem ropStep_float (b : Nat) (v : DWord) : ropStep op .f32 r (.bits b) v.toNat
    = (.bits (floatStep op r b (el 32 0 v).toNat).1, (floatStep op r b (el 32 0 v).toNat).2) := by
  cases op <;> simp only [floatStep, val_el_f32, minmax_el] <;> rfl

/-- Float values combined, with the flags of the steps. -/
def floatRun (op : ROp) (r : Rnd) (a : Nat × Flags) (vs : List DWord) : Nat × Flags :=
  (vs.map (fun v => el 32 0 v)).foldl (fun a y => ((floatStep op r a.1 y.toNat).1, a.2 ||| (floatStep op r a.1 y.toNat).2)) a

theorem accRun_float (a : Nat × Flags) (vs : List DWord) :
    accRun op .f32 r (.bits a.1, a.2) vs = (.bits (floatRun op r a vs).1, (floatRun op r a vs).2) := by
  induction vs generalizing a with
  | nil => rfl
  | cons v vs ih =>
    rw [accRun_cons (ropStep_float a.1 v)]
    exact ih ((floatStep op r a.1 (el 32 0 v).toNat).1, a.2 ||| (floatStep op r a.1 (el 32 0 v).toNat).2)

/-- The first float value is a result too, and so canonical (R79). -/
theorem accOf_float (v : DWord) (vs : List DWord) : accOf op .f32 r (v :: vs)
    = (.bits (floatRun op r (ffF32.canon (el 32 0 v).toNat) vs).1, (floatRun op r (ffF32.canon (el 32 0 v).toNat) vs).2) := by
  have hstart : ropStep op .f32 r .start v.toNat = (.bits (ffF32.canon v.toNat).1, (ffF32.canon v.toNat).2) := rfl
  rw [accOf, accRun_cons hstart, flags_zero_or, accRun_float, canon_el]

/-- The results of float values are those of the statement (R163). -/
theorem combined_float (v : DWord) (vs : List DWord) : combined op .f32 r sat (v :: vs)
    = (BitVec.ofNat 64 (floatRun op r (ffF32.canon (el 32 0 v).toNat) vs).1, (floatRun op r (ffF32.canon (el 32 0 v).toNat) vs).2) := by
  cases op <;> rfl

/-- A combination of no values (R163). -/
theorem combined_nil (hf : Ty.isFloat ty = true → ty = .f32) : combined op ty r sat [] = (BitVec.ofNat 64 (ropIdentity op ty), 0) := by
  cases op with
  | add | or | xor => rfl
  | and =>
    refine Prod.ext ?_ rfl
    simp only [combined, List.map_nil, ropIdentity]
    rw [← ofNat_eq_setWidth, BitVec.toNat_allOnes]
  | min | max =>
    refine Prod.ext ?_ rfl
    cases h : Ty.isFloat ty with
    | true =>
      obtain rfl := hf h
      rfl
    | false =>
      simp only [combined, List.map_nil, ropIdentity, h, Bool.false_eq_true, if_false, ofNat_wrapTo, intMax_eq_greatest, intMin_eq_least]

/-- What the model gives of a combination is the combination of the statement (R163). -/
theorem accVal_accOf (hf : Ty.isFloat ty = true → ty = .f32) (hsat : op ≠ .add → sat = false) (vs : List DWord) :
    (BitVec.ofNat 64 (accVal op ty sat (accOf op ty r vs).1).1, (accOf op ty r vs).2 ||| (accVal op ty sat (accOf op ty r vs).1).2)
      = combined op ty r sat vs := by
  cases vs with
  | nil =>
    rw [combined_nil hf]
    exact Prod.ext rfl (flags_or_zero 0)
  | cons v vs =>
    cases h : Ty.isFloat ty with
    | true =>
      obtain rfl := hf h
      rw [combined_float, accOf_float]
      exact Prod.ext rfl (flags_or_zero _)
    | false =>
      rw [← combined_int h hsat, accOf_int h, ← one_fitInt]
      exact Prod.ext rfl (flags_zero_or _)

end

end Sys2Proof.Claims
end

section
/-! PROOF. Combinations over lanes (O14), continued: a scan of the participants, segment by segment. -/

namespace Sys2Proof.Claims
open Sys2Proof.Machine

/-! ### Segments (R163) -/

section
variable {head : LaneIn → Bool} {ps : List LaneIn}

/-- What the participant after `ps` is combined with. -/
def openSeg (head : LaneIn → Bool) (seg : List LaneIn) (l : LaneIn) : List LaneIn := if head l then [] else seg

/-- The last segment of the participants `ps`. -/
def lastSeg (head : LaneIn → Bool) (ps : List LaneIn) : List LaneIn := ps.foldl (fun seg l => openSeg head seg l ++ [l]) []

theorem lastSeg_concat (l : LaneIn) : lastSeg head (ps ++ [l]) = openSeg head (lastSeg head ps) l ++ [l] := by
  rw [lastSeg, List.foldl_append]
  rfl

theorem lastSeg_whole (ps : List LaneIn) : lastSeg (fun _ => false) ps = ps := by
  induction ps using List.reverseRecOn with
  | nil => rfl
  | append_singleton ps l ih => rw [lastSeg_concat, ih]; rfl

theorem segStart_zero : segStart head ps 0 = 0 := by simp [segStart]

theorem segStart_succ {k : Nat} (hk : k + 1 < ps.length) :
    segStart head ps (k + 1) = if head ps[k + 1] then k + 1 else segStart head ps k := by
  rw [segStart, List.range_succ, List.reverse_append, List.reverse_singleton, List.singleton_append, List.find?_cons,
    List.getElem?_eq_getElem hk]
  cases h : head ps[k + 1] <;> simp [h, segStart]

theorem segStart_le (k : Nat) : segStart head ps k ≤ k := by
  rw [segStart]
  cases h : (List.range (k + 1)).reverse.find? (fun j => j == 0 || (ps[j]?).elim false head) with
  | none => exact Nat.zero_le k
  | some j =>
    have := List.mem_of_find?_eq_some h
    simp only [List.mem_reverse, List.mem_range] at this
    exact Nat.le_of_lt_succ this

/-- The segment of place `k` up to it. -/
theorem drop_segStart {k : Nat} (hk : k < ps.length) : (ps.take (k + 1)).drop (segStart head ps k) = lastSeg head (ps.take (k + 1)) := by
  induction k with
  | zero =>
    rw [segStart_zero, List.take_add_one, List.getElem?_eq_getElem hk]
    simp [lastSeg, openSeg]
  | succ k ih =>
    have hk' : k < ps.length := Nat.lt_of_succ_lt hk
    rw [List.take_add_one (i := k + 1), List.getElem?_eq_getElem hk, Option.toList_some, lastSeg_concat, ← ih hk',
      segStart_succ hk, openSeg]
    cases head ps[k + 1] with
    | true =>
      rw [if_pos rfl, if_pos rfl, List.nil_append]
      exact List.drop_left' (List.length_take_of_le hk.le)
    | false =>
      refine List.drop_append_of_le_length ?_
      rw [List.length_take_of_le hk.le]
      exact Nat.le_succ_of_le (segStart_le k)

/-- Where the segment of place `k` ends: beyond `k`, and no head before that. -/
theorem segEnd_spec {k : Nat} (hk : k < ps.length) : k < segEnd head ps k ∧ segEnd head ps k ≤ ps.length
    ∧ ∀ j (hj : j < ps.length), k < j → j < segEnd head ps k → head ps[j] = false := by
  rw [segEnd]
  cases h : (List.range ps.length).find? (fun j => decide (k < j) && (ps[j]?).elim false head) with
  | none =>
    refine ⟨hk, le_rfl, fun j hj hkj _ => ?_⟩
    have := List.find?_eq_none.1 h j (List.mem_range.2 hj)
    simpa [hkj, hj] using this
  | some e =>
    obtain ⟨he, i, hi, rfl, hbefore⟩ := List.find?_eq_some_iff_getElem.1 h
    rw [List.length_range] at hi
    simp only [List.getElem_range, Bool.and_eq_true, decide_eq_true_eq] at he hbefore
    refine ⟨by simpa using he.1, by simpa using hi.le, fun j hj hkj hji => ?_⟩
    have := hbefore j (by simpa using hji)
    simpa [hkj, hj] using this

/-- A place of the same segment starts where `k` does. -/
theorem segStart_eq {k e : Nat} (hke : k ≤ e) (he : e < segEnd head ps k) (hk : k < ps.length) :
    segStart head ps e = segStart head ps k := by
  obtain ⟨-, hlen, hnone⟩ := segEnd_spec (head := head) hk
  induction e, hke using Nat.le_induction with
  | base => rfl
  | succ e hke ih =>
    have hlt : e + 1 < ps.length := Nat.lt_of_lt_of_le he hlen
    rw [segStart_succ hlt, hnone _ hlt (Nat.lt_succ_of_le hke) he, ih (Nat.lt_of_succ_lt he)]
    rfl

/-- The whole segment of place `k`. -/
theorem drop_segEnd {k : Nat} (hk : k < ps.length) :
    (ps.take (segEnd head ps k)).drop (segStart head ps k) = lastSeg head (ps.take (segEnd head ps k)) := by
  obtain ⟨hlt, hlen, -⟩ := segEnd_spec (head := head) hk
  obtain ⟨e, he⟩ : ∃ e, segEnd head ps k = e + 1 := Nat.exists_eq_succ_of_ne_zero (by omega)
  have hstart : segStart head ps e = segStart head ps k := segStart_eq (by omega) (by omega) hk
  rw [he, ← hstart]
  exact drop_segStart (by omega)

/-- One more participant ends the last segment, or belongs to it. -/
theorem segEnd_concat {k : Nat} (hk : k < ps.length) (l : LaneIn) : segEnd head (ps ++ [l]) k
    = if segEnd head ps k < ps.length then segEnd head ps k else if head l then ps.length else ps.length + 1 := by
  have hold : (List.range ps.length).find? (fun j => decide (k < j) && ((ps ++ [l])[j]?).elim false head)
      = (List.range ps.length).find? (fun j => decide (k < j) && (ps[j]?).elim false head) := by
    refine List.find?_congr fun j hj => ?_
    rw [List.getElem?_append_left (List.mem_range.1 hj)]
  rw [segEnd, segEnd, List.length_append, List.length_singleton, List.range_succ, List.find?_append, hold]
  cases h : (List.range ps.length).find? (fun j => decide (k < j) && (ps[j]?).elim false head) with
  | some e =>
    have := List.mem_range.1 (List.mem_of_find?_eq_some h)
    simp [this]
  | none => cases hl : head l <;> simp [hk, hl]

end

/-! ### A scan of the participants (R163) -/

section
variable {op : ROp} {ty : Ty} {r : Rnd} {sat : Bool} {head : LaneIn → Bool} {ps : List LaneIn}

/-- The values of participants. -/
def valuesOf (ps : List LaneIn) : List DWord := ps.map (fun l => opAt l.ops 0)

theorem valuesOf_append (ps qs : List LaneIn) : valuesOf (ps ++ qs) = valuesOf ps ++ valuesOf qs := List.map_append

theorem valuesOf_concat (ps : List LaneIn) (l : LaneIn) : valuesOf (ps ++ [l]) = valuesOf ps ++ [opAt l.ops 0] := valuesOf_append ps [l]

/-- What the participant after `ps` is combined with, as the model has it. -/
theorem accOf_openSeg (l : LaneIn) : (if head l then Acc.start else (accOf op ty r (valuesOf ps)).1)
    = (accOf op ty r (valuesOf (openSeg head ps l))).1 := by
  rw [openSeg]
  cases head l <;> rfl

/-- One more participant in a scan. -/
theorem scanLanes_concat (acc : Acc) (ps : List LaneIn) (l : LaneIn) :
    let carry := ps.foldl (fun a k => (ropStep op ty r (if head k then .start else a) (opAt k.ops 0).toNat).1) acc
    let before := if head l then Acc.start else carry
    scanLanes op ty r head acc (ps ++ [l])
      = ((scanLanes op ty r head acc ps).1 ++ [(l, before, (ropStep op ty r before (opAt l.ops 0).toNat).1)],
        (scanLanes op ty r head acc ps).2 ||| (ropStep op ty r before (opAt l.ops 0).toNat).2) := by
  induction ps generalizing acc with
  | nil => exact Prod.ext rfl (BitVec.or_comm _ _)
  | cons k ps ih =>
    simp only [List.cons_append, scanLanes, ih, List.foldl_cons, BitVec.or_assoc]

/-- A scan goes on from the combination of the last segment. -/
theorem carry_eq (ps : List LaneIn) : ps.foldl (fun a k => (ropStep op ty r (if head k then .start else a) (opAt k.ops 0).toNat).1) .start
    = (accOf op ty r (valuesOf (lastSeg head ps))).1 := by
  induction ps using List.reverseRecOn with
  | nil => rfl
  | append_singleton ps l ih =>
    rw [List.foldl_append, List.foldl_cons, List.foldl_nil, ih, accOf_openSeg, lastSeg_concat, valuesOf_concat, accOf_concat]

/-- The combinations that a participant at place `k` has before it and with it. -/
def scanEntry (op : ROp) (ty : Ty) (r : Rnd) (head : LaneIn → Bool) (ps : List LaneIn) (x : LaneIn × Nat) : LaneIn × Acc × Acc :=
  (x.1, (accOf op ty r (valuesOf (openSeg head (lastSeg head (ps.take x.2)) x.1))).1,
    (accOf op ty r (valuesOf (lastSeg head (ps.take (x.2 + 1))))).1)

theorem scanLanes_start_concat (ps : List LaneIn) (l : LaneIn) : scanLanes op ty r head .start (ps ++ [l])
    = ((scanLanes op ty r head .start ps).1 ++ [(l, (accOf op ty r (valuesOf (openSeg head (lastSeg head ps) l))).1,
        (accOf op ty r (valuesOf (lastSeg head (ps ++ [l])))).1)],
      (scanLanes op ty r head .start ps).2
        ||| (ropStep op ty r (accOf op ty r (valuesOf (openSeg head (lastSeg head ps) l))).1 (opAt l.ops 0).toNat).2) := by
  rw [scanLanes_concat]
  simp only [carry_eq, accOf_openSeg, lastSeg_concat, valuesOf_concat, accOf_concat]

theorem zipIdx_concat {α : Type} (ps : List α) (l : α) : (ps ++ [l]).zipIdx = ps.zipIdx ++ [(l, ps.length)] := by
  rw [List.zipIdx_append, Nat.zero_add]
  rfl

/-- Places of participants are below their number. -/
theorem lt_of_mem_zipIdx {x : LaneIn × Nat} (hx : x ∈ ps.zipIdx) : x.2 < ps.length := by
  have := (List.mem_zipIdx hx).2.1
  rwa [Nat.zero_add] at this

theorem scanLanes_fst (ps : List LaneIn) : (scanLanes op ty r head .start ps).1 = ps.zipIdx.map (scanEntry op ty r head ps) := by
  induction ps using List.reverseRecOn with
  | nil => rfl
  | append_singleton ps l ih =>
    rw [scanLanes_start_concat, ih, zipIdx_concat, List.map_append, List.map_singleton]
    refine congrArg₂ (· ++ ·) (List.map_congr_left fun x hx => ?_) ?_
    · have hlt := lt_of_mem_zipIdx hx
      rw [scanEntry, scanEntry, List.take_append_of_le_length hlt.le, List.take_append_of_le_length (i := x.2 + 1) hlt]
    · rw [scanEntry, List.take_left, List.take_of_length_le (by simp)]

/-- The flags of the combinations of participants `part` names. -/
def partFlags (op : ROp) (ty : Ty) (r : Rnd) (part : Nat → List LaneIn) (n : Nat) : Flags :=
  joinFlags ((List.range n).map (fun k => (accOf op ty r (valuesOf (part k))).2))

theorem partFlags_succ (part : Nat → List LaneIn) (n : Nat) :
    partFlags op ty r part (n + 1) = partFlags op ty r part n ||| (accOf op ty r (valuesOf (part n))).2 := by
  rw [partFlags, List.range_succ, List.map_append, List.map_singleton, joinFlags_concat]
  rfl

theorem partFlags_congr {part part' : Nat → List LaneIn} {n : Nat} (h : ∀ k, k < n → part k = part' k) :
    partFlags op ty r part n = partFlags op ty r part' n :=
  congrArg joinFlags (List.map_congr_left fun k hk => by rw [h k (List.mem_range.1 hk)])

/-- The flags of the last segment are among those of the segments up to each place. -/
theorem partFlags_lastSeg (ps : List LaneIn) : partFlags op ty r (fun k => lastSeg head (ps.take (k + 1))) ps.length
    ||| (accOf op ty r (valuesOf (lastSeg head ps))).2 = partFlags op ty r (fun k => lastSeg head (ps.take (k + 1))) ps.length := by
  rcases ps.eq_nil_or_concat' with rfl | ⟨qs, m, rfl⟩
  · exact flags_or_zero 0
  · rw [List.length_append, List.length_singleton, partFlags_succ, List.take_of_length_le (by simp), BitVec.or_assoc, BitVec.or_self]

/-- The flags of a scan are those of the segments up to each place. -/
theorem scanLanes_snd (ps : List LaneIn) : (scanLanes op ty r head .start ps).2
    = partFlags op ty r (fun k => lastSeg head (ps.take (k + 1))) ps.length := by
  induction ps using List.reverseRecOn with
  | nil => rfl
  | append_singleton ps l ih =>
    have hold : partFlags op ty r (fun k => lastSeg head ((ps ++ [l]).take (k + 1))) ps.length
        = partFlags op ty r (fun k => lastSeg head (ps.take (k + 1))) ps.length :=
      partFlags_congr fun k hk => by rw [List.take_append_of_le_length hk]
    have habsorb : partFlags op ty r (fun k => lastSeg head (ps.take (k + 1))) ps.length
        ||| (accOf op ty r (valuesOf (openSeg head (lastSeg head ps) l))).2
        = partFlags op ty r (fun k => lastSeg head (ps.take (k + 1))) ps.length := by
      rw [openSeg]
      split
      · exact flags_or_zero _
      · exact partFlags_lastSeg ps
    rw [scanLanes_start_concat, ih, List.length_append, List.length_singleton, partFlags_succ, hold,
      List.take_of_length_le (by simp), lastSeg_concat, valuesOf_concat, accOf_concat, ← BitVec.or_assoc, habsorb]

end

end Sys2Proof.Claims
end

section
/-! PROOF. REDUX, PREFIX and SEGM (O14): whole segments, and the results of a scan. -/

namespace Sys2Proof.Claims
open Sys2Proof.Machine

section
variable {op : ROp} {ty : Ty} {r : Rnd} {sat : Bool} {head : LaneIn → Bool}

/-! ### Whole segments (R163) -/

/-- The combination of the whole segment of place `k`. -/
def totalAt (op : ROp) (ty : Ty) (r : Rnd) (head : LaneIn → Bool) (ps : List LaneIn) (k : Nat) : Acc :=
  (accOf op ty r (valuesOf (lastSeg head (ps.take (segEnd head ps k))))).1

/-- Totals found from the end: places of the last segment take what is found already, or else its combination. -/
theorem segTotals_reverse (ps : List LaneIn) (tot : Option Acc) : segTotals head (scanLanes op ty r head .start ps).1.reverse tot
    = (ps.zipIdx.map (fun x => (x.1, if segEnd head ps x.2 < ps.length then totalAt op ty r head ps x.2
        else tot.getD (accOf op ty r (valuesOf (lastSeg head ps))).1))).reverse := by
  induction ps using List.reverseRecOn generalizing tot with
  | nil => rfl
  | append_singleton ps l ih =>
    rw [scanLanes_start_concat, List.reverse_append, List.reverse_singleton, List.singleton_append, segTotals, ih, zipIdx_concat,
      List.map_append, List.map_singleton, List.reverse_append, List.reverse_singleton, List.singleton_append]
    refine congrArg₂ List.cons ?_ (congrArg List.reverse (List.map_congr_left fun x hx => ?_))
    · have hlast := (segEnd_spec (head := head) (ps := ps ++ [l]) (k := ps.length) (by simp)).1
      rw [if_neg (by simp only [List.length_append, List.length_singleton]; omega)]
    · have hx := lt_of_mem_zipIdx hx
      refine congrArg (Prod.mk x.1) ?_
      rw [totalAt, totalAt, segEnd_concat hx, List.length_append, List.length_singleton]
      by_cases hin : segEnd head ps x.2 < ps.length
      · rw [if_pos hin, if_pos hin, if_pos (by omega), List.take_append_of_le_length hin.le]
      · rw [if_neg hin, if_neg hin]
        cases head l with
        | true => rw [if_pos rfl, if_pos rfl, if_pos (Nat.lt_succ_self _), List.take_left]; rfl
        | false => rw [if_neg Bool.false_ne_true, if_neg Bool.false_ne_true, if_neg (Nat.lt_irrefl _)]; rfl

theorem segTotals_eq (ps : List LaneIn) : (segTotals head (scanLanes op ty r head .start ps).1.reverse none).reverse
    = ps.zipIdx.map (fun x => (x.1, totalAt op ty r head ps x.2)) := by
  rw [segTotals_reverse, List.reverse_reverse]
  refine List.map_congr_left fun x hx => congrArg (Prod.mk x.1) ?_
  split
  · rfl
  · have hend : segEnd head ps x.2 = ps.length := by
      have := (segEnd_spec (head := head) (lt_of_mem_zipIdx hx)).2.1
      omega
    rw [totalAt, hend, List.take_length]
    rfl

/-- A scan has the flags of whole segments. -/
theorem partFlags_segEnd (ps : List LaneIn) : partFlags op ty r (fun k => lastSeg head (ps.take (k + 1))) ps.length
    = partFlags op ty r (fun k => lastSeg head (ps.take (segEnd head ps k))) ps.length := by
  refine BitVec.eq_of_getLsbD_eq fun i _ => ?_
  rw [Bool.eq_iff_iff]
  simp only [partFlags, getLsbD_joinFlags, List.any_map, List.any_eq_true, List.mem_range, Function.comp_apply]
  constructor
  · rintro ⟨k, hk, hbit⟩
    have hle : k + 1 ≤ segEnd head ps k := (segEnd_spec (head := head) hk).1
    refine ⟨k, hk, ?_⟩
    obtain ⟨m, hm⟩ := Nat.exists_eq_add_of_le hle
    have hstart : segStart head ps k ≤ (ps.take (k + 1)).length := by
      rw [List.length_take_of_le hk]
      exact Nat.le_succ_of_le (segStart_le k)
    rw [← drop_segEnd hk, hm, List.take_add, List.drop_append_of_le_length hstart, drop_segStart hk, valuesOf_append]
    exact accOf_flag_append _ _ hbit
  · rintro ⟨k, hk, hbit⟩
    obtain ⟨hlt, hlen, -⟩ := segEnd_spec (head := head) hk
    refine ⟨segEnd head ps k - 1, by omega, ?_⟩
    rwa [Nat.sub_add_cancel (by omega)]

/-! ### Results of a scan -/

theorem foldl_or_joinFlags {α : Type} (g : α → Flags) (fl : Flags) (l : List α) :
    l.foldl (fun a x => a ||| g x) fl = fl ||| joinFlags (l.map g) := by
  induction l generalizing fl with
  | nil => exact (flags_or_zero fl).symm
  | cons x l ih => rw [List.foldl_cons, ih, List.map_cons, joinFlags_cons, BitVec.or_assoc]

/-- Results at the participants, each the combination of those that `part` names for it. -/
theorem scanOut_eq (hf : Ty.isFloat ty = true → ty = .f32) (hsat : op ≠ .add → sat = false)
    {part : List LaneIn → Nat → List LaneIn}
    {ls : List LaneIn} {xs : List (LaneIn × Acc)} {fl : Flags}
    (hxs : xs = (participants false ls).zipIdx.map (fun x => (x.1, (accOf op ty r (valuesOf (part (participants false ls) x.2))).1)))
    (hfl : fl = partFlags op ty r (part (participants false ls)) (participants false ls).length) :
    scanOut op ty sat xs fl = some (scanned op ty r sat part ls) := by
  subst hxs hfl
  have hval (k : Nat) := accVal_accOf (r := r) hf hsat (valuesOf (part (participants false ls) k))
  refine congrArg some (CrossOut.mk.injEq .. |>.mpr ⟨?_, rfl, rfl, ?_⟩)
  · rw [List.map_map, List.map_map]
    exact List.map_congr_left fun x _ => congrArg (fun v => (⟨x.1.vid, v, false⟩ : LaneOut)) (congrArg Prod.fst (hval x.2))
  · have hplaces (g : Nat → Flags) : (participants false ls).zipIdx.map (fun x => g x.2)
        = (List.range (participants false ls).length).map g := by
      rw [List.range_eq_range', ← List.zipIdx_map_snd, List.map_map]
      rfl
    rw [foldl_or_joinFlags, List.map_map, List.map_map]
    refine (congrArg (fun l => partFlags op ty r (part (participants false ls)) _ ||| joinFlags l) (hplaces (fun k =>
      (accVal op ty sat (accOf op ty r (valuesOf (part (participants false ls) k))).1).2))).trans ?_
    rw [partFlags, joinFlags_or]
    exact congrArg joinFlags (List.map_congr_left fun k _ => congrArg Prod.snd (hval k))

/-! ### The computations (R163) -/

theorem prefixFn_eq (hf : Ty.isFloat ty = true → ty = .f32) (hsat : op ≠ .add → sat = false) (ls : List LaneIn) :
    prefixFn op ty r sat false ls = some (scanned op ty r sat (fun ps k => ps.take (k + 1)) ls) := by
  refine scanOut_eq hf hsat ?_ ?_
  · rw [scanLanes_fst, List.map_map]
    exact List.map_congr_left fun x _ => by rw [Function.comp_apply, scanEntry, lastSeg_whole, lastSeg_whole]; rfl
  · exact (scanLanes_snd _).trans (partFlags_congr fun k _ => lastSeg_whole _)

/-- Before the first participant there is nothing to combine. -/
theorem partFlags_dropLast (ps : List LaneIn) : partFlags op ty r (fun k => ps.dropLast.take (k + 1)) ps.dropLast.length
    = partFlags op ty r (fun k => ps.take k) ps.length := by
  rcases ps.eq_nil_or_concat' with rfl | ⟨qs, m, rfl⟩
  · rfl
  · rw [List.dropLast_concat, List.length_append, List.length_singleton]
    conv_rhs => rw [partFlags, List.range_succ_eq_map, List.map_cons, joinFlags_cons, List.map_map]
    refine (congrArg joinFlags (List.map_congr_left fun k hk => ?_)).trans (flags_zero_or _).symm
    rw [Function.comp_apply, List.take_append_of_le_length (List.mem_range.1 hk)]

theorem prefixFn_excl_eq (hf : Ty.isFloat ty = true → ty = .f32) (hsat : op ≠ .add → sat = false) (ls : List LaneIn) :
    prefixFn op ty r sat true ls = some (scanned op ty r sat (fun ps k => ps.take k) ls) := by
  refine scanOut_eq hf hsat ?_ ?_
  · rw [scanLanes_fst, List.map_map]
    exact List.map_congr_left fun x _ => by rw [Function.comp_apply, scanEntry, lastSeg_whole]; rfl
  · exact ((scanLanes_snd _).trans (partFlags_congr fun k _ => lastSeg_whole _)).trans (partFlags_dropLast _)

/-- The participant at the start of a segment (R163). -/
def segHead (l : LaneIn) : Bool := opAt l.ops 1 != 0

theorem segmFn_eq (hf : Ty.isFloat ty = true → ty = .f32) (hsat : op ≠ .add → sat = false) (ls : List LaneIn) :
    segmFn op ty r sat false ls = some (scanned op ty r sat (fun ps k => (ps.take (k + 1)).drop (segStart segHead ps k)) ls) := by
  refine scanOut_eq hf hsat ?_ ?_
  · refine (congrArg (List.map _) (scanLanes_fst _)).trans ?_
    rw [List.map_map]
    refine List.map_congr_left fun x hx => ?_
    rw [Function.comp_apply, scanEntry, drop_segStart (lt_of_mem_zipIdx hx)]
    rfl
  · exact (scanLanes_snd _).trans (partFlags_congr fun k hk => (drop_segStart hk).symm)

theorem segmFn_tot_eq (hf : Ty.isFloat ty = true → ty = .f32) (hsat : op ≠ .add → sat = false) (ls : List LaneIn) :
    segmFn op ty r sat true ls
      = some (scanned op ty r sat (fun ps k => (ps.take (segEnd segHead ps k)).drop (segStart segHead ps k)) ls) := by
  refine scanOut_eq hf hsat ((segTotals_eq _).trans ?_) ?_
  · refine List.map_congr_left fun x hx => ?_
    rw [drop_segEnd (lt_of_mem_zipIdx hx)]
    rfl
  · exact (scanLanes_snd _).trans ((partFlags_segEnd _).trans (partFlags_congr fun k hk => (drop_segEnd hk).symm))

/-- One segment is combined from its first participant to its last. -/
theorem scanLanes_whole (ps : List LaneIn) :
    (match (scanLanes op ty r (fun _ => false) .start ps).1.getLast? with
      | some x => x.2.2
      | none => .start) = (accOf op ty r (valuesOf ps)).1
    ∧ (scanLanes op ty r (fun _ => false) .start ps).2 = (accOf op ty r (valuesOf ps)).2 := by
  induction ps using List.reverseRecOn with
  | nil => exact ⟨rfl, rfl⟩
  | append_singleton ps l ih =>
    rw [scanLanes_start_concat, List.getLast?_concat, lastSeg_whole, lastSeg_whole]
    refine ⟨rfl, ?_⟩
    rw [ih.2, valuesOf_concat, accOf_concat]
    rfl

theorem reduxFn_eq (hf : Ty.isFloat ty = true → ty = .f32) (hsat : op ≠ .add → sat = false) {uni : Bool} {ls : List LaneIn}
    (h : ∀ l ∈ ls, (uni || l.act) = l.act) : reduxFn op ty r sat uni ls
      = some (let c := combined op ty r sat ((participants false ls).map (fun l => opAt l.ops 0)); alike c.1 false c.2 ls) := by
  have hpart : participants uni ls = participants false ls := congrArg (sortBy _) (List.filter_congr h)
  obtain ⟨hacc, hflags⟩ := scanLanes_whole (op := op) (ty := ty) (r := r) (participants false ls)
  have hval := accVal_accOf (r := r) hf hsat (valuesOf (participants false ls))
  rw [← hacc, ← hflags] at hval
  rw [reduxFn, hpart]
  change some (alike _ false _ ls) = some (alike _ false _ ls)
  rw [valuesOf] at hval
  rw [← hval]
  rfl

end

/-! ### The instructions (R163) -/

section
variable {op : ROp} {o : F3} {u : FieldUse}

/-- A word that is well formed names f32 or an integer type, and SAT for integer sums only (R163). -/
theorem isFloat_of_legalScan (h : legalScan op u o = true) : Ty.isFloat o.ty = true → o.ty = .f32 := by
  have hsub : op.tys ⊆ [.i32, .n32, .i64, .n64, .f32] := by cases op <;> decide
  have hall : ∀ ty ∈ [Ty.i32, .n32, .i64, .n64, .f32], Ty.isFloat ty = true → ty = .f32 := by decide
  exact hall _ (hsub (ty_of_rule h))

theorem sat_of_legalScan (h : legalScan op u o = true) (hop : op ≠ .add) : o.sat = false := by
  have hadd : (op == .add) = false := by simpa using hop
  simp only [legalScan, F3Rule.ok, hadd, Bool.false_and, Bool.false_or, Bool.and_eq_true, Bool.not_eq_true'] at h
  tauto

/-- A combining instruction carries out the computation `f`. -/
theorem sweeps_combining {i : Instr} {more : List Src} {rule : DstRule} {gathers : Bool} {f : Bool → List LaneIn → Option CrossOut}
    {out : List LaneIn → CrossOut} {opc : BitVec 8} {sub : BitVec 4}
    (hexec : ∀ s, exec i s = .next (s.issueDesc i { crossDesc o.p (.reg o.d (Ty.regs o.ty)) none (srcOf o.ty o.a o.imm :: more) rule
      (fun uni _ ls => f uni ls) with laneToUni := gathers }))
    (hwf : i.wf = legalScan op u o) (henc : encode i = [o.word opc sub]) (hopc : abortsSpan opc.toNat = false)
    (hmore : more = [] ∨ ∃ c, more = [.pcode c])
    (hout : (Ty.isFloat o.ty = true → o.ty = .f32) → (op ≠ .add → o.sat = false) → ∀ uni ls,
      (∀ l ∈ ls, (uni || l.act) = l.act) → f uni ls = some (out ls)) :
    Sweeps i ⟨⟨o.p, .reg o.d (Ty.regs o.ty), .reg o.a (Ty.regs o.ty) (litVal o.ty o.imm) :: more⟩, none,
      rule == .laneShape || rule == .lanePlace, gathers, []⟩ always (fun _ => out) := by
  refine sweeps_of_crosses hexec (fun hw => crossDesc_crosses ?_ (dst_ne_lit (ne_lit_of_rule (hwf ▸ hw : legalScan op u o = true) rfl))
      (by simp) ?_) henc hopc fun hw _ _ _ _ uni _ => ?_
  · rcases hmore with rfl | ⟨c, rfl⟩ <;> simp [srcOf]
  · rcases hmore with rfl | ⟨c, rfl⟩ <;> simp [Dst.regs, Src.regs, srcOf, regs_pos]
  · have hlegal : legalScan op u o = true := hwf ▸ hw
    exact hout (isFloat_of_legalScan hlegal) (sat_of_legalScan hlegal) uni _ fun _ => act_of_seen

end

end Sys2Proof.Claims
end

/-- Settles O14: a scan goes on from the combination of the last segment, and what the model gives of a combination is that
of the statement, its flags included. -/
theorem combinations : Obligations.Combinations := by
  unfold Obligations.Combinations
  intro op o
  refine ⟨?_, ?_, ?_, ?_, ?_⟩
  · exact Sys2Proof.Claims.sweeps_combining (rule := .anyCore) (fun _ => rfl) rfl rfl rfl (.inl rfl)
      fun hf hsat _ _ => Sys2Proof.Claims.reduxFn_eq hf hsat
  · exact Sys2Proof.Claims.sweeps_combining (rule := .laneShape) (fun _ => rfl) rfl rfl rfl (.inl rfl)
      fun hf hsat _ ls _ => Sys2Proof.Claims.prefixFn_eq hf hsat ls
  · exact Sys2Proof.Claims.sweeps_combining (rule := .laneShape) (fun _ => rfl) rfl rfl rfl (.inl rfl)
      fun hf hsat _ ls _ => Sys2Proof.Claims.prefixFn_excl_eq hf hsat ls
  · exact Sys2Proof.Claims.sweeps_combining (rule := .laneShape) (fun _ => rfl) rfl rfl rfl (.inr ⟨_, rfl⟩)
      fun hf hsat _ ls _ => Sys2Proof.Claims.segmFn_eq hf hsat ls
  · exact Sys2Proof.Claims.sweeps_combining (rule := .laneShape) (fun _ => rfl) rfl rfl rfl (.inr ⟨_, rfl⟩)
      fun hf hsat _ ls _ => Sys2Proof.Claims.segmFn_tot_eq hf hsat ls
